-- ==== Sys2Proof/Word.lean ====
section
/-!
DEFINITION. The word types of the UZD-4800 model and their plainest names. Byte order, field extraction and
sign extension are operations and stand in Machine/Bits.lean.
-/

namespace Sys2Proof

/-- One byte of memory, of a block or of a datagram (R11). -/
abbrev Byte := BitVec 8
/-- An address register, a pointer or a MAC address: 48 bits (R133). -/
abbrev W48 := BitVec 48
/-- A data register or a long-word counter: 64 bits (R133). -/
abbrev W64 := BitVec 64
/-- A 32-bit port, register or instruction word (R132, R135). -/
abbrev W32 := BitVec 32
/-- A sparse table keyed by number: the listed keys differ from the table's default. -/
abbrev SMap (α : Type) := List (Nat × α)

end Sys2Proof
end

