-- ==== Sys2Proof/Machine/Bits.lean ====
section
/-!
DEFINITION. Bit fields, sign extension, byte order, sparse tables and lists in an order: the helpers every operation is written with.
-/

namespace Sys2Proof.Machine

/-- Bits `lo` and up of a number, `n` of them. -/
def field (x lo n : Nat) : Nat := (x / 2 ^ lo) % 2 ^ n

/-- Bit `k` of a number. -/
def bitAt (x k : Nat) : Bool := x.testBit k

/-- A truth value as a number. -/
def b2n (b : Bool) : Nat := if b then 1 else 0

/-- The `n`-byte little-endian encoding of a number (R11). -/
def toBytes : Nat → Nat → List Byte
  | 0, _ => []
  | n + 1, x => BitVec.ofNat 8 x :: toBytes n (x / 256)

/-- The number a little-endian byte sequence holds (R11). -/
def ofBytes : List Byte → Nat
  | [] => 0
  | b :: bs => b.toNat + 256 * ofBytes bs

/-- The signed value of the low `n` bits of a number. -/
def signed (n x : Nat) : Int :=
  let y := x % 2 ^ n
  if n ≠ 0 ∧ 2 ^ (n - 1) ≤ y then (y : Int) - 2 ^ n else y

/-- An integer kept modulo 2^n. -/
def wrap (n : Nat) (x : Int) : Nat := (x % (2 ^ n : Int)).toNat

/-- The entry of a sparse table at a key, if it is listed. -/
def sget {α : Type} (k : Nat) : SMap α → Option α
  | [] => none
  | (j, v) :: rest => if j = k then some v else sget k rest

/-- List or replace the entry of a sparse table at a key, keeping the keys rising. -/
def sset {α : Type} (k : Nat) (v : α) : SMap α → SMap α
  | [] => [(k, v)]
  | (j, u) :: rest =>
    if k < j then (k, v) :: (j, u) :: rest
    else if j = k then (k, v) :: rest
    else (j, u) :: sset k v rest

/-- Drop the entry of a sparse table at a key. -/
def sdel {α : Type} (k : Nat) : SMap α → SMap α
  | [] => []
  | (j, u) :: rest => if j = k then sdel k rest else (j, u) :: sdel k rest

/-- The entry of a sparse table at a key, or the given default. -/
def sgetD {α : Type} (k : Nat) (d : α) (m : SMap α) : α := (sget k m).getD d

/-- The first element of a list that satisfies a test, and the list without it. -/
def takeFirst {α : Type} (p : α → Bool) : List α → Option (α × List α)
  | [] => none
  | x :: xs => if p x then some (x, xs) else (takeFirst p xs).map (fun r => (r.1, x :: r.2))

/-- Replace the first element that satisfies a test. -/
def updFirst {α : Type} (p : α → Bool) (f : α → α) : List α → List α
  | [] => []
  | x :: xs => if p x then f x :: xs else x :: updFirst p f xs

/-- The sum of a list of numbers. -/
def sumN (xs : List Nat) : Nat := xs.foldl (· + ·) 0

/-- Apply a numbered step for 0, 1, …, n − 1. -/
def iter {α : Type} (n : Nat) (f : Nat → α → α) (x : α) : α := (List.range n).foldl (fun a k => f k a) x

/-- A list of bytes cut or zero-filled to a length. -/
def fitBytes (n : Nat) (bs : List Byte) : List Byte := (bs ++ List.replicate n 0).take n

/-- The bytes from an offset, `n` of them, zero past the end. -/
def bytesAt (bs : List Byte) (off n : Nat) : List Byte := fitBytes n (bs.drop off)

/-- The little-endian number of `n` bytes from an offset. -/
def numAt (bs : List Byte) (off n : Nat) : Nat := ofBytes (bytesAt bs off n)

/-- The 64-bit word `i` of a byte sequence (R11). -/
def wordAt (bs : List Byte) (i : Nat) : Nat := numAt bs (8 * i) 8

/-- The bytes of a list of 64-bit words (R11). -/
def wordsBytes (ws : List Nat) : List Byte := ws.flatMap (toBytes 8)

/-- Bits `lo` and up of a port value. -/
def fld (v : W32) (lo n : Nat) : Nat := field v.toNat lo n
/-- A port value. -/
def w32 (x : Nat) : W32 := BitVec.ofNat 32 x

/-- A list in the order `le`; entries of one rank stay as they stand. -/
def inOrder {α : Type} (le : α → α → Bool) (l : List α) : List α := l.insertionSort (fun x y => le x y = true)

end Sys2Proof.Machine
end

