-- ==== Sys2Proof/Syntax.lean ====
section
/-!
DEFINITION. The commands of the block: one constructor of `Instr` per row of the opcode table, with the operands
the row's rule gives it. An instruction row is one issue attempt of that instruction by a thread; an event row is
one occurrence of that event.
-/

namespace Sys2Proof

/-- Global core number 44b + c (R7). -/
abbrev CoreId := Fin 2112
/-- Bent number (R6). -/
abbrev BentId := Fin 48

/-- The issuing thread of an instruction: a core and one of its four threads (R8). -/
structure Who where
  core : CoreId
  thread : Fin 4
  deriving DecidableEq, Repr

/-- A plate (R21). -/
inductive Plate where
  | west | east
  deriving DecidableEq, Repr

/-- The second source of an ALU row: a data register or, when bit 5 is set, a mortise (R150); mortise numbers 16 to 31
are the reserved codes. -/
inductive Src where
  | reg (d : Fin 32)
  | mort (m : Fin 32)
  deriving DecidableEq, Repr

/-- The offset operand of a load or store (R146): a 12-bit offset or an index register and its shift. -/
inductive Offset where
  | off (o : BitVec 12)
  | idx (d : Fin 32) (sh : BitVec 3)
  deriving DecidableEq, Repr

/-- ACHAIN's forward target: tenon and TAG (R85). -/
structure Fwd where
  tenon : Fin 16
  tag : BitVec 6
  deriving DecidableEq, Repr

/-- A 64-byte scarf block as received, whether the FEC codewords that overlap it were correctable (R338), and the codewords
corrected and not correctable that the receiver has met since the block before (R365). -/
structure Block where
  bytes : List Byte
  fecOk : Bool
  corrected : Nat := 0
  lost : Nat := 0
  deriving DecidableEq, Repr

/-- Where a datagram was addressed (R371, R372). -/
inductive DstAddr where
  | linkLocal | globalV6 | v4 | allNodes | otherGroup
  deriving DecidableEq, Repr

/-- A received UDP datagram: arrival port, sender, destination, CE mark (R368) and payload. -/
structure Dgram where
  port : Fin 8
  src : BitVec 128
  srcPort : BitVec 16
  dst : DstAddr
  ce : Bool
  payload : List Byte
  deriving DecidableEq, Repr

/-- The Ridge and plate register blocks that a control core reaches (R332, R365, R369, R411, R417, R425). -/
inductive RegBlock where
  | layout | domain | net | irq | sill | plate (p : Plate)
  deriving DecidableEq, Repr

/-- A drawbore scope (R352): LOCAL of a bent, CHIP, or DOMAIN. -/
inductive DbScope where
  | bent (b : BentId) | chip | domain
  deriving DecidableEq, Repr

/-- The states of an Ethernet port (R370). -/
inductive PortLink where
  | down | train | up
  deriving DecidableEq, Repr

/-- What a code check of a memory word found (R401, R466). -/
inductive Ecc where
  | ok | correctable | uncorrectable
  deriving DecidableEq, Repr

/-- The wake sources of Sill-only (R424). -/
inductive WakeSource where
  | netb (port : Fin 8) (dg : Dgram) | scarf (l : Fin 8) | thermal | storyPole | timer
  deriving DecidableEq, Repr

/-- The Story Pole's alarms (R448). -/
inductive AlarmKind where
  | supplyLow | clockFault | senseRange (ch : Fin 16) | lineFault (b : BentId) | nvmFault
  deriving DecidableEq, Repr

/-- The dies of the TAP chain (R477). -/
inductive TapDie where
  | ridge | west | east
  deriving DecidableEq, Repr

/-- The commands: one constructor per row of the opcode table, in the table's order. -/
inductive Instr where
  | tmma (w : Who) (g : Fin 8) (ta : Fin 8) (tb : Fin 8)
  | tmman (w : Who) (g : Fin 8) (ta : Fin 8) (tb : Fin 8)
  | tmmas (w : Who) (g : Fin 8) (ta : Fin 8) (tb : Fin 8) (tm : Fin 8)
  | msync (w : Who)
  | stationaryLoadStart (c : CoreId)
  | matrixComputeStart (c : CoreId)
  | matrixUpdateComplete (c : CoreId)
  | aopen (w : Who) (g : Fin 8) (fa : BitVec 4) (fb : BitVec 4) (lse : BitVec 10)
  | aclose (w : Who) (g : Fin 8)
  | adrain (w : Who) (g : Fin 8) (td : Fin 8) (ts : Option (Fin 8)) (keep : Bool) (shift : BitVec 8)
  | drainBegin (w : Who)
  | apass (w : Who) (g : Fin 8) (n : Fin 16) (tag : BitVec 6)
  | achain (w : Who) (g : Fin 8) (m : Fin 16) (fwd : Option Fwd)
  | streamTupleTake (c : CoreId)
  | acurAbandon (w : Who) (s : Fin 32)
  | adbgW0Read (w : Who) (d : Fin 32)
  | tcfg (w : Who) (t : Fin 8) (rows : BitVec 6) (rbytes : BitVec 8) (fmt : BitVec 4)
  | tld (w : Who) (t : Fin 8) (b : Fin 16) (s : Fin 16) (x : Bool) (u : Bool)
  | tst (w : Who) (t : Fin 8) (b : Fin 16) (s : Fin 16) (x : Bool)
  | tileMoveRow (c : CoreId)
  | trdv (w : Who) (v : Fin 32) (t : Fin 8) (d : Fin 32) (h : Bool)
  | twrv (w : Who) (t : Fin 8) (d : Fin 32) (v : Fin 32) (h : Bool)
  | trel (w : Who) (s : Fin 32)
  | purlinTrelRelease (c : CoreId)
  | tcur (w : Who) (s : Fin 32)
  | add (w : Who) (d : Fin 32) (a : Fin 32) (b : Src)
  | adc (w : Who) (d : Fin 32) (a : Fin 32) (b : Src)
  | sub (w : Who) (d : Fin 32) (a : Fin 32) (b : Src)
  | sbc (w : Who) (d : Fin 32) (a : Fin 32) (b : Src)
  | cmp (w : Who) (a : Fin 32) (b : Src)
  | neg (w : Who) (d : Fin 32) (a : Fin 32)
  | and (w : Who) (d : Fin 32) (a : Fin 32) (b : Src)
  | or (w : Who) (d : Fin 32) (a : Fin 32) (b : Src)
  | xor (w : Who) (d : Fin 32) (a : Fin 32) (b : Src)
  | andn (w : Who) (d : Fin 32) (a : Fin 32) (b : Src)
  | not (w : Who) (d : Fin 32) (a : Fin 32)
  | aluTst (w : Who) (a : Fin 32) (b : Src)
  | shl (w : Who) (d : Fin 32) (a : Fin 32) (b : Src)
  | shr (w : Who) (d : Fin 32) (a : Fin 32) (b : Src)
  | sar (w : Who) (d : Fin 32) (a : Fin 32) (b : Src)
  | ror (w : Who) (d : Fin 32) (a : Fin 32) (b : Src)
  | mul (w : Who) (d : Fin 32) (a : Fin 32) (b : Src)
  | mulh (w : Who) (d : Fin 32) (a : Fin 32) (b : Src)
  | mulhu (w : Who) (d : Fin 32) (a : Fin 32) (b : Src)
  | div (w : Who) (d : Fin 32) (a : Fin 32) (b : Src)
  | divu (w : Who) (d : Fin 32) (a : Fin 32) (b : Src)
  | rem (w : Who) (d : Fin 32) (a : Fin 32) (b : Src)
  | remu (w : Who) (d : Fin 32) (a : Fin 32) (b : Src)
  | min (w : Who) (d : Fin 32) (a : Fin 32) (b : Src)
  | max (w : Who) (d : Fin 32) (a : Fin 32) (b : Src)
  | minu (w : Who) (d : Fin 32) (a : Fin 32) (b : Src)
  | maxu (w : Who) (d : Fin 32) (a : Fin 32) (b : Src)
  | clz (w : Who) (d : Fin 32) (a : Fin 32)
  | ctz (w : Who) (d : Fin 32) (a : Fin 32)
  | popc (w : Who) (d : Fin 32) (a : Fin 32)
  | sext (w : Who) (d : Fin 32) (a : Fin 32) (size : BitVec 4)
  | zext (w : Who) (d : Fin 32) (a : Fin 32) (size : BitVec 4)
  | mov (w : Who) (d : Fin 32) (b : Src)
  | sel (w : Who) (d : Fin 32) (a : Fin 32) (b : Src) (cond : BitVec 4)
  | addi (w : Who) (d : Fin 32) (a : Fin 32) (imm : BitVec 16)
  | cmpi (w : Who) (a : Fin 32) (imm : BitVec 16)
  | andi (w : Who) (d : Fin 32) (a : Fin 32) (imm : BitVec 16)
  | ori (w : Who) (d : Fin 32) (a : Fin 32) (imm : BitVec 16)
  | xori (w : Who) (d : Fin 32) (a : Fin 32) (imm : BitVec 16)
  | shli (w : Who) (d : Fin 32) (a : Fin 32) (amt : BitVec 6)
  | shri (w : Who) (d : Fin 32) (a : Fin 32) (amt : BitVec 6)
  | sari (w : Who) (d : Fin 32) (a : Fin 32) (amt : BitVec 6)
  | rori (w : Who) (d : Fin 32) (a : Fin 32) (amt : BitVec 6)
  | li (w : Who) (d : Fin 32) (imm : BitVec 16)
  | lih (w : Who) (d : Fin 32) (imm : BitVec 16)
  | adda (w : Who) (d : Fin 16) (a : Fin 16) (imm : BitVec 16)
  | addar (w : Who) (d : Fin 16) (a : Fin 16) (b : Fin 32) (sh : BitVec 3)
  | suba (w : Who) (d : Fin 32) (a : Fin 16) (b : Fin 16)
  | movad (w : Who) (d : Fin 16) (b : Fin 32)
  | movda (w : Who) (d : Fin 32) (a : Fin 16)
  | lia (w : Who) (d : Fin 16) (imm : BitVec 16)
  | liah (w : Who) (d : Fin 16) (imm : BitVec 16)
  | cmpa (w : Who) (a : Fin 16) (b : Fin 16)
  | mac (w : Who) (acc : Fin 4) (a : Fin 32) (b : Src)
  | macs (w : Who) (acc : Fin 4) (a : Fin 32) (b : Src)
  | msu (w : Who) (acc : Fin 4) (a : Fin 32) (b : Src)
  | msus (w : Who) (acc : Fin 4) (a : Fin 32) (b : Src)
  | acclr (w : Who) (acc : Fin 4)
  | accwr (w : Who) (acc : Fin 4) (a : Fin 32)
  | accrd (w : Who) (a : Fin 32) (acc : Fin 4) (sh : BitVec 6)
  | accrds (w : Who) (a : Fin 32) (acc : Fin 4) (sh : BitVec 6)
  | ld (w : Who) (d : Fin 32) (sz : BitVec 3) (b : Fin 16) (off : Offset) (u : Bool)
  | st (w : Who) (d : Fin 32) (sz : BitVec 3) (b : Fin 16) (off : Offset) (u : Bool)
  | lda (w : Who) (d : Fin 16) (sz : BitVec 3) (b : Fin 16) (off : Offset) (u : Bool)
  | sta (w : Who) (d : Fin 16) (sz : BitVec 3) (b : Fin 16) (off : Offset) (u : Bool)
  | fenceC (w : Who)
  | fenceF (w : Who)
  | fenceS (w : Who)
  | cinvC (w : Who)
  | cinvF (w : Who)
  | cinvS (w : Who)
  | cinvComplete (c : CoreId)
  | b (w : Who) (cond : BitVec 4) (off : BitVec 22)
  | bl (w : Who) (off : BitVec 26)
  | jr (w : Who) (a : Fin 16)
  | jlr (w : Who) (d : Fin 16) (a : Fin 16)
  | inp (w : Who) (d : Fin 32) (port : BitVec 16)
  | inr (w : Who) (d : Fin 32) (a : Fin 32)
  | out (w : Who) (port : BitVec 16) (s : Fin 32)
  | outr (w : Who) (a : Fin 32) (s : Fin 32)
  | send (w : Who) (n : Fin 16) (s : Fin 32) (k : BitVec 2) (tag : BitVec 6)
  | credit (w : Who) (d : Fin 32) (n : Fin 16)
  | recv (w : Who) (d : Fin 32) (m : Fin 16)
  | nop (w : Who)
  | wait (w : Who) (mask : BitVec 16)
  | waitWake (w : Who)
  | trap (w : Who) (code : BitVec 16)
  | brk (w : Who)
  | eret (w : Who)
  | ild (w : Who) (d : Fin 32) (b : Fin 16)
  | ist (w : Who) (b : Fin 16) (s : Fin 32)
  | pfx (w : Who) (imm : BitVec 26)
  | vaddF (w : Who) (et : BitVec 3) (vd : Fin 32) (va : Fin 32) (vb : Fin 32)
  | vsubF (w : Who) (et : BitVec 3) (vd : Fin 32) (va : Fin 32) (vb : Fin 32)
  | vmulF (w : Who) (et : BitVec 3) (vd : Fin 32) (va : Fin 32) (vb : Fin 32)
  | vfma (w : Who) (et : BitVec 3) (vd : Fin 32) (va : Fin 32) (vb : Fin 32)
  | vfms (w : Who) (et : BitVec 3) (vd : Fin 32) (va : Fin 32) (vb : Fin 32)
  | vminF (w : Who) (et : BitVec 3) (vd : Fin 32) (va : Fin 32) (vb : Fin 32)
  | vmaxF (w : Who) (et : BitVec 3) (vd : Fin 32) (va : Fin 32) (vb : Fin 32)
  | vabs (w : Who) (et : BitVec 3) (vd : Fin 32) (va : Fin 32)
  | vneg (w : Who) (et : BitVec 3) (vd : Fin 32) (va : Fin 32)
  | vaddI (w : Who) (et : BitVec 3) (vd : Fin 32) (va : Fin 32) (vb : Fin 32)
  | vsubI (w : Who) (et : BitVec 3) (vd : Fin 32) (va : Fin 32) (vb : Fin 32)
  | vmulI (w : Who) (et : BitVec 3) (vd : Fin 32) (va : Fin 32) (vb : Fin 32)
  | vadds (w : Who) (et : BitVec 3) (vd : Fin 32) (va : Fin 32) (vb : Fin 32)
  | vsubs (w : Who) (et : BitVec 3) (vd : Fin 32) (va : Fin 32) (vb : Fin 32)
  | vminI (w : Who) (et : BitVec 3) (vd : Fin 32) (va : Fin 32) (vb : Fin 32)
  | vmaxI (w : Who) (et : BitVec 3) (vd : Fin 32) (va : Fin 32) (vb : Fin 32)
  | vminu (w : Who) (et : BitVec 3) (vd : Fin 32) (va : Fin 32) (vb : Fin 32)
  | vmaxu (w : Who) (et : BitVec 3) (vd : Fin 32) (va : Fin 32) (vb : Fin 32)
  | vshl (w : Who) (et : BitVec 3) (vd : Fin 32) (va : Fin 32) (vb : Fin 32)
  | vshr (w : Who) (et : BitVec 3) (vd : Fin 32) (va : Fin 32) (vb : Fin 32)
  | vsar (w : Who) (et : BitVec 3) (vd : Fin 32) (va : Fin 32) (vb : Fin 32)
  | vand (w : Who) (et : BitVec 3) (vd : Fin 32) (va : Fin 32) (vb : Fin 32)
  | vor (w : Who) (et : BitVec 3) (vd : Fin 32) (va : Fin 32) (vb : Fin 32)
  | vxor (w : Who) (et : BitVec 3) (vd : Fin 32) (va : Fin 32) (vb : Fin 32)
  | vandn (w : Who) (et : BitVec 3) (vd : Fin 32) (va : Fin 32) (vb : Fin 32)
  | vnot (w : Who) (et : BitVec 3) (vd : Fin 32) (va : Fin 32)
  | vcmpeq (w : Who) (et : BitVec 3) (vd : Fin 32) (va : Fin 32) (vb : Fin 32)
  | vcmpne (w : Who) (et : BitVec 3) (vd : Fin 32) (va : Fin 32) (vb : Fin 32)
  | vcmplt (w : Who) (et : BitVec 3) (vd : Fin 32) (va : Fin 32) (vb : Fin 32)
  | vcmple (w : Who) (et : BitVec 3) (vd : Fin 32) (va : Fin 32) (vb : Fin 32)
  | vcmpgt (w : Who) (et : BitVec 3) (vd : Fin 32) (va : Fin 32) (vb : Fin 32)
  | vcmpge (w : Who) (et : BitVec 3) (vd : Fin 32) (va : Fin 32) (vb : Fin 32)
  | vcmpltu (w : Who) (et : BitVec 3) (vd : Fin 32) (va : Fin 32) (vb : Fin 32)
  | vcmpgeu (w : Who) (et : BitVec 3) (vd : Fin 32) (va : Fin 32) (vb : Fin 32)
  | vsel (w : Who) (et : BitVec 3) (vd : Fin 32) (va : Fin 32) (vb : Fin 32)
  | vclass (w : Who) (et : BitVec 3) (vd : Fin 32) (va : Fin 32)
  | vperm (w : Who) (et : BitVec 3) (vd : Fin 32) (va : Fin 32) (vb : Fin 32)
  | vslide (w : Who) (et : BitVec 3) (vd : Fin 32) (va : Fin 32) (db : Fin 32)
  | vbcl (w : Who) (et : BitVec 3) (vd : Fin 32) (va : Fin 32) (db : Fin 32)
  | vrsum (w : Who) (et : BitVec 3) (vd : Fin 32) (va : Fin 32)
  | vrmax (w : Who) (et : BitVec 3) (vd : Fin 32) (va : Fin 32)
  | vrmin (w : Who) (et : BitVec 3) (vd : Fin 32) (va : Fin 32)
  | vrargmax (w : Who) (et : BitVec 3) (vd : Fin 32) (va : Fin 32)
  | vcvt (w : Who) (vd : Fin 32) (va : Fin 32) (dst : BitVec 4) (fr : BitVec 4) (part : BitVec 2)
  | vexp (w : Who) (et : BitVec 3) (vd : Fin 32) (va : Fin 32)
  | vrcp (w : Who) (et : BitVec 3) (vd : Fin 32) (va : Fin 32)
  | vrsqrt (w : Who) (et : BitVec 3) (vd : Fin 32) (va : Fin 32)
  | vlog2 (w : Who) (et : BitVec 3) (vd : Fin 32) (va : Fin 32)
  | vld (w : Who) (v : Fin 32) (b : Fin 16) (off : BitVec 12) (u : Bool)
  | vst (w : Who) (v : Fin 32) (b : Fin 16) (off : BitVec 12)
  | vstn (w : Who) (v : Fin 32) (b : Fin 16) (dn : Fin 32)
  | vsplat (w : Who) (et : BitVec 3) (vd : Fin 32) (da : Fin 32)
  | vins (w : Who) (et : BitVec 3) (vd : Fin 32) (da : Fin 32) (db : Fin 32)
  | vext (w : Who) (et : BitVec 3) (d : Fin 32) (va : Fin 32) (db : Fin 32)
  | vexts (w : Who) (et : BitVec 3) (d : Fin 32) (va : Fin 32) (db : Fin 32)
  | vmov (w : Who) (et : BitVec 3) (vd : Fin 32) (va : Fin 32)
  | exceptionEntry (w : Who)
  | interruptEntry (w : Who)
  | lateStoreError (c : CoreId) (addr : BitVec 48)
  | restart (w : Who) (t : Fin 4) (s : Fin 32)
  | evpost (w : Who) (s : Fin 32)
  | tmrWrite (w : Who) (t : Option (Fin 4)) (s : Fin 32)
  | timerExpiry (w : Who)
  | cycleLoRead (w : Who) (d : Fin 32)
  | mworkLoRead (w : Who) (d : Fin 32)
  | clkAcquire (w : Who) (d : Fin 32) (n : Fin 32)
  | clkRelease (w : Who) (n : Fin 32) (s : Fin 32)
  | clforce (w : Who) (s : Fin 32)
  | blkRequest (w : Who) (d : Fin 32)
  | bentLockServe (b : BentId)
  | blkRelease (w : Who) (s : Fin 32)
  | blforce (w : Who) (s : Fin 32)
  | slot3UnitAccept (c : CoreId)
  | slot3UnitWrite (c : CoreId)
  | hcommit (w : Who) (s : Fin 32)
  | xring (w : Who) (s : Fin 32)
  | transferUnitIssue (b : BentId) (e : Fin 4)
  | imemUnitWrite (c : CoreId)
  | transferComplete (b : BentId) (e : Fin 4)
  | transferFail (b : BentId) (e : Fin 4)
  | xresRead (w : Who) (d : Fin 32)
  | lineFill (c : CoreId) (r : Fin 8)
  | evictionWriteback (c : CoreId)
  | ncommit (w : Who) (s : Fin 32)
  | routeCommitApply (c : CoreId)
  | tupleArrival (c : CoreId) (n : Fin 16)
  | creditReturn (c : CoreId) (n : Fin 16)
  | performanceNotice (w : Who)
  | mflush (w : Who) (s : Fin 32)
  | nforce (w : Who) (s : Fin 32)
  | remoteEgressFree (c : CoreId) (n : Fin 16)
  | remoteDelivery (p : Plate) (c : CoreId) (m : Fin 16)
  | stallLimitWrite (w : Who) (s : Fin 32)
  | tenonStallExpiry (c : CoreId) (n : Fin 16)
  | stillnessReport (c : CoreId)
  | sliceRequest (b : BentId) (sl : Fin 64)
  | routerArbitration (r : Fin 51) (o : Fin 7)
  | purlinWrite (c : CoreId) (port : BitVec 16) (v : BitVec 32)
  | purlinBwrite (bents : BitVec 48) (cores : BitVec 44) (port : BitVec 16) (v : BitVec 32) (at_ : Option W64)
  | purlinRead (c : CoreId) (port : BitVec 16)
  | purlinApply (c : CoreId)
  | go (v : BitVec 32)
  | descriptorLoad
  | layoutCut
  | layoutReplayRecord
  | launchCut (lane : Fin 7)
  | endNotice
  | stageOverlay (lane : Fin 7)
  | overlayStaged (cut : BitVec 20)
  | copyUnitIssue (cut : BitVec 20)
  | copyComplete (cut : BitVec 20)
  | copyFail (cut : BitVec 20)
  | noticeAccept (cut : BitVec 20)
  | ledgerTick
  | lcommit (v : BitVec 32)
  | gcommit (v : BitVec 32)
  | stillReport
  | cutTimeoutExpiry (cut : BitVec 20)
  | logRdWrite (v : BitVec 32)
  | counterReadClear (blk : RegBlock) (off : BitVec 16)
  | linkEnable (l : Fin 8) (v : BitVec 32)
  | linkTrainingEnd (l : Fin 8)
  | linkTrainTimeout (l : Fin 8)
  | laneLockLoss (l : Fin 8)
  | linkSilenceExpiry (l : Fin 8)
  | ident (l : Fin 8) (blk : Block)
  | idle (l : Fin 8) (blk : Block)
  | flitBlock (l : Fin 8) (blk : Block)
  | nak (l : Fin 8) (blk : Block)
  | nakRepeatExpiry (l : Fin 8)
  | blockTransmit (l : Fin 8)
  | recordForward (p : Plate)
  | ackRecord (c : CoreId)
  | lostRecord (c : CoreId)
  | time (l : Fin 8) (blk : Block)
  | drawbore (l : Fin 8) (blk : Block)
  | dreset (l : Fin 8) (blk : Block)
  | snap (l : Fin 8) (blk : Block)
  | beat
  | dbarrive (w : Who) (s : Fin 32)
  | drawboreComplete (sc : DbScope)
  | dbcommit (w : Who) (s : Fin 32)
  | dbcommitApply (b : BentId)
  | stepArm (lane : Fin 7)
  | stepComplete
  | stepTimeoutExpiry
  | snapArm (v : BitVec 32)
  | snapshotFreeze
  | dresetStart (v : BitVec 32)
  | join (v : BitVec 32)
  | leave (v : BitVec 32)
  | rtcommit (v : BitVec 32)
  | open_ (dg : Dgram)
  | close (dg : Dgram)
  | cmd (dg : Dgram)
  | tmpAck (dg : Dgram)
  | discover (dg : Dgram)
  | sessionIdleExpiry (n : Fin 64)
  | cplRetransmitExpiry (n : Fin 64)
  | identify (n : Fin 64)
  | attest (n : Fin 64)
  | attestCert (n : Fin 64)
  | reset (n : Fin 64)
  | openWindow (n : Fin 64)
  | closeWindow (n : Fin 64)
  | hostWindow (n : Fin 64)
  | graphLoad (n : Fin 64)
  | run (n : Fin 64)
  | abort (n : Fin 64)
  | budget (n : Fin 64)
  | meterRead (n : Fin 64)
  | domainJoin (n : Fin 64)
  | domainLeave (n : Fin 64)
  | debugEntryRead (n : Fin 64)
  | debugEngineRead (n : Fin 64)
  | debugDomainRead (n : Fin 64)
  | debugPortRead (n : Fin 64)
  | debugPortWrite (n : Fin 64)
  | freeze (n : Fin 64)
  | thaw (n : Fin 64)
  | threadStop (n : Fin 64)
  | threadGo (n : Fin 64)
  | log (n : Fin 64)
  | ubtWrite (dg : Dgram)
  | readReq (dg : Dgram)
  | readResp (dg : Dgram)
  | ubtAck (dg : Dgram)
  | ubtNak (dg : Dgram)
  | ubtRetransmitExpiry (u : BitVec 16)
  | pcommit (v : BitVec 32)
  | portStateChange (p : Fin 8) (st : PortLink)
  | pfcFrame (p : Fin 8) (prio : Fin 8) (pause : Bool)
  | arp (p : Fin 8) (target : BitVec 32) (mac : BitVec 48)
  | neighborSolicitation (p : Fin 8) (target : BitVec 128) (mac : BitVec 48)
  | echoRequest (p : Fin 8) (dst : BitVec 128) (payload : List Byte)
  | memoryRequest (p : Plate)
  | patrolRead (p : Plate) (line : Nat) (ecc : Ecc)
  | dataRetraining (sub : Fin 128)
  | pageWalkEnd (k : Fin 50) (vpn : BitVec 24) (ecc : Ecc)
  | pmcommit (w : Who) (s : Fin 32)
  | pageMapCommitEffect
  | interruptRaise (src : Fin 288)
  | iraise (v : BitVec 32)
  | interruptRoute
  | interruptDelivery (b : BentId)
  | wardenAck (b : BentId)
  | ieoi (n : Fin 8)
  | icommit (v : BitVec 32)
  | idleGateEntry
  | sillOnlyEntry
  | idleGateExit
  | wake (src : WakeSource)
  | sillTimer
  | temperatureSample (temps : List Nat)
  | referenceClockLoss
  | meterSilent
  | increment
  | inputLow
  | inputUndervoltage
  | inputOvervoltage
  | powerUp
  | railFault (branch : Fin 16)
  | resetNAssert (ns : Nat)
  | resetNRelease
  | moduleInsertion (inserted : Bool)
  | senseSample (uv : List Nat) (ua : List Nat)
  | intervalEnd
  | workCountFrameSend (b : BentId)
  | workCountFrame (b : BentId) (total : BitVec 64) (start : Bool) (crc : BitVec 16)
  | lineCrcTimeout (b : BentId)
  | recordClose
  | readSecond (recno : BitVec 64)
  | readJob (recno : BitVec 64)
  | readStatus
  | readCert
  | jobOpen
  | jobClose (label : BitVec 128)
  | update (image : List Byte)
  | bankSwitch
  | badCommand (code : BitVec 8)
  | alarm (kind : AlarmKind)
  | supplyLow
  | storyPolePowerUp
  | coldReset
  | frameReset
  | jobReset
  | coreReset (c : CoreId)
  | resetQuiesceEnd
  | scrubEnd
  | drcmdRead (w : Who) (s : Fin 32)
  | drcmdWrite (w : Who) (s : Fin 32)
  | dregselWrite (w : Who) (s : Fin 32)
  | trdata0Read (w : Who) (d : Fin 32)
  | bypass (die : TapDie) (tdi : Bool)
  | idcode (die : TapDie)
  | samplePreload (die : TapDie) (pins : Nat)
  | extest (die : TapDie) (enter : Bool)
  | bootStat (die : TapDie)
  | flashProg (die : TapDie) (off : Nat) (page : Option (List Byte))
  | flashRead (die : TapDie) (off : Nat) (len : Nat)
  | registerWrite (blk : RegBlock) (off : BitVec 16) (v : BitVec 32)
  | matrixComputeEnd (c : CoreId)
  | stationaryLoadEnd (c : CoreId)
  | referenceClockReturn
  | overvoltageRelease
  | slicePatrol (b : BentId) (sl : Fin 64) (line : BitVec 18) (ecc : Ecc)
  | perBankRefresh (sub : Fin 128) (bank : Fin 16)
  | ubtPacketSend (u : BitVec 16)
  | ubtRateRise (u : BitVec 16)
  | unsupportedFrame (p : Fin 8)
  deriving DecidableEq, Repr

end Sys2Proof
end

