-- ==== Sys2Proof/Decode.lean ====
section
/-!
DEFINITION. What a word spells. Every row of the opcode table is a command of the block with no bits of its own, so no table
word spells one (log entry 9). A word of a core's instruction memory spells an instruction of the thread that fetches it, by
the encodings of R49, R73, R99, R135 to R155, R162, R170 and R177.
-/

namespace Sys2Proof

/-- No row of the table gives bits: no word spells a command. -/
def decodeTableWord (_nbits _w : Nat) : Option Instr := none

open Machine (field)

/-- The bounded number that a field of a word names. -/
def fieldFin (n : Nat) [NeZero n] (x lo : Nat) (bits : Nat) : Fin n := Fin.ofNat n (field x lo bits)

/-- A field of a word as bits. -/
def fieldBits (x lo n : Nat) : BitVec n := BitVec.ofNat n (field x lo n)

/-- The instruction of a word all of whose fields marked "must be 0" are 0. -/
def zeros (ok : Bool) (i : Instr) : Option Instr := if ok then some i else none

/-- The second source of a Register-form or Accumulator-form word (R141, R145). -/
def srcOf (x blo mb : Nat) : Src :=
  if field x mb 1 = 1 then .mort (fieldFin 32 x blo 5) else .reg (fieldFin 32 x blo 5)

/-- A Register ALU word (R141); MB = 1 with the top bit of B, a size above 2 and condition 0xF are ILLEGAL (R138). -/
def decodeAlu (w : Who) (x : Nat) : Option Instr :=
  let d : Fin 32 := fieldFin 32 x 21 5
  let a : Fin 32 := fieldFin 32 x 16 5
  let b := srcOf x 11 10
  let c0 := field x 0 4 == 0
  let noD := field x 21 5 == 0
  let noA := field x 16 5 == 0
  let noB := field x 10 6 == 0
  if field x 10 1 = 1 ∧ field x 15 1 = 1 then none else
  match field x 4 6 with
  | 0x00 => zeros c0 (.add w d a b)
  | 0x01 => zeros c0 (.adc w d a b)
  | 0x02 => zeros c0 (.sub w d a b)
  | 0x03 => zeros c0 (.sbc w d a b)
  | 0x04 => zeros (c0 && noD) (.cmp w a b)
  | 0x05 => zeros (c0 && noB) (.neg w d a)
  | 0x06 => zeros c0 (.and w d a b)
  | 0x07 => zeros c0 (.or w d a b)
  | 0x08 => zeros c0 (.xor w d a b)
  | 0x09 => zeros c0 (.andn w d a b)
  | 0x0A => zeros (c0 && noB) (.not w d a)
  | 0x0B => zeros (c0 && noD) (.aluTst w a b)
  | 0x0C => zeros c0 (.shl w d a b)
  | 0x0D => zeros c0 (.shr w d a b)
  | 0x0E => zeros c0 (.sar w d a b)
  | 0x0F => zeros c0 (.ror w d a b)
  | 0x10 => zeros c0 (.mul w d a b)
  | 0x11 => zeros c0 (.mulh w d a b)
  | 0x12 => zeros c0 (.mulhu w d a b)
  | 0x13 => zeros c0 (.div w d a b)
  | 0x14 => zeros c0 (.divu w d a b)
  | 0x15 => zeros c0 (.rem w d a b)
  | 0x16 => zeros c0 (.remu w d a b)
  | 0x17 => zeros c0 (.min w d a b)
  | 0x18 => zeros c0 (.max w d a b)
  | 0x19 => zeros c0 (.minu w d a b)
  | 0x1A => zeros c0 (.maxu w d a b)
  | 0x1B => zeros (c0 && noB) (.clz w d a)
  | 0x1C => zeros (c0 && noB) (.ctz w d a)
  | 0x1D => zeros (c0 && noB) (.popc w d a)
  | 0x1E => zeros (noB && decide (field x 0 4 ≤ 2)) (.sext w d a (fieldBits x 0 4))
  | 0x1F => zeros (noB && decide (field x 0 4 ≤ 2)) (.zext w d a (fieldBits x 0 4))
  | 0x20 => zeros (c0 && noA) (.mov w d b)
  | 0x21 => zeros (field x 0 4 != 0xF) (.sel w d a b (fieldBits x 0 4))
  | _ => none

/-- An Immediate-form word (R143, R144); the top bit of a 5-bit address field is 0 (R135). -/
def decodeImm (w : Who) (op x : Nat) : Option Instr :=
  let d : Fin 32 := fieldFin 32 x 21 5
  let a : Fin 32 := fieldFin 32 x 16 5
  let ad : Fin 16 := fieldFin 16 x 21 4
  let aa : Fin 16 := fieldFin 16 x 16 4
  let imm := fieldBits x 0 16
  let amt := fieldBits x 0 6
  let shift := field x 6 10 == 0
  let noD := field x 21 5 == 0
  let noA := field x 16 5 == 0
  let dOk := field x 25 1 == 0
  match op with
  | 0b000001 => some (.addi w d a imm)
  | 0b000010 => zeros noD (.cmpi w a imm)
  | 0b000011 => some (.andi w d a imm)
  | 0b000100 => some (.ori w d a imm)
  | 0b000101 => some (.xori w d a imm)
  | 0b000110 => zeros shift (.shli w d a amt)
  | 0b000111 => zeros shift (.shri w d a amt)
  | 0b001000 => zeros shift (.sari w d a amt)
  | 0b001001 => zeros shift (.rori w d a amt)
  | 0b001010 => zeros noA (.li w d imm)
  | 0b001011 => zeros noA (.lih w d imm)
  | 0b010000 => zeros (dOk && field x 20 1 == 0) (.adda w ad aa imm)
  | 0b010100 => zeros (dOk && noA) (.lia w ad imm)
  | 0b010101 => zeros (dOk && noA) (.liah w ad imm)
  | _ => none

/-- An Address-form word (R135, R144). -/
def decodeAddr (w : Who) (op x : Nat) : Option Instr :=
  let fn := field x 10 1
  let base := field x 8 2 == 0 && field x 0 5 == 0
  let noSh := field x 5 3 == 0
  let dOk := field x 25 1 == 0
  let aOk := field x 20 1 == 0
  let bOk := field x 15 1 == 0
  let ad : Fin 16 := fieldFin 16 x 21 4
  let aa : Fin 16 := fieldFin 16 x 16 4
  let ab : Fin 16 := fieldFin 16 x 11 4
  match op with
  | 0b010001 => zeros (base && fn == 0 && dOk && aOk) (.addar w ad aa (fieldFin 32 x 11 5) (fieldBits x 5 3))
  | 0b010010 => zeros (base && fn == 0 && noSh && aOk && bOk) (.suba w (fieldFin 32 x 21 5) aa ab)
  | 0b010011 =>
    if fn = 0 then zeros (base && noSh && dOk && field x 16 5 == 0) (.movad w ad (fieldFin 32 x 11 5))
    else zeros (base && noSh && aOk && field x 11 5 == 0) (.movda w (fieldFin 32 x 21 5) aa)
  | 0b010110 => zeros (base && fn == 0 && noSh && field x 21 5 == 0 && aOk && bOk) (.cmpa w aa ab)
  | _ => none

/-- An Accumulator-form word (R145). -/
def decodeAcc (w : Who) (x : Nat) : Option Instr :=
  let acc : Fin 4 := fieldFin 4 x 20 2
  let a : Fin 32 := fieldFin 32 x 15 5
  let b := srcOf x 10 9
  let base := field x 0 3 == 0
  let noSh := field x 3 6 == 0
  let noB := field x 9 6 == 0
  let noA := field x 15 5 == 0
  if field x 9 1 = 1 ∧ field x 14 1 = 1 then none else
  match field x 22 4 with
  | 0x0 => zeros (base && noSh) (.mac w acc a b)
  | 0x1 => zeros (base && noSh) (.macs w acc a b)
  | 0x2 => zeros (base && noSh) (.msu w acc a b)
  | 0x3 => zeros (base && noSh) (.msus w acc a b)
  | 0x4 => zeros (base && noSh && noA && noB) (.acclr w acc)
  | 0x5 => zeros (base && noSh && noB) (.accwr w acc a)
  | 0x6 => zeros (base && noB) (.accrd w a acc (fieldBits x 3 6))
  | 0x7 => zeros (base && noB) (.accrds w a acc (fieldBits x 3 6))
  | _ => none

/-- A Memory-form word; a size or a U that R146 does not give is ILLEGAL. -/
def decodeMem (w : Who) (op x : Nat) : Option Instr :=
  let b : Fin 16 := fieldFin 16 x 17 4
  let sz := fieldBits x 14 3
  let u := field x 13 1 == 1
  let idx := field x 12 1 == 1
  let off : Offset := if idx then .idx (fieldFin 32 x 7 5) (fieldBits x 4 3) else .off (fieldBits x 0 12)
  let base := !idx || field x 0 4 == 0
  let d : Fin 32 := fieldFin 32 x 21 5
  let ad : Fin 16 := fieldFin 16 x 21 4
  let dOk := field x 25 1 == 0
  match op with
  | 0b011000 => zeros (base && sz != 7) (.ld w d sz b off u)
  | 0b011001 => zeros (base && field x 14 1 == 0 && !u) (.st w d sz b off u)
  | 0b011010 => zeros (base && dOk && sz == 6) (.lda w ad sz b off u)
  | 0b011011 => zeros (base && dOk && sz == 6 && !u) (.sta w ad sz b off u)
  | _ => none

/-- A FENCE or CINV word: SCOPE 0 is ILLEGAL (R155). -/
def decodeFence (w : Who) (x : Nat) : Option Instr :=
  if field x 0 20 ≠ 0 then none
  else
    match field x 22 4, field x 20 2 with
    | 0, 1 => some (.fenceC w)
    | 0, 2 => some (.fenceF w)
    | 0, 3 => some (.fenceS w)
    | 1, 1 => some (.cinvC w)
    | 1, 2 => some (.cinvF w)
    | 1, 3 => some (.cinvS w)
    | _, _ => none

/-- A word of the matrix group (R49, R73, R99). -/
def decodeMatrix (w : Who) (x : Nat) : Option Instr :=
  let g : Fin 8 := fieldFin 8 x 19 3
  let t16 : Fin 8 := fieldFin 8 x 16 3
  let t13 : Fin 8 := fieldFin 8 x 13 3
  let v : Fin 32 := fieldFin 32 x 14 5
  let d : Fin 32 := fieldFin 32 x 9 5
  let hi := field x 8 1 == 1
  let b : Fin 16 := fieldFin 16 x 15 4
  let s : Fin 16 := fieldFin 16 x 11 4
  let xb := field x 10 1 == 1
  let low := fun (n : Nat) => field x 0 n == 0
  match field x 22 4 with
  | 0x0 => zeros (low 13) (.tmma w g t16 t13)
  | 0x1 => zeros (low 10) (.tmmas w g t16 t13 (fieldFin 8 x 10 3))
  | 0x2 => zeros (low 13) (.tmman w g t16 t13)
  | 0x3 => zeros (low 22) (.msync w)
  | 0x4 => zeros (low 1) (.aopen w g (fieldBits x 15 4) (fieldBits x 11 4) (fieldBits x 1 10))
  | 0x5 => zeros (low 19) (.aclose w g)
  | 0x6 =>
    let sc := field x 12 1 == 1
    zeros (low 3 && (sc || field x 13 3 == 0))
      (.adrain w g t16 (if sc then some t13 else none) (field x 11 1 == 1) (fieldBits x 3 8))
  | 0x7 => zeros (low 9) (.apass w g b (fieldBits x 9 6))
  | 0x8 =>
    let fwd := field x 14 1 == 1
    zeros (low 4 && (fwd || field x 4 10 == 0))
      (.achain w g b (if fwd then some ⟨fieldFin 16 x 10 4, fieldBits x 4 6⟩ else none))
  | 0x9 => zeros (low 1) (.tcfg w g (fieldBits x 13 6) (fieldBits x 5 8) (fieldBits x 1 4))
  | 0xA => zeros (low 9) (.tld w g b s xb (field x 9 1 == 1))
  | 0xB => zeros (low 10) (.tst w g b s xb)
  | 0xC => zeros (low 8) (.trdv w v g d hi)
  | 0xD => zeros (low 8) (.twrv w g d v hi)
  | _ => none

/-- A Channel-form word (R155). -/
def decodeChannel (w : Who) (x : Nat) : Option Instr :=
  let n : Fin 16 := fieldFin 16 x 20 4
  let d : Fin 32 := fieldFin 32 x 15 5
  let base := field x 0 7 == 0
  let bare := field x 0 15 == 0
  match field x 24 2 with
  | 0 => zeros base (.send w n d (fieldBits x 13 2) (fieldBits x 7 6))
  | 1 => zeros bare (.credit w d n)
  | 2 => zeros (bare && field x 15 2 == 0) (.recv w d n)
  | _ => none

/-- A System-form word (R155); the fields that an instruction does not use are 0 (log entry 83). -/
def decodeSystem (w : Who) (x : Nat) : Option Instr :=
  let d : Fin 32 := fieldFin 32 x 17 5
  let b : Fin 16 := fieldFin 16 x 13 4
  let imm := fieldBits x 0 16
  let bare := field x 0 22 == 0
  match field x 22 4 with
  | 0x0 => zeros bare (.nop w)
  | 0x1 => zeros (field x 16 6 == 0) (.wait w imm)
  | 0x2 => zeros (field x 16 6 == 0) (.trap w imm)
  | 0x3 => zeros bare (.brk w)
  | 0x4 => zeros bare (.eret w)
  | 0x5 => zeros (field x 0 13 == 0) (.ild w d b)
  | 0x6 => zeros (field x 0 13 == 0) (.ist w b d)
  | _ => none

/-- A vector word (R162 to R170, R173, R177 and the *Scalar moves*); an ET outside its set is the instruction's own ILLEGAL. -/
def decodeVector (w : Who) (op x : Nat) : Option Instr :=
  let vd : Fin 32 := fieldFin 32 x 21 5
  let va : Fin 32 := fieldFin 32 x 16 5
  let vb : Fin 32 := fieldFin 32 x 11 5
  let et := fieldBits x 8 3
  let two := field x 0 2 == 0
  let one := two && field x 11 5 == 0
  let fn := field x 2 6
  match op with
  | 0b110000 =>
    match fn with
    | 0x00 => zeros two (.vaddF w et vd va vb)
    | 0x01 => zeros two (.vsubF w et vd va vb)
    | 0x02 => zeros two (.vmulF w et vd va vb)
    | 0x03 => zeros two (.vfma w et vd va vb)
    | 0x04 => zeros two (.vfms w et vd va vb)
    | 0x05 => zeros two (.vminF w et vd va vb)
    | 0x06 => zeros two (.vmaxF w et vd va vb)
    | 0x07 => zeros one (.vabs w et vd va)
    | 0x08 => zeros one (.vneg w et vd va)
    | _ => none
  | 0b110001 =>
    match fn with
    | 0x00 => zeros two (.vaddI w et vd va vb)
    | 0x01 => zeros two (.vsubI w et vd va vb)
    | 0x02 => zeros two (.vmulI w et vd va vb)
    | 0x03 => zeros two (.vadds w et vd va vb)
    | 0x04 => zeros two (.vsubs w et vd va vb)
    | 0x05 => zeros two (.vminI w et vd va vb)
    | 0x06 => zeros two (.vmaxI w et vd va vb)
    | 0x07 => zeros two (.vminu w et vd va vb)
    | 0x08 => zeros two (.vmaxu w et vd va vb)
    | 0x09 => zeros two (.vshl w et vd va vb)
    | 0x0A => zeros two (.vshr w et vd va vb)
    | 0x0B => zeros two (.vsar w et vd va vb)
    | 0x10 => zeros two (.vand w et vd va vb)
    | 0x11 => zeros two (.vor w et vd va vb)
    | 0x12 => zeros two (.vxor w et vd va vb)
    | 0x13 => zeros two (.vandn w et vd va vb)
    | 0x14 => zeros one (.vnot w et vd va)
    | _ => none
  | 0b110010 =>
    match fn with
    | 0x00 => zeros two (.vcmpeq w et vd va vb)
    | 0x01 => zeros two (.vcmpne w et vd va vb)
    | 0x02 => zeros two (.vcmplt w et vd va vb)
    | 0x03 => zeros two (.vcmple w et vd va vb)
    | 0x04 => zeros two (.vcmpgt w et vd va vb)
    | 0x05 => zeros two (.vcmpge w et vd va vb)
    | 0x06 => zeros two (.vcmpltu w et vd va vb)
    | 0x07 => zeros two (.vcmpgeu w et vd va vb)
    | 0x08 => zeros two (.vsel w et vd va vb)
    | 0x09 => zeros one (.vclass w et vd va)
    | _ => none
  | 0b110011 =>
    match fn with
    | 0x00 => zeros two (.vperm w et vd va vb)
    | 0x01 => zeros two (.vslide w et vd va vb)
    | 0x02 => zeros two (.vbcl w et vd va vb)
    | 0x08 => zeros one (.vrsum w et vd va)
    | 0x09 => zeros one (.vrmax w et vd va)
    | 0x0A => zeros one (.vrmin w et vd va)
    | 0x0B => zeros one (.vrargmax w et vd va)
    | _ => none
  | 0b110100 => zeros (field x 0 6 == 0) (.vcvt w vd va (fieldBits x 12 4) (fieldBits x 8 4) (fieldBits x 6 2))
  | 0b110101 =>
    match fn with
    | 0x00 => zeros one (.vexp w et vd va)
    | 0x01 => zeros one (.vrcp w et vd va)
    | 0x02 => zeros one (.vrsqrt w et vd va)
    | 0x03 => zeros one (.vlog2 w et vd va)
    | _ => none
  | 0b110110 =>
    let b : Fin 16 := fieldFin 16 x 17 4
    let u := field x 14 1 == 1
    let base := field x 12 2 == 0
    match field x 15 2 with
    | 0 => zeros base (.vld w vd b (fieldBits x 0 12) u)
    | 1 => zeros (base && !u) (.vst w vd b (fieldBits x 0 12))
    | 2 => zeros (base && !u && field x 0 7 == 0) (.vstn w vd b (fieldFin 32 x 7 5))
    | _ => none
  | 0b110111 =>
    match fn with
    | 0x00 => zeros one (.vsplat w et vd va)
    | 0x01 => zeros two (.vins w et vd va vb)
    | 0x02 => zeros two (.vext w et vd va vb)
    | 0x03 => zeros two (.vexts w et vd va vb)
    | 0x04 => zeros one (.vmov w et vd va)
    | _ => none
  | _ => none

/-- The instruction that a word of instruction memory spells for a thread; none raises ILLEGAL (R135, R138, R163). -/
def decodeWord (w : Who) (word : W32) : Option Instr :=
  let x := word.toNat
  let d : Fin 32 := fieldFin 32 x 21 5
  let a : Fin 32 := fieldFin 32 x 16 5
  let port := fieldBits x 0 16
  let op := field x 26 6
  match op with
  | 0b000000 => decodeAlu w x
  | 0b001100 => decodeAcc w x
  | 0b010001 | 0b010010 | 0b010011 | 0b010110 => decodeAddr w op x
  | 0b011000 | 0b011001 | 0b011010 | 0b011011 => decodeMem w op x
  | 0b011100 => decodeFence w x
  | 0b100000 => zeros (field x 22 4 != 0xF) (.b w (fieldBits x 22 4) (fieldBits x 0 22))
  | 0b100001 => some (.bl w (fieldBits x 0 26))
  | 0b100010 =>
    let aa : Fin 16 := fieldFin 16 x 17 4
    if field x 25 1 = 1 then zeros (field x 0 17 == 0) (.jlr w (fieldFin 16 x 21 4) aa)
    else zeros (field x 0 17 == 0 && field x 21 4 == 0) (.jr w aa)
  | 0b101000 => zeros (field x 16 5 == 0) (.inp w d port)
  | 0b101001 => zeros (field x 0 16 == 0) (.inr w d a)
  | 0b101010 => zeros (field x 16 5 == 0) (.out w port d)
  | 0b101011 => zeros (field x 0 16 == 0) (.outr w a d)
  | 0b101100 => decodeMatrix w x
  | 0b101101 => decodeChannel w x
  | 0b111000 => decodeSystem w x
  | 0b111111 => some (.pfx w (fieldBits x 0 26))
  | _ => if 0b110000 ≤ op ∧ op ≤ 0b110111 then decodeVector w op x else decodeImm w op x

end Sys2Proof
end

