-- ==== Sys2Proof/Machine/Numerics.lean ====
section
/-!
DEFINITION. Exact numbers and the element formats: decoding (R36), rounding to nearest even with subnormals (R80, R164),
the arithmetic of vector lanes (R164 to R166) and conversions (R172).
-/

namespace Sys2Proof.Machine

/-- A decoded element: NaN, an infinity, or ± m × 2^e exactly; m = 0 is a zero with its sign. -/
inductive Num where
  | nan
  | inf (neg : Bool)
  | fin (neg : Bool) (m : Nat) (e : Int)
  deriving DecidableEq, Repr

/-- How a format encodes infinities and NaN (R36). -/
inductive Special where
  | ieee | e4m3 | none_
  deriving DecidableEq, Repr

/-- A floating-point format: exponent bits, mantissa bits, bias, special encodings (R36). -/
structure Fmt where
  eb : Nat
  mb : Nat
  bias : Nat
  sp : Special
  deriving DecidableEq, Repr

/-- The formats of the *Floating-point element parameters* table (R36). -/
def fBF16 : Fmt := ⟨8, 7, 127, .ieee⟩
def fFP16 : Fmt := ⟨5, 10, 15, .ieee⟩
def fFP32 : Fmt := ⟨8, 23, 127, .ieee⟩
def fE4M3 : Fmt := ⟨4, 3, 7, .e4m3⟩
def fE5M2 : Fmt := ⟨5, 2, 15, .ieee⟩
def fE2M3 : Fmt := ⟨2, 3, 1, .none_⟩
def fE3M2 : Fmt := ⟨3, 2, 3, .none_⟩
def fE2M1 : Fmt := ⟨2, 1, 1, .none_⟩

/-- The number of bits of a format. -/
def Fmt.bits (f : Fmt) : Nat := 1 + f.eb + f.mb

/-- Decode an element (R36); subnormals are used at their exact value. -/
def Fmt.decode (f : Fmt) (x : Nat) : Num :=
  let neg := bitAt x (f.eb + f.mb)
  let ex := field x f.mb f.eb
  let mant := field x 0 f.mb
  let fin := Num.fin neg (if ex = 0 then mant else 2 ^ f.mb + mant) ((max ex 1 : Nat) - (f.bias : Int) - f.mb)
  if ex = 2 ^ f.eb - 1 then
    match f.sp with
    | .ieee => if mant = 0 then .inf neg else .nan
    | .e4m3 => if mant = 2 ^ f.mb - 1 then .nan else fin
    | .none_ => fin
  else fin

/-- The quotient of two numbers rounded to the nearest integer, ties to even. -/
def rne (n d : Nat) : Nat :=
  let q := n / d
  let r := n % d
  if 2 * r < d then q else if d < 2 * r then q + 1 else q + q % 2

/-- m × 2^k rounded to the nearest integer, ties to even. -/
def rneScale (m : Nat) (k : Int) : Nat := if 0 ≤ k then m * 2 ^ k.toNat else rne m (2 ^ (-k).toNat)

/-- The floor of the base-2 logarithm of m × 2^e for m ≠ 0. -/
def ilog2 (m : Nat) (e : Int) : Int := (Nat.log2 m : Int) + e

/-- The encoding of the largest finite magnitude of a format. -/
def Fmt.maxFinite (f : Fmt) : Nat :=
  match f.sp with
  | .ieee => (2 ^ f.eb - 1) * 2 ^ f.mb - 1
  | .e4m3 => 2 ^ (f.eb + f.mb) - 2
  | .none_ => 2 ^ (f.eb + f.mb) - 1

/-- The magnitude bits of m × 2^e rounded to nearest even at unbounded exponent: above `maxFinite` it overflows. -/
def Fmt.roundMag (f : Fmt) (m : Nat) (e : Int) : Nat :=
  if m = 0 then 0
  else
    let emin : Int := 1 - (f.bias : Int)
    let q := max (ilog2 m e) emin - f.mb
    let r := rneScale m (e - q)
    -- r × 2^q: the exponent field of a normal result is q + mb + bias, and a carry of r runs into it
    if r < 2 ^ f.mb then r else ((q + f.mb + f.bias).toNat - 1) * 2 ^ f.mb + r

/-- Set the sign bit of magnitude bits. -/
def Fmt.signed (f : Fmt) (neg : Bool) (mag : Nat) : Nat := mag + b2n neg * 2 ^ (f.eb + f.mb)

/-- The canonical NaN (R164, R172). -/
def Fmt.canonNan (f : Fmt) : Nat :=
  match f.sp with
  | .ieee => (2 ^ f.eb - 1) * 2 ^ f.mb + 2 ^ (f.mb - 1)
  | .e4m3 => 2 ^ (f.eb + f.mb) - 1
  | .none_ => 0

/-- What an infinity or an overflow of a sign encodes as (R80): an infinity, or the largest finite value. -/
def Fmt.infBits (f : Fmt) (neg : Bool) : Nat :=
  match f.sp with
  | .ieee => f.signed neg ((2 ^ f.eb - 1) * 2 ^ f.mb)
  | _ => f.signed neg f.maxFinite

/-- m × 2^e overflows the format after rounding. -/
def Fmt.overflows (f : Fmt) (m : Nat) (e : Int) : Bool := f.maxFinite < f.roundMag m e

/-- Encode a number, rounding to nearest even (R80, R164, R172). -/
def Fmt.encode (f : Fmt) : Num → Nat
  | .nan => f.canonNan
  | .inf neg => f.infBits neg
  | .fin neg m e => if f.overflows m e then f.infBits neg else f.signed neg (f.roundMag m e)

/-- The integer ±m. -/
def sint (neg : Bool) (m : Nat) : Int := if neg then -(m : Int) else m

/-- The exact sum; an exact zero sum of unlike signs is +0 (R164). -/
def Num.add : Num → Num → Num
  | .nan, _ => .nan
  | _, .nan => .nan
  | .inf a, .inf b => if a = b then .inf a else .nan
  | .inf a, _ => .inf a
  | _, .inf b => .inf b
  | .fin n1 m1 e1, .fin n2 m2 e2 =>
    let e := min e1 e2
    let x := sint n1 m1 * 2 ^ (e1 - e).toNat + sint n2 m2 * 2 ^ (e2 - e).toNat
    if x = 0 then .fin (n1 && n2 && m1 == 0 && m2 == 0) 0 e else .fin (decide (x < 0)) x.natAbs e

/-- The exact product (R39, R164). -/
def Num.mul : Num → Num → Num
  | .nan, _ => .nan
  | _, .nan => .nan
  | .inf a, .inf b => .inf (a != b)
  | .inf a, .fin n m _ => if m = 0 then .nan else .inf (a != n)
  | .fin n m _, .inf b => if m = 0 then .nan else .inf (n != b)
  | .fin n1 m1 e1, .fin n2 m2 e2 => .fin (n1 != n2) (m1 * m2) (e1 + e2)

/-- The sign inverted. -/
def Num.neg : Num → Num
  | .nan => .nan
  | .inf a => .inf (!a)
  | .fin n m e => .fin (!n) m e

/-- Multiply by 2^k exactly. -/
def Num.scale (k : Int) : Num → Num
  | .fin n m e => .fin n m (e + k)
  | x => x

/-- The IEEE order of two numbers; none when either is NaN, and −0 equals +0 (R166). -/
def Num.cmp : Num → Num → Option Ordering
  | .nan, _ => none
  | _, .nan => none
  | .inf a, .inf b => some (compare (b2n !a) (b2n !b))
  | .inf a, _ => some (if a then .lt else .gt)
  | _, .inf b => some (if b then .gt else .lt)
  | .fin n1 m1 e1, .fin n2 m2 e2 =>
    let e := min e1 e2
    some (compare (sint n1 m1 * 2 ^ (e1 - e).toNat) (sint n2 m2 * 2 ^ (e2 - e).toNat))

/-- The total order key of encoded bits that are not NaN, with −0 below +0 (R165). -/
def Fmt.key (f : Fmt) (x : Nat) : Int :=
  let mag := x % 2 ^ (f.eb + f.mb)
  if bitAt x (f.eb + f.mb) then -(mag : Int) - 1 else mag

/-- Bits that encode NaN. -/
def Fmt.isNan (f : Fmt) (x : Nat) : Bool := f.decode x == .nan

/-- The smaller or larger of two lanes; the canonical NaN when either is NaN (R165). -/
def Fmt.pick (f : Fmt) (larger : Bool) (x y : Nat) : Nat :=
  if f.isNan x || f.isNan y then f.canonNan
  else if larger then (if f.key x < f.key y then y else x)
  else (if f.key y < f.key x then y else x)

/-- A number rounded to an integer, ties to even, and clamped to the signed range of `w` bits; NaN gives 0 (R172). -/
def Num.toInt (w : Nat) : Num → Int
  | .nan => 0
  | .inf neg => if neg then -(2 ^ (w - 1)) else 2 ^ (w - 1) - 1
  | .fin neg m e =>
    let r := sint neg (rneScale m e)
    if r < -(2 ^ (w - 1)) then -(2 ^ (w - 1)) else if 2 ^ (w - 1) ≤ r then 2 ^ (w - 1) - 1 else r

/-- An integer as a number. -/
def Num.ofInt (x : Int) : Num := .fin (decide (x < 0)) x.natAbs 0

/-- The VCLASS code of encoded bits: the class plus 8 when the sign bit is 1 (R167). -/
def Fmt.classOf (f : Fmt) (x : Nat) : Nat :=
  let c := match f.decode x with
    | .nan => 4
    | .inf _ => 3
    | .fin _ m _ => if m = 0 then 0 else if field x f.mb f.eb = 0 then 1 else 2
  c + 8 * b2n (bitAt x (f.eb + f.mb))

end Sys2Proof.Machine
end

