-- ==== Sys2Proof/Config.lean ====
section
/-!
DEFINITION. The free values: what the manual leaves open or only bounds, and the keys and fused secrets that it does not
print, as constants without a body. No proof can see their values; a claim about the model holds whatever they are.
-/

namespace Sys2Proof.Config

/-- A value the manual leaves open, fresh for each number of the state's free-value counter (log entry 3). -/
opaque freeNat : Nat → Nat

/-- The special-function unit: a fixed function of the function number, the element type and the input bits (R173), of which
the manual gives bounds (log entry 10). -/
opaque sfu : Nat → Nat → Nat → Nat

/-- RSASSA-PSS verification of a message and signature under a public modulus (R440, R446, R453). -/
opaque pssVerify : List Byte → List Byte → List Byte → Bool

/-- The Story Pole's signature of a record body, with the salt that a number stands for (R440). -/
opaque poleSign : List Byte → Nat → List Byte
/-- The SHA-256 of the Story Pole's public key, and its certificate (R431, R440). -/
opaque poleKeyHash : List Byte
opaque poleCert : List Byte
/-- SERIAL as the Story Pole's own memory holds it (R439). -/
opaque poleSerial : Nat
/-- The hash of the metrology update key in the Story Pole's mask ROM (R447). -/
opaque poleUpdateHash : List Byte

/-- The initial value of the CRC-16 of a work-count frame, of which the manual gives the polynomial (R436). -/
opaque lineCrcInit : BitVec 16

/-- The identity key's signature of a quote body, with the salt that a number stands for (R457). -/
opaque quoteSign : List Byte → Nat → List Byte
/-- HFW, the hash of the image-signing key in the Ridge's mask ROM (R453). -/
opaque hfw : List Byte
/-- The configuration record's signature checks under a key whose hash is HCFG (R453, R454). -/
opaque recordOk : List Byte → List Byte → Bool
/-- The helper data and wrapped key of a configuration record give this Ridge its identity key (R454, R456). -/
opaque identityOk : List Byte → List Byte → Bool
/-- The 32 bytes that extend MR2 and MR5, of whose fields the manual gives the order and not the places (R455). -/
opaque measure : Nat → List Nat → List Byte
/-- The field of a setting in the part of the configuration record whose layout the manual does not give: none when the
record does not name it (R452; log entry 5). -/
opaque setting : Nat → List Byte → Option Nat

end Sys2Proof.Config
end

