-- ==== Sys2Proof/Machine/State.lean ====
section
/-!
DEFINITION. The state of the block: every register, buffer, queue, counter, mode and pin the manual gives the module,
the queue of waiting commands, and the model's clock and free-value counter. Plain data throughout.
-/

namespace Sys2Proof.Machine

/-! ### Threads (05 R133, 07 R184 to R215) -/

/-- The states of a thread (R184). -/
inductive TState where
  | running | waiting | halted | stopped
  deriving DecidableEq, Repr

/-- An exception that has been found and not yet entered (R196). -/
structure Exc where
  code : Nat
  detail : Nat := 0
  epc : BitVec 20
  eaddr : W48 := 0
  /-- CYCLE in which it was found (R196). -/
  at_ : Nat := 0
  deriving DecidableEq, Repr

/-- A register or a flag, as R159 counts what an instruction reads and writes. `mode` stands for MODE, MIE and EXL. -/
inductive Reg where
  | d (r : Fin 32)
  | a (r : Fin 16)
  | acc (r : Fin 4)
  | z
  | n
  | c
  | v
  | mode
  deriving DecidableEq, Repr

/-- How an instruction issues: whether it takes a prefix (R136), whether it is of a group that pairs on a peg core, and what
R159 asks of it. -/
structure Form where
  takesPfx : Bool := false
  pairs : Bool := false
  reads : List Reg := []
  writes : List Reg := []
  /-- It accesses the data or I/O space, is a divide, names a mortise, transfers control. -/
  access : Bool := false
  div : Bool := false
  mort : Bool := false
  jump : Bool := false
  deriving DecidableEq, Repr

/-- The first word of a peg core's slot, once it has completed with a second to follow it in the slot: the CYCLE of the slot, and
its form (R159). -/
structure Paired where
  slot : Nat
  form : Form
  deriving DecidableEq, Repr

/-- What a stalled instruction of a thread waits for (R158 and the rules it cites). -/
inductive Stall where
  | credit        -- SEND without a credit (R244)
  | mortise       -- an empty mortise (R151)
  | msync         -- MSYNC (R48)
  | stream        -- APASS or ACHAIN running on the stream unit (R90, R91)
  | tileMove      -- a tile move running on the tile move unit (R111, R116)
  | engine        -- a full matrix engine (R52)
  | interlock     -- a tile, group or unit interlock (R54, R75, R83, R111)
  | drain         -- an ADRAIN waiting to begin (R83)
  | load          -- a load waiting for its data (R157)
  | store         -- a store the store path does not accept (R157, R234)
  | lock          -- a bent lock request at its unit (R209)
  | fence         -- a FENCE (R157)
  | cinv          -- a CINV (R157)
  | port          -- an OUT whose port states a stall (R126, R224)
  deriving DecidableEq, Repr

/-- A lock of either unit (R210). -/
inductive LockRef where
  | core (n : Fin 32)
  | bent (n : Fin 256)
  deriving DecidableEq, Repr

/-- A tuple in progress in the stream unit of an ACHAIN: the CYCLE of its send or of the end of its addition, and the copy to
send on (R87, R92, R250). -/
structure Taken where
  due : Nat
  words : List W64
  deriving DecidableEq, Repr

/-- The stream cursor ACUR of a thread: tuples completed, the carried part of a split entry, and copies of added tuples that
are still to be sent on (R87, R91). -/
structure Acur where
  active : Bool := false
  achain : Bool := false
  g : Fin 8 := 0
  chan : Fin 16 := 0
  tuples : Nat := 0
  carry : Nat := 0
  carryBits : Nat := 0
  taken : List Taken := []
  deriving DecidableEq, Repr

/-- One entry of a thread's result queue (R229). -/
structure XResult where
  seq : Nat
  code : Nat
  eng : Fin 4
  bytes : Nat
  deriving DecidableEq, Repr

/-- A thread: its registers, status, save registers, event and interrupt inputs, ports of its own, and the instruction
it is in the middle of. -/
structure Thread where
  d : Vector W64 32 := Vector.replicate 32 0
  a : Vector W48 16 := Vector.replicate 16 0
  acc : Vector (BitVec 72) 4 := Vector.replicate 4 0
  v : Vector (BitVec 2048) 32 := Vector.replicate 32 0
  pc : BitVec 20 := 0
  fz : Bool := false
  fn : Bool := false
  fc : Bool := false
  fv : Bool := false
  mode : Bool := true
  mie : Bool := false
  exl : Bool := false
  estat : W32 := 0
  epc : BitVec 20 := 0
  eaddr : W48 := 0
  vbase : BitVec 20 := 0
  ipend : BitVec 11 := 0
  extVec : BitVec 20 := 0
  evpend : BitVec 16 := 0
  tstate : TState := .halted
  brkstop : Bool := false
  dfcode : BitVec 6 := 0
  dfpc : BitVec 20 := 0
  escr : Vector W32 4 := Vector.replicate 4 0
  /-- CYCLE at which the armed timer reaches 0 (R190). -/
  timer : Option Nat := none
  /-- The mask of the WAIT in progress (R189). -/
  waitMask : BitVec 16 := 0
  lkevEn : Bool := false
  lkevEvt : Fin 16 := 0
  lockRec : Option LockRef := none
  blsel : BitVec 8 := 0
  cycleHi : W32 := 0
  mworkHi : W32 := 0
  adbgW : BitVec 96 := 0
  adbgCls : BitVec 2 := 0
  trLatch : BitVec 128 := 0
  xsrc : W64 := 0
  xdst : W64 := 0
  xlen : W32 := 0
  xctl : W32 := 0
  xallow : Nat := 16
  xres : List XResult := []
  xoutstanding : Nat := 0
  xseq : Nat := 0
  xresDone : W32 := 0
  /-- XSTAT.WHY of the last submission (R224). -/
  xwhy : BitVec 2 := 0
  acur : Acur := {}
  stall : Option Stall := none
  /-- The tenon, mortise or other number the stall waits on. -/
  stallOn : Nat := 0
  /-- Tuples, addressed units and stores to Ridge SRAM of this thread not yet known performed (R294, R416). -/
  notices : Nat := 0
  /-- Notices on their way from before the latest reset of the core. -/
  late : Nat := 0
  /-- Modules to which sends of this thread on REMOTE = 1 routes may not all have been acknowledged (R295). -/
  remoteTo : List Nat := []
  /-- The eviction serial a FENCE in progress waits for (R294). -/
  fence : Option Nat := none
  /-- First CYCLE at which the next instruction may issue (R157). -/
  nextIssue : Nat := 0
  /-- Bits 31:6 of a prefixed immediate, between the words of a pair (R136). -/
  pfx : Option (BitVec 26) := none
  /-- The instruction of this slot with which the next may form a pair (R159). -/
  pair : Option Paired := none
  found : Option Exc := none
  /-- The tile whose move this thread's latest stop left with a cursor (R195, R115). -/
  tileCur : Option (Fin 8) := none
  /-- The debugger's stop not yet taken, and single step (R473, R474). -/
  stopReq : Bool := false
  stepOnce : Bool := false
  wasWaiting : Bool := false
  deriving DecidableEq, Repr

/-! ### Matrix engine, groups and tiles (02, 03, 04) -/

/-- The class of an accumulator or a product (R66, R39). -/
inductive Cls where
  | fin | pinf | ninf | nan
  deriving DecidableEq, Repr

/-- One accumulator: its window integer and class (R66). -/
structure Accum where
  w : BitVec 96 := 0
  cls : Cls := .fin
  deriving DecidableEq, Repr

/-- An accumulation group (R66); accumulator (i, j) is entry columns × i + j, unlisted ones are 0 and finite. -/
structure Group where
  opened : Bool := false
  owner : Fin 4 := 0
  fa : BitVec 4 := 0
  fb : BitVec 4 := 0
  lse : BitVec 10 := 0
  inx : Bool := false
  sat : Bool := false
  acc : SMap Accum := []
  deriving DecidableEq, Repr

/-- A tile register with its scale side store and row cursor (R97 to R118); byte (r, n) of the elements is entry
128 r + n, scale byte q of row r is entry 8 r + q, unlisted bytes are 0. -/
structure Tile where
  rows : Nat := 0
  rbytes : Nat := 0
  fmt : BitVec 4 := 0
  owner : Fin 4 := 0
  inx : Bool := false
  sat : Bool := false
  ract : Bool := false
  rdir : Bool := false
  rx : Bool := false
  row : Nat := 0
  data : SMap Byte := []
  scale : SMap Byte := []
  deriving DecidableEq, Repr

/-- The stages of an accepted matrix instruction (R52, R58 to R60); the numbers are CYCLE values. -/
inductive MatStage where
  | accepted (at_ : Nat)
  | loading (until_ : Nat)
  | loaded (at_ : Nat)
  | computing (until_ : Nat)
  | updating (due : Nat)
  deriving DecidableEq, Repr

/-- An accepted matrix instruction, with the operand contents of its acceptance (R54). -/
structure MatJob where
  serial : Nat
  thread : Fin 4
  g : Fin 8
  ta : Fin 8
  tb : Fin 8
  tm : Option (Fin 8)
  neg : Bool
  opA : Tile
  opB : Tile
  opM : Option Tile
  stage : MatStage
  deriving DecidableEq, Repr

/-- An ADRAIN waiting to begin (R83). -/
structure DrainWait where
  g : Fin 8
  td : Fin 8
  ts : Option (Fin 8)
  keep : Bool
  shift : BitVec 8
  issued : Nat
  deriving DecidableEq, Repr

/-- A converted row of a drain between its read and its write: the bytes of its elements, its scale byte, and whether it
sets SAT (R80 to R83). -/
structure DrainRow where
  row : Nat
  bytes : List Byte
  scale : Option Byte
  sat : Bool
  deriving DecidableEq, Repr

/-- A drain that has begun: the CYCLE of its first row read, the rows it moves, the rows read and written so far, and the
converted rows between (R79, R83). -/
structure DrainRun where
  g : Fin 8
  td : Fin 8
  ts : Option (Fin 8)
  keep : Bool
  shift : BitVec 8
  start : Nat
  rows : Nat
  /-- Cycles from the read of a row to its write. -/
  lag : Nat
  read : Nat := 0
  written : Nat := 0
  rowsIn : List DrainRow := []
  /-- The group's INX and SAT at the drain's last read, and SAT of a row. -/
  inx : Bool := false
  sat : Bool := false
  deriving DecidableEq, Repr

/-- The instruction running on the stream unit (R90). -/
structure StreamJob where
  thread : Fin 4
  achain : Bool
  g : Fin 8
  chan : Fin 16
  fwd : Option Fwd
  tag : BitVec 6
  /-- Tuples completed: sent by an APASS, added and sent on by an ACHAIN (R91). -/
  tuples : Nat
  carry : Nat := 0
  carryBits : Nat := 0
  /-- The instruction resumed an active cursor (R91). -/
  resumed : Bool := false
  /-- CYCLE from which the next tuple may be sent (R92). -/
  nextSend : Nat := 0
  /-- Tuples of an ACHAIN taken and still in progress, at most two (R250). -/
  taken : List Taken := []
  deriving DecidableEq, Repr

/-- The tile move in progress (R111). -/
structure TileMove where
  thread : Fin 4
  t : Fin 8
  store : Bool
  x : Bool
  u : Bool
  base : W48
  stride : W48
  row : Nat
  /-- CYCLE in which the latest row moved, or the issue cycle plus 1. -/
  last : Nat
  /-- The current row has been translated before (R406). -/
  tried : Bool := false
  /-- Lines of TLD.U requested and not read yet, and those read: the line, its bytes and the clock of its arrival (R108). -/
  asked : List Nat := []
  got : List (Nat × List Byte × Nat) := []
  deriving DecidableEq, Repr

/-! ### Scratchpad, cache and transfers (08) -/

/-- Where a slot-3 unit or a transfer unit came from, so that its completion is reported there (R222, R228, R255). -/
inductive Origin where
  | transfer (bent : BentId) (eng : Fin 4) (req unit : Nat)
  | tuple (core : CoreId) (thread : Fin 4) (tenon : Fin 16) (epoch : Nat) (tag : BitVec 6)
  | remoteTuple (plate : Plate) (tag : BitVec 6) (smod sgcore : Nat)
  | ubt (session epoch psn unit : Nat)
  | copy (cut unit : Nat)
  | none_
  deriving DecidableEq, Repr

/-- A slot-3 unit (R218). `src` numbers the source as HRDROP.SRC does; `remote` marks a remote write (R220);
`bad` marks an addressed unit whose word 0 is not a valid offset (R254). -/
structure Unit3 where
  src : Nat
  off : Nat
  data : List Byte
  /-- Bytes that the unit reads; 0 for a write. -/
  reads : Nat := 0
  remote : Bool
  bad : Bool := false
  origin : Origin
  /-- The clocks at which its source sent it and at which it reaches the core. -/
  injected : Nat
  due : Nat
  /-- Its flit, when it comes over the mesh. -/
  flit : Nat := 0
  /-- CYCLE of acceptance, once accepted. -/
  accepted : Option Nat := none
  deriving DecidableEq, Repr

/-- A unit for an instruction memory (R227). -/
structure ImemUnit where
  src : Nat
  addr : Nat
  data : List Byte
  origin : Origin
  injected : Nat
  due : Nat
  flit : Nat := 0
  deriving DecidableEq, Repr

/-- The destination of a load (R146, R177). -/
inductive LoadDest where
  | d (r : Fin 32) (bytes : Nat) (sext : Bool)
  | a (r : Fin 16)
  | v (r : Fin 32)
  deriving DecidableEq, Repr

/-- One access of a scratchpad in a frame: its slot, and what it does (R217). -/
inductive FrameAct where
  | write (slot loc : Nat) (data : List Byte)
  | load (thread : Fin 4) (dest : LoadDest) (loc n : Nat)
  deriving DecidableEq, Repr

/-- The accesses of a scratchpad in the frame in progress, in slot order, and the bytes they replaced, the latest first
(R217). -/
structure FrameLog where
  frame : Nat := 0
  acts : List FrameAct := []
  undo : List (Nat × Byte) := []
  deriving DecidableEq, Repr

/-- A housing window (R221, R223). -/
structure Window where
  base : Nat := 0
  limit : Nat := 0
  maskLo : W32 := 0
  maskHi : W32 := 0
  deriving DecidableEq, Repr

/-- A cached line: its location (byte address of the location / 64), bytes, the bytes written since the fill, way and
recency (R231 to R234). -/
structure CLine where
  key : Nat
  data : List Byte
  mask : BitVec 64
  way : Nat
  stamp : Nat
  deriving DecidableEq, Repr

/-- A request merged into a miss register (R232, R233). -/
inductive MissReq where
  | load (thread : Fin 4)
  | store (off : Nat) (data : List Byte)
  | tile
  deriving DecidableEq, Repr

/-- A miss register in use: the line it serves, its requests in acceptance order, and the line's bytes once they have
arrived with whether they carry an uncorrectable error (R232, R233). -/
structure MissReg where
  key : Nat
  reqs : List MissReq
  data : Option (List Byte) := none
  err : Bool := false
  /-- The clock of its arrival, and the flit that brings it. -/
  due : Nat := 0
  flit : Nat := 0
  deriving DecidableEq, Repr

/-- An entry of the eviction buffer with its serial number (R235, R294). -/
structure EvEntry where
  key : Nat
  data : List Byte
  mask : BitVec 64
  serial : Nat
  /-- Its write has been requested (R267). -/
  sent : Bool := false
  deriving DecidableEq, Repr

/-- A load whose data has not all arrived: its destination, address as located, length, the bytes so far, and the
words of its instruction (R157, R232). -/
structure LoadOp where
  dest : LoadDest
  pieces : List (Nat × Nat)
  got : List (Nat × List Byte)
  uncached : Bool
  words : Nat
  /-- For an uncached load: the clock by which the data read so far has arrived. -/
  due : Nat := 0
  deriving DecidableEq, Repr

/-- The scopes (R289). -/
inductive Scope where
  | core | frame | system
  deriving DecidableEq, Repr

/-- A CINV in progress (R236): the set that its walk comes to next, 128 once the walk has ended, the CYCLE of that set, and the
eviction serial its write-backs end with. -/
structure Cinv where
  thread : Fin 4
  scope : Scope
  set : Nat := 0
  at_ : Nat
  serial : Nat := 0
  deriving DecidableEq, Repr

/-! ### Channels (09) -/

/-- A tenon (R241 to R260). `stallStart` is the CYCLE from which its stall counter counts. -/
structure Tenon where
  shadow : W32 := 0
  active : W32 := 0
  credits : Nat := 8
  epoch : Nat := 0
  stallStart : Option Nat := none
  stallReported : Bool := false
  deriving DecidableEq, Repr

/-- Who is owed the credit of a mortise entry (R249, R256). -/
inductive CreditTo where
  | tenon (core : CoreId) (n : Fin 16) (epoch : Nat)
  | plate (p : Plate)
  deriving DecidableEq, Repr

/-- A mortise entry (R239). -/
structure Entry where
  words : List W64
  k : BitVec 2
  tag : BitVec 6
  stream : Bool
  credit : CreditTo
  deriving DecidableEq, Repr

/-! ### A core -/

/-- A core: its threads, engines, windows, cache, channels and ports. CYCLE is `clock` less `cyc0`, or `frozenAt` less
`cyc0` while the core is frozen (R182, R471). -/
structure Core where
  threads : Vector Thread 4 := Vector.replicate 4 {}
  cyc0 : Nat := 0
  frozenAt : Option Nat := none
  coreHalt : Bool := false
  /-- The core is held from the stop of a reset until its scrub has ended (R464). -/
  held : Bool := false
  /-- Core locks CLK0 to CLK31: the holding thread (R207). -/
  locks : SMap (Fin 4) := []
  mat : List MatJob := []
  /-- First CYCLE after the latest computation ended (R59, R60). -/
  arrayFrom : Nat := 0
  /-- Matrix instructions accepted so far, which number them (R48). -/
  matSerial : Nat := 0
  mwork : W64 := 0
  groups : Vector Group 8 := Vector.replicate 8 {}
  tiles : Vector Tile 8 := Vector.replicate 8 {}
  /-- First CYCLE in which each tile is free of the interlocks that have ended (R54, R83, R111), and each group of the updates
  and streams that have ended (R75, R83). -/
  tileFree : Vector Nat 8 := Vector.replicate 8 0
  groupFree : Vector Nat 8 := Vector.replicate 8 0
  drainWait : Vector (Option DrainWait) 4 := Vector.replicate 4 none
  drains : List DrainRun := []
  stream : Option StreamJob := none
  tileMove : Option TileMove := none
  /-- Purlin writes to TREL held at the core (R126). -/
  trelHeld : List W32 := []
  /-- The registers that the stalled OUT to TREL of each thread names (R126). -/
  trelWait : Vector (Option (BitVec 8)) 4 := Vector.replicate 4 none
  /-- Each tile as it stood before its latest release, and the CYCLE of that, in which TSTAT still shows it (R125, R126). -/
  released : Vector (Nat × Tile) 8 := Vector.replicate 8 (0, {})
  /-- The accesses of the scratchpad in the frame in progress (R217). -/
  frame : FrameLog := {}
  /-- First CYCLE in which the special-function unit can be taken again (R176). -/
  sfuFrom : Nat := 0
  winShadow : Vector Window 8 := Vector.replicate 8 {}
  winActive : Vector Window 8 := Vector.replicate 8 {}
  hrdrop : W32 := 0
  hsdrop : W48 := 0
  hsdropMore : Bool := false
  seaddr : W48 := 0
  seMore : Bool := false
  unitQ : List Unit3 := []
  /-- First clock at which a further slot-3 unit, or a further instruction-memory unit, may be accepted (R218, R227). -/
  unitFrom : Nat := 0
  imemFrom : Nat := 0
  imemQ : List ImemUnit := []
  isegx : BitVec 16 := 0
  cache : List CLine := []
  cacheStamp : Nat := 0
  miss : Vector (Option MissReg) 8 := Vector.replicate 8 none
  loads : Vector (Option LoadOp) 4 := Vector.replicate 4 none
  evb : List EvEntry := []
  evSerial : Nat := 0
  evDone : Nat := 0
  cinv : Option Cinv := none
  /-- Lines of the tile move in progress whose bytes are delivered as 0 (R410). -/
  tileZero : List Nat := []
  dchits : W32 := 0
  dcmisses : W32 := 0
  tenons : Vector Tenon 16 := Vector.replicate 16 {}
  ncommitPending : Bool := false
  nstalled : BitVec 16 := 0
  stallLimit : W32 := 3000000
  mortises : Vector (List Entry) 16 := Vector.replicate 16 []
  movf : BitVec 16 := 0
  stillCtl : W32 := 0x80001000
  still : Bool := false
  /-- Sends on REMOTE = 1 routes to each module that no ACK or LOST record has answered (R295, R339). -/
  remoteOut : SMap Nat := []
  /-- CYCLE from which the core has been still (R261, R262): a core fresh from reset, with its threads HALTED, from the first. -/
  stillFrom : Option Nat := some 0
  /-- The purlin's own latches of the latching reads (R496). -/
  pCycleHi : W32 := 0
  pMworkHi : W32 := 0
  pAdbgW : BitVec 96 := 0
  pAdbgCls : BitVec 2 := 0
  pTrLatch : BitVec 128 := 0
  whalt : BitVec 44 := 0
  wstill : BitVec 44 := 0
  wprio : BitVec 4 := 0
  pmvpn : W32 := 0
  pment : W32 := 0
  pmRef : Bool := false
  adbgSel : W32 := 0
  /-- Outstanding drawbore arrivals by scope: the TAG and the clock of the arrival (R352). -/
  dbPend : Vector (Option (BitVec 6 × Nat)) 3 := Vector.replicate 3 none
  dbDup : Bool := false
  dbOrphan : Bool := false
  /-- The GANG or SIDE cut that runs on this core (R352). -/
  runsCut : Option Nat := none
  mcstat : W32 := 0
  mcaddr : W48 := 0
  mcMore : Bool := false
  secc : W32 := 0
  dregsel : W32 := 0
  dreg : W64 := 0
  dregErr : Bool := false
  trctl : W32 := 0
  deriving DecidableEq, Repr

/-! ### Traffic between blocks (09, 10, 11) -/

/-- A tuple or addressed unit in flight (R239, R245, R254); `due` is the clock of its arrival. -/
structure Tuple where
  sender : CoreId
  thread : Fin 4
  tenon : Fin 16
  epoch : Nat
  target : CoreId
  mort : Fin 16
  addr : Bool
  words : List W64
  k : BitVec 2
  tag : BitVec 6
  stream : Bool
  due : Nat
  flit : Nat
  deriving DecidableEq, Repr

/-- A credit travelling back to a tenon (R249, R260). -/
structure Credit where
  core : CoreId
  tenon : Fin 16
  epoch : Nat
  due : Nat
  /-- The core it comes from; none when a remote egress agent returns it (R256). And its flit when it comes over the mesh. -/
  source : Option CoreId
  flit : Nat := 0
  /-- The credit is also the performance notice of an addressed unit of this thread (R294). -/
  notice : Option (Fin 4) := none
  deriving DecidableEq, Repr

/-- A performance notice travelling back to a thread (R294). -/
structure Notice where
  who : Who
  due : Nat
  flit : Nat := 0
  deriving DecidableEq, Repr

/-- A word stored to a window of Ridge SRAM on its way to the block behind it: the number of its window word, the word, the
storing thread and the flit (R319, R327, R416). -/
structure RidgeMsg where
  num : Nat
  word : W64
  who : Who
  due : Nat
  flit : Nat
  deriving DecidableEq, Repr

/-- An ACK or LOST record on its way to a core: the acknowledging module, the count, and the flit (R339). -/
structure AckIn where
  core : CoreId
  module : Nat
  count : Nat
  lost : Bool
  flit : Nat
  deriving DecidableEq, Repr

/-- The credit of an entry that came through a plate, on its way back to that plate (R256). -/
structure PlateCredit where
  plate : Plate
  core : CoreId
  mort : Fin 16
  due : Nat
  flit : Nat
  deriving DecidableEq, Repr

/-- A purlin transaction on its way (R282, R283). -/
inductive PurlinKind where
  | write (v : W32)
  | read
  deriving DecidableEq, Repr

/-- A purlin transaction: its target, port, value and the clock of its effect. -/
structure Purlin where
  core : CoreId
  port : BitVec 16
  kind : PurlinKind
  due : Nat
  /-- Its place in the order of issue (R284). -/
  serial : Nat := 0
  deriving DecidableEq, Repr

/-- A flit on its way between two endpoints (R271 to R276): its channel, the router input buffer that holds it or that it is
bound for, and the FCYC at which it enters that buffer. `hops` are the outputs still to pass with the router and input each
leads to; `waiting` marks a flit not yet in its first buffer; `exit` is the clock at which it reaches its destination, once it
has left the mesh. No command waits for a flit with `auto`. -/
structure Flit where
  serial : Nat
  vc : Fin 4
  src : Nat
  dst : Nat
  router : Nat
  inPort : Nat
  stamp : Nat
  waiting : Bool
  hops : List (Nat × Nat × Nat)
  /-- FCYC at which it left its source's router. -/
  left : Option Nat := none
  exit : Option Nat := none
  auto : Bool := false
  deriving DecidableEq, Repr

/-- An effect that takes hold in a later cycle than the step that causes it, as rules that say 'in the cycle after' ask. -/
inductive Later where
  | events (w : Who) (mask : BitVec 16)
  | cause (w : Who) (bit : Nat)
  | halted (warden : CoreId) (bit : Nat)
  | stilled (warden : CoreId) (bit : Nat)
  | dropIn (c : CoreId) (src off : Nat)
  | dropOut (c : CoreId) (addr : Nat)
  | xresult (w : Who) (r : XResult) (event : Option (Fin 16))
  | lockFree (c : CoreId) (l : LockRef)
  | trel (c : CoreId) (mask : BitVec 8)
  | windows (c : CoreId) (set : Vector Window 8)
  | purlinRead (v : W32)
  | extClear (w : Who)
  | source (n : Nat)
  | load (w : Who) (bs : List Byte)
  | performed (w : Who)
  /-- A freeze or a thaw of a core, or of the device. -/
  | freeze (c : Option CoreId)
  | thaw (c : Option CoreId)
  /-- A thread stop reaches the thread's slot. -/
  | stop (w : Who)
  /-- A completion walk comes to an entry that names a cut (R314). -/
  | edge (cut : Nat)
  deriving DecidableEq, Repr

/-! ### A bent (07 R209, 08, 10 R266, 15 R406, 18 R476) -/

/-- A bent lock request at the unit (R209). -/
structure LockReq where
  who : Who
  d : Fin 32
  lock : Fin 256
  /-- The clock of its issue; it reaches the unit 8 cycles later. -/
  issued : Nat
  deriving DecidableEq, Repr

/-- Whose transfer request it is (R224, R320, R383). -/
inductive XOwner where
  | thread (w : Who)
  | stage (cut : Nat)
  deriving DecidableEq, Repr

/-- How a range of bytes is reached: in a scratchpad, an instruction memory or Ridge SRAM, as pieces of lines, not at all, or
not yet (R107, R108, R226). -/
inductive RowPath where
  | scratch (loc : Nat)
  | cache (ps : List (Nat × Nat))
  | fault (code : Nat)
  | walk
  deriving DecidableEq, Repr

/-- A transfer unit whose source is being read: its offset and length, where its bytes come from and go, the pieces read so far, and the
clock of the data's arrival, known once the bytes have been passed on (R226, R280). -/
structure XUnit where
  off : Nat
  n : Nat
  src : RowPath
  dst : RowPath
  pieces : Nat
  got : List (Nat × List Byte) := []
  err : Bool := false
  due : Nat := 0
  sent : Bool := false
  deriving DecidableEq, Repr

/-- A transfer request held by an engine (R224 to R228). `next` is the offset of the next unit to issue, `open_` the units
issued and not settled, `reading` those whose data has not arrived, `failed` the code and byte count of a failure. -/
structure XReq where
  owner : XOwner
  reqId : Nat
  home : CoreId
  src : Nat
  dst : Nat
  len : Nat
  dspace : Bool
  dcore : Nat
  even : Bool
  evt : Fin 16
  seq : Nat
  next : Nat := 0
  open_ : List Nat := []
  reading : List XUnit := []
  failed : Option (Nat × Nat) := none
  /-- The clock at which the engine learns of the failure, and that after its last unit so far has ended. -/
  learned : Nat := 0
  doneAt : Nat := 0
  /-- The clock at which it was submitted (R224). -/
  submitted : Nat := 0
  /-- First clock at which the next unit may be issued, and whether its pages have been translated before (R226, R406). -/
  from_ : Nat := 0
  tried : Bool := false
  deriving DecidableEq, Repr

/-- Whom a memory access answers (R235, R267, R411). -/
inductive ReqOwner where
  | miss (core : CoreId) (r : Fin 8)
  | load (core : CoreId) (thread : Fin 4) (piece : Nat)
  | tile (core : CoreId)
  | engine (bent : BentId) (eng : Fin 4) (req unit piece : Nat)
  | copy (cut unit piece : Nat)
  | evict (core : CoreId) (serial : Nat)
  | origin (o : Origin)
  deriving DecidableEq, Repr

/-- A request for a slice or an LPDDR6 controller: a read, or a write of bytes of one line (R267, R411). `home` is the endpoint
it comes from, `entered` the clock at which it enters the queue, and `flit` its flit while it is on its way over the mesh. -/
structure MemReq where
  port : Nat
  key : Nat
  wr : Option (List (Nat × Byte))
  owner : ReqOwner
  home : Nat
  entered : Nat
  flit : Nat := 0
  deriving DecidableEq, Repr

/-- A page map walk in progress (R406). -/
structure Walk where
  vpn : Nat
  due : Nat
  deriving DecidableEq, Repr

/-- A tuple held at a bent's remote egress agent (R256). -/
structure Egress where
  tup : Tuple
  /-- The domain number and channel of its route. -/
  dmod : Nat
  vc : Fin 4
  deriving DecidableEq, Repr

/-- A page map cache with its walks (R406); the most recently used entry stands first. -/
structure PmCache where
  entries : List (Nat × W32) := []
  walks : List Walk := []
  /-- Pages whose walk met an uncorrectable error: their next lookup is PAGE_ABSENT (R410). -/
  bad : List Nat := []
  deriving DecidableEq, Repr

/-- A page map commit on its way to the page map unit, and the thread that stalls on it (R407). -/
structure PmCommit where
  vpn : Nat
  ent : W32
  who : Option Who
  arrives : Nat
  src : Nat
  deriving DecidableEq, Repr

/-- A bent: its locks, transfer engines, slices, page map cache, barrier node, egress agent, trace buffer and work-count
line. -/
structure Bent where
  locks : SMap Who := []
  lockReqs : List LockReq := []
  engines : Vector (List XReq) 4 := Vector.replicate 4 []
  /-- Requests entered so far, which number them (R226). -/
  xferSerial : Nat := 0
  slices : SMap (List MemReq) := []
  /-- Staging requests that wait for room in engine 3 (R224, R320). -/
  stageQ : List XReq := []
  /-- First clock at which each slice performs a further request; the clocks from the present on that agents without a request of their
  own have taken at it, at which each requestor port is answered, and at which it presents a request; and the requests that a port
  holds, oldest first (R267 to R269). -/
  sliceFrom : SMap Nat := []
  sliceUsed : SMap (List Nat) := []
  replyUsed : SMap (List Nat) := []
  portUsed : SMap (List Nat) := []
  portHeld : SMap (List MemReq) := []
  /-- First clock at which the lock unit serves a further request (R209). -/
  lockFrom : Nat := 0
  pm : PmCache := {}
  pmhits : W32 := 0
  pmmisses : W32 := 0
  egress : List Egress := []
  lgen : Nat := 0
  dbShadow : BitVec 44 := 0
  dbActive : BitVec 44 := 0
  dbPending : Bool := false
  /-- The clock and the core of the latest write to each half of the shadow mask (R354). -/
  dbLast : Vector (Nat × Nat) 2 := Vector.replicate 2 (0, 0)
  lineTotal : W64 := 0
  lineRestart : Bool := false
  lineSent : Nat := 0
  /-- Clock from which the next frame goes out: one a period (R436). -/
  lineFrom : Nat := 0
  /-- Event entries by number, the number of the next one, the drops, and the queue with the clock it was counted at
  (R476). -/
  trace : SMap (BitVec 128) := []
  traceHead : Nat := 0
  traceDrop : W32 := 0
  traceQueue : Nat × Nat := (0, 0)
  trsel : W32 := 0
  /-- Uncorrectable words of this bent's shared memory, as location / 8 (R466). -/
  sliceUe : List Nat := []
  /-- Single-bit errors corrected in the bent's slices (R466, R467). -/
  corrected : Nat := 0
  deriving DecidableEq, Repr

/-- A plate's memory registers and controllers (R398 to R411): training, error counts, waiting requests, and the clock to
which a sub-channel is held by retraining. -/
structure Xmem where
  ready : Bool := false
  failed : BitVec 8 := 0
  xce : W32 := 0
  xue : W32 := 0
  xueaddr : Nat := 0
  queue : List MemReq := []
  held : SMap Nat := []
  pm : PmCache := {}
  deriving DecidableEq, Repr

/-! ### Scarf links and the domain (13) -/

/-- The kinds of a record (R339). -/
inductive RKind where
  | empty | tuple | addr | ack | lost
  deriving DecidableEq, Repr

/-- A record of a flit block (R339). -/
structure Rec where
  kind : RKind
  dmod : Nat
  smod : Nat
  bent : Nat
  core : Nat
  mort : Nat := 0
  k : Nat := 0
  tag : Nat := 0
  mark : Bool := false
  sgcore : Nat := 0
  words : List W64 := []
  count : Nat := 0
  deriving DecidableEq, Repr

/-- A record waiting in a plate or in a link queue: its channel, the plate port or link it came from (mesh ports 0 to 6,
links 7 to 10), and the FCYC at which it entered (R340, R341). -/
structure Queued where
  record : Rec
  vc : Fin 4
  port : Nat
  /-- The link it arrived on, if it came from a link. -/
  link : Option (Fin 8) := none
  /-- The received flit that brought it, by number (R339). -/
  rx : Nat := 0
  /-- Its flit, while it is on its way over the mesh. -/
  flit : Nat := 0
  stamp : Nat
  deriving DecidableEq, Repr

/-- The states of a scarf link (R336). -/
inductive LState where
  | down | train | align | up
  deriving DecidableEq, Repr

/-- A sequenced block as sent: its number, its block-word fields, its 52 message bytes and the records it holds (R342). -/
structure Sent where
  seq : Nat
  bt : Nat
  vc : Fin 4
  skind : Nat
  body : List Byte
  recs : List Rec
  deriving DecidableEq, Repr

/-- A scarf link (R334 to R343). Credits, freed totals and queues are indexed by virtual channel. -/
structure Link where
  ctrl : W32 := 0
  state : LState := .down
  miswire : Bool := false
  combine : Bool := false
  peerNum : Nat := 0
  peerLink : Nat := 0
  fecCorr : W32 := 0
  fecUnc : W32 := 0
  replays : W32 := 0
  downCause : BitVec 4 := 0
  downCount : BitVec 16 := 0
  /-- Clock at which training began (R336). -/
  since : Nat := 0
  idents : Nat := 0
  seq : Nat := 0
  eseq : Nat := 0
  /-- SEQ of the last block accepted, sent as ACKSEQ (R338). -/
  acked : Nat := 4095
  replayBuf : List Sent := []
  /-- A NAK has named this SEQ: blocks are resent from there on (R342). -/
  resend : Option Nat := none
  credits : Vector Nat 4 := Vector.replicate 4 0
  freed : Vector Nat 4 := Vector.replicate 4 0
  peerFreed : Vector Nat 4 := Vector.replicate 4 0
  queues : Vector (List Queued) 4 := Vector.replicate 4 []
  /-- Sync messages waiting: the clock from which each may be sent, SKIND and message bytes (R341, R355). -/
  syncQ : List (Nat × Nat × List Byte) := []
  /-- Records of the blocks of the flit in progress still to send (R339). -/
  flit : Option (Fin 4 × List (Option Rec)) := none
  flits : Nat := 0
  /-- A discard is being repaired: a NAK is due or has been sent; NAKs sent for this SEQ and the clock of the last (R342). -/
  nakDue : Bool := false
  nakOpen : Bool := false
  naks : Nat := 0
  nakAt : Nat := 0
  lastValid : Nat := 0
  invalidRun : Nat := 0
  /-- Flits received so far, which number them; the number and the blocks so far of the flit being received on each channel; and
  of each flit that occupies a receive buffer the blocks still to come and the records still in the plate (R338, R339). -/
  rxCount : Nat := 0
  rxBlocks : Vector (Nat × Nat) 4 := Vector.replicate 4 (0, 0)
  rxFlits : Vector (SMap Nat) 4 := Vector.replicate 4 []
  /-- First block boundary at which the transmitter sends again, in 1/25 of a cycle (R335). -/
  txFrom : Nat := 0
  /-- Drawbore values last received (R355) and the clock of the parent's latest TIME block (R350). -/
  rxStep : Nat := 0
  rxBeat : Nat := 0
  rxDgen : Nat := 0
  rxTime : Option (Nat × Nat) := none
  deriving DecidableEq, Repr

/-- A plate's records: those to forward, those held for a core of this module, and those it has sent to one (R256, R345). -/
structure PlateRecs where
  inbox : List Queued := []
  held : List Queued := []
  /-- Tuples on their way to their mortises, with the FCYC of their arrival. -/
  flying : List Queued := []
  deriving DecidableEq, Repr

/-- A BEAT cut that is armed (R357). -/
structure Armed where
  lane : Nat
  cut : Nat
  step : Nat
  /-- Clock of the arming. -/
  at_ : Nat
  reported : Bool := false
  /-- The beat of the launch, once the step has completed. -/
  launch : Option Nat := none
  deriving DecidableEq, Repr

/-- The domain registers and the combiner (R344 to R365). -/
structure Domain where
  root : Bool := false
  domId : W32 := 0
  param : W32 := 0
  joined : Bool := false
  beatLock : Bool := false
  slip : Bool := false
  snapDone : Bool := false
  dstep : W32 := 0
  stepTimeout : W32 := 1000000
  beat : Nat := 0
  beatf : Nat := 0
  /-- The clock of the latest beat. -/
  beatClk : Nat := 0
  /-- The adjustment a of the next beat (R349), from -3 to 3. -/
  adjust : Int := 0
  beatOfs : BitVec 16 := 0
  locked : Nat := 0
  beatHi : W32 := 0
  beatfHi : W32 := 0
  snapBeat : W32 := 0
  snapArm : Bool := false
  snapFrozen : Bool := false
  dresetGen : BitVec 16 := 0
  dslips : W32 := 0
  rt : SMap W32 := []
  rtAct : SMap W32 := []
  ownStep : Nat := 0
  ownBeat : Nat := 0
  ownDgen : Nat := 0
  cStep : Nat := 0
  cBeat : Nat := 0
  cDgen : Nat := 0
  armed : Option Armed := none
  /-- CUT and DOMAIN generations completed (R354). -/
  cgen : Nat := 0
  dgen : Nat := 0
  /-- A local DOMAIN generation has completed and waits for c.dgen, and the clock at which that last changed (R356). -/
  dgenWait : Bool := false
  cDgenAt : Nat := 0
  deriving DecidableEq, Repr

/-! ### The Layout engine (12) -/

/-- The states of a cut (R310). -/
inductive CutState where
  | wait | ready | laid | staged | running | complete | failed
  deriving DecidableEq, Repr

/-- A cut: the fields of its descriptor (R306), its counter store entry (R310), and its progress. -/
structure Cut where
  kind : Nat
  lane : Nat
  part : Nat
  prio : Nat
  predCount : Nat
  succCount : Nat
  ordinal : Nat
  energy : Nat
  ovl : Bool
  beat : Bool
  succPtr : Nat
  ovlSegs : Nat
  ovlSrc : Nat
  ovlLen : Nat
  ovlDst : Nat
  entry : Nat
  paramPtr : Nat
  bentMask : Nat
  coreMask : Nat
  timeout : Nat
  user : W64
  st : CutState
  place : Nat
  done : Nat
  next : Nat
  seq : Nat := 0
  /-- FCYC at launch (R328). -/
  launchedAt : Nat := 0
  /-- Cycles since then in which its timeout was held by a freeze (R471, R472). -/
  heldFor : Nat := 0
  stillMark : Bool := false
  timedOut : Bool := false
  /-- Staging requests not yet ended, and the code of a failed one (R320). -/
  staging : Bool := false
  stageOpen : Nat := 0
  stageFail : Option Nat := none
  /-- A COPY or NET cut: the offset of the next unit or packet, the units not settled, and a failure with its offset
  (R322, R394). -/
  unit : Nat := 0
  open_ : List Nat := []
  /-- A COPY cut: its units whose data has not arrived, the first clock of its next unit, the clock at which its agent learns of a
  failure, and that at which its last unit so far has ended (R322); or that at which the engine knows of the end of its staging requests
  so far (R320). -/
  reading : List XUnit := []
  from_ : Nat := 0
  learned : Nat := 0
  doneAt : Nat := 0
  fault : Option (Nat × Nat) := none
  /-- The words of a COPY or NET cut's specification, as loading read them (R322, R394). -/
  spec : List Nat := []
  deriving DecidableEq, Repr

/-- The states of the engine (R333). -/
inductive EngineState where
  | idle | loading | running | draining | done | error
  deriving DecidableEq, Repr

/-- The Layout engine: its registers (R332), its cuts, its lanes, the ledger (R323) and the digest (R330). -/
structure Layout where
  logRun : Bool := false
  logEn : Bool := false
  replay : Bool := false
  st : EngineState := .idle
  paused : Bool := false
  splitRef : Bool := false
  err : Nat := 0
  errCut : Nat := 0
  errInfo : Nat := 0
  cutBase : W48 := 0
  cutCount : Nat := 0
  runnerSegs : BitVec 16 := 0
  defTimeout : Nat := 1000000
  laid : Nat := 0
  doneCnt : Nat := 0
  logBase : W48 := 0
  logSize : W32 := 0
  logWr : Nat := 0
  logRd : Nat := 0
  runDrop : W32 := 0
  rplBase : W48 := 0
  budgetSh : W32 := 0
  capLoSh : W32 := 0
  capHiSh : W32 := 0
  budget : Nat := 0
  cap : Nat := 0
  /-- The balance B in nJ (R323). -/
  bal : Int := 0
  balHi : W32 := 0
  meter : Nat := 0
  meterHi : W32 := 0
  /-- Increments that have reached the engine since the last tick, in nJ (R323). -/
  arrived : List Nat := []
  /-- FCYC of the last tick taken (R323). -/
  lastTick : Nat := 0
  splitSh : Vector W32 4 := #v[0x80002F00, 0, 0, 0]
  split : Vector W32 4 := #v[0x80002F00, 0, 0, 0]
  /-- The layout records so far, for the digest (R330): the hash state and the bytes not yet in a whole block. -/
  hash : List W32 := []
  hashTail : List Byte := []
  digest : List Byte := []
  cuts : SMap Cut := []
  /-- Descriptors loaded (R309). -/
  loaded : Nat := 0
  /-- The lane that the round visits next, and whether the round has made progress (R312). -/
  lanePtr : Nat := 0
  progress : Bool := false
  /-- The first cut not launched, and the last laid out, of each lane (R316, R310). -/
  heads : Vector (Option Nat) 7 := Vector.replicate 7 none
  tails : Vector (Option Nat) 7 := Vector.replicate 7 none
  /-- In 1/64 of a cycle: when the engine reads a further descriptor or lays out a further cut, and when its successor-edge unit has
  ended the completion walks so far (R309, R314). -/
  layFrom : Nat := 0
  walkFrom : Nat := 0
  /-- The clock at which the recorded error was found (R333). -/
  errAt : Nat := 0
  /-- The latest cycle with a launch: its clock, the root's first cycle and serial before it, and the lanes and cuts that launched
  (R317). -/
  launchAt : Nat := 0
  rootMark : Nat × Nat := (0, 0)
  launched : List (Nat × Nat) := []
  deriving DecidableEq, Repr

/-! ### Ethernet, TMP and UBT (14) -/

/-- A datagram that the device has sent: the port, its protocol, the address of the port it comes from where a rule names it
(R372), the VLAN and priority of its tag (R368), the address and UDP port it goes to, and its payload. The list of these is the model's own
record of its output (log entry 12). -/
structure Sending where
  port : Nat
  ubt : Bool := false
  from_ : Option DstAddr := none
  vid : Nat := 0
  pcp : Nat := 0
  addr : BitVec 128
  udp : Nat
  payload : List Byte
  deriving DecidableEq, Repr

/-- An answer of a port below UDP: an ARP reply and a neighbour advertisement give an address and the
port's MAC to the asker's, an echo
reply the address it is sent from and its payload. -/
inductive Answer where
  | arp (port : Nat) (addr : W32) (mac : Nat) (to_ : BitVec 48)
  | advert (port : Nat) (addr : BitVec 128) (mac : Nat) (to_ : BitVec 48)
  | echo (port : Nat) (src : BitVec 128) (payload : List Byte)
  deriving DecidableEq, Repr

/-- An Ethernet port (R366 to R371). -/
structure Port where
  shadow : W32 := 0
  active : W32 := 0
  state : PortLink := .down
  drops : W32 := 0
  /-- Clock of the latest DISCOVER_REPLY (R372). -/
  discovered : Option Nat := none
  /-- Priorities that a received PFC frame has paused (R368). -/
  paused : BitVec 8 := 0
  /-- Datagrams that a pause holds back. -/
  held : List Sending := []
  deriving DecidableEq, Repr

/-- A TMP session (R374 to R379). The counters are 32-bit byte counts; `cmds` holds the bytes from CMD_RD to CMD_WR. -/
structure Session where
  epoch : Nat
  control : Bool
  openId : Nat
  addr : BitVec 128
  udp : Nat
  /-- Opened on a link-local address: pinned to that port; else to the network of that port (R375). -/
  local_ : Bool
  port : Nat
  idleMs : Nat
  cmdLog : Nat
  cplLog : Nat
  cmdRd : Nat := 0
  cmdWr : Nat := 0
  cmds : List Byte := []
  /-- Bytes still to arrive that lie before the ring start at which the device resumes after a bad record (R379). -/
  skip : Nat := 0
  cplWr : Nat := 0
  cplRd : Nat := 0
  dseqIn : Nat := 0
  dseqOut : Nat := 0
  dackIn : Nat := 0
  /-- CPL datagrams not acknowledged: DSEQ, START and bytes; clock from which their retransmission counts (R377). -/
  unacked : List (Nat × Nat × List Byte) := []
  ackedAt : Nat := 0
  /-- Records that wait for room in the completion ring (R379). -/
  waiting : List (List W64) := []
  heard : Nat := 0
  deriving DecidableEq, Repr

/-- An answered OPEN, kept for 1 s (R374). -/
structure Opened where
  addr : BitVec 128
  openId : Nat
  at_ : Nat
  reply : List Byte
  deriving DecidableEq, Repr

/-- A UBT packet sent and not acknowledged, with the NET cut it belongs to (R389, R394). -/
structure UbtPacket where
  psn : Nat
  bytes : List Byte
  cut : Option Nat := none
  /-- The unit of the cut that its acknowledgement settles: a WRITE's (R394). -/
  settles : Option Nat := none
  /-- It is not sent again (R389). -/
  ended : Bool := false
  deriving DecidableEq, Repr

/-- A read of the module's own, of a PULL cut: its PSN, offset within the copy, bytes asked and bytes received (R394). -/
structure UbtRead where
  psn : Nat
  cut : Nat
  off : Nat
  len : Nat
  got : Nat := 0
  deriving DecidableEq, Repr

/-- A packet of the host that has been accepted and not acknowledged: the line parts not yet performed or dropped, the error
met first, and for a READ_REQ the bytes asked and formed (R390, R391). -/
structure UbtIn where
  psn : Nat
  open_ : List Nat := []
  /-- NAK cause and the part that met it. -/
  fault : Option (Nat × Nat) := none
  read : Bool := false
  addr : Nat := 0
  len : Nat := 0
  next : Nat := 0
  deriving DecidableEq, Repr

/-- A UBT session (R388 to R392). -/
structure Ubt where
  epoch : Nat
  net : Nat
  base : Nat
  length : Nat
  r : Bool
  w : Bool
  addr : BitVec 128
  udp : Nat
  host : Option (Nat × Nat) := none
  /-- Port of the latest accepted packet (R388). -/
  port : Option Nat := none
  /-- The PSN expected next, and the next one to acknowledge. -/
  psnIn : Nat := 0
  doneIn : Nat := 0
  inPkts : List UbtIn := []
  psnOut : Nat := 0
  unacked : List UbtPacket := []
  reads : List UbtRead := []
  /-- Clock from which the retransmission timeout counts, and the timeouts in a row (R389). -/
  sentAt : Nat := 0
  timeouts : Nat := 0
  /-- Clock of the latest NAK SEQUENCE (R389). -/
  nakAt : Option Nat := none
  /-- A packet accepted since the latest ACK carried CE (R391). -/
  ce : Bool := false
  /-- The rate R in bits per second, and the clocks of its latest cut and rise (R392). -/
  rate : Nat
  cutAt : Option Nat := none
  riseAt : Nat := 0
  /-- Clock from which the rate allows a further packet. -/
  sendFrom : Nat := 0
  deriving DecidableEq, Repr

/-- The network block: ports, TMP sessions and UBT sessions. -/
structure Net where
  ports : Vector Port 8 := Vector.replicate 8 {}
  sessions : SMap Session := []
  /-- Session last served (R380). -/
  served : Nat := 63
  opened : List Opened := []
  ubt : SMap Ubt := []
  /-- Events held for the control session, and the count of those dropped (R387). -/
  events : List (List W64) := []
  eventsLost : Nat := 0
  noticeEn : Bool := false
  noticeSession : Nat := 0
  /-- Sessions whose RESET, ABORT or DOMAIN command posts its completion after a reset (R384). -/
  afterReset : List (Nat × Nat × List W64) := []
  sent : List Sending := []
  answers : List Answer := []
  deriving DecidableEq, Repr

/-! ### Interrupt controller (16 R413 to R417) -/

/-- The interrupt controller: shadow and active routings and vectors by source, control core priorities, the source
outstanding at each processor (control cores 0 to 7, the warden of bent b at 8 + b), and the deliveries on their way to
wardens with the clock of their arrival. -/
structure Irq where
  cfg : SMap W32 := []
  vec : SMap W32 := []
  cfgAct : SMap W32 := []
  vecAct : SMap W32 := []
  cprio : Vector (BitVec 4) 8 := Vector.replicate 8 15
  serv : SMap Nat := []
  flying : List (Nat × BitVec 20 × Nat) := []
  /-- What was last delivered to each control core: the vector, and the clock of its arrival (R415). -/
  control : SMap (W32 × Nat) := []
  deriving DecidableEq, Repr

/-! ### The Sill, the board signals and the test connector (16 R419 to R429, 18 R477, 19) -/

/-- The power states but Active, which is Idle-clocked with a graph in the engine (R421). -/
inductive Power where
  | off | sillOnly | idleGated | idle
  deriving DecidableEq, Repr

/-- The settings of the configuration record (R367, R371, R421, R452, R460; log entry 5). -/
structure Conf where
  version : Nat := 0
  serial : Nat := 0
  minSvn : Nat := 0
  idleGateUs : Nat := 10000
  sillAfterS : Nat := 60
  scrubShared : Bool := true
  tmpPort : Nat := 50710
  ubtPort : Nat := 50711
  macBase : Nat := 0
  memRate : BitVec 16 := 0
  pmodes : List Nat := List.replicate 8 0
  globalV6 : List (Option (BitVec 128)) := [none, none]
  v4 : List (Option W32) := [none, none]
  deriving DecidableEq, Repr

/-- The Sill and what it watches. SILL_TIME is the clock less `time0`, by 120, and stands while the reference is stopped. -/
structure Sill where
  power : Power := .idle
  time0 : Nat := 0
  stoppedAt : Option Nat := none
  timeHi : W32 := 0
  cmp : W64 := 0xFFFFFFFFFFFFFFFF
  wakeEn : BitVec 5 := 0x1F
  wakeStat : BitVec 5 := 0
  wakePorts : BitVec 4 := 1
  /-- The latest sample of the 51 sensors: bents 0 to 47, the Ridge, the west and the east plate (R426). -/
  temps : List Nat := []
  twarn : Nat := 100
  tcap : W32 := 0x155CC0
  warm : Bool := false
  /-- THERMAL_ALERT is asserted beyond THERMAL_WARN, from a TCRIT sample to the next exit (R426). -/
  tripped : Bool := false
  /-- The failed branch of a rail fault, and that the module is held by it (R486). -/
  railFault : Option (Fin 16) := none
  railHeld : Bool := false
  /-- Clock since which the present idle power state has held with no graph loaded or no session open (R421). -/
  since : Nat := 0
  deriving DecidableEq, Repr

/-- The board's signals: the 48 V input and its disconnection, the reset input, PWRGOOD, and whether a cold reset is being
held (R480, R485 to R488). -/
structure Board where
  inputGood : Bool := true
  disconnected : Bool := false
  inserted : Bool := true
  resetN : Bool := true
  held : Bool := false
  pwrgood : Bool := true
  refLost : Bool := false
  deriving DecidableEq, Repr

/-- The TAP chain: the instruction in force, the bypass bit and the boundary cells of each die, and what was last shifted
out (R477, R478). -/
structure Tap where
  ir : Vector (BitVec 6) 3 := Vector.replicate 3 0x3F
  bypass : Vector Bool 3 := Vector.replicate 3 false
  cells : Vector Nat 3 := Vector.replicate 3 0
  out : Nat := 0
  outBytes : List Byte := []
  deriving DecidableEq, Repr

/-- The firmware and its trust registers: the loaded graph, the WALL annotation with its count, the measurement registers,
the booted image and the boot cause (R381 to R383, R453 to R457). -/
structure Firm where
  loaded : Bool := false
  /-- The runner of the loaded graph: source, length, destination and entry (R383, R463). -/
  runner : Nat × Nat × Nat × Nat := (0, 0, 0, 0)
  wall : W64 := 0
  wallAt : W64 := 0
  mr : Vector (List Byte) 16 := Vector.replicate 16 (List.replicate 32 0)
  slot : Nat := 0
  imageVersion : BitVec 48 := 0x000100000000
  svn : Nat := 0
  identity : Bool := true
  bootCause : BitVec 4 := 0
  romHalted : Bool := false
  deriving DecidableEq, Repr

/-! ### Resets in progress (18 R459 to R465) -/

/-- The extent of a reset other than cold. -/
inductive Level where
  | core (c : CoreId) | job | frame
  deriving DecidableEq, Repr

/-- A reset in progress: its extent, whether its phase 3 is deferred by a post-mortem hold, whether it has quiesced, and
the clock of the end of its scrub. -/
structure ResetOp where
  level : Level
  hold : Bool := false
  quiesced : Bool := false
  due : Nat := 0
  deriving DecidableEq, Repr

/-! ### The Story Pole (17 R430 to R450) -/

/-- A record that is open or waits for the end of its last interval (R438, R441): energy in units of 10⁻¹⁷ J, flags as the
*Record flags* table numbers them. -/
structure OpenRec where
  job : Bool
  first : Nat
  last : Option Nat := none
  energy : Nat := 0
  work : Nat := 0
  flags : Nat := 0
  label : List Byte := List.replicate 16 0
  deriving DecidableEq, Repr

/-- A record whose last interval has ended and which has not been signed and stored: its kind, flags, first and last
interval, energy in µJ, work, firmware version, audit count, power cycle and label. -/
structure Ready where
  job : Bool
  flags : Nat
  first : Nat
  last : Nat
  energy : Nat
  work : Nat
  fwver : Nat
  audit : Nat
  cycle : Nat
  label : List Byte
  deriving DecidableEq, Repr

/-- A work-count line as the Story Pole sees it (R437). -/
structure Line where
  signal : Bool := false
  baseline : Nat := 0
  /-- Clock since which its frames have failed their CRC. -/
  failing : Option Nat := none
  deriving DecidableEq, Repr

/-- What the Story Pole sends on its read port: the responses of R431, INCREMENT (SP_TIME, nJ, work units) and ALARM. -/
inductive PoleMsg where
  | record (bytes : List Byte)
  | notHeld
  | status (bytes : List Byte)
  | cert (bytes : List Byte)
  | ok
  | noneOpen
  | accepted
  | rejected (cause : Nat)
  | badCommand
  | increment (time nj work : Nat)
  | alarm (kind : AlarmKind)
  deriving DecidableEq, Repr

/-- The Story Pole. -/
structure Pole where
  powered : Bool := true
  time : Nat := 0
  cycle : Nat := 0
  audit : Nat := 0
  rejects : Nat := 0
  fwver : Nat := 0
  /-- The running interval: energy and work so far and its flags; and the part below 1 nJ carried into the next INCREMENT. -/
  energy : Nat := 0
  work : Nat := 0
  flags : Nat := 0
  carryNj : Nat := 0
  /-- The part below 1 µJ carried into the next per-second record. -/
  carryUj : Nat := 0
  /-- The open per-second record and, last, the open per-job record; before it, per-job records that wait for the end of
  their interval. -/
  second : OpenRec := { job := false, first := 0 }
  jobs : List OpenRec := []
  ready : List Ready := []
  /-- Records closed of each kind, and those retained by number. -/
  secCount : Nat := 0
  jobCount : Nat := 0
  secs : SMap (List Byte) := []
  jobRecs : SMap (List Byte) := []
  lines : SMap Line := []
  /-- The version of an image accepted and not yet switched to. -/
  image : Option Nat := none
  /-- The next record of each kind is the first under an image, or of a power cycle. -/
  secMarks : Nat := 0
  jobMarks : Nat := 0
  alarms : Nat := 0
  /-- Alarms whose condition has arisen and whose message has not been sent. -/
  due : List AlarmKind := []
  /-- What the read port has carried outward: the model's own record of output (log entry 12). -/
  sent : List PoleMsg := []
  /-- INCREMENT messages on their way to the Layout engine: their energy in nJ. -/
  increments : List Nat := []
  deriving DecidableEq, Repr

/-! ### The whole machine -/

/-- Everything the module holds except the bytes of its memories. -/
structure Hw where
  /-- The model's count of core cycles, from which FCYC, CYCLE, timers and due times are read (log entry 2). -/
  clock : Nat := 0
  /-- `clock` at which FCYC was last set to 0 (R270). -/
  fcyc0 : Nat := 0
  /-- The model's count of free values taken (log entry 3). -/
  freeCtr : Nat := 0
  cores : SMap Core := []
  coreDef : Core := {}
  bents : SMap Bent := []
  bentDef : Bent := {}
  /-- An event of the present cycle has been performed: the accesses of the cycle come before its events (log entry 81). -/
  acted : Bool := false
  /-- Effects that take hold in later cycles, with the clock of their cycle, in the order of those. -/
  later : List (Nat × Later) := []
  tuples : List Tuple := []
  credits : List Credit := []
  noticesIn : List Notice := []
  plateCredits : List PlateCredit := []
  purlins : List Purlin := []
  purlinRead : W32 := 0
  /-- Transactions issued so far, and the first clock at which the root issues a further one (R282, R284). -/
  purlinSerial : Nat := 0
  purlinFrom : Nat := 0
  flits : List Flit := []
  flitSerial : Nat := 0
  xmWest : Xmem := {}
  xmEast : Xmem := {}
  pmCommits : List PmCommit := []
  /-- Lines of external memory whose POISON bit is 1, as physical address / 64 (R401). -/
  poison : List Nat := []
  /-- The job was launched with debug enabled (R95, R383). -/
  debug : Bool := false
  /-- Pending bits of the interrupt controller's sources (R413). -/
  irqPend : BitVec 288 := 0

  /-- End notices on their way to the engine (R319). -/
  endNotices : List RidgeMsg := []
  /-- Still reports on their way to the engine (R327). -/
  stillReports : List RidgeMsg := []
  /-- Warden acknowledgements on their way to the interrupt controller, by bent (R416). -/
  wardenAcks : List RidgeMsg := []
  links : Vector Link 8 := Vector.replicate 8 {}
  recsWest : PlateRecs := {}
  recsEast : PlateRecs := {}
  /-- ACK and LOST records on their way to cores (R339). -/
  acksIn : List AckIn := []
  dom : Domain := {}
  /-- FCYC of the latest arbitration of each router output, by 8 × router + output (R276). -/
  arbAt : SMap Nat := []
  le : Layout := {}
  net : Net := {}
  /-- Epochs of the TMP and UBT session numbers, held in the Sill (R374). -/
  tmpEpochs : SMap Nat := []
  ubtEpochs : SMap Nat := []
  /-- A device freeze is in force (R472). -/
  devFrozen : Bool := false
  /-- Scarf blocks sent, by link: the model's own record of its output (log entry 12). -/
  blocksOut : List (Nat × List Byte) := []
  /-- The value that the latest register read of a control core returned. -/
  ctlRead : W32 := 0
  irq : Irq := {}
  conf : Conf := {}
  sill : Sill := {}
  board : Board := {}
  tap : Tap := {}
  firm : Firm := {}
  pole : Pole := {}
  resets : List ResetOp := []
  /-- A post-mortem hold is in force (R465). -/
  postMortem : Bool := false
  /-- Clock of the latest increment that reached the Layout engine (R429). -/
  incAt : Nat := 0
  deriving DecidableEq, Repr

/-- The state of the block: the waiting commands, first in first out; the bytes of its memories, keyed by location in one
canonical form; and everything else. -/
structure State where
  pending : List Instr
  mem : List Host.Cell
  hw : Hw
  deriving DecidableEq, Repr

/-- The accesses the model stops on. Both are raised by commands that name a location no block has (log entry 7); they are
safe: the device has no such access. -/
inductive Fault where
  /-- A patrol of a line beyond the 39-bit physical address space (R397). Safe. -/
  | noSuchLine
  /-- A TAP access beyond the boot flash (R452). Safe. -/
  | noSuchFlash
  deriving DecidableEq, Repr

/-- Why a command has no meaning in this model. -/
inductive Refusal where
  /-- The command of this mnemonic is not modelled yet. Raised by the dispatch alone. Safe. -/
  | notModelled (mnemonic : String)
  deriving DecidableEq, Repr

/-- The machine right after reset: every register at the value of its table, no command waiting, no byte listed. -/
def State.reset : State := { pending := [], mem := [], hw := {} }

end Sys2Proof.Machine
end

