-- ==== Sys2Proof/Machine/Ops.lean ====
section
/-!
DEFINITION. The named operations over memory, cores, threads and time; effects that take hold in later cycles; taking an
exception or an interrupt and returning from one.
-/

namespace Sys2Proof.Machine

/-- What every meaning answers. -/
abbrev Out := Host.Outcome State Fault Refusal
/-- The bytes of the memories, keyed by location. -/
abbrev Mem := List Host.Cell

/-! ### Kinds and figures (R24, R29) -/

/-- The core number within its bent (R7). -/
def coreIn (c : Nat) : Nat := c % 44
/-- The bent of a core (R7). -/
def bentOf (c : Nat) : Nat := c / 44
/-- Joist cores are numbers 0 to 31 of a bent (R24). -/
def isJoist (c : Nat) : Bool := coreIn c < 32
/-- Brace cores are numbers 32 to 39 (R24). -/
def isBrace (c : Nat) : Bool := 32 ≤ coreIn c && coreIn c < 40
/-- Peg cores are numbers 40 to 43 (R24). -/
def isPeg (c : Nat) : Bool := 40 ≤ coreIn c
/-- The warden is peg core 40 of its bent (R24). -/
def isWarden (c : Nat) : Bool := coreIn c == 40
/-- The warden of a bent, by global core number. -/
def wardenOf (b : Nat) : Nat := 44 * b + 40

/-- A figure that depends on the kind of a core. -/
def byKind {α : Type} (c : Nat) (joist brace peg : α) : α :=
  if isJoist c then joist else if isBrace c then brace else peg

/-- Scratchpad bytes (R24). -/
def spadSize (c : Nat) : Nat := byKind c 0x200000 0x100000 0x80000
/-- Instruction memory bytes (R24). -/
def imemSize (c : Nat) : Nat := byKind c 0x20000 0x20000 0x80000
/-- Execute segment bytes (R130). -/
def segSize (c : Nat) : Nat := imemSize c / 16
/-- Vector width in bits (R160). -/
def vecBits (c : Nat) : Nat := byKind c 1024 2048 512
/-- Rows and columns of the matrix array and of a group (R33, R66). -/
def arraySide (c : Nat) : Nat := byKind c 32 8 4
/-- Accumulation groups (R66). -/
def groupCount (c : Nat) : Nat := byKind c 8 4 4

/-! ### Memory: locations, bytes, canonical form -/

/-- The location of byte `off` of core `c`'s scratchpad (R9). -/
def locScratch (c off : Nat) : Nat := 0x002000000000 + bentOf c * 0x08000000 + coreIn c * 0x00200000 + off
/-- The location of byte `off` of bent `b`'s shared memory (R9). -/
def locShared (b off : Nat) : Nat := 0x001000000000 + b * 0x40000000 + off
/-- The location of byte `off` of Ridge SRAM (R9). -/
def locRidge (off : Nat) : Nat := 0x004000000000 + off
/-- The location of physical byte `p` of external memory (R397). -/
def locExt (p : Nat) : Nat := 0x010000000000 + p
/-- The location of byte `a` of core `c`'s instruction memory (R129); no data-space number names it. -/
def locImem (c a : Nat) : Nat := 0x030000000000 + c * 0x100000 + a
/-- The location of byte `off` of the boot flash (R452); no data-space number names it. -/
def locFlash (off : Nat) : Nat := 0x040000000000 + off

/-- The initial page map entry of a virtual page (R404). -/
def pageMapInit (vpn : Nat) : Nat := if vpn < 0x7FFC00 then 0xC0000000 + vpn else 0

/-- What a byte that nothing has written reads as: the initial page map (R404), the erased value in the boot flash
(DESIGN CHOICE, log 6), and 0 elsewhere. -/
def memDefault (a : Nat) : Byte :=
  let base := locExt 0x7FFC000000
  if base ≤ a ∧ a < base + 0x4000000 then BitVec.ofNat 8 (pageMapInit ((a - base) / 4) / 256 ^ ((a - base) % 4))
  else if locFlash 0 ≤ a then 0xFF else 0

/-- The byte at a location. -/
def memRead (a : Nat) (m : Mem) : Byte := (sget a m).getD (memDefault a)

/-- Write a byte, keeping the canonical form. -/
def memWrite (a : Nat) (v : Byte) (m : Mem) : Mem := if v = memDefault a then sdel a m else sset a v m

/-- `n` bytes from a location. -/
def memReadN (a n : Nat) (m : Mem) : List Byte := (List.range n).map (fun k => memRead (a + k) m)

/-- Write bytes from a location up. -/
def memWriteN (a : Nat) : List Byte → Mem → Mem
  | [], m => m
  | b :: bs, m => memWriteN (a + 1) bs (memWrite a b m)

/-- Put `n` bytes from a location at what an unwritten byte reads as. -/
def memForget (a n : Nat) (m : Mem) : Mem := m.filter (fun p => decide (p.1 < a) || decide (a + n ≤ p.1))

/-- The canonical form of a memory: keys strictly rising from at least `lo`, no entry equal to what an unlisted byte reads. -/
def Memory.wfFrom (lo : Nat) : Mem → Bool
  | [] => true
  | (a, v) :: rest => decide (lo ≤ a) && decide (v ≠ memDefault a) && Memory.wfFrom (a + 1) rest

/-- The canonical form of a memory. -/
def Memory.wf (m : Mem) : Bool := Memory.wfFrom 0 m

/-- A little-endian number in memory (R11). -/
def memNat (a n : Nat) (m : Mem) : Nat := ofBytes (memReadN a n m)

/-! ### Lifting to the state -/

/-- A meaning that leaves memory and queue as they stand and may read memory. -/
def onHw (f : Mem → Hw → Hw) (s : State) : Out := .next { s with hw := f s.mem s.hw }

/-- An event of the present cycle that leaves memory and queue as they stand (log entry 81). -/
def onEvent (f : Hw → Hw) (s : State) : Out := onHw (fun _ h => f { h with acted := true }) s

/-- A meaning that may write memory. -/
def onMem (f : Mem → Hw → Mem × Hw) (s : State) : Out :=
  let r := f s.mem s.hw
  .next { s with mem := r.1, hw := r.2 }

/-! ### Cores, bents and threads -/

/-- A core of the machine. -/
def Hw.core (h : Hw) (c : Nat) : Core := sgetD c h.coreDef h.cores
/-- Replace a core. -/
def Hw.setCore (h : Hw) (c : Nat) (k : Core) : Hw := { h with cores := sset c k h.cores }
/-- Change a core. -/
def Hw.updCore (h : Hw) (c : Nat) (f : Core → Core) : Hw := h.setCore c (f (h.core c))
/-- A bent of the machine. -/
def Hw.bent (h : Hw) (b : Nat) : Bent := sgetD b h.bentDef h.bents
/-- Replace a bent. -/
def Hw.setBent (h : Hw) (b : Nat) (x : Bent) : Hw := { h with bents := sset b x h.bents }
/-- Change a bent. -/
def Hw.updBent (h : Hw) (b : Nat) (f : Bent → Bent) : Hw := h.setBent b (f (h.bent b))
/-- Change every core in the same way. -/
def Hw.updAllCores (h : Hw) (f : Core → Core) : Hw :=
  { h with cores := h.cores.map (fun p => (p.1, f p.2)), coreDef := f h.coreDef }
/-- Change every bent in the same way. -/
def Hw.updAllBents (h : Hw) (f : Bent → Bent) : Hw :=
  { h with bents := h.bents.map (fun p => (p.1, f p.2)), bentDef := f h.bentDef }

/-- A thread of a core. -/
def Core.thread (k : Core) (t : Fin 4) : Thread := k.threads[t]
/-- Replace a thread of a core. -/
def Core.setThread (k : Core) (t : Fin 4) (x : Thread) : Core := { k with threads := k.threads.set t x }
/-- Change a thread of a core. -/
def Core.updThread (k : Core) (t : Fin 4) (f : Thread → Thread) : Core := k.setThread t (f (k.thread t))
/-- Change all four threads of a core. -/
def Core.updThreads (k : Core) (f : Thread → Thread) : Core := { k with threads := k.threads.map f }
/-- A thread of the machine. -/
def Hw.thread (h : Hw) (w : Who) : Thread := (h.core w.core).thread w.thread
/-- Change a thread of the machine. -/
def Hw.updThread (h : Hw) (w : Who) (f : Thread → Thread) : Hw := h.updCore w.core (·.updThread w.thread f)

/-- A data register (R133). -/
def Thread.getD (th : Thread) (r : Fin 32) : W64 := th.d[r]
/-- Write a data register (R133). -/
def Thread.setD (th : Thread) (r : Fin 32) (x : W64) : Thread := { th with d := th.d.set r x }
/-- An address register (R133). -/
def Thread.getA (th : Thread) (r : Fin 16) : W48 := th.a[r]
/-- Write an address register (R133). -/
def Thread.setA (th : Thread) (r : Fin 16) (x : W48) : Thread := { th with a := th.a.set r x }
/-- An accumulator register (R133). -/
def Thread.getAcc (th : Thread) (r : Fin 4) : BitVec 72 := th.acc[r]
/-- Write an accumulator register (R133). -/
def Thread.setAcc (th : Thread) (r : Fin 4) (x : BitVec 72) : Thread := { th with acc := th.acc.set r x }

/-! ### Free values -/

/-- Take a fresh free value (log entry 3). -/
def Hw.free (h : Hw) : Nat × Hw := (Config.freeNat h.freeCtr, { h with freeCtr := h.freeCtr + 1 })

/-! ### Time (R10, R182, R270) -/

/-- FCYC (R270), a 64-bit count. -/
def Hw.fcyc (h : Hw) : Nat := (h.clock - h.fcyc0) % 2 ^ 64
/-- CYCLE of a core (R182): it stands while the core is frozen (R471). -/
def Hw.cycle (h : Hw) (c : Nat) : Nat := (h.core c).frozenAt.getD h.clock - (h.core c).cyc0
/-- The clock of a CYCLE value of a core. -/
def Hw.clockOf (h : Hw) (c cyc : Nat) : Nat := (h.core c).cyc0 + cyc
/-- The first slot of thread `t` at or after a CYCLE value (R182). -/
def slotAt (t cyc : Nat) : Nat := cyc + (t + 4 - cyc % 4) % 4

/-! ### Events and interrupt causes -/

/-- Raise an event input of a thread (R187). -/
def Hw.raiseEvent (h : Hw) (w : Who) (k : Fin 16) : Hw :=
  h.updThread w (fun th => { th with evpend := th.evpend ||| (1#16 <<< k.val) })
/-- Set an interrupt cause of a thread (R191). -/
def Hw.raiseIpend (h : Hw) (c : CoreId) (t : Fin 4) (bit : Nat) : Hw :=
  h.updThread ⟨c, t⟩ (fun th => { th with ipend := th.ipend ||| (1#11 <<< bit) })
/-- Raise a source of the interrupt controller: its pending bit is set (R413). -/
def Hw.raiseSource (h : Hw) (n : Nat) : Hw := { h with irqPend := h.irqPend ||| (1#288 <<< n) }
/-- A global core number as an index (total: taken modulo 2112). -/
def coreId (c : Nat) : CoreId := ⟨c % 2112, Nat.mod_lt _ (by decide)⟩
/-- A bent number as an index (total: taken modulo 48). -/
def bentId (b : Nat) : BentId := ⟨b % 48, Nat.mod_lt _ (by decide)⟩
/-- A number as a bounded index (total: taken modulo the bound). -/
def fin (n : Nat) [NeZero n] (x : Nat) : Fin n := Fin.ofNat n x

/-- A performance notice reaches a thread; one from before the latest reset of its core counts for nothing (R294). -/
def Thread.noticed (th : Thread) : Thread :=
  if th.late = 0 then { th with notices := th.notices - 1 } else { th with late := th.late - 1 }

/-- The event of a released lock for the threads of a core whose last failed attempt was on it (R210). -/
def Core.lockNotice (k : Core) (l : LockRef) : Core :=
  k.updThreads (fun th =>
    if th.lockRec = some l ∧ th.lkevEn then
      { th with evpend := th.evpend ||| (1#16 <<< th.lkevEvt.val), lockRec := none }
    else th)

/-- A dropped unit is reported to the owner: HRECV, and HRDROP when HRECV was 0 (R222). -/
def Hw.dropIn (h : Hw) (c : CoreId) (src off : Nat) : Hw :=
  let was := ((h.core c).thread 0).ipend.getLsbD 8
  (h.updCore c (fun k =>
    if was then { k with hrdrop := k.hrdrop ||| 0x80000000#32 } else { k with hrdrop := w32 (src * 2 ^ 25 + off % 2 ^ 21) })).raiseIpend c 0 8

/-- A dropped unit is reported to the sending core: HSEND, and HSDROP when HSEND was 0 (R222). -/
def Hw.dropOut (h : Hw) (c : CoreId) (addr : Nat) : Hw :=
  let was := ((h.core c).thread 0).ipend.getLsbD 7
  (h.updCore c (fun k =>
    if was then { k with hsdropMore := true } else { k with hsdrop := BitVec.ofNat 48 addr, hsdropMore := false })).raiseIpend c 0 7

/-- The registers of a mask take the zero shape in a cycle; TSTAT shows what they were until the next (R125, R126). -/
def Core.trel (k : Core) (v : BitVec 8) (cyc : Nat) : Core :=
  (List.finRange 8).foldl (fun (k : Core) (t : Fin 8) =>
    if v.getLsbD t.val then { k with tiles := k.tiles.set t {}, released := k.released.set t (cyc, k.tiles[t]) } else k) k

/-! ### Sends, and the stillness detector (R242, R244, R258, R261) -/

/-- Change a tenon. -/
def Core.updTenon (k : Core) (n : Fin 16) (f : Tenon → Tenon) : Core := { k with tenons := k.tenons.set n (f k.tenons[n]) }

/-- A pending commit holds a tenon whose shadow differs from its active route (R242). -/
def Core.commitHolds (k : Core) (n : Fin 16) : Bool :=
  k.ncommitPending && k.tenons[n].shadow != k.tenons[n].active

/-- A send may be made on a tenon: it holds a credit and no commit holds it (R244, R245). -/
def Core.sendReady (k : Core) (n : Fin 16) : Bool := 0 < k.tenons[n].credits && !k.commitHolds n

/-- The tenon that a stream instruction sends on. -/
def StreamJob.tenon (j : StreamJob) : Option (Fin 16) := if j.achain then j.fwd.map (·.tenon) else some j.chan

/-- CYCLE of the stream unit's next send, when it has one to make (R86, R92). -/
def StreamJob.sendAt (j : StreamJob) : Option Nat :=
  if !j.achain then some j.nextSend else if j.fwd.isSome then j.taken.head?.map (fun t => max t.due j.nextSend) else none

/-- The tenon on which the stream unit's next send waits (R244). -/
def Core.streamBlocked (k : Core) : Option (Fin 16) :=
  match k.stream with
  | none => none
  | some j => if j.sendAt.isSome then j.tenon.filter (fun n => !k.sendReady n) else none

/-- CYCLE from which the stream unit waits for a credit or a tuple, if it does (R261). -/
def Core.streamIdle (k : Core) : Option Nat :=
  match k.stream with
  | none => none
  | some j =>
    match j.sendAt with
    | some at_ => if k.streamBlocked.isSome then some at_ else none
    | none => if k.mortises[j.chan].isEmpty then some ((j.taken.map (·.due)).foldl max 0) else none

/-- A thread counts as waiting in a cycle (R261). -/
def Core.threadWaits (k : Core) (t : Fin 4) (cyc : Nat) : Bool :=
  let th := k.thread t
  match th.tstate, th.stall with
  | .waiting, _ | .halted, _ => true
  | .running, some .credit | .running, some .mortise => true
  | .running, some .stream => k.streamIdle.any (fun n => decide (n ≤ cyc))
  | _, _ => false

/-- The instruction has not finished computing (R52). -/
def MatJob.held (j : MatJob) : Bool :=
  match j.stage with
  | .updating _ => false
  | _ => true

/-- The core is still in a cycle (R261). -/
def Core.isStill (k : Core) (cyc : Nat) : Bool :=
  (List.finRange 4).all (fun t => k.threadWaits t cyc && (k.thread t).timer.isNone && (k.thread t).xoutstanding == 0) &&
  k.mortises.all (·.isEmpty) && !k.mat.any MatJob.held && k.tileMove.isNone && !k.coreHalt

/-- The stillness count of a core after what happened in a cycle: it runs from the next cycle, or from the cycle in which the
stream unit comes to wait, and ends with the stillness (R261, R262). -/
def Core.noted (k : Core) (cyc : Nat) : Core :=
  let from_ := max (cyc + 1) (k.streamIdle.getD 0)
  if k.isStill from_ then { k with stillFrom := some (k.stillFrom.getD from_) } else { k with stillFrom := none, still := false }

/-- Take note, for the stillness detector, of what happened at a core. -/
def Hw.noted (h : Hw) (c : Nat) : Hw := h.updCore c (fun k => k.noted (h.cycle c))

/-- A send on a tenon is stalled (R258). -/
def Core.sendStalled (k : Core) (n : Fin 16) : Bool :=
  k.streamBlocked == some n ||
    (List.finRange 4).any (fun t => (k.thread t).stall == some .credit && (k.thread t).stallOn == n.val)

/-- A send stalls on a tenon in a cycle: its stall counter runs (R258). -/
def Core.stallTenon (k : Core) (n : Fin 16) (cyc : Nat) : Core :=
  k.updTenon n (fun t => { t with stallStart := some (t.stallStart.getD cyc) })

/-- A tenon's stall counter returns to 0 when no send on it is stalled (R258). -/
def Core.unstall (k : Core) (n : Fin 16) : Core :=
  if k.sendStalled n then k else k.updTenon n (fun t => { t with stallStart := none, stallReported := false })

/-! ### The end of an instruction (R137, R157, R158, R473, R474) -/

/-- Stalls in which the instruction is tried again in each later slot; the others end by an event of their own. -/
def Stall.retries : Stall → Bool
  | .credit | .mortise | .engine | .interlock | .store | .fence => true
  | .msync | .stream | .tileMove | .drain | .load | .lock | .cinv | .port => false

/-- A thread stop takes hold: the thread becomes STOPPED and its stall ends (R473). -/
def Thread.stopNow (th : Thread) : Thread :=
  { th with tstate := .stopped, wasWaiting := th.tstate == .waiting, stall := none, pfx := none, pair := none,
            stopReq := false, stepOnce := false }

/-- A single step or a thread stop that waited takes hold at the end of an instruction (R473, R474). -/
def Thread.boundary (th : Thread) : Thread := if th.stepOnce || th.stopReq then th.stopNow else th

/-- The instruction has completed: PC moves past its words, its stall ends, and the next one issues no earlier than a
CYCLE value. -/
def Thread.finish (th : Thread) (words next : Nat) : Thread :=
  Thread.boundary { th with pc := th.pc + BitVec.ofNat 20 (4 * words), stall := none, pfx := none, pair := none, nextIssue := next }

/-- A stalled instruction of a thread completes by an event: PC moves past it and the thread issues again from the next cycle
(R157). An instruction that a core halt let finish leaves its thread HALTED (R205). -/
def Hw.release (h : Hw) (w : Who) (words : Nat) : Hw :=
  (h.updThread w (fun th =>
    if th.tstate = .halted then { th with pc := th.pc + BitVec.ofNat 20 (4 * words), stall := none }
    else th.finish words (max th.nextIssue (h.cycle w.core + 1)))).noted w.core

/-- The value a load writes from its bytes (R146, R177). -/
def Thread.writeLoad (th : Thread) (bs : List Byte) : LoadDest → Thread
  | .d r n sx => th.setD r (if sx then BitVec.ofInt 64 (signed (8 * n) (ofBytes bs)) else BitVec.ofNat 64 (ofBytes bs))
  | .a r => th.setA r (BitVec.ofNat 48 (ofBytes bs))
  | .v r => { th with v := th.v.set r (BitVec.ofNat 2048 (ofBytes bs)) }

/-! ### What a thread is in the middle of stops (R91, R116, R158, R473) -/

/-- A tile move of this thread stops with its row cursor (R115, R116). -/
def Core.stopTileMove (k : Core) (t : Fin 4) : Core :=
  match k.tileMove with
  | some mv =>
    if mv.thread = t then
      let tile := k.tiles[mv.t]
      { (k.updThread t (fun th => { th with tileCur := some mv.t })) with
        tileMove := none
        tiles := k.tiles.set mv.t { tile with ract := true, rdir := mv.store, rx := mv.x, row := mv.row } }
    else k
  | none => k

/-- A stream instruction of this thread stops with its cursor. A tuple taken and not to be sent on counts as completed, and the
copies still to be sent on stay with the cursor (R91; log entry 82). -/
def Core.stopStream (k : Core) (t : Fin 4) : Core :=
  match k.stream with
  | some j =>
    if j.thread = t then
      let n := if j.fwd.isSome then 0 else j.taken.length
      let k1 := { (k.updThread t (fun th => { th with
          acur := { active := true, achain := j.achain, g := j.g, chan := j.chan, tuples := j.tuples + n,
                    carry := j.carry, carryBits := j.carryBits, taken := j.taken.drop n } })) with stream := none }
      (j.tenon.map k1.unstall).getD k1
    else k
  | none => k

/-- The send that a thread is stalled in ends (R258). -/
def Core.clearStall (k : Core) (t : Fin 4) : Core :=
  let th := k.thread t
  if th.stall = some .credit then (k.updThread t (fun th => { th with stall := none })).unstall (fin 16 th.stallOn) else k

/-- What a thread was in the middle of stops as for an interrupt (R91, R116, R158). -/
def Core.stopWork (k : Core) (t : Fin 4) : Core := ((k.clearStall t).stopTileMove t).stopStream t

/-- Stalls in which interrupts and thread stops are taken (R158). -/
def Stall.interruptible : Stall → Bool
  | .credit | .mortise | .msync | .stream | .tileMove => true
  | _ => false

/-- A thread is between instructions or in a stall of R158; a tile move that waits for its row's lines or pages first completes
that row (R116, R406). -/
def Core.atBoundary (k : Core) (t : Fin 4) : Bool :=
  match (k.thread t).stall with
  | none => true
  | some .tileMove => !k.tileMove.any (fun mv => mv.thread == t && mv.tried)
  | some r => r.interruptible

/-- A thread stop in its thread's slot: between instructions, in a stall of R158 or in a WAIT it takes hold, else it waits for the
instruction to end; a HALTED thread stays HALTED (R473). -/
def Core.stopThread (k : Core) (t : Fin 4) : Core :=
  let th := k.thread t
  match th.tstate with
  | .halted | .stopped => k
  | .waiting => k.updThread t Thread.stopNow
  | .running =>
    if k.atBoundary t && th.found.isNone then (k.stopWork t).updThread t Thread.stopNow
    else k.updThread t (fun th => { th with stopReq := true })

/-! ### Freeze (R264, R470 to R472) -/

/-- A core is frozen from a clock value on: its CYCLE stands and it holds its state (R471). A prefix that waits for its instruction
is given again after the thaw. -/
def Core.freeze (k : Core) (from_ : Nat) : Core :=
  { k with frozenAt := some (k.frozenAt.getD from_), threads := k.threads.map (fun th => { th with pfx := none, pair := none }) }
/-- A frozen core goes on from the held state at a clock value (R471). -/
def Core.thaw (k : Core) (from_ : Nat) : Core :=
  match k.frozenAt with
  | some t => { k with frozenAt := none, cyc0 := k.cyc0 + (from_ - t) }
  | none => k

/-- Tuples and credits between two frozen cores, of which one at least thaws at a clock value, go on with the latency that remained
(R264). -/
def Hw.heldTraffic (h : Hw) (thaws : CoreId → Bool) (from_ : Nat) : Hw :=
  let held := fun (c d : CoreId) => match (h.core c).frozenAt, (h.core d).frozenAt with
    | some x, some y => if thaws c || thaws d then from_ - max x y else 0
    | _, _ => 0
  { h with tuples := h.tuples.map (fun t => { t with due := t.due + held t.sender t.target })
           credits := h.credits.map (fun x => { x with due := x.due + ((x.source.map (held x.core)).getD 0) }) }

/-- A freeze of a core, or of the device, takes hold from a clock value (R471, R472). -/
def Hw.freezeFrom (h : Hw) (from_ : Nat) : Option CoreId → Hw
  | some c => h.updCore c (·.freeze from_)
  | none => { h.updAllCores (·.freeze from_) with devFrozen := true }

/-- A running cut's timeout has been held for some cycles (R471, R472). -/
def Cut.holdFor (x : Cut) (n : Nat) : Cut := if x.st = .running then { x with heldFor := x.heldFor + n } else x

/-- The thaw of a core holds back the timeout of the cut that runs there by the cycles of its freeze; of a cut's cores the first does
so (R471). -/
def Hw.heldCut (h : Hw) (c : CoreId) (from_ : Nat) : Hw :=
  let k := h.core c
  match k.runsCut, k.frozenAt with
  | some i, some t =>
    if (h.cores.find? (fun p => p.2.runsCut == some i)).any (·.1 == c.val) then
      { h with le := { h.le with cuts := h.le.cuts.map (fun p => if p.1 = i then (p.1, p.2.holdFor (from_ - t)) else p) } }
    else h
  | _, _ => h

/-- The thaw of the device: the Layout engine's timeouts were held, and the ticks of the frozen cycles are left out (R472). -/
def Hw.heldEngine (h : Hw) (from_ : Nat) : Hw :=
  let n := from_ - h.coreDef.frozenAt.getD from_
  { h with
    le := { h.le with cuts := h.le.cuts.map (fun p => (p.1, p.2.holdFor n))
                      lastTick := max h.le.lastTick ((from_ - 1 - h.fcyc0) / 3000 * 3000) }
    dom := { h.dom with armed := h.dom.armed.map (fun a => { a with at_ := a.at_ + n }) } }

/-- The thaw of a core, or of the device. -/
def Hw.thawFrom (h : Hw) (from_ : Nat) : Option CoreId → Hw
  | some c => ((h.heldTraffic (· == c) from_).heldCut c from_).updCore c (·.thaw from_)
  | none => { ((h.heldTraffic (fun _ => true) from_).heldEngine from_).updAllCores (·.thaw from_) with devFrozen := false }

/-! ### Time runs on -/

/-- Put an effect among those of later cycles, behind those of its own cycle. -/
def Hw.enqueue (h : Hw) (t : Nat) (e : Later) : Hw :=
  let n := (h.later.takeWhile (fun x => decide (x.1 ≤ t))).length
  { h with later := h.later.take n ++ (t, e) :: h.later.drop n }

/-- An effect of a later cycle takes hold; data and a thread stop for a frozen core wait for the thaw, and the stop for the thread's next
slot then (R471, R473). -/
def Hw.applyLater (h : Hw) : Later → Hw
  | .events w mask => h.updThread w (fun th => { th with evpend := th.evpend ||| mask })
  | .cause w bit => h.raiseIpend w.core w.thread bit
  | .halted wd bit => (h.updCore wd (fun k => { k with whalt := k.whalt ||| (1#44 <<< bit) })).raiseIpend wd 0 4
  | .stilled wd bit => (h.updCore wd (fun k => { k with wstill := k.wstill ||| (1#44 <<< bit) })).raiseIpend wd 0 3
  | .dropIn c src off => h.dropIn c src off
  | .dropOut c addr => h.dropOut c addr
  | .xresult w r ev =>
    let h1 := (h.updThread w (fun th => { th with xres := th.xres ++ [r], xoutstanding := th.xoutstanding - 1 })).noted w.core
    match ev with
    | some k => h1.raiseEvent w k
    | none => h1
  | .lockFree c l => h.updCore c (·.lockNotice l)
  | .trel c v => h.updCore c (·.trel v (h.cycle c + 1))
  | .windows c ws => h.updCore c (fun k => { k with winActive := ws })
  | .purlinRead v => { h with purlinRead := v }
  | .extClear w =>
    { h.updThread w (fun th => { th with ipend := th.ipend &&& ~~~(4#11) }) with
      irq := { h.irq with flying := h.irq.flying.filter (fun x => !(x.1 == bentOf w.core && decide (x.2.2 ≤ h.clock))) } }
  | .source n => h.raiseSource n
  | .performed w => h.updThread w Thread.noticed
  | .freeze c => h.freezeFrom (h.clock + 1) c
  | .thaw c => h.thawFrom (h.clock + 1) c
  | .edge i =>
    match sget i h.le.cuts with
    | some x => { h with le := { h.le with cuts := sset i { x with done := x.done - 1 } h.le.cuts } }
    | none => h
  | .stop w =>
    let next := slotAt w.thread (h.cycle w.core + 1)
    if (h.core w.core).frozenAt.isSome then h.enqueue (h.clock + 1) (.stop w)
    else if next = h.cycle w.core + 1 then (h.updCore w.core (·.stopThread w.thread)).noted w.core
    else h.enqueue (h.clockOf w.core next - 1) (.stop w)
  | .load w bs =>
    match (h.core w.core).loads[w.thread] with
    | some o =>
      if (h.core w.core).frozenAt.isSome then h.enqueue (h.clock + 1) (.load w bs)
      else ((h.updThread w (·.writeLoad bs o.dest)).updCore w.core
        (fun k => { k with loads := k.loads.set w.thread none })).release w o.words
    | none => h

/-- The effects of the cycles before a clock value take hold, in the order of their cycles. -/
def Hw.settleTo (h : Hw) (t : Nat) : Hw :=
  let due := h.later.takeWhile (fun e => decide (e.1 < t))
  due.foldl (fun (h : Hw) e => ({ h with clock := max h.clock e.1 } : Hw).applyLater e.2) { h with later := h.later.drop due.length }

/-- Let time run to a clock value, if it lies ahead: the effects of the cycles before it take hold, and then those that a frozen core
held back and that a thaw among them let go (log entry 81). -/
def Hw.reach (h : Hw) (t : Nat) : Hw :=
  if t ≤ h.clock then h else { (h.settleTo t).settleTo t with clock := t, acted := false }

/-- Let time run until a core's CYCLE is at least a value. -/
def Hw.reachCycle (h : Hw) (c cyc : Nat) : Hw := h.reach (h.clockOf c cyc)

/-- An event of the hardware takes place, no earlier than a clock value: the accesses of its cycle come before it
(log entry 81). -/
def Hw.event (h : Hw) (t : Nat) : Hw := { h.reach t with acted := true }

/-- An event of a core's hardware, no earlier than a CYCLE value. -/
def Hw.eventCycle (h : Hw) (c cyc : Nat) : Hw := h.event (h.clockOf c cyc)

/-- An effect of a cycle: it takes hold at once when that cycle has passed, else when time passes it. -/
def Hw.after (h : Hw) (t : Nat) (e : Later) : Hw :=
  if t < h.clock then h.applyLater e else h.enqueue t e

/-- The first cycle of a core in which an access can still be made: the present one, or the next when an event of the present
one has taken place. -/
def Hw.openCycle (h : Hw) (c : Nat) : Nat := h.cycle c + b2n h.acted

/-- An access from outside the cores: in the present cycle, or in the next when an event of the present one has taken place. -/
def Hw.access (h : Hw) : Hw := if h.acted then h.reach (h.clock + 1) else h

/-- Let time run to the thread's first slot from a CYCLE value (R182). -/
def Hw.toSlotFrom (h : Hw) (w : Who) (cyc : Nat) : Hw :=
  h.reachCycle w.core (slotAt w.thread (max (h.openCycle w.core) cyc))

/-- Let time run to the thread's next slot (R157, R182). -/
def Hw.toSlot (h : Hw) (w : Who) : Hw := h.toSlotFrom w (h.thread w).nextIssue

/-! ### Exceptions found -/

/-- The codes of the *Exception codes* table (R197). -/
def excIllegal : Nat := 0x01
def excPriv : Nat := 0x02
def excAlign : Nat := 0x03
def excDataRegion : Nat := 0x04
def excPortReach : Nat := 0x05
def excImemRange : Nat := 0x06
def excFetchAlign : Nat := 0x07
def excFetchRange : Nat := 0x08
def excNoExecute : Nat := 0x09
def excDivZero : Nat := 0x0A
def excTrap : Nat := 0x0B
def excBrk : Nat := 0x0C
def excPageAbsent : Nat := 0x0D
def excPageDenied : Nat := 0x0E
def excGroupInvalid : Nat := 0x10
def excGroupClosed : Nat := 0x11
def excGroupOwned : Nat := 0x12
def excGroupFormat : Nat := 0x13
def excMatFormat : Nat := 0x14
def excMatShape : Nat := 0x15
def excTileEmpty : Nat := 0x16
def excTileOwned : Nat := 0x17
def excTileShape : Nat := 0x18
def excTileAlign : Nat := 0x19
def excTileRegion : Nat := 0x1A
def excTileRow : Nat := 0x1B
def excStreamRoute : Nat := 0x20
def excStreamResume : Nat := 0x21
def excStreamEntry : Nat := 0x22
def excWindowMismatch : Nat := 0x23
def excChanRoute : Nat := 0x28

/-- How an issued instruction leaves its thread: complete after `n` slots, complete with a new PC by a jump or by ERET, stalled, faulted, or
holding its thread in a state of its own (WAIT, a thread stop). -/
inductive Ctl where
  | done (slots : Nat)
  | jump (pc : BitVec 20)
  | ret (pc : BitVec 20)
  | stall (r : Stall) (on : Nat)
  | fault (e : Exc)
  | stay
  deriving DecidableEq, Repr

/-- A fault at the instruction itself with EADDR 0 or a stated address (R156). -/
def faultAt (th : Thread) (code : Nat) (eaddr : Nat := 0) : Ctl :=
  .fault { code := code, epc := th.pc, eaddr := BitVec.ofNat 48 eaddr }

/-! ### Trace capture (R476) -/

/-- The trace queue of a bent takes four entries a cycle and holds 64: an entry beyond that is dropped and counted. -/
def Bent.traceAdd (b : Bent) (now : Nat) (e : BitVec 128) : Bent :=
  let waiting := b.traceQueue.2 - 4 * (now - b.traceQueue.1)
  if waiting < 68 then
    { b with trace := sset (b.traceHead % 1023) e b.trace, traceHead := b.traceHead + 1, traceQueue := (now, waiting + 1) }
  else { b with traceDrop := b.traceDrop + 1 }

/-- Record an event of a thread when its core's TRCTL selects it, in a job loaded with DEBUG = 1: the kind is the bit number
of the event in TRCTL. -/
def Hw.traceEv (h : Hw) (w : Who) (kind : Nat) (pc : BitVec 20) (detail : Nat) : Hw :=
  let ctl := (h.core w.core).trctl
  if h.debug && ctl.getLsbD 31 && ctl.getLsbD (16 + w.thread.val) && ctl.getLsbD kind then
    let e := h.fcyc + 2 ^ 64 * (detail % 2 ^ 32) + 2 ^ 96 * pc.toNat + 2 ^ 116 * kind + 2 ^ 120 * w.thread.val
      + 2 ^ 122 * coreIn w.core
    h.updBent (bentOf w.core) (·.traceAdd h.clock (BitVec.ofNat 128 e))
  else h

/-- What an issued instruction records: a taken branch or jump, or an ERET, with its target. -/
def Hw.traceCtl (h : Hw) (w : Who) : Ctl → Hw
  | .jump pc => h.traceEv w 0 (h.thread w).pc pc.toNat
  | .ret pc => h.traceEv w 2 (h.thread w).pc pc.toNat
  | _ => h

/-! ### Taking an exception or an interrupt (R195) -/

/-- ESTAT at an entry (R195, R214). -/
def entryEstat (th : Thread) (isInt : Bool) (code detail : Nat) : W32 :=
  BitVec.ofNat 32 (b2n isInt * 2 ^ 31 + b2n th.mode * 2 ^ 30 + b2n th.mie * 2 ^ 29 + b2n th.fz * 2 ^ 28 + b2n th.fn * 2 ^ 27
    + b2n th.fc * 2 ^ 26 + b2n th.fv * 2 ^ 25 + b2n th.tileCur.isSome * 2 ^ 24
    + ((th.tileCur.map (·.val)).getD 0) * 2 ^ 21 + b2n th.acur.active * 2 ^ 20 + (detail % 8) * 2 ^ 9 + code % 64)

/-- Entry to an exception or an interrupt: the save registers are written, the status changed, and the PC set to the
vector (R195). -/
def Thread.enter (th : Thread) (isInt : Bool) (e : Exc) (vector : BitVec 20) (next : Nat) : Thread :=
  { th with estat := entryEstat th isInt e.code e.detail, epc := e.epc &&& 0xFFFFC#20, eaddr := e.eaddr,
            mode := true, mie := false, exl := true, pc := vector, tstate := .running, stall := none, pfx := none,
            pair := none, found := none, tileCur := none, nextIssue := next }

/-- Return from an exception: PC, MODE, MIE and the flags from EPC and ESTAT, and EXL cleared (R199). -/
def Thread.eret (th : Thread) : Thread :=
  { th with mode := th.estat.getLsbD 30, mie := th.estat.getLsbD 29, fz := th.estat.getLsbD 28,
            fn := th.estat.getLsbD 27, fc := th.estat.getLsbD 26, fv := th.estat.getLsbD 25, exl := false }

/-- A thread becomes HALTED with what a double fault or a core halt records (R204, R205). -/
def Thread.halt (th : Thread) (e : Exc) : Thread :=
  { th with tstate := .halted, dfcode := BitVec.ofNat 6 e.code, dfpc := e.epc &&& 0xFFFFC#20,
            found := none, stall := none, pfx := none, pair := none, tileCur := none }

/-- A double fault of thread 1, 2 or 3: it is HALTED in the cycle of the fault, and THREAD_FAULT of thread 0 is set in the next
(R204). -/
def Hw.doubleFault (h : Hw) (w : Who) (e : Exc) : Hw :=
  ((h.updThread w (·.halt e)).noted w.core).after (h.clockOf w.core (e.at_ + 1)) (.cause ⟨w.core, 0⟩ 5)

/-- A warden is lost in a cycle with a delivery outstanding: the delivery is cleared, and its source is pending again in the
following cycle (R417). -/
def Hw.wardenLost (h : Hw) (b at_ : Nat) : Hw :=
  match sget (8 + b) h.irq.serv with
  | some s =>
    { h with irq := { h.irq with serv := sdel (8 + b) h.irq.serv,
                                 flying := h.irq.flying.filter (·.1 != b) } }.after (at_ + 1) (.source s)
  | none => h

/-- The report of a core halt, in the cycle after a clock value: WHALT and CORE_HALT of the warden, or source b when the warden
itself halted (R206, R412). -/
def Hw.reportHalt (h : Hw) (c : CoreId) (at_ : Nat) : Hw :=
  if isWarden c then (h.wardenLost (bentOf c) at_).after (at_ + 1) (.source (bentOf c))
  else h.after (at_ + 1) (.halted (coreId (wardenOf (bentOf c))) (coreIn c))

/-- Stalls whose instruction a core halt lets complete (R205). -/
def Stall.finishes : Stall → Bool
  | .load | .fence | .cinv | .lock | .port | .drain => true
  | _ => false

/-- A core halt: every thread becomes HALTED, thread 0 takes DFCODE and DFPC, tile moves and streams stop (R205). -/
def Hw.coreHalted (h : Hw) (c : CoreId) (e : Exc) : Hw :=
  let stop := fun (k : Core) => (((k.stopWork 0).stopWork 1).stopWork 2).stopWork 3
  let halt := fun (th : Thread) =>
    { th with tstate := .halted, found := none, pfx := none, pair := none, tileCur := none, stall := th.stall.filter Stall.finishes }
  (((h.updCore c (fun k => ((stop k).updThreads halt).updThread 0 (·.halt e))).updCore c
      (fun k => { k with coreHalt := true })).noted c).reportHalt c (h.clockOf c e.at_)

/-- The cursor that a thread's tile move left, unless it has been cleared since (R118, R195). -/
def Core.keepCursor (k : Core) (t : Fin 4) : Core :=
  k.updThread t (fun th => { th with tileCur := th.tileCur.filter (fun u => k.tiles[u].ract) })

/-- A found exception performs its entry in the thread's next slot (R196); with EXL 1 it is a double fault (R204) or a
core halt (R205) of the cycle in which it was found. -/
def Hw.takeException (h : Hw) (w : Who) (e : Exc) : Hw :=
  if (h.thread w).exl then
    if w.thread = 0 then h.coreHalted w.core e else h.doubleFault w e
  else
    let h1 := (h.toSlotFrom w (e.at_ + 1)).updCore w.core (·.keepCursor w.thread)
    ((h1.traceEv w 1 (h1.thread w).pc (entryEstat (h1.thread w) false e.code e.detail).toNat).updThread w
      (fun th => Thread.boundary (th.enter false e th.vbase (h1.cycle w.core + 4)))).noted w.core

/-- An interrupt entry in the present slot (R192, R193): EXT goes to the controller's vector with code 0x3E, any other cause to
VBASE + 0x080 with code 0. -/
def Hw.takeInterrupt (h : Hw) (w : Who) : Hw :=
  let h1 := h.updCore w.core (fun k => (k.stopWork w.thread).keepCursor w.thread)
  let code := if (h1.thread w).ipend.getLsbD 2 then 0x3E else 0
  ((h1.traceEv w 1 (h1.thread w).pc (entryEstat (h1.thread w) true code 0).toNat).updThread w (fun th =>
    let ext := th.ipend.getLsbD 2
    Thread.boundary (th.enter true { code := if ext then 0x3E else 0, epc := th.pc }
      (if ext then th.extVec else th.vbase + 0x80) (h1.cycle w.core + 4)))).noted w.core

end Sys2Proof.Machine
end

