-- ==== Sys2Proof/Machine/Flags.lean ====
section
/-!
DEFINITION. The flags Z, N, C, V and every flag computation of the scalar instructions (R139, R142, R145), and the condition
codes (R140).
-/

namespace Sys2Proof.Machine

/-- The four flags (R133). -/
structure Flags where
  z : Bool
  n : Bool
  c : Bool
  v : Bool
  deriving DecidableEq, Repr

/-- A thread's flags. -/
def Thread.flags (th : Thread) : Flags := ⟨th.fz, th.fn, th.fc, th.fv⟩
/-- Write a thread's flags. -/
def Thread.setFlags (th : Thread) (f : Flags) : Thread := { th with fz := f.z, fn := f.n, fc := f.c, fv := f.v }

/-- The signed sum or difference of two values does not fit the width (R139). -/
def outside (w : Nat) (x : Int) : Bool := decide (x < -(2 ^ (w - 1))) || decide (2 ^ (w - 1) ≤ x)

/-- Flags of x + y + carry: C is the carry out (R139). -/
def addFlags {w : Nat} (x y : BitVec w) (cin : Bool) : Flags :=
  let r := x + y + BitVec.ofNat w (b2n cin)
  ⟨r == 0, r.msb, decide (2 ^ w ≤ x.toNat + y.toNat + b2n cin), outside w (x.toInt + y.toInt + b2n cin)⟩

/-- Flags of x − y − borrow: C is 1 when no borrow occurs (R139). -/
def subFlags {w : Nat} (x y : BitVec w) (borrow : Bool) : Flags :=
  let r := x - y - BitVec.ofNat w (b2n borrow)
  ⟨r == 0, r.msb, decide (y.toNat + b2n borrow ≤ x.toNat), outside w (x.toInt - y.toInt - b2n borrow)⟩

/-- Z and N from a result, C and V as they stood (R139). -/
def znFlags {w : Nat} (f : Flags) (r : BitVec w) : Flags := { f with z := r == 0, n := r.msb }
/-- Z, N and C, V as it stood (R142). -/
def zncFlags {w : Nat} (f : Flags) (r : BitVec w) (c : Bool) : Flags := { f with z := r == 0, n := r.msb, c := c }
/-- Z, N and V, C as it stood (R142, R145). -/
def znvFlags {w : Nat} (f : Flags) (r : BitVec w) (v : Bool) : Flags := { f with z := r == 0, n := r.msb, v := v }

/-- A condition code holds (R140); code 0xF names none. -/
def condHolds (f : Flags) (code : BitVec 4) : Bool :=
  match code.toNat with
  | 0x0 => f.z
  | 0x1 => !f.z
  | 0x2 => f.c
  | 0x3 => !f.c
  | 0x4 => f.n
  | 0x5 => !f.n
  | 0x6 => f.v
  | 0x7 => !f.v
  | 0x8 => f.c && !f.z
  | 0x9 => !f.c || f.z
  | 0xA => f.n == f.v
  | 0xB => f.n != f.v
  | 0xC => !f.z && f.n == f.v
  | 0xD => f.z || f.n != f.v
  | 0xE => true
  | _ => false

/-- SHL and its flags: an amount of 0 changes neither the value nor C (R142). -/
def shlRes (f : Flags) (x : W64) (n : Nat) : W64 × Flags :=
  if n = 0 then (x, znFlags f x) else (x <<< n, zncFlags f (x <<< n) (x.getLsbD (64 - n)))
/-- SHR and its flags (R142). -/
def shrRes (f : Flags) (x : W64) (n : Nat) : W64 × Flags :=
  if n = 0 then (x, znFlags f x) else (x >>> n, zncFlags f (x >>> n) (x.getLsbD (n - 1)))
/-- SAR and its flags (R142). -/
def sarRes (f : Flags) (x : W64) (n : Nat) : W64 × Flags :=
  if n = 0 then (x, znFlags f x) else (x.sshiftRight n, zncFlags f (x.sshiftRight n) (x.getLsbD (n - 1)))
/-- ROR and its flags: C is bit 63 of the result (R142). -/
def rorRes (f : Flags) (x : W64) (n : Nat) : W64 × Flags :=
  if n = 0 then (x, znFlags f x) else (x.rotateRight n, zncFlags f (x.rotateRight n) (x.rotateRight n).msb)

end Sys2Proof.Machine
end

