-- ==== Sys2Proof/Machine/Mesh.lean ====
section
/-!
DEFINITION. The mesh (R22, R270 to R279): distances and latencies, the paths of flits, their buffers, the arbitration of one
router output, and the way of a flit from its source to its destination.
-/

namespace Sys2Proof.Machine

/-! ### Distances (R278, R279) -/

/-- Column of a bent (R6). -/
def bentX (b : Nat) : Nat := b % 8
/-- Row of a bent (R6). -/
def bentY (b : Nat) : Nat := b / 8
/-- The distance of two numbers. -/
def absDiff (x y : Nat) : Nat := (x - y) + (y - x)
/-- Hops between two bents (R278). -/
def hopsBB (b1 b2 : Nat) : Nat := absDiff (bentX b1) (bentX b2) + absDiff (bentY b1) (bentY b2)
/-- Hops between a bent and a plate (R278). -/
def hopsBP (b : Nat) : Plate → Nat
  | .west => bentX b + 1
  | .east => 8 - bentX b
/-- Hops between a bent and the Ridge (R278). -/
def hopsBR (b : Nat) : Nat := (if bentX b ≤ 3 then absDiff (bentX b) 3 else absDiff (bentX b) 4) + bentY b + 1

/-- The endpoints of the mesh and their routers: bents 0 to 47, then the west plate, the east plate and the Ridge. -/
def plateRouter : Plate → Nat
  | .west => 48
  | .east => 49
/-- The Ridge. -/
def ridgeRouter : Nat := 50

/-- The plate of an endpoint number. -/
def routerPlate (r : Nat) : Plate := if r = 48 then .west else .east

/-- Hops between two endpoints (R278). -/
def hops (a b : Nat) : Nat :=
  if a = b then 0
  else if a < 48 then (if b < 48 then hopsBB a b else if b < 50 then hopsBP a (routerPlate b) else hopsBR a)
  else if b < 48 then (if a < 50 then hopsBP b (routerPlate a) else hopsBR b)
  else if a = 50 ∨ b = 50 then 5 else 9

/-- The unloaded latency of h hops (R279). -/
def meshD (h : Nat) : Nat := 18 + 16 * h
/-- The unloaded latency between two endpoints: none within one. -/
def meshTime (a b : Nat) : Nat := if a = b then 0 else meshD (hops a b)
/-- The latency of a tuple or credit between two cores: 8 cycles within a bent, 8 + d(h) between bents (R249, R279). -/
def tupleLatency (c1 c2 : Nat) : Nat := 8 + meshTime (bentOf c1) (bentOf c2)

/-! ### Paths (R274) -/

/-- The flit buffers of a router input for a channel: bulk, reply, control, sync (R272). -/
def flitBuffers (vc : Fin 4) : Nat :=
  match vc.val with
  | 2 => 8
  | 3 => 2
  | _ => 16

/-- One step of a path: the output taken at a router, the next router and its input (R274, R276). -/
abbrev Hop := Nat × Nat × Nat

/-- The steps along a row. -/
def rowSteps (b : Nat) (east : Bool) : Nat → List Hop
  | 0 => []
  | n + 1 =>
    if east then (2, b + 1, 4) :: rowSteps (b + 1) east n else (4, b - 1, 2) :: rowSteps (b - 1) east n

/-- The steps along a column. -/
def colSteps (b : Nat) (south : Bool) : Nat → List Hop
  | 0 => []
  | n + 1 =>
    if south then (3, b + 8, 1) :: colSteps (b + 8) south n else (1, b - 8, 3) :: colSteps (b - 8) south n

/-- The way from a bent to a bent: along the row, then along the column. -/
def walkSteps (b1 b2 : Nat) : List Hop :=
  let corner := 8 * bentY b1 + bentX b2
  rowSteps b1 (bentX b1 < bentX b2) (absDiff (bentX b1) (bentX b2)) ++
    colSteps corner (bentY b1 < bentY b2) (absDiff (bentY b1) (bentY b2))

/-- The local output, and the local input, of a router (R276). -/
def localPort (r : Nat) : Nat := if r < 48 then 0 else if r < 50 then 6 else 2

/-- The router number that stands for having left the mesh. -/
def outside_ : Nat := 99

/-- The bent at which an endpoint's flits enter the mesh towards column `x`, or leave it coming from column `x`, in row `y`: a
bent itself, the edge of a plate's row, the bents under the Ridge's ports (R274). -/
def edgeBent (r x y : Nat) : Nat :=
  if r < 48 then r else if r = 48 then 8 * y else if r = 49 then 8 * y + 7 else if x ≤ 3 then 3 else 4

/-- The step from an edge endpoint into the mesh at a bent. -/
def stepIn (r e : Nat) : List Hop :=
  if r < 48 then [] else if r = 48 then [(bentY e, e, 4)] else if r = 49 then [(bentY e, e, 2)]
  else [(if e = 3 then 0 else 1, e, 1)]

/-- The step from a bent out to an edge endpoint. -/
def stepOut (r e : Nat) : List Hop :=
  if r < 48 then [] else if r = 48 then [(4, r, bentY e)] else if r = 49 then [(2, r, bentY e)]
  else [(1, r, if e = 3 then 0 else 1)]

/-- The column that decides the Ridge's port, and the row of a plate's mesh port, for the other endpoint of a path; plates send
to each other along the row that is named, and to the Ridge along row 0 (R274). -/
def edgeX (r : Nat) : Nat := if r < 48 then bentX r else if r = 48 then 0 else 7
def edgeY (r row : Nat) : Nat := if r < 48 then bentY r else if r < 50 then row else 0

/-- The path between two endpoints, with the local output of the last router at its end (R274). -/
def path (src dst row : Nat) : List Hop :=
  let e1 := edgeBent src (edgeX dst) (edgeY dst row)
  let e2 := edgeBent dst (edgeX src) (edgeY src row)
  stepIn src e1 ++ walkSteps e1 e2 ++ stepOut dst e2 ++ [(localPort dst, outside_, 0)]

/-! ### Flits, buffers and outputs (R270 to R276) -/

/-- The flits in a router input buffer of a channel, or on their way into it (R273). -/
def Hw.buffered (h : Hw) (r p : Nat) (vc : Fin 4) : Nat :=
  (h.flits.filter (fun f => f.router == r && f.inPort == p && f.vc == vc && !f.waiting && f.exit.isNone)).length

/-- A transaction leaves its source block at a clock value as one flit (R271): it enters its router's local input 9 cycles
later, or waits there for a buffer (R273). Within one endpoint there is no flit, and the number is 0. Rows of plates' own ports are
those of the endpoints, except between plates (R274). -/
def Hw.postRow (h : Hw) (src dst row : Nat) (vc : Fin 4) (start : Nat) (auto : Bool) : Nat × Hw :=
  if src = dst then (0, h)
  else
    let n := h.flitSerial + 1
    (n, { h with flitSerial := n
                 flits := h.flits ++ [{ serial := n, vc := vc, src := src, dst := dst, router := src, inPort := localPort src,
                                        stamp := start + 9 - h.fcyc0, waiting := decide (flitBuffers vc ≤ h.buffered src (localPort src) vc),
                                        hops := path src dst row, auto := auto }] })

/-- A transaction that an event of its own delivers. -/
def Hw.post (h : Hw) (src dst : Nat) (vc : Fin 4) (start : Nat) : Nat × Hw := h.postRow src dst 0 vc start false

/-- A transaction whose delivery no event awaits. -/
def Hw.postAuto (h : Hw) (src dst : Nat) (vc : Fin 4) (start : Nat) : Hw := (h.postRow src dst 0 vc start true).2

/-- The flit of a delivered transaction is no longer in the mesh. -/
def Hw.dropFlit (h : Hw) (n : Nat) : Hw := { h with flits := h.flits.filter (fun f => f.serial != n) }

/-- The order in which an output takes the ready flits of a channel: oldest stamp, lower input port, buffer order. -/
def flitOrder (x y : Flit) : Bool := x.stamp < y.stamp || (x.stamp == y.stamp && x.inPort ≤ y.inPort)

/-- A flit is in a buffer of a router and bound for an output. -/
def Flit.bound (f : Flit) (r o : Nat) : Bool :=
  f.router == r && !f.waiting && f.exit.isNone && f.hops.head?.map (·.1) == some o

/-- The ready flits of a channel at an output in a cycle, in order, as many as it holds credits for (R276). -/
def Hw.ready (h : Hw) (r o y : Nat) (vc : Fin 4) : List Flit :=
  let bound := inOrder flitOrder (h.flits.filter (fun f => f.bound r o && f.vc == vc && decide (f.stamp ≤ y)))
  match bound with
  | [] => []
  | f :: _ =>
    match f.hops with
    | (_, r', p') :: _ => if r' = outside_ then bound else bound.take (flitBuffers vc - h.buffered r' p' vc)
    | [] => []

/-- A flit is sent in a cycle: its buffer is free, and it enters the next router's input 16 cycles later, or reaches its
destination block 9 cycles later (R279); a flit that waited for the freed buffer enters it (R273). -/
def Hw.sendFlit (h : Hw) (y : Nat) (f : Flit) : Hw :=
  let moved : List Flit := match f.hops with
    | (_, r', p') :: more =>
      let left := some (f.left.getD y)
      if r' = outside_ then (if f.auto then [] else [{ f with exit := some (h.fcyc0 + y + 9), hops := [], left := left }])
      else [{ f with router := r', inPort := p', stamp := y + 16, hops := more, left := left }]
    | [] => []
  let enters := fun (g : Flit) => g.waiting && g.router == f.router && g.inPort == f.inPort && g.vc == f.vc
  let flits := h.flits.flatMap (fun g => if g.serial = f.serial then moved else [g])
  { h with flits := updFirst enters (fun g => { g with waiting := false, stamp := max g.stamp y }) flits }

/-- One cycle of a router output (R276): no lane in a maintenance cycle, else eight, taken by sync, control, reply and
bulk in the stated shares. -/
def Hw.arbitrate (h : Hw) (r o y : Nat) : Hw :=
  let h1 := { h with arbAt := sset (8 * r + o) (y + 1) h.arbAt }
  if 125 ≤ y % 128 then h1
  else
    let sync := (h1.ready r o y 3).take 2
    let free1 := 8 - sync.length
    let keep := min 1 (h1.ready r o y 0).length
    let ctl := (h1.ready r o y 2).take (min 2 (free1 - keep))
    let free2 := free1 - ctl.length
    let rep := (h1.ready r o y 1).take (free2 - keep)
    let free3 := free2 - rep.length
    let bulk := (h1.ready r o y 0).take free3
    (sync ++ ctl ++ rep ++ bulk).foldl (·.sendFlit y) h1

/-- ROUTER_ARBITRATION's cycle: the next of that output. -/
def routerArbitration (r o : Nat) (h : Hw) : Hw :=
  let y := max (sgetD (8 * r + o) 0 h.arbAt) (h.clock - h.fcyc0)
  (h.reach (h.fcyc0 + y)).arbitrate r o y

/-- ROUTER_ARBITRATION. -/
def execRouterArbitration (r : Fin 51) (o : Fin 7) (s : State) : Out := onHw (fun _ => routerArbitration r o) s

/-! ### A flit's way (R275, R276) -/

/-- The first cycle from `y` that is not a maintenance cycle (R270). -/
def laneCycle (y : Nat) : Nat := if 125 ≤ y % 128 then (y / 128 + 1) * 128 else y

/-- The cycle in which an output next decides on a flit, with its router and output. -/
def Hw.decision (h : Hw) (f : Flit) : Option (Nat × Nat × Nat) :=
  match f.hops with
  | (o, _, _) :: _ =>
    if f.waiting || f.exit.isSome then none
    else some (laneCycle (max f.stamp (sgetD (8 * f.router + o) 0 h.arbAt)), f.router, o)
  | [] => none

/-- The next decision of the mesh: the earliest cycle, and in it the lowest router and output. -/
def Hw.nextDecision (h : Hw) : Option (Nat × Nat × Nat) :=
  (h.flits.filterMap h.decision).foldl (fun best x =>
    match best with
    | none => some x
    | some b =>
      if x.1 < b.1 ∨ (x.1 = b.1 ∧ 8 * x.2.1 + x.2.2 < 8 * b.2.1 + b.2.2) then some x else some b) none

/-- The mesh runs on, decision by decision, until a flit is where it is awaited. -/
def driveMesh (n : Nat) (there : Flit → Bool) : Nat → Hw → Option (Flit × Hw)
  | 0, _ => none
  | fuel + 1, h =>
    match h.flits.find? (fun f => f.serial == n) with
    | none => none
    | some f =>
      if there f then some (f, h)
      else
        match h.nextDecision with
        | none => none
        | some (y, r, o) => driveMesh n there fuel (h.arbitrate r o y)

/-- Decisions enough for every flit in the mesh to cross it. -/
def Hw.meshFuel (h : Hw) : Nat := 4096 * (h.flits.length + 1)

/-- The mesh runs on until a flit reaches its destination: the clock of that, and the flit is out. -/
def Hw.drive (h : Hw) (n : Nat) : Option (Nat × Hw) :=
  (driveMesh n (fun f => f.exit.isSome) h.meshFuel h).map (fun r => (r.1.exit.getD 0, r.2.dropFlit n))

/-- The mesh runs on until a flit has left its source's router: the FCYC of that (R256). -/
def Hw.driveOut (h : Hw) (n : Nat) : Option (Nat × Hw) :=
  (driveMesh n (fun f => f.left.isSome) h.meshFuel h).map (fun r => (r.1.left.getD 0, r.2))

/-- A flit between the same endpoints on the same channel that was sent earlier has not been delivered (R275). -/
def Hw.overtakes (h : Hw) (n : Nat) : Bool :=
  match h.flits.find? (fun f => f.serial == n) with
  | some f => h.flits.any (fun g => !g.auto && g.src == f.src && g.dst == f.dst && g.vc == f.vc && decide (g.serial < n))
  | none => false

/-- A transaction due at a clock value is delivered: with a flit, once that has reached its destination, in the order of R275.
None while an earlier flit of its endpoints and channel is to be delivered first; a flit that a reset took out of the mesh is
awaited no more. -/
def Hw.land (h : Hw) (n due : Nat) : Option (Nat × Hw) :=
  if n = 0 || !h.flits.any (·.serial == n) then some (due, h)
  else if h.overtakes n then none
  else (h.drive n).map (fun r => (max due r.1, r.2))

end Sys2Proof.Machine
end

