-- ==== Sys2Proof/Machine/Operands.lean ====
section
/-!
DEFINITION. Operand forms: prefixed immediates (R136), mortise sources and the popping of mortise entries (R150, R151),
and load and store addresses (R146).
-/

namespace Sys2Proof.Machine

/-- An instruction whose effect is on its own thread alone. -/
def onThread (w : Who) (f : Thread → Ctl × Thread) (h : Hw) : Ctl × Hw :=
  let r := f (h.thread w)
  (r.1, h.updThread w (fun _ => r.2))

/-! ### Mortise entries -/

/-- A popped, flushed or dropped entry returns its credit at a clock value, on the reply channel between bents (R244, R249,
R272); an entry that came through a plate returns it to that plate (R256). -/
def Hw.returnCreditAt (h : Hw) (at_ : Nat) (m : Fin 16) (now : Nat) : CreditTo → Hw
  | .tenon c n e =>
    let r := h.post (bentOf at_) (bentOf c) 1 (now + 8)
    { r.2 with credits := r.2.credits ++
        [{ core := c, tenon := n, epoch := e, due := now + tupleLatency at_ c, source := some (coreId at_), flit := r.1 }] }
  | .plate p =>
    let r := h.post (bentOf at_) (plateRouter p) 1 (now + 8)
    { r.2 with plateCredits := r.2.plateCredits ++
        [{ plate := p, core := coreId at_, mort := m, due := now + 8 + meshTime (bentOf at_) (plateRouter p), flit := r.1 }] }

/-- The credit of an entry of a mortise returns. -/
def Hw.returnCredit (h : Hw) (at_ : Nat) (m : Fin 16) (owed : CreditTo) : Hw := h.returnCreditAt at_ m h.clock owed

/-- Remove the head entry of a mortise and return its credit (R150). -/
def Hw.popMortise (h : Hw) (c : CoreId) (m : Fin 16) : Hw :=
  match (h.core c).mortises[m] with
  | [] => h
  | e :: rest => (h.updCore c (fun k => { k with mortises := k.mortises.set m rest })).returnCredit c m e.credit

/-- A source operand: its value and the mortise its completion pops, or how the instruction ends without it. -/
inductive Opd where
  | val (x : W64) (pop : Option (Fin 16))
  | bad (c : Ctl)
  deriving DecidableEq, Repr

/-- The head entry of a mortise as an operand (R150, R151, R89). -/
def headOperand (th : Thread) (k : Core) (m : Fin 16) : Entry ⊕ Ctl :=
  match k.mortises[m] with
  | [] => .inr (.stall .mortise m)
  | e :: _ => if e.stream then .inr (faultAt th excStreamEntry) else .inl e

/-- The second source of an ALU or accumulator instruction (R141, R145). -/
def operand (w : Who) (h : Hw) : Src → Opd
  | .reg d => .val ((h.thread w).getD d) none
  | .mort m =>
    if hm : m.val < 16 then
      match headOperand (h.thread w) (h.core w.core) ⟨m.val, hm⟩ with
      | .inl e => .val (e.words.headD 0) (some ⟨m.val, hm⟩)
      | .inr c => .bad c
    else .bad (faultAt (h.thread w) excIllegal)

/-- An instruction with a second source: a fault of its own pops nothing (R151). -/
def withOperand (w : Who) (b : Src) (f : Thread → W64 → Ctl × Thread) (_p : Option (BitVec 26)) (h : Hw) : Ctl × Hw :=
  match operand w h b with
  | .bad c => (c, h)
  | .val y pop =>
    let r := f (h.thread w) y
    match r.1, pop with
    | .fault e, _ => (.fault e, h)
    | c, some m => (c, ((h.updThread w (fun _ => r.2)).traceEv w 3 (h.thread w).pc m).popMortise w.core m)
    | c, none => (c, h.updThread w (fun _ => r.2))

/-! ### Prefixed immediates (R136) -/

/-- The 32 bits of a prefixed immediate; none when the field has a bit above 5 (R138). -/
def imm32 {n : Nat} (hi : BitVec 26) (f : BitVec n) : Option W32 :=
  if f.toNat < 64 then some (BitVec.ofNat 32 (hi.toNat * 64 + f.toNat)) else none

/-- The sign-extended immediate of a field, prefixed or not; none is ILLEGAL. -/
def immS {n : Nat} (p : Option (BitVec 26)) (f : BitVec n) : Option W64 :=
  match p with
  | none => some (f.signExtend 64)
  | some hi => (imm32 hi f).map (·.signExtend 64)

/-- The zero-extended immediate of a field, prefixed or not; none is ILLEGAL. -/
def immZ {n : Nat} (p : Option (BitVec 26)) (f : BitVec n) : Option W64 :=
  match p with
  | none => some (f.setWidth 64)
  | some hi => (imm32 hi f).map (·.setWidth 64)

/-- An immediate instruction of one thread: an immediate that R138 forbids raises ILLEGAL. -/
def withImm (w : Who) (imm : Option (BitVec 26) → Option W64) (f : Thread → W64 → Ctl × Thread)
    (p : Option (BitVec 26)) (h : Hw) : Ctl × Hw :=
  match imm p with
  | none => (faultAt (h.thread w) excIllegal, h)
  | some x => onThread w (fun th => f th x) h

/-! ### Load and store addresses (R146) -/

/-- The address of a load or store, modulo 2^48; none is ILLEGAL: a prefix with an index register, or a prefixed field with
a bit above 5 (R136, R138). -/
def dataAddr (th : Thread) (b : Fin 16) (p : Option (BitVec 26)) : Offset → Option Nat
  | .off o => (immS p o).map (fun x => (th.getA b + x.setWidth 48).toNat)
  | .idx d sh =>
    if p.isSome then none else some ((th.getA b + ((th.getD d).setWidth 48 <<< sh.toNat)).toNat)

end Sys2Proof.Machine
end

