-- ==== Sys2Proof/Machine/Paths.lean ====
section
/-!
DEFINITION. Data-space paths of a core (R147, R148, R231 to R237, R405, R406): regions, translation, the data cache with
its miss registers and eviction buffer, requests to slices and memory controllers, late store errors and machine checks.
-/

namespace Sys2Proof.Machine

/-! ### Reports (R202, R203, R468) -/

/-- A late store error at an address: STORE_ERR of thread 0, with SEADDR captured when it was 0 (R203). -/
def Hw.lateStore (h : Hw) (c : CoreId) (addr : Nat) : Hw :=
  let line := BitVec.ofNat 48 (addr / 64 * 64)
  let was := ((h.core c).thread 0).ipend.getLsbD 9
  (h.updCore c (fun k => if was then { k with seMore := true } else { k with seaddr := line, seMore := false })).raiseIpend c 0 9

/-- A machine-check cause of a core: its MCSTAT bit, MCADDR captured when MCSTAT was 0, and MCHK of thread 0 in the cycle after
(R468). -/
def Hw.machineCheck (h : Hw) (c : CoreId) (bit addr : Nat) : Hw :=
  (h.updCore c (fun k =>
    let k1 := if k.mcstat = 0 then { k with mcaddr := BitVec.ofNat 48 addr, mcMore := false } else { k with mcMore := true }
    { k1 with mcstat := k1.mcstat ||| (1#32 <<< bit) })).after (h.clock + 1) (.cause ⟨c, 0⟩ 10)

/-! ### Regions (R9, R147, R107) -/

/-- Where an access of a core lies. -/
inductive Loc where
  | scratch (off : Nat)
  | shared (b off : Nat)
  | ridge (off : Nat)
  | ext (v : Nat)
  | bad
  deriving DecidableEq, Repr

/-- The region that holds all `n` bytes at an address of a core's data space (R9). -/
def locate (c : CoreId) (addr n : Nat) : Loc :=
  let sh := addr - 0x001000000000
  if addr + n ≤ spadSize c then .scratch addr
  else if 0x40000000 ≤ addr && addr + n ≤ 0x80000000 then .shared (bentOf c) (addr - 0x40000000)
  else if 0x001000000000 ≤ addr && addr + n ≤ 0x001C00000000 && sh / 0x40000000 == (sh + n - 1) / 0x40000000 then
    .shared (sh / 0x40000000) (sh % 0x40000000)
  else if 0x004000000000 ≤ addr && addr + n ≤ 0x004001000000 then .ridge (addr - 0x004000000000)
  else if 0x010000000000 ≤ addr && addr + n ≤ 0x020000000000 then .ext (addr - 0x010000000000)
  else .bad

/-- The scalar port of a joist core reaches banks 12 to 15 only (R216). -/
def scalarReaches (c : CoreId) (off : Nat) : Bool := !isJoist c || 0x180000 ≤ off
/-- The tile port of a joist core reaches banks 0 to 11 only (R216). -/
def tileReaches (c : CoreId) (off n : Nat) : Bool := !isJoist c || off + n ≤ 0x180000

/-! ### Translation (R403 to R406) -/

/-- The plate of a physical address (R397). -/
def plateOf (p : Nat) : Plate := if bitAt p 12 then .east else .west

/-- What a translation answers. -/
inductive Xlat where
  | at_ (p : Nat)
  | absent
  | denied
  | miss
  deriving DecidableEq, Repr

/-- The access kinds of the *Translation checks* table (R405). -/
inductive Acc where
  | read | write | code
  deriving DecidableEq, Repr

/-- The checks of an entry (R405). -/
def checkEntry (e : W32) (acc : Acc) (v : Nat) : Xlat :=
  if !e.getLsbD 31 then .absent
  else
    match acc with
    | .read => if e.getLsbD 29 then .denied else .at_ (field e.toNat 0 23 * 65536 + v % 65536)
    | .write => if !e.getLsbD 30 || e.getLsbD 29 then .denied else .at_ (field e.toNat 0 23 * 65536 + v % 65536)
    | .code => .at_ (field e.toNat 0 23 * 65536 + v % 65536)

/-- The entry of a page in a page map cache (R406); a page whose walk failed is absent (R410). -/
def PmCache.find (pc : PmCache) (vpn : Nat) : Option W32 :=
  if pc.bad.contains vpn then some 0 else (pc.entries.find? (·.1 == vpn)).map (·.2)
/-- The entry becomes the most recently used (R406); the mark of a failed walk has been answered. -/
def PmCache.touch (pc : PmCache) (vpn : Nat) : PmCache :=
  match pc.find vpn with
  | some e => if pc.bad.contains vpn then { pc with bad := pc.bad.erase vpn } else { pc with entries := (vpn, e) :: pc.entries.filter (·.1 != vpn) }
  | none => pc
/-- Bring an entry in, replacing the least recently used of its set of 8 ways (R406). -/
def PmCache.insert (pc : PmCache) (vpn : Nat) (e : W32) : PmCache :=
  let rest := pc.entries.filter (·.1 != vpn)
  let inSet := rest.filter (fun x => x.1 % 512 == vpn % 512)
  let kept := match inSet.drop 7 with
    | [] => rest
    | out => rest.filter (fun x => !(out.any (·.1 == x.1)))
  { pc with entries := (vpn, e) :: kept }
/-- Drop a page (R407). -/
def PmCache.drop (pc : PmCache) (vpn : Nat) : PmCache :=
  { pc with entries := pc.entries.filter (·.1 != vpn), bad := pc.bad.filter (· != vpn) }

/-- The page map walk of a page: its plate is that of the entry's address (R404, R409). -/
def walkDue (h : Hw) (hops : Plate → Nat) (vpn : Nat) : Nat :=
  h.clock + 2 * meshD (hops (plateOf (0x7FFC000000 + 4 * vpn))) + 300

/-- Begin a walk unless one of the page is under way or eight are (R406). -/
def PmCache.walk (pc : PmCache) (vpn due : Nat) : PmCache :=
  if pc.walks.any (·.vpn == vpn) || 8 ≤ pc.walks.length then pc else { pc with walks := pc.walks ++ [{ vpn := vpn, due := due }] }

/-- A bent's translation of a window offset: a hit is counted and touched, a miss begins a walk and is counted (R406).
`again` marks a retry after a walk, which is no further hit. -/
def Hw.translate (h : Hw) (b : Nat) (acc : Acc) (v : Nat) (again : Bool) : Xlat × Hw :=
  let vpn := v / 65536
  let x := h.bent b
  match x.pm.find vpn with
  | some e =>
    (checkEntry e acc v, h.setBent b { x with pm := x.pm.touch vpn, pmhits := if again then x.pmhits else x.pmhits + 1 })
  | none =>
    let pm := x.pm.walk vpn (walkDue h (hopsBP b) vpn)
    let started := pm.walks.length != x.pm.walks.length
    (.miss, h.setBent b { x with pm := pm, pmmisses := if started then x.pmmisses + 1 else x.pmmisses })

/-- A plate's translation for its copy agent and UBT (R405, R406). -/
def Hw.plateXlat (h : Hw) (p : Plate) (acc : Acc) (v : Nat) : Xlat × Hw :=
  let vpn := v / 65536
  let get := fun (h : Hw) => match p with
    | .west => h.xmWest.pm
    | .east => h.xmEast.pm
  let put := fun (pm : PmCache) => match p with
    | .west => { h with xmWest := { h.xmWest with pm := pm } }
    | .east => { h with xmEast := { h.xmEast with pm := pm } }
  match (get h).find vpn with
  | some e => (checkEntry e acc v, put ((get h).touch vpn))
  | none => (.miss, put ((get h).walk vpn (walkDue h (fun q => if q = p then 0 else 9) vpn)))

/-- The stall mark of a thread that waits for a page map walk (R406). -/
def walkMark : Nat := 1000

/-- Translate one access of a thread: a miss stalls it without interrupt, a fault is precise (R405, R406). -/
def Hw.threadXlat (h : Hw) (w : Who) (acc : Acc) (v : Nat) : Xlat × Hw :=
  let th := h.thread w
  h.translate (bentOf w.core) acc v th.stall.isSome

/-! ### Requests to slices and controllers (R266 to R275, R411) -/

/-- The first location of shared memory, in lines. -/
def sharedLine0 : Nat := 0x001000000000 / 64
/-- The first location of external memory, in lines. -/
def extLine0 : Nat := 0x010000000000 / 64

/-- A line key names external memory. -/
def isExtKey (key : Nat) : Bool := extLine0 ≤ key
/-- The bent of a shared line (R266). -/
def keyBent (key : Nat) : Nat := (key - sharedLine0) / 0x1000000
/-- The slice of a shared line: address bits 11:6 (R266). -/
def keySlice (key : Nat) : Nat := key % 64
/-- The plate of an external line (R397). -/
def keyPlate (key : Nat) : Plate := plateOf ((key - extLine0) * 64)
/-- The endpoint at which a line is kept. -/
def keyEnd (key : Nat) : Nat := if isExtKey key then plateRouter (keyPlate key) else keyBent key

/-- A plate's memory block. -/
def Hw.xm (h : Hw) : Plate → Xmem
  | .west => h.xmWest
  | .east => h.xmEast
/-- Change a plate's memory block. -/
def Hw.updXm (h : Hw) (p : Plate) (f : Xmem → Xmem) : Hw :=
  match p with
  | .west => { h with xmWest := f h.xmWest }
  | .east => { h with xmEast := f h.xmEast }

/-- Change the waiting requests of a slice. -/
def Bent.updSlice (b : Bent) (sl : Nat) (f : List MemReq → List MemReq) : Bent :=
  { b with slices := sset sl (f (sgetD sl [] b.slices)) b.slices }

/-- The number of a source in the order of R218: bents 0 to 47, the Ridge, the west plate, the east plate. -/
def sourceNum (e : Nat) : Nat := if e < 48 then e else if e = ridgeRouter then 48 else e + 1

/-- The requestor port of a bent's mesh router (R267). -/
def meshPort : Nat := 48

/-- The requests of a port that wait at a slice at a clock value (R269). -/
def Bent.waitingOf (b : Bent) (sl port now : Nat) : Nat :=
  ((sgetD sl [] b.slices).filter (fun r => r.port == port && r.flit == 0 && decide (r.entered ≤ now))).length

/-- The first of `n + 1` clock values, from one on, that is not taken. -/
def freeClock (used : List Nat) : Nat → Nat → Nat
  | 0, t => t
  | n + 1, t => if used.contains t then freeClock used n (t + 1) else t

/-- A requestor port of a bent presents a request in its first free cycle from a clock value on (R267). -/
def Hw.portTurn (h : Hw) (b port from_ : Nat) : Nat × Hw :=
  let used := sgetD port [] (h.bent b).portUsed
  let now := freeClock used used.length from_
  (now, h.updBent b (fun x => { x with portUsed := sset port (now :: used.filter (fun t => decide (h.clock ≤ t))) x.portUsed }))

/-- A request leaves its endpoint at a clock value: into a slice's queue of its own bent, or as a flit on its way to the bent or
plate that keeps the line (R267, R271). -/
def Hw.launchReq (h : Hw) (at_ : Nat) (r : MemReq) (now : Nat) : Hw :=
  let dst := keyEnd r.key
  let x := h.post at_ dst 0 now
  let r1 := { r with entered := now + meshTime at_ dst, flit := x.1,
                     port := if at_ = dst ∧ dst < 48 then r.port else if isExtKey r.key then sourceNum r.home else meshPort }
  if isExtKey r.key then x.2.updXm (keyPlate r.key) (fun m => { m with queue := m.queue ++ [r1] })
  else x.2.updBent dst (·.updSlice (keySlice r.key) (· ++ [r1]))

/-- A requestor port of a bent presents a request; one that would be the fifth of its port at a slice is held, and the port presents
no other until it has entered (R269). -/
def Hw.present (h : Hw) (b port : Nat) (r : MemReq) (from_ : Nat) : Hw :=
  let held := sgetD port [] (h.bent b).portHeld
  if !held.isEmpty || (keyEnd r.key == b && 4 ≤ (h.bent b).waitingOf (keySlice r.key) port from_) then
    h.updBent b (fun x => { x with portHeld := sset port (held ++ [{ r with port := port, entered := from_ }]) x.portHeld })
  else
    let x := h.portTurn b port from_
    x.2.launchReq b { r with port := port } x.1

/-- A held request of a port is presented, from a clock value on, once fewer than four of its port wait at its slice, and then those
behind it (R269; log entry 91). -/
def Hw.unhold (b port from_ : Nat) : Nat → Hw → Hw
  | 0, h => h
  | fuel + 1, h =>
    match sgetD port [] (h.bent b).portHeld with
    | [] => h
    | r :: rest =>
      let t := max from_ r.entered
      if keyEnd r.key = b ∧ 4 ≤ (h.bent b).waitingOf (keySlice r.key) port t then h
      else
        let x := (h.updBent b (fun x =>
          { x with portHeld := if rest.isEmpty then sdel port x.portHeld else sset port rest x.portHeld })).portTurn b port t
        Hw.unhold b port from_ fuel (x.2.launchReq b r x.1)

/-- A requestor asks for a line at a clock value: a core or an engine through its port of its bent's crossbar, a plate or the Ridge
straight into the mesh (R267). -/
def Hw.requestAt (h : Hw) (home port key : Nat) (wr : Option (List (Nat × Byte))) (owner : ReqOwner) (now : Nat) : Hw :=
  let r : MemReq := { port := port, key := key, wr := wr, owner := owner, home := home, entered := now }
  if home < 48 then h.present home port r now else h.launchReq home r now

/-- A requestor asks for a line now. -/
def Hw.request (h : Hw) (home port key : Nat) (wr : Option (List (Nat × Byte))) (owner : ReqOwner) : Hw :=
  h.requestAt home port key wr owner h.clock

/-- Of the flits of what waits for them, the first, by the clock at which it is due unless the mesh delays it, that can be delivered:
its number, the clock of its delivery, and the flit is out. Only those due by a clock value count, where one is given. -/
def Hw.landFirst (h : Hw) (items : List (Nat × Nat)) (by_ : Option Nat) : Option (Nat × Nat × Hw) :=
  (inOrder (fun x y => decide (x.2 ≤ y.2)) items).findSome? (fun x =>
    if by_.all (fun t => decide (x.2 ≤ t)) then (h.land x.1 x.2).map (fun r => (x.1, r.1, r.2)) else none)

/-- The number of a plate: west 0, east 1. -/
def plateNum : Plate → Nat
  | .west => 0
  | .east => 1

/-- A reply leaves an endpoint at a clock value: the clock at which it reaches the other (R271, R279). -/
def Hw.carry (h : Hw) (src dst : Nat) (vc : Fin 4) (start : Nat) : Nat × Hw :=
  let x := h.post src dst vc start
  if x.1 = 0 then (start, x.2) else (x.2.drive x.1).getD (start + meshTime src dst, x.2)

/-! ### Performing line reads and writes (R268, R287, R400, R401, R410, R466) -/

/-- An uncorrectable error of external memory at a line: XUE counts it, XUEADDR captures the first, XMEM_UE is raised
(R410, R412). -/
def Hw.countUe (h : Hw) (key : Nat) : Hw :=
  let p := keyPlate key
  (h.updXm p (fun x =>
    { x with xue := x.xue + 1, xueaddr := if x.xue = 0 then (key - extLine0) * 64 else x.xueaddr })).raiseSource (216 + plateNum p)

/-- Perform a read of a line at its slice or controller: none is an uncorrectable error. -/
def performRead (key : Nat) (m : Mem) (h : Hw) : Option (List Byte) × Hw :=
  if isExtKey key then
    if h.poison.contains (key - extLine0) then (none, h.countUe key) else (some (memReadN (key * 64) 64 m), h)
  else if (h.bent (keyBent key)).sliceUe.any (fun w => w / 8 == key) then (none, h)
  else (some (memReadN (key * 64) 64 m), h)

/-- Write bytes of a line, named by their offsets. -/
def writeOffs (base : Nat) : List (Nat × Byte) → Mem → Mem
  | [], m => m
  | (o, b) :: rest, m => writeOffs base rest (memWrite (base + o) b m)

/-- Perform a write of bytes of one line, as one indivisible update. It answers whether its merge met an uncorrectable
error: a part of a poisoned line of external memory (R400), or a part of an uncorrectable word of a slice (R466). -/
def performWrite (key : Nat) (ws : List (Nat × Byte)) (m : Mem) (h : Hw) : Bool × Mem × Hw :=
  let m1 := writeOffs (key * 64) ws m
  if isExtKey key then
    let line := key - extLine0
    if h.poison.contains line then
      if ws.length = 64 then (false, m1, { h with poison := h.poison.filter (· != line) }) else (true, m1, h.countUe key)
    else (false, m1, h)
  else
    let b := keyBent key
    let count := fun (w : Nat) => (ws.filter (fun p => p.1 / 8 == w % 8)).length
    let mine := fun (w : Nat) => w / 8 == key
    let err := (h.bent b).sliceUe.any (fun w => mine w && 0 < count w && count w < 8)
    (err, m1, h.updBent b (fun x => { x with sliceUe := x.sliceUe.filter (fun w => !(mine w && count w == 8)) }))

/-- Bytes with their offsets from a first offset. -/
def offsFrom (off : Nat) (bs : List Byte) : List (Nat × Byte) := (List.range bs.length).zip bs |>.map (fun p => (off + p.1, p.2))

/-- The masked bytes of a line (R287). -/
def maskedBytes (data : List Byte) (mask : BitVec 64) : List (Nat × Byte) :=
  (offsFrom 0 data).filter (fun p => mask.getLsbD p.1)

/-- Cycles from the performance of a read at its slice or controller to the departure of its reply: of an unloaded read of 180
cycles in the own bent, and of 120 more in external memory with the row open (R279, R409; log entry 22). -/
def replyTime (key : Nat) : Nat := if isExtKey key then 300 else 180

/-! ### The slot frame (R217) -/

/-- The accesses of a core's scratchpad in its present frame. -/
def Core.frameLog (k : Core) (cyc : Nat) : FrameLog :=
  if k.frame.frame = cyc / 4 then k.frame else { frame := cyc / 4 }

/-- The slot of an access. -/
def FrameAct.slot : FrameAct → Nat
  | .write s _ _ => s
  | .load _ _ _ _ => 2

/-- Put bytes back, the latest first. -/
def putBack (u : List (Nat × Byte)) (m : Mem) : Mem := u.foldl (fun m p => memWrite p.1 p.2 m) m

/-- Perform one access after those before it. -/
def doAct (c : CoreId) (x : Mem × List (Nat × Byte) × Hw) (a : FrameAct) : Mem × List (Nat × Byte) × Hw :=
  match a with
  | .write _ loc data =>
    let olds := (List.range data.length).map (fun i => (loc + i, memRead (loc + i) x.1))
    (memWriteN loc data x.1, olds ++ x.2.1, x.2.2)
  | .load t dest loc n => (x.1, x.2.1, x.2.2.updThread ⟨c, t⟩ (·.writeLoad (memReadN loc n x.1) dest))

/-- An access of a scratchpad takes its place in the slot order of its frame: accesses of later slots made already are made
again after it (R217). -/
def Hw.frameAct (h : Hw) (c : CoreId) (a : FrameAct) (m : Mem) : Mem × Hw :=
  let fr := (h.core c).frameLog (h.cycle c)
  let before := fr.acts.filter (fun x => decide (x.slot ≤ a.slot))
  let later := fr.acts.filter (fun x => decide (a.slot < x.slot))
  let r := if later.isEmpty then doAct c (m, fr.undo, h) a
    else (before ++ a :: later).foldl (doAct c) (putBack fr.undo m, [], h)
  (r.1, r.2.2.updCore c (fun k => { k with frame := { fr with acts := before ++ a :: later, undo := r.2.1 } }))

/-- The memory as slot 0 of the present frame sees it: without the writes of the frame (R217). -/
def Core.frameStart (k : Core) (cyc : Nat) (m : Mem) : Mem := putBack (k.frameLog cyc).undo m

/-! ### The data cache (R231 to R237) -/

/-- Replace the bytes of a line from an offset. -/
def splice (line : List Byte) (off : Nat) (bs : List Byte) : List Byte := line.take off ++ bs ++ line.drop (off + bs.length)

/-- The mask bits of `n` bytes from an offset (R287). -/
def maskOf (off n : Nat) : BitVec 64 := BitVec.ofNat 64 ((2 ^ n - 1) * 2 ^ off)

/-- A cached line. -/
def Core.line (k : Core) (key : Nat) : Option CLine := k.cache.find? (·.key == key)
/-- The latest eviction entry of a line (R232). -/
def Core.evEntry (k : Core) (key : Nat) : Option EvEntry := k.evb.reverse.find? (·.key == key)
/-- The miss register that serves a line (R232). -/
def Core.missFor (k : Core) (key : Nat) : Option (Fin 8) :=
  (List.finRange 8).find? (fun r => match k.miss[r] with | some m => m.key == key | none => false)
/-- A free miss register (R232). -/
def Core.missFree (k : Core) : Option (Fin 8) := (List.finRange 8).find? (fun r => k.miss[r].isNone)
/-- Use a line: it becomes the most recently used of its set (R232). -/
def Core.touchLine (k : Core) (key : Nat) (f : CLine → CLine) : Core :=
  { k with cacheStamp := k.cacheStamp + 1
           cache := updFirst (·.key == key) (fun l => { f l with stamp := k.cacheStamp + 1 }) k.cache }
/-- A hit is counted, eviction-buffer hits included (R237). -/
def Core.hit (k : Core) : Core := { k with dchits := k.dchits + 1 }
/-- Put a line into the eviction buffer with the next serial number (R235). -/
def Core.evict (k : Core) (key : Nat) (data : List Byte) (mask : BitVec 64) : Core :=
  { k with evSerial := k.evSerial + 1, evb := k.evb ++ [{ key := key, data := data, mask := mask, serial := k.evSerial + 1 }] }

/-- The order in which the dirty lines of a set enter the eviction buffer in a CINV walk: by way (DESIGN CHOICE, log entry 90). -/
def wayOrder (x y : CLine) : Bool := x.way ≤ y.way

/-- One set of a CINV walk: its dirty lines move to the eviction buffer, and its lines become invalid; without room for all of them
the walk pauses at the set (R236). -/
def Core.cinvSet (k : Core) (v : Cinv) : Core :=
  let dirty := inOrder wayOrder (k.cache.filter (fun l => l.key % 128 == v.set && l.mask != 0))
  let now := dirty.take (8 - k.evb.length)
  let k1 := now.foldl (fun k l => k.evict l.key l.data l.mask) k
  if now.length = dirty.length then
    { k1 with cache := k1.cache.filter (fun l => l.key % 128 != v.set)
              cinv := some { v with set := v.set + 1, at_ := v.at_ + 1, serial := k1.evSerial } }
  else { k1 with cache := k1.cache.filter (fun l => !now.any (·.key == l.key)) }

/-- The sets of a CINV walk up to a CYCLE value, once every miss register has filled (R236). -/
def Core.cinvTo (k : Core) (cyc : Nat) : Core :=
  iter 128 (fun _ (k : Core) =>
    match k.cinv with
    | some v => if v.at_ ≤ cyc ∧ v.set < 128 ∧ k.miss.all Option.isNone then k.cinvSet v else k
    | none => k) k

/-- An eviction entry has been written, or a miss register has filled, in a cycle: a walk that waited for it goes on in the
next. -/
def Core.cinvOn (k : Core) (cyc : Nat) : Core :=
  { k with cinv := k.cinv.map (fun v => if v.set < 128 then { v with at_ := max v.at_ (cyc + 1) } else v) }

/-- How one line access of a load answers: its bytes, a miss under way, or a stall. -/
inductive LineRes where
  | bytes (bs : List Byte)
  | wait
  | stall
  deriving DecidableEq, Repr

/-- Add a request to the miss register of a line, or take a free one that requests the line (R232); none when neither has
room. -/
def Hw.missRequest (h : Hw) (c : CoreId) (key : Nat) (q : MissReq) : Option Hw :=
  let k := h.core c
  match k.missFor key with
  | some r =>
    match k.miss[r] with
    | some m =>
      if m.reqs.length < 5 then
        some (h.setCore c { k with miss := k.miss.set r (some { m with reqs := m.reqs ++ [q] }) })
      else none
    | none => none
  | none =>
    match k.missFree with
    | some r =>
      let h1 := h.setCore c { k with dcmisses := k.dcmisses + 1, miss := k.miss.set r (some { key := key, reqs := [q] }) }
      some (h1.request (bentOf c) (coreIn c) key none (.miss c r))
    | none => none

/-- One line access of a cached load: cache, eviction buffer, miss register (R232). -/
def Hw.cachedLoad (h : Hw) (c : CoreId) (t : Fin 4) (loc n : Nat) : LineRes × Hw :=
  let k := h.core c
  let key := loc / 64
  match k.line key with
  | some l => (.bytes ((l.data.drop (loc % 64)).take n), h.setCore c (k.touchLine key id).hit)
  | none =>
    match k.evEntry key with
    | some e => (.bytes ((e.data.drop (loc % 64)).take n), h.setCore c k.hit)
    | none =>
      match h.missRequest c key (.load t) with
      | some h1 => (.wait, h1)
      | none => (.stall, h)

/-- An uncached load's dirty line goes into the eviction buffer when there is room, and stays clean (R148). -/
def Core.cleanLine (k : Core) (key : Nat) : Core :=
  match k.cache.find? (fun l => l.key == key && l.mask != 0) with
  | some l =>
    if k.evb.length < 8 then
      { (k.evict key l.data l.mask) with cache := updFirst (·.key == key) (fun x => { x with mask := 0 }) k.cache }
    else k
  | none => k

/-- A line that an uncached load must wait for: dirty, in the eviction buffer, or served by a miss register (R235). -/
def Core.lineBusy (k : Core) (key : Nat) : Bool :=
  k.cache.any (fun l => l.key == key && l.mask != 0) || (k.evEntry key).isSome || (k.missFor key).isSome

/-- One line access of a store: a hit, a line in the eviction buffer, a miss (R234). -/
def Hw.cachedStore (h : Hw) (c : CoreId) (loc : Nat) (bs : List Byte) : Option Hw :=
  let k := h.core c
  let key := loc / 64
  match k.line key with
  | some _ =>
    some (h.setCore c ((k.touchLine key (fun l =>
      { l with data := splice l.data (loc % 64) bs, mask := l.mask ||| maskOf (loc % 64) bs.length })).hit))
  | none => if (k.evEntry key).isSome then none else h.missRequest c key (.store (loc % 64) bs)

/-- A range cut at 64-byte lines: (location, bytes) pieces. -/
def cutLines (loc n : Nat) : Nat → List (Nat × Nat)
  | 0 => []
  | fuel + 1 =>
    if n = 0 then []
    else
      let m := min n (64 - loc % 64)
      (loc, m) :: cutLines (loc + m) (n - m) fuel

/-- The pieces of an access of at most 256 bytes. -/
def pieces (loc n : Nat) : List (Nat × Nat) := cutLines loc n 6

/-- The pieces of at most 256 bytes of the external window, translated page by page in address order (R405). -/
def pagePieces (tr : Nat → Hw → Xlat × Hw) (v n : Nat) (h : Hw) : RowPath × Hw :=
  let n1 := min n (65536 - v % 65536)
  let r1 := tr v h
  let answer : Xlat → RowPath := fun x => match x with
    | .absent => .fault excPageAbsent
    | .denied => .fault excPageDenied
    | _ => .walk
  match r1.1 with
  | .at_ p =>
    if n1 = n then (.cache (pieces (locExt p) n), r1.2)
    else
      let r2 := tr (v + n1) r1.2
      match r2.1 with
      | .at_ q => (.cache (pieces (locExt p) n1 ++ pieces (locExt q) (n - n1)), r2.2)
      | x => (answer x, r2.2)
  | x => (answer x, r1.2)

/-! ### Loads -/

/-- The bytes of a load whose pieces have all arrived, in piece order. -/
def LoadOp.bytes (o : LoadOp) : List Byte :=
  ((List.range o.pieces.length).map (fun i => sgetD i [] o.got)).flatten

/-- A load's data is there whole: its register is written and its instruction completes, at once or when the last of the data
has arrived (R157, R233). -/
def Hw.loadArrived (h : Hw) (w : Who) : Hw :=
  match (h.core w.core).loads[w.thread] with
  | some o =>
    if o.got.length = o.pieces.length then
      if o.due ≤ h.clock then h.applyLater (.load w o.bytes) else h.after o.due (.load w o.bytes)
    else h
  | none => h

/-- One piece of a load has arrived. -/
def Hw.loadPiece (h : Hw) (w : Who) (i : Nat) (bs : List Byte) : Hw :=
  (h.updCore w.core (fun k =>
    { k with loads := k.loads.set w.thread (k.loads[w.thread].map (fun o => { o with got := sset i bs o.got })) })).loadArrived w

/-- The pieces of a cached load, tried in order: what has arrived, or none when a piece must stall. An access of several lines
one of which must stall takes no miss register for any: it is tried again whole (DESIGN CHOICE, log entry 84). -/
def loadPieces (w : Who) : List (Nat × Nat × Nat) → Hw → Option (SMap (List Byte) × Hw)
  | [], h => some ([], h)
  | (i, loc, n) :: rest, h =>
    match h.cachedLoad w.core w.thread loc n with
    | (.stall, _) => none
    | (.wait, h1) => loadPieces w rest h1
    | (.bytes bs, h1) => (loadPieces w rest h1).map (fun r => (sset i bs r.1, r.2))

/-- Record the load that a thread waits for. -/
def Hw.setLoad (h : Hw) (w : Who) (o : Option LoadOp) : Hw :=
  h.updCore w.core (fun k => { k with loads := k.loads.set w.thread o })

/-- An uncached load: its dirty lines are first written back, lines in the eviction buffer or being filled are waited for,
then every line is read from memory (R148, R235). -/
def uncachedLoad (w : Who) (ps : List (Nat × Nat)) (dest : LoadDest) (words : Nat) (h : Hw) : Ctl × Hw :=
  let keys := ps.map (fun p => p.1 / 64)
  let h1 := h.updCore w.core (fun k => keys.foldl Core.cleanLine k)
  if keys.any (h1.core w.core).lineBusy then (.stall .interlock 0, h1)
  else
    let ask := fun (h : Hw) (p : Nat × Nat) =>
      h.request (bentOf w.core) (coreIn w.core) p.2 none (.load w.core w.thread p.1)
    (.stall .load 0, (((List.range keys.length).zip keys).foldl ask h1).setLoad w
      (some { dest := dest, pieces := ps, got := [], uncached := true, words := words }))

/-- A load from shared or external memory through the cache or around it (R148, R232). -/
def cacheLoad (w : Who) (loc n : Nat) (u : Bool) (dest : LoadDest) (words hitSlots : Nat) (h : Hw) : Ctl × Hw :=
  let ps := pieces loc n
  if (h.core w.core).cinv.isSome then (.stall .interlock 0, h)
  else if u then uncachedLoad w ps dest words h
  else
    match loadPieces w ((List.range ps.length).zip ps) h with
    | none => (.stall .interlock 0, h)
    | some (got, h1) =>
      let o : LoadOp := { dest := dest, pieces := ps, got := got, uncached := false, words := words }
      if got.length = ps.length then (.done hitSlots, h1.updThread w (·.writeLoad o.bytes dest))
      else (.stall .load 0, h1.setLoad w (some o))

/-! ### The checks of an access (R147) -/

/-- What the checks of a data-space access answer: a location in the scratchpad or the Ridge, a cached location, or an end
of the instruction. -/
inductive Access where
  | scratch (loc : Nat)
  | ridge (loc : Nat)
  | cached (loc : Nat)
  | end_ (c : Ctl)
  deriving DecidableEq, Repr

/-- The *Data access checks* in their order (R147, R178): alignment, region, privilege, port reach, translation. -/
def accessCheck (w : Who) (addr n align : Nat) (acc : Acc) (h : Hw) : Access × Hw :=
  let th := h.thread w
  if addr % align ≠ 0 then (.end_ (faultAt th excAlign addr), h)
  else
    match locate w.core addr n with
    | .bad => (.end_ (faultAt th excDataRegion addr), h)
    | .ridge off => if th.mode then (.ridge (locRidge off), h) else (.end_ (faultAt th excPriv addr), h)
    | .scratch off =>
      if scalarReaches w.core off then (.scratch (locScratch w.core off), h) else (.end_ (faultAt th excPortReach addr), h)
    | .shared b off => (.cached (locShared b off), h)
    | .ext v =>
      let r := h.threadXlat w acc v
      match r.1 with
      | .at_ p => (.cached (locExt p), r.2)
      | .absent => (.end_ (faultAt th excPageAbsent addr), r.2)
      | .denied => (.end_ (faultAt th excPageDenied addr), r.2)
      | .miss => (.end_ (.stall .interlock walkMark), r.2)

/-- A load from Ridge SRAM: its bytes are those at its issue (log entry 85), and arrive after a round trip to the Ridge
(R148, R279). -/
def Hw.ridgeLoad (h : Hw) (w : Who) (loc n : Nat) (dest : LoadDest) (words : Nat) (m : Mem) : Hw :=
  let b := bentOf w.core
  let h1 := h.postAuto b ridgeRouter 0 h.clock
  let r := h1.carry ridgeRouter b 1 (h.clock + meshTime b ridgeRouter + 180)
  (r.2.setLoad w (some { dest := dest, pieces := [(loc, n)], got := [(0, memReadN loc n m)], uncached := true, words := words })).after
    r.1 (.load w (memReadN loc n m))

/-- A load of a thread after its address is known (R147, R148). `missSlots` are the slots of a hit. -/
def doLoad (w : Who) (addr n align : Nat) (u : Bool) (dest : LoadDest) (words hitSlots : Nat) (m : Mem) (h : Hw) : Ctl × Hw :=
  match accessCheck w addr n align .read h with
  | (.end_ c, h1) => (c, h1)
  | (.scratch loc, h1) => (.done 1, (h1.frameAct w.core (.load w.thread dest loc n) m).2)
  | (.ridge loc, h1) => (.stall .load 0, h1.ridgeLoad w loc n dest words m)
  | (.cached loc, h1) => cacheLoad w loc n u dest words hitSlots h1

/-- The pieces of a cached store in order; none when one must stall, and then none is taken (log entry 84). -/
def storePieces (c : CoreId) : List (Nat × Nat) → List Byte → Hw → Option Hw
  | [], _, h => some h
  | (loc, n) :: rest, bs, h =>
    match h.cachedStore c loc (bs.take n) with
    | some h1 => storePieces c rest (bs.drop n) h1
    | none => none

end Sys2Proof.Machine
end

