-- ==== Sys2Proof/Machine/Tiles.lean ====
section
/-!
DEFINITION. Tile registers and accumulation groups as data: element formats (R35 to R38), shapes, rows, windows (R66 to
R71), and the interlocks of the matrix engine, drains and tile moves (R54, R75, R83, R111, R126).
-/

namespace Sys2Proof.Machine

/-! ### Formats (R35, R36, R44) -/

/-- Bits per element of a format code; META counts k positions, RAW bytes (R35, R98). -/
def elemBits (code : Nat) : Nat :=
  match code with
  | 0x1 | 0x2 => 16
  | 0x3 => 32
  | 0x7 | 0xC => 4
  | 0xA | 0xB => 6
  | 0xD => 1
  | _ => 8

/-- The floating-point format of a code, if it has one (R36). -/
def fmtOf (code : Nat) : Option Fmt :=
  match code with
  | 0x1 => some fBF16
  | 0x2 => some fFP16
  | 0x3 => some fFP32
  | 0x4 | 0x8 => some fE4M3
  | 0x5 | 0x9 => some fE5M2
  | 0xA => some fE2M3
  | 0xB => some fE3M2
  | 0xC => some fE2M1
  | _ => none

/-- The MX formats (R38). -/
def isMx (code : Nat) : Bool := 0x8 ≤ code && code ≤ 0xC

/-- The valid format pairs (R44). -/
def validPair (fa fb : Nat) : Bool :=
  let cls := fun (x : Nat) =>
    match x with
    | 0x1 | 0x2 => 1
    | 0x4 | 0x5 => 2
    | 0x8 | 0x9 | 0xA | 0xB => 3
    | 0x6 => 4
    | 0xC => 5
    | 0x7 => 6
    | 0x3 => 7
    | _ => 0
  cls fa != 0 && cls fa == cls fb

/-- Computing cycles of an instruction of K elements (R58): ⌈K / r⌉, halved for a sparse one, 4K for FP32. -/
def computeCycles (code k : Nat) (sparse : Bool) : Nat :=
  let r := match code with
    | 0x1 | 0x2 => 1
    | 0x7 | 0xC => 4
    | _ => 2
  if code = 0x3 then 4 * k else if sparse then (k + 2 * r - 1) / (2 * r) else (k + r - 1) / r

/-! ### Tiles (R37, R97 to R104) -/

/-- A tile's format code. -/
def Tile.code (t : Tile) : Nat := t.fmt.toNat
/-- The shape is zero: the register holds nothing and has no owner (R98). -/
def Tile.empty (t : Tile) : Bool := t.rows == 0
/-- Elements per row (R98). -/
def Tile.elems (t : Tile) : Nat := t.rbytes * 8 / elemBits t.code
/-- A byte of a sparse store whose unlisted bytes are 0. -/
def byteAt (k : Nat) (m : SMap Byte) : Byte := sgetD k 0 m
/-- Write a byte of such a store. -/
def setByte (k : Nat) (b : Byte) (m : SMap Byte) : SMap Byte := if b = 0 then sdel k m else sset k b m
/-- Write bytes of such a store from an index up. -/
def setBytes (k : Nat) : List Byte → SMap Byte → SMap Byte
  | [], m => m
  | b :: bs, m => setBytes (k + 1) bs (setByte k b m)
/-- The bytes of a row. -/
def Tile.row_ (t : Tile) (r : Nat) : List Byte := (List.range t.rbytes).map (fun n => byteAt (128 * r + n) t.data)
/-- The scale bytes of a row: one for each block of 32 elements (R38, R105). -/
def Tile.scaleBytes (t : Tile) : Nat := (t.elems + 31) / 32
/-- The scale row of a row. -/
def Tile.scaleRow (t : Tile) (r : Nat) : List Byte := (List.range t.scaleBytes).map (fun q => byteAt (8 * r + q) t.scale)
/-- The numbers of a row (R36 to R38, R40). -/
def Tile.nums (t : Tile) (r : Nat) : List Num :=
  let bits := ofBytes (t.row_ r)
  let w := elemBits t.code
  (List.range t.elems).map (fun k =>
    let x := field bits (w * k) w
    let v := match fmtOf t.code with
      | some f => f.decode x
      | none => Num.ofInt (signed w x)
    if isMx t.code then
      let s := (byteAt (8 * r + k / 32) t.scale).toNat
      if s = 255 then .nan else v.scale ((s : Int) - 127)
    else v)

/-- The zero shape with cleared contents (R101). -/
def emptyTile : Tile := {}

/-- Another thread owns a tile (R103). -/
def Tile.othersOwn (t : Tile) (th : Fin 4) : Bool := !t.empty && t.owner != th

/-! ### Groups (R66 to R71) -/

/-- Combine classes (R68). -/
def Cls.comb : Cls → Cls → Cls
  | .nan, _ | _, .nan => .nan
  | .fin, c | c, .fin => c
  | .pinf, .pinf => .pinf
  | .ninf, .ninf => .ninf
  | .pinf, .ninf | .ninf, .pinf => .nan

/-- The code of a class (R66). -/
def Cls.code : Cls → Nat
  | .fin => 0
  | .pinf => 1
  | .ninf => 2
  | .nan => 3

/-- The class of a code. -/
def Cls.of (n : Nat) : Cls :=
  match n % 4 with
  | 0 => .fin
  | 1 => .pinf
  | 2 => .ninf
  | _ => .nan

/-- The window exponent of a group (R66). -/
def Group.exp (g : Group) : Int := g.lse.toInt

/-- A product as it enters a window of exponent LSE: its grid integer, its class, and whether it was rounded (R69). -/
def toGrid (lse : Int) : Num → Int × Cls × Bool
  | .nan => (0, .nan, false)
  | .inf neg => (0, if neg then .ninf else .pinf, false)
  | .fin neg m e =>
    let k := e - lse
    (sint neg (rneScale m k), .fin, decide (k < 0) && m % 2 ^ (-k).toNat != 0)

/-- One addition into an accumulator (R70): the exact result, clamped to 96 bits; it answers whether it saturated. A class
other than finite has W = 0 and does not saturate (R67; log entry 18). -/
def Accum.add (a : Accum) (x : Int) (c : Cls) : Accum × Bool :=
  let cls := a.cls.comb c
  let y := (if a.cls = .fin then a.w.toInt else 0) + x
  let z := max (-(2 ^ 95)) (min (2 ^ 95 - 1) y)
  ({ w := if cls = .fin then BitVec.ofInt 96 z else 0, cls := cls }, cls == .fin && z != y)

/-- An accumulator of a group. -/
def Group.at_ (g : Group) (a : Nat) : Accum := sgetD a {} g.acc
/-- Write an accumulator of a group. -/
def Group.put (g : Group) (a : Nat) (x : Accum) : Group :=
  { g with acc := if x = {} then sdel a g.acc else sset a x g.acc }

/-- The value of an accumulator scaled by 2^s (R67). -/
def Accum.num (a : Accum) (s : Int) : Num :=
  match a.cls with
  | .nan => .nan
  | .pinf => .inf false
  | .ninf => .inf true
  | .fin => .fin (decide (a.w.toInt < 0)) a.w.toInt.natAbs s

/-- Change a tile. -/
def Core.updTile (k : Core) (t : Fin 8) (f : Tile → Tile) : Core := { k with tiles := k.tiles.set t (f k.tiles[t]) }
/-- Change a group. -/
def Core.updGroup (k : Core) (g : Fin 8) (f : Group → Group) : Core := { k with groups := k.groups.set g (f k.groups[g]) }

/-! ### Interlocks -/

/-- The stationary load of the instruction has not finished (R54). -/
def MatJob.loadingOrWaiting (j : MatJob) : Bool :=
  match j.stage with
  | .accepted _ | .loading _ => true
  | _ => false

/-- An accepted matrix instruction keeps a tile from being written (R54). -/
def Core.matLocks (k : Core) (t : Fin 8) : Bool :=
  k.mat.any (fun j => (j.ta == t && j.held) || ((j.tb == t || j.tm == some t) && j.loadingOrWaiting))

/-- CYCLE in which a drain reads its last row, and in which it writes it (R79, R83). -/
def DrainRun.readEnd (d : DrainRun) : Nat := d.start + d.rows - 1
def DrainRun.writeEnd (d : DrainRun) : Nat := d.start + d.lag + d.rows - 1
/-- A drain names a tile. -/
def DrainRun.names (d : DrainRun) (t : Fin 8) : Bool := d.td == t || d.ts == some t

/-- A drain still writes a tile, or names it as its scale row (R83). -/
def Core.drainLocks (k : Core) (t : Fin 8) (cyc : Nat) : Bool := k.drains.any (fun d => d.names t && decide (cyc ≤ d.writeEnd))

/-- A purlin write to TREL that names a tile is held (R126). -/
def Core.trelNames (k : Core) (t : Fin 8) : Bool := k.trelHeld.any (fun v => v.getLsbD t.val)

/-- A tile move is in progress on a tile (R111). -/
def Core.moveLocks (k : Core) (t : Fin 8) : Bool :=
  match k.tileMove with
  | some mv => mv.t == t
  | none => false

/-- An interlock of a tile ended so late that it clears only after this cycle (R83). -/
def Core.tileHeld (k : Core) (t : Fin 8) (cyc : Nat) : Bool := decide (cyc < k.tileFree[t])

/-- An instruction that writes a tile waits (R54, R83, R126). -/
def Core.writeWaits (k : Core) (t : Fin 8) (cyc : Nat) : Bool :=
  k.matLocks t || k.drainLocks t cyc || k.moveLocks t || k.tileHeld t cyc
/-- An instruction that reads a tile waits (R83). -/
def Core.readWaits (k : Core) (t : Fin 8) (cyc : Nat) : Bool := k.drainLocks t cyc

/-- An accumulation instruction that names a group waits: matrix instructions on it, or a drain still reading it (R75). -/
def Core.groupWaits (k : Core) (g : Fin 8) (cyc : Nat) : Bool :=
  k.mat.any (·.g == g) || k.drains.any (fun d => d.g == g && decide (cyc ≤ d.readEnd)) || decide (cyc < k.groupFree[g])

/-- A tile has been freed by an event of a cycle: its interlock clears in the next (R83). -/
def Core.freeTile (k : Core) (t : Fin 8) (cyc : Nat) : Core := { k with tileFree := k.tileFree.set t (max k.tileFree[t] (cyc + 1)) }
/-- A group has been freed by an event of a cycle (R83). -/
def Core.freeGroup (k : Core) (g : Fin 8) (cyc : Nat) : Core := { k with groupFree := k.groupFree.set g (max k.groupFree[g] (cyc + 1)) }

/-! ### Releases (R126) -/

/-- A register of a release is named by a matrix instruction or a tile move that has not come to its end. -/
def Core.trelLocked (k : Core) (v : BitVec 8) : Bool :=
  (List.finRange 8).any (fun t => v.getLsbD t.val && (k.matLocks t || k.moveLocks t))

/-- The first cycle, from one on, in which the registers of a release are free of drains and of interlocks that have ended. -/
def Core.trelFrom (k : Core) (v : BitVec 8) (cyc : Nat) : Nat :=
  (List.finRange 8).foldl (fun n t =>
    if v.getLsbD t.val then
      k.drains.foldl (fun n d => if d.names t then max n (d.writeEnd + 1) else n) (max n k.tileFree[t])
    else n) cyc

/-- The release of a thread's OUT to TREL is made in the cycle after the first in which its registers are free, and the thread
issues again from then on. -/
def Hw.trelSet (h : Hw) (w : Who) (v : BitVec 8) : Hw :=
  let x := (h.core w.core).trelFrom v (h.cycle w.core)
  (h.updThread w (fun th => { th with nextIssue := max th.nextIssue (x + 1) })).after (h.clockOf w.core x) (.trel w.core v)

/-- The stalled OUTs to TREL whose registers have come free complete. -/
def Hw.trelRun (h : Hw) (c : CoreId) : Hw :=
  (List.finRange 4).foldl (fun h t =>
    match (h.core c).trelWait[t] with
    | some v =>
      if (h.core c).trelLocked v then h
      else ((h.updCore c (fun k => { k with trelWait := k.trelWait.set t none })).trelSet ⟨c, t⟩ v).release ⟨c, t⟩ 1
    | none => h) h

end Sys2Proof.Machine
end

