-- ==== Sys2Proof/Machine/Engines.lean ====
section
/-!
DEFINITION. What a core's engines do as time passes: sends through tenons (R241 to R245, R256), the rows of drains (R79 to R83),
and the sends of the stream unit (R84 to R92, R250).
-/

namespace Sys2Proof.Machine

/-! ### Routes (R241 to R243) -/

/-- The fields of a route (R243). -/
structure Route where
  en : Bool
  addr : Bool
  remote : Bool
  vc : Nat
  module : Nat
  bent : Nat
  core : Nat
  mort : Fin 16

/-- Read a route. -/
def Route.of (r : W32) : Route :=
  { en := r.getLsbD 31, addr := r.getLsbD 30, remote := r.getLsbD 29, vc := fld r 27 2, module := fld r 17 10,
    bent := fld r 11 6, core := fld r 5 6, mort := fin 16 (fld r 1 4) }

/-- The global core number a route names. -/
def Route.target (r : Route) : Nat := 44 * r.bent + r.core

/-- The module's own domain number (R365). -/
def Domain.num (d : Domain) : Nat := field d.domId.toNat 16 10
/-- The active routing entry of a domain number is valid; none is in a module that is ALONE (R344, R345). -/
def Domain.reaches (d : Domain) (m : Nat) : Bool := d.joined && (sgetD m 0 d.rtAct).getLsbD 31
/-- The plate of a link (R334). -/
def linkPlate (l : Fin 8) : Plate := if l.val < 4 then .west else .east
/-- The plate through which the routing table sends records for a domain number (R344, R345). -/
def Domain.exitPlate (d : Domain) (m : Nat) : Plate := linkPlate (fin 8 (fld (sgetD m 0 d.rtAct) 0 3))

/-- Conditions 2 to 4 of the *Route checks* table for a tuple of `k` words (R243). -/
def routeBad (h : Hw) (c : Nat) (r : Route) (k : Nat) : Bool :=
  r.vc == 3 ||
  (47 < r.bent || 43 < r.core || (!r.remote && r.module != 0) ||
    (r.remote && (r.module == h.dom.num || !h.dom.reaches r.module))) ||
  (r.addr && ((!r.remote && r.target == c) || k == 1))

/-- A pending commit is applied once every changed tenon holds 8 credits; a frozen core's waits (R242, R264). -/
def Core.applyRoutes (k : Core) : Core :=
  if k.ncommitPending && k.frozenAt.isNone &&
      (List.finRange 16).all (fun n => k.tenons[n].shadow == k.tenons[n].active || k.tenons[n].credits == 8) then
    { k with ncommitPending := false, tenons := k.tenons.map (fun t => { t with active := t.shadow }) }
  else k

/-! ### Sending (R244, R245, R249, R256, R295) -/

/-- Send one tuple at a clock value through a tenon that is ready for it (R244): it uses a credit, and travels to its mortise or
scratchpad (R249, R254), or stands in an egress entry of the bent until its flit leaves for the exit plate (R256). -/
def Hw.sendTuple (h : Hw) (c : CoreId) (t : Fin 4) (n : Fin 16) (words : List W64) (tag : BitVec 6) (stream : Bool)
    (now : Nat) : Hw :=
  let ten := (h.core c).tenons[n]
  let r := Route.of ten.active
  let h1 := h.updCore c (·.updTenon n (fun x => { x with credits := x.credits - 1 }))
  let tup : Tuple :=
    { sender := c, thread := t, tenon := n, epoch := ten.epoch, target := coreId r.target, mort := r.mort, addr := r.addr,
      words := words, k := BitVec.ofNat 2 (words.length - 1), tag := tag, stream := stream, due := now, flit := 0 }
  if r.remote then
    let h2 := h1.updCore c (fun k => { k with remoteOut := sset r.module (sgetD r.module 0 k.remoteOut + 1) k.remoteOut })
    let h3 := h2.updThread ⟨c, t⟩ (fun th =>
      { th with remoteTo := if th.remoteTo.contains r.module then th.remoteTo else r.module :: th.remoteTo })
    let x := h3.post (bentOf c) (plateRouter (h.dom.exitPlate r.module)) (fin 4 r.vc) now
    x.2.updBent (bentOf c) (fun b => { b with egress := b.egress ++ [{ tup := { tup with flit := x.1 }, dmod := r.module, vc := fin 4 r.vc }] })
  else
    let h2 := h1.updThread ⟨c, t⟩ (fun th => { th with notices := th.notices + 1 })
    let x := h2.post (bentOf c) r.bent (fin 4 r.vc) (now + 8)
    { x.2 with tuples := x.2.tuples ++ [{ tup with due := now + tupleLatency c r.target, flit := x.1 }] }

/-! ### Drains (R79 to R83) -/

/-- The largest finite magnitude of a sign, or the rounded value (R81). -/
def Fmt.clamp (f : Fmt) (neg : Bool) (m : Nat) (e : Int) : Nat := f.signed neg (min (f.roundMag m e) f.maxFinite)

/-- One drained element that is not of an MX format: its bits and whether it sets SAT (R80). -/
def drainElem (code : Nat) (x : Num) : Nat × Bool :=
  match fmtOf code with
  | some f =>
    match x with
    | .fin neg m e => (if m = 0 then 0 else f.encode (.fin neg m e), f.overflows m e)
    | .inf neg => (f.encode (.inf neg), true)
    | .nan => (f.canonNan, false)
  | none =>
    let v := x.toInt 8
    let sat := match x with
      | .fin neg m e => decide (sint neg (rneScale m e) ≠ v)
      | _ => true
    (wrap 8 v, sat)

/-- The emax of an MX element format (R81). -/
def emaxOf (code : Nat) : Int :=
  match code with
  | 0x8 => 8
  | 0x9 => 15
  | 0xB => 4
  | _ => 2

/-- One drained row of an MX format: its elements, its scale byte, and whether it sets SAT (R81). -/
def drainMx (code : Nat) (f : Fmt) (xs : List Num) : List Nat × Nat × Bool :=
  let mags := xs.filterMap (fun x =>
    match x with
    | .fin _ m e => if m = 0 then none else some (ilog2 m e)
    | _ => none)
  let isFin := fun (x : Num) => match x with
    | .fin _ _ _ => true
    | _ => false
  let isInf := fun (x : Num) => match x with
    | .inf _ => true
    | _ => false
  if !xs.all isFin then (xs.map (fun _ => 0), 0xFF, xs.any isInf)
  else
    match mags with
    | [] => (xs.map (fun _ => 0), 127, false)
    | a :: rest =>
      let raw := rest.foldl max a - emaxOf code + 127
      let X := (max 0 (min 254 raw)).toNat
      (xs.map (fun x =>
        match x with
        | .fin neg m e => if m = 0 then 0 else f.clamp neg m (e - ((X : Int) - 127))
        | _ => 0), X, decide (254 < raw))

/-- The bits of a row of w-bit elements (R37). -/
def packRow (w : Nat) : List Nat → Nat
  | [] => 0
  | x :: xs => x % 2 ^ w + 2 ^ w * packRow w xs

/-- One row of a group converted for a tile of the shape `t` (R79 to R81). -/
def drainRow (gr : Group) (side : Nat) (shift : Int) (ts : Option Tile) (t : Tile) (r : Nat) : DrainRow :=
  let xs := (List.range t.elems).map (fun j =>
    let cj := match ts with
      | some s => signed 8 (byteAt j s.data).toNat
      | none => 0
    (gr.at_ (side * r + j)).num (gr.exp + shift + cj))
  if isMx t.code then
    let d := drainMx t.code ((fmtOf t.code).getD fE4M3) xs
    { row := r, bytes := toBytes t.rbytes (packRow (elemBits t.code) d.1), scale := some (BitVec.ofNat 8 d.2.1), sat := d.2.2 }
  else
    let ys := xs.map (drainElem t.code)
    { row := r, bytes := toBytes t.rbytes (packRow (elemBits t.code) (ys.map (·.1))), scale := none, sat := ys.any (·.2) }

/-- A converted row is written into the tile. -/
def DrainRow.write (x : DrainRow) (t : Tile) : Tile :=
  { t with data := setBytes (128 * x.row) x.bytes t.data
           scale := match x.scale with
             | some b => setByte (8 * x.row) b t.scale
             | none => t.scale }

/-- A drained row of a group becomes 0 and finite in every column (R79). -/
def Group.clearRow (g : Group) (side r : Nat) : Group :=
  { g with acc := g.acc.filter (fun e => decide (e.1 < side * r) || decide (side * (r + 1) ≤ e.1)) }

/-- A drain reads its next row. With KEEP 0 the row is emptied, and with the last row the rest of the group, INX and SAT
(R79). -/
def Core.drainRead (k : Core) (side : Nat) (d : DrainRun) : Core × DrainRun :=
  let gr := k.groups[d.g]
  let last := d.read + 1 == d.rows
  let x := drainRow gr side d.shift.toInt (d.ts.map (fun t => k.tiles[t])) k.tiles[d.td] d.read
  let gr' := if d.keep then gr else if last then { gr with acc := [], inx := false, sat := false } else gr.clearRow side d.read
  (k.updGroup d.g (fun _ => gr'),
    { d with read := d.read + 1, rowsIn := d.rowsIn ++ [x], inx := if last then gr.inx else d.inx
             sat := d.sat || x.sat || (last && gr.sat) })

/-- A drain writes its next row; with the last the tile takes INX and SAT (R82; log entry 86). -/
def Core.drainWrite (k : Core) (d : DrainRun) : Core × DrainRun :=
  match d.rowsIn with
  | [] => (k, d)
  | x :: rest =>
    let last := d.written + 1 == d.rows
    (k.updTile d.td (fun t => let t1 := x.write t; if last then { t1 with inx := d.inx, sat := d.sat } else t1),
      { d with written := d.written + 1, rowsIn := rest })

/-- The row reads and row writes of one drain in the cycles before a CYCLE value (R83). -/
def Core.drainOne (k : Core) (side cyc : Nat) (d : DrainRun) : Core × DrainRun :=
  let r := iter (min d.rows (cyc - d.start) - d.read) (fun _ x => x.1.drainRead side x.2) (k, d)
  iter (min d.rows (cyc - (d.start + d.lag)) - d.written) (fun _ x => x.1.drainWrite x.2) r

/-- The drains of a core in the cycles before a CYCLE value; a drain that has written its last row is over. -/
def Core.drainTo (k : Core) (side cyc : Nat) : Core :=
  k.drains.foldl (fun (k : Core) d =>
    let r := k.drainOne side cyc d
    if r.2.written = r.2.rows then r.1 else { r.1 with drains := r.1.drains ++ [r.2] }) { k with drains := [] }

/-! ### Streams (R84 to R92, R250) -/

/-- Data tuples of a stream of a kind (R84). -/
def dataTuples (c : Nat) : Nat := byKind c 392 25 7

/-- The header of a group's stream (R85). -/
def streamHeader (c : CoreId) (g : Fin 8) (gr : Group) : List W64 :=
  let side := arraySide c
  let w0 := 0xACC1 * 2 ^ 48 + gr.lse.toNat * 2 ^ 38 + gr.fa.toNat * 2 ^ 34 + gr.fb.toNat * 2 ^ 30 + side * 2 ^ 24 + side * 2 ^ 18
    + dataTuples c * 2 ^ 9
  [BitVec.ofNat 64 w0, BitVec.ofNat 64 (c.val + g.val * 4096), 0, 0]

/-- The trailer of a group's stream (R85). -/
def streamTrailer (gr : Group) : List W64 :=
  [BitVec.ofNat 64 (0xACC2 * 2 ^ 48 + b2n gr.inx * 2 + b2n gr.sat), 0, 0, 0]

/-- The 98 bits of an accumulator's entry (R85); entries past the last are 0. -/
def Group.entry (gr : Group) (count a : Nat) : Nat :=
  if a < count then (gr.at_ a).w.toNat + (gr.at_ a).cls.code * 2 ^ 96 else 0

/-- The four words of a 256-bit tuple. -/
def tupleWords (x : Nat) : List W64 := (List.range 4).map (fun i => BitVec.ofNat 64 (x / 2 ^ (64 * i)))
/-- The 256 bits of four words. -/
def tupleBits (ws : List W64) : Nat := ws.foldr (fun w acc => w.toNat + 2 ^ 64 * acc) 0

/-- Data tuple `t` of a group, 1 to DATA_TUPLES (R85). -/
def streamData (c : CoreId) (gr : Group) (t : Nat) : List W64 :=
  let n := arraySide c * arraySide c
  let lo := 256 * (t - 1)
  let a := lo / 98
  let bits := gr.entry n a + 2 ^ 98 * gr.entry n (a + 1) + 2 ^ 196 * gr.entry n (a + 2) + 2 ^ 294 * gr.entry n (a + 3)
  tupleWords (bits / 2 ^ (lo - 98 * a) % 2 ^ 256)

/-- The tuple that an APASS sends next, formed from the group as it stands (R86). -/
def StreamJob.passWords (j : StreamJob) (c : CoreId) (gr : Group) : List W64 :=
  if j.tuples = 0 then streamHeader c j.g gr else if j.tuples ≤ dataTuples c then streamData c gr j.tuples else streamTrailer gr

/-- Change the instruction on the stream unit. -/
def Core.updStream (k : Core) (f : StreamJob → StreamJob) : Core := { k with stream := k.stream.map f }

/-- The instruction on the stream unit has completed in a cycle: its thread issues again from the next (R90). -/
def Hw.streamDone (h : Hw) (c : CoreId) (j : StreamJob) (cyc : Nat) : Hw :=
  ((h.updCore c (fun k => { k with stream := none })).updThread ⟨c, j.thread⟩ (fun th => th.finish 1 (max th.nextIssue (cyc + 1)))).noted c

/-- A tuple of the stream is complete in a cycle; with the trailer the instruction is (R90, R91). -/
def Hw.streamStep (h : Hw) (c : CoreId) (cyc : Nat) : Hw :=
  match (h.core c).stream with
  | none => h
  | some j =>
    if j.tuples = dataTuples c + 1 then h.streamDone c j cyc
    else h.updCore c (·.updStream (fun j => { j with tuples := j.tuples + 1 }))

/-- The next thing that the stream unit does by a CYCLE value: an APASS sends a tuple, an ACHAIN sends on the oldest tuple taken or
ends its addition. None is left when a credit, a tuple or time is awaited (R86, R90, R92, R246). -/
def streamNext (c : CoreId) (cyc : Nat) (h : Hw) : Option Hw :=
  let k := h.core c
  match k.stream with
  | none => none
  | some j =>
    match j.sendAt, j.tenon with
    | some at_, some n =>
      if cyc < at_ || !k.sendReady n then none
      else
        let now := h.clockOf c at_
        if j.achain then
          match j.taken with
          | [] => none
          | x :: rest =>
            some (((h.updCore c (·.updStream (fun j => { j with taken := rest, nextSend := at_ + 1 }))).sendTuple c j.thread n x.words
              ((j.fwd.map (·.tag)).getD 0) true now).streamStep c at_)
        else
          some (((h.updCore c (·.updStream (fun j => { j with nextSend := at_ + 2 }))).sendTuple c j.thread n
            (j.passWords c k.groups[j.g]) j.tag true now).streamStep c at_)
    | _, _ =>
      match j.taken with
      | [] => none
      | x :: rest =>
        if cyc < x.due || j.fwd.isSome then none
        else some ((h.updCore c (·.updStream (fun j => { j with taken := rest }))).streamStep c x.due)

/-- All that the stream unit does by a CYCLE value: eight credits and two tuples in progress bound it. -/
def streamRun (c : CoreId) (cyc : Nat) : Nat → Hw → Hw
  | 0, h => h
  | fuel + 1, h =>
    match streamNext c cyc h with
    | some h1 => streamRun c cyc fuel h1
    | none => h

/-- The stall counters of the tenon that the stream unit sends on: one runs from the cycle from which the send waits, and returns
to 0 with the wait (R258). -/
def Core.streamStalls (k : Core) : Core :=
  match k.stream.bind StreamJob.tenon with
  | none => k
  | some n =>
    match k.streamBlocked, k.stream.bind StreamJob.sendAt with
    | some _, some at_ => k.stallTenon n at_
    | _, _ => k.unstall n

/-- The stream unit runs to a CYCLE value. -/
def Hw.stream (h : Hw) (c : CoreId) (cyc : Nat) : Hw :=
  if (h.core c).frozenAt.isSome || (h.core c).stream.isNone then h
  else ((streamRun c cyc 12 h).updCore c Core.streamStalls).noted c

/-- What the engines of a core do as time passes has been done up to now: the rows of drains and the sets of a CINV walk in the
cycles before the present one, the stream unit's sends in this one too, which come before any thread's (R83, R236, R246). -/
def Hw.caughtUp (h : Hw) (c : CoreId) : Hw :=
  let k := h.core c
  let h0 := if k.cinv.isNone then h else h.setCore c (k.cinvTo (h.cycle c - 1))
  let h1 := if k.drains.isEmpty then h0 else h0.updCore c (·.drainTo (arraySide c) (h.cycle c))
  if k.stream.isNone then h1 else h1.stream c (h.cycle c)

/-- An event of a core, no earlier than a CYCLE value, finds its engines caught up. -/
def Hw.coreEvent (h : Hw) (c : CoreId) (cyc : Nat) : Hw := (h.eventCycle c cyc).caughtUp c

/-- A send that waited becomes possible in the present cycle: the stream unit's comes first, in this cycle (R246). -/
def Hw.unblocked (h : Hw) (c : CoreId) : Hw :=
  if (h.core c).stream.isNone then h
  else (h.updCore c (·.updStream (fun j => { j with nextSend := max j.nextSend (h.cycle c) }))).stream c (h.cycle c)

/-- The stream unit runs ahead of the clock as far as its credits allow: what it does needs no event. -/
def Hw.streamAhead (h : Hw) (c : CoreId) : Hw :=
  match (h.core c).stream with
  | some j => h.stream c (max (h.cycle c) (max j.nextSend ((j.taken.map (·.due)).foldl max 0)) + 24)
  | none => h

end Sys2Proof.Machine
end

