-- ==== Sys2Proof/Machine/Forms.lean ====
section
/-!
DEFINITION. The forms of instructions as they bear on their issue: which take a prefix (R136), and what the pairing of a peg core
asks of them (R159).
-/

namespace Sys2Proof.Machine

/-! ### What an instruction reads and writes -/

/-- The flags. -/
def flagRegs : List Reg := [.z, .n, .c, .v]
/-- What an access to a STATUS port of the thread reads or writes (R159). -/
def statusRegs : List Reg := [.z, .n, .c, .v, .mode]

/-- The register that a second source reads. -/
def srcReads : Src → List Reg
  | .reg d => [.d d]
  | .mort _ => []
/-- A second source that names a mortise. -/
def isMort : Src → Bool
  | .reg _ => false
  | .mort _ => true

/-- The flags that a condition reads (R140). -/
def condReads (code : BitVec 4) : List Reg :=
  match code.toNat with
  | 0x0 | 0x1 => [.z]
  | 0x2 | 0x3 => [.c]
  | 0x4 | 0x5 => [.n]
  | 0x6 | 0x7 => [.v]
  | 0x8 | 0x9 => [.z, .c]
  | 0xA | 0xB => [.n, .v]
  | 0xC | 0xD => [.z, .n, .v]
  | _ => []

/-- The registers that an address reads. -/
def addrReads (b : Fin 16) : Offset → List Reg
  | .off _ => [.a b]
  | .idx d _ => [.a b, .d d]

/-- A port is the STATUS port of a thread of its own, or may be, where a register names it (R159). -/
def statusPort (w : Who) : Option Nat → Bool
  | none => true
  | some p => p == 0x400 || p == 0x410 + 16 * w.thread.val

/-! ### Forms -/

/-- A register ALU instruction with two sources. -/
def aluForm (d : List Reg) (a : Fin 32) (b : Src) (flags : List Reg) : Form :=
  { pairs := true, reads := .d a :: srcReads b, writes := d ++ flags, mort := isMort b }
/-- One source, one destination and flags. -/
def unForm (d a : Reg) (flags : List Reg) : Form := { pairs := true, reads := [a], writes := d :: flags }
/-- An instruction with an immediate that a prefix extends. -/
def immForm (d : List Reg) (a : List Reg) (flags : List Reg) : Form :=
  { takesPfx := true, pairs := true, reads := a, writes := d ++ flags }
/-- A divide. -/
def divForm (d a : Fin 32) (b : Src) (flags : List Reg) : Form := { aluForm [.d d] a b flags with div := true }
/-- A multiply-accumulate. -/
def macForm (r : Fin 4) (a : Fin 32) (b : Src) : Form :=
  { pairs := true, reads := .acc r :: .d a :: srcReads b, writes := [.acc r, .z, .n, .v], mort := isMort b }
/-- A load. -/
def loadForm (d : Reg) (b : Fin 16) (o : Offset) : Form :=
  { takesPfx := true, pairs := true, reads := addrReads b o, writes := [d], access := true }
/-- A store. -/
def storeForm (s : Reg) (b : Fin 16) (o : Offset) : Form :=
  { takesPfx := true, pairs := true, reads := s :: addrReads b o, access := true }
/-- An IN from a port, or from a port that registers name. -/
def inForm (w : Who) (d : Fin 32) (p : Option Nat) (rs : List Reg) : Form :=
  { pairs := true, reads := rs ++ (if statusPort w p then statusRegs else []), writes := [.d d], access := true }
/-- An OUT. -/
def outForm (w : Who) (s : Fin 32) (p : Option Nat) (rs : List Reg) : Form :=
  { pairs := true, reads := .d s :: rs, writes := if statusPort w p then statusRegs else [], access := true }

/-- The form of an instruction. Those not named are of groups that never pair and take no prefix, but for the vector accesses,
which take one (R136, R159). -/
def formOf : Instr → Form
  | .add _ d a b | .sub _ d a b => aluForm [.d d] a b flagRegs
  | .adc _ d a b | .sbc _ d a b => let f := aluForm [.d d] a b flagRegs; { f with reads := .c :: f.reads }
  | .cmp _ a b => aluForm [] a b flagRegs
  | .aluTst _ a b => aluForm [] a b [.z, .n]
  | .neg _ d a => unForm (.d d) (.d a) flagRegs
  | .and _ d a b | .or _ d a b | .xor _ d a b | .andn _ d a b | .mulh _ d a b | .mulhu _ d a b
  | .min _ d a b | .max _ d a b | .minu _ d a b | .maxu _ d a b => aluForm [.d d] a b [.z, .n]
  | .shl _ d a b | .shr _ d a b | .sar _ d a b | .ror _ d a b => aluForm [.d d] a b [.z, .n, .c]
  | .mul _ d a b => aluForm [.d d] a b [.z, .n, .v]
  | .div _ d a b | .rem _ d a b => divForm d a b [.z, .n, .v]
  | .divu _ d a b | .remu _ d a b => divForm d a b [.z, .n]
  | .not _ d a | .clz _ d a | .ctz _ d a | .popc _ d a | .sext _ d a _ | .zext _ d a _ => unForm (.d d) (.d a) [.z, .n]
  | .mov _ d b => { pairs := true, reads := srcReads b, writes := [.d d], mort := isMort b }
  | .sel _ d a b c => let f := aluForm [.d d] a b []; { f with reads := condReads c ++ f.reads }
  | .addi _ d a _ => immForm [.d d] [.d a] flagRegs
  | .cmpi _ a _ => immForm [] [.d a] flagRegs
  | .andi _ d a _ | .ori _ d a _ | .xori _ d a _ => immForm [.d d] [.d a] [.z, .n]
  | .shli _ d a _ | .shri _ d a _ | .sari _ d a _ | .rori _ d a _ => unForm (.d d) (.d a) [.z, .n, .c]
  | .li _ d _ => immForm [.d d] [] []
  | .lih _ d _ => immForm [.d d] [.d d] []
  | .adda _ d a _ => immForm [.a d] [.a a] []
  | .addar _ d a b _ => { pairs := true, reads := [.a a, .d b], writes := [.a d] }
  | .suba _ d a b => { pairs := true, reads := [.a a, .a b], writes := [.d d] }
  | .movad _ d b => unForm (.a d) (.d b) []
  | .movda _ d a => unForm (.d d) (.a a) []
  | .lia _ d _ => immForm [.a d] [] []
  | .liah _ d _ => unForm (.a d) (.a d) []
  | .cmpa _ a b => { pairs := true, reads := [.a a, .a b], writes := flagRegs }
  | .mac _ r a b | .macs _ r a b | .msu _ r a b | .msus _ r a b => macForm r a b
  | .acclr _ r => { pairs := true, writes := [.acc r] }
  | .accwr _ r a => unForm (.acc r) (.d a) []
  | .accrd _ a r _ => unForm (.d a) (.acc r) [.z, .n]
  | .accrds _ a r _ => unForm (.d a) (.acc r) [.z, .n, .v]
  | .ld _ d _ b o _ => loadForm (.d d) b o
  | .lda _ d _ b o _ => loadForm (.a d) b o
  | .st _ s _ b o _ => storeForm (.d s) b o
  | .sta _ s _ b o _ => storeForm (.a s) b o
  | .b _ c _ => { pairs := true, reads := condReads c, jump := true }
  | .bl _ _ => { pairs := true, writes := [.a 14], jump := true }
  | .jr _ a => { pairs := true, reads := [.a a], jump := true }
  | .jlr _ d a => { pairs := true, reads := [.a a], writes := [.a d], jump := true }
  | .inp w d p => inForm w d (some p.toNat) []
  | .inr w d a => inForm w d none [.d a]
  | .out w p s => outForm w s (some p.toNat) []
  | .outr w a s => outForm w s none [.d a]
  | .vld _ _ _ _ _ | .vst _ _ _ _ => { takesPfx := true }
  | _ => {}

/-! ### Pairs (R159) -/

/-- A register proper, of which a pair may not write one twice; the flags of a pair are those of its second word. -/
def isRegister : Reg → Bool
  | .d _ | .a _ | .acc _ => true
  | _ => false

/-- Two words in sequence may issue as a pair: conditions 1 to 4. -/
def canPair (f g : Form) : Bool :=
  f.pairs && g.pairs && !f.jump && !g.reads.any f.writes.contains &&
    !g.writes.any (fun r => isRegister r && f.writes.contains r) && !(f.access && g.access) && !(f.div && g.div) &&
    !(f.mort && g.mort)

end Sys2Proof.Machine
end

