-- ==== Sys2Proof/Machine/Issue.lean ====
section
/-!
DEFINITION. Issuing an instruction (R131, R137, R157 to R159, R182): the slot in which it issues, the pairs of peg cores, the
checks of its fetch and prefix, and what it leaves of its thread.
-/

namespace Sys2Proof.Machine

/-! ### When a thread issues (R157, R158, R192) -/

/-- The core issues: it is neither halted nor frozen, nor halts by an exception that thread 0 has found (R205, R471). -/
def Core.runs (k : Core) : Bool := !k.coreHalt && k.frozenAt.isNone && !((k.thread 0).found.isSome && (k.thread 0).exl)

/-- The second word of a pair issues in the present slot (R159). -/
def Hw.pairOpen (h : Hw) (w : Who) : Bool := !h.acted && (h.thread w).pair.any (fun p => p.slot == h.cycle w.core)

/-- An interrupt is to be taken when MIE = 1, EXL = 0 and IPEND ≠ 0 (R192). -/
def Thread.takeable (th : Thread) : Bool := th.mie && !th.exl && th.ipend != 0

/-- An instruction of this thread may issue in the present cycle: the thread is RUNNING with no exception found, no interrupt to
be taken first, and no stall that ends by an event of its own. -/
def Hw.canIssue (h : Hw) (w : Who) : Bool :=
  let k := h.core w.core
  let th := k.thread w.thread
  k.runs && th.tstate == .running && th.found.isNone && th.stall.all Stall.retries && !(th.takeable && k.atBoundary w.thread)

/-- The first slots of a thread: its next one, and the next after each effect that is still to take hold. -/
def Hw.slots (h : Hw) (w : Who) : List Hw :=
  (h :: h.later.map (fun l => h.reach (l.1 + 1))).map (fun x => (x.toSlot w).caughtUp w.core)

/-- The first slot of a thread in which something holds. -/
def Hw.slotWhere (h : Hw) (w : Who) (ok : Hw → Bool) : Option Hw := (h.slots w).find? ok

/-- The next slot in which an instruction of a thread issues; a thread stalled in APASS or ACHAIN issues after its stream. -/
def Hw.nextSlot (h : Hw) (w : Who) : Option Hw :=
  (if (h.thread w).stall = some .stream then h.streamAhead w.core else h).slotWhere w (·.canIssue w)

/-- An instruction forms a pair with the one that has completed in the present slot (R159). -/
def Hw.pairs (h : Hw) (w : Who) (f : Form) : Bool :=
  let th := h.thread w
  h.pairOpen w && (h.core w.core).runs && th.tstate == .running && th.found.isNone && th.stall.isNone && th.pfx.isNone &&
    th.pair.any (fun p => canPair p.form f)

/-- The state in which an instruction issues: the present slot for the second word of a pair, else its thread's next slot. -/
def Hw.slotState (h : Hw) (w : Who) (f : Form) : Option Hw := if h.pairs w f then some h else h.nextSlot w

/-! ### The fetch (R131, R137, R154, R159) -/

/-- The fault of fetching the word at a PC (R154); `epc` is the PFX of a pair (R137). -/
def fetchFault (c : Nat) (k : Core) (epc pc : BitVec 20) : Option Exc :=
  if imemSize c ≤ pc.toNat then some { code := excFetchRange, epc := epc, eaddr := pc.setWidth 48 }
  else if k.isegx.getLsbD (pc.toNat / segSize c) then none
  else some { code := excNoExecute, epc := epc, eaddr := pc.setWidth 48 }

/-- The PC of the word that a thread fetches next: behind a PFX, the second word of its pair. -/
def Thread.fetchPc (th : Thread) : BitVec 20 := if th.pfx.isSome then th.pc + 4 else th.pc

/-- The instruction word at an address of a core's instruction memory. -/
def fetchWord (c : Nat) (pc : BitVec 20) (m : Mem) : W32 := BitVec.ofNat 32 (memNat (locImem c pc.toNat) 4 m)

/-- The word at a PC can be fetched, spells an instruction, and forms a pair with a first word: condition 5 as far as the word
alone tells, and the others (R159). -/
def Hw.secondWord (h : Hw) (w : Who) (f : Form) (pc : BitVec 20) (m : Mem) : Bool :=
  (fetchFault w.core (h.core w.core) pc pc).isNone && (decodeWord w (fetchWord w.core pc m)).any (fun i => canPair f (formOf i))

/-! ### What an issued instruction leaves of its thread -/

/-- The words of the instruction: two for a prefixed pair (R137). -/
def Thread.words (th : Thread) : Nat := if th.pfx.isSome then 2 else 1

/-- What an issued instruction does to its thread at the CYCLE value of its issue. A pair holds its thread for the longer of its
two words (R159). -/
def Thread.settle (th : Thread) (cyc : Nat) : Ctl → Thread
  | .done n => th.finish th.words (max th.nextIssue (cyc + 4 * n))
  | .jump pc | .ret pc => Thread.boundary { th with pc := pc, stall := none, pfx := none, pair := none, nextIssue := max th.nextIssue (cyc + 4) }
  | .stall r on => { th with stall := some r, stallOn := on, pair := none, nextIssue := max th.nextIssue (cyc + 4) }
  | .fault e => { th with found := some { e with at_ := cyc }, stall := none, pfx := none, pair := none, nextIssue := cyc + 4 }
  | .stay => { th with stall := none, pfx := none, pair := none, nextIssue := max th.nextIssue (cyc + 4) }

/-- What a completed first word of a pair does to its thread: what ends with an instruction waits for the second word (R159). -/
def Thread.settleFirst (th : Thread) (cyc n : Nat) (f : Form) : Thread :=
  { th with pc := th.pc + 4, stall := none, pair := some { slot := cyc, form := f }, nextIssue := cyc + 4 * n }

/-- A completed instruction is the first word of a pair: on a peg core, neither prefixed nor itself a second word, with a second
word behind it that pairs (R159). -/
def Hw.isFirst (h : Hw) (w : Who) (f : Form) (m : Mem) : Bool :=
  let th := h.thread w
  isPeg w.core && f.pairs && !f.jump && th.pfx.isNone && th.pair.all (fun p => p.slot != h.cycle w.core) &&
    h.secondWord w f (th.pc + 4) m

/-- The thread as its instruction leaves it. -/
def Hw.settled (h : Hw) (w : Who) (f : Form) (m : Mem) (c : Ctl) : Thread :=
  match c with
  | .done n => if h.isFirst w f m then (h.thread w).settleFirst (h.cycle w.core) n f else (h.thread w).settle (h.cycle w.core) c
  | c => (h.thread w).settle (h.cycle w.core) c

/-- A stop that waited for its thread takes hold in a stall of R158 (R473). -/
def Core.stopStalled (k : Core) (t : Fin 4) : Core :=
  let th := k.thread t
  if th.stopReq && th.tstate == .running && th.stall.isSome && k.atBoundary t then (k.stopWork t).updThread t Thread.stopNow else k

/-- The send that a thread was stalled in is no longer (R258). -/
def Core.sendEnds (k : Core) : Option (Fin 16) → Core
  | some n => k.unstall n
  | none => k

/-- The tenon that a thread's stalled SEND waits on. -/
def Thread.sendOn (th : Thread) : Option (Fin 16) := if th.stall = some .credit then some (fin 16 th.stallOn) else none

/-- Settle an issued instruction of a thread. -/
def Hw.settle (h : Hw) (w : Who) (f : Form) (m : Mem) (c : Ctl) : Hw :=
  let h1 := h.traceCtl w c
  (h1.updCore w.core (fun k =>
    ((k.updThread w.thread (fun _ => h1.settled w f m c)).sendEnds (k.thread w.thread).sendOn).stopStalled w.thread)).noted w.core

/-! ### Issue -/

/-- An instruction in its slot: the fault of its fetch, ILLEGAL at a prefix that it does not take (R138), or its own effect. -/
def inSlot (w : Who) (f : Form) (body : Option (BitVec 26) → Mem → Hw → Ctl × Mem × Hw) (m : Mem) (h : Hw) : Ctl × Mem × Hw :=
  let th := h.thread w
  match fetchFault w.core (h.core w.core) th.pc th.fetchPc with
  | some e => (.fault e, m, h)
  | none => if th.pfx.isSome && !f.takesPfx then (faultAt th excIllegal, m, h) else body th.pfx m h

/-- A second word whose fetch faults, or that is ILLEGAL, forms no pair (R159, condition 5). -/
def Ctl.unpairs : Ctl → Bool
  | .fault e => e.code == excIllegal || e.code == excNoExecute || (e.code == excFetchRange && e.eaddr == e.epc.setWidth 48)
  | _ => false

/-- Issue an instruction. Where the thread cannot issue, the step does not occur (log entry 8). -/
def runInstrM (w : Who) (f : Form) (body : Option (BitVec 26) → Mem → Hw → Ctl × Mem × Hw) (m : Mem) (h : Hw) : Mem × Hw :=
  let run := fun (x : Hw) => inSlot w f body m x
  let done := fun (r : Ctl × Mem × Hw) => (r.2.1, r.2.2.settle w f m r.1)
  match h.slotState w f with
  | none => (m, h)
  | some x =>
    let r := run x
    if h.pairs w f && r.1.unpairs then
      match h.nextSlot w with
      | none => (m, h)
      | some y => done (run y)
    else done r

/-- Issue an instruction that writes no memory. -/
def runInstr (w : Who) (f : Form) (body : Option (BitVec 26) → Hw → Ctl × Hw) (m : Mem) (h : Hw) : Hw :=
  (runInstrM w f (fun p m h => ((body p h).1, m, (body p h).2)) m h).2

end Sys2Proof.Machine
end

