-- ==== Sys2Proof/Machine/Alu.lean ====
section
/-!
DEFINITION. The register ALU instructions (R141, R142), the immediate instructions (R143), the address register
instructions (R144) and the accumulator instructions (R145).
-/

namespace Sys2Proof.Machine

/-! ### Shapes -/

/-- dD and the flags from dA and B, in one slot. -/
def aluD (w : Who) (form : Form) (d a : Fin 32) (b : Src) (f : Flags → W64 → W64 → W64 × Flags) : Mem → Hw → Hw :=
  runInstr w form (withOperand w b (fun th y =>
    let r := f th.flags (th.getD a) y
    (.done 1, (th.setD d r.1).setFlags r.2)))

/-- The flags from dA and B, without a destination. -/
def aluCmp (w : Who) (form : Form) (a : Fin 32) (b : Src) (f : Flags → W64 → W64 → Flags) : Mem → Hw → Hw :=
  runInstr w form (withOperand w b (fun th y => (.done 1, th.setFlags (f th.flags (th.getD a) y))))

/-- dD and the flags from dA alone. -/
def aluUnary (w : Who) (form : Form) (d a : Fin 32) (f : Flags → W64 → W64 × Flags) : Mem → Hw → Hw :=
  runInstr w form (fun _ => onThread w (fun th =>
    let r := f th.flags (th.getD a)
    (.done 1, (th.setD d r.1).setFlags r.2)))

/-- The slots of a divide (R157). -/
def divSlots (c : CoreId) : Nat := if isPeg c then 3 else 17

/-- The divide family: a zero divisor raises DIV_ZERO and has no effect (R142). -/
def aluDiv (w : Who) (form : Form) (d a : Fin 32) (b : Src) (f : Flags → W64 → W64 → W64 × Flags) : Mem → Hw → Hw :=
  runInstr w form (withOperand w b (fun th y =>
    if y = 0 then (faultAt th excDivZero, th)
    else
      let r := f th.flags (th.getD a) y
      (.done (divSlots w.core), (th.setD d r.1).setFlags r.2)))

/-- A result with Z and N. -/
def zn (f : W64 → W64 → W64) (fl : Flags) (x y : W64) : W64 × Flags := (f x y, znFlags fl (f x y))

/-! ### Register ALU (R141, R142) -/

/-- ADD: dA + B. -/
def execAdd (w : Who) (d a : Fin 32) (b : Src) (s : State) : Out :=
  onHw (aluD w (formOf (.add w d a b)) d a b (fun _ x y => (x + y, addFlags x y false))) s
/-- ADC: dA + B + C. -/
def execAdc (w : Who) (d a : Fin 32) (b : Src) (s : State) : Out :=
  onHw (aluD w (formOf (.adc w d a b)) d a b (fun f x y => (x + y + BitVec.ofNat 64 (b2n f.c), addFlags x y f.c))) s
/-- SUB: dA − B. -/
def execSub (w : Who) (d a : Fin 32) (b : Src) (s : State) : Out :=
  onHw (aluD w (formOf (.sub w d a b)) d a b (fun _ x y => (x - y, subFlags x y false))) s
/-- SBC: dA − B − (1 − C). -/
def execSbc (w : Who) (d a : Fin 32) (b : Src) (s : State) : Out :=
  onHw (aluD w (formOf (.sbc w d a b)) d a b (fun f x y => (x - y - BitVec.ofNat 64 (b2n !f.c), subFlags x y (!f.c)))) s
/-- CMP: the flags of dA − B. -/
def execCmp (w : Who) (a : Fin 32) (b : Src) (s : State) : Out :=
  onHw (aluCmp w (formOf (.cmp w a b)) a b (fun _ x y => subFlags x y false)) s
/-- NEG: 0 − dA. -/
def execNeg (w : Who) (d a : Fin 32) (s : State) : Out :=
  onHw (aluUnary w (formOf (.neg w d a)) d a (fun _ x => (0 - x, subFlags 0 x false))) s
/-- AND. -/
def execAnd (w : Who) (d a : Fin 32) (b : Src) (s : State) : Out := onHw (aluD w (formOf (.and w d a b)) d a b (zn (· &&& ·))) s
/-- OR. -/
def execOr (w : Who) (d a : Fin 32) (b : Src) (s : State) : Out := onHw (aluD w (formOf (.or w d a b)) d a b (zn (· ||| ·))) s
/-- XOR. -/
def execXor (w : Who) (d a : Fin 32) (b : Src) (s : State) : Out := onHw (aluD w (formOf (.xor w d a b)) d a b (zn (· ^^^ ·))) s
/-- ANDN: dA AND NOT B. -/
def execAndn (w : Who) (d a : Fin 32) (b : Src) (s : State) : Out :=
  onHw (aluD w (formOf (.andn w d a b)) d a b (zn (fun x y => x &&& ~~~y))) s
/-- NOT. -/
def execNot (w : Who) (d a : Fin 32) (s : State) : Out :=
  onHw (aluUnary w (formOf (.not w d a)) d a (fun f x => (~~~x, znFlags f (~~~x)))) s
/-- TST of the register ALU: the flags of dA AND B. -/
def execAluTst (w : Who) (a : Fin 32) (b : Src) (s : State) : Out :=
  onHw (aluCmp w (formOf (.aluTst w a b)) a b (fun f x y => znFlags f (x &&& y))) s
/-- SHL by B[5:0]. -/
def execShl (w : Who) (d a : Fin 32) (b : Src) (s : State) : Out :=
  onHw (aluD w (formOf (.shl w d a b)) d a b (fun f x y => shlRes f x (y.toNat % 64))) s
/-- SHR by B[5:0]. -/
def execShr (w : Who) (d a : Fin 32) (b : Src) (s : State) : Out :=
  onHw (aluD w (formOf (.shr w d a b)) d a b (fun f x y => shrRes f x (y.toNat % 64))) s
/-- SAR by B[5:0]. -/
def execSar (w : Who) (d a : Fin 32) (b : Src) (s : State) : Out :=
  onHw (aluD w (formOf (.sar w d a b)) d a b (fun f x y => sarRes f x (y.toNat % 64))) s
/-- ROR by B[5:0]. -/
def execRor (w : Who) (d a : Fin 32) (b : Src) (s : State) : Out :=
  onHw (aluD w (formOf (.ror w d a b)) d a b (fun f x y => rorRes f x (y.toNat % 64))) s
/-- MUL: bits 63:0 of the product; V when the signed product differs from them sign-extended (R142). -/
def execMul (w : Who) (d a : Fin 32) (b : Src) (s : State) : Out :=
  onHw (aluD w (formOf (.mul w d a b)) d a b (fun f x y => (x * y, znvFlags f (x * y) (outside 64 (x.toInt * y.toInt))))) s
/-- MULH: bits 127:64 of the signed product. -/
def execMulh (w : Who) (d a : Fin 32) (b : Src) (s : State) : Out :=
  onHw (aluD w (formOf (.mulh w d a b)) d a b (zn (fun x y => BitVec.ofInt 64 (x.toInt * y.toInt / 2 ^ 64)))) s
/-- MULHU: bits 127:64 of the unsigned product. -/
def execMulhu (w : Who) (d a : Fin 32) (b : Src) (s : State) : Out :=
  onHw (aluD w (formOf (.mulhu w d a b)) d a b (zn (fun x y => BitVec.ofNat 64 (x.toNat * y.toNat / 2 ^ 64)))) s
/-- DIV: the signed quotient truncated toward zero; −2^63 by −1 gives −2^63 with V (R142). -/
def execDiv (w : Who) (d a : Fin 32) (b : Src) (s : State) : Out :=
  onHw (aluDiv w (formOf (.div w d a b)) d a b (fun f x y =>
    let q := BitVec.ofInt 64 (x.toInt.tdiv y.toInt)
    (q, znvFlags f q (x.toInt == -(2 ^ 63) && y.toInt == -1)))) s
/-- DIVU: the unsigned quotient. -/
def execDivu (w : Who) (d a : Fin 32) (b : Src) (s : State) : Out := onHw (aluDiv w (formOf (.divu w d a b)) d a b (zn (· / ·))) s
/-- REM: the signed remainder with the sign of dA; −2^63 by −1 gives 0 with V (R142). -/
def execRem (w : Who) (d a : Fin 32) (b : Src) (s : State) : Out :=
  onHw (aluDiv w (formOf (.rem w d a b)) d a b (fun f x y =>
    let r := BitVec.ofInt 64 (x.toInt.tmod y.toInt)
    (r, znvFlags f r (x.toInt == -(2 ^ 63) && y.toInt == -1)))) s
/-- REMU: the unsigned remainder. -/
def execRemu (w : Who) (d a : Fin 32) (b : Src) (s : State) : Out := onHw (aluDiv w (formOf (.remu w d a b)) d a b (zn (· % ·))) s
/-- MIN, signed. -/
def execMin (w : Who) (d a : Fin 32) (b : Src) (s : State) : Out :=
  onHw (aluD w (formOf (.min w d a b)) d a b (zn (fun x y => if x.toInt ≤ y.toInt then x else y))) s
/-- MAX, signed. -/
def execMax (w : Who) (d a : Fin 32) (b : Src) (s : State) : Out :=
  onHw (aluD w (formOf (.max w d a b)) d a b (zn (fun x y => if y.toInt ≤ x.toInt then x else y))) s
/-- MINU, unsigned. -/
def execMinu (w : Who) (d a : Fin 32) (b : Src) (s : State) : Out :=
  onHw (aluD w (formOf (.minu w d a b)) d a b (zn (fun x y => if x.toNat ≤ y.toNat then x else y))) s
/-- MAXU, unsigned. -/
def execMaxu (w : Who) (d a : Fin 32) (b : Src) (s : State) : Out :=
  onHw (aluD w (formOf (.maxu w d a b)) d a b (zn (fun x y => if y.toNat ≤ x.toNat then x else y))) s

/-- Leading zeros of a 64-bit value, 0 to 64. -/
def clz64 (x : W64) : Nat := 64 - (if x = 0 then 0 else Nat.log2 x.toNat + 1)
/-- Trailing zeros of a 64-bit value, 0 to 64. -/
def ctz64 (x : W64) : Nat := ((List.range 64).takeWhile (fun k => !x.getLsbD k)).length
/-- Ones of a 64-bit value. -/
def popc64 (x : W64) : Nat := (List.range 64).countP (fun k => x.getLsbD k)

/-- CLZ. -/
def execClz (w : Who) (d a : Fin 32) (s : State) : Out :=
  onHw (aluUnary w (formOf (.clz w d a)) d a (fun f x => let r := BitVec.ofNat 64 (clz64 x); (r, znFlags f r))) s
/-- CTZ. -/
def execCtz (w : Who) (d a : Fin 32) (s : State) : Out :=
  onHw (aluUnary w (formOf (.ctz w d a)) d a (fun f x => let r := BitVec.ofNat 64 (ctz64 x); (r, znFlags f r))) s
/-- POPC. -/
def execPopc (w : Who) (d a : Fin 32) (s : State) : Out :=
  onHw (aluUnary w (formOf (.popc w d a)) d a (fun f x => let r := BitVec.ofNat 64 (popc64 x); (r, znFlags f r))) s

/-- The extensions: a size code above 2 raises ILLEGAL (R141). -/
def aluExt (w : Who) (form : Form) (d a : Fin 32) (size : BitVec 4) (f : Nat → W64 → W64) : Mem → Hw → Hw :=
  runInstr w form (fun _ => onThread w (fun th =>
    if 2 < size.toNat then (faultAt th excIllegal, th)
    else
      let r := f (8 * 2 ^ size.toNat) (th.getD a)
      (.done 1, (th.setD d r).setFlags (znFlags th.flags r))))

/-- SEXT of a byte, half or word. -/
def execSext (w : Who) (d a : Fin 32) (size : BitVec 4) (s : State) : Out :=
  onHw (aluExt w (formOf (.sext w d a size)) d a size (fun n x => BitVec.ofInt 64 (signed n x.toNat))) s
/-- ZEXT of a byte, half or word. -/
def execZext (w : Who) (d a : Fin 32) (size : BitVec 4) (s : State) : Out :=
  onHw (aluExt w (formOf (.zext w d a size)) d a size (fun n x => BitVec.ofNat 64 (x.toNat % 2 ^ n))) s
/-- MOV: dD := B, no flags. -/
def execMov (w : Who) (d : Fin 32) (b : Src) (s : State) : Out :=
  onHw (runInstr w (formOf (.mov w d b)) (withOperand w b (fun th y => (.done 1, th.setD d y)))) s
/-- SEL: dA when the condition holds, else B; condition 0xF raises ILLEGAL (R138). -/
def execSel (w : Who) (d a : Fin 32) (b : Src) (cond : BitVec 4) (s : State) : Out :=
  onHw (runInstr w (formOf (.sel w d a b cond)) (fun p h =>
    if cond = 0xF then (faultAt (h.thread w) excIllegal, h)
    else withOperand w b (fun th y => (.done 1, th.setD d (if condHolds th.flags cond then th.getD a else y))) p h)) s

/-! ### Immediates (R143) -/

/-- dD and the flags from dA and an immediate. -/
def immD (w : Who) (form : Form) (d a : Fin 32) (imm : Option (BitVec 26) → Option W64) (f : Flags → W64 → W64 → W64 × Flags) : Mem → Hw → Hw :=
  runInstr w form (withImm w imm (fun th y =>
    let r := f th.flags (th.getD a) y
    (.done 1, (th.setD d r.1).setFlags r.2)))

/-- ADDI. -/
def execAddi (w : Who) (d a : Fin 32) (imm : BitVec 16) (s : State) : Out :=
  onHw (immD w (formOf (.addi w d a imm)) d a (immS · imm) (fun _ x y => (x + y, addFlags x y false))) s
/-- CMPI. -/
def execCmpi (w : Who) (a : Fin 32) (imm : BitVec 16) (s : State) : Out :=
  onHw (runInstr w (formOf (.cmpi w a imm)) (withImm w (immS · imm)
    (fun th y => (.done 1, th.setFlags (subFlags (th.getD a) y false))))) s
/-- ANDI. -/
def execAndi (w : Who) (d a : Fin 32) (imm : BitVec 16) (s : State) : Out :=
  onHw (immD w (formOf (.andi w d a imm)) d a (immZ · imm) (zn (· &&& ·))) s
/-- ORI. -/
def execOri (w : Who) (d a : Fin 32) (imm : BitVec 16) (s : State) : Out :=
  onHw (immD w (formOf (.ori w d a imm)) d a (immZ · imm) (zn (· ||| ·))) s
/-- XORI. -/
def execXori (w : Who) (d a : Fin 32) (imm : BitVec 16) (s : State) : Out :=
  onHw (immD w (formOf (.xori w d a imm)) d a (immZ · imm) (zn (· ^^^ ·))) s
/-- SHLI. -/
def execShli (w : Who) (d a : Fin 32) (amt : BitVec 6) (s : State) : Out :=
  onHw (aluUnary w (formOf (.shli w d a amt)) d a (fun f x => shlRes f x amt.toNat)) s
/-- SHRI. -/
def execShri (w : Who) (d a : Fin 32) (amt : BitVec 6) (s : State) : Out :=
  onHw (aluUnary w (formOf (.shri w d a amt)) d a (fun f x => shrRes f x amt.toNat)) s
/-- SARI. -/
def execSari (w : Who) (d a : Fin 32) (amt : BitVec 6) (s : State) : Out :=
  onHw (aluUnary w (formOf (.sari w d a amt)) d a (fun f x => sarRes f x amt.toNat)) s
/-- RORI. -/
def execRori (w : Who) (d a : Fin 32) (amt : BitVec 6) (s : State) : Out :=
  onHw (aluUnary w (formOf (.rori w d a amt)) d a (fun f x => rorRes f x amt.toNat)) s
/-- LI: the sign-extended immediate. -/
def execLi (w : Who) (d : Fin 32) (imm : BitVec 16) (s : State) : Out :=
  onHw (runInstr w (formOf (.li w d imm)) (withImm w (immS · imm) (fun th y => (.done 1, th.setD d y)))) s
/-- LIH: the immediate into bits 63:32. -/
def execLih (w : Who) (d : Fin 32) (imm : BitVec 16) (s : State) : Out :=
  onHw (runInstr w (formOf (.lih w d imm)) (withImm w (immS · imm)
    (fun th y => (.done 1, th.setD d (y.setWidth 32 ++ (th.getD d).setWidth 32))))) s

/-! ### Address registers (R144) -/

/-- ADDA: aA plus a sign-extended immediate, modulo 2^48. -/
def execAdda (w : Who) (d a : Fin 16) (imm : BitVec 16) (s : State) : Out :=
  onHw (runInstr w (formOf (.adda w d a imm)) (withImm w (immS · imm)
    (fun th y => (.done 1, th.setA d (th.getA a + y.setWidth 48))))) s
/-- ADDAR: aA + dB[47:0] × 2^SH. -/
def execAddar (w : Who) (d a : Fin 16) (b : Fin 32) (sh : BitVec 3) (s : State) : Out :=
  onHw (runInstr w (formOf (.addar w d a b sh)) (fun _ => onThread w (fun th =>
    (.done 1, th.setA d (th.getA a + ((th.getD b).setWidth 48 <<< sh.toNat)))))) s
/-- SUBA: aA − aB modulo 2^48, sign-extended from bit 47. -/
def execSuba (w : Who) (d : Fin 32) (a b : Fin 16) (s : State) : Out :=
  onHw (runInstr w (formOf (.suba w d a b)) (fun _ => onThread w (fun th =>
    (.done 1, th.setD d ((th.getA a - th.getA b).signExtend 64))))) s
/-- MOVAD: aD := dB[47:0]. -/
def execMovad (w : Who) (d : Fin 16) (b : Fin 32) (s : State) : Out :=
  onHw (runInstr w (formOf (.movad w d b)) (fun _ => onThread w (fun th => (.done 1, th.setA d ((th.getD b).setWidth 48))))) s
/-- MOVDA: dD := aA zero-extended. -/
def execMovda (w : Who) (d : Fin 32) (a : Fin 16) (s : State) : Out :=
  onHw (runInstr w (formOf (.movda w d a)) (fun _ => onThread w (fun th => (.done 1, th.setD d ((th.getA a).setWidth 64))))) s
/-- LIA: the zero-extended immediate. -/
def execLia (w : Who) (d : Fin 16) (imm : BitVec 16) (s : State) : Out :=
  onHw (runInstr w (formOf (.lia w d imm)) (withImm w (immZ · imm) (fun th y => (.done 1, th.setA d (y.setWidth 48))))) s
/-- LIAH: aD[47:32] := IMM; aD[31:0] unchanged. -/
def execLiah (w : Who) (d : Fin 16) (imm : BitVec 16) (s : State) : Out :=
  onHw (runInstr w (formOf (.liah w d imm)) (fun _ => onThread w (fun th =>
    (.done 1, th.setA d (imm ++ (th.getA d).setWidth 32))))) s
/-- CMPA: the flags of aA − aB over 48 bits. -/
def execCmpa (w : Who) (a b : Fin 16) (s : State) : Out :=
  onHw (runInstr w (formOf (.cmpa w a b)) (fun _ => onThread w (fun th =>
    (.done 1, th.setFlags (subFlags (th.getA a) (th.getA b) false))))) s

/-! ### Accumulators (R145) -/

/-- The exact product of dA[31:0] and B[31:0], both sign-extended. -/
def macProduct (x y : W64) : Int := (x.setWidth 32).toInt * (y.setWidth 32).toInt

/-- An integer clamped to a signed width. -/
def clampTo (w : Nat) (x : Int) : Int := if x < -(2 ^ (w - 1)) then -(2 ^ (w - 1)) else if 2 ^ (w - 1) ≤ x then 2 ^ (w - 1) - 1 else x

/-- MAC, MSU and their saturating forms: acc from the exact sum; V when it wrapped or clamped. -/
def accMac (w : Who) (form : Form) (r : Fin 4) (a : Fin 32) (b : Src) (sub sat : Bool) : Mem → Hw → Hw :=
  runInstr w form (withOperand w b (fun th y =>
    let p := macProduct (th.getD a) y
    let exact := (th.getAcc r).toInt + (if sub then -p else p)
    let x := BitVec.ofInt 72 (if sat then clampTo 72 exact else exact)
    (.done 1, (th.setAcc r x).setFlags (znvFlags th.flags x (outside 72 exact)))))

/-- MAC. -/
def execMac (w : Who) (acc : Fin 4) (a : Fin 32) (b : Src) (s : State) : Out :=
  onHw (accMac w (formOf (.mac w acc a b)) acc a b false false) s
/-- MACS. -/
def execMacs (w : Who) (acc : Fin 4) (a : Fin 32) (b : Src) (s : State) : Out :=
  onHw (accMac w (formOf (.macs w acc a b)) acc a b false true) s
/-- MSU. -/
def execMsu (w : Who) (acc : Fin 4) (a : Fin 32) (b : Src) (s : State) : Out :=
  onHw (accMac w (formOf (.msu w acc a b)) acc a b true false) s
/-- MSUS. -/
def execMsus (w : Who) (acc : Fin 4) (a : Fin 32) (b : Src) (s : State) : Out :=
  onHw (accMac w (formOf (.msus w acc a b)) acc a b true true) s
/-- ACCLR: acc := 0. -/
def execAcclr (w : Who) (acc : Fin 4) (s : State) : Out :=
  onHw (runInstr w (formOf (.acclr w acc)) (fun _ => onThread w (fun th => (.done 1, th.setAcc acc 0)))) s
/-- ACCWR: acc := dA sign-extended. -/
def execAccwr (w : Who) (acc : Fin 4) (a : Fin 32) (s : State) : Out :=
  onHw (runInstr w (formOf (.accwr w acc a)) (fun _ => onThread w (fun th => (.done 1, th.setAcc acc ((th.getD a).signExtend 72))))) s
/-- ACCRD: bits 63:0 of acc arithmetically shifted right by SH. -/
def execAccrd (w : Who) (a : Fin 32) (acc : Fin 4) (sh : BitVec 6) (s : State) : Out :=
  onHw (runInstr w (formOf (.accrd w a acc sh)) (fun _ => onThread w (fun th =>
    let r := ((th.getAcc acc).sshiftRight sh.toNat).setWidth 64
    (.done 1, (th.setD a r).setFlags (znFlags th.flags r))))) s
/-- ACCRDS: as ACCRD, clamped to 64 bits; V when it clamped. -/
def execAccrds (w : Who) (a : Fin 32) (acc : Fin 4) (sh : BitVec 6) (s : State) : Out :=
  onHw (runInstr w (formOf (.accrds w a acc sh)) (fun _ => onThread w (fun th =>
    let x := ((th.getAcc acc).sshiftRight sh.toNat).toInt
    let r := BitVec.ofInt 64 (clampTo 64 x)
    (.done 1, (th.setD a r).setFlags (znvFlags th.flags r (outside 64 x)))))) s

end Sys2Proof.Machine
end

