-- ==== Sys2Proof/Machine/Threads.lean ====
section
/-!
DEFINITION. The I/O ports of threads, wardens, locks, timers and identity (R30 to R32, R182 to R191, R207 to R215), for an
IN or OUT of a thread and for a purlin transaction (R496).
-/

namespace Sys2Proof.Machine

/-- Who accesses a port (R496). -/
inductive Agent where
  | thread (t : Fin 4)
  | purlin
  deriving DecidableEq, Repr

/-- The thread whose ports the thread-relative ports are: a purlin transaction has those of thread 0 (R496). -/
def Agent.t : Agent → Fin 4
  | .thread t => t
  | .purlin => 0

/-! ### Identity and family parameters (R30, R32) -/

/-- The family parameter registers of a core. -/
def idRead (c : Nat) : Nat → W32
  | 0x0 => 0xC4A00102#32
  | 0x1 => 0x48000100#32
  | 0x2 => w32 (byKind c 0 1 2 * 2 ^ 30 + b2n (isWarden c) * 2 ^ 29 + c * 4096 + bentOf c * 64 + coreIn c)
  | 0x3 => byKind c 0x2020A884#32 0x0808B484#32 0x04049484#32
  | 0x4 => byKind c 0xAC5F0200#32 0xA45F0200#32 0x9CDF0200#32
  | 0x5 => 0x10100808#32
  | 0x6 => 0x862C2084#32
  | 0x7 => 0x40C01004#32
  | 0x8 => 0x0BB861A8#32
  | 0x9 => 0x40100200#32
  | 0xA => 0x880A1400#32
  | 0xB => 0x00004FFF#32
  | _ => 0

/-! ### Thread register blocks (R214) -/

/-- STATUS (R214). -/
def Thread.status (th : Thread) : W32 :=
  w32 (b2n th.mode * 128 + b2n th.mie * 64 + b2n th.exl * 32 + b2n th.fz * 8 + b2n th.fn * 4 + b2n th.fc * 2 + b2n th.fv)
/-- A write of STATUS (R200, R212). -/
def Thread.setStatus (th : Thread) (v : W32) : Thread :=
  { th with mode := v.getLsbD 7, mie := v.getLsbD 6, exl := v.getLsbD 5, fz := v.getLsbD 3, fn := v.getLsbD 2,
            fc := v.getLsbD 1, fv := v.getLsbD 0 }
/-- The STATE field of a thread state (R184). -/
def TState.code : TState → Nat
  | .running => 0
  | .waiting => 1
  | .halted => 2
  | .stopped => 3

/-- Read a register of a thread's block. -/
def Thread.regRead (th : Thread) : Nat → W32
  | 0x0 => th.status
  | 0x1 => th.estat
  | 0x2 => th.epc.setWidth 32
  | 0x3 => th.eaddr.setWidth 32
  | 0x4 => (th.eaddr >>> 32).setWidth 32
  | 0x5 => th.vbase.setWidth 32
  | 0x6 => th.ipend.setWidth 32
  | 0x7 => th.evpend.setWidth 32
  | 0x8 => w32 (th.tstate.code * 2 ^ 30 + b2n th.brkstop * 2 ^ 28 + th.dfcode.toNat * 2 ^ 22)
  | 0x9 => th.dfpc.setWidth 32
  | 0xA => th.escr[0]
  | 0xB => th.escr[1]
  | 0xC => th.escr[2]
  | 0xD => th.escr[3]
  | _ => 0

/-- RESTART of a HALTED thread that is not part of a core halt, nor held by a reset (R185, R464). -/
def Thread.restart (th : Thread) (pc : BitVec 20) (next : Nat) : Thread :=
  { th with pc := pc, mode := true, mie := false, exl := false, dfcode := 0, dfpc := 0, tstate := .running, stall := none,
            found := none, pfx := none, pair := none, nextIssue := next }

/-- Write a register of a thread's block; `free` says that a HALTED thread may restart, in a cycle from `next`. -/
def Thread.regWrite (th : Thread) (off : Nat) (v : W32) (free : Bool) (next : Nat) : Thread :=
  match off with
  | 0x0 => th.setStatus v
  | 0x1 => { th with estat := v &&& 0xFFF00E3F#32 }
  | 0x2 => { th with epc := v.setWidth 20 &&& 0xFFFFC#20 }
  | 0x3 => { th with eaddr := BitVec.ofNat 48 (th.eaddr.toNat / 2 ^ 32 * 2 ^ 32 + v.toNat) }
  | 0x4 => { th with eaddr := BitVec.ofNat 48 (v.toNat % 2 ^ 16 * 2 ^ 32 + th.eaddr.toNat % 2 ^ 32) }
  | 0x5 => { th with vbase := v.setWidth 20 &&& 0xFFF00#20 }
  | 0x6 => { th with ipend := th.ipend &&& ~~~(v.setWidth 11 &&& 0x7FB#11) }
  | 0x7 => { th with evpend := th.evpend &&& ~~~(v.setWidth 16) }
  | 0x8 =>
    let th1 := { th with brkstop := v.getLsbD 28 }
    if v.getLsbD 29 && th.tstate == .halted && free then th1.restart (v.setWidth 20 &&& 0xFFFFC#20) next else th1
  | 0xA => { th with escr := th.escr.set 0 v }
  | 0xB => { th with escr := th.escr.set 1 v }
  | 0xC => { th with escr := th.escr.set 2 v }
  | 0xD => { th with escr := th.escr.set 3 v }
  | _ => th

/-- The thread and register that a port of the thread group names (R214). -/
def threadPort (ag : Agent) (p : Nat) : Option (Fin 4 × Nat) :=
  if 0x400 ≤ p && p < 0x410 then some (ag.t, p % 16)
  else if 0x410 ≤ p && p < 0x450 then some (fin 4 (p / 16 - 0x41), p % 16)
  else none

/-- Write a register of a thread's block from a port. -/
def Hw.threadRegWrite (h : Hw) (c : CoreId) (t : Fin 4) (off : Nat) (v : W32) : Hw :=
  (h.updCore c (fun k => k.updThread t (fun th => th.regWrite off v (!k.coreHalt && !k.held) (h.cycle c + 1)))).noted c

/-! ### Core and bent locks (R207 to R211) -/

/-- An attempt of a thread on a lock that has a holder or none: its result, and the record of R210. -/
def lockResult {α : Type} [DecidableEq α] (holder : Option α) (me : α) : Nat :=
  match holder with
  | none => 1
  | some o => if o = me then 2 else 0

/-- The record of a thread's last failed attempt (R210). -/
def Thread.recordLock (th : Thread) (res : Nat) (l : LockRef) : Thread := { th with lockRec := if res = 0 then some l else none }

/-- An IN from CLKn by a thread (R207). -/
def Core.clkAttempt (k : Core) (t : Fin 4) (n : Fin 32) : Nat × Core :=
  let res := lockResult (sget n.val k.locks) t
  let k1 := k.updThread t (fun th => th.recordLock res (.core n))
  (res, if res = 1 then { k1 with locks := sset n.val t k1.locks } else k1)

/-- A core lock is released: its notice is given in the cycle after (R208, R210). -/
def Hw.clkRelease (h : Hw) (c : CoreId) (n : Fin 32) : Hw :=
  if (sget n.val (h.core c).locks).isSome then
    (h.updCore c (fun k => { k with locks := sdel n.val k.locks })).after (h.clock + 1) (.lockFree c (.core n))
  else h

/-- The core locks that a thread holds, as a mask (R208). -/
def Core.clheld (k : Core) (t : Fin 4) : Nat := sumN ((k.locks.filter (·.2 == t)).map (fun p => 2 ^ p.1))

/-- A bent lock is released: the threads of the bent are told in the cycle after (R210). -/
def Hw.blkFree (h : Hw) (b : Nat) (l : Fin 256) : Hw :=
  if (sget l.val (h.bent b).locks).isSome then
    let mine := (h.cores.map (·.1)).filter (fun c => bentOf c == b)
    mine.foldl (fun h c => h.after (h.clock + 1) (.lockFree (coreId c) (.bent l))) (h.updBent b (fun x => { x with locks := sdel l.val x.locks }))
  else h

/-- The unit decides an attempt on a bent lock (R209). -/
def Hw.blkAttempt (h : Hw) (b : Nat) (l : Fin 256) (w : Who) : Nat × Hw :=
  let res := lockResult (sget l.val (h.bent b).locks) w
  let h1 := h.updThread w (fun th => th.recordLock res (.bent l))
  (res, if res = 1 then h1.updBent b (fun x => { x with locks := sset l.val w x.locks }) else h1)

/-- The order in which the unit serves requests: oldest arrival, then core number (R209). -/
def lockOrder (x y : LockReq) : Bool := x.issued < y.issued || (x.issued == y.issued && x.who.core.val ≤ y.who.core.val)

/-- The unit serves the request that stands first, one request in a cycle: its result is in the thread's register 8 cycles
later, when its thread issues again (R209). It answers the cycle of the service. -/
def Hw.blkServe (h : Hw) (b : Nat) : Option (Nat × (Hw → Hw)) :=
  match inOrder lockOrder (h.bent b).lockReqs with
  | [] => none
  | q :: rest =>
    let at_ := max (q.issued + 8) (h.bent b).lockFrom
    some (at_, fun h =>
      let r := (h.updBent b (fun x => { x with lockReqs := rest, lockFrom := at_ + 1 })).blkAttempt b q.lock q.who
      ((r.2.updThread q.who (fun th => th.setD q.d (BitVec.ofNat 64 r.1))).release q.who 1).updThread q.who
        (fun th => { th with nextIssue := max th.nextIssue (at_ + 8 - (r.2.core q.who.core).cyc0) }))

/-- The requests issued before a release come to the unit before it, and are decided first (R209; log entry 27). -/
def Hw.decideAll (b : Nat) : Nat → Hw → Hw
  | 0, h => h
  | fuel + 1, h =>
    match h.blkServe b with
    | some x => Hw.decideAll b fuel (x.2 h)
    | none => h

/-- A release of a bent lock at the unit, whoever holds it (R211). -/
def Hw.blkForce (h : Hw) (b : Nat) (l : Fin 256) : Hw := (Hw.decideAll b 176 h).blkFree b l

/-- An OUT to BLK releases the selected lock when the writer holds it (R208, R209). -/
def Hw.blkRelease (h : Hw) (b : Nat) (l : Fin 256) (w : Who) : Hw :=
  let h1 := Hw.decideAll b 176 h
  if sget l.val (h1.bent b).locks = some w then h1.blkFree b l else h1

/-- The bent lock that a thread's BLSEL names (R209). -/
def Thread.bl (th : Thread) : Fin 256 := fin 256 th.blsel.toNat

/-- A thread's request for the selected bent lock goes to the unit (R209). -/
def Hw.blkAsk (h : Hw) (w : Who) (d : Fin 32) : Ctl × Hw :=
  (.stall .lock 0, h.updBent (bentOf w.core) (fun x =>
    { x with lockReqs := x.lockReqs ++ [{ who := w, d := d, lock := (h.thread w).bl, issued := h.clock }] }))

/-- The unit serves the request that stands first, in its cycle. -/
def bentLockServe (b : BentId) (h : Hw) : Hw :=
  match h.blkServe b with
  | some x => x.2 (h.event x.1)
  | none => h
/-- BENT_LOCK_SERVE. -/
def execBentLockServe (b : BentId) (s : State) : Out := onHw (fun _ => bentLockServe b) s

/-- Read a port of the lock group, other than a thread's attempts. -/
def lockRead (ag : Agent) (c : CoreId) (p : Nat) (h : Hw) : W32 × Hw :=
  let k := h.core c
  let th := k.thread ag.t
  if p < 0x520 then
    let n := fin 32 (p - 0x500)
    match ag with
    | .purlin => (w32 (b2n (sget n.val k.locks).isSome), h)
    | .thread t =>
      let r := k.clkAttempt t n
      (w32 r.1, h.setCore c r.2)
  else if p = 0x520 then (w32 (k.clheld ag.t), h)
  else if p = 0x521 then (w32 (b2n th.lkevEn * 16 + th.lkevEvt.val), h)
  else if p = 0x530 then (th.blsel.setWidth 32, h)
  else
    match sget th.bl.val (h.bent (bentOf c)).locks with
    | none => (0, h)
    | some w =>
      (if p = 0x531 then 1 else if p = 0x532 then w32 (2 ^ 31 + w.core.val * 4 + w.thread.val) else 0, h)

/-- Write a port of the lock group. -/
def lockWrite (ag : Agent) (c : CoreId) (p : Nat) (v : W32) (h : Hw) : Hw :=
  let th := (h.core c).thread ag.t
  if p < 0x520 then
    let n := fin 32 (p - 0x500)
    match ag with
    | .purlin => h
    | .thread t => if sget n.val (h.core c).locks = some t then h.clkRelease c n else h
  else if p = 0x521 then
    h.updThread ⟨c, ag.t⟩ (fun th => { th with lkevEn := v.getLsbD 4, lkevEvt := fin 16 (fld v 0 4) })
  else if p = 0x522 then
    (List.finRange 32).foldl (fun h n => if v.getLsbD n.val then h.clkRelease c n else h) h
  else if p = 0x530 then h.updThread ⟨c, ag.t⟩ (fun th => { th with blsel := v.setWidth 8 })
  else if p = 0x531 then
    match ag with
    | .purlin => h
    | .thread t => h.blkRelease (bentOf c) th.bl ⟨c, t⟩
  else if p = 0x533 then h.blkForce (bentOf c) th.bl
  else h

/-! ### Events, wardens, late store errors, timers (R188, R190, R203, R215) -/

/-- Raise the events of a mask in a thread, in the cycle after the write (R188). -/
def Hw.evpost (h : Hw) (c : CoreId) (v : W32) : Hw :=
  h.after (h.clock + 1) (.events ⟨c, fin 4 (fld v 16 2)⟩ (v.setWidth 16))

/-- Read a port 0x0480 to 0x0487 (R215). -/
def wardRead (c : CoreId) (p : Nat) (k : Core) : W32 :=
  let only := fun (x : W32) => if isWarden c then x else 0
  match p with
  | 0x480 => only (k.whalt.setWidth 32)
  | 0x481 => only ((k.whalt >>> 32).setWidth 32)
  | 0x482 => only (k.wstill.setWidth 32)
  | 0x483 => only ((k.wstill >>> 32).setWidth 32)
  | 0x485 => k.seaddr.setWidth 32
  | 0x486 => w32 (b2n k.seMore * 2 ^ 31 + k.seaddr.toNat / 2 ^ 32)
  | 0x487 => only (k.wprio.setWidth 32)
  | _ => 0

/-- Write a port 0x0480 to 0x0487 (R215). -/
def wardWrite (c : CoreId) (p : Nat) (v : W32) (h : Hw) : Hw :=
  let only := fun (f : Core → Core) => if isWarden c then h.updCore c f else h
  match p with
  | 0x480 => only (fun k => { k with whalt := k.whalt &&& ~~~(v.setWidth 44) })
  | 0x481 => only (fun k => { k with whalt := k.whalt &&& ~~~((v.setWidth 44) <<< 32) })
  | 0x482 => only (fun k => { k with wstill := k.wstill &&& ~~~(v.setWidth 44) })
  | 0x483 => only (fun k => { k with wstill := k.wstill &&& ~~~((v.setWidth 44) <<< 32) })
  | 0x484 => h.evpost c v
  | 0x486 => if v.getLsbD 31 then h.updCore c (fun k => { k with seMore := false }) else h
  | 0x487 => only (fun k => { k with wprio := v.setWidth 4 })
  | _ => h

/-- The count that remains of a thread's timer (R190). -/
def timerLeft (h : Hw) (c : CoreId) (t : Fin 4) : Nat := (((h.core c).thread t).timer.map (· - h.cycle c)).getD 0

/-- A write to a thread's timer: a count above 0 arms it, 0 disarms it (R190). -/
def Hw.armTimer (h : Hw) (c : CoreId) (t : Fin 4) (v : W32) : Hw :=
  (h.updThread ⟨c, t⟩ (fun th => { th with timer := if v = 0 then none else some (h.cycle c + v.toNat) })).noted c

/-- Read a port of the timers and CYCLE; CYCLE_LO latches bits 63:32 for its reader (R215, R496). -/
def timerRead (ag : Agent) (c : CoreId) (p : Nat) (h : Hw) : W32 × Hw :=
  if p = 0x900 then (w32 (timerLeft h c ag.t), h)
  else if p ≤ 0x904 then (w32 (timerLeft h c (fin 4 (p - 0x901))), h)
  else if p = 0x905 then
    let hi := w32 (h.cycle c / 2 ^ 32)
    (w32 (h.cycle c),
      match ag with
      | .thread t => h.updThread ⟨c, t⟩ (fun th => { th with cycleHi := hi })
      | .purlin => h.updCore c (fun k => { k with pCycleHi := hi }))
  else
    match ag with
    | .thread t => ((h.thread ⟨c, t⟩).cycleHi, h)
    | .purlin => ((h.core c).pCycleHi, h)

/-- Write a timer port. -/
def timerWrite (ag : Agent) (c : CoreId) (p : Nat) (v : W32) (h : Hw) : Hw :=
  if p = 0x900 then h.armTimer c ag.t v
  else if 0x901 ≤ p && p ≤ 0x904 then h.armTimer c (fin 4 (p - 0x901)) v
  else h

end Sys2Proof.Machine
end

