-- ==== Sys2Proof/Machine/Channels.lean ====
section
/-!
DEFINITION. Tenons, mortises and tuples (R239 to R265): routes and their commit, SEND, CREDIT, RECV, arrivals and
performance notices, the channel ports, stall timers and the stillness detector.
-/

namespace Sys2Proof.Machine

/-! ### SEND, CREDIT and RECV -/

/-- SEND (R243, R245): S + K above 31 raises ILLEGAL, a bad route CHAN_ROUTE, and a tenon that is not ready stalls. -/
def execSend (w : Who) (n : Fin 16) (sr : Fin 32) (k : BitVec 2) (tag : BitVec 6) (s : State) : Out :=
  onHw (runInstr w {} (fun _ h =>
    let th := h.thread w
    let r := Route.of (h.core w.core).tenons[n].active
    if 31 < sr.val + k.toNat then (faultAt th excIllegal, h)
    else if !r.en || routeBad h w.core r (k.toNat + 1) then (faultAt th excChanRoute, h)
    else if (h.core w.core).sendReady n then
      let words := (List.range (k.toNat + 1)).map (fun j => th.getD (fin 32 (sr.val + j)))
      (.done 1, (h.traceEv w 3 th.pc n).sendTuple w.core w.thread n words tag false h.clock)
    else (.stall .credit n, h.updCore w.core (·.stallTenon n (h.cycle w.core))))) s

/-- CREDIT: the tenon's count, with Z when it is 0 (R155, R247). -/
def execCredit (w : Who) (d : Fin 32) (n : Fin 16) (s : State) : Out :=
  onHw (runInstr w {} (fun _ h =>
    let c := (h.core w.core).tenons[n].credits
    (.done 1, h.updThread w (fun th =>
      { (th.setD d (BitVec.ofNat 64 c)) with fz := c == 0, fn := false, fc := false, fv := false })))) s

/-- RECV: the head entry's words into dD to dD + 3, absent words as 0 (R150); D not a multiple of 4 raises ILLEGAL. -/
def execRecv (w : Who) (d : Fin 32) (m : Fin 16) (s : State) : Out :=
  onHw (runInstr w {} (fun _ h =>
    let th := h.thread w
    if d.val % 4 ≠ 0 then (faultAt th excIllegal, h)
    else
      match headOperand th (h.core w.core) m with
      | .inr c => (c, h)
      | .inl e =>
        let put := fun (th : Thread) (j : Nat) => th.setD (fin 32 (d.val + j)) (e.words.getD j 0)
        (.done 1, ((h.updThread w (fun th => [0, 1, 2, 3].foldl put th)).traceEv w 3 th.pc m).popMortise w.core m))) s

/-! ### Arrivals (R249, R251, R254, R255, R294) -/

/-- Raise the event that a TAG names at a core (R240). -/
def Hw.raiseTag (h : Hw) (c : CoreId) (tag : BitVec 6) : Hw :=
  h.raiseEvent ⟨c, fin 4 (tag.toNat / 16)⟩ (fin 16 (tag.toNat % 16))

/-- Write an entry into a mortise and raise its event; a full mortise drops it, with MOVF and the machine-check source for
channel overflow, and its credit returns (R249, R251). -/
def Hw.arrive (h : Hw) (c : CoreId) (m : Fin 16) (e : Entry) : Hw :=
  let q := (h.core c).mortises[m]
  if q.length < 8 then
    (((h.updCore c (fun k => { k with mortises := k.mortises.set m (q ++ [e]) })).raiseTag c e.tag)).noted c
  else
    ((h.updCore c (fun k => { k with movf := k.movf ||| (1#16 <<< m.val) })).machineCheck c 2 0).returnCredit c m e.credit

/-- A performance notice travels back to the sending thread, on the reply channel between bents (R272, R294). -/
def Hw.notify (h : Hw) (from_ : Nat) (w : Who) : Hw :=
  let x := h.post (bentOf from_) (bentOf w.core) 1 (h.clock + 8)
  { x.2 with noticesIn := x.2.noticesIn ++ [{ who := w, due := h.clock + tupleLatency from_ w.core, flit := x.1 }] }

/-- An addressed unit's offset is invalid: bits 63:21 of word 0 not 0, or not a multiple of 8 (R254). -/
def badOffset (x : W64) : Bool := 2 ^ 21 ≤ x.toNat || x.toNat % 8 != 0

/-- Traffic between two frozen cores is held (R264). -/
def Hw.bothFrozen (h : Hw) (c d : Nat) : Bool := (h.core c).frozenAt.isSome && (h.core d).frozenAt.isSome

/-- The oldest tuple in flight from a tenon arrives, in the order of its endpoints and channel (R248, R249, R275): into its
mortise, or as a slot-3 unit waiting at its core's scratchpad (R255). A core under reset discards it (R462). -/
def tupleArrival (c : CoreId) (n : Fin 16) (h0 : Hw) : Hw :=
  let h := if h0.tuples.any (fun t => t.sender == c && t.tenon == n) then h0 else h0.streamAhead c
  match takeFirst (fun t => t.sender == c && t.tenon == n) h.tuples with
  | none => h
  | some (t, rest) =>
    if h.bothFrozen c t.target then h
    else
      match ({ h with tuples := rest } : Hw).land t.flit t.due with
      | none => h
      | some (at_, hl) =>
        let h1 := (hl.event at_).caughtUp t.target
        if t.addr then
          let off := t.words.headD 0
          let u : Unit3 :=
            { src := bentOf c, off := off.toNat % 2 ^ 21, data := wordsBytes ((t.words.drop 1).map (·.toNat)), remote := true,
              bad := badOffset off, origin := .tuple c t.thread n t.epoch t.tag,
              injected := t.due - tupleLatency c t.target, due := h1.clock }
          h1.updCore t.target (fun k => { k with unitQ := k.unitQ ++ [u] })
        else if (h1.core t.target).held then
          (h1.returnCredit t.target t.mort (.tenon c n t.epoch)).notify t.target ⟨c, t.thread⟩
        else
          (h1.arrive t.target t.mort
            { words := t.words, k := t.k, tag := t.tag, stream := t.stream, credit := .tenon c n t.epoch }).notify
            t.target ⟨c, t.thread⟩
/-- TUPLE_ARRIVAL. -/
def execTupleArrival (c : CoreId) (n : Fin 16) (s : State) : Out := onHw (fun _ => tupleArrival c n) s

/-- A performance notice reaches its thread (R294). -/
def performanceNotice (w : Who) (h : Hw) : Hw :=
  match takeFirst (fun x => x.who == w) h.noticesIn with
  | none => h
  | some (x, rest) =>
    match ({ h with noticesIn := rest } : Hw).land x.flit x.due with
    | none => h
    | some (at_, h1) => (h1.event at_).updThread w Thread.noticed
/-- PERFORMANCE_NOTICE. -/
def execPerformanceNotice (w : Who) (s : State) : Out := onHw (fun _ => performanceNotice w) s

/-! ### MFLUSH and NFORCE (R252, R260) -/

/-- Discard every entry of a mortise, returning a credit for each (R252). -/
def Hw.flushMortise (h : Hw) (c : CoreId) (m : Fin 16) : Hw :=
  let q := (h.core c).mortises[m]
  (q.foldl (fun h e => h.returnCredit c m e.credit) (h.updCore c (fun k => { k with mortises := k.mortises.set m [] }))).noted c

/-- MFLUSH of the mortises of a mask (R252). -/
def Hw.mflush (h : Hw) (c : CoreId) (v : W32) : Hw :=
  (List.finRange 16).foldl (fun h m => if v.getLsbD m.val then h.flushMortise c m else h) h

/-- A tenon's stall counter is 0 in a cycle, and runs on from the next while a send is stalled (R258). -/
def Core.clearCount (k : Core) (n : Fin 16) (cyc : Nat) : Core :=
  k.updTenon n (fun t => { t with stallStart := if k.sendStalled n then some (cyc + 1) else none, stallReported := false })

/-- A commit is applied as soon as it may be, and what waited for it or for credits goes on: first the stream unit (R242,
R246). -/
def Hw.routesMayApply (h : Hw) (c : CoreId) : Hw := (h.updCore c Core.applyRoutes).unblocked c

/-- NFORCE: 8 credits, a cleared stall counter and a new epoch for the tenons of a mask (R260). -/
def Core.nforce (k : Core) (v : W32) (cyc : Nat) : Core :=
  (List.finRange 16).foldl (fun k n =>
    if v.getLsbD n.val then (k.updTenon n (fun t => { t with credits := 8, epoch := t.epoch + 1 })).clearCount n cyc else k) k

/-! ### Stall timers (R258) -/

/-- A tenon's stall counter reaches STALL_LIMIT: NSTALLED is set, and IPEND.TENON_STALL in the cycle after, once (R258). -/
def tenonStallExpiry (c : CoreId) (n : Fin 16) (h : Hw) : Hw :=
  let k := h.core c
  match k.tenons[n].stallStart with
  | none => h
  | some since =>
    if k.stallLimit = 0 || k.tenons[n].stallReported || k.frozenAt.isSome then h
    else
      let h1 := h.coreEvent c (since + k.stallLimit.toNat - 1)
      if (h1.core c).tenons[n].stallStart = some since then
        (h1.updCore c (fun k =>
          { (k.updTenon n (fun t => { t with stallReported := true })) with
            nstalled := k.nstalled ||| (1#16 <<< n.val) })).after (h1.clock + 1) (.cause ⟨c, 0⟩ 6)
      else h1
/-- TENON_STALL_EXPIRY. -/
def execTenonStallExpiry (c : CoreId) (n : Fin 16) (s : State) : Out := onHw (fun _ => tenonStallExpiry c n) s

/-! ### The stillness detector (R261, R262) -/

/-- Something is on its way to a core that would end its stillness by a clock value: a tuple, a credit, or an event or cause of
a thread. -/
def Hw.coming (h : Hw) (c : CoreId) (by_ : Nat) : Bool :=
  h.tuples.any (fun t => t.target == c && decide (t.due ≤ by_)) ||
    h.credits.any (fun x => x.core == c && decide (x.due ≤ by_)) ||
    h.later.any (fun e => decide (e.1 < by_) &&
      match e.2 with
      | .events w _ | .cause w _ | .xresult w _ _ => w.core == c
      | .lockFree d _ => d == c
      | _ => false)

/-- A core that has been still for its window is reported to its warden in the cycle after (R262); nothing arrives within the
window that would end the stillness. -/
def stillnessReport (c : CoreId) (h : Hw) : Hw :=
  let k := h.core c
  match k.stillFrom with
  | none => h
  | some from_ =>
    let at_ := h.clockOf c (from_ + max 1 (fld k.stillCtl 0 20) - 1)
    if k.stillCtl.getLsbD 31 && !k.still && k.frozenAt.isNone && !k.held && !h.coming c at_ then
      let h1 := h.event at_
      (h1.updCore c (fun k => { k with still := true })).after (h1.clock + 1)
        (.stilled (coreId (wardenOf (bentOf c))) (coreIn c))
    else h
/-- STILLNESS_REPORT. -/
def execStillnessReport (c : CoreId) (s : State) : Out := onHw (fun _ => stillnessReport c) s

/-! ### Channel ports (R243, R252, R253, R262) -/

/-- NSTATn: a send is stalled when a thread's is, or the stream unit's that is due (R243). -/
def Core.nstat (k : Core) (n : Fin 16) (cyc : Nat) : W32 :=
  let threads := (List.finRange 4).any (fun t => (k.thread t).sendOn == some n)
  let stream := k.streamBlocked == some n && (k.stream.bind StreamJob.sendAt).any (fun x => decide (x ≤ cyc))
  w32 (b2n (k.commitHolds n) * 2 ^ 31 + b2n (threads || stream) * 2 ^ 30 + k.tenons[n].credits)

/-- MQSTATm. -/
def Core.mqstat (k : Core) (m : Fin 16) : W32 :=
  match k.mortises[m] with
  | [] => 0
  | e :: rest =>
    w32 (2 ^ 31 + b2n e.stream * 2 ^ 30 + e.k.toNat * 2 ^ 28 + e.tag.toNat * 2 ^ 22 + (rest.length + 1))

/-- STILLSTAT. -/
def Core.stillstat (k : Core) (cyc : Nat) : W32 :=
  w32 (b2n k.still * 2 ^ 31 + sumN ((List.finRange 4).map (fun t => b2n (k.threadWaits t cyc) * 2 ^ t.val)))

/-- Read a channel port. -/
def chanRead (p : Nat) (k : Core) (cyc : Nat) : W32 :=
  if p < 0x120 then
    if p % 2 = 0 then k.tenons[fin 16 ((p - 0x100) / 2)].shadow else k.nstat (fin 16 ((p - 0x100) / 2)) cyc
  else if p = 0x122 then k.nstalled.setWidth 32
  else if 0x130 ≤ p && p < 0x140 then k.tenons[fin 16 (p - 0x130)].active
  else if 0x200 ≤ p && p < 0x210 then k.mqstat (fin 16 (p - 0x200))
  else if p = 0x210 then k.movf.setWidth 32
  else if p = 0x910 then k.stallLimit
  else if p = 0x911 then k.stillCtl
  else if p = 0x912 then k.stillstat cyc
  else 0

/-- Write a channel port. -/
def chanWrite (c : CoreId) (p : Nat) (v : W32) (h : Hw) : Hw :=
  if p < 0x120 then
    if p % 2 = 0 then h.updCore c (·.updTenon (fin 16 ((p - 0x100) / 2)) (fun t => { t with shadow := v &&& 0xFFFFFFFE#32 })) else h
  else if p = 0x120 then if v.getLsbD 0 then (h.updCore c (fun k => { k with ncommitPending := true })).routesMayApply c else h
  else if p = 0x121 then (h.updCore c (·.nforce v (h.cycle c))).routesMayApply c
  else if p = 0x122 then h.updCore c (fun k => { k with nstalled := k.nstalled &&& ~~~(v.setWidth 16) })
  else if p = 0x210 then h.updCore c (fun k => { k with movf := k.movf &&& ~~~(v.setWidth 16) })
  else if p = 0x211 then h.mflush c v
  else if p = 0x910 then h.updCore c (fun k => { k with stallLimit := v })
  else if p = 0x911 then h.updCore c (fun k => { k with stillCtl := v &&& 0x800FFFFF#32 })
  else h

end Sys2Proof.Machine
end

