-- ==== Sys2Proof/Machine/Digest.lean ====
section
/-!
DEFINITION. Check codes and digests: CRC-32C of scarf blocks (R338) and SHA-256 (R330, R455).
-/

namespace Sys2Proof.Machine

/-! ### CRC-32C -/

/-- Eight steps of a reflected CRC register. -/
def crcStep (poly : W32) : Nat → W32 → W32
  | 0, x => x
  | n + 1, x => crcStep poly n (if x.getLsbD 0 then (x >>> 1) ^^^ poly else x >>> 1)

/-- CRC-32C, the Castagnoli polynomial, of a byte sequence (R338). -/
def crc32c (bs : List Byte) : Nat :=
  (~~~(bs.foldl (fun (x : W32) b => crcStep 0x82F63B78#32 8 (x ^^^ b.setWidth 32)) 0xFFFFFFFF#32)).toNat

/-! ### The constants of SHA-256: fractional parts of roots of primes -/

/-- The `n`-th root of a number, rounded down, found bit by bit from below 2 to the power of a bit count. -/
def rootBelow (n x : Nat) : Nat → Nat → Nat
  | 0, r => r
  | b + 1, r => rootBelow n x b (if (r + 2 ^ b) ^ n ≤ x then r + 2 ^ b else r)

/-- The first 32 bits of the fraction of the `n`-th root of a number below 512. -/
def rootFraction (n p : Nat) : W32 := BitVec.ofNat 32 (rootBelow n (p * 2 ^ (32 * n)) 37 0)

/-- The primes up to 311, of which there are 64. -/
def shaPrimes : List Nat :=
  ((List.range 310).map (· + 2)).filter (fun x => [2, 3, 5, 7, 11, 13, 17].all (fun d => x == d || x % d != 0))

/-- The constant of each round: from the cube roots of the primes. -/
def shaRounds : List W32 := shaPrimes.map (rootFraction 3)

/-- The initial hash value: from the square roots of the first eight primes. -/
def shaInit : List W32 := (shaPrimes.take 8).map (rootFraction 2)

/-! ### SHA-256 of whole blocks -/

/-- The sum modulo 2 of a word turned right by three counts. -/
def turned (i j k : Nat) (x : W32) : W32 := x.rotateRight i ^^^ x.rotateRight j ^^^ x.rotateRight k

/-- The word that follows sixteen words of the message schedule, of which `m i` is the i-th. -/
def scheduleNext (m : Nat → W32) : W32 :=
  let near := m 14
  let far := m 1
  m 0 + m 9 + (near >>> 10 ^^^ near.rotateRight 19 ^^^ near.rotateRight 17) + (far >>> 3 ^^^ far.rotateRight 18 ^^^ far.rotateRight 7)

/-- A round in progress: the eight words of the hash, and the sixteen of the schedule from this round on. -/
structure ShaRun where
  hash : List W32
  window : List W32

/-- One round: the words move down one place, and two of them take in the schedule's word. -/
def ShaRun.round (s : ShaRun) (k : W32) : ShaRun :=
  let x := fun i => s.hash.getD i 0
  let m := fun i => s.window.getD i 0
  let select := (x 4 &&& x 5) ||| (~~~(x 4) &&& x 6)
  let most := (x 0 &&& (x 1 ||| x 2)) ||| (x 1 &&& x 2)
  let into := turned 6 11 25 (x 4) + select + x 7 + k + m 0
  let top := turned 2 13 22 (x 0) + most + into
  { hash := top :: (s.hash.take 3 ++ (into + x 3) :: (s.hash.drop 4).take 3), window := s.window.drop 1 ++ [scheduleNext m] }

/-- A number of four bytes, the most significant first. -/
def bigWord (bs : List Byte) : W32 := BitVec.ofNat 32 (bs.foldl (fun n b => 256 * n + b.toNat) 0)

/-- The sixteen words of a block. -/
def blockWords (block : List Byte) : List W32 := (List.range 16).map (fun i => bigWord ((block.drop (4 * i)).take 4))

/-- One 64-byte block. -/
def shaBlock (hash : List W32) (block : List Byte) : List W32 :=
  let last := shaRounds.foldl ShaRun.round { hash := hash, window := blockWords block }
  (hash.zip last.hash).map (fun p => p.1 + p.2)

/-- Whole blocks of a byte sequence. -/
def shaBlocks (n : Nat) (hash : List W32) (bs : List Byte) : List W32 :=
  (List.range n).foldl (fun s i => shaBlock s ((bs.drop (64 * i)).take 64)) hash

/-- The padding of a message of `n` bytes. -/
def shaPad (n : Nat) : List Byte :=
  [0x80] ++ List.replicate ((119 - n % 64) % 64) 0 ++ (toBytes 8 (8 * n)).reverse

/-- The digest of a message of `n` bytes whose whole blocks have been hashed into `s` and whose last bytes are `tail`. -/
def shaFinish (s : List W32) (tail : List Byte) (n : Nat) : List Byte :=
  let bs := tail ++ shaPad n
  (shaBlocks (bs.length / 64) s bs).flatMap (fun x => (toBytes 4 x.toNat).reverse)

/-- SHA-256 of a byte sequence. -/
def sha256 (bs : List Byte) : List Byte :=
  let n := bs.length / 64
  shaFinish (shaBlocks n shaInit bs) (bs.drop (64 * n)) bs.length

end Sys2Proof.Machine
end

