-- ==== Sys2Proof/Machine/Memory.lean ====
section
/-!
DEFINITION. Loads, stores, fences, CINV, and the events of the data cache (R146 to R149, R177 to R179, R202, R231 to R237,
R287, R292 to R297).
-/

namespace Sys2Proof.Machine

/-! ### Loads (R146, R177) -/

/-- The bytes of a memory access size (R146). -/
def szBytes (sz : BitVec 3) : Nat := 2 ^ (sz.toNat / 2)

/-- An instruction that ends as ILLEGAL when its address form is (R136, R138). -/
def withAddr (w : Who) (b : Fin 16) (off : Offset) (p : Option (BitVec 26)) (h : Hw) : Nat ⊕ Ctl :=
  match dataAddr (h.thread w) b p off with
  | some a => .inl a
  | none => .inr (faultAt (h.thread w) excIllegal)

/-- LD of any size; size 7 raises ILLEGAL. -/
def execLd (w : Who) (d : Fin 32) (sz : BitVec 3) (b : Fin 16) (off : Offset) (u : Bool) (s : State) : Out :=
  onHw (fun m => runInstr w (formOf (.ld w d sz b off u)) (fun p h =>
    if sz = 7 then (faultAt (h.thread w) excIllegal, h)
    else
      match withAddr w b off p h with
      | .inr c => (c, h)
      | .inl a =>
        doLoad w a (szBytes sz) (szBytes sz) u (.d d (szBytes sz) (sz.toNat % 2 == 0)) (h.thread w).words 2 m h) m) s
/-- LDA: 8 bytes, of which bits 47:0 are kept; SZ other than 6 raises ILLEGAL. -/
def execLda (w : Who) (d : Fin 16) (sz : BitVec 3) (b : Fin 16) (off : Offset) (u : Bool) (s : State) : Out :=
  onHw (fun m => runInstr w (formOf (.lda w d sz b off u)) (fun p h =>
    if sz ≠ 6 then (faultAt (h.thread w) excIllegal, h)
    else
      match withAddr w b off p h with
      | .inr c => (c, h)
      | .inl a => doLoad w a 8 8 u (.a d) (h.thread w).words 2 m h) m) s
/-- VLD of a whole vector register (R177, R178); a hit takes 3 slots on a brace core, 2 elsewhere (R180). -/
def execVld (w : Who) (v : Fin 32) (b : Fin 16) (off : BitVec 12) (u : Bool) (s : State) : Out :=
  onHw (fun m => runInstr w (formOf (.vld w v b off u)) (fun p h =>
    match withAddr w b (.off off) p h with
    | .inr c => (c, h)
    | .inl a =>
      doLoad w a (vecBits w.core / 8) (vecBits w.core / 8) u (.v v) (h.thread w).words (if isBrace w.core then 3 else 2) m h)
    m) s

/-! ### Stores to Ridge SRAM (R290, R319, R327, R412, R416) -/

/-- The windows of Ridge SRAM whose words act instead of being kept. -/
inductive RidgeWord where
  | notice (g : Nat)
  | stillRep (g : Nat)
  | ack (b : Nat)
  | doorbell (b : Nat)
  | plain
  deriving DecidableEq, Repr

/-- The window word that holds an offset of Ridge SRAM. -/
def ridgeWord (off : Nat) : RidgeWord :=
  if 0xF00000 ≤ off && off < 0xF00000 + 8 * 2112 then .notice ((off - 0xF00000) / 8)
  else if 0xF10000 ≤ off && off < 0xF10000 + 8 * 2112 then .stillRep ((off - 0xF10000) / 8)
  else if 0xF20000 ≤ off && off < 0xF20000 + 8 * 48 then .ack ((off - 0xF20000) / 8)
  else if 0xF30000 ≤ off && off < 0xF30000 + 8 * 48 then .doorbell ((off - 0xF30000) / 8)
  else .plain

/-- Write the bytes that lie outside the windows. -/
def ridgeBytes (off : Nat) : List Byte → Mem → Mem
  | [], m => m
  | b :: bs, m => ridgeBytes (off + 1) bs (if ridgeWord off = .plain then memWrite (locRidge off) b m else m)

/-- A word stored to a window leaves for the block behind it (R272). -/
def Hw.ridgeMsg (h : Hw) (w : Who) (num : Nat) (x : W64) : RidgeMsg × Hw :=
  let b := bentOf w.core
  let p := h.post b ridgeRouter 0 h.clock
  ({ num := num, word := x, who := w, due := h.clock + meshTime b ridgeRouter, flit := p.1 }, p.2)

/-- A store that only Ridge SRAM answers for: it is performed when its flit arrives (R290). -/
def Hw.ridgePlain (h : Hw) (w : Who) : Nat × Hw :=
  let x := h.carry (bentOf w.core) ridgeRouter 0 h.clock
  (x.1, x.2.after x.1 (.performed w))

/-- An ST.D to a window word: an end notice, a still report, an acknowledgement of thread 0 of the warden, the warden's
doorbell. Any other store to a window has no effect; whose thread stores an end notice makes no difference (DESIGN CHOICE,
log entry 11). -/
def ridgeEffect (w : Who) (off : Nat) (x : W64) (h : Hw) : Hw :=
  match ridgeWord off with
  | .notice g => let r := h.ridgeMsg w g x; { r.2 with endNotices := r.2.endNotices ++ [r.1] }
  | .stillRep g =>
    if x.getLsbD 63 then let r := h.ridgeMsg w g x; { r.2 with stillReports := r.2.stillReports ++ [r.1] }
    else (h.ridgePlain w).2
  | .ack b =>
    if w.core.val = wardenOf b ∧ w.thread = 0 then let r := h.ridgeMsg w b x; { r.2 with wardenAcks := r.2.wardenAcks ++ [r.1] }
    else (h.ridgePlain w).2
  | .doorbell b =>
    let r := h.ridgePlain w
    if w.core.val = wardenOf b then r.2.after r.1 (.source (96 + b)) else r.2
  | .plain => (h.ridgePlain w).2

/-- A store to Ridge SRAM: its bytes are there for every load from its issue on (log entry 85), and FENCE.F knows it performed when
it has arrived (R290, R294). -/
def ridgeStore (w : Who) (off : Nat) (bs : List Byte) (isD : Bool) (m : Mem) (h : Hw) : Mem × Hw :=
  let h1 := h.updThread w (fun th => { th with notices := th.notices + 1 })
  (ridgeBytes off bs m, if isD then ridgeEffect w off (BitVec.ofNat 64 (ofBytes bs)) h1 else (h1.ridgePlain w).2)

/-! ### Stores (R146, R147, R178, R234) -/

/-- A store of a thread after its address is known; `n` bytes are moved. -/
def doStore (w : Who) (addr align : Nat) (bs : List Byte) (isD : Bool) (m : Mem) (h : Hw) : Ctl × Mem × Hw :=
  match accessCheck w addr bs.length align .write h with
  | (.end_ c, h1) => (c, m, h1)
  | (.scratch loc, h1) => (.done 1, h1.frameAct w.core (.write 2 loc bs) m)
  | (.ridge loc, h1) =>
    let r := ridgeStore w (loc - locRidge 0) bs isD m h1
    (.done 1, r.1, r.2)
  | (.cached loc, h1) =>
    if (h1.core w.core).cinv.isSome then (.stall .interlock 0, m, h1)
    else
      match storePieces w.core (pieces loc bs.length) bs h1 with
      | some h2 => (.done 1, m, h2)
      | none => (.stall .store 0, m, h1)

/-- A scalar store of the low bytes of a value. -/
def scalarStore (w : Who) (f : Form) (b : Fin 16) (off : Offset) (n : Nat) (x : Thread → Nat) (legal : Bool) (m : Mem) (h : Hw) :
    Mem × Hw :=
  runInstrM w f (fun p m h =>
    if !legal then (faultAt (h.thread w) excIllegal, m, h)
    else
      match withAddr w b off p h with
      | .inr c => (c, m, h)
      | .inl a => doStore w a n (toBytes n (x (h.thread w))) (n == 8) m h) m h

/-- ST; sizes 1, 3, 5 and 7 and U = 1 raise ILLEGAL. -/
def execSt (w : Who) (d : Fin 32) (sz : BitVec 3) (b : Fin 16) (off : Offset) (u : Bool) (s : State) : Out :=
  onMem (scalarStore w (formOf (.st w d sz b off u)) b off (szBytes sz) (fun th => (th.getD d).toNat)
    (sz.toNat % 2 == 0 && !u)) s
/-- STA: the address register zero-extended to 8 bytes; SZ other than 6 and U = 1 raise ILLEGAL. -/
def execSta (w : Who) (d : Fin 16) (sz : BitVec 3) (b : Fin 16) (off : Offset) (u : Bool) (s : State) : Out :=
  onMem (scalarStore w (formOf (.sta w d sz b off u)) b off 8 (fun th => (th.getA d).toNat) (sz == 6 && !u)) s
/-- VST of a whole vector register (R177). -/
def execVst (w : Who) (v : Fin 32) (b : Fin 16) (off : BitVec 12) (s : State) : Out :=
  onMem (runInstrM w (formOf (.vst w v b off)) (fun p m h =>
    let n := vecBits w.core / 8
    match withAddr w b (.off off) p h with
    | .inr c => (c, m, h)
    | .inl a => doStore w a n (toBytes n (h.thread w).v[v].toNat) false m h)) s
/-- VSTN: the first min(dN, bytes) bytes; dN = 0 makes no access (R177). -/
def execVstn (w : Who) (v : Fin 32) (b : Fin 16) (dn : Fin 32) (s : State) : Out :=
  onMem (runInstrM w {} (fun _ m h =>
    let th := h.thread w
    let n := vecBits w.core / 8
    let k := min (th.getD dn).toNat n
    if k = 0 then (.done 1, m, h) else doStore w (th.getA b).toNat n (toBytes k th.v[v].toNat) false m h)) s

/-! ### Fences (R292 to R295) -/

/-- The sends of a thread on REMOTE = 1 routes have been acknowledged (R295). -/
def remoteDone (h : Hw) (w : Who) : Bool := (h.thread w).remoteTo.isEmpty

/-- What FENCE.F and FENCE.S wait for (R294, R295); `upTo` is the latest eviction serial they wait for. -/
def fenceMet (h : Hw) (w : Who) (sc : Scope) (upTo : Nat) : Bool :=
  match sc with
  | .core => true
  | .frame => decide (upTo ≤ (h.core w.core).evDone) && (h.thread w).notices == 0
  | .system => decide (upTo ≤ (h.core w.core).evDone) && (h.thread w).notices == 0 && remoteDone h w

/-- The condition of a fence of a thread that stalls in it. -/
def Hw.fenceOver (h : Hw) (w : Who) (sc : Scope) : Bool := fenceMet h w sc ((h.thread w).fence.getD 0)

/-- A fence at a scope (R292 to R295). -/
def fenceIssue (w : Who) (sc : Scope) : Mem → Hw → Hw :=
  runInstr w {} (fun _ h =>
    let upTo := (h.core w.core).evSerial
    if fenceMet h w sc upTo then (.done 1, h)
    else (.stall .fence 0, h.updThread w (fun th => { th with fence := some upTo })))

/-- A fence that its thread stalls in, without interrupt (R158): its thread issues again from the first slot in which its condition holds;
a thread that a core halt has stopped in it leaves the stall (R205). -/
def fenceEnd (w : Who) (sc : Scope) (m : Mem) (h : Hw) : Hw :=
  if (h.thread w).tstate = .halted then
    match h.slotWhere w (·.fenceOver w sc) with
    | some x => (x.updThread w (fun th => { th with fence := none })).release w 1
    | none => h
  else
    match h.slotWhere w (fun x => x.canIssue w && x.fenceOver w sc) with
    | some x => (x.updThread w (fun th => { th with fence := none })).settle w {} m (.done 0)
    | none => h

/-- A fence, issued or waited for. -/
def fence (w : Who) (sc : Scope) (m : Mem) (h : Hw) : Hw :=
  if (h.thread w).stall = some .fence then fenceEnd w sc m h else fenceIssue w sc m h

/-- FENCE.C completes in its issue slot (R292). -/
def execFenceC (w : Who) (s : State) : Out := onHw (fence w .core) s
/-- FENCE.F (R294). -/
def execFenceF (w : Who) (s : State) : Out := onHw (fence w .frame) s
/-- FENCE.S (R295). -/
def execFenceS (w : Who) (s : State) : Out := onHw (fence w .system) s

/-! ### CINV (R236, R237, R297) -/

/-- A CINV at a scope: it begins unless another runs, walks its sets from the next cycle on, and holds its thread until
CINV_COMPLETE (R236, R237). -/
def cinv (w : Who) (sc : Scope) : Mem → Hw → Hw :=
  runInstr w {} (fun _ h =>
    if (h.core w.core).cinv.isSome then (.stall .interlock 0, h)
    else
      (.stall .cinv 0, h.updCore w.core (fun k => { k with cinv := some { thread := w.thread, scope := sc, at_ := h.cycle w.core + 1 } })))

/-- CINV.C. -/
def execCinvC (w : Who) (s : State) : Out := onHw (cinv w .core) s
/-- CINV.F. -/
def execCinvF (w : Who) (s : State) : Out := onHw (cinv w .frame) s
/-- CINV.S. -/
def execCinvS (w : Who) (s : State) : Out := onHw (cinv w .system) s

/-- A running CINV completes in the cycle of its last set, or once its scope condition holds (R236). -/
def cinvComplete (c : CoreId) (h : Hw) : Hw :=
  match (h.core c).cinv with
  | none => h
  | some v =>
    let last := v.at_ + 127 - v.set
    let h1 := ((h.coreEvent c last).updCore c (·.cinvTo (max last (h.cycle c))))
    match (h1.core c).cinv with
    | some v1 =>
      if v1.set = 128 ∧ (h.core c).frozenAt.isNone ∧ fenceMet h1 ⟨c, v.thread⟩ v1.scope v1.serial then
        (h1.updCore c (fun k => { k with cinv := none })).release ⟨c, v.thread⟩ 1
      else h
    | none => h
/-- CINV_COMPLETE. -/
def execCinvComplete (c : CoreId) (s : State) : Out := onHw (fun _ => cinvComplete c) s

/-! ### Fills, write-backs and late store errors (R202, R203, R232 to R235, R287, R400, R410) -/

/-- The data of a load's pieces that lie in a line. -/
def Hw.deliver (h : Hw) (w : Who) (key : Nat) (data : List Byte) : Hw :=
  match (h.core w.core).loads[w.thread] with
  | none => h
  | some o =>
    ((List.range o.pieces.length).zip o.pieces).foldl (fun h p =>
      if p.2.1 / 64 = key then h.loadPiece w p.1 ((data.drop (p.2.1 % 64)).take p.2.2) else h) h

/-- Serve the requests of a miss register in acceptance order (R233): stores change the line and its mask, loads take it
as it stands. -/
def serve (c : CoreId) (key : Nat) : List MissReq → List Byte × BitVec 64 → Hw → (List Byte × BitVec 64) × Hw
  | [], l, h => (l, h)
  | .load t :: rest, l, h => serve c key rest l (h.deliver ⟨c, t⟩ key l.1)
  | .store off bs :: rest, l, h => serve c key rest (splice l.1 off bs, l.2 ||| maskOf off bs.length) h
  | .tile :: rest, l, h => serve c key rest l h

/-- A line whose read met an uncorrectable error: it is not allocated, loads receive 0, stores are lost (R410). -/
def serveBad (c : CoreId) (key : Nat) : List MissReq → Hw → Hw
  | [], h => h
  | .load t :: rest, h => serveBad c key rest (h.deliver ⟨c, t⟩ key (List.replicate 64 0))
  | .store _ _ :: rest, h => serveBad c key rest (h.lateStore c (key * 64))
  | .tile :: rest, h => serveBad c key rest (h.updCore c (fun k => { k with tileZero := key :: k.tileZero }))

/-- The way that a line of a set takes: the lowest invalid one, or that of the least recently used line (R233). -/
def Core.victim (k : Core) (set : Nat) : Nat × Option CLine :=
  let ls := k.cache.filter (fun l => l.key % 128 == set)
  match (List.range 4).find? (fun wy => !(ls.any (·.way == wy))) with
  | some wy => (wy, none)
  | none =>
    match ls with
    | [] => (0, none)
    | l :: rest =>
      let v := rest.foldl (fun best x => if x.stamp < best.stamp then x else best) l
      (v.way, some v)

/-- Put a line into its set, moving a dirty victim to the eviction buffer; none while that buffer is full (R233). -/
def Core.install (k : Core) (key : Nat) (data : List Byte) (mask : BitVec 64) : Option Core :=
  let (wy, v) := k.victim (key % 128)
  let put := fun (k : Core) =>
    { k with cacheStamp := k.cacheStamp + 1
             cache := { key := key, data := data, mask := mask, way := wy, stamp := k.cacheStamp + 1 } ::
                        k.cache.filter (fun l => !(l.key % 128 == key % 128 && l.way == wy)) }
  match v with
  | none => some (put k)
  | some l =>
    if l.mask = 0 then some (put k)
    else if k.evb.length < 8 then some (put (k.evict l.key l.data l.mask))
    else none

/-- The registers and the walk of a core after a fill. -/
def Core.filled (k : Core) (r : Fin 8) (cyc : Nat) : Core := { k with miss := k.miss.set r none }.cinvOn cyc

/-- The line of a miss register arrives whole: it is installed, a victim leaves, and the register's requests are served (R233); none
while the eviction buffer has no room for the victim. -/
def Hw.fillLine (h : Hw) (c : CoreId) (r : Fin 8) (q : MissReg) (bytes : List Byte) : Option Hw :=
  ((h.core c).install q.key bytes 0).map (fun k =>
    let x := serve c q.key q.reqs (bytes, 0) (h.setCore c (k.filled r (h.cycle c)))
    x.2.updCore c (fun k =>
      { k with cache := updFirst (·.key == q.key) (fun l => { l with data := x.1.1, mask := x.1.2 }) k.cache }))

/-- The line of an uncorrectable read is not allocated (R410). -/
def Hw.fillBad (h : Hw) (c : CoreId) (r : Fin 8) (q : MissReg) : Hw :=
  let storing := ((h.core c).tileMove.map (·.store)).getD false
  let loads := q.reqs.any (fun x => match x with | .store _ _ => false | .tile => !storing | .load _ => true)
  let h1 := if loads then h.machineCheck c 0 (q.key * 64) else h
  serveBad c q.key q.reqs (h1.updCore c (·.filled r (h.cycle c)))

/-- A requested line arrives (R233, R410), in the order in which the mesh delivers replies (R275); a fill that finds no room waits,
and a frozen core takes none (R471). -/
def lineFill (c : CoreId) (r : Fin 8) (h : Hw) : Hw :=
  match (h.core c).miss[r] with
  | none => h
  | some q =>
    match q.data with
    | none => h
    | some bytes =>
      match h.land q.flit q.due with
      | none => h
      | some (due, h1) =>
        if (h.core c).frozenAt.isSome then h
        else
          let h2 := (h1.event due).caughtUp c
          if q.err then h2.fillBad c r q
          else (h2.fillLine c r q bytes).getD (h1.updCore c (fun k => { k with miss := k.miss.set r (some { q with due := due, flit := 0 }) }))

/-- LINE_FILL. -/
def execLineFill (c : CoreId) (r : Fin 8) (s : State) : Out := onHw (fun _ => lineFill c r) s

/-- LATE_STORE_ERROR: a store that has left its thread meets an error at an address (R202, R203). -/
def execLateStoreError (c : CoreId) (addr : BitVec 48) (s : State) : Out := onHw (fun _ h => (h.event h.clock).lateStore c addr.toNat) s

end Sys2Proof.Machine
end

