-- ==== Sys2Proof/Machine/Rings.lean ====
section
/-!
DEFINITION. Records that the device posts: completion rings of TMP sessions (R373 to R379) and the events of the control
session (R387), with the ports that datagrams leave from (R375, R388).
-/

namespace Sys2Proof.Machine

/-- The network of a port (R366). -/
def portNet (p : Nat) : Nat := p / 4

/-- The sum of two 32-bit counters (R378). -/
def add32 (x y : Nat) : Nat := (x + y) % 2 ^ 32
/-- The difference of two 32-bit counters (R378). -/
def sub32 (x y : Nat) : Nat := (x + 2 ^ 32 - y % 2 ^ 32) % 2 ^ 32

/-- A port of the network block. -/
def Net.port (n : Net) (p : Nat) : Port := n.ports[fin 8 p]
/-- Change a port. -/
def Net.updPort (n : Net) (p : Nat) (f : Port → Port) : Net := { n with ports := n.ports.set (fin 8 p) (f n.ports[fin 8 p]) }
/-- A port is UP (R370). -/
def Net.isUp (n : Net) (p : Nat) : Bool := (n.port p).state == .up

/-- The plate of a port (R366). -/
def portPlate (p : Nat) : Plate := if p / 2 % 2 = 0 then .west else .east

/-- The lowest-numbered UP port of a network. -/
def Net.upPort (n : Net) (net : Nat) : Option Nat := [0, 1, 2, 3].map (· + 4 * net) |>.find? n.isUp

/-- The port from which a TMP session sends (R375). -/
def Net.portOf (n : Net) (s : Session) : Option Nat :=
  if n.isUp s.port then some s.port else if s.local_ then none else n.upPort (portNet s.port)

/-- The priority of a class of frames at a port: PCP_UBT or PCP_TMP (R367). -/
def Port.pcp (p : Port) (ubt : Bool) : Nat := fld p.active (if ubt then 22 else 25) 3

/-- Send a datagram from a port, if there is one, with the tag of its class as the port has it now (R368, R370); a pause of its priority
holds it back (R368). -/
def Net.emitClass (n : Net) (ubt : Bool) (p : Option Nat) (addr : BitVec 128) (udp : Nat) (payload : List Byte)
    (src : Option DstAddr := none) : Net :=
  match p with
  | some p =>
    let q := n.port p
    let x : Sending := { port := p, ubt := ubt, from_ := src, vid := fld q.active 0 12, pcp := q.pcp ubt, addr := addr, udp := udp, payload := payload }
    if q.paused.getLsbD x.pcp then n.updPort p (fun q => { q with held := q.held ++ [x] }) else { n with sent := n.sent ++ [x] }
  | none => n

/-- Send a TMP datagram from a port, if there is one. -/
def Net.emit (n : Net) (p : Option Nat) (addr : BitVec 128) (udp : Nat) (payload : List Byte) : Net :=
  n.emitClass false p addr udp payload

/-- The network block goes on to a state in which it has sent more TMP datagrams: each has come from the Ridge to its port's plate on the control
channel, one flit a datagram (R26, R272; log entry 98). -/
def Hw.tmpNet (h : Hw) (f : Net → Net) : Hw :=
  let n := f h.net
  let held := (List.finRange 8).flatMap (fun p => (n.ports[p]).held.drop (h.net.ports[p]).held.length)
  (n.sent.drop h.net.sent.length ++ held).foldl (fun (h : Hw) (x : Sending) =>
    if x.ubt then h else h.postAuto ridgeRouter (plateRouter (portPlate x.port)) 2 h.clock) { h with net := n }

/-- A TMP header (R373). -/
def tmpHeader (type session epoch dseq dack start length rd : Nat) : List Byte :=
  wordsBytes [0x7A4D * 2 ^ 48 + 0x01 * 2 ^ 40 + type * 2 ^ 32 + session * 2 ^ 26 + epoch * 2 ^ 10, dseq * 2 ^ 32 + dack,
    start * 2 ^ 32 + length, rd * 2 ^ 32]

/-- The bytes of a record. -/
def recordBytes (ws : List W64) : List Byte := wordsBytes (ws.map (·.toNat))

/-- The bytes that a record takes at the write offset of the completion ring, with the pad that keeps it off the ring's end;
none while the ring lacks room (R379). -/
def Session.place (s : Session) (ws : List W64) : Option (List Byte) :=
  let size := 2 ^ s.cplLog
  let rec_ := recordBytes ws
  let e := size - s.cplWr % size
  let free := size - sub32 s.cplWr s.cplRd
  let bytes := if rec_.length ≤ e then rec_ else fitBytes e (wordsBytes [(e / 32) * 2 ^ 32]) ++ rec_
  if bytes.length ≤ free then some bytes else none

/-- The CPL datagram of a DSEQ and START as the session stands (R373, R377). -/
def Session.cpl (s : Session) (n dseq start : Nat) (bytes : List Byte) : List Byte :=
  tmpHeader 0x05 n s.epoch dseq s.dseqIn start bytes.length s.cmdRd ++ bytes

/-- Post the waiting records of a session as its completion ring has room, each in a CPL datagram (R377, R379). -/
def Net.pump (net : Net) (n : Nat) (now : Nat) : Nat → Net
  | 0 => net
  | fuel + 1 =>
    match sget n net.sessions with
    | none => net
    | some s =>
      match s.waiting with
      | [] => net
      | ws :: rest =>
        match s.place ws with
        | none => net
        | some bytes =>
          let dseq := add32 s.dseqOut 1
          let s1 := { s with waiting := rest, dseqOut := dseq, cplWr := add32 s.cplWr bytes.length
                             unacked := s.unacked ++ [(dseq, s.cplWr, bytes)]
                             ackedAt := if s.unacked.isEmpty then now else s.ackedAt }
          let net1 := { net with sessions := sset n s1 net.sessions }
          (net1.emit (net1.portOf s1) s1.addr s1.udp (s1.cpl n dseq s.cplWr bytes)).pump n now fuel

/-- Post a record to a session's completion ring; it waits while the ring lacks room. -/
def Hw.postRec (h : Hw) (n : Nat) (ws : List W64) : Hw :=
  match sget n h.net.sessions with
  | none => h
  | some s =>
    let s1 := { s with waiting := s.waiting ++ [ws] }
    h.tmpNet (fun x => ({ x with sessions := sset n s1 x.sessions }).pump n h.clock (s.waiting.length + 1))

/-- A record (R379): header word, word 1, and words from w2, filled with zeros to whole 32-byte units. -/
def record (rtype tag : Nat) (w1 : W64) (ws : List W64) : List W64 :=
  let units := (ws.length + 2 + 3) / 4
  let body := w1 :: ws
  BitVec.ofNat 64 (rtype * 2 ^ 56 + units * 2 ^ 32 + tag % 2 ^ 32) :: (body ++ List.replicate (4 * units - 1 - body.length) 0)

/-- The open control session (R374). -/
def Net.control (n : Net) : Option Nat := (n.sessions.find? (·.2.control)).map (·.1)

/-- Post an event to the control session, or hold it while none is open, at most 63 and a count (R387). -/
def Hw.postEvent (h : Hw) (rtype tag : Nat) (ws : List W64) : Hw :=
  let r := record rtype tag 0 ws
  match h.net.control with
  | some n => h.postRec n r
  | none =>
    if h.net.events.length < 63 ∧ h.net.eventsLost = 0 then { h with net := { h.net with events := h.net.events ++ [r] } }
    else { h with net := { h.net with eventsLost := h.net.eventsLost + 1 } }

/-! ### Acknowledgements of UBT packets (R388 to R391) -/

/-- A UBT header (R388). -/
def ubtHeader (op session epoch psn apsn addr : Nat) (ece last : Bool) (err len : Nat) : List Byte :=
  wordsBytes [0x7A55 * 2 ^ 48 + 0x01 * 2 ^ 40 + op * 2 ^ 32 + session * 2 ^ 16 + epoch, psn * 2 ^ 32 + apsn, addr,
    b2n ece * 2 ^ 63 + b2n last * 2 ^ 62 + err * 2 ^ 48 + len]

/-- The port from which a UBT session sends (R388). -/
def Net.ubtPort (n : Net) (u : Ubt) : Option Nat :=
  match u.port with
  | some p => if n.isUp p then some p else n.upPort u.net
  | none => n.upPort u.net

/-- The plate that speaks for a UBT session: that of the port it sends from (R366, R412). -/
def Net.ubtPlate (n : Net) (u : Ubt) : Plate := portPlate ((n.ubtPort u).getD 0)

/-- Send a packet of a UBT session. -/
def Net.ubtEmit (n : Net) (u : Ubt) (bytes : List Byte) : Net := n.emitClass true (n.ubtPort u) u.addr u.udp bytes

/-- Change a UBT session. -/
def Net.updUbt (n : Net) (k : Nat) (f : Ubt → Ubt) : Net :=
  match sget k n.ubt with
  | some u => { n with ubt := sset k (f u) n.ubt }
  | none => n

/-- Send an ACK of every packet processed, with ECE when a packet accepted since the previous one carried CE (R391). -/
def Net.ubtAck (n : Net) (k : Nat) : Net :=
  match sget k n.ubt with
  | some u => (n.ubtEmit u (ubtHeader 4 k u.epoch 0 (sub32 u.doneIn 1) 0 u.ce false 0 0)).updUbt k (fun u => { u with ce := false })
  | none => n

/-- Send a NAK (R389, R390). -/
def Net.ubtNak (n : Net) (k apsn err : Nat) : Net :=
  match sget k n.ubt with
  | some u => n.ubtEmit u (ubtHeader 5 k u.epoch 0 apsn 0 false false err 0)
  | none => n

/-- The first packet not yet acknowledged has been processed: all its parts have ended, its last response has been formed. -/
def UbtIn.ended (x : UbtIn) : Bool := x.open_.isEmpty && (!x.read || x.fault.isSome || decide (x.len ≤ x.next))

/-- Acknowledge the packets that have been processed, in order: a NAK for each that failed, an ACK for those up to the last one
that did not (R390, R391). -/
def Net.ubtSettled (n : Net) (k : Nat) : Nat → Net
  | 0 => n
  | fuel + 1 =>
    match sget k n.ubt with
    | none => n
    | some u =>
      match u.inPkts with
      | [] => n
      | x :: rest =>
        if x.ended then
          let n1 := n.updUbt k (fun u => { u with inPkts := rest, doneIn := add32 x.psn 1 })
          let more := match rest with
            | y :: _ => y.ended && y.fault.isNone
            | [] => false
          match x.fault with
          | some (err, _) => (n1.ubtNak k x.psn err).ubtSettled k fuel
          | none => (if more then n1 else n1.ubtAck k).ubtSettled k fuel
        else n

/-- A line part of a packet has ended, with a NAK cause when it failed; of several failing parts the first counts (R390). -/
def UbtIn.settle (x : UbtIn) (part : Nat) (err : Option Nat) : UbtIn :=
  let fault := match err, x.fault with
    | none, f => f
    | some e, none => some (e, part)
    | some e, some (c, at_) => if part < at_ then some (e, part) else some (c, at_)
  { x with open_ := x.open_.filter (· != part), fault := fault }

/-- A line part of a UBT WRITE has been performed, dropped or stopped (R390). -/
def Hw.ubtPart (h : Hw) (k epoch psn part : Nat) (err : Option Nat) : Hw :=
  match sget k h.net.ubt with
  | some u =>
    if u.epoch = epoch then
      { h with net := (h.net.updUbt k (fun u => { u with
          inPkts := u.inPkts.map (fun x => if x.psn = psn then x.settle part err else x) })).ubtSettled k u.inPkts.length }
    else h
  | none => h

/-! ### Errors of the Layout engine (R333) -/

/-- The engine finds an error: the first records its code, cut and detail, sets DRAINING and raises LE_ERROR; of several found in one
cycle that of the lowest cut and code is the one recorded (R333, R412). -/
def Hw.leError (h : Hw) (code cut info : Nat) : Hw :=
  let l := h.le
  let record := { l with err := code, errCut := cut % 2 ^ 32, errInfo := info % 2 ^ 32, errAt := h.clock }
  if l.st = .draining ∨ l.st = .error then
    if l.errAt = h.clock ∧ (cut < l.errCut ∨ (cut = l.errCut ∧ code < l.err)) then { h with le := record } else h
  else { h with le := { record with st := .draining } }.raiseSource 224

end Sys2Proof.Machine
end

