-- ==== Sys2Proof/Machine/TileOps.lean ====
section
/-!
DEFINITION. The tile instructions (R98 to R128): TCFG, TLD and TST with the tile move unit, TRDV, TWRV, and the tile ports
TSTAT, TREL and TCUR.
-/

namespace Sys2Proof.Machine

/-! ### TCFG (R98 to R103) -/

/-- The row unit of a format in bytes (R100). -/
def rowUnit (code : Nat) : Nat :=
  match code with
  | 0x3 => 4
  | 0x1 | 0x2 => 2
  | 0x8 | 0x9 => 32
  | 0xA | 0xB => 24
  | 0xC => 16
  | _ => 1

/-- The largest ROWS of a kind (R97). -/
def maxRows (c : Nat) : Nat := arraySide c

/-- The checks of TCFG (R100): the fault's code and its cause. -/
def tcfgCheck (c : Nat) (t : Tile) (th : Fin 4) (rows rbytes fmt : Nat) : Option (Nat × Nat) :=
  if t.othersOwn th then some (excTileOwned, 0)
  else if fmt = 0xF ∨ (fmt = 0 ∧ (rows ≠ 0 ∨ rbytes ≠ 0)) ∨ (fmt ≠ 0 ∧ (rows = 0 ∨ rbytes = 0)) then some (excTileShape, 1)
  else if maxRows c < rows then some (excTileShape, 2)
  else if 128 < rbytes ∨ maxRows c * 128 < rows * rbytes then some (excTileShape, 3)
  else if rbytes % rowUnit fmt ≠ 0 then some (excTileShape, 4)
  else none

/-- TCFG: the shape and owner are set, the contents, flags and cursor cleared (R101). -/
def execTcfg (w : Who) (t : Fin 8) (rows : BitVec 6) (rbytes : BitVec 8) (fmt : BitVec 4) (s : State) : Out :=
  onHw (runInstr w {} (fun _ h =>
    let k := h.core w.core
    match tcfgCheck w.core k.tiles[t] w.thread rows.toNat rbytes.toNat fmt.toNat with
    | some (code, cause) => (.fault { code := code, detail := cause, epc := (h.thread w).pc }, h)
    | none =>
      if k.writeWaits t (h.cycle w.core) then (.stall .interlock 0, h)
      else
        (.done 1, h.setCore w.core (k.updTile t (fun _ =>
          { rows := rows.toNat, rbytes := rbytes.toNat, fmt := fmt, owner := if rows = 0 then 0 else w.thread }))))) s

/-! ### TLD and TST (R105 to R119) -/

/-- The checks of a tile move at issue (R106). -/
def moveCheck (t : Tile) (w : Who) (x : Bool) (base stride : W48) : Option Nat :=
  if t.othersOwn w.thread then some excTileOwned
  else if t.empty then some excTileEmpty
  else if x && !isMx t.code then some excMatFormat
  else if base.toNat % 8 ≠ 0 ∨ stride.toNat % 8 ≠ 0 then some excTileAlign
  else none

/-- Issue a tile move: its checks, the stalls of R54, R83, R111 and R126, and its acceptance, at the row of its cursor when
that belongs to the same kind of move (R117). The first row moves no earlier than two cycles on (R109), a resumed one too
(DESIGN CHOICE, log entry 89). -/
def tileIssue (w : Who) (t : Fin 8) (b sr : Fin 16) (store x u : Bool) : Mem → Hw → Hw :=
  runInstr w {} (fun _ h =>
    let k := h.core w.core
    let th := h.thread w
    let tile := k.tiles[t]
    let cyc := h.cycle w.core
    match moveCheck tile w x (th.getA b) (th.getA sr) with
    | some code => (faultAt th code (if code = excTileAlign then (th.getA b).toNat else 0), h)
    | none =>
      let waits := if store then k.readWaits t cyc else k.writeWaits t cyc
      if k.tileMove.isSome || waits || k.trelNames t then (.stall .interlock 0, h)
      else
        let resumes := tile.ract && tile.rdir == store && tile.rx == x
        let mv : TileMove :=
          { thread := w.thread, t := t, store := store, x := x, u := u, base := th.getA b, stride := th.getA sr,
            row := if resumes then tile.row else 0, last := cyc + 1 }
        let k1 := k.updTile t (fun tile => if resumes then tile else { tile with ract := false, rdir := false, rx := false, row := 0 })
        (.stall .tileMove 0, h.setCore w.core
          { (k1.updThread w.thread (fun th => { th with tileCur := none })) with tileMove := some mv, tileZero := [] }))

/-- TLD. -/
def execTld (w : Who) (t : Fin 8) (b : Fin 16) (sr : Fin 16) (x u : Bool) (s : State) : Out :=
  onHw (tileIssue w t b sr false x u) s
/-- TST. -/
def execTst (w : Who) (t : Fin 8) (b : Fin 16) (sr : Fin 16) (x : Bool) (s : State) : Out :=
  onHw (tileIssue w t b sr true x false) s

/-- Bytes of a row of a move (R105). -/
def TileMove.rowBytes (mv : TileMove) (t : Tile) : Nat := if mv.x then t.scaleBytes else t.rbytes
/-- The address of row r, modulo 2^48 (R105). -/
def TileMove.addr (mv : TileMove) (r : Nat) : Nat := (mv.base + mv.stride * BitVec.ofNat 48 r).toNat

/-- The *Row checks* of a row of `n` bytes (R107). -/
def Hw.rowPath (h : Hw) (c : CoreId) (acc : Acc) (addr n : Nat) (again : Bool) : RowPath × Hw :=
  match locate c addr n with
  | .scratch off => (if tileReaches c off n then .scratch (locScratch c off) else .fault excPortReach, h)
  | .shared b off => (.cache (pieces (locShared b off) n), h)
  | .ext v => pagePieces (fun v h => h.translate (bentOf c) acc v again) v n h
  | .ridge _ | .bad => (.fault excTileRegion, h)

/-- Write a row of a tile: its elements or its scale bytes; row 0 of an element load clears INX and SAT (R112). -/
def Tile.putRow (t : Tile) (x : Bool) (r : Nat) (bs : List Byte) : Tile :=
  if x then { t with scale := setBytes (8 * r) bs t.scale }
  else { t with data := setBytes (128 * r) bs t.data, inx := t.inx && r != 0, sat := t.sat && r != 0 }
/-- A row of a tile as a store moves it. -/
def Tile.getRow (t : Tile) (x : Bool) (r : Nat) : List Byte := if x then t.scaleRow r else t.row_ r

/-- The row of a move has moved in the present cycle: the next row follows, or a stop that waited for the row takes hold, and a whole
move completes (R111, R115, R116). -/
def Hw.rowMoved (h : Hw) (c : CoreId) (mv : TileMove) : Hw :=
  let cyc := h.cycle c
  if mv.row + 1 < (h.core c).tiles[mv.t].rows then
    (h.updCore c (fun k =>
      { k with tileMove := some { mv with row := mv.row + 1, last := cyc, tried := false } }.stopStalled mv.thread)).noted c
  else
    ((h.updCore c (fun k =>
      { ((k.updTile mv.t (fun t => { t with ract := false, rdir := false, rx := false, row := 0 })).freeTile mv.t cyc) with
        tileMove := none })).release ⟨c, mv.thread⟩ 1).trelRun c

/-- A row meets a fault: the move stops with its cursor (R107, R115). -/
def Hw.rowFault (h : Hw) (c : CoreId) (mv : TileMove) (code : Nat) : Hw :=
  (((h.updCore c (fun k => (k.stopTileMove mv.thread).freeTile mv.t (h.cycle c))).updThread ⟨c, mv.thread⟩ (fun th =>
    { th with stall := none
              found := some { code := code, epc := th.pc, eaddr := BitVec.ofNat 48 (mv.addr mv.row), at_ := h.cycle c } })).trelRun
    c).noted c

/-- Move the current row between the tile and the scratchpad, in slot 0 of the frame for a load, slot 1 for a store (R108,
R217). -/
def scratchRow (c : CoreId) (mv : TileMove) (loc n : Nat) (m : Mem) (h : Hw) : Mem × Hw :=
  let k := h.core c
  if mv.store then
    let r := h.frameAct c (.write 1 loc (k.tiles[mv.t].getRow mv.x mv.row)) m
    (r.1, r.2.rowMoved c mv)
  else
    (m, (h.updCore c (·.updTile mv.t (·.putRow mv.x mv.row (memReadN loc n (k.frameStart (h.cycle c) m))))).rowMoved c mv)

/-- The lines of a row that are neither in the cache, nor in the eviction buffer, nor delivered as 0. -/
def Core.rowMissing (k : Core) (store : Bool) (ps : List (Nat × Nat)) : List Nat :=
  (ps.map (fun p => p.1 / 64)).filter (fun key =>
    (k.line key).isNone && !k.tileZero.contains key && (store || (k.evEntry key).isNone))

/-- A tile move waits on a miss register too, once (R232). -/
def MissReg.askTile (q : MissReg) : MissReg :=
  if q.reqs.contains .tile || 5 ≤ q.reqs.length then q else { q with reqs := q.reqs ++ [.tile] }

/-- Request lines for a tile move as far as miss registers are free; a line in the eviction buffer is waited for
(R110, R234). -/
def Hw.tileAsk (h : Hw) (c : CoreId) : List Nat → Hw
  | [] => h
  | key :: rest =>
    let k := h.core c
    if (k.missFor key).isSome || (k.evEntry key).isSome then
      (match k.missFor key with
        | some r => h.updCore c (fun k => { k with miss := k.miss.set r (k.miss[r].map MissReg.askTile) })
        | none => h).tileAsk c rest
    else
      match h.missRequest c key .tile with
      | some h1 => h1.tileAsk c rest
      | none => h

/-- The lines of the rows ahead whose pages the page map cache holds. -/
def Hw.rowsAhead (h : Hw) (c : CoreId) (mv : TileMove) : List (Nat × Nat) :=
  let t := (h.core c).tiles[mv.t]
  let n := mv.rowBytes t
  (List.range (t.rows - mv.row)).flatMap (fun i =>
    match (h.rowPath c (if mv.store then .write else .read) (mv.addr (mv.row + i)) n true).1 with
    | .cache ps => ps
    | _ => [])

/-- The bytes of a row's pieces as the cache, the eviction buffer or the answers of TLD.U hold them. -/
def Core.rowData (k : Core) (got : List (Nat × List Byte × Nat)) (ps : List (Nat × Nat)) : List Byte :=
  ps.flatMap (fun p =>
    let key := p.1 / 64
    let line := match got.find? (·.1 == key) with
      | some g => g.2.1
      | none =>
        match k.line key with
        | some l => l.data
        | none => ((k.evEntry key).map EvEntry.data).getD (List.replicate 64 0)
    (line.drop (p.1 % 64)).take p.2)

/-- Each line of a row is used: a hit is counted and the line becomes the most recently used (R232, R237). -/
def Core.useLines (k : Core) (ps : List (Nat × Nat)) : Core := ps.foldl (fun k p => (k.touchLine (p.1 / 64) id).hit) k

/-- Update the lines of a row that a TST moves; a line that could not be read loses its bytes as a late store error
(R110, R410). -/
def Hw.storeRow (h : Hw) (c : CoreId) : List (Nat × Nat) → List Byte → Hw
  | [], _ => h
  | (loc, n) :: rest, bs =>
    let key := loc / 64
    let h1 := if ((h.core c).line key).isNone then h.lateStore c (key * 64)
      else h.updCore c (fun k => (k.touchLine key (fun l =>
        { l with data := splice l.data (loc % 64) (bs.take n), mask := l.mask ||| maskOf (loc % 64) n })).hit)
    h1.storeRow c rest (bs.drop n)

/-- Request lines for TLD.U from memory, at most eight at a time: dirty lines of the cache are first written back, and a line that
the cache is busy with is waited for (R108, R110, R235). -/
def Hw.tileAskU (h : Hw) (c : CoreId) (mv : TileMove) (keys : List Nat) : Hw :=
  let wanted := keys.eraseDups.filter (fun key => !mv.asked.contains key && !mv.got.any (·.1 == key))
  let h1 := h.updCore c (fun k => wanted.foldl Core.cleanLine k)
  let now := (wanted.filter (fun key => !(h1.core c).lineBusy key)).take (8 - mv.asked.length)
  let h2 := now.foldl (fun h key => h.request (bentOf c) (coreIn c) key none (.tile c)) h1
  h2.updCore c (fun k => { k with tileMove := k.tileMove.map (fun mv => { mv with asked := mv.asked ++ now }) })

/-- The current row waits for its lines or its pages (R116, R406). -/
def Hw.rowWaits (h : Hw) (c : CoreId) : Hw :=
  h.updCore c (fun k => { k with tileMove := k.tileMove.map (fun mv => { mv with tried := true }) })

/-- The first cycle of a cache-path row: at once, or the next one for a row that had to wait when something has come in this one. -/
def Hw.rowStart (h : Hw) (c : CoreId) (mv : TileMove) : Nat := if mv.tried then h.openCycle c else h.cycle c

/-- A row of the cache path: the missing lines of this and later rows are requested, and it moves, in the last of a cycle for each
line that it touches, once every line is there (R108, R110). -/
def cacheRow (c : CoreId) (mv : TileMove) (ps : List (Nat × Nat)) (h : Hw) : Hw :=
  let k := h.core c
  let keys := ps.map (fun p => p.1 / 64)
  if k.cinv.isSome then h
  else if mv.u then
    let h1 := h.tileAskU c mv ((h.rowsAhead c mv).map (fun p => p.1 / 64))
    if keys.all (fun key => mv.got.any (·.1 == key)) then
      let arrived := (mv.got.filter (fun g => keys.contains g.1)).foldl (fun n g => max n (g.2.2 - k.cyc0)) (h1.rowStart c mv)
      let h2 := h1.coreEvent c (arrived + ps.length - 1)
      match (h2.core c).tileMove with
      | some mv' =>
        let later := fun (g : Nat × List Byte × Nat) => !(keys.contains g.1) || ((h.rowsAhead c { mv with row := mv.row + 1 }).any (fun p => p.1 / 64 == g.1))
        (h2.updCore c (·.updTile mv.t (·.putRow mv.x mv.row (k.rowData mv.got ps)))).rowMoved c { mv' with got := mv'.got.filter later }
      | none => h2
    else h1.rowWaits c
  else
    let h1 := h.tileAsk c (k.rowMissing mv.store (h.rowsAhead c mv))
    match k.rowMissing mv.store ps with
    | [] =>
      let h2 := h1.coreEvent c (h1.rowStart c mv + ps.length - 1)
      if mv.store then (h2.storeRow c ps (k.tiles[mv.t].getRow mv.x mv.row)).rowMoved c mv
      else ((h2.updCore c (·.updTile mv.t (·.putRow mv.x mv.row (k.rowData [] ps)))).updCore c (·.useLines ps)).rowMoved c mv
    | _ => h1.rowWaits c

/-- One row of the tile move in progress, in the present cycle or, on the cache path, from it on (R107 to R110). -/
def moveRow (c : CoreId) (mv : TileMove) (m : Mem) (h : Hw) : Mem × Hw :=
  let n := mv.rowBytes (h.core c).tiles[mv.t]
  let r := h.rowPath c (if mv.store then .write else .read) (mv.addr mv.row) n mv.tried
  match r.1 with
  | .fault code => (m, (r.2.coreEvent c 0).rowFault c mv code)
  | .walk => (m, r.2.rowWaits c)
  | .scratch loc => scratchRow c mv loc n m (r.2.coreEvent c 0)
  | .cache ps => (m, cacheRow c mv ps r.2)

/-- The second row of a pair on a joist core, in the same cycle, when it too lies in the own scratchpad (R109). -/
def pairRow (c : CoreId) (first : Nat) (m : Mem) (h : Hw) : Mem × Hw :=
  match (h.core c).tileMove with
  | some mv =>
    match locate c (mv.addr mv.row) (mv.rowBytes (h.core c).tiles[mv.t]) with
    | .scratch _ => if isJoist c && first % 2 == 0 && mv.row == first + 1 then moveRow c mv m h else (m, h)
    | _ => (m, h)
  | none => (m, h)

/-- The tile move unit works on its current row, in the first cycle that its order allows (R109 to R111); a frozen core's stands
(R116). -/
def tileMoveRow (c : CoreId) (m : Mem) (h : Hw) : Mem × Hw :=
  let k := h.core c
  match k.tileMove with
  | none => (m, h)
  | some mv =>
    if k.frozenAt.isSome then (m, h)
    else
      let r := moveRow c mv m ((h.reachCycle c (mv.last + 1)).caughtUp c)
      match locate c (mv.addr mv.row) (mv.rowBytes k.tiles[mv.t]) with
      | .scratch _ => pairRow c mv.row r.1 r.2
      | _ => r
/-- TILE_MOVE_ROW. -/
def execTileMoveRow (c : CoreId) (s : State) : Out := onMem (tileMoveRow c) s

/-! ### TRDV and TWRV (R120, R121) -/

/-- The checks of a row move, with the row a register names. -/
def rowCheck (t : Tile) (th : Fin 4) (row : Nat) : Option Nat :=
  if t.othersOwn th then some excTileOwned
  else if t.empty then some excTileEmpty
  else if t.rows ≤ row then some excTileRow
  else none

/-- The first row byte of a vector row move, and how many it moves (R120). -/
def rowWindow (c : Nat) (hi : Bool) : Nat × Nat := if isPeg c then (if hi then 64 else 0, 64) else (0, 128)

/-- The row of a tile register's operand: the low 32 bits of dr. -/
def Thread.rowOf (th : Thread) (d : Fin 32) : Nat := (th.getD d).toNat % 2 ^ 32

/-- TRDV: row bytes at or beyond RBYTES read as 0; H = 1 off a peg core raises ILLEGAL (R99). -/
def execTrdv (w : Who) (v : Fin 32) (t : Fin 8) (d : Fin 32) (hi : Bool) (s : State) : Out :=
  onHw (runInstr w {} (fun _ h =>
    let k := h.core w.core
    let th := h.thread w
    let tile := k.tiles[t]
    if hi && !isPeg w.core then (faultAt th excIllegal, h)
    else
      match rowCheck tile w.thread (th.rowOf d) with
      | some code => (faultAt th code, h)
      | none =>
        if k.readWaits t (h.cycle w.core) then (.stall .interlock 0, h)
        else
          let win := rowWindow w.core hi
          let bs := bytesAt (tile.row_ (th.rowOf d)) win.1 win.2
          (.done 1, h.updThread w (fun th => { th with v := th.v.set v (BitVec.ofNat 2048 (ofBytes bs)) })))) s

/-- TWRV: bytes at or beyond RBYTES are not written. -/
def execTwrv (w : Who) (t : Fin 8) (d : Fin 32) (v : Fin 32) (hi : Bool) (s : State) : Out :=
  onHw (runInstr w {} (fun _ h =>
    let k := h.core w.core
    let th := h.thread w
    let tile := k.tiles[t]
    if hi && !isPeg w.core then (faultAt th excIllegal, h)
    else
      match rowCheck tile w.thread (th.rowOf d) with
      | some code => (faultAt th code, h)
      | none =>
        if k.writeWaits t (h.cycle w.core) then (.stall .interlock 0, h)
        else
          let win := rowWindow w.core hi
          let bs := (toBytes win.2 th.v[v].toNat).take (tile.rbytes - win.1)
          (.done 1, h.setCore w.core (k.updTile t (fun x =>
            { x with data := setBytes (128 * th.rowOf d + win.1) bs x.data }))))) s

/-! ### Ports (R124 to R127) -/

/-- TSTATn. -/
def Tile.stat (t : Tile) : W32 :=
  w32 ((if t.empty then 0 else t.owner.val) * 2 ^ 30 + b2n (!t.empty) * 2 ^ 29 + t.rows * 2 ^ 23 + t.rbytes * 2 ^ 15
    + t.fmt.toNat * 2 ^ 11 + b2n t.inx * 1024 + b2n t.sat * 512 + b2n t.ract * 256 + b2n t.rdir * 128 + b2n t.rx * 64 + t.row)

/-- Read a tile port: TSTAT shows a register as it stood before a release of the same cycle (R125); TREL and TCUR read 0. -/
def tileRead (p : Nat) (k : Core) (cyc : Nat) : W32 :=
  let t := fin 8 (p - 0x640)
  if p < 0x648 then (if k.released[t].1 = cyc then k.released[t].2 else k.tiles[t]).stat else 0

/-- A thread's OUT to TREL: the release is made in the cycle after the first in which its registers are free, and the thread stalls
until then (R126). -/
def trelOut (w : Who) (v : W32) (h : Hw) : Ctl × Hw :=
  let mask := v.setWidth 8
  if (h.core w.core).trelLocked mask then
    (.stall .port 0, h.updCore w.core (fun k => { k with trelWait := k.trelWait.set w.thread (some mask) }))
  else (.done 1, h.trelSet w mask)

/-- The purlin write to TREL that can be released first, of those held at a core, and the cycle before its release. -/
def Core.trelNext (k : Core) (cyc : Nat) : Option (W32 × Nat) :=
  ((k.trelHeld.filter (fun v => !k.trelLocked (v.setWidth 8))).map (fun v => (v, k.trelFrom (v.setWidth 8) cyc))).foldl
    (fun best x => match best with
      | none => some x
      | some b => if x.2 < b.2 then some x else some b) none

/-- A purlin write to TREL held at a core is carried out in the cycle after the first in which its registers are free
(R126). -/
def purlinTrelRelease (c : CoreId) (h : Hw) : Hw :=
  match (h.core c).trelNext (h.cycle c) with
  | none => h
  | some (v, x) =>
    let h1 := (h.reachCycle c (x + 1)).caughtUp c
    h1.updCore c (fun k => { (k.trel (v.setWidth 8) (h1.cycle c)) with trelHeld := k.trelHeld.erase v })
/-- PURLIN_TREL_RELEASE. -/
def execPurlinTrelRelease (c : CoreId) (s : State) : Out := onHw (fun _ => purlinTrelRelease c) s

/-- A write to TCUR (R127). -/
def Core.tcur (k : Core) (v : W32) : Core :=
  let t : Fin 8 := fin 8 (fld v 16 3)
  if !v.getLsbD 31 || k.tiles[t].empty || k.tiles[t].rows ≤ fld v 0 6 then k
  else k.updTile t (fun x => { x with ract := v.getLsbD 8, rdir := v.getLsbD 7, rx := v.getLsbD 6, row := fld v 0 6 })

end Sys2Proof.Machine
end

