-- ==== Sys2Proof/Machine/Transfers.lean ====
section
/-!
DEFINITION. Slot-3 units and housing windows (R218 to R223, R254, R255), the transfer engines (R224 to R229), and units for
instruction memories (R227).
-/

namespace Sys2Proof.Machine

/-! ### What becomes of a unit (R222, R226, R255, R322) -/

/-- How a unit ended: performed, dropped at a housing, or stopped by an uncorrectable error. -/
inductive Settled where
  | ok | housing | memErr
  deriving DecidableEq, Repr

/-- The XRES code of an end (R229). -/
def Settled.code : Settled → Nat
  | .ok => 0
  | .housing => 6
  | .memErr => 7

/-- Change the requests of a transfer engine. -/
def Bent.updEngine (b : Bent) (e : Fin 4) (f : List XReq → List XReq) : Bent := { b with engines := b.engines.set e (f b.engines[e]) }

/-- A unit of a request has ended at a clock value, at which a failing one is known to the engine: of several failing ones the first
in ascending order counts (R226). -/
def XReq.settle (r : XReq) (unit : Nat) (code : Nat) (now : Nat) : XReq :=
  let failed := if code = 0 then r.failed
    else match r.failed with
      | some (c, at_) => if unit < at_ then some (code, unit) else some (c, at_)
      | none => some (code, unit)
  { r with open_ := r.open_.filter (· != unit), failed := failed, doneAt := max r.doneAt (now + 1)
           learned := if code = 0 then r.learned else if r.failed.isSome then min r.learned now else now }

/-- Change a cut of the Layout engine. -/
def Hw.updCut (h : Hw) (c : Nat) (f : Cut → Cut) : Hw :=
  match sget c h.le.cuts with
  | some x => { h with le := { h.le with cuts := sset c (f x) h.le.cuts } }
  | none => h

/-- A unit of a COPY or NET cut has ended at a clock value (R322, R394). -/
def Cut.settle (x : Cut) (unit code now : Nat) : Cut :=
  let fault := if code = 0 then x.fault
    else match x.fault with
      | some (c, at_) => if unit < at_ then some (code, unit) else some (c, at_)
      | none => some (code, unit)
  { x with open_ := x.open_.filter (· != unit), fault := fault, doneAt := max x.doneAt now
           learned := if code = 0 then x.learned else if x.fault.isSome then min x.learned now else now }

/-- A unit of a COPY or NET cut has ended; a failing one raises COPY_FAULT with its code (R322, R394). -/
def Hw.copySettle (h : Hw) (cut unit code now : Nat) : Hw :=
  let h1 := h.updCut cut (·.settle unit code now)
  if code = 0 then h1 else h1.leError 0x0E cut code

/-- A plate's records. -/
def Hw.recs (h : Hw) : Plate → PlateRecs
  | .west => h.recsWest
  | .east => h.recsEast
/-- Change a plate's records. -/
def Hw.updRecs (h : Hw) (p : Plate) (f : PlateRecs → PlateRecs) : Hw :=
  match p with
  | .west => { h with recsWest := f h.recsWest }
  | .east => { h with recsEast := f h.recsEast }

/-- A record enters a plate on a channel, from a source port (R340, R345). -/
def Hw.plateRecord (h : Hw) (p : Plate) (r : Rec) (vc : Fin 4) (port : Nat) (link : Option (Fin 8)) (rx : Nat := 0) : Hw :=
  h.updRecs p (fun x =>
    { x with inbox := x.inbox ++ [{ record := r, vc := vc, port := port, link := link, rx := rx, stamp := h.fcyc }] })

/-- A plate answers a remote record of a core with an ACK of COUNT 1 (R295, R339). -/
def Hw.ackRemote (h : Hw) (p : Plate) (smod sgcore : Nat) : Hw :=
  h.plateRecord p { kind := .ack, dmod := smod, smod := h.dom.num, bent := bentOf sgcore, core := coreIn sgcore, count := 1 } 1 6
    none

/-- The credit of an addressed unit, which is also its performance notice, returns from its target on the reply channel (R255, R272,
R294). -/
def Hw.unitCredit (h : Hw) (target : CoreId) (core : CoreId) (tenon : Fin 16) (epoch : Nat) (thread : Fin 4) : Hw :=
  let x := h.post (bentOf target) (bentOf core) 1 (h.clock + 8)
  { x.2 with credits := x.2.credits ++ [{ core := core, tenon := tenon, epoch := epoch, due := h.clock + tupleLatency target core,
                                          source := some target, flit := x.1, notice := some thread }] }

/-- The event of the tag of an addressed unit that has been written is raised in the cycle after (R240, R255). -/
def Hw.unitTag (h : Hw) (target : CoreId) (tag : BitVec 6) : Hw :=
  h.after (h.clock + 1) (.events ⟨target, fin 4 (tag.toNat / 16)⟩ (1#16 <<< (tag.toNat % 16)))

/-- A unit has ended at a clock value: its source is told (R222, R226, R255, R322). -/
def Hw.settleUnit (h : Hw) (target : CoreId) (o : Origin) (res : Settled) (now : Nat) : Hw :=
  match o with
  | .transfer b e req unit =>
    h.updBent b (·.updEngine e (fun q => q.map (fun r => if r.reqId = req then r.settle unit res.code now else r)))
  | .tuple core thread tenon epoch tag =>
    let h1 := if res = .ok then h.unitTag target tag else h
    h1.unitCredit target core tenon epoch thread
  | .remoteTuple p tag smod sgcore =>
    let h1 := if res = .ok then h.unitTag target tag else h
    h1.ackRemote p smod sgcore
  | .copy cut unit => h.copySettle cut unit res.code now
  | .ubt k epoch psn unit =>
    h.ubtPart k epoch psn unit (match res with
      | .ok => none
      | .housing => some 3
      | .memErr => some 5)
  | .none_ => h

/-! ### Drops (R222) -/

/-- A unit that entered through a plate was dropped: PLATE_DROP and REMOTE_DROP (R222, R387, R412). -/
def Hw.dropAtPlate (h : Hw) (p : Plate) (c : CoreId) (src off : Nat) : Hw :=
  (h.after (h.clock + 1) (.source (220 + plateNum p))).postEvent 0xCA 0
    [BitVec.ofNat 64 (c.val * 2 ^ 32 + src * 2 ^ 25 + off % 2 ^ 21)]

/-- The address of a scratchpad offset in the global address space (R9). -/
def scratchAddr (c off : Nat) : Nat := locScratch c off

/-- The sender's report of a dropped unit, in the cycle after its check. -/
def Hw.dropReport (h : Hw) (c : CoreId) (u : Unit3) : Hw :=
  let at_ := h.clock + 1
  match u.origin with
  | .transfer b e req unit =>
    match (h.bent b).engines[e].find? (fun r => r.reqId == req) with
    | some r =>
      match r.owner with
      | .thread w => h.after at_ (.dropOut w.core (r.dst + unit))
      | .stage _ => h
    | none => h
  | .tuple core _ _ _ _ => h.after at_ (.dropOut core (scratchAddr c u.off))
  | .remoteTuple p _ _ _ => h.dropAtPlate p c u.src u.off
  | .copy _ _ | .ubt _ _ _ _ => h.dropAtPlate (if u.src = 50 then .east else .west) c u.src u.off
  | .none_ => h

/-! ### Slot-3 units (R218, R221) -/

/-- A window admits a source (R221). -/
def Window.masks (x : Window) (src : Nat) : Bool :=
  if src < 32 then x.maskLo.getLsbD src
  else if src < 48 then x.maskHi.getLsbD (src - 32)
  else x.maskHi.getLsbD (src - 32)

/-- A unit of `n` bytes at an offset is admitted by some active window (R221). -/
def Core.admits (k : Core) (c : Nat) (src off n : Nat) : Bool :=
  decide (off + n ≤ spadSize c) && k.winActive.any (fun x =>
    x.maskHi.getLsbD 31 && x.masks src && decide (x.base ≤ off) && decide (off + n ≤ x.limit))

/-- The order of acceptance: injected earliest, then the lower source (R218). -/
def unitOrder (x y : Unit3) : Bool := x.injected < y.injected || (x.injected == y.injected && x.src ≤ y.src)

/-- The unit that a core accepts next, of those that have reached it, and the clock of that (R218). -/
def Core.unitNext (k : Core) (from_ : Nat) : Option (Unit3 × Nat) :=
  let us := k.unitQ.filter (fun u => u.accepted.isNone && u.flit == 0)
  match us with
  | [] => none
  | u :: rest =>
    let t := max from_ (rest.foldl (fun n x => min n x.due) u.due)
    (inOrder unitOrder (us.filter (fun x => decide (x.due ≤ t)))).head?.map (fun x => (x, t))

/-- The units that come over the mesh reach the core as far as they may be accepted next. -/
def unitLand (c : CoreId) : Nat → Hw → Hw
  | 0, h => h
  | fuel + 1, h =>
    let k := h.core c
    match h.landFirst ((k.unitQ.filter (·.flit != 0)).map (fun u => (u.flit, u.due))) ((k.unitNext (max k.unitFrom h.clock)).map (·.2)) with
    | none => h
    | some (n, at_, h1) =>
      unitLand c fuel (h1.updCore c (fun k => { k with unitQ := updFirst (·.flit == n) (fun u => { u with flit := 0, due := at_ }) k.unitQ }))

/-- A core accepts its next waiting unit, at most one per cycle, and checks a remote write against its active windows; a
dropped unit is reported at both ends in the cycle after (R218, R221, R222), and a unit for a core under reset is discarded without
report (R462). -/
def slot3UnitAccept (c : CoreId) (h : Hw) : Hw :=
  let h0 := unitLand c (h.core c).unitQ.length h
  match (h0.core c).unitNext (max (h0.core c).unitFrom h0.clock) with
  | none => h
  | some (u, t) =>
    let h1 := (h0.event t).caughtUp c
    let out := h1.updCore c (fun k => { k with unitQ := k.unitQ.erase u, unitFrom := t + 1 })
    if (h1.core c).held then out.settleUnit c u.origin .housing t
    else if u.remote && (u.bad || !(h1.core c).admits c u.src u.off u.data.length) then
      ((out.after (t + 1) (.dropIn c u.src u.off)).dropReport c u).settleUnit c u.origin .housing t
    else out.updCore c (fun k => { k with unitQ := k.unitQ ++ [{ u with accepted := some (h1.cycle c) }] })
/-- SLOT3_UNIT_ACCEPT. -/
def execSlot3UnitAccept (c : CoreId) (s : State) : Out := onHw (fun _ => slot3UnitAccept c) s

/-! ### Housing ports (R223) -/

/-- Read a housing port. -/
def housingRead (p : Nat) (k : Core) : W32 :=
  if p < 0x320 then
    let x := k.winShadow[fin 8 ((p - 0x300) / 4)]
    match p % 4 with
    | 0 => w32 x.base
    | 1 => w32 x.limit
    | 2 => x.maskLo
    | _ => x.maskHi
  else if p = 0x321 then k.hrdrop
  else if p = 0x322 then k.hsdrop.setWidth 32
  else if p = 0x323 then w32 (b2n k.hsdropMore * 2 ^ 31 + k.hsdrop.toNat / 2 ^ 32)
  else 0

/-- Write a housing register of a core. -/
def Core.housing (k : Core) (p : Nat) (v : W32) : Core :=
  if p < 0x320 then
    let n : Fin 8 := fin 8 ((p - 0x300) / 4)
    let x := k.winShadow[n]
    let y : Window := match p % 4 with
      | 0 => { x with base := (v &&& 0x1FFFF8#32).toNat }
      | 1 => { x with limit := (v &&& 0x3FFFF8#32).toNat }
      | 2 => { x with maskLo := v }
      | _ => { x with maskHi := v &&& 0x8007FFFF#32 }
    { k with winShadow := k.winShadow.set n y }
  else if p = 0x321 then if v.getLsbD 31 then { k with hrdrop := k.hrdrop &&& 0x7FFFFFFF#32 } else k
  else if p = 0x323 then if v.getLsbD 31 then { k with hsdropMore := false } else k
  else k

/-- Write a housing port: a commit makes the shadow windows those of the checks of later cycles (R223). -/
def housingWrite (c : CoreId) (p : Nat) (v : W32) (h : Hw) : Hw :=
  if p = 0x320 then if v.getLsbD 0 then h.after h.clock (.windows c (h.core c).winShadow) else h
  else h.updCore c (·.housing p v)

/-! ### Submitting a transfer (R224, R225) -/

/-- A resolved range of a transfer. -/
inductive XLoc where
  | scratch (core off : Nat)
  | shared (b off : Nat)
  | ridge (off : Nat)
  | ext (v : Nat)
  | imem (core addr : Nat)
  | bad
  deriving DecidableEq, Repr

/-- The scratchpad of one core that holds `n` bytes at an address (R9). -/
def coreScratch (addr n : Nat) : Option (Nat × Nat) :=
  let x := addr - 0x002000000000
  let b := x / 0x08000000
  let c := x % 0x08000000 / 0x00200000
  let off := x % 0x00200000
  if 0x002000000000 ≤ addr ∧ b < 48 ∧ c < 44 ∧ off + n ≤ spadSize (44 * b + c) then some (44 * b + c, off) else none

/-- Where a range of a transfer of a core lies (R225). -/
def xlocate (home : CoreId) (addr n : Nat) (dst : Bool) : XLoc :=
  match locate home addr n with
  | .scratch off => .scratch home off
  | .shared b off => .shared b off
  | .ridge off => .ridge off
  | .ext v => .ext v
  | .bad =>
    match coreScratch addr n with
    | some (c, off) => if dst then .scratch c off else .bad
    | none => .bad

/-- The fields of XCTL. -/
def xctlEng (v : W32) : Fin 4 := fin 4 (fld v 0 2)
def xctlEvt (v : W32) : Fin 16 := fin 16 (fld v 4 4)
def xctlEven (v : W32) : Bool := v.getLsbD 8
def xctlDcore (v : W32) : Nat := fld v 9 6
def xctlDspace (v : W32) : Bool := v.getLsbD 15

/-- The destination of a request: instruction memory of a core of the bent with DSPACE = 1 (R227). -/
def xdest (home : CoreId) (dspace : Bool) (dcore dst n : Nat) : XLoc :=
  if dspace then
    let c := 44 * bentOf home + dcore
    if dcore < 44 ∧ dst + n ≤ imemSize c then .imem c dst else .bad
  else xlocate home dst n true

/-- The *Transfer checks* in order (R225): the code of the first that fails. -/
def xcheck (home : CoreId) (mode : Bool) (src dst len : Nat) (dspace : Bool) (dcore : Nat) : Option Nat :=
  let s := xlocate home src len false
  let d := xdest home dspace dcore dst len
  let ridge := fun (x : XLoc) => match x with
    | .ridge _ => true
    | _ => false
  if !mode && (dspace || ridge s || ridge d) then some 1
  else if src % 8 ≠ 0 ∨ dst % 8 ≠ 0 ∨ len % 8 ≠ 0 ∨ len = 0 then some 2
  else if s = .bad ∨ d = .bad then some 3
  else none

/-- A request in an engine comes behind one that reached it earlier, or in the same cycle: then threads' requests go by global core
number, and before staging requests (R224, R320). -/
def XReq.behind (x r : XReq) : Bool :=
  decide (r.submitted < x.submitted) || (x.submitted == r.submitted &&
    match x.owner, r.owner with
    | .stage _, .thread _ => true
    | .thread a, .thread b => decide (b.core < a.core)
    | _, .stage _ => false)

/-- Put a request in its place among those of an engine. -/
def placeReq (r : XReq) (q : List XReq) : List XReq :=
  q.takeWhile (fun x => !x.behind r) ++ r :: q.dropWhile (fun x => !x.behind r)

/-- Enter a request at an engine at a clock value (R224). -/
def Hw.xenter (h : Hw) (b : Nat) (e : Fin 4) (r : XReq) (now : Nat) : Hw :=
  h.updBent b (fun x =>
    { (x.updEngine e (placeReq { r with reqId := x.xferSerial, submitted := now, from_ := now + 1 })) with
      xferSerial := x.xferSerial + 1 })

/-- The staging requests that have reached engine 3 of a bent by a clock value enter it, as long as it has room (R224, R320;
log entry 39). -/
def stageIn (b t : Nat) : Nat → Hw → Hw
  | 0, h => h
  | fuel + 1, h =>
    match (h.bent b).stageQ with
    | r :: rest =>
      if r.submitted ≤ t ∧ (h.bent b).engines[(3 : Fin 4)].length < 16 then
        stageIn b t fuel ((h.updBent b (fun x => { x with stageQ := rest })).xenter b 3 r (max r.submitted h.clock))
      else h
    | [] => h

/-- The staging requests that have reached a bent by now enter its engine 3. -/
def Hw.staged (h : Hw) (b : Nat) : Hw := stageIn b h.clock (h.bent b).stageQ.length h

/-- An idle engine 3 takes up the first staging request that is on its way to it. -/
def Hw.stagedNext (h : Hw) (b : Nat) : Hw :=
  match (h.bent b).engines[(3 : Fin 4)], (h.bent b).stageQ with
  | [], r :: _ => stageIn b (max r.submitted h.clock) (h.bent b).stageQ.length h
  | _, _ => h.staged b

/-- A submission of a thread is refused (R224). -/
def Thread.xrefuse (th : Thread) (why : BitVec 2) : Thread := { th with xwhy := why }
/-- A submission is taken: it counts against ALLOW and has a sequence number (R224, R229). -/
def Thread.xtake (th : Thread) : Thread :=
  { th with xallow := th.xallow - 1, xseq := (th.xseq + 1) % 65536, xwhy := 0, xoutstanding := th.xoutstanding + 1 }
/-- A submission taken in this cycle is refused after all: another core's, taken before it, leaves no room (R224). -/
def Thread.xuntake (th : Thread) : Thread :=
  { th with xallow := th.xallow + 1, xseq := (th.xseq + 65535) % 65536, xwhy := 2, xoutstanding := th.xoutstanding - 1 }

/-- The last request of a full engine gives way to one that reached it in the same cycle and is taken before it (R224). -/
def Hw.xgiveWay (h : Hw) (b : Nat) (e : Fin 4) : Hw :=
  match (h.bent b).engines[e].getLast? with
  | none => h
  | some y =>
    let h1 := h.updBent b (·.updEngine e List.dropLast)
    match y.owner with
    | .thread w => h1.updThread w Thread.xuntake
    | .stage _ => h1.updBent b (fun x => { x with stageQ := y :: x.stageQ })

/-- An OUT to XRING: the request registers are submitted (R224, R225). -/
def xring (w : Who) (mode : Bool) (h0 : Hw) : Hw :=
  let b := bentOf w.core
  let h := h0.staged b
  let th := h.thread w
  let e := xctlEng th.xctl
  let r : XReq :=
    { owner := .thread w, reqId := 0, home := w.core, src := th.xsrc.toNat, dst := th.xdst.toNat, len := th.xlen.toNat,
      dspace := xctlDspace th.xctl, dcore := xctlDcore th.xctl, even := xctlEven th.xctl, evt := xctlEvt th.xctl,
      seq := th.xseq, submitted := h.clock }
  let q := (h.bent b).engines[e]
  let full := decide (16 ≤ q.length)
  if th.xallow = 0 then h.updThread w (·.xrefuse 1)
  else if full && !q.any (·.behind r) then h.updThread w (·.xrefuse 2)
  else
    let h1 := h.updThread w Thread.xtake
    match xcheck w.core mode r.src r.dst r.len r.dspace r.dcore with
    | some code =>
      h1.after (h.clock + 1) (.xresult w { seq := th.xseq, code := code, eng := e, bytes := 0 } (if r.even then some r.evt else none))
    | none => (if full then h1.xgiveWay b e else h1).xenter b e r h1.clock

/-- A staging request is on its way to engine 3 of its bent, which it reaches at the clock of its submission (R320). -/
def Hw.stageEnter (h : Hw) (r : XReq) : Hw := h.updBent (bentOf r.home) (fun x => { x with stageQ := x.stageQ ++ [r] })

/-! ### Executing a transfer (R226 to R228, R298) -/

/-- How the bytes of a range are reached. -/
def xpath (loc : XLoc) (n : Nat) (tr : Nat → Hw → Xlat × Hw) (h : Hw) : RowPath × Hw :=
  match loc with
  | .scratch c off => (.scratch (locScratch c off), h)
  | .shared b off => (.cache (pieces (locShared b off) n), h)
  | .ridge off => (.scratch (locRidge off), h)
  | .ext v => pagePieces tr v n h
  | .imem c a => (.scratch (locImem c a), h)
  | .bad => (.fault excDataRegion, h)

/-- The XRES code of a page fault (R405). -/
def pageCode (exc : Nat) : Nat := if exc = excPageAbsent then 4 else 5

/-- The destination of a unit takes it, sent at a clock value: the slot-3 queue of a core, an instruction memory's, a slice, a
controller, or Ridge SRAM, where its bytes are there from then on (log entry 85). -/
def xwrite (loc : XLoc) (p : RowPath) (src port home : Nat) (remote : Bool) (o : Origin) (bs : List Byte) (now : Nat) (m : Mem)
    (h : Hw) : Mem × Hw :=
  match loc, p with
  | .scratch c off, _ =>
    let x := h.post home (bentOf c) 0 now
    (m, x.2.updCore c (fun k =>
      { k with unitQ := k.unitQ ++ [{ src := src, off := off, data := bs, remote := remote, origin := o, injected := now
                                      due := now + meshTime home (bentOf c), flit := x.1 }] }))
  | .imem c a, _ =>
    let x := h.post home (bentOf c) 0 now
    (m, x.2.updCore c (fun k =>
      { k with imemQ := k.imemQ ++ [{ src := src, addr := a, data := bs, origin := o, injected := now
                                      due := now + meshTime home (bentOf c), flit := x.1 }] }))
  | .ridge off, _ =>
    let x := h.carry home ridgeRouter 0 now
    (ridgeBytes off bs m, x.2.settleUnit 0 o .ok x.1)
  | _, .cache ((l, _) :: _) => (m, h.requestAt home port (l / 64) (some (offsFrom (l % 64) bs)) (.origin o) now)
  | _, _ => (m, h)

/-- Ask for the source bytes of a unit at a clock value: in slot 3 of a scratchpad, from Ridge SRAM, or line by line from slices and
controllers. It answers the unit with what is known of it (R217, R226, R280). -/
def unitAsk (src port home : Nat) (mk : Nat → ReqOwner) (o : Origin) (loc : XLoc) (p : RowPath) (u : XUnit) (now : Nat) (m : Mem)
    (h : Hw) : XUnit × Hw :=
  match loc, p with
  | .scratch c off, _ =>
    ({ u with pieces := 1 }, h.updCore c (fun k =>
      { k with unitQ := k.unitQ ++ [{ src := src, off := off, data := [], reads := u.n, remote := false, origin := o
                                      injected := now, due := now }] }))
  | .ridge off, _ =>
    let x := (h.postAuto home ridgeRouter 0 now).carry ridgeRouter home 1 (now + meshTime home ridgeRouter + 180)
    ({ u with pieces := 1, got := [(0, memReadN (locRidge off) u.n m)], due := x.1 }, x.2)
  | _, .cache ps =>
    ({ u with pieces := ps.length },
      ((List.range ps.length).zip ps).foldl (fun h q => h.requestAt home port (q.2.1 / 64) none (mk q.1) now) h)
  | _, _ => (u, h)

/-- The bytes of a unit, once all of its pieces have been read. -/
def XUnit.bytes (u : XUnit) : List Byte := (List.range u.pieces).flatMap (fun i => sgetD i [] u.got)

/-- All pieces of a unit have been read. -/
def XUnit.whole (u : XUnit) : Bool := u.got.length == u.pieces

/-- A piece of a unit has been read; its data arrives at a clock value. -/
def XUnit.take (u : XUnit) (piece : Nat) (bs : List Byte) (err : Bool) (due : Nat) : XUnit :=
  { u with got := sset piece bs u.got, err := u.err || err, due := max u.due due }

/-- The part of a line that a piece of a range covers; the piece of one line is the whole range. -/
def pieceBytes (p : RowPath) (piece : Nat) (line : List Byte) : List Byte :=
  match p with
  | .cache ps =>
    match ps[piece]? with
    | some (loc, n) => (line.drop (loc % 64)).take n
    | none => []
  | _ => line

/-- The units of a list that a further one need not wait for: their data has arrived by a clock value. -/
def unarrived (us : List XUnit) (now : Nat) : List XUnit := us.filter (fun u => !u.sent || decide (now < u.due))

/-- The first clock value, from one on, at which fewer than 256 units are being read (R280, R322); none while that is not known. -/
def readTurn (us : List XUnit) (now : Nat) : Option Nat :=
  if (unarrived us now).length < 256 then some now
  else
    match (us.filter (·.sent)).map (·.due) with
    | [] => none
    | d :: rest => some (max now (rest.foldl min d))

/-- The first request of an engine. -/
def Bent.xhead (b : Bent) (e : Fin 4) : Option XReq := b.engines[e].head?

/-- Change the request of an engine that has a number. -/
def Hw.updXreq (h : Hw) (b : Nat) (e : Fin 4) (req : Nat) (f : XReq → XReq) : Hw :=
  h.updBent b (·.updEngine e (fun q => q.map (fun r => if r.reqId = req then f r else r)))

/-- Change a unit of a request. -/
def XReq.updUnit (r : XReq) (unit : Nat) (f : XUnit → XUnit) : XReq :=
  { r with reading := updFirst (·.off == unit) f r.reading }

/-- A unit whose source has been read whole is passed on to its destination when its data arrives, or fails (R226). -/
def xpass (b : BentId) (e : Fin 4) (r : XReq) (u : XUnit) (m : Mem) (h : Hw) : Mem × Hw :=
  let h1 := h.updXreq b e r.reqId (·.updUnit u.off (fun u => { u with sent := true, got := [] }))
  if u.err then (m, h1.updXreq b e r.reqId (·.settle u.off 7 u.due))
  else
    let dst := xdest r.home r.dspace r.dcore (r.dst + u.off) u.n
    let remote := match dst with
      | .scratch c _ => c != r.home
      | _ => false
    xwrite dst u.dst b (44 + e.val) b remote (.transfer b e r.reqId u.off) u.bytes u.due m h1

/-- A piece of a unit of an engine has been read. -/
def xfill (b : BentId) (e : Fin 4) (req unit piece : Nat) (bs : List Byte) (err : Bool) (due : Nat) (m : Mem) (h : Hw) : Mem × Hw :=
  let h1 := h.updXreq b e req (·.updUnit unit (·.take piece bs err due))
  match (h1.bent b).engines[e].find? (fun r => r.reqId == req) with
  | none => (m, h)
  | some r =>
    match r.reading.find? (fun u => u.off == unit) with
    | some u => if u.whole && !u.sent then xpass b e r u m h1 else (m, h1)
    | none => (m, h)

/-- Issue the next unit of a request: split at 64-byte boundaries of the destination, its pages translated, its source read
(R226, R298). -/
def xissue (b : BentId) (e : Fin 4) (r : XReq) (m : Mem) (h : Hw) : Mem × Hw :=
  let tr := fun (acc : Acc) (v : Nat) (h : Hw) => h.translate b acc v r.tried
  let off := r.next
  let now := h.clock
  let n := min (64 - (r.dst + off) % 64) (r.len - off)
  let src := xlocate r.home (r.src + off) n false
  let dst := xdest r.home r.dspace r.dcore (r.dst + off) n
  let fail := fun (code : Nat) (h : Hw) => h.updXreq b e r.reqId (fun r => r.settle off code now)
  let again := fun (h : Hw) => h.updXreq b e r.reqId (fun r => { r with tried := true })
  let s := xpath src n (tr (if r.dspace then .code else .read)) h
  match s.1 with
  | .fault exc => (m, fail (pageCode exc) s.2)
  | .walk => (m, again s.2)
  | sp =>
    let d := xpath dst n (tr .write) s.2
    match d.1 with
    | .fault exc => (m, fail (pageCode exc) d.2)
    | .walk => (m, again d.2)
    | dp =>
      let x := unitAsk b (44 + e.val) b (.engine b e r.reqId off) (.transfer b e r.reqId off) src sp
        { off := off, n := n, src := sp, dst := dp, pieces := 0 } now m d.2
      let h1 := x.2.updXreq b e r.reqId (fun r =>
        { r with next := off + n, open_ := off :: r.open_, reading := unarrived r.reading now ++ [x.1], tried := false, from_ := now + 1 })
      if x.1.whole then xpass b e r x.1 m h1 else (m, h1)

/-- The engine issues the next unit of the request it executes, at most one per cycle and with at most 256 being read; none once it
has learnt of a failure, and none while the device is frozen (R226, R280, R472). -/
def transferUnitIssue (b : BentId) (e : Fin 4) (m : Mem) (h0 : Hw) : Mem × Hw :=
  let h := h0.stagedNext b
  match (h.bent b).xhead e with
  | none => (m, h)
  | some r =>
    match readTurn r.reading (max h.clock r.from_) with
    | none => (m, h)
    | some t =>
      if h.devFrozen || (r.failed.isSome && decide (r.learned ≤ t)) || r.len ≤ r.next then (m, h) else xissue b e r m (h.event t)
/-- TRANSFER_UNIT_ISSUE. -/
def execTransferUnitIssue (b : BentId) (e : Fin 4) (s : State) : Out := onMem (transferUnitIssue b e) s

/-! ### Units at their cores (R217, R218, R227) -/

/-- A row of a tile move on the scratchpad path is still to move by a CYCLE value: its slot of the frame comes first (R217). -/
def Core.rowDue (k : Core) (c : CoreId) (cyc : Nat) : Bool :=
  match k.tileMove with
  | some mv =>
    decide (mv.last < cyc) &&
      match locate c (mv.addr mv.row) (mv.rowBytes k.tiles[mv.t]) with
      | .scratch _ => true
      | _ => false
  | none => false

/-- The oldest accepted unit is read or written whole in slot 3 of the frame after that of its acceptance (R217, R218); at a frozen
core it waits (R471). -/
def slot3UnitWrite (c : CoreId) (m : Mem) (h : Hw) : Mem × Hw :=
  let k := h.core c
  match k.unitQ.find? (·.accepted.isSome) with
  | none => (m, h)
  | some u =>
    let cyc := 4 * (u.accepted.getD 0 / 4 + 1) + 3
    if k.frozenAt.isSome || k.rowDue c (max cyc (h.cycle c)) then (m, h)
    else
      let h1 := (h.coreEvent c cyc).updCore c (fun k => { k with unitQ := k.unitQ.erase u })
      if u.reads = 0 then
        let r := h1.frameAct c (.write 3 (locScratch c u.off) u.data) m
        (r.1, r.2.settleUnit c u.origin .ok h1.clock)
      else
        match u.origin with
        | .transfer b e req unit => xfill b e req unit 0 (memReadN (locScratch c u.off) u.reads m) false h1.clock m h1
        | _ => (m, h1)
/-- SLOT3_UNIT_WRITE. -/
def execSlot3UnitWrite (c : CoreId) (s : State) : Out := onMem (slot3UnitWrite c) s

/-- The instruction-memory unit that a core accepts next, of those that have reached it, and the clock of that (R227). -/
def Core.imemNext (k : Core) (from_ : Nat) : Option (ImemUnit × Nat) :=
  let order := fun (x y : ImemUnit) => decide (x.injected < y.injected) || (x.injected == y.injected && decide (x.src ≤ y.src))
  match k.imemQ.filter (·.flit == 0) with
  | [] => none
  | u :: rest =>
    let t := max from_ (rest.foldl (fun n x => min n x.due) u.due)
    (inOrder order ((u :: rest).filter (fun x => decide (x.due ≤ t)))).head?.map (fun x => (x, t))

/-- The instruction-memory units that come over the mesh reach the core as far as they may be accepted next. -/
def imemLand (c : CoreId) : Nat → Hw → Hw
  | 0, h => h
  | fuel + 1, h =>
    let k := h.core c
    match h.landFirst ((k.imemQ.filter (·.flit != 0)).map (fun u => (u.flit, u.due))) ((k.imemNext (max k.imemFrom h.clock)).map (·.2)) with
    | none => h
    | some (n, at_, h1) =>
      imemLand c fuel (h1.updCore c (fun k => { k with imemQ := updFirst (·.flit == n) (fun u => { u with flit := 0, due := at_ }) k.imemQ }))

/-- A core accepts and writes its next waiting instruction-memory unit, one per cycle (R227). -/
def imemUnitWrite (c : CoreId) (m : Mem) (h : Hw) : Mem × Hw :=
  let h0 := imemLand c (h.core c).imemQ.length h
  match (h0.core c).imemNext (max (h0.core c).imemFrom h0.clock) with
  | none => (m, h)
  | some (u, t) =>
    let h1 := (h0.event t).updCore c (fun k => { k with imemQ := k.imemQ.erase u, imemFrom := t + 1 })
    if (h1.core c).held then (m, h1.settleUnit c u.origin .housing t)
    else (memWriteN (locImem c u.addr) u.data m, h1.settleUnit c u.origin .ok t)
/-- IMEM_UNIT_WRITE. -/
def execImemUnitWrite (c : CoreId) (s : State) : Out := onMem (imemUnitWrite c) s

/-! ### The end of a request (R226, R228, R320) -/

/-- The request of an engine leaves it with a code and byte count: to its thread, or over the mesh to the Layout engine. A failing
unit's request raises the event that it asked for too (DESIGN CHOICE, log entry 92). -/
def Hw.xend (h : Hw) (b : BentId) (e : Fin 4) (r : XReq) (code bytes : Nat) : Hw :=
  let h1 := ((h.event (max r.doneAt r.learned)).updBent b (·.updEngine e (fun q => q.drop 1))).staged b
  match r.owner with
  | .thread w => h1.applyLater (.xresult w { seq := r.seq, code := code, eng := e, bytes := bytes } (if r.even then some r.evt else none))
  | .stage cut =>
    let y := h1.carry b ridgeRouter 2 h1.clock
    y.2.updCut cut (fun x =>
      { x with stageOpen := x.stageOpen - 1, doneAt := max x.doneAt y.1
               stageFail := if code = 0 then x.stageFail else x.stageFail.orElse (fun _ => some code) })

/-- A request completes in the cycle after its last unit has been performed (R228). -/
def transferComplete (b : BentId) (e : Fin 4) (h : Hw) : Hw :=
  match (h.bent b).xhead e with
  | none => h
  | some r => if r.failed.isNone && decide (r.len ≤ r.next) && r.open_.isEmpty then h.xend b e r 0 r.len else h
/-- TRANSFER_COMPLETE. -/
def execTransferComplete (b : BentId) (e : Fin 4) (s : State) : Out := onHw (fun _ => transferComplete b e) s

/-- A request that failed at a unit ends once every unit it issued has ended; its byte count is that of the units before the
failing one (R226, R229). -/
def transferFail (b : BentId) (e : Fin 4) (h : Hw) : Hw :=
  match (h.bent b).xhead e with
  | none => h
  | some r =>
    match r.failed with
    | some (code, at_) => if r.open_.isEmpty then h.xend b e r code at_ else h
    | none => h
/-- TRANSFER_FAIL. -/
def execTransferFail (b : BentId) (e : Fin 4) (s : State) : Out := onHw (fun _ => transferFail b e) s

/-! ### Transfer ports (R229) -/

/-- XSTAT of a thread: a submission of the same cycle is not counted (R229). -/
def xstat (h : Hw) (w : Who) : W32 :=
  let th := h.thread w
  let x := h.bent (bentOf w.core)
  let before := fun (r : XReq) => decide (r.submitted < h.clock)
  let staged := (x.stageQ.filter before).length
  let free := fun (e : Fin 4) => 16 - ((x.engines[e].filter before).length + (if e = 3 then staged else 0))
  w32 (b2n (th.xwhy != 0) * 2 ^ 31 + th.xwhy.toNat * 2 ^ 29 + th.xallow * 2 ^ 20 + free 3 * 2 ^ 15 + free 2 * 2 ^ 10
    + free 1 * 2 ^ 5 + free 0)

/-- XRES of a result. -/
def XResult.port (r : XResult) : W32 := w32 (2 ^ 31 + r.code * 2 ^ 24 + r.eng.val * 2 ^ 16 + r.seq)

/-- A read of XRES: a thread's removes the oldest result, latches its byte count and increments ALLOW (R229); a purlin's
leaves the queue (R496). -/
def xresRead (ag : Agent) (c : CoreId) (h : Hw) : W32 × Hw :=
  let w : Who := ⟨c, ag.t⟩
  match (h.thread w).xres, ag with
  | [], .thread _ => (0, h.updThread w (fun th => { th with xresDone := 0 }))
  | [], .purlin => (0, h)
  | r :: _, .purlin => (r.port, h)
  | r :: rest, .thread _ =>
    (r.port, h.updThread w (fun th => { th with xres := rest, xresDone := w32 r.bytes, xallow := th.xallow + 1 }))

/-- Read a transfer port. -/
def xferRead (ag : Agent) (c : CoreId) (p : Nat) (h : Hw) : W32 × Hw :=
  let w : Who := ⟨c, ag.t⟩
  let th := h.thread w
  match p with
  | 0xA00 => (th.xsrc.setWidth 32, h)
  | 0xA01 => ((th.xsrc >>> 32).setWidth 32, h)
  | 0xA02 => (th.xdst.setWidth 32, h)
  | 0xA03 => ((th.xdst >>> 32).setWidth 32, h)
  | 0xA04 => (th.xlen, h)
  | 0xA05 => (th.xctl, h)
  | 0xA07 => (xstat h w, h)
  | 0xA08 => xresRead ag c h
  | 0xA09 => (th.xresDone, h)
  | _ => (0, h)

/-- Replace the low or the high part of a 48-bit address. -/
def setLo48 (x : W64) (v : W32) : W64 := BitVec.ofNat 64 (x.toNat / 2 ^ 32 * 2 ^ 32 + v.toNat)
def setHi48 (x : W64) (v : W32) : W64 := BitVec.ofNat 64 (v.toNat % 2 ^ 16 * 2 ^ 32 + x.toNat % 2 ^ 32)

/-- Write a transfer port. -/
def xferWrite (ag : Agent) (c : CoreId) (p : Nat) (v : W32) (h : Hw) : Hw :=
  let w : Who := ⟨c, ag.t⟩
  match p with
  | 0xA00 => h.updThread w (fun th => { th with xsrc := setLo48 th.xsrc v })
  | 0xA01 => h.updThread w (fun th => { th with xsrc := setHi48 th.xsrc v })
  | 0xA02 => h.updThread w (fun th => { th with xdst := setLo48 th.xdst v })
  | 0xA03 => h.updThread w (fun th => { th with xdst := setHi48 th.xdst v })
  | 0xA04 => h.updThread w (fun th => { th with xlen := v })
  | 0xA05 => h.updThread w (fun th => { th with xctl := v &&& 0xFFF3#32 })
  | 0xA06 =>
    let mode := match ag with
      | .thread t => (h.thread ⟨c, t⟩).mode
      | .purlin => true
    xring w mode h
  | _ => h

end Sys2Proof.Machine
end

