-- ==== Sys2Proof/Machine/Links.lean ====
section
/-!
DEFINITION. The scarf links (R334 to R343), the forwarding of records by the plates (R344 to R348) and remote routes (R256,
R295, R296), and the drawbore combiner (R355).
-/

namespace Sys2Proof.Machine

/-! ### Links and their states (R336, R337) -/

/-- A link. -/
def Hw.link (h : Hw) (l : Fin 8) : Link := h.links[l]
/-- Change a link. -/
def Hw.updLink (h : Hw) (l : Fin 8) (f : Link → Link) : Hw := { h with links := h.links.set l (f h.links[l]) }
/-- LCTRL.EN. -/
def Link.en (l : Link) : Bool := l.ctrl.getLsbD 31
/-- The link is UP. -/
def Link.isUp (l : Link) : Bool := l.state == .up

/-- A link enters a state: a change raises LINK_STATE (R412). Training begins with TRAIN (R336). -/
def Hw.setLinkState (h : Hw) (l : Fin 8) (st : LState) : Hw :=
  if (h.link l).state = st then h
  else
    (h.updLink l (fun x =>
      { x with state := st, since := if st = .train then h.clock else x.since, idents := 0 })).raiseSource (192 + l.val)

/-- LDOWN of a link (R365). -/
def Link.ldown (l : Link) : W32 := w32 (l.downCause.toNat * 2 ^ 28 + l.downCount.toNat)

/-- The record kinds that a loss is reported for (R296, R345). -/
def Rec.counts (r : Rec) : Bool := r.kind == .tuple || r.kind == .addr

/-- A record has been lost: a LOST record with COUNT 1 goes back to its sending core (R296, R345). -/
def Hw.loseRecord (h : Hw) (p : Plate) (r : Rec) : Hw :=
  if r.counts then
    h.plateRecord p
      { kind := .lost, dmod := r.smod, smod := h.dom.num, bent := bentOf r.sgcore, core := coreIn r.sgcore, count := 1 } 1 6 none
  else h

/-- The initial credits of a sender: bulk, reply, control, sync (R339). -/
def linkBuffers : Vector Nat 4 := #v[512, 512, 64, 32]

/-- A link as it enters UP, or forgets what it was doing: numbers, credits, queues and totals at their start. ACKSEQ is 4,095,
the number before the first, until a block has been accepted, for which the manual gives no value (DESIGN CHOICE, log
entry 93). -/
def Link.fresh (l : Link) : Link :=
  { l with seq := 0, eseq := 0, acked := 4095, replayBuf := [], resend := none, credits := linkBuffers,
           freed := Vector.replicate 4 0, peerFreed := Vector.replicate 4 0, queues := Vector.replicate 4 [], syncQ := [],
           flit := none, nakDue := false, nakOpen := false, naks := 0, invalidRun := 0,
           rxBlocks := Vector.replicate 4 (0, 0), rxFlits := Vector.replicate 4 [] }

/-- A link whose power goes: it is DOWN and out of the combine set (R424). -/
def Link.dark (l : Link) : Link :=
  { l.fresh with state := .down, combine := false, idents := 0, downCount := l.downCount + (if l.state = .up then 1 else 0) }

/-! ### Receive buffers (R338, R339) -/

/-- A receive buffer of a channel has been freed (R338). -/
def Link.free1 (l : Link) (vc : Fin 4) : Link := { l with freed := l.freed.set vc ((l.freed[vc] + 1) % 64) }

/-- A block or a record of a received flit needs its buffer no more; with the last of them the buffer is freed. -/
def Link.flitPart (l : Link) (vc : Fin 4) (n : Nat) : Link :=
  match sget n l.rxFlits[vc] with
  | none => l
  | some 1 => { l with rxFlits := l.rxFlits.set vc (sdel n l.rxFlits[vc]) }.free1 vc
  | some k => { l with rxFlits := l.rxFlits.set vc (sset n (k - 1) l.rxFlits[vc]) }

/-- A record leaves the plate: the buffer of the flit that brought it over a link. -/
def Hw.leave (h : Hw) (q : Queued) : Hw :=
  match q.link with
  | some l => h.updLink l (·.flitPart q.vc q.rx)
  | none => h

/-- An accepted flit block: the first takes a buffer for the four blocks of its flit; a block without a record needs its part no
more (R339). It answers the number of the flit. -/
def Link.flitBlock (l : Link) (vc : Fin 4) (has : Bool) : Nat × Link :=
  let first := l.rxBlocks[vc].2 = 0
  let n := if first then l.rxCount + 1 else l.rxBlocks[vc].1
  let l1 := if first then { l with rxCount := n, rxFlits := l.rxFlits.set vc (sset n 4 l.rxFlits[vc]) } else l
  let l2 := { l1 with rxBlocks := l1.rxBlocks.set vc (n, (l.rxBlocks[vc].2 + 1) % 4) }
  (n, if has then l2 else l2.flitPart vc n)

/-! ### Snapshots drain (R361) -/

/-- The core a record names; a number no bent has names none. -/
def Rec.target (r : Rec) : Option CoreId := if r.bent < 48 ∧ r.core < 44 then some (coreId (44 * r.bent + r.core)) else none

/-- A record is held for a full mortise (R361). -/
def Hw.heldFull (h : Hw) (q : Queued) : Bool :=
  match q.record.target with
  | some c => decide (8 ≤ ((h.core c).mortises[fin 16 q.record.mort]).length)
  | none => false

/-- SNAP_DONE is due: the snapshot has frozen the device, no data block waits unacknowledged, and no record waits in the
plates except for a full mortise (R361). -/
def Hw.snapDrained (h : Hw) : Bool :=
  let quiet := fun (x : PlateRecs) => x.inbox.isEmpty && x.flying.isEmpty && x.held.all h.heldFull
  h.dom.snapFrozen && quiet h.recsWest && quiet h.recsEast &&
    h.links.all (fun l => l.replayBuf.all (fun b => b.bt == 2) && l.queues.all (·.isEmpty) && l.flit.isNone)

/-- Note a drained snapshot (R361, R412). -/
def Hw.snapCheck (h : Hw) : Hw :=
  if h.snapDrained && !h.dom.snapDone then ({ h with dom := { h.dom with snapDone := true } }).raiseSource 236 else h

/-! ### DOWN (R296, R337) -/

/-- The beat lock is lost: BEAT_LOST to the firmware and the host (R351, R387, R412). -/
def Hw.beatLost (h : Hw) : Hw :=
  if h.dom.beatLock then
    (({ h with dom := { h.dom with beatLock := false, locked := 0 } }).raiseSource 233).postEvent 0xC5 0 [BitVec.ofNat 64 h.dom.beat]
  else h

/-- The parent link of a member that is not the root (R350). -/
def Domain.parent (d : Domain) : Option (Fin 8) := if d.root then none else some (fin 8 (fld d.param 8 3))

/-- A link goes DOWN with a cause (R296, R337): the records of its replay buffer are lost, and with them those it has still to
send; it leaves the combine set, and it trains again while EN is 1. -/
def Hw.linkDown (h0 : Hw) (l : Fin 8) (cause : Nat) : Hw :=
  let x := h0.link l
  let queued := x.queues.toList.flatten
  let lost := x.replayBuf.flatMap (·.recs) ++ ((x.flit.map (·.2)).getD []).filterMap id ++ queued.map (·.record)
  let h := queued.foldl (·.leave) h0
  let h1 := (h.updLink l (fun x =>
    { x.fresh with downCause := BitVec.ofNat 4 cause, downCount := x.downCount + 1, combine := false })).setLinkState l .down
  let h2 := lost.foldl (fun h r => h.loseRecord (linkPlate l) r) h1
  let h3 := h2.postEvent 0xC8 l.val [(h2.link l).ldown.setWidth 64]
  let h4 := if h3.dom.joined && h3.dom.parent == some l then h3.beatLost else h3
  (if x.en then h4.setLinkState l .train else h4).snapCheck

/-- A write of LCTRL: EN takes a DOWN link to TRAIN, and a link whose EN is cleared to DOWN, with cause 1 (R336, R337, R365). -/
def linkEnable (l : Fin 8) (v : W32) (h : Hw) : Hw :=
  let down := (h.link l).state == .down
  let h1 := h.updLink l (fun x => { x with ctrl := v &&& 0xE7800000#32 })
  if v.getLsbD 31 then if down then h1.setLinkState l .train else h1
  else if down then h1 else h1.linkDown l 1
/-- LINK_ENABLE. -/
def execLinkEnable (l : Fin 8) (v : BitVec 32) (s : State) : Out := onHw (fun _ h => linkEnable l v h.access) s

/-- Training ends: the link enters ALIGN (R336). -/
def execLinkTrainingEnd (l : Fin 8) (s : State) : Out :=
  onEvent (fun h => if (h.link l).state = .train then h.setLinkState l .align else h) s

/-- A link not UP 200 ms after EN was set goes DOWN with TRAIN_FAIL and trains again (R336). -/
def linkTrainTimeout (l : Fin 8) (h : Hw) : Hw :=
  match (h.link l).state with
  | .train | .align => (h.event ((h.link l).since + 600000000)).linkDown l 6
  | _ => h
/-- LINK_TRAIN_TIMEOUT. -/
def execLinkTrainTimeout (l : Fin 8) (s : State) : Out := onHw (fun _ => linkTrainTimeout l) s

/-- A lane of an UP link loses lock (R337). -/
def execLaneLockLoss (l : Fin 8) (s : State) : Out := onEvent (fun h => if (h.link l).isUp then h.linkDown l 2 else h) s

/-- No valid block arrives on an UP link for 10 µs (R337). -/
def linkSilenceExpiry (l : Fin 8) (h : Hw) : Hw :=
  if (h.link l).isUp then (h.event ((h.link l).lastValid + 30000)).linkDown l 5 else h
/-- LINK_SILENCE_EXPIRY. -/
def execLinkSilenceExpiry (l : Fin 8) (s : State) : Out := onHw (fun _ => linkSilenceExpiry l) s

/-! ### Blocks (R338, R339) -/

/-- The fields of a block word. -/
structure BlockWord where
  bt : Nat
  vc : Fin 4
  seq : Nat
  ackseq : Nat
  cr : Vector Nat 4
  skind : Nat

/-- Read a block word. -/
def BlockWord.of (x : Nat) : BlockWord :=
  { bt := field x 62 2, vc := fin 4 (field x 60 2), seq := field x 48 12, ackseq := field x 36 12,
    cr := #v[field x 12 6, field x 18 6, field x 24 6, field x 30 6], skind := field x 8 4 }

/-- The CRC of a block holds (R338). -/
def crcOk (b : Block) : Bool := crc32c (bytesAt b.bytes 0 60) == numAt b.bytes 60 4
/-- The block word. -/
def blkWord (b : Block) : BlockWord := BlockWord.of (wordAt b.bytes 0)
/-- A block is valid; BT 0b11 is invalid (R338). -/
def blkValid (b : Block) : Bool := b.fecOk && crcOk b && (blkWord b).bt != 3

/-- A sender takes the freed totals of a received block: each new freed buffer is a credit (R338, R339). -/
def Link.takeCredits (l : Link) (w : BlockWord) : Link :=
  (List.finRange 4).foldl (fun (l : Link) (v : Fin 4) =>
    let n := (w.cr[v] + 64 - l.peerFreed[v] % 64) % 64
    { l with credits := l.credits.set v (l.credits[v] + n), peerFreed := l.peerFreed.set v w.cr[v] }) l

/-- A sender takes an ACKSEQ: the replay buffer is released up to that block, and a replay goes on behind it (R342). -/
def Link.takeAck (l : Link) (n : Nat) : Link :=
  if l.replayBuf.any (·.seq == n) then
    let rest := (l.replayBuf.dropWhile (·.seq != n)).drop 1
    { l with replayBuf := rest
             resend := l.resend.bind (fun m => if rest.any (·.seq == m) then some m else rest.head?.map (·.seq)) }
  else l

/-- What every received block does: the FEC counts, the run of invalid blocks, ACKSEQ and the credits (R337, R338, R365). -/
def Hw.heard (h : Hw) (l : Fin 8) (b : Block) : Hw :=
  let h1 := h.updLink l (fun x =>
    let x1 := { x with fecCorr := x.fecCorr + w32 b.corrected, fecUnc := x.fecUnc + w32 b.lost }
    let x2 := if blkValid b then { x1 with invalidRun := 0, lastValid := h.clock } else { x1 with invalidRun := x1.invalidRun + 1 }
    if crcOk b then (x2.takeCredits (blkWord b)).takeAck (blkWord b).ackseq else x2)
  (if (h1.link l).isUp ∧ 32 ≤ (h1.link l).invalidRun then h1.linkDown l 4 else h1).snapCheck

/-- A link hears blocks in ALIGN and UP. -/
def Link.hears (l : Link) : Bool := l.state == .align || l.state == .up

/-- A received single block of a kind, or an invalid one. -/
def isKind (b : Block) (k : Nat) : Bool := !(crcOk b) || ((blkWord b).bt == 2 && (blkWord b).skind == k)

/-- A received IDENT block (R336): three in a row with the own DOMAIN_TAG take the link UP; another tag is a miswire. The
bytes of the message are log entry 13. -/
def ident (l : Fin 8) (b : Block) (h : Hw) : Hw :=
  if !(h.link l).hears || !isKind b 6 then h
  else
    let h1 := h.heard l b
    if (h1.link l).state ≠ .align then h1
    else if !(blkValid b) then h1.updLink l (fun x => { x with idents := 0 })
    else if numAt b.bytes 8 2 = field h.dom.domId.toNat 0 16 then
      let n := (h1.link l).idents + 1
      let h2 := h1.updLink l (fun x => { x with idents := n, peerNum := numAt b.bytes 10 2 % 1024, peerLink := numAt b.bytes 12 1 % 8 })
      if n < 3 then h2
      else (h2.updLink l (fun x => { x.fresh with miswire := false, lastValid := h.clock })).setLinkState l .up
    else
      let h2 := h1.updLink l (fun x => { x with idents := 0, miswire := true })
      if (h1.link l).miswire then h2 else h2.raiseSource 238
/-- IDENT. -/
def execIdent (l : Fin 8) (blk : Block) (s : State) : Out := onEvent (ident l blk) s

/-- A received IDLE block delivers its ACKSEQ and credits (R338). -/
def execIdle (l : Fin 8) (blk : Block) (s : State) : Out :=
  onEvent (fun h => if (h.link l).isUp && isKind blk 0 then h.heard l blk else h) s

/-! ### Sequenced blocks and replay (R342) -/

/-- A receiver's decision on a sequenced block: accepted when valid and expected, else discarded, with a NAK due at the first
discard. It answers whether the block was accepted, and whether through a replay. -/
def Hw.sequenced (h : Hw) (l : Fin 8) (b : Block) : Bool × Bool × Hw :=
  let h1 := h.heard l b
  let x := h1.link l
  if !x.isUp then (false, false, h1)
  else if (blkValid b) && (blkWord b).seq == x.eseq then
    (true, x.nakOpen, h1.updLink l (fun x => { x with eseq := (x.eseq + 1) % 4096, acked := x.eseq, nakOpen := false, nakDue := false, naks := 0 }))
  else
    (false, false, if x.nakOpen then h1 else h1.updLink l (fun x => { x with nakOpen := true, nakDue := true, naks := 0 }))

/-- A received NAK: the sender resends from the named SEQ (R342). -/
def nak (l : Fin 8) (b : Block) (h : Hw) : Hw :=
  if !(h.link l).isUp || !isKind b 1 then h
  else
    let h1 := h.heard l b
    let n := numAt b.bytes 8 2 % 4096
    if !(blkValid b) then h1
    else h1.updLink l (fun x =>
      { x with replays := x.replays + 1, resend := if x.replayBuf.any (·.seq == n) then some n else x.resend })
/-- NAK. -/
def execNak (l : Fin 8) (blk : Block) (s : State) : Out := onEvent (nak l blk) s

/-- The NAK is repeated every 1.2 µs until the expected block arrives (R342). -/
def nakRepeatExpiry (l : Fin 8) (h : Hw) : Hw :=
  let x := h.link l
  if x.isUp && x.nakOpen && !x.nakDue then (h.event (x.nakAt + 3600)).updLink l (fun x => { x with nakDue := true }) else h
/-- NAK_REPEAT_EXPIRY. -/
def execNakRepeatExpiry (l : Fin 8) (s : State) : Out := onHw (fun _ => nakRepeatExpiry l) s

/-- A kind of a record. -/
def RKind.of (n : Nat) : Option RKind :=
  match n with
  | 0 => some .empty
  | 1 => some .tuple
  | 2 => some .addr
  | 3 => some .ack
  | 4 => some .lost
  | _ => none
/-- The code of a kind. -/
def RKind.code : RKind → Nat
  | .empty => 0
  | .tuple => 1
  | .addr => 2
  | .ack => 3
  | .lost => 4

/-- The record of a flit block (R339); none for an undefined kind. -/
def Rec.of (bs : List Byte) : Option Rec :=
  let x := wordAt bs 1
  (RKind.of (field x 60 4)).map (fun kind =>
    let k := field x 22 2
    { kind := kind, dmod := field x 50 10, smod := field x 40 10, bent := field x 34 6, core := field x 28 6, mort := field x 24 4,
      k := k, tag := field x 16 6, mark := bitAt x 15, sgcore := field x 3 12,
      words := (List.range (k + 1)).map (fun i => BitVec.ofNat 64 (wordAt bs (2 + i))), count := numAt bs 16 2 })

/-- The 52 message bytes of a flit block with a record (R339). -/
def Rec.body (r : Rec) : List Byte :=
  let x := r.kind.code * 2 ^ 60 + r.dmod * 2 ^ 50 + r.smod * 2 ^ 40 + r.bent * 2 ^ 34 + r.core * 2 ^ 28 + r.mort * 2 ^ 24
    + r.k * 2 ^ 22 + r.tag * 2 ^ 16 + b2n r.mark * 2 ^ 15 + r.sgcore * 2 ^ 3
  let words := if r.counts then recBytes r else fitBytes 32 (toBytes 2 r.count)
  fitBytes 52 (toBytes 8 x ++ words)
where
  recBytes (r : Rec) : List Byte := fitBytes 32 (wordsBytes (r.words.map (·.toNat)))

/-- FLIT_BLOCK: a received block of a flit (R339, R342). -/
def flitBlock (l : Fin 8) (b : Block) (h : Hw) : Hw :=
  if !(h.link l).isUp || (crcOk b && (blkWord b).bt == 2) then h
  else
    match h.sequenced l b with
    | (false, _, h1) => h1
    | (true, _, h1) =>
      let vc := (blkWord b).vc
      match (Rec.of b.bytes).filter (fun r => r.kind != .empty) with
      | some r =>
        let x := (h1.link l).flitBlock vc true
        (h1.updLink l (fun _ => x.2)).plateRecord (linkPlate l) r vc (7 + l.val % 4) (some l) x.1
      | none => h1.updLink l (fun x => (x.flitBlock vc false).2)
/-- FLIT_BLOCK. -/
def execFlitBlock (l : Fin 8) (blk : Block) (s : State) : Out := onEvent (flitBlock l blk) s

/-! ### Sending blocks (R340, R341) -/

/-- The 60 bytes of a block, then its CRC (R338). -/
def blockBytes (x : Link) (bt vc seq skind : Nat) (body : List Byte) : List Byte :=
  let w := bt * 2 ^ 62 + vc * 2 ^ 60 + seq * 2 ^ 48 + x.acked * 2 ^ 36 + x.freed[3] * 2 ^ 30 + x.freed[2] * 2 ^ 24
    + x.freed[1] * 2 ^ 18 + x.freed[0] * 2 ^ 12 + skind * 2 ^ 8
  let bs := toBytes 8 w ++ fitBytes 52 body
  bs ++ toBytes 4 (crc32c bs)

/-- A block leaves on a link. -/
def Hw.sendBlock (h : Hw) (l : Fin 8) (bt vc seq skind : Nat) (body : List Byte) : Hw :=
  { h with blocksOut := h.blocksOut ++ [(l.val, blockBytes (h.link l) bt vc seq skind body)] }

/-- A new sequenced block leaves and stands in the replay buffer (R342). -/
def Hw.sendNew (h : Hw) (l : Fin 8) (bt : Nat) (vc : Fin 4) (skind : Nat) (body : List Byte) (recs : List Rec) : Hw :=
  let n := (h.link l).seq
  (h.sendBlock l bt vc n skind body).updLink l (fun x =>
    { x with seq := (n + 1) % 4096, replayBuf := x.replayBuf ++ [{ seq := n, bt := bt, vc := vc, skind := skind, body := body, recs := recs }] })

/-- Credits that a record needs to enter a link: one when it arrived on the opposite of that link, else two (R346). -/
def creditsNeeded (x : Link) (q : Queued) : Nat :=
  if x.ctrl.getLsbD 23 && (q.link.map (·.val)) == some (fld x.ctrl 24 3) then 1 else 2

/-- The order of records within a channel: oldest stamp, then the lower source port (R341). -/
def recordOrder (x y : Queued) : Bool := x.stamp < y.stamp || (x.stamp == y.stamp && x.port ≤ y.port)

/-- The records that a flit of a channel takes now: up to four, none when the channel lacks the credits the first needs
(R339, R340, R346). -/
def Link.flitReady (x : Link) (vc : Fin 4) : List Queued :=
  ((inOrder recordOrder x.queues[vc]).take 4).takeWhile (fun q => creditsNeeded x q ≤ x.credits[vc])

/-- The channel of the next flit, by the link's flit count (R341). -/
def Link.nextVc (x : Link) : Option (Fin 4) :=
  let has := fun (vc : Fin 4) => !(x.flitReady vc).isEmpty
  let first : List (Fin 4) := if x.flits % 4 = 3 then [0] else if x.flits % 4 = 1 then [1] else []
  (first ++ [2, 1, 0]).find? has

/-- Send the next block of the flit in progress. -/
def Hw.sendFlitBlock (h : Hw) (l : Fin 8) (first : Bool) : Hw :=
  match (h.link l).flit with
  | some (vc, r :: rest) =>
    let h1 := h.updLink l (fun x => { x with flit := if rest.isEmpty then none else some (vc, rest) })
    let rec_ := r.getD { kind := .empty, dmod := 0, smod := 0, bent := 0, core := 0 }
    h1.sendNew l (if first then 0 else 1) vc 0 (if r.isSome then rec_.body else []) (r.toList)
  | _ => h

/-- Start a flit of a channel: one credit is used, its records leave the queue and the buffers they came in. -/
def Hw.startFlit (h : Hw) (l : Fin 8) (vc : Fin 4) : Hw :=
  let qs := (h.link l).flitReady vc
  let h1 := h.updLink l (fun x =>
    { x with flits := x.flits + 1, credits := x.credits.set vc (x.credits[vc] - 1)
             queues := x.queues.set vc (x.queues[vc].filter (fun q => !(qs.contains q)))
             flit := some (vc, (qs.map (fun q => some q.record)) ++ List.replicate (4 - qs.length) none) })
  (qs.foldl (fun h q => h.leave q) h1).sendFlitBlock l true

/-- A block resent from the replay buffer, and the one that follows it (R342). -/
def Hw.sendReplay (h : Hw) (l : Fin 8) (n : Nat) : Hw :=
  match (h.link l).replayBuf.dropWhile (·.seq != n) with
  | [] => h.updLink l (fun x => { x with resend := none })
  | b :: rest =>
    (h.sendBlock l b.bt b.vc b.seq b.skind b.body).updLink l (fun x => { x with resend := rest.head?.map (·.seq) })

/-- A NAK leaves; the eighth for one SEQ takes the link DOWN (R337, R342). -/
def Hw.sendNak (h : Hw) (l : Fin 8) : Hw :=
  let h1 := (h.sendBlock l 2 3 0 1 (toBytes 2 (h.link l).eseq)).updLink l (fun x =>
    { x with nakDue := false, naks := x.naks + 1, nakAt := h.clock })
  if 8 ≤ (h1.link l).naks then h1.linkDown l 3 else h1

/-- The message of an IDENT block (log entry 13). -/
def identBody (h : Hw) (l : Fin 8) : List Byte :=
  toBytes 2 (field h.dom.domId.toNat 0 16) ++ toBytes 2 h.dom.num ++ toBytes 1 l.val

/-- The sync message that a link sends next, of those that may be sent by a clock value: the oldest (R341). -/
def Link.syncNext (x : Link) (now : Nat) : Option (Nat × Nat × List Byte) :=
  if 0 < x.credits[3] then
    (inOrder (fun a b => decide (a.1 ≤ b.1)) (x.syncQ.filter (fun m => decide (m.1 ≤ now)))).head?
  else none

/-- The flit in progress, a new flit, or an IDLE block between flits (R341). -/
def Hw.sendRecords (h : Hw) (l : Fin 8) : Hw :=
  if (h.link l).flit.isSome then h.sendFlitBlock l false
  else
    match (h.link l).nextVc with
    | some vc => h.startFlit l vc
    | none => h.sendBlock l 2 3 0 0 []

/-- A sequenced block of an UP link that does not replay: a sync block, else records; an IDLE block while the replay buffer is full
(R341, R342). -/
def Hw.sendFresh (h : Hw) (l : Fin 8) : Hw :=
  let x := h.link l
  if 1024 ≤ x.replayBuf.length then h.sendBlock l 2 3 0 0 []
  else
    match x.syncNext h.clock with
    | some m =>
      (h.updLink l (fun x => { x with syncQ := x.syncQ.erase m, credits := x.credits.set 3 (x.credits[3] - 1) })).sendNew l 2 3 m.2.1 m.2.2 []
    | none => h.sendRecords l

/-- A link's transmitter comes to its next block boundary: boundaries lie 0.32 ns apart (R335; log entry 94). -/
def Hw.txTurn (h : Hw) (l : Fin 8) : Hw :=
  let at_ := (max (h.link l).txFrom (25 * h.clock) + 23) / 24 * 24
  (h.event (at_ / 25)).updLink l (fun x => { x with txFrom := at_ + 24 })

/-- At a block boundary the transmitter sends the first block that the list of R341 allows. The VC of IDLE, NAK and IDENT blocks,
which the manual does not give, is 0b11 (DESIGN CHOICE, log entry 93). -/
def blockTransmit (l : Fin 8) (h0 : Hw) : Hw :=
  let h := if (h0.link l).hears then h0.txTurn l else h0
  let x := h.link l
  match x.state with
  | .align => h.sendBlock l 2 3 0 6 (identBody h l)
  | .up =>
    if x.nakDue then h.sendNak l
    else
      match x.resend with
      | some n => h.sendReplay l n
      | none => h.sendFresh l
  | _ => h
/-- BLOCK_TRANSMIT. -/
def execBlockTransmit (l : Fin 8) (s : State) : Out := onHw (fun _ => blockTransmit l) s

/-- A sync message goes from the Ridge to the plates of the links of a set on the sync channel (R272), and waits on each link, to be sent
from a number of cycles on. -/
def Hw.syncOut (h : Hw) (p : Fin 8 → Link → Bool) (skind : Nat) (body : List Byte) (delay : Nat := 0) : Hw :=
  let to_ := (List.finRange 8).filter (fun l => p l (h.link l))
  let h1 := [Plate.west, Plate.east].foldl (fun h q =>
    if to_.any (fun l => linkPlate l == q) then h.postAuto ridgeRouter (plateRouter q) 3 h.clock else h) h
  to_.foldl (fun h l => h.updLink l (fun x => { x with syncQ := x.syncQ ++ [(h.clock + delay, skind, body)] })) h1

/-! ### The combiner (R355) -/

/-- The number nearest to a reference whose low `n` bits are given. -/
def near (n ref x : Nat) : Nat :=
  let base := ref / 2 ^ n * 2 ^ n + x % 2 ^ n
  if base + 2 ^ (n - 1) < ref then base + 2 ^ n else if ref + 2 ^ (n - 1) < base then base - 2 ^ n else base

/-- The links of the combine set. -/
def Hw.combineSet (h : Hw) : List Link := h.links.toList.filter (·.combine)

/-- Combine the own and the received values, and send the result on every link of the combine set, 20 ns after a block whose values it
takes in (R355). -/
def Hw.combiner (h : Hw) (delay : Nat := 0) : Hw :=
  if !h.dom.joined then h
  else
    let d := h.dom
    let ls := h.combineSet
    let step := ls.foldl (fun n l => min n l.rxStep) d.ownStep
    let beats := (if d.ownStep = step then [d.ownBeat] else []) ++
      (ls.filter (fun l => l.rxStep == step)).map (fun l => near 32 d.beat l.rxBeat)
    let beat := beats.foldl max 0
    let dgen := ls.foldl (fun n l => min n (near 16 d.ownDgen l.rxDgen)) d.ownDgen
    let body := toBytes 4 step ++ toBytes 4 beat ++ toBytes 2 dgen
    ({ h with dom := { d with cStep := step, cBeat := beat, cDgen := dgen
                              cDgenAt := if dgen = d.cDgen then d.cDgenAt else h.clock } }).syncOut (fun _ l => l.combine) 2 body delay

/-- A sync block has been taken: its buffer is free (R338), and its message goes on to the Ridge on the sync channel (R272). -/
def Hw.syncTaken (h : Hw) (l : Fin 8) : Hw := (h.updLink l (·.free1 3)).postAuto (plateRouter (linkPlate l)) ridgeRouter 3 h.clock

/-- DRAWBORE: the combiner works when the values received change (R355). -/
def drawbore (l : Fin 8) (b : Block) (h : Hw) : Hw :=
  if !(h.link l).isUp || !isKind b 2 then h
  else
    match h.sequenced l b with
    | (true, _, h1) =>
      let was := h1.link l
      let now := { was with rxStep := numAt b.bytes 8 4, rxBeat := numAt b.bytes 12 4, rxDgen := numAt b.bytes 16 2 }
      let h2 := (h1.updLink l (fun _ => now)).syncTaken l
      if now.combine && now != was then h2.combiner 60 else h2
    | (false, _, h1) => h1
/-- DRAWBORE. -/
def execDrawbore (l : Fin 8) (blk : Block) (s : State) : Out := onEvent (drawbore l blk) s

/-- TIME: the parent's beat number with the FCYC of its arrival; a block accepted through a replay is not used (R350). -/
def timeBlock (l : Fin 8) (b : Block) (h : Hw) : Hw :=
  if !(h.link l).isUp || !isKind b 3 then h
  else
    match h.sequenced l b with
    | (true, replayed, h1) =>
      (h1.syncTaken l).updLink l (fun x => if replayed then x else { x with rxTime := some (wordAt b.bytes 1, h.fcyc) })
    | (false, _, h1) => h1
/-- TIME. -/
def execTime (l : Fin 8) (blk : Block) (s : State) : Out := onEvent (timeBlock l blk) s

/-- SNAP: a sequenced single block; the manual gives it no further effect (R338). -/
def snapBlock (l : Fin 8) (b : Block) (h : Hw) : Hw :=
  if !(h.link l).isUp || !isKind b 5 then h
  else
    match h.sequenced l b with
    | (true, _, h1) => h1.syncTaken l
    | (false, _, h1) => h1
/-- SNAP. -/
def execSnap (l : Fin 8) (blk : Block) (s : State) : Out := onEvent (snapBlock l blk) s

/-! ### Remote routes and forwarding (R256, R345) -/

/-- The record of a tuple that stands in an egress entry (R339). -/
def Egress.record (x : Egress) (smod : Nat) : Rec :=
  let t := x.tup
  { kind := if t.addr then .addr else .tuple, dmod := x.dmod, smod := smod, bent := bentOf t.target, core := coreIn t.target,
    mort := if t.addr then 0 else t.mort.val, k := t.k.toNat, tag := t.tag.toNat, mark := t.stream, sgcore := t.sender.val,
    words := t.words }

/-- The egress agent frees an entry of a tenon as the tuple's flit leaves the bent's router toward the exit plate, and the credit
returns in the cycle after (R256, R347). -/
def remoteEgressFree (c : CoreId) (n : Fin 16) (h : Hw) : Hw :=
  match takeFirst (fun (x : Egress) => x.tup.sender == c && x.tup.tenon == n) (h.bent (bentOf c)).egress with
  | none => h
  | some (x, rest) =>
    let t := x.tup
    match h.flits.find? (fun f => f.serial == t.flit) with
    | none => h.updBent (bentOf c) (fun b => { b with egress := rest })
    | some f =>
      match h.driveOut t.flit with
      | none => h
      | some (y, h0) =>
        let h1 := (h0.event (h.fcyc0 + y)).updBent (bentOf c) (fun b => { b with egress := rest })
        let back : Credit := { core := c, tenon := n, epoch := t.epoch, due := h.fcyc0 + y + 1, source := none }
        let q : Queued := { record := x.record h.dom.num, vc := x.vc, port := bentY (bentOf c), flit := t.flit,
                            stamp := t.due + 8 + meshTime f.src f.dst - h.fcyc0 }
        ({ h1 with credits := h1.credits ++ [back] }).updRecs (routerPlate f.dst) (fun y => { y with inbox := y.inbox ++ [q] })
/-- REMOTE_EGRESS_FREE. -/
def execRemoteEgressFree (c : CoreId) (n : Fin 16) (s : State) : Out := onHw (fun _ => remoteEgressFree c n) s

/-- The mortise entry of a record that came through a plate (R256). -/
def Rec.entry (r : Rec) (p : Plate) : Entry :=
  { words := r.words, k := BitVec.ofNat 2 r.k, tag := BitVec.ofNat 6 r.tag, stream := r.mark, credit := .plate p }

/-- An entry of a mortise is owed to a plate (R256). -/
def Entry.owes (e : Entry) (p : Plate) : Bool := e.credit == .plate p

/-- A tuple of a plate is for a mortise. -/
def Queued.isFor (q : Queued) (c : CoreId) (m : Fin 16) : Bool := q.record.target == some c && fin 16 q.record.mort == m

/-- A mortise has room for a further tuple of a plate, as far as the plate can tell: of the eight credits it holds for the mortise one
is left, and the tuples in the mortise and on their way to it are fewer than eight (R256; log entry 95). -/
def Hw.plateRoom (h : Hw) (p : Plate) (c : CoreId) (m : Fin 16) : Bool :=
  let flying := fun (p : Plate) => ((h.recs p).flying.filter (·.isFor c m)).length
  let q := (h.core c).mortises[m]
  let back := (h.plateCredits.filter (fun x => x.plate == p && x.core == c && x.mort == m)).length
  decide (flying p + (q.filter (·.owes p)).length + back < 8) && decide (flying .west + flying .east + q.length < 8)

/-- A plate sends the tuples it holds for a mortise, in order, as long as that has room (R256). -/
def Hw.plateSend (p : Plate) (c : CoreId) (m : Fin 16) : Nat → Hw → Hw
  | 0, h => h
  | fuel + 1, h =>
    match takeFirst (fun (q : Queued) => q.isFor c m) (h.recs p).held with
    | none => h
    | some (q, rest) =>
      if h.plateRoom p c m then
        let x := (h.leave q).post (plateRouter p) (bentOf c) q.vc h.clock
        Hw.plateSend p c m fuel (x.2.updRecs p (fun y =>
          { y with held := rest
                   flying := y.flying ++ [{ q with link := none, flit := x.1, stamp := h.fcyc + meshTime (plateRouter p) (bentOf c) }] }))
      else h

/-- A record for a core of this module (R256, R339): a tuple is held for its mortise, an addressed unit enters its core's
slot-3 queue, an ACK or LOST goes to its core, each over the mesh. -/
def Hw.deliverRecord (h : Hw) (p : Plate) (q : Queued) : Hw :=
  let r := q.record
  match r.target with
  | none => (h.leave q).loseRecord p r
  | some c =>
    match r.kind with
    | .tuple => Hw.plateSend p c (fin 16 r.mort) 8 (h.updRecs p (fun x => { x with held := x.held ++ [q] }))
    | .addr =>
      let off := r.words.headD 0
      let x := (h.leave q).post (plateRouter p) (bentOf c) q.vc h.clock
      let u : Unit3 :=
        { src := 49 + plateNum p, off := off.toNat % 2 ^ 21, data := wordsBytes ((r.words.drop 1).map (·.toNat)), remote := true,
          bad := badOffset off || r.k == 0, origin := .remoteTuple p (BitVec.ofNat 6 r.tag) r.smod r.sgcore, injected := h.clock
          due := h.clock + meshTime (plateRouter p) (bentOf c), flit := x.1 }
      x.2.updCore c (fun k => { k with unitQ := k.unitQ ++ [u] })
    | .ack | .lost =>
      let x := (h.leave q).post (plateRouter p) (bentOf c) 1 h.clock
      { x.2 with acksIn := x.2.acksIn ++ [{ core := c, module := r.smod, count := r.count, lost := r.kind == .lost, flit := x.1 }] }
    | .empty => h.leave q

/-- The record that a plate takes next, of those that have reached it: the oldest, then that of the lowest source port (R341,
R345). -/
def PlateRecs.next (x : PlateRecs) : Option Queued := (inOrder recordOrder (x.inbox.filter (·.flit == 0))).head?

/-- The records that come to a plate over the mesh reach it as far as they may be taken next. -/
def recordLand (p : Plate) : Nat → Hw → Hw
  | 0, h => h
  | fuel + 1, h =>
    let x := h.recs p
    match h.landFirst ((x.inbox.filter (·.flit != 0)).map (fun q => (q.flit, h.fcyc0 + q.stamp)))
        (x.next.map (fun q => max h.clock (h.fcyc0 + q.stamp))) with
    | none => h
    | some (n, at_, h1) =>
      recordLand p fuel (h1.updRecs p (fun x =>
        { x with inbox := updFirst (·.flit == n) (fun q => { q with flit := 0, stamp := at_ - h.fcyc0 }) x.inbox }))

/-- A record goes on toward its module: over a link of this plate, or over the mesh along row ROW to the other plate (R345, R347). One
for a link that is not UP is lost (R337; log entry 96). -/
def Hw.routeRecord (h : Hw) (p : Plate) (q : Queued) : Hw :=
  let e := sgetD q.record.dmod 0 h.dom.rtAct
  let l : Fin 8 := fin 8 (fld e 0 3)
  if linkPlate l ≠ p then
    let row := fld e 3 3
    let x := (h.leave q).postRow (plateRouter p) (plateRouter (linkPlate l)) row q.vc h.clock false
    x.2.updRecs (linkPlate l) (fun y =>
      { y with inbox := y.inbox ++ [{ q with port := row, link := none, flit := x.1, stamp := h.fcyc + meshD 9 }] })
  else if (h.link l).isUp then
    h.updLink l (fun x => { x with queues := x.queues.set q.vc (x.queues[q.vc] ++ [{ q with stamp := h.fcyc }]) })
  else (h.leave q).loseRecord p q.record

/-- A plate takes its next record and forwards it by the routing table, delivers it, or drops it with a LOST record
(R345). -/
def recordForward (p : Plate) (h : Hw) : Hw :=
  let h0 := recordLand p (h.recs p).inbox.length h
  match (h0.recs p).next with
  | none => h
  | some q =>
    let h1 := (h0.event (h0.fcyc0 + q.stamp)).updRecs p (fun x => { x with inbox := x.inbox.erase q })
    let r := q.record
    (if r.dmod = h1.dom.num then
        if r.counts && q.link.isNone then h1.loseRecord p r else h1.deliverRecord p q
      else if h1.dom.reaches r.dmod then h1.routeRecord p q
      else (h1.leave q).loseRecord p r).snapCheck
/-- RECORD_FORWARD. -/
def execRecordForward (p : Plate) (s : State) : Out := onHw (fun _ => recordForward p) s

/-- The credits of a mortise on their way to a plate, by flit and due clock. -/
def Hw.creditsBack (h : Hw) (p : Plate) (c : CoreId) (m : Fin 16) : List (Nat × Nat) :=
  (h.plateCredits.filter (fun x => x.plate == p && x.core == c && x.mort == m)).map (fun x => (x.flit, x.due))

/-- A plate sends what it holds for a mortise: at once when that has room, else when a credit has come back to it. -/
def Hw.plateTurn (h : Hw) (p : Plate) (c : CoreId) (m : Fin 16) : Hw :=
  let h1 := Hw.plateSend p c m 8 h
  if ((h1.recs p).flying.any (·.isFor c m)) then h1
  else
    match h1.landFirst (h1.creditsBack p c m) none with
    | none => h1
    | some (n, at_, h2) =>
      Hw.plateSend p c m 8 { h2.event at_ with plateCredits := h2.plateCredits.filter (fun x => x.flit != n) }

/-- An addressed unit of the core that sent a tuple through a plate has not been written or dropped yet (R300). -/
def Core.unitsBefore (k : Core) (p : Plate) (r : Rec) : Bool :=
  k.unitQ.any (fun u => match u.origin with
    | .remoteTuple q _ smod sgcore => q == p && smod == r.smod && sgcore == r.sgcore
    | _ => false)

/-- A tuple that a plate has sent, or can send, to a mortise is written into it, and answered with an ACK (R256, R295). It waits for
room, and for the addressed units of its sender (R300; log entry 95); a core under reset discards it (R462). -/
def remoteDelivery (p : Plate) (c : CoreId) (m : Fin 16) (h : Hw) : Hw :=
  let h0 := h.plateTurn p c m
  match takeFirst (fun (q : Queued) => q.isFor c m) (h0.recs p).flying with
  | none => h0.snapCheck
  | some (q, rest) =>
    match h0.land q.flit (h0.fcyc0 + q.stamp) with
    | none => h0
    | some (at_, hl) =>
      let h1 := (hl.event at_).caughtUp c
      let taken := (h1.updRecs p (fun x => { x with flying := rest })).ackRemote p q.record.smod q.record.sgcore
      if (h1.core c).held then (taken.returnCredit c m (.plate p)).snapCheck
      else if (h1.core c).unitsBefore p q.record || 8 ≤ ((h1.core c).mortises[m]).length then h0
      else (taken.arrive c m (q.record.entry p)).snapCheck
/-- REMOTE_DELIVERY. -/
def execRemoteDelivery (p : Plate) (c : CoreId) (m : Fin 16) (s : State) : Out := onHw (fun _ => remoteDelivery p c m) s

/-- Remote sends of a core to a module have been acknowledged; with the last of them no thread waits for that module any more
(R295). -/
def Core.acked (k : Core) (module count : Nat) : Core :=
  let left := sgetD module 0 k.remoteOut - count
  if left = 0 then
    { k.updThreads (fun th => { th with remoteTo := th.remoteTo.filter (· != module) }) with remoteOut := sdel module k.remoteOut }
  else { k with remoteOut := sset module left k.remoteOut }

/-- The next ACK or LOST record of a core reaches it: FENCE.S counts it, and a LOST record is a machine check too (R295, R296, R339,
R468). -/
def Hw.ackArrives (h : Hw) (c : CoreId) (lost : Bool) : Hw :=
  match takeFirst (fun (x : AckIn) => x.core == c && x.lost == lost) h.acksIn with
  | none => h
  | some (x, rest) =>
    match ({ h with acksIn := rest } : Hw).land x.flit h.clock with
    | none => h
    | some (at_, h1) =>
      let h2 := (h1.event at_).updCore c (·.acked x.module x.count)
      if lost then h2.machineCheck c 3 0 else h2
/-- ACK_RECORD. -/
def execAckRecord (c : CoreId) (s : State) : Out := onHw (fun _ h => h.ackArrives c false) s
/-- LOST_RECORD. -/
def execLostRecord (c : CoreId) (s : State) : Out := onHw (fun _ h => h.ackArrives c true) s

end Sys2Proof.Machine
end

