-- ==== Sys2Proof/Machine/Domain.lean ====
section
/-!
DEFINITION. The beat (R349 to R351), the drawbore within the module (R352 to R356), snapshots (R361), joining and leaving a
domain (R344, R359, R365), and the domain registers (R365).
-/

namespace Sys2Proof.Machine

/-- Change the domain block. -/
def Hw.updDom (h : Hw) (f : Domain → Domain) : Hw := { h with dom := f h.dom }

/-! ### The beat -/

/-- A member other than the root takes the offset measured against its parent, a free value (R350), counts the beats within
±2 ns (96 sixteenths of a cycle), and chooses a from -3 to 3, a free value; the lock is set after 16 such beats, with the
parent's beat number adopted, and is lost beyond ±10 ns (R351). -/
def Hw.steer (h : Hw) : Hw :=
  match h.dom.parent with
  | none => h.updDom (fun d => { d with adjust := 0 })
  | some l =>
    match (h.link l).rxTime with
    | none => h.updDom (fun d => { d with adjust := 0 })
    | some (n, _) =>
      let (x, h1) := h.free
      let (y, h2) := h1.free
      let ofs := BitVec.ofNat 16 x
      let mag := ofs.toInt.natAbs
      let h3 := (h2.updLink l (fun k => { k with rxTime := none })).updDom (fun d =>
        { d with beatOfs := ofs, adjust := (y % 7 : Nat) - 3, locked := if mag ≤ 96 then d.locked + 1 else 0 })
      if h3.dom.beatLock then if 480 < mag then h3.beatLost else h3
      else if 16 ≤ h3.dom.locked then
        let h4 := (h3.updDom (fun d => { d with beatLock := true, beat := (n + 1) % 2 ^ 64 })).raiseSource 232
        h4.postEvent 0xC4 0 [BitVec.ofNat 64 h4.dom.beat]
      else h3

/-- A beat falls at the FCYC fixed at the beat before it (R349): the member steers, sends a TIME block on every UP link
(R350), and its combiner works (R355). The root is always locked (R351). -/
def beat (h : Hw) : Hw :=
  let at_ := h.dom.beatClk + (3000 + h.dom.adjust).toNat
  let h1 := (h.event at_).updDom (fun d => { d with beat := (d.beat + 1) % 2 ^ 64, beatf := at_ - h.fcyc0, beatClk := at_ })
  let h2 :=
    if !h1.dom.joined then h1.updDom (fun d => { d with adjust := 0 })
    else if h1.dom.root then h1.updDom (fun d => { d with adjust := 0, beatLock := true })
    else h1.steer
  (h2.syncOut (fun _ l => l.isUp) 3 (toBytes 8 h2.dom.beat)).combiner
/-- BEAT. -/
def execBeat (s : State) : Out := onHw (fun _ => beat) s

/-! ### The drawbore within the module (R352 to R356) -/

/-- Change an arrival of a core. -/
def Core.setPend (k : Core) (sc : Fin 3) (x : Option (BitVec 6 × Nat)) : Core := { k with dbPend := k.dbPend.set sc x }

/-- The cut that runs on a core (R352). -/
def Hw.cutOn (h : Hw) (c : CoreId) : Option Cut := ((h.core c).runsCut).bind (fun i => sget i h.le.cuts)

/-- An arrival is ignored as an orphan (R354). -/
def Hw.orphan (h : Hw) (c : CoreId) (scope : Nat) : Bool :=
  match scope with
  | 0 => !(h.bent (bentOf c)).dbActive.getLsbD (coreIn c)
  | 1 => (h.core c).runsCut.isNone
  | _ =>
    match h.cutOn c with
    | none => true
    | some x => h.dom.joined && !x.beat

/-- A write to DBARRIVE (R352, R354): the arrival is recorded in the cycle after it. -/
def dbArrive (c : CoreId) (v : W32) (h : Hw) : Hw :=
  let scope := fld v 0 2
  if scope = 3 then h
  else
    let sc : Fin 3 := fin 3 scope
    let dup := ((h.core c).dbPend[sc]).isSome
    let orphan := h.orphan c scope
    h.updCore c (fun k =>
      let k1 := { k with dbDup := k.dbDup || dup, dbOrphan := k.dbOrphan || orphan }
      if dup || orphan then k1 else k1.setPend sc (some (BitVec.ofNat 6 (fld v 4 6), h.clock + 1)))

/-- The clock of the last arrival of a set of cores at a scope; none while one has not arrived. -/
def Hw.allArrived (h : Hw) (sc : Fin 3) (cs : List CoreId) : Option Nat :=
  match cs with
  | [] => none
  | _ => cs.foldl (fun (acc : Option Nat) (c : CoreId) =>
      match acc, (h.core c).dbPend[sc] with
      | some t, some p => some (max t p.2)
      | _, _ => none) (some 0)

/-- A generation completes: the TAG event of each member's arrival is raised and its arrival cleared (R353). -/
def Hw.barrierDone (h : Hw) (sc : Fin 3) (cs : List CoreId) : Hw :=
  cs.foldl (fun (h : Hw) (c : CoreId) =>
    match (h.core c).dbPend[sc] with
    | some p => ((h.raiseTag c p.1).updCore c (·.setPend sc none)).noted c
    | none => h) h

/-- The cores on which a cut runs: the listed ones, in order (R352). -/
def Hw.coresOf (h : Hw) (cut : Nat) : List CoreId :=
  (h.cores.filter (fun p => p.2.runsCut == some cut)).map (fun p => coreId p.1)

/-- All members lie in one bent: 21 cycles, else 450 (R353). -/
def barrierTime (cs : List CoreId) : Nat :=
  match cs with
  | [] => 21
  | c :: rest => if rest.all (fun d => bentOf d == bentOf c) then 21 else 450

/-- A pending commit of a bent's membership is applied once no core of the bent has a LOCAL arrival outstanding (R18,
R354). -/
def dbcommitApply (b : BentId) (h : Hw) : Hw :=
  let x := h.bent b
  let free := (List.range 44).all (fun c => ((h.core (44 * b.val + c)).dbPend[(0 : Fin 3)]).isNone)
  if x.dbPending && free then h.setBent b { x with dbPending := false, dbActive := x.dbShadow } else h
/-- DBCOMMIT_APPLY. -/
def execDbcommitApply (b : BentId) (s : State) : Out := onHw (fun _ => dbcommitApply b) s

/-- LOCAL of a bent (R353). -/
def localComplete (b : BentId) (h : Hw) : Hw :=
  let x := h.bent b
  let cs := ((List.range 44).filter (fun c => x.dbActive.getLsbD c)).map (fun c => coreId (44 * b.val + c))
  match h.allArrived 0 cs with
  | some t => dbcommitApply b (((h.event (t + 21)).barrierDone 0 cs).updBent b (fun x => { x with lgen := x.lgen + 1 }))
  | none => h

/-- The running cuts, by index. -/
def Hw.runningCuts (h : Hw) : List (Nat × Cut) := h.le.cuts.filter (fun p => p.2.st == .running)

/-- The running cut whose cores have all arrived at a scope and whose last arrival, or completion, is the earliest, with the clock of
that. -/
def Hw.arrivedCut (h : Hw) (sc : Fin 3) (time : List CoreId → Nat) : Option (Nat × Nat) :=
  (h.runningCuts.filterMap (fun p => (h.allArrived sc (h.coresOf p.1)).map (fun t => (p.1, t + time (h.coresOf p.1))))).foldl
    (fun best x => match best with
      | none => some x
      | some b => if x.2 < b.2 then some x else some b) none

/-- CUT: a running cut all of whose cores have arrived completes its generation (R353). -/
def cutComplete (h : Hw) : Hw :=
  match h.arrivedCut 1 barrierTime with
  | some (i, t) => ((h.event t).barrierDone 1 (h.coresOf i)).updDom (fun d => { d with cgen := d.cgen + 1 })
  | none => h

/-- The cores with a DOMAIN arrival outstanding. -/
def Hw.domainCores (h : Hw) : List CoreId := (h.cores.filter (fun p => (p.2.dbPend[(2 : Fin 3)]).isSome)).map (fun p => coreId p.1)

/-- A local DOMAIN generation whose number c.dgen has reached completes 225 cycles later (R356). -/
def domainEnd (h : Hw) : Hw :=
  if h.dom.dgenWait ∧ h.dom.ownDgen ≤ h.dom.cDgen then
    ((h.event (h.dom.cDgenAt + 225)).barrierDone 2 h.domainCores).updDom (fun d => { d with dgen := d.dgen + 1, dgenWait := false })
  else h

/-- DOMAIN: outside a domain as CUT (R352); in one, the local generation completes 225 cycles after the last local arrival and the
combiner learns of it (R355), and the events follow 225 cycles after c.dgen has reached it (R356). -/
def domainComplete (h : Hw) : Hw :=
  if h.dom.dgenWait then domainEnd h
  else if h.dom.joined then
    match h.arrivedCut 2 (fun _ => 225) with
    | some (_, t) => domainEnd ((h.event t).updDom (fun d => { d with ownDgen := d.ownDgen + 1, dgenWait := true })).combiner
    | none => h
  else
    match h.arrivedCut 2 barrierTime with
    | some (i, t) => ((h.event t).barrierDone 2 (h.coresOf i)).updDom (fun d => { d with dgen := d.dgen + 1 })
    | none => h

/-- DRAWBORE_COMPLETE. -/
def execDrawboreComplete (sc : DbScope) (s : State) : Out :=
  onHw (fun _ h => match sc with
    | .bent b => localComplete b h
    | .chip => cutComplete h
    | .domain => domainComplete h) s

/-- DBSTAT. -/
def dbstat (h : Hw) (c : CoreId) : W32 :=
  let k := h.core c
  w32 (h.dom.dgen % 256 * 2 ^ 24 + h.dom.cgen % 256 * 2 ^ 16 + (h.bent (bentOf c)).lgen % 256 * 256 + b2n k.dbOrphan * 32
    + b2n k.dbDup * 16 + b2n (k.dbPend[2]).isSome * 4 + b2n (k.dbPend[1]).isSome * 2 + b2n (k.dbPend[0]).isSome)

/-- Read a drawbore port. -/
def dbRead (c : CoreId) (p : Nat) (h : Hw) : W32 :=
  match p with
  | 0x661 => dbstat h c
  | 0x662 => (h.bent (bentOf c)).dbShadow.setWidth 32
  | 0x663 => ((h.bent (bentOf c)).dbShadow >>> 32).setWidth 32
  | _ => 0

/-- A half of a bent's shadow mask takes a value. -/
def Bent.dbHalf (b : Bent) (hi : Bool) (v : W32) : Bent :=
  let n := b.dbShadow.toNat
  { b with dbShadow := BitVec.ofNat 44 (if hi then v.toNat % 2 ^ 12 * 2 ^ 32 + n % 2 ^ 32 else n / 2 ^ 32 * 2 ^ 32 + v.toNat) }

/-- A write to a half of a bent's shadow mask: writes of several cores in one cycle apply in increasing core order (R354). -/
def dbMask (c : CoreId) (hi : Bool) (v : W32) (h : Hw) : Hw :=
  let i : Fin 2 := if hi then 1 else 0
  h.updBent (bentOf c) (fun b =>
    let last := b.dbLast[i]
    if last.1 = h.clock ∧ c.val < last.2 then b else { b.dbHalf hi v with dbLast := b.dbLast.set i (h.clock, c.val) })

/-- Write a drawbore port. -/
def dbWrite (c : CoreId) (p : Nat) (v : W32) (h : Hw) : Hw :=
  match p with
  | 0x660 => dbArrive c v h
  | 0x661 =>
    h.updCore c (fun k => { k with dbOrphan := k.dbOrphan && !v.getLsbD 5, dbDup := k.dbDup && !v.getLsbD 4 })
  | 0x662 => dbMask c false v h
  | 0x663 => dbMask c true v h
  | 0x664 =>
    if v.getLsbD 0 then dbcommitApply (bentId (bentOf c)) (h.updBent (bentOf c) (fun b => { b with dbPending := true })) else h
  | _ => h

/-! ### Snapshots (R361) -/

/-- A write of SNAP_CTRL: ARM with a SNAP_BEAT at or before the current beat is ignored; arming clears SNAP_DONE. -/
def snapArm (v : W32) (h : Hw) : Hw :=
  if v.getLsbD 31 then
    if near 32 h.dom.beat h.dom.snapBeat.toNat ≤ h.dom.beat then h
    else h.updDom (fun d => { d with snapArm := true, snapDone := false, snapFrozen := false })
  else h.updDom (fun d => { d with snapArm := false })
/-- SNAP_ARM. -/
def execSnapArm (v : BitVec 32) (s : State) : Out := onHw (fun _ h => snapArm v h.access) s

/-- At the armed beat the member freezes the whole device and clears ARM (R361). -/
def snapshotFreeze (h : Hw) : Hw :=
  if h.dom.snapArm ∧ near 32 h.dom.beat h.dom.snapBeat.toNat ≤ h.dom.beat then
    let h1 := (h.event h.dom.beatClk).updDom (fun d => { d with snapArm := false, snapFrozen := true })
    (h1.after h1.clock (.freeze none)).snapCheck
  else h
/-- SNAPSHOT_FREEZE. -/
def execSnapshotFreeze (s : State) : Out := onHw (fun _ => snapshotFreeze) s

/-! ### Joining and leaving (R344, R355, R359, R365) -/

/-- The drawbore values and the steps at their initial values (R355, R362, R365). -/
def Hw.zeroValues (h : Hw) : Hw :=
  { h with
    dom := { h.dom with ownStep := 0, ownBeat := 0, ownDgen := 0, cStep := 0, cBeat := 0, cDgen := 0, dgenWait := false,
                        dstep := 0, armed := none }
    links := h.links.map (fun l => { l with rxStep := 0, rxBeat := 0, rxDgen := 0 }) }

/-- At a JOIN or after a domain reset the combine set is the UP links too (R355, R362). -/
def Hw.startValues (h : Hw) : Hw :=
  let h1 := h.zeroValues
  { h1 with links := h1.links.map (fun l => { l with combine := h.dom.joined && l.isUp }) }

/-- The default step lead (R359). -/
def defaultLead (param : W32) : Nat := (150 + 300 * fld param 16 5 + 1200 + 999) / 1000 + 1

/-- The engine runs no graph (R365). -/
def Layout.quiet (l : Layout) : Bool := l.st == .idle || l.st == .done || l.st == .error

/-- A write of DOM_CTRL: ROOT, JOIN and LEAVE (R344, R365). -/
def domCtrlWrite (v : W32) (h : Hw) : Hw :=
  let h1 := h.updDom (fun d => { d with root := v.getLsbD 0 })
  if v.getLsbD 31 && !h1.dom.joined then
    let lead := fun (p : W32) => if fld p 24 8 = 0 then (p &&& 0x00FFFFFF#32) ||| w32 (defaultLead p % 256 * 2 ^ 24) else p
    (h1.updDom (fun d => { d with joined := true, param := lead d.param, beatLock := d.root, locked := 0 })).startValues
  else if v.getLsbD 30 && h1.dom.joined && h1.le.quiet then
    (h1.updDom (fun d => { d with joined := false, beatLock := false, locked := 0 })).startValues
  else h1
/-- JOIN: a write of DOM_CTRL. -/
def execJoin (v : BitVec 32) (s : State) : Out := onHw (fun _ h => domCtrlWrite v h.access) s
/-- LEAVE: a write of DOM_CTRL. -/
def execLeave (v : BitVec 32) (s : State) : Out := onHw (fun _ h => domCtrlWrite v h.access) s

/-- A write of RTCOMMIT: the shadow table becomes active in both plates (R348). -/
def rtCommit (v : W32) (h : Hw) : Hw := if v.getLsbD 0 then h.updDom (fun d => { d with rtAct := d.rt }) else h
/-- RTCOMMIT. -/
def execRtcommit (v : BitVec 32) (s : State) : Out := onHw (fun _ h => rtCommit v h.access) s

/-! ### The domain registers (R365) -/

/-- DSTAT. -/
def Domain.dstat (d : Domain) : W32 :=
  w32 (b2n d.joined * 2 ^ 28 + b2n (d.beatLock || (d.joined && d.root)) * 2 ^ 27 + b2n d.slip * 2 ^ 26 + b2n d.armed.isSome * 2 ^ 25 + b2n d.snapDone * 2 ^ 24)

/-- The code of a link state. -/
def LState.code : LState → Nat
  | .down => 0
  | .train => 1
  | .align => 2
  | .up => 3

/-- LSTATl. -/
def Link.lstat (l : Link) : W32 :=
  w32 (l.state.code * 2 ^ 30 + b2n l.miswire * 2 ^ 29 + b2n l.combine * 2 ^ 28 + l.peerNum * 2 ^ 18 + l.peerLink * 2 ^ 15)

/-- Records held in the plates for full mortises (R361). -/
def Hw.heldRecords (h : Hw) : Nat := (h.recsWest.held.filter h.heldFull).length + (h.recsEast.held.filter h.heldFull).length

/-- Read a link register. -/
def Link.regRead (l : Link) (r : Nat) : W32 :=
  match r with
  | 0x00 => l.ctrl
  | 0x04 => l.lstat
  | 0x08 => l.fecCorr
  | 0x0C => l.fecUnc
  | 0x10 => l.replays
  | 0x14 => l.ldown
  | _ => 0

/-- The read of an RC register of a link clears it. -/
def Link.regClear (l : Link) (r : Nat) : Link :=
  match r with
  | 0x08 => { l with fecCorr := 0 }
  | 0x0C => { l with fecUnc := 0 }
  | 0x10 => { l with replays := 0 }
  | 0x14 => { l with downCause := 0, downCount := 0 }
  | _ => l

/-- Read a domain register, with the latching of BEAT_LO and BEATF_LO and the clearing of the RC registers (R365). -/
def domRead (off : Nat) (h : Hw) : W32 × Hw :=
  let d := h.dom
  if 0x100 ≤ off ∧ off < 0x200 then
    let l : Fin 8 := fin 8 ((off - 0x100) / 0x20)
    ((h.link l).regRead (off % 0x20), h.updLink l (·.regClear (off % 0x20)))
  else if 0x1000 ≤ off ∧ off < 0x2000 ∧ off % 4 = 0 then (sgetD ((off - 0x1000) / 4) 0 d.rt, h)
  else if 0x2000 ≤ off ∧ off < 0x3000 ∧ off % 4 = 0 then (sgetD ((off - 0x2000) / 4) 0 d.rtAct, h)
  else
    match off with
    | 0x00 => (w32 (b2n d.root), h)
    | 0x04 => (d.domId, h)
    | 0x08 => (d.param, h)
    | 0x0C => (d.dstat, h)
    | 0x10 => (d.dstep, h)
    | 0x14 => (d.stepTimeout, h)
    | 0x18 => (w32 d.beat, h.updDom (fun d => { d with beatHi := w32 (d.beat / 2 ^ 32) }))
    | 0x1C => (d.beatHi, h)
    | 0x20 => (w32 d.beatf, h.updDom (fun d => { d with beatfHi := w32 (d.beatf / 2 ^ 32) }))
    | 0x24 => (d.beatfHi, h)
    | 0x28 => (d.beatOfs.setWidth 32, h)
    | 0x2C => (d.snapBeat, h)
    | 0x30 => (w32 (b2n d.snapArm * 2 ^ 31 + min 0xFFFF h.heldRecords), h)
    | 0x38 => (d.dresetGen.setWidth 32, h)
    | 0x3C => (d.dslips, h.updDom (fun d => { d with dslips := 0 }))
    | _ => (0, h)

/-- Write a domain register other than DRESET (R365). -/
def domWrite (off : Nat) (v : W32) (h : Hw) : Hw :=
  let d := h.dom
  if 0x100 ≤ off ∧ off < 0x200 ∧ off % 0x20 = 0 then linkEnable (fin 8 ((off - 0x100) / 0x20)) v h
  else if 0x1000 ≤ off ∧ off < 0x2000 ∧ off % 4 = 0 then
    h.updDom (fun d => { d with rt := sset ((off - 0x1000) / 4) (v &&& 0x8000003F#32) d.rt })
  else
    match off with
    | 0x00 => domCtrlWrite v h
    | 0x04 => if d.joined then h else h.updDom (fun d => { d with domId := v &&& 0x03FFFFFF#32 })
    | 0x08 =>
      let old := if d.joined then d.param &&& 0x001F0700#32 else v &&& 0x001F0700#32
      h.updDom (fun d => { d with param := (v &&& 0xFF000000#32) ||| old })
    | 0x0C => if v.getLsbD 26 then h.updDom (fun d => { d with slip := false }) else h
    | 0x14 => h.updDom (fun d => { d with stepTimeout := v })
    | 0x2C => h.updDom (fun d => { d with snapBeat := v })
    | 0x30 => snapArm v h
    | 0x40 => rtCommit v h
    | _ => h

end Sys2Proof.Machine
end

