-- ==== Sys2Proof/Machine/Groups.lean ====
section
/-!
DEFINITION. The accumulation instructions (R73 to R95): AOPEN, ACLOSE, ADRAIN and its drain, APASS and ACHAIN on the stream
unit, the return of credits to tenons, and the accumulation ports.
-/

namespace Sys2Proof.Machine

/-! ### AOPEN, ACLOSE, ADRAIN (R74 to R83) -/

/-- Checks 1 and 3 of an accumulation instruction (R74). -/
def groupCheck (w : Who) (k : Core) (g : Fin 8) : Option Nat :=
  if groupCount w.core ≤ g.val then some excGroupInvalid
  else if k.groups[g].opened && k.groups[g].owner != w.thread then some excGroupOwned
  else none

/-- AOPEN: the window, the owner, and every accumulator 0 and finite (R76). -/
def execAopen (w : Who) (g : Fin 8) (fa fb : BitVec 4) (lse : BitVec 10) (s : State) : Out :=
  onHw (runInstr w {} (fun _ h =>
    let k := h.core w.core
    let th := h.thread w
    if groupCount w.core ≤ g.val then (faultAt th excGroupInvalid, h)
    else if !validPair fa.toNat fb.toNat then (faultAt th excMatFormat, h)
    else
      match groupCheck w k g with
      | some code => (faultAt th code, h)
      | none =>
        if k.groupWaits g (h.cycle w.core) then (.stall .interlock 0, h)
        else
          (.done 1, h.setCore w.core (k.updGroup g (fun _ =>
            { opened := true, owner := w.thread, fa := fa, fb := fb, lse := lse }))))) s

/-- ACLOSE: OPEN 0 and no owner; the rest stands (R77). -/
def execAclose (w : Who) (g : Fin 8) (s : State) : Out :=
  onHw (runInstr w {} (fun _ h =>
    let k := h.core w.core
    match groupCheck w k g with
    | some code => (faultAt (h.thread w) code, h)
    | none =>
      if k.groupWaits g (h.cycle w.core) then (.stall .interlock 0, h)
      else (.done 1, h.setCore w.core (k.updGroup g (fun x => { x with opened := false, owner := 0 }))))) s

/-- The drain formats (R80). -/
def isDrainFormat (code : Nat) : Bool := code != 0 && code != 7 && code < 0xD

/-- The checks of ADRAIN (R74). -/
def drainCheck (w : Who) (k : Core) (g td : Fin 8) (ts : Option (Fin 8)) : Option Nat :=
  let d := k.tiles[td]
  let st := ts.map (fun t => k.tiles[t])
  let side := arraySide w.core
  match groupCheck w k g with
  | some code => some code
  | none =>
    if !k.groups[g].opened then some excGroupClosed
    else if d.empty || (st.map Tile.empty).getD false then some excTileEmpty
    else if d.othersOwn w.thread || (st.map (·.othersOwn w.thread)).getD false then some excTileOwned
    else if !isDrainFormat d.code || (st.map (fun t => t.code != 0xE)).getD false then some excMatFormat
    else if side < d.rows || side < d.elems || (isMx d.code && d.elems != 32) ||
        (st.map (fun t => t.rows != 1 || t.rbytes < d.elems)).getD false || ts == some td then some excMatShape
    else none

/-- ADRAIN: its thread stalls until the drain begins (R83). -/
def execAdrain (w : Who) (g td : Fin 8) (ts : Option (Fin 8)) (keep : Bool) (shift : BitVec 8) (s : State) : Out :=
  onHw (runInstr w {} (fun _ h =>
    let k := h.core w.core
    match drainCheck w k g td ts with
    | some code => (faultAt (h.thread w) code, h)
    | none =>
      (.stall .drain 0, h.setCore w.core { k with drainWait := k.drainWait.set w.thread (some
        { g := g, td := td, ts := ts, keep := keep, shift := shift, issued := h.cycle w.core }) }))) s

/-- The waiting ADRAIN of a thread begins in the first cycle in which its interlocks have cleared (R75, R83), and its thread
issues again. The cursor of its tile is cleared with it. DESIGN CHOICE (log entry 19): the spec does not give the cycle in
which a drain reads row r; here it is cycle start + r, so that the last row is read in cycle start + rows - 1. -/
def drainBegin (w : Who) (h : Hw) : Hw :=
  let c := w.core
  let k := h.core c
  match k.drainWait[w.thread] with
  | none => h
  | some d =>
    let held := fun (t : Fin 8) => k.moveLocks t || k.trelNames t
    if k.frozenAt.isSome || k.mat.any (·.g == d.g) || k.matLocks d.td || held d.td || d.ts.any held then h
    else
      let free := max (d.issued + 1) (max k.groupFree[d.g] (max k.tileFree[d.td] ((d.ts.map (fun t => k.tileFree[t])).getD 0)))
      let names := fun (r : DrainRun) => r.names d.td || d.ts == some r.td
      let from_ := k.drains.foldl (fun n r =>
        max n (max (if r.g = d.g then r.readEnd + 1 else 0) (if names r then r.writeEnd + 1 else 0))) free
      let h1 := h.coreEvent c from_
      let start := h1.cycle c
      let run : DrainRun :=
        { g := d.g, td := d.td, ts := d.ts, keep := d.keep, shift := d.shift, start := start, rows := k.tiles[d.td].rows,
          lag := byKind c 6 4 3 }
      (h1.updCore c (fun k =>
        { (k.updTile d.td (fun t => { t with ract := false, rdir := false, rx := false, row := 0 })) with
          drainWait := k.drainWait.set w.thread none, drains := k.drains ++ [run] })).release w 1
/-- DRAIN_BEGIN. -/
def execDrainBegin (w : Who) (s : State) : Out := onHw (fun _ => drainBegin w) s

/-! ### Streams (R84 to R92, R250) -/

/-- A header matches a group (R88). -/
def headerMatches (c : CoreId) (gr : Group) (ws : List W64) : Bool :=
  let x := (ws.headD 0).toNat
  field x 48 16 == 0xACC1 && field x 38 10 == gr.lse.toNat && field x 34 4 == gr.fa.toNat && field x 30 4 == gr.fb.toNat &&
    field x 24 6 == arraySide c && field x 18 6 == arraySide c

/-- A trailer is well-formed (R89). -/
def trailerOk (ws : List W64) : Bool :=
  let x := (ws.headD 0).toNat
  x / 4 == 0xACC2 * 2 ^ 46 && (ws.drop 1).all (· == 0)

/-- Add one incoming entry into an accumulator (R87). -/
def Group.addEntry (gr : Group) (a e : Nat) : Group :=
  let r := (gr.at_ a).add (signed 96 (e % 2 ^ 96)) (Cls.of (e / 2 ^ 96))
  { (gr.put a r.1) with sat := gr.sat || r.2 }

/-- Add one data tuple to a group (R87): the entries it completes are added, the part of an entry it leaves is carried; the
forwarded copy holds the new values, and the low bits of the sum for a part carried. -/
def addTuple (count t carry carryBits : Nat) (ws : List W64) (gr : Group) : Group × Nat × Nat × List W64 :=
  let bits := carry + 2 ^ carryBits * tupleBits ws
  let n := carryBits + 256
  let a := (256 * (t - 1) - carryBits) / 98
  let m := n / 98
  let gr' := (List.range m).foldl (fun gr i => if a + i < count then gr.addEntry (a + i) (field bits (98 * i) 98) else gr) gr
  let rest := n - 98 * m
  let low := field bits (98 * m) rest
  let part := if a + m < count then ((gr'.at_ (a + m)).w.toNat + low) % 2 ^ rest else 0
  let fullBits := ((List.range m).foldr (fun i acc => gr'.entry count (a + i) + 2 ^ 98 * acc) part)
  (gr', low, rest, tupleWords (fullBits / 2 ^ carryBits % 2 ^ 256))

/-- Checks 1 to 10 of a stream instruction (R74). The route checks that raise CHAN_ROUTE (R243) stand between checks 9 and 10
(DESIGN CHOICE, log entry 87). -/
def streamCheck (w : Who) (h : Hw) (n : Option (Fin 16)) (achain : Bool) (g : Fin 8) (chan : Fin 16) : Option Nat :=
  let k := h.core w.core
  let cur := (h.thread w).acur
  match groupCheck w k g with
  | some code => some code
  | none =>
    if !k.groups[g].opened then some excGroupClosed
    else
      let route := n.map (fun n => Route.of k.tenons[n].active)
      if (route.map (fun r => !r.en || r.addr)).getD false then some excStreamRoute
      else if (route.map (fun r => routeBad h w.core r 4)).getD false then some excChanRoute
      else if cur.active && (cur.achain != achain || cur.g != g || cur.chan != chan) then some excStreamResume
      else none

/-- The job of a stream instruction, resuming an active cursor; copies that a cursor keeps and that are to go no further count as
completed (R91). -/
def Thread.streamJob (th : Thread) (t : Fin 4) (achain : Bool) (g : Fin 8) (chan : Fin 16) (fwd : Option Fwd) (tag : BitVec 6)
    (now : Nat) : StreamJob :=
  let cur := th.acur
  let on := fwd.isSome
  { thread := t, achain := achain, g := g, chan := chan, fwd := fwd, tag := tag
    tuples := if on then cur.tuples else cur.tuples + cur.taken.length, carry := cur.carry, carryBits := cur.carryBits
    resumed := cur.active, nextSend := now, taken := if on then cur.taken else [] }

/-- Start a stream instruction: it stalls its thread until it completes (R90). -/
def startStream (w : Who) (j : StreamJob) (h : Hw) : Hw :=
  (h.updThread w (fun th => { th with acur := {} })).updCore w.core (fun k => { k with stream := some j })

/-- APASS (R84 to R86, R90): its first send is made in its issue cycle. -/
def apass (w : Who) (g : Fin 8) (n : Fin 16) (tag : BitVec 6) (m : Mem) (h : Hw) : Hw :=
  (runInstr w {} (fun _ h =>
    let k := h.core w.core
    match streamCheck w h (some n) false g n with
    | some code => (faultAt (h.thread w) code, h)
    | none =>
      if k.groupWaits g (h.cycle w.core) || k.stream.isSome then (.stall .interlock 0, h)
      else (.stall .stream 0, startStream w ((h.thread w).streamJob w.thread false g n none tag (h.cycle w.core)) h)) m h).caughtUp
    w.core
/-- APASS. -/
def execApass (w : Who) (g : Fin 8) (n : Fin 16) (tag : BitVec 6) (s : State) : Out := onHw (apass w g n tag) s

/-- Check 11 of ACHAIN on an entry: it is the header of a matching stream (R74, R88, R89). -/
def headerOk (c : CoreId) (gr : Group) (e : Entry) : Bool := e.stream && headerMatches c gr e.words

/-- The entry at the head of an ACHAIN's mortise fails check 11, at tuple cursor 0 (R74). -/
def Core.headBad (k : Core) (c : CoreId) (g : Fin 8) (m : Fin 16) (tuples : Nat) : Bool :=
  match k.mortises[m] with
  | e :: _ => tuples == 0 && !headerOk c k.groups[g] e
  | [] => false

/-- ACHAIN (R74, R87, R90): with an entry waiting at cursor 0 its header is checked at issue. -/
def achain (w : Who) (g : Fin 8) (mo : Fin 16) (fwd : Option Fwd) (m : Mem) (h : Hw) : Hw :=
  (runInstr w {} (fun _ h =>
    let k := h.core w.core
    let th := h.thread w
    match streamCheck w h (fwd.map (·.tenon)) true g mo with
    | some code => (faultAt th code, h)
    | none =>
      if k.groupWaits g (h.cycle w.core) || k.stream.isSome then (.stall .interlock 0, h)
      else if k.headBad w.core g mo (th.acur.tuples + th.acur.taken.length) then (faultAt th excWindowMismatch, h)
      else (.stall .stream 0, startStream w (th.streamJob w.thread true g mo fwd 0 (h.cycle w.core)) h)) m h).caughtUp w.core
/-- ACHAIN. -/
def execAchain (w : Who) (g : Fin 8) (m : Fin 16) (fwd : Option Fwd) (s : State) : Out := onHw (achain w g m fwd) s

/-- A fault of an ACHAIN in progress: its entry stays, its cursor is left unless it has taken nothing (R74, R89, R91). -/
def Hw.streamFault (h : Hw) (c : CoreId) (j : StreamJob) : Hw :=
  let fresh := j.tuples == 0 && j.taken.isEmpty && !j.resumed
  ((h.updCore c (·.stopStream j.thread)).updThread ⟨c, j.thread⟩ (fun th =>
    { th with stall := none, acur := if fresh then {} else th.acur
              found := some { code := excWindowMismatch, epc := th.pc, at_ := h.cycle c } })).noted c

/-- The stream unit has room for a tuple in the present cycle, or in the one in which its oldest tuple is done with (R250). -/
def Hw.streamRoom (h : Hw) (c : CoreId) : Hw :=
  let x := h.coreEvent c 0
  match (x.core c).stream with
  | some j =>
    match j.taken with
    | t :: _ :: _ => x.coreEvent c (max t.due (if j.fwd.isSome then j.nextSend else 0))
    | _ => x
  | none => x

/-- The stream unit of an ACHAIN takes the head entry of its mortise while it holds fewer than two tuples in progress: the tuple
is added in that cycle (log entry 88), and is sent on or done with in the fourth after (R87, R89, R92, R250). -/
def streamTupleTake (c : CoreId) (h : Hw) : Hw :=
  let x := h.streamRoom c
  let k := x.core c
  match k.stream with
  | none => h
  | some j =>
    let pos := j.tuples + j.taken.length
    let last := dataTuples c + 1
    if !j.achain || 2 ≤ j.taken.length || last < pos || k.frozenAt.isSome then h
    else
      match k.mortises[j.chan] with
      | [] => h
      | e :: _ =>
        let gr := k.groups[j.g]
        let bad := !e.stream || (pos == 0 && !headerMatches c gr e.words) || (pos == last && !trailerOk e.words)
        if bad then x.streamFault c j
        else
          let r : Group × Nat × Nat × List W64 :=
            if pos = 0 then (gr, 0, 0, e.words)
            else if pos < last then addTuple (arraySide c * arraySide c) pos j.carry j.carryBits e.words gr
            else
              let y := e.words.headD 0
              let gr' := { gr with inx := gr.inx || y.getLsbD 1, sat := gr.sat || y.getLsbD 0 }
              (gr', 0, 0, streamTrailer gr')
          let k1 := (k.updGroup j.g (fun _ => r.1)).updStream (fun j =>
            { j with carry := r.2.1, carryBits := r.2.2.1, taken := j.taken ++ [{ due := x.cycle c + 4, words := r.2.2.2 }] })
          (((x.setCore c k1).traceEv ⟨c, j.thread⟩ 3 (x.thread ⟨c, j.thread⟩).pc j.chan).popMortise c j.chan).noted c
/-- STREAM_TUPLE_TAKE. -/
def execStreamTupleTake (c : CoreId) (s : State) : Out := onHw (fun _ => streamTupleTake c) s

/-! ### Credits return (R244, R258, R260) -/

/-- A credit in a tenon of its epoch counts; one of another is discarded (R260). -/
def Core.credit (k : Core) (n : Fin 16) (epoch cyc : Nat) : Core :=
  if k.tenons[n].epoch = epoch then (k.updTenon n (fun t => { t with credits := min 8 (t.credits + 1) })).clearCount n cyc else k

/-- The oldest credit on its way to a tenon arrives, in the order of its endpoints (R275). It counts in its cycle: for the commit
that waits for it, then for the stream unit, then for the threads (R242, R244, R246). -/
def creditReturn (c : CoreId) (n : Fin 16) (h : Hw) : Hw :=
  match takeFirst (fun x => x.core == c && x.tenon == n) h.credits with
  | none => h
  | some (x, rest) =>
    if x.source.any (fun d => h.bothFrozen c d) then h
    else
      match ({ h with credits := rest } : Hw).land x.flit x.due with
      | none => h
      | some (at_, h0) =>
        let h1 := (h0.reach at_).caughtUp c
        let h2 := h1.updCore c (·.credit n x.epoch (h1.cycle c))
        let h3 := match x.notice with
          | some t => h2.updThread ⟨c, t⟩ Thread.noticed
          | none => h2
        h3.routesMayApply c
/-- CREDIT_RETURN. -/
def execCreditReturn (c : CoreId) (n : Fin 16) (s : State) : Out := onHw (fun _ => creditReturn c n) s

/-- A pending route commit is applied once every changed tenon holds 8 credits; a stream that it held goes on (R242). -/
def execRouteCommitApply (c : CoreId) (s : State) : Out := onHw (fun _ h => h.routesMayApply c) s

/-! ### Ports (R93 to R95) -/

/-- Accepted instructions, a drain or a stream on a group (R93). -/
def Core.groupPend (k : Core) (g : Fin 8) (cyc : Nat) : Bool :=
  k.mat.any (·.g == g) || k.drains.any (fun d => d.g == g && decide (cyc ≤ d.writeEnd)) ||
    (List.finRange 4).any (fun t => (k.drainWait[t].map (·.g)) == some g) || (k.stream.map (·.g)) == some g

/-- ASTATn. -/
def Core.astat (k : Core) (g : Fin 8) (cyc : Nat) : W32 :=
  let x := k.groups[g]
  let has := fun (p : Cls → Bool) => x.acc.any (fun e => p e.2.cls)
  w32 (b2n x.opened * 2 ^ 31 + (if x.opened then x.owner.val else 0) * 2 ^ 29 + x.fa.toNat * 2 ^ 25 + x.fb.toNat * 2 ^ 21
    + x.lse.toNat * 2 ^ 11 + b2n x.inx * 1024 + b2n x.sat * 512 + b2n (has (· == .nan)) * 256
    + b2n (has (fun c => c == .pinf || c == .ninf)) * 128 + b2n (k.groupPend g cyc) * 64)

/-- ACUR of a thread. -/
def Thread.acurPort (th : Thread) : W32 :=
  let a := th.acur
  w32 (a.g.val * 2 ^ 22 + a.chan.val * 2 ^ 18 + b2n a.active * 1024 + b2n a.achain * 512 + a.tuples)

/-- The accumulator that ADBG_SEL selects: 0 beyond the group's size (R95). -/
def Core.adbg (k : Core) (c : CoreId) : Accum :=
  let g := fld k.adbgSel 10 3
  let i := fld k.adbgSel 5 5
  let j := fld k.adbgSel 0 5
  if g < groupCount c ∧ i < arraySide c ∧ j < arraySide c then k.groups[fin 8 g].at_ (arraySide c * i + j) else {}

/-- Read a port of the accumulation group. -/
def accumRead (ag : Agent) (c : CoreId) (p : Nat) (h : Hw) : W32 :=
  if p < 0x628 then
    let g := p - 0x620
    if g < groupCount c then (h.core c).astat (fin 8 g) (h.cycle c) else 0
  else if p = 0x628 then ((h.core c).thread ag.t).acurPort
  else 0

/-- A write of 1 to ACUR.ABANDON clears the cursor and the carried part (R91, R93). -/
def accumWrite (ag : Agent) (c : CoreId) (p : Nat) (v : W32) (h : Hw) : Hw :=
  if p = 0x628 ∧ v.getLsbD 31 then h.updThread ⟨c, ag.t⟩ (fun th => { th with acur := {} }) else h

/-- Read a port of the debug window; ADBG_W0 latches the selected accumulator for its reader (R95, R496). -/
def adbgRead (ag : Agent) (c : CoreId) (p : Nat) (h : Hw) : W32 × Hw :=
  if !h.debug then (0, h)
  else
    let k := h.core c
    let latched : BitVec 96 × BitVec 2 := match ag with
      | .thread t => ((k.thread t).adbgW, (k.thread t).adbgCls)
      | .purlin => (k.pAdbgW, k.pAdbgCls)
    match p with
    | 0xF20 => (k.adbgSel, h)
    | 0xF21 =>
      let a := k.adbg c
      (a.w.setWidth 32, match ag with
        | .thread t => h.updThread ⟨c, t⟩ (fun th => { th with adbgW := a.w, adbgCls := BitVec.ofNat 2 a.cls.code })
        | .purlin => h.updCore c (fun k => { k with pAdbgW := a.w, pAdbgCls := BitVec.ofNat 2 a.cls.code }))
    | 0xF22 => ((latched.1 >>> 32).setWidth 32, h)
    | 0xF23 => ((latched.1 >>> 64).setWidth 32, h)
    | 0xF24 => (latched.2.setWidth 32, h)
    | _ => (0, h)

/-- A write of ADBG_SEL (R95). -/
def adbgWrite (c : CoreId) (p : Nat) (v : W32) (h : Hw) : Hw :=
  if p = 0xF20 && h.debug then h.updCore c (fun k => { k with adbgSel := v &&& 0x1FFF#32 }) else h

end Sys2Proof.Machine
end

