-- ==== Sys2Proof/Machine/Debug.lean ====
section
/-!
DEFINITION. The machine-check and debug ports of a core (R467 to R476): freeze, thread stop, register access and trace.
-/

namespace Sys2Proof.Machine

/-! ### Thread stop (R473, R474) -/

/-- A stopped thread returns to the state it left, from its first slot at or after a CYCLE value, for one instruction when STEP is 1
(R474). -/
def Thread.go (th : Thread) (step : Bool) (next : Nat) : Thread :=
  if th.tstate = .stopped then
    { th with tstate := if th.wasWaiting then .waiting else .running, wasWaiting := false, stepOnce := step
              nextIssue := max th.nextIssue next }
  else th

/-- A thread stop takes hold in the thread's first slot after the present cycle (R473). -/
def Hw.stopAfter (h : Hw) (w : Who) : Hw := h.after (h.clockOf w.core (slotAt w.thread (h.cycle w.core + 1)) - 1) (.stop w)

/-- A purlin write of DTSTOP: STOP and GO of each thread (R473, R474). -/
def Hw.dtstop (h : Hw) (c : CoreId) (v : W32) : Hw :=
  ((List.finRange 4).foldl (fun (h : Hw) (t : Fin 4) =>
    let h1 := if v.getLsbD (4 + t.val) then h.updThread ⟨c, t⟩ (·.go (v.getLsbD 8) (h.cycle c + 1)) else h
    if v.getLsbD t.val then h1.stopAfter ⟨c, t⟩ else h1) h).noted c

/-! ### Register access (R475) -/

/-- The items of a thread that DREGSEL names. -/
inductive DItem where
  | a (r : Fin 16)
  | d (r : Fin 32)
  | accLo (r : Fin 4)
  | accHi (r : Fin 4)
  | v (r : Fin 32) (word : Nat)
  | pc
  | status

/-- The item that DREGSEL selects, if it exists in a core of this kind. -/
def ditem (c : CoreId) (sel : W32) : Option DItem :=
  let i := fld sel 0 10
  match fld sel 27 3 with
  | 0 => if i < 16 then some (.a (fin 16 i)) else none
  | 1 => if i < 32 then some (.d (fin 32 i)) else none
  | 2 => if i < 8 then some (if i % 2 = 0 then .accLo (fin 4 (i / 2)) else .accHi (fin 4 (i / 2))) else none
  | 3 => if i % 32 < vecBits c / 64 then some (.v (fin 32 (i / 32)) (i % 32)) else none
  | 4 => if i = 0 then some .pc else if i = 1 then some .status else none
  | _ => none

/-- The value of an item, zero-extended. -/
def Thread.ditemRead (th : Thread) : DItem → W64
  | .a r => (th.getA r).setWidth 64
  | .d r => th.getD r
  | .accLo r => (th.getAcc r).setWidth 64
  | .accHi r => ((th.getAcc r) >>> 64).setWidth 64
  | .v r w => ((th.v[r]) >>> (64 * w)).setWidth 64
  | .pc => th.pc.setWidth 64
  | .status => th.status.setWidth 64

/-- Write an item, truncated; the PC takes bits 19:2. -/
def Thread.ditemWrite (th : Thread) (x : W64) : DItem → Thread
  | .a r => th.setA r (x.setWidth 48)
  | .d r => th.setD r x
  | .accLo r => th.setAcc r (((th.getAcc r) >>> 64 <<< 64) ||| x.setWidth 72)
  | .accHi r => th.setAcc r ((x.setWidth 72 <<< 64) ||| ((th.getAcc r).setWidth 64).setWidth 72)
  | .v r w =>
    let mask := (BitVec.allOnes 64).setWidth 2048 <<< (64 * w)
    { th with v := th.v.set r ((th.v[r] &&& ~~~mask) ||| (x.setWidth 2048 <<< (64 * w))) }
  | .pc => { th with pc := x.setWidth 20 &&& 0xFFFFC#20 }
  | .status => th.setStatus (x.setWidth 32)

/-- A write of DRCMD: it acts on a STOPPED or HALTED thread's existing item, else sets ERR. -/
def Core.drcmd (k : Core) (c : CoreId) (v : W32) : Core :=
  let t : Fin 4 := fin 4 (fld k.dregsel 30 2)
  let th := k.thread t
  let rd := v.getLsbD 0
  let wr := v.getLsbD 1
  if !rd && !wr then k
  else
    match ditem c k.dregsel with
    | none => { k with dregErr := true }
    | some i =>
      if rd && wr || !(th.tstate == .stopped || th.tstate == .halted) then { k with dregErr := true }
      else if rd then { k with dreg := th.ditemRead i }
      else k.updThread t (·.ditemWrite k.dreg i)

/-! ### The ports -/

/-- The trace entry that TRSEL selects: entry 1,023 holds the drop count (R476). -/
def Bent.traceEntry (b : Bent) : BitVec 128 :=
  let i := fld b.trsel 0 10
  if i = 1023 then b.traceDrop.setWidth 128 <<< 96 else sgetD i 0 b.trace

/-- Read a port of the machine-check and debug group. -/
def debugRead (ag : Agent) (c : CoreId) (p : Nat) (h : Hw) : W32 × Hw :=
  let k := h.core c
  let dbg := fun (r : W32 × Hw) => if h.debug then r else (0, h)
  if p = 0xF00 then (k.mcstat, h)
  else if p = 0xF01 then (k.mcaddr.setWidth 32, h)
  else if p = 0xF02 then (w32 (b2n k.mcMore * 2 ^ 31 + k.mcaddr.toNat / 2 ^ 32), h)
  else if p = 0xF03 then
    (k.secc, match ag with
      | .thread _ => h.updCore c (fun k => { k with secc := 0 })
      | .purlin => h)
  else if p = 0xF08 then (w32 (b2n k.frozenAt.isSome), h)
  else if p = 0xF10 then dbg (k.dregsel ||| w32 (b2n k.dregErr * 2 ^ 26), h)
  else if p = 0xF12 then dbg (k.dreg.setWidth 32, h)
  else if p = 0xF13 then dbg ((k.dreg >>> 32).setWidth 32, h)
  else if 0xF20 ≤ p ∧ p ≤ 0xF24 then adbgRead ag c p h
  else if p = 0xF30 then dbg (k.trctl, h)
  else if p = 0xF31 then dbg ((h.bent (bentOf c)).trsel, h)
  else if p = 0xF32 then
    let e := (h.bent (bentOf c)).traceEntry
    dbg (e.setWidth 32, match ag with
      | .thread t => h.updThread ⟨c, t⟩ (fun th => { th with trLatch := e })
      | .purlin => h.updCore c (fun k => { k with pTrLatch := e }))
  else if 0xF33 ≤ p ∧ p ≤ 0xF35 then
    let e : BitVec 128 := match ag with
      | .thread t => (k.thread t).trLatch
      | .purlin => k.pTrLatch
    dbg ((e >>> (32 * (p - 0xF32))).setWidth 32, h)
  else (0, h)

/-- Write a port of the machine-check and debug group; DFRZ and DTSTOP are written by the purlin only. -/
def debugWrite (ag : Agent) (c : CoreId) (p : Nat) (v : W32) (h : Hw) : Hw :=
  let dbg := fun (x : Hw) => if h.debug then x else h
  if p = 0xF00 then h.updCore c (fun k => { k with mcstat := k.mcstat &&& ~~~(v &&& 0x1F#32) })
  else if p = 0xF02 then if v.getLsbD 31 then h.updCore c (fun k => { k with mcMore := false }) else h
  else if p = 0xF08 then
    match ag with
    | .purlin => h.after h.clock (if v.getLsbD 0 then .freeze (some c) else .thaw (some c))
    | .thread _ => h
  else if p = 0xF09 then
    match ag with
    | .purlin => dbg (h.dtstop c v)
    | .thread _ => h
  else if p = 0xF10 then dbg (h.updCore c (fun k => { k with dregsel := v &&& 0xF80003FF#32, dregErr := false }))
  else if p = 0xF11 then dbg (h.updCore c (·.drcmd c v))
  else if p = 0xF12 then dbg (h.updCore c (fun k => { k with dreg := (k.dreg >>> 32 <<< 32) ||| v.setWidth 64 }))
  else if p = 0xF13 then
    dbg (h.updCore c (fun k => { k with dreg := ((k.dreg.setWidth 32).setWidth 64) ||| (v.setWidth 64 <<< 32) }))
  else if p = 0xF20 then adbgWrite c p v h
  else if p = 0xF30 then dbg (h.updCore c (fun k => { k with trctl := v &&& 0x800F001F#32 }))
  else if p = 0xF31 then dbg (h.updBent (bentOf c) (fun b => { b with trsel := v &&& 0x3FF#32 }))
  else h

end Sys2Proof.Machine
end

