-- ==== Sys2Proof/Machine/Slices.lean ====
section
/-!
DEFINITION. Shared-memory slices (R266 to R269, R466), the LPDDR6 controllers (R397 to R402, R409 to R411), the page map
and its caches (R403 to R408).
-/

namespace Sys2Proof.Machine

/-! ### Answers to requests -/

/-- A miss register's line leaves for it: its bytes, 0 for an uncorrectable read, with the clock of its arrival and its flit (R233,
R410). -/
def Core.fillMiss (k : Core) (r : Fin 8) (key : Nat) (data : Option (List Byte)) (due flit : Nat) : Core :=
  { k with miss := k.miss.set r (k.miss[r].map (fun q =>
      if q.key = key ∧ q.data.isNone then
        { q with data := some (data.getD (List.replicate 64 0)), err := data.isNone, due := due, flit := flit }
      else q)) }

/-- The line of an uncached load's piece has been read and arrives at a clock value (R148, R410). -/
def Hw.answerLoad (h : Hw) (w : Who) (piece key : Nat) (data : Option (List Byte)) (due : Nat) : Hw :=
  match (h.core w.core).loads[w.thread] with
  | none => h
  | some o =>
    let (loc, n) := o.pieces.getD piece (0, 0)
    if !o.uncached || loc / 64 != key then h
    else
      let h1 := if data.isNone then h.machineCheck w.core 0 (key * 64) else h
      (h1.setLoad w (some { o with due := max o.due due })).loadPiece w piece (((data.getD (List.replicate 64 0)).drop (loc % 64)).take n)

/-- A line of a TLD.U has been read and arrives at a clock value (R108, R410). -/
def Hw.answerTile (h : Hw) (c : CoreId) (key : Nat) (data : Option (List Byte)) (due : Nat) : Hw :=
  match (h.core c).tileMove with
  | none => h
  | some mv =>
    if mv.asked.contains key then
      let h1 := if data.isNone then h.machineCheck c 0 (key * 64) else h
      h1.updCore c (fun k =>
        { k with tileMove := some { mv with asked := mv.asked.erase key, got := (key, data.getD (List.replicate 64 0), due) :: mv.got } })
    else h

/-- A line of a unit of an engine has been read and arrives at a clock value (R226). -/
def answerUnit (b : BentId) (e : Fin 4) (req unit piece : Nat) (data : Option (List Byte)) (due : Nat) (m : Mem) (h : Hw) : Mem × Hw :=
  match ((h.bent b).engines[e].find? (fun r => r.reqId == req)).bind (fun r => r.reading.find? (fun u => u.off == unit)) with
  | some u => xfill b e req unit piece (pieceBytes u.src piece (data.getD (List.replicate 64 0))) data.isNone due m h
  | none => (m, h)

/-- The plate of a COPY cut's agent (R322). -/
def Cut.agent (x : Cut) : Plate := if bitAt (x.spec.getD 3 0) 0 then .east else .west

/-- The number of a plate as a source of slot-3 units (R222, R322). -/
def plateSrc : Plate → Nat
  | .west => 49
  | .east => 50

/-- The bytes of a unit that a plate has read go to their destination, at a clock value. -/
def plateWrite (p : Plate) (loc : XLoc) (path : RowPath) (o : Origin) (bs : List Byte) (now : Nat) (m : Mem) (h : Hw) : Mem × Hw :=
  let remote := match loc with
    | .scratch _ _ => true
    | _ => false
  xwrite loc path (plateSrc p) 0 (plateRouter p) remote o bs now m h

/-- Change a unit of a COPY cut. -/
def Cut.updUnit (x : Cut) (unit : Nat) (f : XUnit → XUnit) : Cut := { x with reading := updFirst (·.off == unit) f x.reading }

/-- A unit of a COPY cut whose source has been read whole is passed on to its destination, or fails (R322). -/
def copyPass (i : Nat) (x : Cut) (u : XUnit) (m : Mem) (h : Hw) : Mem × Hw :=
  let h1 := h.updCut i (·.updUnit u.off (fun u => { u with sent := true, got := [] }))
  if u.err then (m, h1.copySettle i u.off 7 u.due)
  else plateWrite x.agent (xlocate 0 (field (x.spec.getD 1 0) 0 48 + u.off) u.n true) u.dst (.copy i u.off) u.bytes u.due m h1

/-- A line of a unit of a COPY cut has been read and arrives at a clock value. -/
def answerCopy (i unit piece : Nat) (data : Option (List Byte)) (due : Nat) (m : Mem) (h : Hw) : Mem × Hw :=
  match (sget i h.le.cuts).bind (fun x => x.reading.find? (fun u => u.off == unit)) with
  | none => (m, h)
  | some u0 =>
    let bs := pieceBytes u0.src piece (data.getD (List.replicate 64 0))
    let h1 := h.updCut i (·.updUnit unit (·.take piece bs data.isNone due))
    match sget i h1.le.cuts, (sget i h1.le.cuts).bind (fun x => x.reading.find? (fun u => u.off == unit)) with
    | some x, some u => if u.whole && !u.sent then copyPass i x u m h1 else (m, h1)
    | _, _ => (m, h1)

/-- A machine-check event to the firmware (R469). -/
def Hw.mchkEvent (h : Hw) (cls cause gcore bent addr : Nat) : Hw :=
  h.postEvent 0xCB 0 [BitVec.ofNat 64 (cls * 2 ^ 56 + cause * 2 ^ 48 + gcore * 2 ^ 36 + bent * 2 ^ 30 + 1), BitVec.ofNat 64 addr]

/-- A bent's machine-check source: 0 walk, 1 patrol, 2 mesh read (R467, R469). -/
def Hw.bentMchk (h : Hw) (b cause addr : Nat) : Hw := (h.raiseSource (48 + b)).mchkEvent 3 cause 0xFFF b addr

/-- A read has been performed, and its line leaves the endpoint that keeps it at a clock value, as a flit on the reply channel where
it goes to another (R271, R272); an uncorrectable slice read for a plate is a BENT_MCHK too (R467). -/
def answerRead (q : MemReq) (data : Option (List Byte)) (start : Nat) (m : Mem) (h : Hw) : Mem × Hw :=
  let src := keyEnd q.key
  match q.owner with
  | .miss c r =>
    let x := h.post src q.home 1 start
    (m, x.2.updCore c (·.fillMiss r q.key data (start + meshTime src q.home) x.1))
  | .load c t piece => let x := h.carry src q.home 1 start; (m, x.2.answerLoad ⟨c, t⟩ piece q.key data x.1)
  | .tile c => let x := h.carry src q.home 1 start; (m, x.2.answerTile c q.key data x.1)
  | .engine b e req unit piece => let x := h.carry src q.home 1 start; answerUnit b e req unit piece data x.1 m x.2
  | .copy i unit piece =>
    let h1 := if data.isNone && !isExtKey q.key then h.bentMchk (keyBent q.key) 2 (q.key * 64) else h
    let x := h1.carry src q.home 1 start
    answerCopy i unit piece data x.1 m x.2
  | .evict _ _ | .origin _ => (m, h)

/-- A write has been performed: its owner is told, and its acknowledgement travels back (R202, R235, R272, R400). -/
def answerWrite (q : MemReq) (err : Bool) (start : Nat) (h : Hw) : Hw :=
  let h1 := h.postAuto (keyEnd q.key) q.home 1 start
  match q.owner with
  | .origin o => h1.settleUnit 0 o (if err then .memErr else .ok) h.clock
  | .evict c serial =>
    let h2 := h1.updCore c (fun k => { (k.cinvTo (h.cycle c)) with evb := k.evb.filter (fun x => x.serial != serial), evDone := max k.evDone serial })
    let h3 := h2.updCore c (·.cinvOn (h.cycle c))
    if err then h3.lateStore c (q.key * 64) else h3
  | _ => h1

/-- Perform a request in the present cycle, a read or an indivisible write of one line; its answer leaves at a clock value (R268,
R400, R410). -/
def performReq (q : MemReq) (start : Nat) (m : Mem) (h : Hw) : Mem × Hw :=
  match q.wr with
  | none => let r := performRead q.key m h; answerRead q r.1 start m r.2
  | some ws => let r := performWrite q.key ws m h; (r.2.1, answerWrite q r.1 start r.2.2)

/-! ### Slices (R267 to R269) -/

/-- The order of service: earliest entry, then the lower port (R269). -/
def sliceOrder (x y : MemReq) : Bool := x.entered < y.entered || (x.entered == y.entered && x.port ≤ y.port)

/-- The request that a slice performs next, of those that have reached it, and the clock of that: at most one a cycle (R268,
R269). -/
def Bent.sliceNext (x : Bent) (sl now : Nat) : Option (MemReq × Nat) :=
  (inOrder sliceOrder ((sgetD sl [] x.slices).filter (·.flit == 0))).head?.map (fun r =>
    let used := sgetD sl [] x.sliceUsed
    (r, freeClock used used.length (max r.entered (max now (sgetD sl 0 x.sliceFrom)))))

/-- The requests that come over the mesh reach a slice through its bent's port 48 as far as they may be performed next (R267). -/
def sliceLand (b sl : Nat) : Nat → Hw → Hw
  | 0, h => h
  | fuel + 1, h =>
    let x := h.bent b
    let q := sgetD sl [] x.slices
    match h.landFirst ((q.filter (·.flit != 0)).map (fun r => (r.flit, r.entered))) ((x.sliceNext sl h.clock).map (·.2)) with
    | none => h
    | some (n, at_, h1) =>
      match q.find? (·.flit == n) with
      | some r => sliceLand b sl fuel ((h1.updBent b (·.updSlice sl (·.erase r))).present b meshPort { r with flit := 0 } at_)
      | none => h1

/-- The clock at which the answer of a request performed at a clock value leaves for its requestor: each port has one a cycle
(R269). -/
def Hw.answerTurn (h : Hw) (b port : Nat) (from_ : Nat) : Nat × Hw :=
  let used := sgetD port [] (h.bent b).replyUsed
  let t := freeClock used used.length from_
  (t, h.updBent b (fun x => { x with replyUsed := sset port (t :: used.filter (fun t => decide (h.clock ≤ t))) x.replyUsed }))

/-- A turn of a slice for a line of an agent that takes or gives its bytes at the command, and the clock of it (R268; log
entry 98). -/
def Hw.sliceTurn (h : Hw) (b sl from_ : Nat) : Nat × Hw :=
  let used := sgetD sl [] (h.bent b).sliceUsed
  let t := freeClock used used.length (max from_ (sgetD sl 0 (h.bent b).sliceFrom))
  (t, h.updBent b (fun x => { x with sliceUsed := sset sl (t :: used.filter (fun t => decide (h.clock ≤ t))) x.sliceUsed }))

/-- The traffic of such a line with the block that keeps it: a flit there on a channel, through port 48 and the slice of a bent, and the
answer on the reply channel, whose arrival it gives (R267, R271, R272; log entry 98). -/
def Hw.lineTraffic (h : Hw) (src key : Nat) (vc : Fin 4) : Nat × Hw :=
  let dst := keyEnd key
  let h1 := h.postAuto src dst vc h.clock
  let at_ := h.clock + meshTime src dst
  let x : Nat × Hw :=
    if isExtKey key then (at_ + replyTime key, h1)
    else
      let p := h1.portTurn dst meshPort at_
      let t := p.2.sliceTurn dst (keySlice key) p.1
      t.2.answerTurn dst meshPort (t.1 + replyTime key)
  x.2.carry dst src 1 x.1

/-- A line part that an agent reads so, when its word is not uncorrectable; for the Ridge and the plates an uncorrectable slice read is
a BENT_MCHK of cause 2 (R467; log entry 98). -/
def Hw.lineRead (h : Hw) (src : Nat) (vc : Fin 4) (loc n : Nat) (m : Mem) : Option (List Byte) × Hw :=
  let key := loc / 64
  let r := performRead key m (h.lineTraffic src key vc).2
  (r.1.map (fun bs => (bs.drop (loc % 64)).take n),
    if r.1.isNone && !isExtKey key then r.2.bentMchk (keyBent key) 2 (key * 64) else r.2)

/-- A slice performs its next request. -/
def sliceRequest (b : BentId) (sl : Fin 64) (m : Mem) (h : Hw) : Mem × Hw :=
  let h0 := sliceLand b sl (sgetD sl.val [] (h.bent b).slices).length h
  match (h0.bent b).sliceNext sl h0.clock with
  | none => (m, h)
  | some (r, t) =>
    let h1 := (h0.event t).updBent b (fun x => { (x.updSlice sl (·.erase r)) with sliceFrom := sset sl.val (t + 1) x.sliceFrom })
    let h2 := Hw.unhold b r.port (t + 1) (sgetD r.port [] (h1.bent b).portHeld).length h1
    let x := h2.answerTurn b r.port (t + replyTime r.key)
    performReq r x.1 m x.2
/-- SLICE_REQUEST. -/
def execSliceRequest (b : BentId) (sl : Fin 64) (s : State) : Out := onMem (sliceRequest b sl) s

/-- The key of a slice's line (R266). -/
def sliceKey (b sl line : Nat) : Nat := sharedLine0 + b * 0x1000000 + line * 64 + sl

/-- The patrol of a slice reads one line: a corrected word is rewritten and counted, an uncorrectable one is reported
(R466, R467). -/
def slicePatrol (b : BentId) (sl : Fin 64) (line : BitVec 18) (ecc : Ecc) (h : Hw) : Hw :=
  let key := sliceKey b sl line.toNat
  let words := (List.range 8).map (fun i => 8 * key + i)
  let bad := (h.bent b).sliceUe.any (fun w => w / 8 == key)
  if ecc = .uncorrectable ∨ bad then
    (h.updBent b (fun x => { x with sliceUe := if bad then x.sliceUe else words ++ x.sliceUe })).bentMchk b 1 (key * 64)
  else if ecc = .correctable then h.updBent b (fun x => { x with corrected := x.corrected + 1 })
  else h
/-- SLICE_PATROL. -/
def execSlicePatrol (b : BentId) (sl : Fin 64) (line : BitVec 18) (ecc : Ecc) (s : State) : Out :=
  onHw (fun _ => slicePatrol b sl line ecc) s

/-! ### LPDDR6 controllers (R397, R398, R402, R411) -/

/-- The sub-channel of a line of external memory: bits 12:6 of its physical address (R397). -/
def subOf (key : Nat) : Nat := (key - extLine0) % 128

/-- A request comes before another of the same line: it was accepted earlier, or in the same cycle from the lower source
(R411). -/
def MemReq.before (x y : MemReq) : Bool :=
  x != y && x.key == y.key && (decide (x.entered < y.entered) || (x.entered == y.entered && decide (x.port < y.port)))

/-- The requests that may be performed next, of those that have reached the controller: the first of each line (R411). -/
def Xmem.heads (x : Xmem) : List MemReq :=
  let q := x.queue.filter (·.flit == 0)
  q.filter (fun r => !q.any (·.before r))

/-- The clock from which a request can be performed: it has been accepted, and its sub-channel is not held (R398). -/
def Xmem.readyAt (x : Xmem) (now : Nat) (r : MemReq) : Nat := max (max now r.entered) (sgetD (subOf r.key) 0 x.held)

/-- The first clock at which a controller can perform a request of a list. -/
def Xmem.turn (x : Xmem) (now : Nat) (rs : List MemReq) : Option Nat :=
  match rs.map (x.readyAt now) with
  | [] => none
  | t :: rest => some (rest.foldl min t)

/-- The requests that come over the mesh reach a controller as far as they may be performed next. -/
def memLand (p : Plate) : Nat → Hw → Hw
  | 0, h => h
  | fuel + 1, h =>
    let x := h.xm p
    match h.landFirst ((x.queue.filter (·.flit != 0)).map (fun r => (r.flit, r.entered))) (x.turn h.clock x.heads) with
    | none => h
    | some (n, at_, h1) =>
      memLand p fuel (h1.updXm p (fun x => { x with queue := updFirst (·.flit == n) (fun r => { r with flit := 0, entered := at_ }) x.queue }))

/-- A controller performs one of a list of requests: of several that it could perform in its next cycle it chooses in an order of its
own, a free value (R293, R411). -/
def memoryTake (p : Plate) (rs : List MemReq) (m : Mem) (h : Hw) : Mem × Hw :=
  let x := h.xm p
  match x.turn h.clock rs with
  | none => (m, h)
  | some t =>
    let now := rs.filter (fun r => decide (x.readyAt h.clock r ≤ t))
    let c : Nat × Hw := if now.length < 2 then (0, h) else h.free
    match now.drop (c.1 % (max 1 now.length)) with
    | [] => (m, h)
    | r :: _ =>
      let h1 := (c.2.event t).updXm p (fun x => { x with queue := x.queue.erase r })
      performReq r (t + replyTime r.key) m h1

/-- A controller performs its next request. -/
def memoryRequest (p : Plate) (m : Mem) (h : Hw) : Mem × Hw :=
  let h1 := memLand p (h.xm p).queue.length h
  let rs := (h1.xm p).heads
  if rs.isEmpty then (m, h) else memoryTake p rs m h1
/-- MEMORY_REQUEST. -/
def execMemoryRequest (p : Plate) (s : State) : Out := onMem (memoryRequest p) s

/-! ### Write-backs (R235, R287, R297) -/

/-- The blocks that keep a line work until the write-back with a serial number has been performed: its slice, or its controller on the
requests of its line (R235). -/
def driveEviction (c : CoreId) (key serial : Nat) : Nat → Mem × Hw → Mem × Hw
  | 0, x => x
  | fuel + 1, x =>
    if (x.2.core c).evb.any (·.serial == serial) then
      driveEviction c key serial fuel
        (if isExtKey key then
          let p := keyPlate key
          let h1 := memLand p (x.2.xm p).queue.length x.2
          memoryTake p ((h1.xm p).heads.filter (·.key == key)) x.1 h1
        else sliceRequest (bentId (keyBent key)) (fin 64 (keySlice key)) x.1 x.2)
    else x

/-- The eviction buffer writes its oldest entry's masked bytes to memory: the write is requested (R235, R267, R287), and what keeps
the line performs the requests before it and then it (R269, R302, R411). -/
def evictionWriteback (c : CoreId) (m : Mem) (h : Hw) : Mem × Hw :=
  match (h.core c).evb with
  | [] => (m, h)
  | e :: _ =>
    let h1 := if e.sent then h else
      (h.updCore c (fun k => { k with evb := updFirst (·.serial == e.serial) (fun x => { x with sent := true }) k.evb })).request
        (bentOf c) (coreIn c) e.key (some (maskedBytes e.data e.mask)) (.evict c e.serial)
    driveEviction c e.key e.serial 256 (m, h1)

/-- EVICTION_WRITEBACK. -/
def execEvictionWriteback (c : CoreId) (s : State) : Out := onMem (evictionWriteback c) s

/-! ### Errors and maintenance (R398, R402, R410) -/

/-- A corrected error is counted in XCE (R410). -/
def Hw.countCe (h : Hw) (p : Plate) : Hw := h.updXm p (fun x => { x with xce := x.xce + 1 })

/-- A patrol read of a line (R402): a corrected line is rewritten and counted, an uncorrectable one is counted and gets
POISON. -/
def patrolRead (p : Plate) (line : Nat) (ecc : Ecc) (h : Hw) : Hw :=
  if plateOf (line * 64) ≠ p then h
  else if ecc = .uncorrectable ∨ h.poison.contains line then
    let h1 := h.countUe (extLine0 + line)
    { h1 with poison := if h.poison.contains line then h.poison else line :: h.poison }
  else if ecc = .correctable then h.countCe p
  else h
/-- PATROL_READ: a line beyond the 39-bit physical space does not exist (log entry 7). -/
def execPatrolRead (p : Plate) (line : Nat) (ecc : Ecc) (s : State) : Out :=
  if line < 2 ^ 33 then onHw (fun _ => patrolRead p line ecc) s else .fault .noSuchLine

/-- Periodic retraining of the data path holds one sub-channel for at most 2 µs (R398). -/
def execDataRetraining (sub : Fin 128) (s : State) : Out :=
  onHw (fun _ h =>
    h.updXm (if sub.val < 64 then .west else .east) (fun x => { x with held := sset sub.val (h.clock + 6000) x.held })) s

/-- A per-bank refresh takes time that no rule lets an agent observe as a value (R398). -/
def execPerBankRefresh (_sub : Fin 128) (_bank : Fin 16) (s : State) : Out := onHw (fun _ h => h) s

/-! ### Page map walks and commits (R404 to R408, R410) -/

/-- The physical address of a page's entry (R404). -/
def entryAddr (vpn : Nat) : Nat := 0x7FFC000000 + 4 * vpn

/-- The cache of a number: bents 0 to 47, then the west and the east plate. -/
def Hw.pmCache (h : Hw) (k : Nat) : PmCache :=
  if k < 48 then (h.bent k).pm else if k = 48 then h.xmWest.pm else h.xmEast.pm
/-- Change that cache. -/
def Hw.updPm (h : Hw) (k : Nat) (f : PmCache → PmCache) : Hw :=
  if k < 48 then h.updBent k (fun b => { b with pm := f b.pm })
  else if k = 48 then h.updXm .west (fun x => { x with pm := f x.pm })
  else h.updXm .east (fun x => { x with pm := f x.pm })

/-- A walk reads its entry from physical memory (R406); an uncorrectable entry makes the translation PAGE_ABSENT and raises
the walking bent's machine-check source (R410). -/
def pageWalkEnd (k : Fin 50) (vpn : BitVec 24) (ecc : Ecc) (m : Mem) (h : Hw) : Hw :=
  let v := vpn.toNat
  match takeFirst (fun w => w.vpn == v) (h.pmCache k).walks with
  | none => h
  | some (w, rest) =>
    let h1 := (h.event w.due).updPm k (fun pc => { pc with walks := rest })
    let key := (locExt (entryAddr v)) / 64
    if ecc = .uncorrectable ∨ h.poison.contains (key - extLine0) then
      let h2 := (h1.countUe key).updPm k (fun pc => { pc with bad := v :: pc.bad })
      if k.val < 48 then h2.bentMchk k 0 (entryAddr v) else h2
    else
      let h2 := if ecc = .correctable then h1.countCe (keyPlate key) else h1
      h2.updPm k (·.insert v (BitVec.ofNat 32 (memNat (locExt (entryAddr v)) 4 m)))
/-- PAGE_WALK_END. -/
def execPageWalkEnd (k : Fin 50) (vpn : BitVec 24) (ecc : Ecc) (s : State) : Out := onHw (pageWalkEnd k vpn ecc) s

/-- A commit is refused: a reserved bit of PMENT is set, or a present page is that of the page map (R407). -/
def pmRefused (e : W32) : Bool := fld e 23 6 != 0 || (e.getLsbD 31 && 0x7FFC00 ≤ fld e 0 23)

/-- A write of PMCOMMIT.COMMIT: refused, or on its way to the page map unit, while a writing thread stalls (R407). -/
def pmCommit (ag : Agent) (c : CoreId) (h : Hw) : Ctl × Hw :=
  let k := h.core c
  if pmRefused k.pment then (.done 1, h.setCore c { k with pmRef := true })
  else
    let who := match ag with
      | .thread t => some ⟨c, t⟩
      | .purlin => none
    let q : PmCommit :=
      { vpn := k.pmvpn.toNat, ent := k.pment, who := who, arrives := h.clock + meshD (hopsBR (bentOf c)), src := bentOf c }
    let h1 := { h.setCore c { k with pmRef := false } with pmCommits := h.pmCommits ++ [q] }
    (if who.isSome then .stall .port 0 else .done 1, h1)

/-- The order in which the page map unit processes commits (R407). -/
def commitOrder (x y : PmCommit) : Bool := x.arrives < y.arrives || (x.arrives == y.arrives && x.src ≤ y.src)

/-- The page map unit processes its next commit: the entry is written, no cache holds the old one, and the writing thread
goes on (R407). -/
def pageMapCommitEffect (m : Mem) (h : Hw) : Mem × Hw :=
  match inOrder commitOrder h.pmCommits with
  | [] => (m, h)
  | q :: _ =>
    let h1 := { h.event q.arrives with pmCommits := h.pmCommits.erase q }
    let addr := locExt (entryAddr q.vpn)
    let r := performWrite (addr / 64) (offsFrom (addr % 64) (toBytes 4 q.ent.toNat)) m h1
    let h2 := ((r.2.2.updAllBents (fun b => { b with pm := b.pm.drop q.vpn })).updXm .west
      (fun x => { x with pm := x.pm.drop q.vpn })).updXm .east (fun x => { x with pm := x.pm.drop q.vpn })
    match q.who with
    | some w => (r.2.1, h2.release w 1)
    | none => (r.2.1, h2)
/-- PAGE_MAP_COMMIT_EFFECT. -/
def execPageMapCommitEffect (s : State) : Out := onMem pageMapCommitEffect s

/-- Read a page map port. -/
def pmRead (c : CoreId) (p : Nat) (h : Hw) : W32 :=
  let k := h.core c
  match p with
  | 0x780 => k.pmvpn
  | 0x781 => k.pment &&& 0xE07FFFFF#32
  | 0x783 => w32 (b2n k.pmRef * 2 ^ 31)
  | 0x784 => (h.bent (bentOf c)).pmhits
  | 0x785 => (h.bent (bentOf c)).pmmisses
  | _ => 0

/-- Write a page map port. -/
def pmWrite (ag : Agent) (c : CoreId) (p : Nat) (v : W32) (h : Hw) : Ctl × Hw :=
  match p with
  | 0x780 => (.done 1, h.updCore c (fun k => { k with pmvpn := v &&& 0xFFFFFF#32 }))
  | 0x781 => (.done 1, h.updCore c (fun k => { k with pment := v }))
  | 0x782 => if v.getLsbD 0 then pmCommit ag c h else (.done 1, h)
  | _ => (.done 1, h)

end Sys2Proof.Machine
end

