-- ==== Sys2Proof/Machine/Ports.lean ====
section
/-!
DEFINITION. The I/O space of a core (R132, R155, R213): IN, INR, OUT and OUTR, the commands that name one port, exception
entry, and the purlin network (R282 to R284, R496).
-/

namespace Sys2Proof.Machine

/-! ### Which ports there are, and who may reach them (R132, R213) -/

/-- A port: none where it is reserved, else whether user mode may access it. -/
def portClass (p : Nat) : Option Bool :=
  if p < 0x100 then if p < 0xC then some true else none
  else if p < 0x120 then some (p % 2 == 1)
  else if p ≤ 0x122 then some false
  else if 0x130 ≤ p ∧ p < 0x140 then some false
  else if 0x200 ≤ p ∧ p < 0x210 then some true
  else if p = 0x210 ∨ p = 0x211 then some false
  else if 0x300 ≤ p ∧ p ≤ 0x323 then some false
  else if 0x400 ≤ p ∧ p < 0x450 then if p % 16 < 0xE then some (p == 0x407) else none
  else if 0x480 ≤ p ∧ p ≤ 0x487 then some (p == 0x484)
  else if 0x500 ≤ p ∧ p ≤ 0x521 then some true
  else if p = 0x522 then some false
  else if p = 0x530 ∨ p = 0x531 then some true
  else if p = 0x532 ∨ p = 0x533 then some false
  else if 0x600 ≤ p ∧ p ≤ 0x602 then some true
  else if 0x620 ≤ p ∧ p ≤ 0x628 then some true
  else if 0x640 ≤ p ∧ p ≤ 0x649 then some (p < 0x648)
  else if 0x660 ≤ p ∧ p ≤ 0x664 then some (p ≤ 0x661)
  else if 0x700 ≤ p ∧ p ≤ 0x702 then some true
  else if 0x780 ≤ p ∧ p ≤ 0x785 then some (0x784 ≤ p)
  else if p = 0x800 ∨ p = 0x801 then some true
  else if p = 0x810 then some false
  else if 0x900 ≤ p ∧ p ≤ 0x906 then some (p == 0x900 || 0x905 ≤ p)
  else if 0x910 ≤ p ∧ p ≤ 0x912 then some (p == 0x912)
  else if 0xA00 ≤ p ∧ p ≤ 0xA09 then some true
  else if 0xF00 ≤ p ∧ p ≤ 0xF03 ∨ p = 0xF08 ∨ p = 0xF09 ∨ 0xF10 ≤ p ∧ p ≤ 0xF13 ∨ 0xF20 ≤ p ∧ p ≤ 0xF24 ∨
      0xF30 ≤ p ∧ p ≤ 0xF35 then some false
  else none

/-! ### Reads and writes of every port -/

/-- MSTAT (R61). -/
def Core.mstat (k : Core) (cyc : Nat) : W32 :=
  let computing := fun (j : MatJob) => match j.stage with
    | .computing u => decide (cyc ≤ u)
    | _ => false
  let loading := k.mat.any (fun j => match j.stage with
    | .loading _ => true
    | _ => false)
  let cur := match k.mat.find? computing with
    | some j => j.g.val * 256 + j.thread.val * 64 + 1
    | none => 0
  w32 (b2n loading * 2048 + (k.mat.filter MatJob.held).length % 4 * 16 + cur)

/-- Read a port of the matrix engine; MWORK_LO latches the high half for its reader (R61, R496). -/
def matRead (ag : Agent) (c : CoreId) (p : Nat) (h : Hw) : W32 × Hw :=
  let k := h.core c
  if p = 0x600 then (k.mstat (h.cycle c), h)
  else if p = 0x601 then
    let hi := (k.mwork >>> 32).setWidth 32
    (k.mwork.setWidth 32, match ag with
      | .thread t => h.updThread ⟨c, t⟩ (fun th => { th with mworkHi := hi })
      | .purlin => h.updCore c (fun k => { k with pMworkHi := hi }))
  else
    (match ag with
      | .thread t => (h.thread ⟨c, t⟩).mworkHi
      | .purlin => k.pMworkHi, h)

/-- Read a port of the data cache (R237). -/
def cacheRead (p : Nat) (k : Core) : W32 :=
  if p = 0x700 then
    w32 (b2n k.cinv.isSome * 2 ^ 31 + (k.miss.toList.filter (·.isSome)).length * 256 + k.evb.length)
  else if p = 0x701 then k.dchits
  else if p = 0x702 then k.dcmisses
  else 0

/-- Read a port of the scratchpad and segment group (R230). -/
def spadRead (c : CoreId) (p : Nat) (k : Core) : W32 :=
  if p = 0x800 then byKind c 0x0FFFF000#32 0xFFFFFFFF#32 0xFFFFFFFF#32
  else if p = 0x801 then byKind c 0x1011#32 0x1010#32 0x100F#32
  else if p = 0x810 then k.isegx.setWidth 32
  else 0

/-- Read a port. A thread's read of BLK goes to the bent lock unit and is not made here. -/
def portRead (ag : Agent) (c : CoreId) (p : Nat) (h : Hw) : W32 × Hw :=
  let k := h.core c
  match portClass p with
  | none => (0, h)
  | some _ =>
    if p < 0x100 then (idRead c p, h)
    else if p < 0x300 then (chanRead p k (h.cycle c), h)
    else if p < 0x400 then (housingRead p k, h)
    else if p < 0x450 then
      match threadPort ag p with
      | some (t, off) => ((k.thread t).regRead off, h)
      | none => (0, h)
    else if p < 0x500 then (wardRead c p k, h)
    else if p < 0x600 then lockRead ag c p h
    else if p < 0x620 then matRead ag c p h
    else if p < 0x640 then (accumRead ag c p h, h)
    else if p < 0x660 then (tileRead p k (h.cycle c), h)
    else if p < 0x700 then (dbRead c p h, h)
    else if p < 0x780 then (cacheRead p k, h)
    else if p < 0x800 then (pmRead c p h, h)
    else if p < 0x900 then (spadRead c p k, h)
    else if p < 0x910 then timerRead ag c p h
    else if p < 0xA00 then (chanRead p k (h.cycle c), h)
    else if p < 0xF00 then xferRead ag c p h
    else debugRead ag c p h

/-- A write to TREL: a thread's OUT, or a purlin write, which is held at the core (R126). -/
def trelWrite (ag : Agent) (c : CoreId) (v : W32) (h : Hw) : Ctl × Hw :=
  match ag with
  | .purlin => (.done 1, h.updCore c (fun k => { k with trelHeld := k.trelHeld ++ [v] }))
  | .thread t => trelOut ⟨c, t⟩ v h

/-- Write a port: it answers whether the writing thread stalls. -/
def portWrite (ag : Agent) (c : CoreId) (p : Nat) (v : W32) (h : Hw) : Ctl × Hw :=
  match portClass p with
  | none => (.done 1, h)
  | some _ =>
    if p < 0x100 then (.done 1, h)
    else if p < 0x300 then (.done 1, chanWrite c p v h)
    else if p < 0x400 then (.done 1, housingWrite c p v h)
    else if p < 0x450 then
      match threadPort ag p with
      | some (t, off) => (.done 1, h.threadRegWrite c t off v)
      | none => (.done 1, h)
    else if p < 0x500 then (.done 1, wardWrite c p v h)
    else if p < 0x600 then (.done 1, lockWrite ag c p v h)
    else if p < 0x620 then (.done 1, h)
    else if p < 0x640 then (.done 1, accumWrite ag c p v h)
    else if p = 0x648 then trelWrite ag c v h
    else if p = 0x649 then (.done 1, h.updCore c (·.tcur v))
    else if p < 0x660 then (.done 1, h)
    else if p < 0x700 then (.done 1, dbWrite c p v h)
    else if p < 0x780 then (.done 1, h)
    else if p < 0x800 then pmWrite ag c p v h
    else if p < 0x900 then (.done 1, if p = 0x810 then h.updCore c (fun k => { k with isegx := v.setWidth 16 }) else h)
    else if p < 0x910 then (.done 1, timerWrite ag c p v h)
    else if p < 0xA00 then (.done 1, chanWrite c p v h)
    else if p < 0xF00 then (.done 1, xferWrite ag c p v h)
    else (.done 1, debugWrite ag c p v h)

/-! ### Purlin transactions at their core (R28, R282 to R284, R464, R465, R496) -/

/-- The row of a bent (R271). -/
def bentRow (b : Nat) : Nat := b / 8
/-- Cycles from the issue of a purlin transaction to its effect at a core (R282). -/
def purlinTime (c : Nat) : Nat := 28 + 12 * bentRow (bentOf c)

/-- A core whose clock is stopped has CYCLE 0, where the reset of its gating left it (R182, R421). -/
def Hw.clockStopped (h : Hw) (c : CoreId) : Hw :=
  if h.sill.power = .idleGated then h.updCore c (fun k => { k with cyc0 := h.clock }) else h

/-- The value that a purlin READ returns: 0 from a held core outside a post-mortem hold (R464, R465, R496). -/
def purlinValue (c : CoreId) (p : Nat) (h : Hw) : W32 × Hw :=
  if (h.core c).held && !h.postMortem then (0, h) else portRead .purlin c p (h.clockStopped c)

/-- A purlin transaction takes effect at its core; the value of a READ reaches the root after the way back (R282). -/
def Hw.purlinEffect (h : Hw) (x : Purlin) : Hw :=
  match x.kind with
  | .write v => (portWrite .purlin x.core x.port.toNat v h).2
  | .read =>
    let r := purlinValue x.core x.port.toNat h
    r.2.after (x.due + purlinTime x.core - 1) (.purlinRead r.1)

/-- The purlin transactions to a port of a core that are due by now take effect, in the order of their issue (R28, R284). -/
def Hw.purlinFirst (h : Hw) (c : CoreId) (p : Nat) : Hw :=
  let mine := fun (x : Purlin) => x.core == c && x.port.toNat == p && decide (x.due ≤ h.clock)
  (h.purlins.filter mine).foldl Hw.purlinEffect { h with purlins := h.purlins.filter (fun x => !mine x) }

/-! ### IN and OUT (R132, R155) -/

/-- A user-mode access to a defined port that user mode may not access raises PRIV with the port as EADDR (R14, R213). -/
def portDenied (th : Thread) (p : Nat) : Bool := !th.mode && portClass p == some false

/-- An IN of a thread: a read of BLK goes to the bent lock unit (R209). -/
def inPort (w : Who) (d : Fin 32) (p : Nat) (h : Hw) : Ctl × Hw :=
  let th := h.thread w
  if portDenied th p then (faultAt th excPriv p, h)
  else if p = 0x531 then h.blkAsk w d
  else
    let r := portRead (.thread w.thread) w.core p h
    (.done 1, r.2.updThread w (fun th => th.setD d (r.1.setWidth 64)))

/-- An OUT of a thread: purlin writes of the same cycle to the same port come first (R28). -/
def outPort (w : Who) (p : Nat) (v : W32) (h : Hw) : Ctl × Hw :=
  let th := h.thread w
  if portDenied th p then (faultAt th excPriv p, h) else portWrite (.thread w.thread) w.core p v (h.purlinFirst w.core p)

/-- The port that an address operand names: dA[15:0]. -/
def Thread.port (th : Thread) (a : Fin 32) : Nat := (th.getD a).toNat % 2 ^ 16

/-- Issue an IN from a port. -/
def doIn (w : Who) (d : Fin 32) (p : Nat) (s : State) : Out := onHw (runInstr w (inForm w d (some p) []) (fun _ => inPort w d p)) s
/-- Issue an OUT of a data register to a port. -/
def doOut (w : Who) (p : Nat) (sr : Fin 32) (s : State) : Out :=
  onHw (runInstr w (outForm w sr (some p) []) (fun _ h => outPort w p (((h.thread w).getD sr).setWidth 32) h)) s

/-- IN. -/
def execInp (w : Who) (d : Fin 32) (port : BitVec 16) (s : State) : Out := doIn w d port.toNat s
/-- INR: the port is dA[15:0]. -/
def execInr (w : Who) (d a : Fin 32) (s : State) : Out :=
  onHw (runInstr w (formOf (.inr w d a)) (fun _ h => inPort w d ((h.thread w).port a) h)) s
/-- OUT. -/
def execOut (w : Who) (port : BitVec 16) (sr : Fin 32) (s : State) : Out := doOut w port.toNat sr s
/-- OUTR: the port is dA[15:0]. -/
def execOutr (w : Who) (a sr : Fin 32) (s : State) : Out :=
  onHw (runInstr w (formOf (.outr w a sr)) (fun _ h =>
    outPort w ((h.thread w).port a) (((h.thread w).getD sr).setWidth 32) h)) s

/-! ### Commands that name one port -/

/-- ACUR_ABANDON: an OUT to ACUR (R91). -/
def execAcurAbandon (w : Who) (sr : Fin 32) (s : State) : Out := doOut w 0x628 sr s
/-- ADBG_W0_READ: an IN from ADBG_W0 (R95). -/
def execAdbgW0Read (w : Who) (d : Fin 32) (s : State) : Out := doIn w d 0xF21 s
/-- TREL: an OUT to TREL (R126). -/
def execTrel (w : Who) (sr : Fin 32) (s : State) : Out := doOut w 0x648 sr s
/-- TCUR: an OUT to TCUR (R127). -/
def execTcur (w : Who) (sr : Fin 32) (s : State) : Out := doOut w 0x649 sr s
/-- RESTART: an OUT to TCTL of a thread (R185). -/
def execRestart (w : Who) (t : Fin 4) (sr : Fin 32) (s : State) : Out := doOut w (0x418 + 16 * t.val) sr s
/-- EVPOST: an OUT to EVPOST (R188). -/
def execEvpost (w : Who) (sr : Fin 32) (s : State) : Out := doOut w 0x484 sr s
/-- TMR_WRITE: an OUT to TMR or TMRt (R190). -/
def execTmrWrite (w : Who) (t : Option (Fin 4)) (sr : Fin 32) (s : State) : Out :=
  doOut w ((t.map (fun t => 0x901 + t.val)).getD 0x900) sr s
/-- CYCLE_LO_READ: an IN from CYCLE_LO (R215). -/
def execCycleLoRead (w : Who) (d : Fin 32) (s : State) : Out := doIn w d 0x905 s
/-- MWORK_LO_READ: an IN from MWORK_LO (R61). -/
def execMworkLoRead (w : Who) (d : Fin 32) (s : State) : Out := doIn w d 0x601 s
/-- CLK_ACQUIRE: an IN from CLKn (R207). -/
def execClkAcquire (w : Who) (d n : Fin 32) (s : State) : Out := doIn w d (0x500 + n.val) s
/-- CLK_RELEASE: an OUT to CLKn (R208). -/
def execClkRelease (w : Who) (n sr : Fin 32) (s : State) : Out := doOut w (0x500 + n.val) sr s
/-- CLFORCE: an OUT to CLFORCE (R211). -/
def execClforce (w : Who) (sr : Fin 32) (s : State) : Out := doOut w 0x522 sr s
/-- BLK_REQUEST: an IN from BLK (R209). -/
def execBlkRequest (w : Who) (d : Fin 32) (s : State) : Out := doIn w d 0x531 s
/-- BLK_RELEASE: an OUT to BLK (R209). -/
def execBlkRelease (w : Who) (sr : Fin 32) (s : State) : Out := doOut w 0x531 sr s
/-- BLFORCE: an OUT to BLFORCE (R211). -/
def execBlforce (w : Who) (sr : Fin 32) (s : State) : Out := doOut w 0x533 sr s
/-- HCOMMIT: an OUT to HCOMMIT (R223). -/
def execHcommit (w : Who) (sr : Fin 32) (s : State) : Out := doOut w 0x320 sr s
/-- XRING: an OUT to XRING (R224). -/
def execXring (w : Who) (sr : Fin 32) (s : State) : Out := doOut w 0xA06 sr s
/-- XRES_READ: an IN from XRES (R229). -/
def execXresRead (w : Who) (d : Fin 32) (s : State) : Out := doIn w d 0xA08 s
/-- NCOMMIT: an OUT to NCOMMIT (R242). -/
def execNcommit (w : Who) (sr : Fin 32) (s : State) : Out := doOut w 0x120 sr s
/-- MFLUSH: an OUT to MFLUSH (R252). -/
def execMflush (w : Who) (sr : Fin 32) (s : State) : Out := doOut w 0x211 sr s
/-- NFORCE: an OUT to NFORCE (R260). -/
def execNforce (w : Who) (sr : Fin 32) (s : State) : Out := doOut w 0x121 sr s
/-- STALL_LIMIT_WRITE: an OUT to STALL_LIMIT (R258). -/
def execStallLimitWrite (w : Who) (sr : Fin 32) (s : State) : Out := doOut w 0x910 sr s
/-- PMCOMMIT: an OUT to PMCOMMIT (R407). -/
def execPmcommit (w : Who) (sr : Fin 32) (s : State) : Out := doOut w 0x782 sr s
/-- DBARRIVE: an OUT to DBARRIVE (R352). -/
def execDbarrive (w : Who) (sr : Fin 32) (s : State) : Out := doOut w 0x660 sr s
/-- DBCOMMIT: an OUT to DBCOMMIT (R354). -/
def execDbcommit (w : Who) (sr : Fin 32) (s : State) : Out := doOut w 0x664 sr s
/-- DRCMD_READ: an OUT to DRCMD (R475). -/
def execDrcmdRead (w : Who) (sr : Fin 32) (s : State) : Out := doOut w 0xF11 sr s
/-- DRCMD_WRITE: an OUT to DRCMD (R475). -/
def execDrcmdWrite (w : Who) (sr : Fin 32) (s : State) : Out := doOut w 0xF11 sr s
/-- DREGSEL_WRITE: an OUT to DREGSEL (R475). -/
def execDregselWrite (w : Who) (sr : Fin 32) (s : State) : Out := doOut w 0xF10 sr s
/-- TRDATA0_READ: an IN from TRDATA0 (R476). -/
def execTrdata0Read (w : Who) (d : Fin 32) (s : State) : Out := doIn w d 0xF32 s

/-! ### The root of the purlin network (R282 to R284) -/

/-- The cycle in which the root issues its next transaction: it issues at most one in a cycle (R282). -/
def Hw.purlinTurn (h : Hw) : Nat := max h.clock h.purlinFrom

/-- A transaction is on its way to one port of a core, to take effect at a clock value. One to the same port that was issued before and
is due later takes effect first, and holds this one back (R284; DESIGN CHOICE, log entry 97). -/
def Hw.purlinAdd (h : Hw) (c : CoreId) (p : BitVec 16) (kind : PurlinKind) (due : Nat) : Hw :=
  let before := h.purlins.filter (fun x => x.core == c && x.port == p)
  { h with purlins := h.purlins ++ [{ core := c, port := p, kind := kind, serial := h.purlinSerial
                                      due := before.foldl (fun n x => max n x.due) due }] }

/-- The root issues a transaction. -/
def Hw.purlinIssue (h : Hw) : Hw := { h with purlinFrom := h.purlinTurn + 1, purlinSerial := h.purlinSerial + 1 }

/-- The root issues a transaction to one core (R282). -/
def Hw.purlinSend (h : Hw) (c : CoreId) (p : BitVec 16) (kind : PurlinKind) : Hw :=
  h.purlinIssue.purlinAdd c p kind (h.purlinTurn + purlinTime c)
/-- PURLIN_WRITE. -/
def execPurlinWrite (c : CoreId) (port : BitVec 16) (v : BitVec 32) (s : State) : Out :=
  onHw (fun _ h => h.purlinSend c port (.write v)) s
/-- PURLIN_READ. -/
def execPurlinRead (c : CoreId) (port : BitVec 16) (s : State) : Out := onHw (fun _ h => h.purlinSend c port .read) s

/-- The cores that a bent mask and a core mask name (R282). -/
def maskCores (bents : BitVec 48) (cores : BitVec 44) : List CoreId :=
  ((List.range 48).filter (fun b => bents.getLsbD b)).flatMap (fun b =>
    ((List.range 44).filter (fun c => cores.getLsbD c)).map (fun c => coreId (44 * b + c)))

/-- An apply time that the root refuses: it is less than the issue cycle plus 88 (R283). -/
def Hw.atRefused (h : Hw) (at_ : Nat) : Bool := decide (at_ + h.fcyc0 < h.purlinTurn + 88)

/-- A BWRITE to a set of cores, with an apply time when one is given (R282, R283). -/
def Hw.purlinMany (h : Hw) (cs : List CoreId) (p : BitVec 16) (v : W32) (at_ : Option Nat) : Hw :=
  let due := fun (c : CoreId) => match at_ with
    | some a => h.fcyc0 + a
    | none => h.purlinTurn + purlinTime c
  cs.foldl (fun x c => x.purlinAdd c p (.write v) (due c)) h.purlinIssue

/-- A BWRITE: one whose apply time is too early is refused, writes nothing and raises PURLIN_REFUSED (R283, R412). -/
def purlinBwrite (bents : BitVec 48) (cores : BitVec 44) (p : BitVec 16) (v : W32) (at_ : Option Nat) (h : Hw) : Hw :=
  if at_.any h.atRefused then h.raiseSource 228 else h.purlinMany (maskCores bents cores) p v at_
/-- PURLIN_BWRITE. -/
def execPurlinBwrite (bents : BitVec 48) (cores : BitVec 44) (port : BitVec 16) (v : BitVec 32) (at_ : Option (BitVec 64))
    (s : State) : Out :=
  onHw (fun _ => purlinBwrite bents cores port v (at_.map (·.toNat))) s

/-- The next of the transactions that a condition selects: the earliest, and of those the one issued first. Of two to one port the one
issued first is never the later (DESIGN CHOICE, log entry 97), so R284 holds. -/
def nextPurlin (sel : Purlin → Bool) (ps : List Purlin) : Option Purlin :=
  (ps.filter sel).foldl (fun (acc : Option Purlin) p =>
    match acc with
    | none => some p
    | some q => if p.due < q.due then some p else some q) none

/-- A purlin transaction takes effect in the cycle in which it is due. -/
def Hw.purlinNow (h : Hw) (p : Purlin) : Hw := ({ (h.reach p.due) with purlins := h.purlins.erase p } : Hw).purlinEffect p

/-- The next purlin transaction of a core takes effect there. -/
def purlinApply (c : CoreId) (h : Hw) : Hw := ((nextPurlin (fun p => p.core == c) h.purlins).map h.purlinNow).getD h
/-- The purlin transactions due by a clock value take effect, in the order of their cycles and of their issue. -/
def purlinsBy (t : Nat) : Nat → Hw → Hw
  | 0, h => h
  | fuel + 1, h =>
    match nextPurlin (fun x => decide (x.due ≤ t)) h.purlins with
    | none => h
    | some x => purlinsBy t fuel (h.purlinNow x)

/-- The root issues a transaction to a core, and every one due before it takes effect: the state in the cycle in which it reaches the core,
and the transaction. -/
def Hw.purlinGo (h : Hw) (c : CoreId) (p : BitVec 16) (kind : PurlinKind) : Hw × Option Purlin :=
  let h1 := h.purlinSend c p kind
  match h1.purlins.getLast? with
  | none => (h1, none)
  | some x => ((purlinsBy x.due h1.purlins.length { h1 with purlins := h1.purlins.dropLast }).reach x.due, some x)

/-- The root writes a port of a core, and the write takes effect (R282, R386). -/
def Hw.purlinPut (h : Hw) (c : CoreId) (p : BitVec 16) (v : W32) : Hw :=
  match h.purlinGo c p (.write v) with
  | (h1, some x) => h1.purlinEffect x
  | (h1, none) => h1

/-- The root reads a port of a core, and the value returns to it (R282, R386). -/
def Hw.purlinGet (h : Hw) (c : CoreId) (p : BitVec 16) : W32 × Hw :=
  match h.purlinGo c p .read with
  | (h1, some x) => ((purlinValue c p.toNat h1).1, (h1.purlinEffect x).reach (x.due + purlinTime c))
  | (h1, none) => (0, h1)
/-- PURLIN_APPLY. -/
def execPurlinApply (c : CoreId) (s : State) : Out := onHw (fun _ => purlinApply c) s

/-! ### Exception entry (R195, R196) -/

/-- A halt of a core by an entry is posted to the host (R467, R469). -/
def Hw.haltEvent (h : Hw) (was : Bool) (c : CoreId) : Hw :=
  let k := h.core c
  if k.coreHalt && !was then h.mchkEvent 2 (k.thread 0).dfcode.toNat c (bentOf c) 0 else h

/-- The entry of an exception that has been found: none while its core is halted or frozen, or halts by one of thread 0 (R205). -/
def Hw.entryOf (h : Hw) (w : Who) : Hw :=
  let k := h.core w.core
  match (h.thread w).found with
  | some e =>
    if k.coreHalt || k.frozenAt.isSome || (w.thread != 0 && !k.runs) then h
    else (h.takeException w e).haltEvent k.coreHalt w.core
  | none => h

/-- What the fetch of a thread's next word finds wrong: a fault of R154, or a word that spells no instruction (R138, R156); EPC is that
of the PFX before it, if there is one (R137). -/
def badFetch (w : Who) (k : Core) (m : Mem) : Option Exc :=
  let th := k.thread w.thread
  match fetchFault w.core k th.pc th.fetchPc with
  | some e => some e
  | none => if (decodeWord w (fetchWord w.core th.fetchPc m)).isNone then some { code := excIllegal, epc := th.pc } else none

/-- A found exception performs its entry; for a thread that is about to fetch, a fault of that fetch is first found, in the slot of
the fetch (R138, R154, R196). -/
def exceptionEntry (w : Who) (m : Mem) (h : Hw) : Hw :=
  let th := h.thread w
  if th.found.isSome then h.entryOf w
  else if th.stall.isSome then h
  else
    match h.slotWhere w (·.canIssue w) with
    | some x =>
      match badFetch w (x.core w.core) m with
      | some e => (x.settle w {} m (.fault e)).entryOf w
      | none => h
    | none => h
/-- EXCEPTION_ENTRY. -/
def execExceptionEntry (w : Who) (s : State) : Out := onHw (exceptionEntry w) s

end Sys2Proof.Machine
end

