-- ==== Sys2Proof/Machine/Ethernet.lean ====
section
/-!
DEFINITION. The Ethernet ports: modes, states, addresses, flow control, and the frames below UDP (R366 to R371).
-/

namespace Sys2Proof.Machine

/-- The code of a port state in PSTAT (R369). -/
def portCode : PortLink → Nat
  | .down => 0
  | .train => 1
  | .up => 2

/-- MODE and VARIANT of a PMODE value; VARIANT 3 is treated as 0 (R367, R369). -/
def pmodeKey (v : W32) : Nat × Nat := (fld v 30 2, if fld v 28 2 = 3 then 0 else fld v 28 2)

/-- PSTATp (R369). -/
def Net.pstat (n : Net) (p : Nat) : W32 :=
  w32 (portCode (n.port p).state * 2 ^ 30 + fld (n.port p).active 30 2 * 2 ^ 28 + portNet p * 2 ^ 27)

/-- Change the network block. -/
def Hw.updNet (h : Hw) (f : Net → Net) : Hw := { h with net := f h.net }

/-- A port enters a state: where it differs, PORT_STATE is raised and its event posted (R387, R412, R467). -/
def Hw.setPort (h : Hw) (p : Fin 8) (st : PortLink) : Hw :=
  if (h.net.port p).state = st then h
  else
    let h1 := (h.updNet (fun n => n.updPort p (fun q =>
      { q with state := st, held := if st = .down then [] else q.held,
               paused := if st = .down then 0 else q.paused }))).raiseSource (200 + p.val)
    h1.postEvent 0xC9 p.val [(h1.net.pstat p).setWidth 64]

/-- A port's link changes: training begins on a port whose MODE is not OFF, ends in UP, and any state goes to DOWN (R370,
R375). -/
def portStateChange (p : Fin 8) (st : PortLink) (h : Hw) : Hw :=
  let q := h.net.port p
  match q.state, st with
  | _, .down => h.setPort p .down
  | .down, .train => if fld q.active 30 2 = 0 ∨ h.board.held ∨ h.firm.romHalted then h else h.setPort p .train
  | .train, .up => h.setPort p .up
  | _, _ => h

/-- A write of PCOMMIT: a port whose MODE or VARIANT changes goes DOWN; the other fields apply to frames sent from then on
(R370). -/
def pcommit (v : W32) (h : Hw) : Hw :=
  if v.getLsbD 0 then
    (List.finRange 8).foldl (fun (h : Hw) (p : Fin 8) =>
      let q := h.net.port p
      let h1 := h.updNet (fun n => n.updPort p (fun q => { q with active := q.shadow }))
      if pmodeKey q.active = pmodeKey q.shadow then h1 else h1.setPort p .down) h
  else h

/-- A PFC frame: PCP_UBT is paused and resumed with PFC_EN = 1, PCP_TMP always, and other priorities are ignored; a resume
sends what the pause held back (R368, R369). -/
def pfcFrame (p : Fin 8) (prio : Fin 8) (pause : Bool) (h : Hw) : Hw :=
  let q := h.net.port p
  let ours := prio.val = q.pcp false ∨ (prio.val = q.pcp true ∧ q.active.getLsbD 21)
  if q.state = .up ∧ ours then
    if pause then h.updNet (fun n => n.updPort p (fun q => { q with paused := q.paused ||| (1#8 <<< prio.val) }))
    else
      let go := q.held.filter (fun x => x.pcp == prio.val)
      h.updNet (fun n =>
        { (n.updPort p (fun q => { q with paused := q.paused &&& ~~~(1#8 <<< prio.val)
                                          held := q.held.filter (fun x => x.pcp != prio.val) })) with
          sent := n.sent ++ go })
  else h

/-- The MAC of a port (R371). -/
def Conf.mac (c : Conf) (p : Nat) : Nat := (c.macBase + p) % 2 ^ 48

/-- The link-local address of a port: fe80::/64 with the modified EUI-64 identifier of its MAC (R371). -/
def Conf.linkLocal (c : Conf) (p : Nat) : BitVec 128 :=
  let m := (c.mac p) ^^^ 2 ^ 41
  BitVec.ofNat 128 (0xFE80 * 2 ^ 112 + (m / 2 ^ 24) * 2 ^ 40 + 0xFFFE * 2 ^ 24 + m % 2 ^ 24)

/-- An IPv4 address as an IPv4-mapped IPv6 address (R388). -/
def mapped4 (a : W32) : BitVec 128 := BitVec.ofNat 128 (0xFFFF * 2 ^ 32 + a.toNat)

/-- An address is one of a port's own IPv6 addresses (R371). -/
def Conf.hasV6 (c : Conf) (p : Nat) (a : BitVec 128) : Bool :=
  a == c.linkLocal p || (c.globalV6.getD (portNet p) none) == some a
/-- An address is a port's IPv4 address (R371). -/
def Conf.hasV4 (c : Conf) (p : Nat) (a : W32) : Bool := (c.v4.getD (portNet p) none) == some a

/-- A port answers, if it is UP. -/
def Hw.answer (h : Hw) (p : Fin 8) (x : Answer) : Hw :=
  if h.net.isUp p then h.updNet (fun n => { n with answers := n.answers ++ [x] }) else h

/-- An ARP request for the network's address is answered with the port's own MAC (R371). -/
def arp (p : Fin 8) (target : W32) (mac : BitVec 48) (h : Hw) : Hw :=
  if h.conf.hasV4 p target then h.answer p (.arp p target (h.conf.mac p) mac) else h

/-- A neighbour solicitation for an address of the port is answered with its own MAC (R371). -/
def neighborSolicitation (p : Fin 8) (target : BitVec 128) (mac : BitVec 48) (h : Hw) : Hw :=
  if h.conf.hasV6 p target then h.answer p (.advert p target (h.conf.mac p) mac) else h

/-- An echo request to an address of the port is answered with its payload (R368). -/
def echoRequest (p : Fin 8) (dst : BitVec 128) (payload : List Byte) (h : Hw) : Hw :=
  if h.conf.hasV6 p dst || (h.conf.v4.getD (portNet p) none).map mapped4 == some dst then h.answer p (.echo p dst payload)
  else h

/-- A frame is dropped and counted in the port's PDROP (R368, R389). -/
def Hw.pdrop (h : Hw) (p : Fin 8) : Hw := h.updNet (fun n => n.updPort p (fun q => { q with drops := q.drops + 1 }))

/-- A read of the network block; PDROP is not cleared here (R369). -/
def netRead (off : Nat) (h : Hw) : W32 :=
  if off % 4 ≠ 0 then 0
  else if off < 0x20 then (h.net.port (off / 4)).shadow
  else if 0x40 ≤ off ∧ off < 0x60 then h.net.pstat ((off - 0x40) / 4)
  else if 0x60 ≤ off ∧ off < 0x80 then (h.net.port ((off - 0x60) / 4)).drops
  else 0

/-- A write to the network block. -/
def netWrite (off : Nat) (v : W32) (h : Hw) : Hw :=
  if off % 4 ≠ 0 then h
  else if off < 0x20 then h.updNet (fun n => n.updPort (off / 4) (fun q => { q with shadow := v &&& 0xFFE00FFF#32 }))
  else if off = 0x20 then pcommit v h
  else h

/-! ### The commands -/

/-- PCOMMIT (R370). -/
def execPcommit (v : BitVec 32) (s : State) : Out := onHw (fun _ h => pcommit v h.access) s
/-- PORT_STATE_CHANGE (R375). -/
def execPortStateChange (p : Fin 8) (st : PortLink) (s : State) : Out := onEvent (portStateChange p st) s
/-- PFC_FRAME (R369). -/
def execPfcFrame (p : Fin 8) (prio : Fin 8) (pause : Bool) (s : State) : Out := onEvent (pfcFrame p prio pause) s
/-- ARP (R371). -/
def execArp (p : Fin 8) (target : BitVec 32) (mac : BitVec 48) (s : State) : Out := onEvent (arp p target mac) s
/-- NEIGHBOR_SOLICITATION (R371). -/
def execNeighborSolicitation (p : Fin 8) (target : BitVec 128) (mac : BitVec 48) (s : State) : Out :=
  onEvent (neighborSolicitation p target mac) s
/-- ECHO_REQUEST (R368). -/
def execEchoRequest (p : Fin 8) (dst : BitVec 128) (payload : List Byte) (s : State) : Out :=
  onEvent (echoRequest p dst payload) s
/-- UNSUPPORTED_FRAME (R368). -/
def execUnsupportedFrame (p : Fin 8) (s : State) : Out := onEvent (fun h => if h.net.isUp p then h.pdrop p else h) s

end Sys2Proof.Machine
end

