-- ==== Sys2Proof/Machine/Irq.lean ====
section
/-!
DEFINITION. The Ridge's interrupt controller (R412 to R417).
-/

namespace Sys2Proof.Machine

/-- Change the interrupt controller. -/
def Hw.updIrq (h : Hw) (f : Irq → Irq) : Hw := { h with irq := f h.irq }

/-- The source numbers that the *Interrupt sources* table lists (R412). -/
def irqDefined (s : Nat) : Bool :=
  decide (s ≤ 228) || decide (232 ≤ s ∧ s ≤ 238) || decide (240 ≤ s ∧ s ≤ 250) || decide (252 ≤ s ∧ s ≤ 259)

/-- The processors that a routing names (R412): control cores 0 to 7 and the warden of bent b at 8 + b. -/
def irqTargets (cfg : W32) (s : Nat) : List Nat :=
  let controls := List.range 8
  let wardens := (List.range 48).map (· + 8)
  match fld cfg 20 3 with
  | 1 => controls
  | 2 => wardens
  | 3 => controls ++ wardens
  | 4 => if s < 192 then [8 + s % 48] else wardens
  | _ => if fld cfg 0 6 < 56 then [fld cfg 0 6] else []

/-- The current priority of a processor: CPRIO or WPRIO (R413). -/
def Hw.procPrio (h : Hw) (t : Nat) : Nat :=
  if t < 8 then (h.irq.cprio[fin 8 t]).toNat else (h.core (wardenOf (t - 8))).wprio.toNat

/-- A warden can take a delivery: its thread 0 is RUNNING or WAITING, its core not halted, its bent not gated (R413). -/
def Hw.wardenReady (h : Hw) (b : Nat) : Bool :=
  let k := h.core (wardenOf b)
  let st := (k.thread 0).tstate
  (st == .running || st == .waiting) && !k.coreHalt && !k.held && h.sill.power == .idle

/-- The eligible processors of a source (R413). -/
def Hw.irqEligible (h : Hw) (s : Nat) : List Nat :=
  let cfg := sgetD s 0 h.irq.cfgAct
  if cfg.getLsbD 31 && fld cfg 24 4 != 0 then
    (irqTargets cfg s).filter (fun t =>
      (sget t h.irq.serv).isNone && decide (h.procPrio t < fld cfg 24 4) && (decide (t < 8) || h.wardenReady (t - 8)))
  else []

/-- The pending source that the controller routes: the highest PRIO, then the lowest number (R414). -/
def Hw.nextSource (h : Hw) : Option Nat :=
  let better := fun (acc : Option Nat) (s : Nat) =>
    if h.irqPend.getLsbD s && !(h.irqEligible s).isEmpty then
      match acc with
      | none => some s
      | some r => if fld (sgetD r 0 h.irq.cfgAct) 24 4 < fld (sgetD s 0 h.irq.cfgAct) 24 4 then some s else acc
    else acc
  (List.range 288).foldl better none

/-- The processor chosen among those eligible: the lowest current priority, then the lowest number (R414). -/
def Hw.nextTarget (h : Hw) (ts : List Nat) : Option Nat :=
  let better := fun (acc : Option Nat) (t : Nat) =>
    match acc with
    | none => some t
    | some r => if h.procPrio t < h.procPrio r then some t else acc
  ts.foldl better none

/-- The cycles from a decision to the warden of a bent: 28 + 12 y for row y (R415). -/
def wardenWire (b : Nat) : Nat := 28 + 12 * (b / 8)

/-- The decision of a cycle: the source loses its pending bit, and its processor holds the delivery, which arrives 28 + 12 y
cycles later at a warden and 4 cycles later at a control core (R414, R415). -/
def Hw.irqDeliver (h : Hw) (s t : Nat) : Hw :=
  let vec := sgetD s 0 h.irq.vecAct
  ({ h with irqPend := h.irqPend &&& ~~~(1#288 <<< s) } : Hw).updIrq (fun q =>
    let q1 := { q with serv := sset t s q.serv }
    if t < 8 then { q1 with control := sset t (vec, h.clock + 4) q.control }
    else { q1 with flying := q.flying ++ [(t - 8, vec.setWidth 20, h.clock + wardenWire (t - 8))] })

/-- The routing decision of the next cycle, on the state at the end of the present one (R413, R414). -/
def interruptRoute (h : Hw) : Hw :=
  let h1 := h.event (h.clock + 1)
  match h1.nextSource with
  | none => h1
  | some s =>
    match h1.nextTarget (h1.irqEligible s) with
    | none => h1
    | some t => h1.irqDeliver s t

/-- A delivery arrives at its warden: EXT is set and the vector latched (R415). -/
def interruptDelivery (b : BentId) (h : Hw) : Hw :=
  match takeFirst (fun x => x.1 == b.val) h.irq.flying with
  | none => h
  | some ((_, vec, due), rest) =>
    let w : Who := ⟨coreId (wardenOf b), 0⟩
    (((h.event due).updIrq (fun q => { q with flying := rest })).updThread w
      (fun th => { th with extVec := vec })).raiseIpend w.core 0 2

/-- A warden's store to its acknowledge word reaches the controller. With a delivery outstanding it clears that; EXT clears
28 + 12 y cycles later, and the store is then performed. Any other acknowledgement is ignored and performed at once (R416). -/
def wardenAck (b : BentId) (h : Hw) : Hw :=
  match takeFirst (fun x => x.num == b.val) h.wardenAcks with
  | none => h
  | some (r, rest) =>
    match h.land r.flit r.due with
    | none => h
    | some (at_, h1) =>
      let h2 : Hw := { h1.event at_ with wardenAcks := rest }
      if r.who.core.val = wardenOf b ∧ r.who.thread = 0 ∧ (sget (8 + b.val) h2.irq.serv).isSome then
        let due := h2.clock + wardenWire b
        ((h2.updIrq (fun q => { q with serv := sdel (8 + b.val) q.serv })).after due (.extClear r.who)).after due (.performed r.who)
      else h2.updThread r.who Thread.noticed

/-- A control core acknowledges its delivery (R416). -/
def ieoi (n : Fin 8) (h : Hw) : Hw := h.updIrq (fun q => { q with serv := sdel n.val q.serv })

/-- ICOMMIT: routing decisions from the next cycle use the shadow set (R417). -/
def icommit (v : W32) (h : Hw) : Hw :=
  if v.getLsbD 0 then h.updIrq (fun q => { q with cfgAct := q.cfg, vecAct := q.vec }) else h

/-- A raise of a defined source (R412, R413). -/
def irqRaise (s : Nat) (h : Hw) : Hw := if irqDefined s then h.raiseSource s else h

/-- A read of the interrupt block. -/
def irqRead (off : Nat) (h : Hw) : W32 :=
  if off % 4 ≠ 0 then 0
  else if off < 0x900 then sgetD (off / 8) 0 (if off % 8 = 0 then h.irq.cfg else h.irq.vec)
  else if off ≤ 0x920 then (h.irqPend >>> (8 * (off - 0x900))).setWidth 32
  else if 0x980 ≤ off ∧ off < 0x9A0 then (h.irq.cprio[fin 8 ((off - 0x980) / 4)]).setWidth 32
  else if 0xA00 ≤ off ∧ off < 0xAE0 then
    match sget ((off - 0xA00) / 4) h.irq.serv with
    | some s => w32 (2 ^ 31 + s)
    | none => 0
  else 0

/-- A write to the interrupt block. -/
def irqWrite (off : Nat) (v : W32) (h : Hw) : Hw :=
  if off % 4 ≠ 0 then h
  else if off < 0x900 then
    if irqDefined (off / 8) then
      if off % 8 = 0 then h.updIrq (fun q => { q with cfg := sset (off / 8) (v &&& 0x8F70003F) q.cfg })
      else h.updIrq (fun q => { q with vec := sset (off / 8) (v &&& 0xFFFFC) q.vec })
    else h
  else if off = 0x940 then irqRaise (fld v 0 9) h
  else if off = 0x944 then icommit v h
  else if 0x980 ≤ off ∧ off < 0x9A0 then
    h.updIrq (fun q => { q with cprio := q.cprio.set (fin 8 ((off - 0x980) / 4)) (v.setWidth 4) })
  else if 0x9A0 ≤ off ∧ off < 0x9C0 then ieoi (fin 8 ((off - 0x9A0) / 4)) h
  else h

/-! ### The commands -/

/-- INTERRUPT_RAISE (R413). -/
def execInterruptRaise (src : Fin 288) (s : State) : Out := onEvent (irqRaise src) s
/-- IRAISE (R412). -/
def execIraise (v : BitVec 32) (s : State) : Out := onHw (fun _ h => irqRaise (fld v 0 9) h.access) s
/-- INTERRUPT_ROUTE (R414). -/
def execInterruptRoute (s : State) : Out := onHw (fun _ h => interruptRoute h) s
/-- INTERRUPT_DELIVERY (R415). -/
def execInterruptDelivery (b : BentId) (s : State) : Out := onHw (fun _ h => interruptDelivery b h) s
/-- WARDEN_ACK (R416). -/
def execWardenAck (b : BentId) (s : State) : Out := onHw (fun _ h => wardenAck b h) s
/-- IEOI (R416). -/
def execIeoi (n : Fin 8) (s : State) : Out := onHw (fun _ h => ieoi n h.access) s
/-- ICOMMIT (R417). -/
def execIcommit (v : BitVec 32) (s : State) : Out := onHw (fun _ h => icommit v h.access) s

end Sys2Proof.Machine
end

