-- ==== Sys2Proof/Machine/Pole.lean ====
section
/-!
DEFINITION. The Story Pole (R430 to R450): sampling, intervals, work-count lines, records, commands, updates and alarms.
-/

namespace Sys2Proof.Machine

/-- Change the Story Pole. -/
def Hw.updPole (h : Hw) (f : Pole → Pole) : Hw := { h with pole := f h.pole }
/-- The Story Pole sends a message on its read port. -/
def Pole.say (p : Pole) (x : PoleMsg) : Pole := { p with sent := p.sent ++ [x] }
/-- An event of the Story Pole, which has none without its supply (R442). -/
def Hw.poleDo (h : Hw) (f : Pole → Pole) : Hw := if h.pole.powered then h.updPole f else h

/-! ### Energy (R432 to R434) -/

/-- A sample clamped to its range, and whether it lay outside (R433). -/
def boundTo (lo hi x : Nat) : Nat × Bool := (max lo (min hi x), decide (x < lo ∨ hi < x))

/-- The energy of one channel sample in units of 10⁻¹⁷ J, of µV times µA over 10 µs, and whether it was clamped (R432,
R433). -/
def channelEnergy (uv ua : Nat) : Nat × Bool :=
  let v := boundTo 36000000 64000000 uv
  let i := boundTo 0 8000000 ua
  (v.1 * i.1, v.2 || i.2)

/-- All 16 channels are sampled at one instant (R432); a clamped sample sets SENSE_RANGE and its alarm (R433, R448). -/
def Pole.sample (p : Pole) (uv ua : List Nat) : Pole :=
  (List.finRange 16).foldl (fun p ch =>
    let e := channelEnergy (uv.getD ch.val 0) (ua.getD ch.val 0)
    { p with energy := p.energy + e.1
             flags := if e.2 then p.flags ||| 4 else p.flags
             due := if e.2 then p.due ++ [.senseRange ch] else p.due }) p
/-- SENSE_SAMPLE. -/
def execSenseSample (uv ua : List Nat) (s : State) : Out := onEvent (fun h => h.poleDo (·.sample uv ua)) s

/-- The running interval is added to a record that covers it. -/
def OpenRec.cover (r : OpenRec) (t e w f : Nat) : OpenRec :=
  if r.first ≤ t ∧ t ≤ r.last.getD t then
    { r with energy := r.energy + e, work := r.work + w, flags := r.flags ||| f }
  else r

/-- Mean power below 150 W over the record's intervals (R439). -/
def OpenRec.lowPower (r : OpenRec) (last : Nat) : Bool := decide (r.energy < (last + 1 - r.first) * 1500000000000000)

/-- A record's last interval has ended: it waits to be signed and stored. Its ENERGY is rounded down to µJ; a per-second
record carries the remainder on (R439). -/
def Pole.finish (p : Pole) (r : OpenRec) (last flags : Nat) : Pole :=
  let e := if r.job then r.energy else p.carryUj + r.energy
  let marks := if r.job then p.jobMarks else p.secMarks
  let fl := r.flags ||| flags ||| marks ||| (if r.lowPower last then 32 else 0)
  let out : Ready := { job := r.job, flags := fl, first := r.first, last := last, energy := e / 100000000000, work := r.work
                       fwver := p.fwver, audit := p.audit, cycle := p.cycle, label := r.label }
  if r.job then { p with ready := p.ready ++ [out], jobMarks := 0 }
  else { p with ready := p.ready ++ [out], secMarks := 0, carryUj := e % 100000000000 }

/-- The per-job records whose last interval has ended leave the open ones. -/
def Pole.finishJobs (p : Pole) (t : Nat) : Pole :=
  let done := p.jobs.filter (fun r => r.last.any (· ≤ t))
  done.foldl (fun p r => p.finish r (r.last.getD t) 0) { p with jobs := p.jobs.filter (fun r => !r.last.any (· ≤ t)) }

/-- The running interval is added to the records that cover it, and the next one begins. -/
def Pole.nextInterval (p : Pole) : Pole :=
  let t := p.time
  { p with second := p.second.cover t p.energy p.work p.flags
           jobs := p.jobs.map (fun r => r.cover t p.energy p.work p.flags)
           time := t + 1, energy := 0, work := 0, flags := 0 }

/-- An interval ends (R434): its INCREMENT is sent, in nJ rounded down with the remainder carried on; a per-second record
ends with its 10,000th interval (R438), and per-job records with their last (R441). -/
def Pole.intervalEnd (p : Pole) : Pole :=
  let t := p.time
  let e := p.carryNj + p.energy
  let nj := e / 100000000
  let p1 := { (p.nextInterval.say (.increment t nj p.work)) with carryNj := e % 100000000, increments := p.increments ++ [nj] }
  let p2 := if p1.second.first + 10000 ≤ t + 1 then
      { (p1.finish p1.second t 0) with second := { job := false, first := t + 1 } }
    else p1
  p2.finishJobs t
/-- INTERVAL_END. -/
def execIntervalEnd (s : State) : Out := onEvent (fun h => h.poleDo Pole.intervalEnd) s

/-- An INCREMENT message reaches the Layout engine, to be applied at the next tick (R427, R434). -/
def increment (h : Hw) : Hw :=
  match h.pole.increments with
  | [] => h
  | nj :: rest =>
    { h with pole := { h.pole with increments := rest }, le := { h.le with arrived := h.le.arrived ++ [nj] }, incAt := h.clock }
/-- INCREMENT. -/
def execIncrement (s : State) : Out := onEvent increment s

/-- No increment has arrived for 300 µs (R429). -/
def execMeterSilent (s : State) : Out := onHw (fun _ h => (h.event (h.incAt + 900000)).raiseSource 249) s

/-! ### Work units (R436, R437) -/

/-- The CRC-16 of a frame: the polynomial 0x1021 over the bits of LINE_TOTAL from the highest, then START (R436). -/
def lineCrc (total : W64) (start : Bool) : BitVec 16 :=
  let step := fun (x : BitVec 16) (b : Bool) => if x.getMsbD 0 != b then (x <<< 1) ^^^ 0x1021#16 else x <<< 1
  step ((List.range 64).foldl (fun x i => step x (total.getMsbD i)) Config.lineCrcInit) start

/-- A bent sends its frame at the next FCYC that is a multiple of 3,000; START is 1 in the first 16 (R436). -/
def workFrameSend (b : BentId) (h : Hw) : Hw :=
  let from_ := max h.clock (h.bent b).lineFrom - h.fcyc0
  let h1 := h.event (h.fcyc0 + (from_ + 2999) / 3000 * 3000)
  h1.updBent b (fun x => { x with lineSent := x.lineSent + 1, lineRestart := decide (x.lineSent < 16), lineFrom := h1.clock + 1 })
/-- WORK_COUNT_FRAME_SEND. -/
def execWorkCountFrameSend (b : BentId) (s : State) : Out := onHw (fun _ => workFrameSend b) s

/-- The Story Pole receives a frame on a line (R437). -/
def Pole.frame (p : Pole) (b : BentId) (now : Nat) (total : W64) (start : Bool) (crc : BitVec 16) : Pole :=
  let l := sgetD b.val {} p.lines
  let put := fun (l : Line) (p : Pole) => { p with lines := sset b.val l p.lines }
  if crc != lineCrc total start then put { l with failing := some (l.failing.getD now) } p
  else
    let l1 : Line := { signal := true, baseline := total.toNat, failing := none }
    let inc := if start && !l.signal then total.toNat else (total.toNat + 2 ^ 64 - l.baseline) % 2 ^ 64
    if start || inc < 2 ^ 32 then put l1 { p with work := p.work + inc }
    else put l1 { p with flags := p.flags ||| 8, due := p.due ++ [.lineFault b] }
/-- WORK_COUNT_FRAME. -/
def execWorkCountFrame (b : BentId) (total : BitVec 64) (start : Bool) (crc : BitVec 16) (s : State) : Out :=
  onEvent (fun h => h.poleDo (fun p => p.frame b h.clock total start crc)) s

/-- A line whose frames have failed their CRC for 1 ms (R437). -/
def lineCrcTimeout (b : BentId) (h : Hw) : Hw :=
  let l := sgetD b.val {} h.pole.lines
  match l.failing with
  | none => h
  | some t => (h.event (t + 3000000)).poleDo (fun p =>
      { p with flags := p.flags ||| 8, due := p.due ++ [.lineFault b], lines := sset b.val { l with failing := none } p.lines })
/-- LINE_CRC_TIMEOUT. -/
def execLineCrcTimeout (b : BentId) (s : State) : Out := onHw (fun _ => lineCrcTimeout b) s

/-- The bents' logic loses its supply: their lines carry no signal (R436, R437). -/
def Hw.linesDark (h : Hw) : Hw :=
  (h.updPole (fun p => { p with lines := p.lines.map (fun l => (l.1, { l.2 with signal := false })) })).updAllBents
    (fun b => { b with lineTotal := 0, lineSent := 0, lineRestart := true })

/-! ### Records (R438 to R443) -/

/-- The body of a record (R439). -/
def Ready.body (r : Ready) (recno : Nat) (prev : Nat) : List Byte :=
  wordsBytes [0x5350 * 2 ^ 48 + 0x01 * 2 ^ 40 + (if r.job then 2 else 1) * 2 ^ 32 + r.flags % 2 ^ 32, recno, Config.poleSerial,
    r.audit % 2 ^ 32 * 2 ^ 32 + r.cycle % 2 ^ 32, r.first, r.last, r.energy, r.work,
    r.work / 2 ^ 64 % 2 ^ 32 * 2 ^ 32 + r.fwver] ++ fitBytes 16 r.label ++ wordsBytes [prev]

/-- The first 8 bytes of the SHA-256 of the previous record of the kind (R439). -/
def prevHash (recs : SMap (List Byte)) (n : Nat) : Nat :=
  match n with
  | 0 => 0
  | m + 1 => numAt (sha256 (sgetD m [] recs)) 0 8

/-- Store record `n` of a kind of which the memory keeps the latest `depth` (R443). -/
def retain (depth n : Nat) (bs : List Byte) (recs : SMap (List Byte)) : SMap (List Byte) :=
  if depth ≤ n then sdel (n - depth) (sset n bs recs) else sset n bs recs

/-- Sign and store the next finished record; the salt is a free value (R440). The memory keeps the latest 4,096 per-second
and 1,024 per-job records (R443). -/
def Hw.recordClose (h : Hw) : Hw :=
  match h.pole.ready with
  | [] => h
  | r :: rest =>
    let (salt, h1) := h.free
    let p := h1.pole
    let n := if r.job then p.jobCount else p.secCount
    let body := r.body n (prevHash (if r.job then p.jobRecs else p.secs) n)
    let whole := body ++ fitBytes 384 (Config.poleSign body salt)
    let p1 := { p with ready := rest }
    if r.job then
      (h1.updPole (fun _ => { p1 with jobCount := n + 1, jobRecs := retain 1024 n whole p.jobRecs })).raiseSource 241
    else (h1.updPole (fun _ => { p1 with secCount := n + 1, secs := retain 4096 n whole p.secs })).raiseSource 240

/-- RECORD_CLOSE. -/
def execRecordClose (s : State) : Out := onEvent (fun h => if h.pole.powered then h.recordClose else h) s

/-! ### Commands (R431, R441) -/

/-- A record of a kind is held. -/
def Pole.held (p : Pole) (job : Bool) (n : Nat) : Option (List Byte) := sget n (if job then p.jobRecs else p.secs)

/-- The answer to READ_SECOND or READ_JOB. -/
def Pole.readRec (p : Pole) (job : Bool) (n : Nat) : Pole :=
  p.say (match p.held job n with
    | some bs => .record bs
    | none => .notHeld)
/-- READ_SECOND. -/
def execReadSecond (recno : BitVec 64) (s : State) : Out := onHw (fun _ h => h.poleDo (·.readRec false recno.toNat)) s
/-- READ_JOB. -/
def execReadJob (recno : BitVec 64) (s : State) : Out := onHw (fun _ h => h.poleDo (·.readRec true recno.toNat)) s

/-- A per-job record is open. -/
def Pole.jobOpen (p : Pole) : Bool := p.jobs.any (·.last.isNone)

/-- The fields of READ_STATUS in the order of the *Story Pole commands* table (log entry 14). -/
def Pole.statusBytes (p : Pole) : List Byte :=
  wordsBytes [p.time, p.cycle, p.audit, p.rejects, p.fwver] ++ fitBytes 32 Config.poleKeyHash
    ++ wordsBytes [p.secCount - 1, p.jobCount - 1, b2n p.jobOpen, p.alarms]
/-- READ_STATUS. -/
def execReadStatus (s : State) : Out := onHw (fun _ h => h.poleDo (fun p => p.say (.status p.statusBytes))) s

/-- READ_CERT: at most 2,048 bytes. -/
def poleCertBytes : List Byte := Config.poleCert.take 2048
/-- READ_CERT. -/
def execReadCert (s : State) : Out := onHw (fun _ h => h.poleDo (·.say (.cert poleCertBytes))) s

/-- JOB_OPEN: the new record begins with the next interval; an open one closes with UNCLOSED at this one (R441). -/
def Pole.openJob (p : Pole) : Pole :=
  let close := fun (r : OpenRec) => if r.last.isNone then { r with last := some p.time, flags := r.flags ||| 2 } else r
  { (p.say .ok) with jobs := p.jobs.map close ++ [{ job := true, first := p.time + 1 }] }
/-- JOB_OPEN. -/
def execJobOpen (s : State) : Out := onHw (fun _ h => h.poleDo Pole.openJob) s

/-- JOB_CLOSE: the open record ends with this interval and takes the label (R441). -/
def Pole.closeJob (p : Pole) (label : List Byte) : Pole :=
  if p.jobOpen then
    let close := fun (r : OpenRec) => if r.last.isNone then { r with last := some p.time, label := label } else r
    { (p.say .ok) with jobs := p.jobs.map close }
  else p.say .noneOpen
/-- JOB_CLOSE. -/
def execJobClose (label : BitVec 128) (s : State) : Out := onHw (fun _ h => h.poleDo (·.closeJob (toBytes 16 label.toNat))) s

/-- A code of no command (R431). -/
def execBadCommand (code : BitVec 8) (s : State) : Out :=
  onHw (fun _ h => if 1 ≤ code.toNat ∧ code.toNat ≤ 7 then h else h.poleDo (·.say .badCommand)) s

/-! ### Updates (R446 to R450) -/

/-- The parts of an image (R446): its version, modulus, signed bytes and signature. -/
structure Image where
  version : Nat
  modulus : List Byte
  signed : List Byte
  signature : List Byte
  deriving DecidableEq, Repr

/-- Read the parts of an image. -/
def Image.of (bs : List Byte) : Image :=
  let n := numAt bs 8 4
  { version := numAt bs 4 4, modulus := bytesAt bs 16 384, signed := bytesAt bs 0 (512 + n), signature := bytesAt bs (512 + n) 384 }

/-- The causes of R450, in order; `written` says that the image verified in its bank. -/
def Pole.updateCause (p : Pole) (bs : List Byte) (written : Bool) : Option Nat :=
  let x := Image.of bs
  if sha256 x.modulus != Config.poleUpdateHash then some 1
  else if !Config.pssVerify x.modulus x.signed x.signature then some 2
  else if x.version ≤ p.fwver then some 3
  else if p.jobOpen then some 4
  else if !written then some 5
  else none

/-- UPDATE: the image is rejected with its cause, or written into the inactive bank. That the write verifies is a free
value; where it does not, NVM_FAULT arises (R448, R450). -/
def Hw.poleUpdate (h : Hw) (bs : List Byte) : Hw :=
  let (x, h1) := h.free
  h1.poleDo (fun p =>
    match p.updateCause bs (x % 2 == 0) with
    | some 5 => { (p.say (.rejected 5)) with rejects := p.rejects + 1, due := p.due ++ [.nvmFault] }
    | some c => { (p.say (.rejected c)) with rejects := p.rejects + 1 }
    | none => { (p.say .accepted) with image := some (Image.of bs).version })
/-- UPDATE. -/
def execUpdate (image : List Byte) (s : State) : Out := onHw (fun _ h => h.poleUpdate image) s

/-- At a per-second boundary the Story Pole switches to the accepted image (R450). -/
def bankSwitch (h : Hw) : Hw :=
  match h.pole.image with
  | some v =>
    if h.pole.powered ∧ h.pole.second.first = h.pole.time then
      (h.updPole (fun p => { p with image := none, fwver := v, audit := (p.audit + 1) % 2 ^ 32, secMarks := p.secMarks ||| 64
                                    jobMarks := p.jobMarks ||| 64 })).raiseSource 243
    else h
  | none => h
/-- BANK_SWITCH. -/
def execBankSwitch (s : State) : Out := onEvent bankSwitch s

/-! ### Alarms and supply (R442, R448) -/

/-- The bit of an alarm, in the order of R448 (log entry 14). -/
def AlarmKind.bit : AlarmKind → Nat
  | .supplyLow => 1
  | .clockFault => 2
  | .senseRange _ => 4
  | .lineFault _ => 8
  | .nvmFault => 16

/-- An alarm is raised: its ALARM message is sent and raises SP_ALARM (R448). Those of a supply, a sample or a line follow
their condition; the monitor's and the memory's arise of themselves. -/
def alarm (k : AlarmKind) (h : Hw) : Hw :=
  let own := match k with
    | .clockFault | .nvmFault => true
    | _ => false
  let fl := if k = .clockFault then 16 else 0
  if own || h.pole.due.contains k then
    (h.updPole (fun p => { (p.say (.alarm k)) with due := p.due.erase k, alarms := p.alarms ||| AlarmKind.bit k,
                                                    flags := p.flags ||| fl })).raiseSource 242
  else h
/-- ALARM. -/
def execAlarm (kind : AlarmKind) (s : State) : Out := onEvent (alarm kind) s

/-- The Story Pole's supply falls below its threshold: the open per-second record and then any open per-job record close as
SHORT with the running interval, signed and stored on the hold-up (R442). -/
def supplyLow (h : Hw) : Hw :=
  if h.pole.powered then
    let t := h.pole.time
    let h1 := h.updPole (fun p =>
      let p1 := p.nextInterval
      let p2 := p1.jobs.foldl (fun p r => p.finish r (r.last.getD t) (if r.last.isNone then 1 else 0))
        { (p1.finish p1.second t 1) with jobs := [] }
      { p2 with due := p2.due ++ [.supplyLow] })
    let h2 := iter h1.pole.ready.length (fun _ h => h.recordClose) h1
    h2.updPole (fun p => { p with powered := false })
  else h
/-- SUPPLY_LOW. -/
def execSupplyLow (s : State) : Out := onEvent supplyLow s

/-- The Story Pole powers up (R442). -/
def storyPoleUp (h : Hw) : Hw :=
  if h.pole.powered then h
  else h.updPole (fun p =>
    { p with powered := true, cycle := p.cycle + 1, energy := 0, work := 0, flags := 0, jobs := [], lines := [], alarms := 0
             second := { job := false, first := p.time }, secMarks := p.secMarks ||| 128, jobMarks := p.jobMarks ||| 128 })
/-- STORY_POLE_POWER_UP. -/
def execStoryPolePowerUp (s : State) : Out := onHw (fun _ => storyPoleUp) s

end Sys2Proof.Machine
end

