-- ==== Sys2Proof/Machine/Layout.lean ====
section
/-!
DEFINITION. The Layout engine (R305 to R333): loading, layout, replay, staging, launch, completion, the ledger, the log and
the registers.
-/

namespace Sys2Proof.Machine

/-- Change the Layout engine. -/
def Hw.updLe (h : Hw) (f : Layout → Layout) : Hw := { h with le := f h.le }

/-! ### Regions and direct reads (R305, R308, R322) -/

/-- A range lies in the shared memory of one bent, by the bent's own region of R9. -/
def inOneBent (addr n : Nat) : Bool :=
  decide (0x001000000000 ≤ addr ∧ addr + n ≤ 0x001C00000000) &&
    (addr - 0x001000000000) / 0x40000000 == (addr - 0x001000000000 + (n - 1)) / 0x40000000
/-- A range lies in the shared memory of bents 0 to 47. -/
def inShared (addr n : Nat) : Bool := decide (0x001000000000 ≤ addr ∧ addr + n ≤ 0x001C00000000)
/-- A range lies in the external-memory window. -/
def inExt (addr n : Nat) : Bool := decide (0x010000000000 ≤ addr ∧ addr + n ≤ 0x020000000000)

/-- The lines of shared memory that the Layout engine reads through the Ridge's mesh ports, their requests on the control channel: an
uncorrectable line reads as zeros and is a BENT_MCHK of cause 2. The engine has the bytes at the command (R26, R305, R467; log
entry 98). -/
def ridgeRead : List (Nat × Nat) → Mem → Hw → List Byte × Hw
  | [], _, h => ([], h)
  | (loc, n) :: rest, m, h =>
    let r := h.lineRead ridgeRouter 2 loc n m
    let tail := ridgeRead rest m r.2
    (r.1.getD (List.replicate n 0) ++ tail.1, tail.2)
/-- A range of shared memory, read so; an address in a bent's own region is its location. -/
def Hw.readShared (h : Hw) (addr n : Nat) (m : Mem) : List Byte × Hw := ridgeRead (cutLines addr n (n / 64 + 2)) m h

/-! ### Descriptors (R306) -/

/-- The word of a descriptor. -/
def dword (ws : List Nat) (i : Nat) : Nat := ws.getD i 0

/-- The cut that a descriptor describes, as loading leaves it (R306, R310). -/
def Cut.of (idx : Nat) (ws : List Nat) (spec : List Nat) : Cut :=
  let w := dword ws
  let pc := field (w 0) 20 20
  { kind := field (w 0) 52 4, lane := field (w 0) 50 2, part := field (w 0) 48 2, prio := field (w 0) 40 8, predCount := pc
    succCount := field (w 0) 0 20, ordinal := field (w 1) 32 32, energy := field (w 1) 0 32, ovl := bitAt (w 2) 49
    beat := bitAt (w 2) 48, succPtr := field (w 2) 0 48, ovlSegs := field (w 3) 48 16, ovlSrc := field (w 3) 0 48
    ovlLen := field (w 4) 44 20, ovlDst := field (w 4) 24 20, entry := field (w 4) 4 20, paramPtr := field (w 5) 0 48
    bentMask := field (w 6) 16 48, coreMask := field (w 7) 20 44, timeout := field (w 8) 40 24
    user := BitVec.ofNat 64 (w 9), st := if pc = 0 then .ready else .wait, place := pc, done := pc, next := idx, spec := spec }

/-- The lane of a cut: gang parts 0 to 3, then side, transfer and notice (R311). -/
def Cut.laneIx (x : Cut) : Fin 7 := fin 7 (if x.lane = 0 then x.part else x.lane + 3)
/-- The order of the key (PRIORITY, ORDINAL, index) (R311). -/
def Cut.key (i : Nat) (x : Cut) : Nat := (x.prio * 2 ^ 32 + x.ordinal) * 2 ^ 20 + i
/-- The charge of a cut in nJ (R323). -/
def Cut.charge (x : Cut) : Int := 1000 * (x.energy : Int)

/-- The active GSPLITp (R315). -/
def Layout.part (l : Layout) (p : Nat) : W32 := l.split[fin 4 p]
/-- The part is enabled. -/
def partEn (v : W32) : Bool := v.getLsbD 31
/-- FIRST and LAST of a part. -/
def partFirst (v : W32) : Nat := fld v 0 6
def partLast (v : W32) : Nat := fld v 8 6

/-- The core set of a GANG or SIDE cut, in increasing core number; the first is the lead core (R307). -/
def Cut.cores (l : Layout) (x : Cut) : List CoreId :=
  match x.kind with
  | 0 =>
    let v := l.part x.part
    (List.range (partLast v + 1 - partFirst v)).flatMap (fun i =>
      (List.range 32).map (fun c => coreId (44 * (partFirst v + i) + c)))
  | 1 =>
    ((List.range 48).filter (fun b => bitAt x.bentMask b)).flatMap (fun b =>
      ((List.range 44).filter (fun c => bitAt x.coreMask c)).map (fun c => coreId (44 * b + c)))
  | _ => []

/-! ### Load checks (R309) -/

/-- The word of the first bad bit of a descriptor (order 1): its version, a reserved bit, or its successor list (R308). -/
def formatFault (ws : List Nat) : Option Nat :=
  let w := dword ws
  let n := field (w 0) 0 20
  let p := field (w 2) 0 48
  let listBad := if n = 0 then p != 0 else p % 4 != 0 || !inOneBent p (4 * n)
  if field (w 0) 56 8 ≠ 1 then some 0
  else if field (w 2) 50 14 ≠ 0 ∨ listBad then some 2
  else if field (w 4) 0 4 ≠ 0 then some 4
  else if field (w 5) 48 16 ≠ 0 then some 5
  else if field (w 6) 0 16 ≠ 0 then some 6
  else if field (w 7) 0 20 ≠ 0 then some 7
  else if field (w 8) 0 40 ≠ 0 then some 8
  else [10, 11, 12, 13, 14, 15].find? (fun i => w i != 0)

/-- KIND is allowed in LANE (R307). -/
def kindInLane (kind lane : Nat) : Bool :=
  match kind with
  | 0 => lane == 0
  | 1 => lane == 1
  | 2 | 3 => lane == 2
  | 4 => lane == 3
  | 15 => true
  | _ => false

/-- Order 2. -/
def laneFault (l : Layout) (x : Cut) : Bool :=
  !kindInLane x.kind x.lane || (if x.lane = 0 then !partEn (l.part x.part) else x.part != 0)

/-- Order 3. -/
def coreSetFault (x : Cut) : Bool :=
  if x.kind = 1 then x.bentMask == 0 || x.coreMask == 0 || x.coreMask % 2 ^ 32 != 0 else x.bentMask != 0 || x.coreMask != 0

/-- A core of each kind that the cut's set holds. -/
def Cut.kinds (x : Cut) : List Nat :=
  if x.kind = 0 then [0]
  else (if field x.coreMask 32 8 ≠ 0 then [32] else []) ++ (if field x.coreMask 40 4 ≠ 0 then [40] else [])

/-- The overlay runs past the instruction memory of a kind or into a segment that OVL_SEGS does not name (R130, R309). -/
def overlayRuns (x : Cut) (c : Nat) : Bool :=
  let seg := segSize c
  decide (imemSize c < x.ovlDst + x.ovlLen) ||
    (List.range ((x.ovlDst + x.ovlLen - 1) / seg + 1 - x.ovlDst / seg)).any (fun k => !bitAt x.ovlSegs (x.ovlDst / seg + k))

/-- Order 4: the code checks. -/
def codeFault (l : Layout) (x : Cut) : Bool :=
  if x.kind ≤ 1 then
    x.entry % 4 != 0 || x.kinds.any (fun c => !bitAt x.ovlSegs (x.entry / segSize c)) ||
    (x.ovlSegs &&& l.runnerSegs.toNat) != 0 ||
    (if x.ovl then
      x.ovlSrc % 64 != 0 || x.ovlDst % 64 != 0 || x.ovlLen % 64 != 0 || x.ovlLen == 0 ||
      !(inShared x.ovlSrc x.ovlLen || inExt x.ovlSrc x.ovlLen) || x.kinds.any (overlayRuns x)
    else x.ovlSrc != 0 || x.ovlLen != 0 || x.ovlDst != 0)
  else x.ovl || x.ovlSegs != 0 || x.ovlSrc != 0 || x.ovlLen != 0 || x.ovlDst != 0 || x.entry != 0

/-- A copy destination, and the device range of a NET cut (R322, R394). -/
def copyRegion (addr n : Nat) : Bool := inOneBent addr n || inExt addr n || (coreScratch addr n).isSome

/-- The specification of a COPY cut (R322). -/
def copyFault (spec : List Nat) : Bool :=
  let w := dword spec
  let (src, dst, n) := (field (w 0) 0 48, field (w 1) 0 48, field (w 2) 0 32)
  field (w 0) 48 16 != 0 || field (w 1) 48 16 != 0 || field (w 2) 32 32 != 0 || field (w 3) 1 63 != 0 ||
    src % 8 != 0 || dst % 8 != 0 || n % 8 != 0 || n == 0 || !(inOneBent src n || inExt src n) || !copyRegion dst n

/-- The specification of a NET cut (R394). -/
def netFault (spec : List Nat) : Bool :=
  let w := dword spec
  let (dev, n) := (field (w 0) 0 48, field (w 3) 0 32)
  field (w 0) 48 16 != 0 || field (w 1) 17 47 != 0 || field (w 3) 32 32 != 0 ||
    dev % 8 != 0 || w 2 % 8 != 0 || n % 8 != 0 || n == 0 || !copyRegion dev n

/-- Order 5 (R322, R394, R395). -/
def paramFault (x : Cut) : Bool :=
  match x.kind with
  | 2 => x.paramPtr % 32 != 0 || !inOneBent x.paramPtr 32 || copyFault x.spec
  | 3 => x.paramPtr % 32 != 0 || !inOneBent x.paramPtr 32 || netFault x.spec
  | 4 => x.paramPtr % 8 != 0 || !inOneBent x.paramPtr 24
  | _ => false

/-- The *Load checks* in order: the error and detail of the first that fails (R309). -/
def loadFault (l : Layout) (ws : List Nat) (x : Cut) : Option (Nat × Nat) :=
  match formatFault ws with
  | some w => some (0x02, w)
  | none =>
    if laneFault l x then some (0x03, 0)
    else if coreSetFault x then some (0x04, 0)
    else if codeFault l x then some (0x05, 0)
    else if paramFault x then some (0x06, 0)
    else if l.cap < 1000 * x.energy then some (0x07, 0)
    else none

/-- The region checks after GO, in order: the detail of the first that fails (R309). -/
def regionFault (l : Layout) : Option Nat :=
  let n := l.cutCount
  if n = 0 ∨ 1048576 < n ∨ l.cutBase.toNat % 128 ≠ 0 ∨ !inOneBent l.cutBase.toNat (128 * n) then some 0
  else if l.logEn ∧ (l.logBase.toNat % 64 ≠ 0 ∨ l.logSize.toNat % 32 ≠ 0 ∨ l.logSize.toNat < 64 ∨
      !inOneBent l.logBase.toNat l.logSize.toNat) then some 1
  else if l.replay ∧ (l.rplBase.toNat % 32 ≠ 0 ∨ !inOneBent l.rplBase.toNat (32 * n)) then some 2
  else none

/-! ### The end of a graph (R333, R387, R444, R455) -/

/-- Extend a measurement register by the SHA-256 of some bytes (R455). -/
def Hw.extendMr (h : Hw) (n : Fin 16) (bs : List Byte) : Hw :=
  { h with firm := { h.firm with mr := h.firm.mr.set n (sha256 (h.firm.mr[n] ++ sha256 bs)) } }

/-- The cuts that run. -/
def Layout.running (l : Layout) : List (Nat × Cut) := l.cuts.filter (fun p => p.2.st == .running)
/-- The state's code (R332). -/
def EngineState.code : EngineState → Nat
  | .idle => 0
  | .loading => 1
  | .running => 2
  | .draining => 3
  | .done => 4
  | .error => 5

/-- Conditions 1 to 3 of R316 for the head of a lane: DONE is 0, its code is in place, and its lane has room. -/
def laneReady (l : Layout) (x : Cut) : Bool :=
  let mine := l.running.filter (fun p => p.2.laneIx == x.laneIx)
  let code := if x.ovl then x.st == .staged else x.st == .laid
  let room := match x.lane with
    | 0 => mine.isEmpty
    | 1 => decide (mine.length < 16) && mine.all (fun p => (x.bentMask &&& p.2.bentMask) == 0 || (x.coreMask &&& p.2.coreMask) == 0)
    | 2 => decide (mine.length < 64)
    | _ => mine.isEmpty
  x.done == 0 && code && room

/-- The head of a lane (R316). -/
def Layout.head (l : Layout) (lane : Fin 7) : Option (Nat × Cut) := (l.heads[lane]).bind (fun i => (sget i l.cuts).map (fun x => (i, x)))

/-- A BEAT cut waits for a step of the domain (R316, R357). -/
def Hw.isStep (h : Hw) (x : Cut) : Bool := x.beat && h.dom.joined
/-- A BEAT head may arm: the beat is locked and no other BEAT cut is armed or runs (R357). -/
def Hw.mayArm (h : Hw) : Bool := h.dom.beatLock && h.dom.armed.isNone && h.le.running.all (fun p => !p.2.beat)

/-- The heads that the ledger decides among: those that meet conditions 1 to 4 of R316, and a BEAT head that may arm (R324,
R357). -/
def Hw.eligible (h : Hw) : List (Nat × Cut) :=
  ((List.finRange 7).filterMap h.le.head).filter (fun p => laneReady h.le p.2 && (!h.isStep p.2 || h.mayArm))

/-- The claimant: of the eligible heads whose charge exceeds B, the one with the least key (R324). -/
def Hw.claimant (h : Hw) : Option (Nat × Cut) :=
  (h.eligible.filter (fun p => h.le.bal < p.2.charge)).foldl (fun (acc : Option (Nat × Cut)) p =>
    match acc with
    | none => some p
    | some q => if p.2.key p.1 < q.2.key q.1 then some p else some q) none

/-- The ledger admits an eligible head (R324). -/
def Hw.admits (h : Hw) (i : Nat) (x : Cut) : Bool :=
  match h.claimant with
  | none => decide (x.charge ≤ h.le.bal)
  | some (j, y) => i != j && decide (x.charge ≤ h.le.bal - y.charge)

/-- LE_STAT (R332). -/
def Hw.leStat (h : Hw) : W32 :=
  let l := h.le
  w32 (l.st.code * 2 ^ 28 + b2n l.paused * 2 ^ 27 + b2n l.splitRef * 2 ^ 26
    + b2n (l.st == .running && h.claimant.isSome) * 2 ^ 25 + l.err % 256)

/-- DIGEST0 to DIGEST7 as bytes (R330). -/
def Layout.digestBytes (l : Layout) : List Byte := fitBytes 32 l.digest

/-- The graph has ended: the firmware closes the job record, extends MR7 and posts GRAPH_END (R387, R444, R455). -/
def Hw.graphEnd (h : Hw) : Hw :=
  let d := h.le.digestBytes
  let h1 := (h.poleDo (·.closeJob (d.take 16))).extendMr 7 d
  h1.postEvent 0xC1 0 ([h1.leStat.setWidth 64, BitVec.ofNat 64 h1.le.doneCnt] ++
    (List.range 4).map (fun i => BitVec.ofNat 64 (wordAt d i)))

/-- RUNNING becomes DONE when every cut is complete, and DRAINING becomes ERROR when none is left running (R333). -/
def Hw.engineEnd (h : Hw) : Hw :=
  match h.le.st with
  | .running =>
    if h.le.doneCnt = h.le.cutCount then ((h.updLe (fun l => { l with st := .done })).raiseSource 225).graphEnd else h
  | .draining => if h.le.running.isEmpty then (h.updLe (fun l => { l with st := .error })).graphEnd else h
  | _ => h

/-- An error is found: with nothing running the engine is in ERROR at once. -/
def Hw.leFail (h : Hw) (code cut info : Nat) : Hw := (h.leError code cut info).engineEnd

/-! ### GO and loading (R309, R333) -/

/-- The effect is a step of a completion walk. -/
def Later.isEdge : Later → Bool
  | .edge _ => true
  | _ => false

/-- A write of LE_CTRL: its control bits, and GO in IDLE or DONE. The firmware opens a job record when GO is accepted
(R444). -/
def leCtrlWrite (v : W32) (h : Hw) : Hw :=
  let h1 := h.updLe (fun l => { l with replay := v.getLsbD 0, logEn := v.getLsbD 1, logRun := v.getLsbD 2 })
  if v.getLsbD 31 ∧ (h.le.st = .idle ∨ h.le.st = .done) ∧ h.resets.isEmpty ∧ !h.postMortem then
    let h2 := ({ h1 with later := h1.later.filter (fun x => !x.2.isEdge) }.updLe (fun l =>
      { l with st := .loading, layFrom := 64 * h1.clock, walkFrom := 0, paused := false, err := 0, errCut := 0, errInfo := 0, laid := 0, doneCnt := 0, logWr := 0
               logRd := 0, bal := l.cap, meter := 0, lastTick := h1.fcyc, hash := shaInit, hashTail := [], digest := []
               cuts := [], loaded := 0, lanePtr := 0, progress := false, heads := Vector.replicate 7 none
               tails := Vector.replicate 7 none })).poleDo Pole.openJob
    match regionFault h2.le with
    | some d => h2.leFail 0x01 0 d
    | none => h2
  else h1
/-- GO: a write of LE_CTRL. -/
def execGo (v : BitVec 32) (s : State) : Out := onHw (fun _ h => leCtrlWrite v h.access) s

/-- The engine's layout side works for a time in 1/64 of a cycle, from the first cycle in which it is free (R309, R314). -/
def Hw.layTurn (h : Hw) (n : Nat) : Hw :=
  let h1 := h.event ((h.le.layFrom + 63) / 64)
  h1.updLe (fun l => { l with layFrom := max l.layFrom (64 * h1.clock) + n })

/-- The engine reads and checks the next descriptor in index order, at 128 × 10⁶ per second (R309); after the last one it is
RUNNING. -/
def descriptorLoad (m : Mem) (h : Hw) : Hw :=
  if h.le.st ≠ .loading then h
  else
    let i := h.le.loaded
    let r := (h.layTurn 1500).readShared (h.le.cutBase.toNat + 128 * i) 128 m
    let ws := (List.range 16).map (wordAt r.1)
    let x0 := Cut.of i ws []
    let s := if (x0.kind = 2 ∨ x0.kind = 3) ∧ inOneBent x0.paramPtr 32 then r.2.readShared x0.paramPtr 32 m else ([], r.2)
    let x := { x0 with spec := (List.range 4).map (wordAt s.1) }
    match loadFault h.le ws x with
    | some (code, info) => s.2.leFail code i info
    | none =>
      s.2.updLe (fun l => { l with cuts := sset i x l.cuts, loaded := i + 1
                                   st := if i + 1 = l.cutCount then .running else .loading })
/-- DESCRIPTOR_LOAD. -/
def execDescriptorLoad (s : State) : Out := onHw descriptorLoad s

/-! ### The log (R328, R329) -/

/-- The ring is full. -/
def Layout.logFull (l : Layout) : Bool := (l.logWr + 32) % l.logSize.toNat == l.logRd

/-- Write a record into the log ring through the Ridge's mesh ports; LOG_WR passes it once it is performed, at the command (R26, R328;
log entry 98). -/
def logWrite (ws : List Nat) (m : Mem) (h : Hw) : Mem × Hw :=
  let loc := h.le.logBase.toNat + h.le.logWr
  let r := performWrite (loc / 64) (offsFrom (loc % 64) (wordsBytes ws)) m (h.lineTraffic ridgeRouter (loc / 64) 2).2
  (r.2.1, r.2.2.updLe (fun l => { l with logWr := (l.logWr + 32) % l.logSize.toNat }))

/-- The layout record of a cut (R328). -/
def Cut.layoutRecord (i : Nat) (x : Cut) : List Nat :=
  [1 * 2 ^ 60 + x.lane * 2 ^ 58 + x.part * 2 ^ 56 + i * 2 ^ 36 + x.seq % 2 ^ 20 * 2 ^ 16, x.ordinal * 2 ^ 32 + x.prio * 2 ^ 24,
    x.user.toNat, 0]

/-- The run record of a cut that ends now (R328). -/
def Cut.runRecord (i : Nat) (x : Cut) (failed : Bool) (now : Nat) : List Nat :=
  [2 * 2 ^ 60 + x.lane * 2 ^ 58 + x.part * 2 ^ 56 + i * 2 ^ 36 + x.seq % 2 ^ 20 * 2 ^ 16 + b2n failed + b2n x.timedOut * 4
    + b2n x.stillMark * 8, x.launchedAt, now, x.energy * 2 ^ 32]

/-- A run record is written when LOG_EN and LOG_RUN are 1, or dropped and counted when the ring is full (R328, R329). -/
def runRecord (i : Nat) (x : Cut) (failed : Bool) (m : Mem) (h : Hw) : Mem × Hw :=
  if h.le.logEn && h.le.logRun then
    if h.le.logFull then (m, h.updLe (fun l => { l with runDrop := l.runDrop + 1 }))
    else logWrite (x.runRecord i failed h.fcyc) m h
  else (m, h)

/-- Add a layout record to the digest (R330). -/
def Layout.digestAdd (l : Layout) (bs : List Byte) : Layout :=
  let t := l.hashTail ++ bs
  let l1 := if t.length = 64 then { l with hash := shaBlock l.hash t, hashTail := [] } else { l with hashTail := t }
  { l1 with digest := shaFinish l1.hash l1.hashTail (32 * (l.laid + 1)) }

/-! ### Layout (R312, R331) -/

/-- The ready cut of a lane with the least key (R311). -/
def Layout.leastReady (l : Layout) (lane : Fin 7) : Option (Nat × Cut) :=
  (l.cuts.filter (fun p => p.2.st == .ready && p.2.laneIx == lane)).foldl (fun (acc : Option (Nat × Cut)) p =>
    match acc with
    | none => some p
    | some q => if p.2.key p.1 < q.2.key q.1 then some p else some q) none

/-- Walk a successor list as layout does: PLACE of each entry falls by 1, and a cut whose PLACE reaches 0 is ready; the walk
stops at a bad entry (R312). -/
def placeWalk (c : Nat) : List Nat → Nat → Hw → Hw
  | [], _, h => h
  | s :: rest, e, h =>
    if h.le.cutCount ≤ s then h.leFail 0x08 c e
    else
      match sget s h.le.cuts with
      | none => h.leFail 0x08 c e
      | some y =>
        if y.place = 0 then h.leFail 0x09 s c
        else placeWalk c rest (e + 1) (h.updCut s (fun y =>
          { y with place := y.place - 1, st := if y.place = 1 then .ready else y.st }))

/-- The entries of a successor list (R308). -/
def Hw.successors (h : Hw) (x : Cut) (m : Mem) : List Nat × Hw :=
  let r := h.readShared x.succPtr (4 * x.succCount) m
  ((List.range x.succCount).map (fun e => numAt r.1 (4 * e) 4), r.2)

/-- Append a cut to the sequence of its lane (R310, R312). -/
def Layout.append (l : Layout) (i : Nat) (x : Cut) : Layout :=
  let lane := x.laneIx
  let cuts := sset i { x with st := .laid, seq := l.laid, next := i } l.cuts
  let linked := match l.tails[lane] with
    | some t =>
      match sget t cuts with
      | some y => sset t { y with next := i } cuts
      | none => cuts
    | none => cuts
  { l with cuts := linked, laid := l.laid + 1, tails := l.tails.set lane (some i)
           heads := if (l.heads[lane]).isNone then l.heads.set lane (some i) else l.heads }

/-- Lay out a cut: its record, its place in the sequence, and the walk of its successors (R312, R328, R330). -/
def layOut (i : Nat) (x : Cut) (m : Mem) (h : Hw) : Mem × Hw :=
  let rec_ := { x with seq := h.le.laid }.layoutRecord i
  let w := if h.le.logEn then logWrite rec_ m h else (m, h)
  let h1 := w.2.updLe (fun l => (l.digestAdd (wordsBytes rec_)).append i x)
  let s := h1.successors x w.1
  (w.1, placeWalk i s.1 0 s.2)

/-- Layout pauses while a layout record is due and the ring is full (R329). -/
def Hw.pauses (h : Hw) : Bool := h.le.logEn && h.le.logFull
/-- The engine pauses. -/
def Hw.pause (h : Hw) : Hw := if h.le.paused then h else (h.updLe (fun l => { l with paused := true })).raiseSource 227

/-- The first lane from the round's pointer on that has a ready cut. -/
def Layout.nextReady (l : Layout) (from_ : Nat) : Option (Nat × Nat × Cut) :=
  ((List.finRange 7).filter (fun k => from_ ≤ k.val)).findSome? (fun k => (l.leastReady k).map (fun p => (k.val, p.1, p.2)))

/-- The time that the layout of a cut takes in 1/64 of a cycle: at most 64 × 10⁶ cuts and 512 × 10⁶ entries per second (R314). -/
def Cut.layTime (x : Cut) : Nat := max 3000 (375 * x.succCount)

/-- The engine lays out the next cut of the rounds of R312: each lane once a round, in the lane order; a round without
progress stops layout with STRANDED. -/
def layoutCut (m : Mem) (h0 : Hw) : Mem × Hw :=
  let l := h0.le
  if l.st ≠ .running ∨ l.replay ∨ l.cutCount ≤ l.laid then (m, h0)
  else
  let h := h0.layTurn 0
  if h.pauses then (m, h.pause)
  else
    let pick := match h.le.nextReady l.lanePtr with
      | some p => some p
      | none => if l.progress then h.le.nextReady 0 else none
    match pick with
    | some (k, i, x) =>
      layOut i x m ((h.layTurn x.layTime).updLe (fun l => { l with paused := false, lanePtr := k + 1, progress := true }))
    | none => (m, h.leFail 0x0A 0 l.laid)
/-- LAYOUT_CUT. -/
def execLayoutCut (s : State) : Out := onMem layoutCut s

/-- Under replay the engine lays out the cut that the next record names (R331). -/
def layoutReplay (m : Mem) (h0 : Hw) : Mem × Hw :=
  let l := h0.le
  if l.st ≠ .running ∨ !l.replay ∨ l.cutCount ≤ l.laid then (m, h0)
  else
  let h := h0.layTurn 0
  if h.pauses then (m, h.pause)
  else
    let r := h.readShared (l.rplBase.toNat + 32 * l.laid) 32 m
    let w := wordAt r.1 0
    let i := field w 36 20
    let h1 := r.2.updLe (fun l => { l with paused := false })
    match sget i h1.le.cuts with
    | none => (m, h1.leFail 0x0B 0 l.laid)
    | some x =>
      if field w 60 4 = 1 ∧ field w 16 20 = l.laid ∧ x.st = .ready ∧ field w 58 2 = x.lane ∧ field w 56 2 = x.part then
        layOut i x m (h1.layTurn x.layTime)
      else (m, h1.leFail 0x0B i l.laid)
/-- LAYOUT_REPLAY_RECORD. -/
def execLayoutReplayRecord (s : State) : Out := onMem layoutReplay s

/-! ### Completion (R319, R322, R323) -/

/-- The cut runs on no core any longer. -/
def Hw.leaveCores (h : Hw) (i : Nat) : Hw :=
  { h with cores := h.cores.map (fun p => (p.1, if p.2.runsCut == some i then { p.2 with runsCut := none } else p.2)) }

/-- Walk a successor list as a completion does: DONE of each entry falls by 1. The successor-edge unit comes to 512 × 10⁶ entries per
second; a walk of layout resumes after it (R314, R319). -/
def doneWalk (ss : List Nat) (h : Hw) : Hw :=
  let n := ss.length
  let start := max (64 * h.clock) h.le.walkFrom
  let at_ := fun (e : Nat) => (start + 375 * (e + 1) + 63) / 64 - 1
  let h1 := ((List.range n).zip ss).foldl (fun (h : Hw) (p : Nat × Nat) => h.after (at_ p.1) (.edge p.2)) h
  h1.updLe (fun l => { l with walkFrom := start + 375 * n, layFrom := max l.layFrom (64 * h.clock) + 375 * n })

/-- A cut completes: the ledger is credited, the run record written and the successors walked (R319, R323). -/
def completeCut (i : Nat) (m : Mem) (h : Hw) : Mem × Hw :=
  match sget i h.le.cuts with
  | none => (m, h)
  | some x =>
    let h1 := ((h.updCut i (fun y => { y with st := .complete })).updLe (fun l =>
      { l with bal := l.bal + x.charge, doneCnt := l.doneCnt + 1 })).leaveCores i
    let r := runRecord i x false m h1
    let s := r.2.successors x r.1
    (r.1, (doneWalk s.1 s.2).engineEnd)

/-- A cut has failed: its estimate is added back, and its run record says so (R319, R323). -/
def failCut (i code info : Nat) (m : Mem) (h : Hw) : Mem × Hw :=
  match sget i h.le.cuts with
  | none => (m, h)
  | some x =>
    let h1 := ((h.updCut i (fun y => { y with st := .failed })).updLe (fun l => { l with bal := l.bal + x.charge })).leaveCores i
    let r := runRecord i x true m h1
    (r.1, (r.2.leError code i info).engineEnd)

/-- The cut of a number runs on a core. -/
def Hw.runsOn (h : Hw) (i g : Nat) : Bool :=
  (h.core g).runsCut == some i && ((sget i h.le.cuts).map (fun x => x.st == .running)).getD false

/-- The lead core of a running cut (R307). -/
def Hw.lead (h : Hw) (i : Nat) : Option CoreId := (sget i h.le.cuts).bind (fun x => (x.cores h.le).head?)

/-- Of the messages on their way to a block behind the Ridge, the first to arrive: it, the clock of that, and the others. -/
def Hw.nextMsg (h : Hw) (ms : List RidgeMsg) : Option (RidgeMsg × Nat × List RidgeMsg × Hw) :=
  (h.landFirst (ms.map (fun x => (x.flit, x.due))) none).bind (fun r =>
    (takeFirst (·.flit == r.1) ms).map (fun p => (p.1, r.2.1, p.2, r.2.2)))

/-- An end notice takes its effect (R319). -/
def noticeEffect (g : Nat) (w : W64) (m : Mem) (h : Hw) : Mem × Hw :=
  let i := field w.toNat 0 20
  let status := field w.toNat 20 4
  if !w.getLsbD 63 || !h.runsOn i g || 2 ≤ status then (m, h.leFail 0x0D i g)
  else if status = 1 then failCut i 0x0C g m h
  else if (h.lead i).map (·.val) != some g then (m, h.leFail 0x0D i g)
  else completeCut i m h

/-- The next end notice reaches Ridge SRAM, where its store is performed, and the engine records it in the cycle after (R294, R319). -/
def endNotice (m : Mem) (h : Hw) : Mem × Hw :=
  match h.nextMsg h.endNotices with
  | none => (m, h)
  | some (x, at_, rest, h1) =>
    let h2 := ({ h1.event at_ with endNotices := rest }.updThread x.who Thread.noticed).event (at_ + 1)
    noticeEffect x.num x.word m h2
/-- END_NOTICE. -/
def execEndNotice (s : State) : Out := onMem endNotice s

/-! ### Launch (R316, R317) -/

/-- The launch writes of a cut: port and value (R317). -/
def launchWrites (l : Layout) (i : Nat) (x : Cut) (lead : Nat) : List (BitVec 16 × Nat) :=
  [(0x041A, x.paramPtr % 2 ^ 32), (0x041B, x.paramPtr / 2 ^ 32), (0x041C, lead * 2 ^ 20 + i), (0x041D, x.entry),
    (0x0810, l.runnerSegs.toNat ||| x.ovlSegs), (0x0484, 0x8000)]

/-- The root issues the six BWRITEs of a launch in consecutive cycles, all with the apply time 93 cycles after the first (R317). -/
def Hw.launchWrite (h : Hw) (i : Nat) : Hw :=
  match sget i h.le.cuts with
  | none => h
  | some x =>
    let cs := x.cores h.le
    let at_ := h.purlinTurn + 93 - h.fcyc0
    (launchWrites h.le i x ((cs.head?.map (·.val)).getD 0)).foldl (fun (h : Hw) p => h.purlinMany cs p.1 (w32 p.2) (some at_)) h

/-- The writes of a launch reach the root: behind those of lower lanes that launched in the same cycle, and before those of higher ones
(R317). -/
def Hw.launchRoot (h : Hw) (lane i : Nat) : Hw :=
  let l := h.le
  let again := l.launchAt = h.clock ∧ h.purlinSerial = l.rootMark.2 + 6 * l.launched.length
  let mark := if again then l.rootMark else (h.purlinFrom, h.purlinSerial)
  let before := if again then l.launched else []
  let all := before.filter (fun p => decide (p.1 < lane)) ++ (lane, i) :: before.filter (fun p => decide (lane ≤ p.1))
  let h1 : Hw := { h with purlins := h.purlins.filter (fun p => decide (p.serial ≤ mark.2)), purlinFrom := mark.1, purlinSerial := mark.2 }
  (all.foldl (fun (h : Hw) p => h.launchWrite p.2) (if again then h1 else h)).updLe
    (fun l => { l with launchAt := h.clock, rootMark := mark, launched := all })

/-- The plate whose agent moves the data of a COPY or NET cut (R322, R394). -/
def Hw.cutPlate (h : Hw) (x : Cut) : Plate :=
  if x.kind = 2 then x.agent
  else ((sget (field (x.spec.getD 1 0) 0 16) h.net.ubt).map h.net.ubtPlate).getD .west

/-- A cut launches: STATE becomes RUNNING and its lane goes on to the next cut; a GANG or SIDE cut's writes go to the purlin root, the
work of a COPY or NET cut to its plate on the control channel, and a NOP completes at once (R26, R307, R316, R317). -/
def launch (i : Nat) (x : Cut) (charge : Int) (m : Mem) (h : Hw) : Mem × Hw :=
  let next := if x.next = i then none else some x.next
  let h1 := (h.updCut i (fun y =>
      { y with st := .running, launchedAt := h.fcyc, heldFor := 0, unit := 0, open_ := [], reading := [], learned := 0, doneAt := 0
               fault := none })).updLe
    (fun l => { l with bal := l.bal - charge, heads := l.heads.set x.laneIx next })
  match x.kind with
  | 0 | 1 =>
    (m, ((x.cores h.le).foldl (fun (h : Hw) (c : CoreId) => h.updCore c (fun k => { k with runsCut := some i })) h1).launchRoot
      x.laneIx i)
  | 15 => completeCut i m h1
  | 4 => (m, h1)
  | _ =>
    let y := h1.carry ridgeRouter (plateRouter (h.cutPlate x)) 2 h1.clock
    (m, y.2.updCut i (fun x => { x with from_ := y.1 }))

/-- The clock of a beat, from the latest beat on at the adjusted interval and 3,000 cycles a beat after it (R349). -/
def Domain.beatAt (d : Domain) (b : Nat) : Nat :=
  if d.beat < b then ((d.beatClk + 3000 * (b - d.beat) : Nat) + d.adjust).toNat else d.beatClk - 3000 * (d.beat - b)

/-- The armed cut launches so that AT falls on its beat, without a further charge (R357, R358). -/
def launchStep (a : Armed) (b i : Nat) (x : Cut) (m : Mem) (h : Hw) : Mem × Hw :=
  if a.cut = i ∧ b ≤ h.dom.beat + 1 then
    launch i x 0 m (((h.event (h.dom.beatAt b - 93)).updDom (fun d => { d with armed := none, dstep := d.dstep + 1 })))
  else (m, h)

/-- Completion walks under way that bring the DONE of a cut to 0 have done so (R314, R316). -/
def Hw.walksDone (h : Hw) (i done : Nat) : Hw :=
  match (h.later.filter (fun e => e.2 == .edge i)).map (·.1) with
  | [] => h
  | d :: rest => if done = rest.length + 1 then h.reach (rest.foldl max d + 1) else h

/-- The head of a lane launches when its conditions hold and the ledger admits it (R316, R324). -/
def launchCut (lane : Fin 7) (m : Mem) (h0 : Hw) : Mem × Hw :=
  let h := h0.event (match h0.le.head lane with
    | some (i, x) => (h0.walksDone i x.done).clock
    | none => h0.clock)
  match h.le.head lane with
  | none => (m, h)
  | some (i, x) =>
    if h.le.st ≠ .running ∨ h.devFrozen ∨ !laneReady h.le x then (m, h)
    else if h.isStep x then
      match h.dom.armed with
      | some a =>
        match a.launch with
        | some b => launchStep a b i x m h
        | none => (m, h)
      | none => (m, h)
    else if (h.le.cap : Int) < x.charge then (m, h.leFail 0x07 i 0)
    else if h.admits i x then launch i x x.charge m h
    else (m, h)
/-- LAUNCH_CUT. -/
def execLaunchCut (lane : Fin 7) (s : State) : Out := onMem (launchCut lane) s

/-! ### Staging (R320) -/

/-- A cut on a core of the set runs in a segment of the overlay. -/
def Hw.segmentsBusy (h : Hw) (x : Cut) (cs : List CoreId) : Bool :=
  h.le.running.any (fun p => (p.2.ovlSegs &&& x.ovlSegs) != 0 && cs.any (fun c => (h.core c).runsCut == some p.1))

/-- Staging of the head of a gang part or of the side lane begins: one request per core to transfer engine 3 of its bent,
with DSPACE = 1, over the mesh on the control channel (R26, R227, R320). -/
def stageOverlay (lane : Fin 7) (h0 : Hw) : Hw :=
  let h := h0.event h0.clock
  match h.le.head lane with
  | none => h
  | some (i, x) =>
    let cs := x.cores h.le
    if h.le.st ≠ .running ∨ 1 < x.kind ∨ !x.ovl ∨ x.st ≠ .laid ∨ x.staging ∨ h.segmentsBusy x cs then h
    else
      cs.foldl (fun (h : Hw) (c : CoreId) =>
        let y := h.carry ridgeRouter (bentOf c) 2 h.clock
        y.2.stageEnter { owner := .stage i, reqId := 0, home := c, src := x.ovlSrc, dst := x.ovlDst, len := x.ovlLen, dspace := true
                         dcore := coreIn c, even := false, evt := 0, seq := 0, submitted := y.1 })
        (h.updCut i (fun y => { y with staging := true, stageOpen := cs.length, stageFail := none, doneAt := 0 }))
/-- STAGE_OVERLAY. -/
def execStageOverlay (lane : Fin 7) (s : State) : Out := onHw (fun _ => stageOverlay lane) s

/-- The engine knows that every staging request of a cut has ended, and it is STAGED, or that one has failed, and OVERLAY_FAULT is
raised (R320). -/
def overlayStaged (i : Nat) (h0 : Hw) : Hw :=
  match sget i h0.le.cuts with
  | none => h0
  | some x =>
    let h := h0.event x.doneAt
    if x.staging then
      match x.stageFail with
      | some code => (h.updCut i (fun y => { y with staging := false })).leFail 0x0F i code
      | none => if x.stageOpen = 0 then h.updCut i (fun y => { y with staging := false, st := .staged }) else h0
    else h0
/-- OVERLAY_STAGED. -/
def execOverlayStaged (cut : BitVec 20) (s : State) : Out := onHw (fun _ => overlayStaged cut.toNat) s

/-! ### Copies (R322) -/

/-- A copy agent issues a unit: its pages are translated and its source is asked for (R322). -/
def copyIssue (i : Nat) (x : Cut) (m : Mem) (h : Hw) : Mem × Hw :=
  let w := dword x.spec
  let (src, dst, len) := (field (w 0) 0 48, field (w 1) 0 48, field (w 2) 0 32)
  let p := x.agent
  let now := h.clock
  let off := x.unit
  let n := min (64 - (dst + off) % 64) (len - off)
  let from_ := xlocate 0 (src + off) n false
  let s := xpath from_ n (fun v h => h.plateXlat p .read v) h
  match s.1 with
  | .fault exc => (m, s.2.copySettle i off (pageCode exc) now)
  | .walk => (m, s.2)
  | sp =>
    let d := xpath (xlocate 0 (dst + off) n true) n (fun v h => h.plateXlat p .write v) s.2
    match d.1 with
    | .fault exc => (m, d.2.copySettle i off (pageCode exc) now)
    | .walk => (m, d.2)
    | dp =>
      let y := unitAsk (plateSrc p) 0 (plateRouter p) (.copy i off) (.copy i off) from_ sp
        { off := off, n := n, src := sp, dst := dp, pieces := 0 } now m d.2
      (m, y.2.updCut i (fun x =>
        { x with unit := off + n, open_ := off :: x.open_, reading := unarrived x.reading now ++ [y.1], from_ := now + 1 }))

/-- The copy agent of a COPY cut's plate issues its next unit, split at 64-byte boundaries of the destination, at most one per cycle and
with at most 256 being read; none once it has learnt of a failure (R322), and none while the device is frozen (R472). Of a failed copy
the destination holds exactly the units issued before that, those that end well, and its old bytes elsewhere (DESIGN CHOICE, log
entry 99). -/
def copyUnitIssue (i : Nat) (m : Mem) (h : Hw) : Mem × Hw :=
  match sget i h.le.cuts with
  | none => (m, h)
  | some x =>
    match readTurn x.reading (max h.clock x.from_) with
    | none => (m, h)
    | some t =>
      if x.kind ≠ 2 ∨ x.st ≠ .running ∨ (x.fault.isSome ∧ x.learned ≤ t) ∨ field (dword x.spec 2) 0 32 ≤ x.unit ∨ h.devFrozen then (m, h)
      else copyIssue i x m (h.event t)
/-- COPY_UNIT_ISSUE. -/
def execCopyUnitIssue (cut : BitVec 20) (s : State) : Out := onMem (copyUnitIssue cut.toNat) s

/-- The bytes that a COPY or NET cut moves. -/
def Cut.copyLen (x : Cut) : Nat := field (dword x.spec (if x.kind = 2 then 2 else 3)) 0 32

/-- A copy completes when every unit has been performed (R322, R394). -/
def copyComplete (i : Nat) (m : Mem) (h : Hw) : Mem × Hw :=
  match sget i h.le.cuts with
  | none => (m, h)
  | some x =>
    if (x.kind = 2 ∨ x.kind = 3) ∧ x.st = .running ∧ x.fault.isNone ∧ x.copyLen ≤ x.unit ∧ x.open_.isEmpty then
      completeCut i m (h.event x.doneAt)
    else (m, h)
/-- COPY_COMPLETE. -/
def execCopyComplete (cut : BitVec 20) (s : State) : Out := onMem (copyComplete cut.toNat) s

/-- A failed copy becomes FAILED once every unit it issued has been performed or dropped (R322, R394). -/
def copyFail (i : Nat) (m : Mem) (h : Hw) : Mem × Hw :=
  match sget i h.le.cuts with
  | none => (m, h)
  | some x =>
    match x.fault with
    | some (code, _) => if x.st = .running ∧ x.open_.isEmpty then failCut i 0x0E code m (h.event x.doneAt) else (m, h)
    | none => (m, h)
/-- COPY_FAIL. -/
def execCopyFail (cut : BitVec 20) (s : State) : Out := onMem (copyFail cut.toNat) s

/-! ### Notices (R395) -/

/-- The session that NOTICE records go to. -/
def Net.noticeTo (n : Net) : Option Nat := if n.noticeEn then some n.noticeSession else n.control

/-- The record of a NOTICE cut enters its session's completion ring, and the cut completes; while the session is closed or
has no room, the cut stays running (R395). -/
def noticeAccept (i : Nat) (m : Mem) (h : Hw) : Mem × Hw :=
  match sget i h.le.cuts, h.net.noticeTo with
  | some x, some n =>
    match sget n h.net.sessions with
    | none => (m, h)
    | some s =>
      let r := (h.event h.clock).readShared x.paramPtr 24 m
      let ws := record 0xCC i 0 ([0, 1, 2].map (fun k => BitVec.ofNat 64 (wordAt r.1 k)) ++ [0, 0, 0])
      if x.kind = 4 ∧ x.st = .running ∧ s.waiting.isEmpty ∧ (s.place ws).isSome then completeCut i m (r.2.postRec n ws) else (m, h)
  | _, _ => (m, h)
/-- NOTICE_ACCEPT. -/
def execNoticeAccept (cut : BitVec 20) (s : State) : Out := onMem (noticeAccept cut.toNat) s

/-! ### The ledger (R323, R325, R428) -/

/-- The refill of a tick, capped by TCAP_MW while THERMAL_WARN holds (R428). -/
def Hw.refill (h : Hw) : Nat := if h.sill.warm then min h.le.budget h.sill.tcap.toNat else h.le.budget

/-- The next tick: every increment that has reached the engine is subtracted, and then B refills toward LCAP (R323,
R427). -/
def ledgerTick (h : Hw) : Hw :=
  if h.devFrozen then h
  else
    let t := (h.le.lastTick / 3000 + 1) * 3000
    let h1 := h.event (h.fcyc0 + t)
    let e := sumN h1.le.arrived
    h1.updLe (fun l =>
      let b := l.bal - e
      { l with lastTick := t, arrived := [], meter := (l.meter + e) % 2 ^ 64
               bal := if b < l.cap then min (b + h1.refill) l.cap else b })
/-- LEDGER_TICK. -/
def execLedgerTick (s : State) : Out := onHw (fun _ => ledgerTick) s

/-- A write of LCOMMIT: the shadow budget and cap take effect, and B stays (R325). -/
def lcommit (v : W32) (h : Hw) : Hw :=
  if v.getLsbD 0 then
    h.updLe (fun l => { l with budget := l.budgetSh.toNat, cap := l.capHiSh.toNat * 2 ^ 32 + l.capLoSh.toNat })
  else h
/-- LCOMMIT. -/
def execLcommit (v : BitVec 32) (s : State) : Out := onHw (fun _ h => lcommit v h.access) s

/-- A shadow split is well formed: at least one part, each with FIRST ≤ LAST ≤ 47, and no bent shared (R315). -/
def splitOk (vs : List W32) : Bool :=
  let en := vs.filter partEn
  !en.isEmpty && en.all (fun v => decide (partFirst v ≤ partLast v ∧ partLast v ≤ 47)) &&
    (List.range 48).all (fun b => decide ((en.filter (fun v => partFirst v ≤ b && b ≤ partLast v)).length ≤ 1))

/-- A write of GCOMMIT: the shadow split is applied, or refused with SPLIT_REF (R315). -/
def gcommit (v : W32) (h : Hw) : Hw :=
  if v.getLsbD 0 then
    if h.le.quiet && splitOk h.le.splitSh.toList then h.updLe (fun l => { l with split := l.splitSh, splitRef := false })
    else h.updLe (fun l => { l with splitRef := true })
  else h
/-- GCOMMIT. -/
def execGcommit (v : BitVec 32) (s : State) : Out := onHw (fun _ h => gcommit v h.access) s

/-! ### Still reports and timeouts (R327) -/

/-- The next still report reaches Ridge SRAM, where its store is performed, and in the cycle after the running cut on its core is marked
STILL (R327). -/
def stillReport (h : Hw) : Hw :=
  match h.nextMsg h.stillReports with
  | none => h
  | some (x, at_, rest, h1) =>
    let h2 := ({ h1.event at_ with stillReports := rest }.updThread x.who Thread.noticed).event (at_ + 1)
    match (h2.core x.num).runsCut with
    | some i => if h2.runsOn i x.num then h2.updCut i (fun x => { x with stillMark := true }) else h2
    | none => h2
/-- STILL_REPORT. -/
def execStillReport (s : State) : Out := onHw (fun _ => stillReport) s

/-- A cut that runs on cores is held by a freeze of its lead core, and every cut by one of the device (R471, R472). -/
def Hw.timeoutHeld (h : Hw) (i : Nat) (x : Cut) : Bool :=
  h.devFrozen || (decide (x.kind ≤ 1) && (h.lead i).any (fun c => (h.core c).frozenAt.isSome))

/-- A running cut reaches the first tick past its TIMEOUT: one STILL or TIMEOUT report is sent (R327, R387). -/
def cutTimeout (i : Nat) (h : Hw) : Hw :=
  match sget i h.le.cuts with
  | none => h
  | some x =>
    if x.st ≠ .running ∨ x.timedOut ∨ h.timeoutHeld i x then h
    else
      let us := if x.timeout = 0 then h.le.defTimeout else x.timeout
      let t := ((x.launchedAt + x.heldFor + 3000 * us) / 3000 + 1) * 3000
      let h1 := ((h.event (h.fcyc0 + t)).updCut i (fun x => { x with timedOut := true })).raiseSource 226
      h1.postEvent (if x.stillMark then 0xC3 else 0xC2) i [x.user]
/-- CUT_TIMEOUT_EXPIRY. -/
def execCutTimeoutExpiry (cut : BitVec 20) (s : State) : Out := onHw (fun _ => cutTimeout cut.toNat) s

/-- A write of LOG_RD frees log space, and paused layout resumes (R329). -/
def logRdWrite (v : W32) (h : Hw) : Hw :=
  let h1 := h.updLe (fun l => { l with logRd := v.toNat })
  if h1.le.logFull then h1 else h1.updLe (fun l => { l with paused := false })
/-- LOG_RD_WRITE. -/
def execLogRdWrite (v : BitVec 32) (s : State) : Out := onHw (fun _ h => logRdWrite v h.access) s

/-! ### Steps of the domain (R357 to R360) -/

/-- A BEAT head arms: own.step rises, own.beat takes BEAT, and the ledger is charged (R357). -/
def stepArm (lane : Fin 7) (h0 : Hw) : Hw :=
  let h := h0.event h0.clock
  match h.le.head lane with
  | none => h
  | some (i, x) =>
    if h.le.st = .running ∧ !h.devFrozen ∧ h.isStep x ∧ laneReady h.le x ∧ h.mayArm then
      if (h.le.cap : Int) < x.charge then h.leFail 0x07 i 0
      else if h.admits i x then
        ((h.updDom (fun d =>
          { d with ownStep := d.ownStep + 1, ownBeat := d.beat
                   armed := some { lane := lane.val, cut := i, step := d.ownStep + 1, at_ := h.clock } })).updLe (fun l =>
          { l with bal := l.bal - x.charge })).combiner
      else h
    else h
/-- STEP_ARM. -/
def execStepArm (lane : Fin 7) (s : State) : Out := onHw (fun _ => stepArm lane) s

/-- The first beat whose launch can still be made: its cycle less 96 is not earlier than now (R358). -/
def Hw.slipBeat (h : Hw) : Nat := h.dom.beat + 1 + (h.clock + 96 + 2999 - h.dom.beatAt (h.dom.beat + 1)) / 3000

/-- The step of the armed cut has completed: its launch beat is c.beat + DSTEP_LEAD, or, when that is too late, a later one,
with SLIP set, counted and reported (R358). -/
def stepComplete (h0 : Hw) : Hw :=
  let h := h0.event h0.clock
  match h.dom.armed with
  | none => h
  | some a =>
    if a.launch.isSome ∨ h.dom.cStep < a.step then h
    else
      let b := h.dom.cBeat + fld h.dom.param 24 8
      if h.clock + 96 ≤ h.dom.beatAt b then h.updDom (fun d => { d with armed := some { a with launch := some b } })
      else
        let b' := h.slipBeat
        ((h.updDom (fun d => { d with armed := some { a with launch := some b' }, slip := true, dslips := d.dslips + 1 })).raiseSource
          234).postEvent 0xC6 0 [h.dom.dstep.setWidth 64, BitVec.ofNat 64 b']
/-- STEP_COMPLETE. -/
def execStepComplete (s : State) : Out := onHw (fun _ => stepComplete) s

/-- The armed step has not completed DSTEP_TIMEOUT µs after it was armed: it is reported and stays armed (R360). -/
def stepTimeout (h : Hw) : Hw :=
  match h.dom.armed with
  | none => h
  | some a =>
    if a.launch.isSome ∨ a.reported ∨ h.devFrozen then h
    else
      let h1 := h.event (a.at_ + 3000 * h.dom.stepTimeout.toNat)
      ((h1.updDom (fun d => { d with armed := some { a with reported := true } })).raiseSource 235).postEvent 0xC7 0
        [BitVec.ofNat 64 a.step]
/-- STEP_TIMEOUT_EXPIRY. -/
def execStepTimeoutExpiry (s : State) : Out := onHw (fun _ => stepTimeout) s

/-! ### The engine's registers (R332) -/

/-- Replace the low or the high half of a 48-bit base. -/
def lo48 (x : W48) (v : W32) : W48 := (setLo48 (x.setWidth 64) v).setWidth 48
def hi48 (x : W48) (v : W32) : W48 := (setHi48 (x.setWidth 64) v).setWidth 48

/-- B as a 64-bit word (R323). -/
def Layout.balWord (l : Layout) : W64 := BitVec.ofInt 64 l.bal

/-- Read a register of the engine, with the latching of LBAL_LO and LMETER_LO and the clearing of RUN_DROP (R332). -/
def leRead (off : Nat) (h : Hw) : W32 × Hw :=
  let l := h.le
  if 0x70 ≤ off ∧ off < 0x80 ∧ off % 4 = 0 then (l.splitSh[fin 4 ((off - 0x70) / 4)], h)
  else if 0xA0 ≤ off ∧ off < 0xC0 ∧ off % 4 = 0 then (w32 (numAt l.digestBytes (off - 0xA0) 4), h)
  else
    match off with
    | 0x00 => (w32 (b2n l.logRun * 4 + b2n l.logEn * 2 + b2n l.replay), h)
    | 0x04 => (h.leStat, h)
    | 0x08 => (l.cutBase.setWidth 32, h)
    | 0x0C => ((l.cutBase >>> 32).setWidth 32, h)
    | 0x10 => (w32 l.cutCount, h)
    | 0x14 => (l.runnerSegs.setWidth 32, h)
    | 0x18 => (w32 l.defTimeout, h)
    | 0x1C => (w32 l.laid, h)
    | 0x20 => (w32 l.doneCnt, h)
    | 0x24 => (w32 l.errCut, h)
    | 0x28 => (w32 l.errInfo, h)
    | 0x30 => (l.logBase.setWidth 32, h)
    | 0x34 => ((l.logBase >>> 32).setWidth 32, h)
    | 0x38 => (l.logSize, h)
    | 0x3C => (w32 l.logWr, h)
    | 0x40 => (w32 l.logRd, h)
    | 0x44 => (l.runDrop, h.updLe (fun l => { l with runDrop := 0 }))
    | 0x48 => (l.rplBase.setWidth 32, h)
    | 0x4C => ((l.rplBase >>> 32).setWidth 32, h)
    | 0x50 => (l.budgetSh, h)
    | 0x54 => (l.capLoSh, h)
    | 0x58 => (l.capHiSh, h)
    | 0x60 => (l.balWord.setWidth 32, h.updLe (fun l => { l with balHi := (l.balWord >>> 32).setWidth 32 }))
    | 0x64 => (l.balHi, h)
    | 0x68 => (w32 l.meter, h.updLe (fun l => { l with meterHi := w32 (l.meter / 2 ^ 32) }))
    | 0x6C => (l.meterHi, h)
    | _ => (0, h)

/-- Write a register of the engine (R332). -/
def leWrite (off : Nat) (v : W32) (h : Hw) : Hw :=
  if 0x70 ≤ off ∧ off < 0x80 ∧ off % 4 = 0 then
    h.updLe (fun l => { l with splitSh := l.splitSh.set (fin 4 ((off - 0x70) / 4)) (v &&& 0x80003F3F#32) })
  else
    match off with
    | 0x00 => leCtrlWrite v h
    | 0x08 => h.updLe (fun l => { l with cutBase := lo48 l.cutBase v })
    | 0x0C => h.updLe (fun l => { l with cutBase := hi48 l.cutBase v })
    | 0x10 => h.updLe (fun l => { l with cutCount := fld v 0 21 })
    | 0x14 => h.updLe (fun l => { l with runnerSegs := v.setWidth 16 })
    | 0x18 => h.updLe (fun l => { l with defTimeout := fld v 0 24 })
    | 0x30 => h.updLe (fun l => { l with logBase := lo48 l.logBase v })
    | 0x34 => h.updLe (fun l => { l with logBase := hi48 l.logBase v })
    | 0x38 => h.updLe (fun l => { l with logSize := v })
    | 0x40 => logRdWrite v h
    | 0x48 => h.updLe (fun l => { l with rplBase := lo48 l.rplBase v })
    | 0x4C => h.updLe (fun l => { l with rplBase := hi48 l.rplBase v })
    | 0x50 => h.updLe (fun l => { l with budgetSh := v })
    | 0x54 => h.updLe (fun l => { l with capLoSh := v })
    | 0x58 => h.updLe (fun l => { l with capHiSh := v })
    | 0x5C => lcommit v h
    | 0x80 => gcommit v h
    | _ => h

end Sys2Proof.Machine
end

