-- ==== Sys2Proof/Machine/Resets.lean ====
section
/-!
DEFINITION. Frame, job and core resets, the scrub and the post-mortem hold (R459 to R465), and the domain reset (R362).
-/

namespace Sys2Proof.Machine

/-! ### The page map without a cache, and the runner (R383, R463) -/

/-- Translate through the page map itself, for an access that waits for its walk (R403 to R406, R410). -/
def xlatNow (acc : Acc) (m : Mem) (v : Nat) (h : Hw) : Xlat × Hw :=
  let a := entryAddr (v / 65536)
  if h.poison.contains (a / 64) then (.absent, h) else (checkEntry (BitVec.ofNat 32 (memNat (locExt a) 4 m)) acc v, h)

/-- The pieces of a range, read line by line for the agent at a router, with requests on bulk (R272): none when a word is
uncorrectable. -/
def readLines (src : Nat) : List (Nat × Nat) → Mem → Hw → Option (List Byte) × Hw
  | [], _, h => (some [], h)
  | (loc, n) :: rest, m, h =>
    let r := h.lineRead src 0 loc n m
    match r.1 with
    | none => (none, r.2)
    | some bs => let t := readLines src rest m r.2; (t.1.map (bs ++ ·), t.2)

/-- Read a range of memory in units of one line for the agent at a router, with scratchpads where `any` is true: its bytes, which the
reader has at the command, or an XRES code (R226, R390, R410; log entry 98). -/
def readNow (src : Nat) (any : Bool) (acc : Acc) : Nat → Nat → Nat → Mem → Hw → Except Nat (List Byte) × Hw
  | 0, _, _, _, h => (.ok [], h)
  | fuel + 1, addr, n, m, h =>
    if n = 0 then (.ok [], h)
    else
      let k := min n (64 - addr % 64)
      let p := xpath (xlocate 0 addr k any) k (xlatNow acc m) h
      let got : Except Nat (List Byte) × Hw := match p.1 with
        | .scratch loc => (.ok (memReadN loc k m), p.2)
        | .cache ps => let r := readLines src ps m p.2; (match r.1 with | some bs => .ok bs | none => .error 7, r.2)
        | .fault exc => (.error (pageCode exc), p.2)
        | .walk => (.error (pageCode excPageAbsent), p.2)
      match got.1 with
      | .error e => (.error e, got.2)
      | .ok bs =>
        let r := readNow src any acc fuel (addr + k) (n - k) m got.2
        (r.1.map (bs ++ ·), r.2)

/-- The bytes of the runner of the loaded graph. -/
def Hw.runnerBytes (h : Hw) (m : Mem) : Except Nat (List Byte) × Hw :=
  let n := h.firm.runner.2.1
  readNow ridgeRouter false .code (n / 64 + 2) h.firm.runner.1 n m h

/-- Write the runner into the instruction memories of some cores. -/
def loadRunner (dst : Nat) (bs : List Byte) (cs : List CoreId) (m : Mem) : Mem :=
  cs.foldl (fun (m : Mem) (c : CoreId) => memWriteN (locImem c dst) bs m) m

/-- Set ISEGX to RUNNER_SEGS and start thread 0 at RUNNER_ENTRY (R185, R383). -/
def Hw.startRunner (h : Hw) (cs : List CoreId) : Hw :=
  cs.foldl (fun (h : Hw) (c : CoreId) => h.updCore c (fun k =>
    { (k.updThread 0 (fun th =>
        if th.tstate = .halted then th.restart (BitVec.ofNat 20 h.firm.runner.2.2.2 &&& 0xFFFFC#20) (h.cycle c + 1) else th)) with
      isegx := h.le.runnerSegs })) h

/-! ### What a reset covers -/

/-- A reset covers a core. -/
def Level.covers : Level → Nat → Bool
  | .core c, x => c.val == x
  | _, _ => true

/-- Levels in rising order (R462). -/
def Level.rank : Level → Nat
  | .core _ => 0
  | .job => 1
  | .frame => 2

/-- A frame or job reset is in progress (R384). -/
def Hw.wideReset (h : Hw) : Bool := h.resets.any (fun r => 0 < r.level.rank)

/-- A source of a unit that a reset discards: a transfer request of a thread it covers, and with it every staging request
(R238). -/
def Hw.discards (h : Hw) (l : Level) : Origin → Bool
  | .transfer b e req _ =>
    match l with
    | .core c => (h.bent b).engines[e].any (fun r => r.reqId == req && (match r.owner with
        | .thread w => w.core == c
        | .stage _ => false))
    | _ => true
  | _ => false

/-! ### Phase 1: the stop (R461, R462) -/

/-- A core as the stop leaves it (R63, R161, R182, R186, R238, R265, R354, R460): every register at its reset value, its
channel epochs advanced. What it has sent goes on, with its notices, acknowledgements and write-backs still to come. Under the
post-mortem hold its tile and accumulator contents and its error records stay (R465). -/
def Core.reset (k : Core) (now : Nat) (hold : Bool) : Core :=
  let fresh : Core :=
    { held := true, cyc0 := now, stillFrom := none
      threads := k.threads.map (fun th => ({ late := th.late + th.notices } : Thread))
      tenons := k.tenons.map (fun t => ({ epoch := t.epoch + 1 } : Tenon))
      unitQ := k.unitQ, imemQ := k.imemQ, remoteOut := k.remoteOut, evSerial := k.evSerial, evDone := k.evSerial }
  if hold then
    { fresh with
      groups := k.groups.map (fun g => ({ acc := g.acc } : Group))
      tiles := k.tiles.map (fun t => ({ data := t.data, scale := t.scale } : Tile))
      mcstat := k.mcstat, mcaddr := k.mcaddr, mcMore := k.mcMore, secc := k.secc, seaddr := k.seaddr, seMore := k.seMore
      hrdrop := k.hrdrop, hsdrop := k.hsdrop, hsdropMore := k.hsdropMore, whalt := k.whalt, wstill := k.wstill }
  else fresh

/-- The accepted units of a core that stops are performed; those that have not been accepted are discarded there, without report, when they
are (R461, R462). -/
def stopUnits (c : CoreId) (m : Mem) (h : Hw) : Mem × Hw :=
  let done := (h.core c).unitQ.filter (·.accepted.isSome)
  let h1 := h.updCore c (fun k => { k with unitQ := k.unitQ.filter (·.accepted.isNone) })
  (done.foldl (fun (m : Mem) (u : Unit3) => memWriteN (locScratch c u.off) u.data m) m,
    done.foldl (fun (h : Hw) (u : Unit3) => h.settleUnit c u.origin .ok h.clock) h1)

/-- No event awaits these flits any longer. -/
def Hw.autoFlits (h : Hw) (ns : List Nat) : Hw :=
  { h with flits := h.flits.map (fun f => if ns.contains f.serial then { f with auto := true } else f) }

/-- A request is the write of a unit that a reset discards. -/
def Hw.dropsReq (h : Hw) (l : Level) (r : MemReq) : Bool :=
  match r.owner with
  | .origin o => h.discards l o
  | _ => false

/-- Units and line writes of discarded requests go wherever they wait (R238). -/
def Hw.dropUnits (h : Hw) (l : Level) : Hw :=
  let drop := h.dropsReq l
  let gone := h.cores.flatMap (fun p => (p.2.unitQ.filter (fun u => h.discards l u.origin)).map (·.flit) ++
      (p.2.imemQ.filter (fun u => h.discards l u.origin)).map (·.flit)) ++
    (h.bents.flatMap (fun p => p.2.slices.flatMap (·.2)) ++ h.xmWest.queue ++ h.xmEast.queue).filterMap (fun r =>
      if drop r then some r.flit else none)
  let keep := fun (q : List MemReq) => q.filter (fun r => !drop r)
  let h1 := h.updAllCores (fun k => { k with unitQ := k.unitQ.filter (fun u => !h.discards l u.origin)
                                             imemQ := k.imemQ.filter (fun u => !h.discards l u.origin) })
  let h2 := h1.updAllBents (fun b => { b with slices := b.slices.map (fun q => (q.1, keep q.2))
                                              portHeld := b.portHeld.map (fun q => (q.1, keep q.2)) })
  { h2 with xmWest := { h2.xmWest with queue := keep h2.xmWest.queue }
            xmEast := { h2.xmEast with queue := keep h2.xmEast.queue } }.autoFlits gone

/-- An effect of a later cycle that a reset leaves: it is not one on a core that the reset covers. A wide reset ends the Layout engine's
walks; a frame reset clears sources that would be pending (R460). A freeze that takes hold in the reset's own cycle ends, and one whose
purlin write is still on its way takes hold unless a frame reset ends that write (R472). -/
def Later.stays (l : Level) (covers : CoreId → Bool) (ahead : Bool) : Later → Bool
  | .events w _ | .cause w _ | .xresult w _ _ | .extClear w | .load w _ | .stop w => !covers w.core
  | .halted c _ | .stilled c _ | .dropIn c _ _ | .dropOut c _ | .lockFree c _ | .trel c _ | .windows c _ => !covers c
  | .freeze c | .thaw c => (match c with
    | some c => !covers c
    | none => l.rank == 0) || (ahead && decide (l.rank < 2))
  | .edge _ => l.rank == 0
  | .source _ => l.rank < 2
  | .purlinRead _ | .performed _ => true

/-- Whether a request's thread is on a core. -/
def XReq.ofCore (r : XReq) (c : CoreId) : Bool :=
  match r.owner with
  | .thread w => w.core == c
  | .stage _ => false

/-- What a core reset releases in the core's bent: bent locks, with their notices, lock requests and transfer requests of its threads, and
the arrival that a pending membership commit waits for (R210, R354, R460). -/
def Hw.coreResetBent (h : Hw) (c : CoreId) : Hw :=
  let b := bentOf c
  let mine := ((h.bent b).locks.filter (fun p => p.2.core == c)).map (·.1)
  let h1 := mine.foldl (fun (h : Hw) (l : Nat) => h.blkFree b (fin 256 l)) h
  dbcommitApply (bentId b) (h1.updBent b (fun x =>
    { x with lockReqs := x.lockReqs.filter (fun r => r.who.core != c)
             engines := x.engines.map (fun q => q.filter (fun r => !r.ofCore c)) }))

/-- What a job or frame reset leaves of a bent (R354, R460, R476): its shared memory's requests and errors, its crossbar ports, its egress
agent, its count line, and under the hold its trace. -/
def Bent.jobReset (b : Bent) (hold : Bool) : Bent :=
  { ({} : Bent) with
    xferSerial := b.xferSerial, slices := b.slices, sliceFrom := b.sliceFrom, sliceUsed := b.sliceUsed, replyUsed := b.replyUsed,
    portUsed := b.portUsed, portHeld := b.portHeld, egress := b.egress
    lineTotal := b.lineTotal, lineRestart := b.lineRestart, lineSent := b.lineSent, lineFrom := b.lineFrom, sliceUe := b.sliceUe
    corrected := b.corrected
    trace := if hold then b.trace else [], traceHead := if hold then b.traceHead else 0
    traceDrop := if hold then b.traceDrop else 0, traceQueue := if hold then b.traceQueue else (0, 0) }

/-- The Layout engine after a job or frame reset: every register at its reset value but LBUDGET, LCAP and both GSPLIT sets
(R460). -/
def Layout.jobReset (l : Layout) (fcyc : Nat) : Layout :=
  { ({} : Layout) with
    budgetSh := l.budgetSh, capLoSh := l.capLoSh, capHiSh := l.capHiSh, budget := l.budget, cap := l.cap
    splitSh := l.splitSh, split := l.split, lastTick := fcyc }

/-- The measurement registers that a job reset and a RESET of frame level set to 0 (R455). -/
def Firm.clearJob (f : Firm) : Firm :=
  let z := List.replicate 32 0
  { f with mr := ((f.mr.set 4 z).set 5 z).set 7 z }

/-- Stores on their way to the engine are performed there without effect on it (R294, R460). -/
def Hw.endMsgs (h : Hw) : Hw :=
  let ms := h.endNotices ++ h.stillReports
  (ms.foldl (fun (h : Hw) (x : RidgeMsg) => h.after (max h.clock x.due) (.performed x.who))
    { h with endNotices := [], stillReports := [] }).autoFlits (ms.map (·.flit))

/-- FCYC starts again at 0: the stamps of what is in the mesh and the plates are counted from there (R270, R460). -/
def Hw.restartFcyc (h : Hw) : Hw :=
  let n := h.clock - h.fcyc0
  let q := fun (x : Queued) => { x with stamp := x.stamp - n }
  let recs := fun (r : PlateRecs) => { r with inbox := r.inbox.map q, held := r.held.map q, flying := r.flying.map q }
  { h with
    fcyc0 := h.clock, arbAt := h.arbAt.map (fun p => (p.1, p.2 - n))
    flits := h.flits.map (fun f => { f with stamp := f.stamp - n, left := f.left.map (· - n) })
    recsWest := recs h.recsWest, recsEast := recs h.recsEast
    links := h.links.map (fun l => { l with queues := l.queues.map (·.map q) }) }

/-- The shared effects of a job and of a frame reset beside those on the cores and bents (R384, R460). -/
def Hw.clearJob (h : Hw) (hold frame mrs : Bool) : Hw :=
  let h0 := if frame then h.restartFcyc else h
  let h1 : Hw := { h0 with
    le := h0.le.jobReset h0.fcyc, debug := h0.debug && hold, devFrozen := false,
    dom := { h0.dom with cgen := 0, dgen := 0, snapFrozen := false },
    net := { h0.net with ubt := [], noticeEn := false, noticeSession := 0 },
    firm := { (if mrs then h0.firm.clearJob else h0.firm) with loaded := false },
    pmCommits := h0.pmCommits.map (fun q => { q with who := none }),
    xmWest := { h0.xmWest with pm := {} }, xmEast := { h0.xmEast with pm := {} },
    purlins := if frame then [] else h0.purlins, sill := { h0.sill with since := h0.clock } }
  let h2 := h1.zeroValues.endMsgs
  if frame then { h2 with irqPend := 0, irq := { h2.irq with serv := [], flying := [], control := [] } }
  else iter 48 (fun b (h : Hw) => h.wardenLost b h.clock) h2

/-- The stop of a reset: every core it covers stops and takes its reset values, and what it discards goes. A lower level in
progress is abandoned, and one that starts during a higher one does not run (R461, R462). A freeze of what it covers ends
(R472). -/
def resetStop (op : ResetOp) (mrs : Bool) (m : Mem) (h0 : Hw) : Mem × Hw :=
  let wide := decide (0 < op.level.rank)
  if h0.resets.any (fun r => op.level.rank < r.level.rank) then (m, h0)
  else
    let covers := fun (c : CoreId) => op.level.covers c
    let cs : List CoreId := ((h0.event h0.clock).cores.map (fun p => coreId p.1)).filter covers
    let h := cs.foldl (fun (h : Hw) (c : CoreId) => h.caughtUp c) (h0.event h0.clock)
    let h1 := (h.heldTraffic covers h.clock).dropUnits op.level
    let u := cs.foldl (fun (x : Mem × Hw) (c : CoreId) => stopUnits c x.1 x.2) (m, h1)
    let keep := h.resets.filter (fun r => !wide && r.level != op.level)
    let h2 : Hw := { u.2 with resets := keep ++ [op], postMortem := h.postMortem && !wide
                              later := u.2.later.filter (fun e => e.2.stays op.level covers (decide (h.clock < e.1))) }
    match op.level with
    | .core c =>
      let h3 := (h2.updCore c (fun k => { (k.reset h2.clock false) with runsCut := k.runsCut })).coreResetBent c
      let h4 : Hw := { h3 with
        pmCommits := h3.pmCommits.map (fun q => { q with who := q.who.filter (fun w => w.core != c) }) }
      (u.1, if isWarden c then h4.wardenLost (bentOf c) h4.clock else h4)
    | _ =>
      (u.1, ((h2.updAllCores (fun k => k.reset h2.clock op.hold)).updAllBents (·.jobReset op.hold)).clearJob op.hold
        (op.level == .frame) mrs)

/-! ### Phases 2 and 3: quiesce, clear and scrub (R461 to R465) -/

/-- A memory access that a reset waits for: one of a core it covers. -/
def Level.awaits (l : Level) : ReqOwner → Bool
  | .miss c _ | .load c _ _ | .tile c | .evict c _ => l.covers c
  | .engine _ _ _ _ _ | .copy _ _ _ => decide (0 < l.rank)
  | .origin _ => false

/-- Every access that the stopped agents issued has been performed or answered (R461). -/
def Hw.quiet (h : Hw) (l : Level) : Bool :=
  let free := fun (q : List MemReq) => q.all (fun r => !l.awaits r.owner)
  h.bents.all (fun p => p.2.slices.all (fun s => free s.2) && p.2.portHeld.all (fun s => free s.2)) && free h.xmWest.queue && free h.xmEast.queue

/-- The cycles of a scrub: 256 bytes a cycle in a core, 87.381 µs where shared memory is scrubbed (R461, R462). -/
def Hw.scrubCycles (h : Hw) : Level → Nat
  | .core c => byKind c 8704 4608 4096
  | .job => if h.conf.scrubShared then 262144 else 8704
  | .frame => 262144

/-- A location lies in what a reset scrubs: private stores of the cores it covers, and shared memory (R460). -/
def Hw.scrubs (h : Hw) (l : Level) (a : Nat) : Bool :=
  let inCore := fun (c : Nat) =>
    decide (locScratch c 0 ≤ a ∧ a < locScratch c (spadSize c)) || decide (locImem c 0 ≤ a ∧ a < locImem c (imemSize c))
  let priv := decide (locScratch 0 0 ≤ a ∧ a < locScratch 0 0 + 48 * 0x08000000) || decide (locImem 0 0 ≤ a ∧ a < locImem 2112 0)
  let shared := decide (locShared 0 0 ≤ a ∧ a < locShared 48 0)
  match l with
  | .core c => inCore c
  | .job => priv || (shared && h.conf.scrubShared)
  | .frame => priv || shared

/-- Scrub memory to 0. -/
def scrubMem (l : Level) (m : Mem) (h : Hw) : Mem := m.filter (fun p => !h.scrubs l p.1)

/-- Slice errors go where shared memory is scrubbed. -/
def Hw.scrubSlices (h : Hw) (l : Level) : Hw :=
  if l = .frame ∨ (l = .job ∧ h.conf.scrubShared) then h.updAllBents (fun b => { b with sliceUe := [] }) else h

/-- Once no reset is in progress, the commands that waited for one post their completions (R384); those of a session closed
since are discarded (R376). -/
def Hw.postAfterReset (h : Hw) : Hw :=
  if h.resets.isEmpty then
    let h1 := h.net.afterReset.foldl (fun (h : Hw) (x : Nat × Nat × List W64) =>
      if (sget x.1 h.net.sessions).any (fun s => s.epoch == x.2.1) then h.postRec x.1 x.2.2 else h) h
    { h1 with net := { h1.net with afterReset := [] } }
  else h

/-- The quiesce of the oldest stopped reset has ended: its scrub begins, or with the post-mortem hold it is deferred (R461,
R465). -/
def resetQuiesceEnd (h0 : Hw) : Hw :=
  match h0.resets.find? (fun r => !r.quiesced) with
  | none => h0
  | some r =>
    if h0.quiet r.level then
      let h := h0.event h0.clock
      if r.hold then ({ h with resets := h.resets.erase r, postMortem := true }).postAfterReset
      else
        { h with resets := updFirst (· == r) (fun r => { r with quiesced := true, due := h.clock + h.scrubCycles r.level }) h.resets }
    else h0

/-- The units that have reached a core under reset are discarded without report (R462). -/
def Hw.discardUnits (h : Hw) (c : CoreId) : Hw :=
  let h1 := imemLand c (h.core c).imemQ.length (unitLand c (h.core c).unitQ.length h)
  let here := fun (flit due : Nat) => flit == 0 && decide (due ≤ h.clock)
  let us := (h1.core c).unitQ.filter (fun u => here u.flit u.due)
  let is := (h1.core c).imemQ.filter (fun u => here u.flit u.due)
  let h2 := h1.updCore c (fun k => { k with unitQ := k.unitQ.filter (fun u => !here u.flit u.due)
                                            imemQ := k.imemQ.filter (fun u => !here u.flit u.due) })
  let h3 := us.foldl (fun (h : Hw) (u : Unit3) => h.settleUnit c u.origin .housing h.clock) h2
  is.foldl (fun (h : Hw) (u : ImemUnit) => h.settleUnit c u.origin .housing h.clock) h3

/-- Every listed core of a level discards what has reached it. -/
def Hw.discardAll (h : Hw) (l : Level) : Hw :=
  let cs : List CoreId := (h.cores.map (fun p => coreId p.1)).filter (fun (c : CoreId) => l.covers c.val)
  cs.foldl (fun (h : Hw) (c : CoreId) => h.discardUnits c) h

/-- A core is no longer held; its CYCLE starts at 0, and its stillness count with it (R182, R261, R464). -/
def Core.unhold (k : Core) (now : Nat) : Core :=
  let k1 := { k with held := false, cyc0 := now }
  { k1 with stillFrom := if k1.isStill 0 then some 0 else none }

/-- The scrub of a reset has ended. A core of a running cut has the runner loaded again and its thread 0 restarted
(R463). Under a post-mortem hold the core stays held (R465). -/
def scrubEnd (m : Mem) (h : Hw) : Mem × Hw :=
  match inOrder (fun x y => decide (x.due ≤ y.due)) (h.resets.filter (·.quiesced)) with
  | [] => (m, h)
  | r :: _ =>
    let h1 := (h.event r.due).discardAll r.level
    let m1 := scrubMem r.level m h1
    let h2 := ({ h1 with resets := h1.resets.erase r } : Hw).scrubSlices r.level
    match r.level with
    | .core c =>
      let h3 := if h2.postMortem then h2 else h2.updCore c (·.unhold h2.clock)
      if (h3.core c).runsCut.isSome then
        match h3.runnerBytes m1 with
        | (.ok bs, h4) => (loadRunner h4.firm.runner.2.2.1 bs [c] m1, (h4.startRunner [c]).postAfterReset)
        | (.error _, h4) => (m1, h4.postAfterReset)
      else (m1, h3.postAfterReset)
    | _ => (m1, (h2.updAllCores (·.unhold h2.clock)).postAfterReset)

/-- The post-mortem hold ends: the deferred scrub is performed, with the records it kept (R460, R465). -/
def endHold (m : Mem) (h : Hw) : Mem × Hw :=
  if h.postMortem then
    let h1 := (h.event (h.clock + h.scrubCycles .job)).discardAll .job
    let clear := fun (k : Core) => (k.reset h1.clock false).unhold h1.clock
    (scrubMem .job m h1,
      ({ (h1.updAllCores clear).updAllBents (fun b =>
          { b with trace := [], traceHead := 0, traceDrop := 0, traceQueue := (0, 0) }) with
        postMortem := false, debug := false } : Hw).scrubSlices .job)
  else (m, h)

/-- A reset that the firmware starts: the post-mortem hold ends first, and before a job or frame reset it closes the job record
(R444, R465). -/
def firmReset (op : ResetOp) (m : Mem) (h : Hw) : Mem × Hw :=
  if op.level.rank = 0 then resetStop op true m h
  else
    let e := endHold m h
    resetStop op true e.1 (e.2.poleDo (·.closeJob (e.2.le.digestBytes.take 16)))

/-! ### The domain reset (R362) -/

/-- Send a DRESET block on the UP links that a condition selects. -/
def Hw.dresetOut (h : Hw) (g : BitVec 16) (p : Fin 8 → Bool) : Hw :=
  h.syncOut (fun l x => x.isUp && p l) 4 (fitBytes 52 (toBytes 2 g.toNat))

/-- The job reset of a domain reset: the combine set is then the UP links (R362). -/
def dresetJob (m : Mem) (h : Hw) : Mem × Hw :=
  let r := resetStop { level := .job } true m h
  (r.1, if h.resets.any (fun x => x.level == .frame) then r.2 else r.2.startValues)

/-- A write of DRESET.START: the next generation, a DRESET block on every UP link, and a job reset (R362). -/
def dresetStart (v : W32) (m : Mem) (h : Hw) : Mem × Hw :=
  if v.getLsbD 0 then
    let g := h.dom.dresetGen + 1
    dresetJob m ((h.updDom (fun d => { d with dresetGen := g })).dresetOut g (fun _ => true))
  else (m, h)

/-- A DRESET block: the successor of DRESET_GEN is adopted, raises DRESET_RX, goes out on every other UP link and starts a job
reset; any other is ignored (R338, R362, R412). -/
def dreset (l : Fin 8) (b : Block) (m : Mem) (h : Hw) : Mem × Hw :=
  if !(h.link l).isUp || !isKind b 4 then (m, h)
  else
    match h.sequenced l b with
    | (true, _, h1) =>
      let h2 := h1.syncTaken l
      let g := BitVec.ofNat 16 (numAt b.bytes 8 2)
      if g = h2.dom.dresetGen + 1 then
        dresetJob m (((h2.updDom (fun d => { d with dresetGen := g })).raiseSource 237).dresetOut g (fun x => x != l))
      else (m, h2)
    | (false, _, h1) => (m, h1)

/-! ### The commands -/

/-- DRESET (R362). -/
def execDreset (l : Fin 8) (blk : Block) (s : State) : Out := onMem (fun m h => dreset l blk m (h.event h.clock)) s
/-- DRESET_START (R362). -/
def execDresetStart (v : BitVec 32) (s : State) : Out := onMem (fun m h => dresetStart v m h.access) s
/-- FRAME_RESET (R459). -/
def execFrameReset (s : State) : Out := onMem (fun m h => firmReset { level := .frame } m h) s
/-- JOB_RESET (R459). -/
def execJobReset (s : State) : Out := onMem (fun m h => firmReset { level := .job } m h) s
/-- CORE_RESET (R459). -/
def execCoreReset (c : CoreId) (s : State) : Out := onMem (fun m h => firmReset { level := .core c } m h) s
/-- RESET_QUIESCE_END (R461). -/
def execResetQuiesceEnd (s : State) : Out := onHw (fun _ h => resetQuiesceEnd h) s
/-- SCRUB_END (R461). -/
def execScrubEnd (s : State) : Out := onMem (fun m h => scrubEnd m h) s

end Sys2Proof.Machine
end

