-- ==== Sys2Proof/Machine/Power.lean ====
section
/-!
DEFINITION. Cold reset and boot (R402, R452 to R455, R459, R460), the power states, the Sill and its wake watch (R419 to
R426), and the board's signals (R480 to R488).
-/

namespace Sys2Proof.Machine

/-! ### Cold reset (R459, R460) -/

/-- The firmware serves: the module is powered beyond Sill-only, not held in cold reset, and its ROM has not halted. -/
def Hw.awake (h : Hw) : Bool :=
  (h.sill.power == .idle || h.sill.power == .idleGated) && !h.board.held && !h.firm.romHalted

/-- What every reset of a bent keeps: its count line (R436). -/
def Bent.cold (b : Bent) : Bent :=
  { ({} : Bent) with lineTotal := b.lineTotal, lineRestart := b.lineRestart, lineSent := b.lineSent, lineFrom := b.lineFrom }

/-- The machine as a cold reset clears it: what it keeps is the Story Pole, SILL_TIME, the session epochs, the board's
signals, and the model's own counts and records of output (R374, R460). -/
def Hw.cold (h : Hw) : Hw :=
  { ({} : Hw) with
    clock := h.clock, fcyc0 := h.clock, freeCtr := h.freeCtr, coreDef := { cyc0 := h.clock }
    bents := h.bents.map (fun p => (p.1, p.2.cold)), bentDef := h.bentDef.cold
    pole := h.pole, tmpEpochs := h.tmpEpochs, ubtEpochs := h.ubtEpochs, conf := h.conf
    sill := { time0 := h.sill.time0, stoppedAt := h.sill.stoppedAt, railFault := h.sill.railFault, since := h.clock }
    board := h.board, tap := h.tap, net := { sent := h.net.sent, answers := h.net.answers }
    blocksOut := h.blocksOut, ctlRead := h.ctlRead, incAt := h.incAt, acted := h.acted, dom := { beatClk := h.clock } }

/-- The locations that a cold reset does not write: boot flash and Ridge SRAM (R454, R460). -/
def coldMem (m : Mem) : Mem :=
  m.filter (fun p => decide (locFlash 0 ≤ p.1) || decide (locRidge 0 ≤ p.1 ∧ p.1 < locExt 0))

/-! ### Boot (R452 to R455) -/

/-- Bytes of boot flash. -/
def flash (off n : Nat) (m : Mem) : List Byte := memReadN (locFlash off) n m

/-- The settings of a configuration record (R452; log entry 5). -/
def Conf.of (r : List Byte) : Conf :=
  let get := fun (k d : Nat) => (Config.setting k r).getD d
  { version := numAt r 4 2, serial := numAt r 0x10 8, minSvn := numAt r 8 2
    idleGateUs := get 0 10000, sillAfterS := get 1 60, scrubShared := get 2 1 != 0, tmpPort := get 3 50710, ubtPort := get 4 50711
    macBase := get 5 0, memRate := BitVec.ofNat 16 (get 6 0)
    pmodes := (List.range 8).map (fun p => (w32 (get (8 + p) (6 * 2 ^ 25 + 3 * 2 ^ 22)) &&& 0xFFE00FFF#32).toNat)
    globalV6 := [(Config.setting 16 r).map (BitVec.ofNat 128), (Config.setting 17 r).map (BitVec.ofNat 128)]
    v4 := [(Config.setting 18 r).map w32, (Config.setting 19 r).map w32] }

/-- The flash offset of an image slot (R452). -/
def slotBase (slot : Nat) : Nat := if slot = 0 then 0x00100000 else 0x00900000

/-- An image slot passes the checks of boot step 4: its header and body (R453, R454). An image of another major version than 1 is none that the
manual describes, and counts as failing (R1; DESIGN CHOICE, log entry 100). -/
def bootImage (slot minSvn : Nat) (m : Mem) : Option (List Byte × List Byte) :=
  let hd := flash (slotBase slot) 1024 m
  let n := numAt hd 16 4
  if numAt hd 0 4 = 0x54484C4E ∧ n % 64 = 0 ∧ n ≤ 0x400000 ∧ sha256 (bytesAt hd 32 388) = Config.hfw ∧ minSvn ≤ numAt hd 12 2 ∧ numAt hd 8 2 = 1 then
    let body := flash (slotBase slot + 1024) n m
    if Config.pssVerify (bytesAt hd 32 384) (bytesAt hd 0 512 ++ body) (bytesAt hd 512 384) then some (hd, body) else none
  else none

/-- The firmware starts: it trains external memory and reports a plate with a failed sub-channel, which of them fail being free
values, reads the Story Pole's status and sends it an update where flash holds a later image, extends MR3, commits the
configuration record's port modes and loads the Sill (R370, R402, R425, R444, R449, R455, R467). -/
def firmwareStart (r : List Byte) (m : Mem) (h : Hw) : Hw :=
  let train := fun (p : Plate) (h : Hw) =>
    let (x, h1) := h.free
    let bad := BitVec.ofNat 8 x
    let h2 := h1.updXm p (fun y => { y with ready := bad == 0, failed := bad })
    if bad = 0 then h2
    else (h2.raiseSource (218 + plateNum p)).postEvent 0xCB 0
      [BitVec.ofNat 64 (4 * 2 ^ 56 + plateNum p * 2 ^ 48 + 0xFFF * 2 ^ 36 + (49 + plateNum p) * 2 ^ 30 + 1), bad.setWidth 64]
  let h1 := train .east (train .west h)
  let h2 := h1.poleDo (fun p => p.say (.status p.statusBytes))
  let hd := flash 0x01100000 512 m
  let image := flash 0x01100000 (512 + numAt hd 8 4 + 384) m
  let h3 := if numAt hd 0 4 = 0x5350494D ∧ numAt hd 8 4 ≤ 0x100000 ∧ h2.pole.fwver < numAt hd 4 4 then h2.poleUpdate image else h2
  let h4 := h3.extendMr 3 (toBytes 4 h3.pole.fwver ++ toBytes 4 h3.pole.audit ++ fitBytes 24 Config.poleKeyHash)
  let ports : Vector Port 8 := Vector.ofFn (fun (p : Fin 8) =>
    ({ shadow := w32 (h4.conf.pmodes.getD p.val 0), active := w32 (h4.conf.pmodes.getD p.val 0) } : Port))
  let get := fun (k d : Nat) => (Config.setting k r).getD d
  { h4 with
    net := { h4.net with ports := ports }
    sill := { h4.sill with cmp := BitVec.ofNat 64 (get 20 (2 ^ 64 - 1)), wakePorts := BitVec.ofNat 4 (get 21 1)
                           tcap := w32 (get 22 0x155CC0), since := h4.clock } }

/-- The boot ROM's steps and the start of the firmware (R454). -/
def boot (m : Mem) (h : Hw) : Mem × Hw :=
  let r := flash 0 0xFE80 m
  if !Config.recordOk r (flash 0xFE80 384 m) then
    (m, { h with firm := { h.firm with romHalted := true, bootCause := 1, identity := false } })
  else
    let conf := Conf.of r
    let first := numAt r 6 1 % 2
    let identity := Config.identityOk (bytesAt r 0x40 2048) (bytesAt r 0x840 1984)
    let cause : BitVec 4 := if identity then 0 else 2
    let found := match bootImage first conf.minSvn m with
      | some x => some (first, x)
      | none => (bootImage (1 - first) conf.minSvn m).map (fun x => (1 - first, x))
    match found with
    | none =>
      (m, { h with conf := conf, firm := { h.firm with romHalted := true, bootCause := 3, identity := identity } })
    | some (slot, hd, body) =>
      let h1 : Hw := { h with conf := conf, firm := { h.firm with
        slot := slot, imageVersion := BitVec.ofNat 48 (numAt hd 4 6), svn := numAt hd 12 2, identity := identity, bootCause := cause } }
      let h2 := ((h1.extendMr 0 (bytesAt hd 0 512 ++ body)).extendMr 1 r).extendMr 2
        (Config.measure 2 [slot, numAt hd 4 6, numAt hd 12 2, conf.minSvn])
      (memWriteN (locRidge 0) body m, firmwareStart r m h2)

/-- A cold reset: everything it covers is cleared, external memory is initialised, and the module boots. A rail fault that held
the module is then reported (R402, R454, R460, R486). -/
def coldReset (m : Mem) (h : Hw) : Mem × Hw :=
  let c : Hw := { h.cold with board := { h.board with held := false } }
  let b := boot (coldMem m) c
  (b.1, if h.sill.railHeld then b.2.raiseSource 248 else b.2)

/-- The module is held in cold reset (R419, R485). -/
def holdCold (m : Mem) (h : Hw) : Mem × Hw :=
  (coldMem m, { h.cold with sill := { h.cold.sill with railHeld := h.sill.railHeld }, board := { h.board with held := true } })

/-- A held cold reset proceeds once RESET_N is high, PWRGOOD asserted and the reference present (R419, R485). -/
def coldProceed (delay : Nat) (m : Mem) (h : Hw) : Mem × Hw :=
  if h.board.held ∧ h.board.resetN ∧ h.board.pwrgood ∧ !h.board.refLost ∧ h.tap.ir.all (· != 0x00) then coldReset m (h.event (h.clock + delay)) else (m, h)

/-! ### Power states (R421 to R423) -/

/-- Change the Sill. -/
def Hw.updSill (h : Hw) (f : Sill → Sill) : Hw := { h with sill := f h.sill }

/-- Every core takes the effects of a core reset without scrub; instruction memory loses its contents (R421). -/
def gateCores (m : Mem) (h0 : Hw) : Mem × Hw :=
  let cs : List CoreId := h0.cores.map (fun p => coreId p.1)
  let h := (cs.foldl (fun (h : Hw) (c : CoreId) => h.caughtUp c) h0).heldTraffic (fun _ => true) h0.clock
  let u := cs.foldl (fun (x : Mem × Hw) (c : CoreId) => stopUnits c x.1 x.2) (m, h.dropUnits .job)
  let h1 := u.2.updAllCores (fun k => { k.reset h.clock false with held := false })
  let h2 := h1.updAllBents (fun b =>
    { b with locks := [], lockReqs := [], engines := b.engines.map (fun q => q.filter (fun r => !cs.any r.ofCore))
             dbActive := if b.dbPending then b.dbShadow else b.dbActive, dbPending := false })
  let h3 : Hw := { h2 with later := h2.later.filter (fun e => e.2.stays (.core 0) (fun _ => true) (decide (h.clock < e.1))) }
  (u.1.filter (fun p => !decide (locImem 0 0 ≤ p.1 ∧ p.1 < locImem 2112 0)), iter 48 (fun b (h : Hw) => h.wardenLost b h.clock) h3)

/-- Idle-gated is entered after IDLE_GATE_US of Idle-clocked with no graph loaded (R421). -/
def idleGateEntry (m : Mem) (h : Hw) : Mem × Hw :=
  if h.awake ∧ h.sill.power = .idle ∧ h.le.quiet ∧ !h.firm.loaded ∧ h.resets.isEmpty ∧ !h.postMortem then
    let g := gateCores m (h.event (h.sill.since + 3000 * h.conf.idleGateUs))
    (g.1, g.2.updSill (fun x => { x with power := .idleGated, since := g.2.clock }))
  else (m, h)

/-- A gated module is ungated, in 40 µs; CYCLE has stood at 0 while the cores' clock was stopped (R182, R419, R422). -/
def Hw.ungate (h : Hw) : Hw :=
  if h.sill.power = .idleGated then
    let h1 := h.event (h.clock + 120000)
    (h1.updAllCores (·.unhold h1.clock)).updSill (fun x => { x with power := .idle, since := h1.clock })
  else h

/-- The locations that keep their contents in Sill-only: external memory, Ridge SRAM and flash. -/
def sillMem (m : Mem) : Mem := m.filter (fun p => decide (locRidge 0 ≤ p.1 ∧ p.1 < locImem 0 0) || decide (locFlash 0 ≤ p.1))

/-- Power leaves every block that Sill-only does not run: cores and bents, links, the ports not kept listening, every session,
job and domain membership (R421, R424, R426). -/
def powerSave (m : Mem) (h0 : Hw) : Mem × Hw :=
  let h : Hw := { h0.event h0.clock with resets := [], postMortem := false, tuples := [], credits := [], noticesIn := [], plateCredits := []
                                         acksIn := [], wardenAcks := [], endNotices := [], stillReports := [], flits := [], later := []
                                         recsWest := {}, recsEast := {} }
  let h2 := (h.updAllCores (fun _ => { cyc0 := h.clock })).updAllBents (fun b =>
    { b.cold with xferSerial := b.xferSerial, corrected := b.corrected })
  let h3 := ((h2.clearJob false true false).linesDark).updDom (fun d => { d with joined := false, beatLock := false, locked := 0 })
  let h4 := (List.finRange 8).foldl (fun (h : Hw) (l : Fin 8) => h.updLink l Link.dark) h3
  let keep := fun (p : Nat) => decide (4 ≤ p) && h.sill.wakePorts.getLsbD (p - 4)
  let h5 := h4.updNet (fun n => { n with
    sessions := [], opened := [], afterReset := [], events := [], eventsLost := 0
    ports := Vector.ofFn (fun (p : Fin 8) => if keep p then n.ports[p] else { n.ports[p] with state := .down, held := [], paused := 0 }) })
  let h6 := h5.updSill (fun x => { x with power := .sillOnly, since := h5.clock })
  (sillMem m, { h6 with xmWest := { h6.xmWest with queue := [] }, xmEast := { h6.xmEast with queue := [] } })

/-- Sill-only is entered after SILL_AFTER_S in Idle-gated with no session open and the module ALONE (R421). -/
def sillOnlyEntry (m : Mem) (h : Hw) : Mem × Hw :=
  if h.awake ∧ h.sill.power = .idleGated ∧ h.net.sessions.isEmpty ∧ h.net.ubt.isEmpty ∧ !h.dom.joined then
    powerSave m (h.event (h.sill.since + 3000000000 * h.conf.sillAfterS))
  else (m, h)

/-- The exit from Sill-only: the PLLs lock, a frame reset is performed with FCYC 0, the module is Idle-gated, links whose EN is 1 train
again (R337), and the firmware raises WAKE, and THERMAL_CRIT after a trip (R419, R423, R424, R426). -/
def wakeExit (bit : Nat) (m : Mem) (h : Hw) : Mem × Hw :=
  let r := resetStop { level := .frame } false m (h.event (h.clock + 45000))
  let h1 : Hw := { r.2 with resets := [] }
  let h2 := (h1.updAllCores (fun k => { k with held := false, cyc0 := h1.clock })).updSill (fun x =>
    { x with power := .idleGated, since := h1.clock, wakeStat := x.wakeStat ||| (1#5 <<< bit), tripped := false })
  let h3 := (List.finRange 8).foldl (fun (h : Hw) (l : Fin 8) => if (h.link l).en then h.setLinkState l .train else h) h2
  (r.1, (if h.sill.tripped then h3.raiseSource 246 else h3).raiseSource 250)

/-- SILL_TIME: counts of the 25 MHz reference (R420). -/
def Hw.sillTime (h : Hw) : Nat := ((h.sill.stoppedAt.getD h.clock) - h.sill.time0) / 120 % 2 ^ 64

/-- The hottest sensor and its number, the lowest of those that tie (R426). -/
def Sill.tempMax (x : Sill) : Nat × Nat :=
  (x.temps.zipIdx).foldl (fun (best : Nat × Nat) (p : Nat × Nat) => if best.1 < p.1 then p else best) (0, 0)

/-- A datagram that wakes: a TMP header of TYPE OPEN or DISCOVER to the TMP port, at an address of the port (R424). -/
def wakeDatagram (dg : Dgram) : Bool :=
  let w := wordAt dg.payload 0
  dg.dst != .otherGroup && decide (32 ≤ dg.payload.length) && field w 40 24 == 0x7A4D01 && (field w 32 8 == 1 || field w 32 8 == 7)

/-- The condition of a wake source, and its bit of WAKE_EN (R424). -/
def Hw.sillWakes (h : Hw) : WakeSource → Bool × Nat
  | .netb p dg => (h.net.isUp p && decide (4 ≤ p.val) && h.sill.wakePorts.getLsbD (p.val - 4) && wakeDatagram dg, 0)
  | .scarf l => ((h.link l).en, 1)
  | .thermal => (decide (h.sill.twarn ≤ h.sill.tempMax.1), 2)
  | .storyPole => (h.pole.alarms != 0, 3)
  | .timer => (decide (h.sill.cmp.toNat ≤ h.sillTime), 4)

/-- A wake source in Sill-only starts the exit, when its bit of WAKE_EN is 1 and no rail fault holds the module (R424,
R486). -/
def wake (src : WakeSource) (m : Mem) (h : Hw) : Mem × Hw :=
  let x := h.sillWakes src
  if h.sill.power = .sillOnly ∧ !h.board.held ∧ !h.sill.railHeld ∧ x.1 ∧ h.sill.wakeEn.getLsbD x.2 then wakeExit x.2 m h else (m, h)

/-- SILL_TIME reaches SILL_CMP: SILL_TIMER is raised, and Sill-only ends when TIMER is enabled (R412, R424). -/
def sillTimer (m : Mem) (h : Hw) : Mem × Hw :=
  if h.sill.power = .off ∨ h.board.held ∨ h.sill.stoppedAt.isSome then (m, h)
  else
    let h1 := h.event (h.sill.time0 + 120 * h.sill.cmp.toNat)
    if h1.sill.power = .sillOnly then wake .timer m h1 else (m, h1.raiseSource 244)

/-! ### Temperature (R426) -/

/-- A sample of the 51 junction sensors: hot bents, the warning with its hysteresis, and the trip (R412, R426, R486). -/
def temperatureSample (temps : List Nat) (m : Mem) (h : Hw) : Mem × Hw :=
  if h.sill.power = .off ∨ h.board.held then (m, h)
  else
    let old := h.sill.temps
    let h1 := (h.event h.clock).updSill (fun x => { x with temps := temps.take 51 })
    let top := h1.sill.tempMax.1
    let warn := h.sill.twarn
    let h2 := iter 48 (fun b (h : Hw) =>
      if h.awake ∧ old.getD b 0 < warn ∧ warn ≤ temps.getD b 0 then h.raiseSource (144 + b) else h) h1
    let warm := if warn ≤ top then true else if top + 5 ≤ warn then false else h.sill.warm
    let h3 := h2.updSill (fun x => { x with warm := warm })
    let h4 := if warm && !h.sill.warm && h.awake then h3.raiseSource 245 else h3
    if 115 ≤ top ∧ !h.sill.railHeld ∧ h.sill.power ≠ .sillOnly then
      let s := powerSave m h4
      (s.1, s.2.updSill (fun x => { x with tripped := true }))
    else (m, h4)

/-- THERMAL_ALERT is asserted (R426). -/
def Hw.thermalAlert (h : Hw) : Bool := h.sill.warm || h.sill.tripped

/-! ### The reference clock (R419) -/

/-- The reference stops for more than 2 µs: the Sill holds the module in cold reset and its counters stop. -/
def referenceClockLoss (m : Mem) (h : Hw) : Mem × Hw :=
  if h.board.refLost ∨ h.sill.power = .off then (m, h)
  else
    holdCold m ({ h with board := { h.board with refLost := true } }.updSill (fun x => { x with stoppedAt := some h.clock }))

/-- The reference returns: the counters go on and a cold reset is performed. -/
def referenceClockReturn (m : Mem) (h : Hw) : Mem × Hw :=
  if h.board.refLost then
    let gone := h.clock - h.sill.stoppedAt.getD h.clock
    coldProceed 0 m ({ h with board := { h.board with refLost := false } }.updSill (fun x =>
      { x with stoppedAt := none, time0 := x.time0 + gone }))
  else (m, h)

/-! ### The 48 V input (R480, R484, R487, R488) -/

/-- The input is lost: PWRGOOD falls and every block but the Story Pole goes dark; memory keeps only boot flash (R487). -/
def powerDown (b : Board) (m : Mem) (h : Hw) : Mem × Hw :=
  let dark := h.linesDark
  (m.filter (fun p => decide (locFlash 0 ≤ p.1)),
    { dark.cold with tmpEpochs := [], ubtEpochs := [], sill := { power := .off }, board := { b with held := true, pwrgood := false }
                     conf := {}, tap := {} })

/-- Power-up: the Story Pole and the Sill start, the rails come up in 50 ms with PWRGOOD, and the module boots once RESET_N is
high (R420, R484, R485). -/
def powerUp (m : Mem) (h : Hw) : Mem × Hw :=
  if h.sill.power = .off ∧ h.board.inserted ∧ !h.board.disconnected then
    let h1 := storyPoleUp h
    let h2 : Hw := { h1 with sill := { time0 := h1.clock, since := h1.clock },
                             board := { h1.board with inputGood := true, pwrgood := true, held := true } }
    coldProceed 3000000 m (h2.event (h2.clock + 150000000))
  else (m, h)

/-- A rail fault: PWRGOOD falls and the module is held without the power of the blocks that Sill-only does not run (R486). -/
def railFault (branch : Fin 16) (m : Mem) (h : Hw) : Mem × Hw :=
  if h.sill.power = .off ∨ h.board.held then (m, h)
  else
    let s := powerSave m h
    (s.1, { s.2 with board := { s.2.board with pwrgood := false } }.updSill (fun x =>
      { x with railFault := some branch, railHeld := true, tripped := false }))

/-- RESET_N is driven low for a time in ns: from 1,280 a cold reset starts, below 640 none does, and between them either
(R485). A cold reset through RESET_N ends a rail fault (R486). -/
def resetNAssert (ns : Nat) (m : Mem) (h : Hw) : Mem × Hw :=
  let (x, h1) := if 640 ≤ ns ∧ ns < 1280 then h.free else (if 1280 ≤ ns then 0 else 1, h)
  if x % 2 = 0 then
    if h.sill.power = .off then (m, { h1 with board := { h1.board with resetN := false } })
    else
      let c := holdCold m { h1 with board := { h1.board with resetN := false, pwrgood := h1.board.inputGood } }
      (c.1, c.2)
  else (m, h1)

/-- RESET_N is released: with PWRGOOD the cold reset proceeds 1 ms later (R485). -/
def resetNRelease (m : Mem) (h : Hw) : Mem × Hw :=
  coldProceed 3000000 m { h with board := { h.board with resetN := true } }

/-! ### The test connector (R477, R478) -/

/-- The index of a die in the chain (R477). -/
def tapIx : TapDie → Fin 3
  | .ridge => 0
  | .west => 1
  | .east => 2

/-- Put an instruction in force at a die. -/
def Hw.tapSet (h : Hw) (d : TapDie) (ir : BitVec 6) (f : Tap → Tap) : Hw :=
  { h with tap := f { h.tap with ir := h.tap.ir.set (tapIx d) ir } }

/-- The TAP operates while the Ridge is powered (R484). -/
def Hw.tapOn (h : Hw) : Bool := h.sill.power != .off

/-- A data scan through the one-bit register. -/
def Tap.shift1 (t : Tap) (d : TapDie) (tdi : Bool) : Tap :=
  { t with out := b2n t.bypass[tapIx d], bypass := t.bypass.set (tapIx d) tdi }

/-- The IDCODE of a die (R477). -/
def idcode : TapDie → Nat
  | .ridge => 0x1D480A6B
  | .west => 0x1D481A6B
  | .east => 0x1D482A6B

/-- FLASH_PROG and FLASH_READ act on the Ridge alone, while the reset input is asserted (R477, R478). -/
def Hw.flashOn (h : Hw) (d : TapDie) : Bool := d == .ridge && !h.board.resetN

/-- BYPASS (R477). -/
def execBypass (die : TapDie) (tdi : Bool) (s : State) : Out :=
  onHw (fun _ h => if h.tapOn then h.tapSet die 0x3F (fun t => t.shift1 die tdi) else h) s
/-- IDCODE (R477). -/
def execIdcode (die : TapDie) (s : State) : Out :=
  onHw (fun _ h => if h.tapOn then h.tapSet die 0x01 (fun t => { t with out := idcode die }) else h) s
/-- SAMPLE/PRELOAD: the cells shift out their old values, and the pins are sampled into them (R477). -/
def execSamplePreload (die : TapDie) (pins : Nat) (s : State) : Out :=
  onHw (fun _ h =>
    if h.tapOn then h.tapSet die 0x02 (fun t => { t with out := t.cells[tapIx die], cells := t.cells.set (tapIx die) pins }) else h) s
/-- EXTEST: entering suspends the module's function, which only the cold reset of leaving resumes, so it is held from the entry
on; entering puts the cells on the pins (R477, R478). -/
def execExtest (die : TapDie) (enter : Bool) (s : State) : Out :=
  onMem (fun m h =>
    if !h.tapOn then (m, h)
    else if enter then
      let h1 := h.tapSet die 0x00 id
      if h1.board.held then (m, h1) else holdCold m h1
    else if h.tap.ir[tapIx die] = 0x00 then coldProceed 0 m (h.tapSet die 0x3F id)
    else (m, h)) s
/-- BOOT_STAT: the boot cause, with bit 31 when the ROM has halted; BYPASS at a plate (R477). -/
def execBootStat (die : TapDie) (s : State) : Out :=
  onHw (fun _ h =>
    if !h.tapOn then h
    else if die = .ridge then
      h.tapSet die 0x20 (fun t => { t with out := b2n h.firm.romHalted * 2 ^ 31 + h.firm.bootCause.toNat })
    else h.tapSet die 0x3F id) s
/-- FLASH_PROG: a 64-byte page write or a 64 KiB erase while the reset input is asserted, else a one-bit register (R477,
R478). An access beyond the flash faults (R452). -/
def execFlashProg (die : TapDie) (off : Nat) (page : Option (List Byte)) (s : State) : Out :=
  if !s.hw.tapOn then .next s
  else if !s.hw.flashOn die then onHw (fun _ h => h.tapSet die 0x21 (fun t => t.shift1 die false)) s
  else if 0x04000000 ≤ off then .fault .noSuchFlash
  else
    onMem (fun m h =>
      (match page with
        | some bs => memWriteN (locFlash (off / 64 * 64)) (fitBytes 64 bs) m
        | none => memForget (locFlash (off / 65536 * 65536)) 65536 m,
        h.tapSet die 0x21 id)) s
/-- FLASH_READ, while the reset input is asserted, else a one-bit register (R477, R478). -/
def execFlashRead (die : TapDie) (off : Nat) (len : Nat) (s : State) : Out :=
  if !s.hw.tapOn then .next s
  else if !s.hw.flashOn die then onHw (fun _ h => h.tapSet die 0x22 (fun t => t.shift1 die false)) s
  else if 0x04000000 < off + len then .fault .noSuchFlash
  else onHw (fun m h => h.tapSet die 0x22 (fun t => { t with outBytes := flash off len m })) s

/-! ### The commands -/

/-- COLD_RESET (R459). -/
def execColdReset (s : State) : Out := onMem (fun m h => if (h.sill.power = .idle ∨ h.sill.power = .idleGated) ∧ !h.board.held then coldReset m h else (m, h)) s
/-- IDLE_GATE_ENTRY (R421). -/
def execIdleGateEntry (s : State) : Out := onMem (fun m h => idleGateEntry m h) s
/-- SILL_ONLY_ENTRY (R421). -/
def execSillOnlyEntry (s : State) : Out := onMem (fun m h => sillOnlyEntry m h) s
/-- WAKE (R424). -/
def execWake (src : WakeSource) (s : State) : Out := onMem (fun m h => wake src m h) s
/-- SILL_TIMER (R424). -/
def execSillTimer (s : State) : Out := onMem (fun m h => sillTimer m h) s
/-- TEMPERATURE_SAMPLE (R426). -/
def execTemperatureSample (temps : List Nat) (s : State) : Out := onMem (fun m h => temperatureSample temps m h) s
/-- REFERENCE_CLOCK_LOSS (R419). -/
def execReferenceClockLoss (s : State) : Out := onMem (fun m h => referenceClockLoss m h) s
/-- REFERENCE_CLOCK_RETURN (R419). -/
def execReferenceClockReturn (s : State) : Out := onMem (fun m h => referenceClockReturn m h) s
/-- INPUT_LOW: source 247 is raised and function continues (R480). -/
def execInputLow (s : State) : Out := onEvent (fun h => if h.sill.power = .off then h else h.raiseSource 247) s
/-- INPUT_UNDERVOLTAGE (R487). -/
def execInputUndervoltage (s : State) : Out :=
  onMem (fun m h => powerDown { h.board with inputGood := false, disconnected := false } m h) s
/-- INPUT_OVERVOLTAGE: the module disconnects, with the effects of power-down (R480). -/
def execInputOvervoltage (s : State) : Out :=
  onMem (fun m h => powerDown { h.board with inputGood := false, disconnected := true } m h) s
/-- OVERVOLTAGE_RELEASE: a full power-up follows (R480). -/
def execOvervoltageRelease (s : State) : Out :=
  onMem (fun m h => if h.board.disconnected then powerUp m { h with board := { h.board with disconnected := false } } else (m, h)) s
/-- POWER_UP (R484). -/
def execPowerUp (s : State) : Out := onMem (fun m h => powerUp m h) s
/-- RAIL_FAULT (R486). -/
def execRailFault (branch : Fin 16) (s : State) : Out := onMem (fun m h => railFault branch m h) s
/-- RESET_N_ASSERT (R485). -/
def execResetNAssert (ns : Nat) (s : State) : Out := onMem (fun m h => resetNAssert ns m h) s
/-- RESET_N_RELEASE (R485). -/
def execResetNRelease (s : State) : Out := onMem (fun m h => resetNRelease m h) s
/-- MODULE_INSERTION: at an insertion the board holds RESET_N low; a removal has the effects of power-down (R488). -/
def execModuleInsertion (inserted : Bool) (s : State) : Out :=
  onMem (fun m h =>
    if inserted then
      if h.board.inserted then (m, h)
      else powerUp m { h with board := { h.board with inserted := true, resetN := false } }
    else powerDown { h.board with inserted := false, inputGood := false } m h) s

end Sys2Proof.Machine
end

