-- ==== Sys2Proof/Machine/Registers.lean ====
section
/-!
DEFINITION. The register blocks of the Ridge and the plates as the control cores reach them (R13 to R18, R332, R365, R369, R411,
R417, R425).
-/

namespace Sys2Proof.Machine

/-- PWR_STATE (R421, R425). -/
def Hw.pwrState (h : Hw) : Nat := if h.sill.power = .idleGated then 2 else if h.le.quiet then 3 else 4

/-- A read of the Sill block: SILL_TIME_LO latches the high half (R425). -/
def sillRead (off : Nat) (h : Hw) : W32 × Hw :=
  let x := h.sill
  match off with
  | 0x000 => (w32 h.pwrState, h)
  | 0x004 => (w32 h.sillTime, h.updSill (fun x => { x with timeHi := w32 (h.sillTime / 2 ^ 32) }))
  | 0x008 => (x.timeHi, h)
  | 0x00C => (x.cmp.setWidth 32, h)
  | 0x010 => ((x.cmp >>> 32).setWidth 32, h)
  | 0x014 => (x.wakeEn.setWidth 32, h)
  | 0x018 => (x.wakeStat.setWidth 32, h)
  | 0x01C => (x.wakePorts.setWidth 32, h)
  | 0x020 => (w32 (x.tempMax.1 % 256 + x.tempMax.2 * 256), h)
  | 0x024 => (w32 x.twarn, h)
  | 0x028 => (0x73, h)
  | 0x02C => (x.tcap, h)
  | _ => (0, h)

/-- A write to the Sill block (R425). -/
def sillWrite (off : Nat) (v : W32) (h : Hw) : Hw :=
  match off with
  | 0x00C => h.updSill (fun x => { x with cmp := BitVec.ofNat 64 (x.cmp.toNat / 2 ^ 32 * 2 ^ 32 + v.toNat) })
  | 0x010 => h.updSill (fun x => { x with cmp := BitVec.ofNat 64 (v.toNat * 2 ^ 32 + x.cmp.toNat % 2 ^ 32) })
  | 0x014 => h.updSill (fun x => { x with wakeEn := v.setWidth 5 })
  | 0x018 => h.updSill (fun x => { x with wakeStat := x.wakeStat &&& ~~~(v.setWidth 5) })
  | 0x01C => h.updSill (fun x => { x with wakePorts := v.setWidth 4 })
  | 0x024 => h.updSill (fun x => { x with twarn := max 70 (min 110 (fld v 0 8)) })
  | 0x02C => h.updSill (fun x => { x with tcap := v })
  | _ => h

/-- A read of a plate's memory block: XCE and XUE are cleared by it (R16, R411). -/
def plateRegRead (p : Plate) (off : Nat) (h : Hw) : W32 × Hw :=
  let x := h.xm p
  match off with
  | 0x000 => (h.conf.memRate.setWidth 32, h)
  | 0x004 => (w32 (b2n x.ready * 2 ^ 31 + x.failed.toNat), h)
  | 0x008 => (x.xce, h.updXm p (fun x => { x with xce := 0 }))
  | 0x00C => (x.xue, h.updXm p (fun x => { x with xue := 0 }))
  | 0x010 => (w32 x.xueaddr, h)
  | 0x014 => (w32 (x.xueaddr / 2 ^ 32), h)
  | _ => (0, h)

/-- A read of the network block, with PDROP cleared by it (R16, R369). -/
def netReadClear (off : Nat) (h : Hw) : W32 × Hw :=
  (netRead off h,
    if off % 4 = 0 ∧ 0x60 ≤ off ∧ off < 0x80 then h.updNet (fun n => n.updPort ((off - 0x60) / 4) (fun q => { q with drops := 0 }))
    else h)

/-- A read of a register of a block: its value, and what the read clears or latches (R16). -/
def regRead (blk : RegBlock) (off : Nat) (h : Hw) : W32 × Hw :=
  match blk with
  | .layout => leRead off h
  | .domain => domRead off h
  | .net => netReadClear off h
  | .irq => (irqRead off h, h)
  | .sill => sillRead off h
  | .plate p => plateRegRead p off h

/-- A write to a register of a block, under its access code (R13, R17). -/
def regWrite (blk : RegBlock) (off : Nat) (v : W32) (m : Mem) (h : Hw) : Mem × Hw :=
  match blk with
  | .layout => (m, leWrite off v h)
  | .domain => if off = 0x034 then dresetStart v m h else (m, domWrite off v h)
  | .net => (m, netWrite off v h)
  | .irq => (m, irqWrite off v h)
  | .sill => (m, sillWrite off v h)
  | .plate _ => (m, h)

/-- COUNTER_READ_CLEAR: a control core's read of a register, before the events of its cycle (R16; log entry 81). -/
def execCounterReadClear (blk : RegBlock) (off : BitVec 16) (s : State) : Out :=
  onHw (fun _ h =>
    if h.awake then
      let r := regRead blk off.toNat h.access
      { r.2 with ctlRead := r.1 }
    else h) s
/-- REGISTER_WRITE: a control core's write of a register, before the events of its cycle (R13, R15; log entry 81). -/
def execRegisterWrite (blk : RegBlock) (off : BitVec 16) (v : BitVec 32) (s : State) : Out :=
  onMem (fun m h => if h.awake then regWrite blk off.toNat v m h.access else (m, h)) s

end Sys2Proof.Machine
end

