-- ==== Sys2Proof/Machine/Sessions.lean ====
section
/-!
DEFINITION. TMP datagrams and sessions (R372 to R379): discovery, opening and closing, sequence numbers and rings.
-/

namespace Sys2Proof.Machine

/-! ### Headers and pins (R373, R375) -/

/-- The fields of a TMP header. -/
structure Tmp where
  type : Nat
  session : Nat
  epoch : Nat
  dseq : Nat
  dack : Nat
  start : Nat
  len : Nat
  rd : Nat
  deriving DecidableEq, Repr

/-- The header of a datagram: none where MAGIC, VERSION or TYPE is another, or the 32 bytes are not there (R373). -/
def Tmp.of (bs : List Byte) : Option Tmp :=
  let w := wordAt bs
  let t := field (w 0) 32 8
  if 32 ≤ bs.length ∧ field (w 0) 40 24 = 0x7A4D01 ∧ 1 ≤ t ∧ t ≤ 9 then
    some { type := t, session := field (w 0) 26 6, epoch := field (w 0) 10 16, dseq := w 1 / 2 ^ 32, dack := w 1 % 2 ^ 32
           start := w 2 / 2 ^ 32, len := w 2 % 2 ^ 32, rd := w 3 / 2 ^ 32 }
  else none

/-- The datagram was sent to an address of the port or of its network. -/
def toUnicast : DstAddr → Bool
  | .linkLocal | .globalV6 | .v4 => true
  | .allNodes | .otherGroup => false

/-- A TMP datagram of a type reaches the firmware, over the mesh on the control channel (R26, R272; log entry 98): the port is UP and the header well formed, else it is dropped and counted; one
of another type is not this command's. A datagram of any type but DISCOVER at a group address is dropped (R372, R373, R412). -/
def tmpIn (type : Nat) (dg : Dgram) (f : Tmp → Hw → Hw) (h : Hw) : Hw :=
  if !h.awake || !h.net.isUp dg.port then h
  else
    match Tmp.of dg.payload with
    | none => h.pdrop dg.port
    | some x =>
      if x.type ≠ type then h
      else if !toUnicast dg.dst && !(type == 7 && dg.dst == .allNodes) then h.pdrop dg.port
      else f x ((h.postAuto (plateRouter (portPlate dg.port)) ridgeRouter 2 h.clock).raiseSource (208 + dg.port.val))

/-- A datagram of a session that is open with its epoch, on its network or pinned port; one of an unknown session or a stale
epoch is answered with REJECT (R375, R377). -/
def tmpSession (dg : Dgram) (x : Tmp) (f : Session → Hw → Hw) (h : Hw) : Hw :=
  match sget x.session h.net.sessions with
  | some s =>
    if s.epoch ≠ x.epoch then
      h.tmpNet (fun n => n.emit (some dg.port) dg.src dg.srcPort.toNat (tmpHeader 9 x.session x.epoch 0 0 0 0 0))
    else if (s.local_ && s.port != dg.port.val) || portNet s.port != portNet dg.port.val then h.pdrop dg.port
    else f s h
  | none => h.tmpNet (fun n => n.emit (some dg.port) dg.src dg.srcPort.toNat (tmpHeader 9 x.session x.epoch 0 0 0 0 0))

/-- Replace a session. -/
def Hw.setSession (h : Hw) (n : Nat) (s : Session) : Hw := h.updNet (fun x => { x with sessions := sset n s x.sessions })

/-- Post what waits on a session as its completion ring has room. -/
def Hw.pump (h : Hw) (n : Nat) : Hw :=
  h.tmpNet (fun x => x.pump n h.clock ((sget n x.sessions).map (fun s => s.waiting.length + 1) |>.getD 0))

/-! ### The command ring (R378, R379) -/

/-- Drop bytes from the front of a command ring; those that have not arrived are dropped as they come. -/
def Session.advance (s : Session) (n : Nat) : Session :=
  { s with cmdRd := add32 s.cmdRd n, cmds := s.cmds.drop n, skip := s.skip + (n - s.cmds.length) }

/-- The RTYPE of the completion of a record (R381). -/
def completionType (rtype : Nat) : Nat := if rtype < 0x80 then 0x80 + rtype else 0x80

/-- Word 1 of a completion (R379). -/
def statusWord (status detail : Nat) : W64 := BitVec.ofNat 64 (detail % 2 ^ 32 * 2 ^ 32 + status)

/-- A session waits for the end of a reset that one of its commands started (R384). -/
def Net.busy (n : Net) (k : Nat) : Bool := n.afterReset.any (fun x => x.1 == k)

/-- The head record of a command ring that has arrived whole and is a command. -/
def Session.head (s : Session) : Option (List Nat) :=
  let w := wordAt s.cmds 0
  let n := field w 32 16
  if 32 ≤ s.cmds.length ∧ 1 ≤ field w 56 8 ∧ field w 56 8 ≤ 12 ∧ 1 ≤ n ∧ 32 * n ≤ s.cmds.length then
    some ((List.range (4 * n)).map (wordAt s.cmds))
  else none

/-- Pads are passed over, and records that no command takes are answered: BAD_OPCODE for an undefined RTYPE, BAD_RECORD for a
LEN of 0, above 128 or past the end of the ring, after which the device resumes at the ring's next pass (R379, R381). -/
def Hw.scanRing (h : Hw) (k : Nat) : Nat → Hw
  | 0 => h
  | fuel + 1 =>
    match sget k h.net.sessions with
    | none => h
    | some s =>
      if s.cmds.length < 32 ∨ !s.waiting.isEmpty ∨ h.net.busy k then h
      else
        let w := wordAt s.cmds 0
        let (rtype, n, tag) := (field w 56 8, field w 32 16, w % 2 ^ 32)
        let e := 2 ^ s.cmdLog - s.cmdRd % 2 ^ s.cmdLog
        let bad := decide (n = 0 ∨ e < 32 * n ∨ 128 < n)
        let status := if rtype ≤ 12 then 1 else 2
        let reply := record (completionType rtype) (if rtype = 0 then 0 else tag) (statusWord status 0) []
        if bad then ((h.setSession k (s.advance e)).postRec k reply).scanRing k fuel
        else if s.cmds.length < 32 * n then h
        else if rtype = 0 then (h.setSession k (s.advance (32 * n))).scanRing k fuel
        else if rtype ≤ 12 then h
        else ((h.setSession k (s.advance (32 * n))).postRec k reply).scanRing k fuel

/-- Scan every session's ring, unless a frame or job reset is in progress (R384). -/
def Hw.scanRings (h : Hw) : Hw :=
  if h.wideReset then h else iter 64 (fun k (h : Hw) => h.scanRing k (((sget k h.net.sessions).map (fun s => s.cmds.length / 32 + 1)).getD 0)) h

/-- The session whose command is served next: the first with one ready after the session last served (R380). -/
def Net.turn (n : Net) : Option Nat :=
  ((List.range 64).map (fun k => (n.served + 1 + k) % 64)).find? (fun k =>
    match sget k n.sessions with
    | some s => s.waiting.isEmpty && !n.busy k && s.head.isSome
    | none => false)

/-! ### Closing (R376, R377) -/

/-- Close a session: its commands that have not started and its records are discarded, but events pass to the control session
that follows (R376, R387). -/
def Hw.closeSession (h : Hw) (k : Nat) : Hw :=
  match sget k h.net.sessions with
  | none => h
  | some s =>
    let h1 := h.updNet (fun n => { n with sessions := sdel k n.sessions })
    let kept := s.waiting.filter (fun ws => decide (0xC1 ≤ (ws.headD 0).toNat / 2 ^ 56) && (ws.headD 0).toNat / 2 ^ 56 != 0xCC)
    let h2 := h1.updNet (fun n =>
      if s.control then
        let evs := kept ++ n.events
        { n with events := evs.take 63, eventsLost := n.eventsLost + (evs.length - 63) }
      else n)
    h2.updSill (fun x => { x with since := if h2.net.sessions.isEmpty then h2.clock else x.since })

/-! ### The datagrams -/

/-- DISCOVER: answered at most once in a millisecond of each port, from the address at which it arrived, or the link-local one (R372). -/
def discover (dg : Dgram) (x : Tmp) (h : Hw) : Hw :=
  let other := [x.session, x.epoch, x.dseq, x.dack, x.start, x.len, x.rd]
  if other.any (· != 0) || wordAt dg.payload 0 % 2 ^ 10 != 0 || wordAt dg.payload 3 != 0 || dg.payload.length != 32 then
    h.pdrop dg.port
  else if (h.net.port dg.port).discovered.any (fun t => decide (h.clock < t + 3000000)) then h
  else
    let v := h.firm.imageVersion.toNat / 2 ^ 16
    let body := toBytes 4 0x48000100 ++ toBytes 4 v ++ toBytes 8 h.conf.serial ++
      toBytes 4 (dg.port.val + portNet dg.port * 2 ^ 8 + h.net.sessions.length * 2 ^ 16 + b2n h.net.control.isSome * 2 ^ 24)
    h.tmpNet (fun n => (n.updPort dg.port (fun q => { q with discovered := some h.clock })).emitClass false (some dg.port) dg.src
      dg.srcPort.toNat (tmpHeader 8 0 0 0 0 0 0 0 ++ fitBytes 32 body) (some (if dg.dst = .allNodes then .linkLocal else dg.dst)))

/-- The fields of an OPEN body that are out of range (R374). -/
def openBad (w : Nat) (rest : List Byte) : Bool :=
  let idle := field w 16 16
  let cpl := field w 11 5
  let cmd := field w 6 5
  (idle != 0 && (decide (idle < 100) || decide (60000 < idle))) || decide (cpl < 13) || decide (24 < cpl) ||
    decide (cmd < 13) || decide (16 < cmd) || field w 2 4 != 0 || rest.any (· != 0)

/-- The lowest free session number (R374). -/
def Net.freeSession (n : Net) : Option Nat := (List.range 64).find? (fun k => (sget k n.sessions).isNone)

/-- The events held for a control session are posted to the one that has opened (R387). -/
def Hw.deliverEvents (h : Hw) (k : Nat) : Hw :=
  let lost := h.net.eventsLost
  let evs := h.net.events ++ (if lost = 0 then [] else [record 0xCD 0 0 [BitVec.ofNat 64 lost]])
  evs.foldl (fun (h : Hw) (ws : List W64) => h.postRec k ws) (h.updNet (fun n => { n with events := [], eventsLost := 0 }))

/-- OPEN: decided in the order of R374 and answered with OPEN_ACK; a repeat within 1 s is answered as before. -/
def openSession (dg : Dgram) (h : Hw) : Hw :=
  let body := dg.payload.drop 32
  let w := wordAt body 0
  let openId := w / 2 ^ 32
  let (control, takeover) := (bitAt w 0, bitAt w 1)
  if dg.payload.length < 64 then h.pdrop dg.port
  else
    match h.net.opened.find? (fun o => o.addr == dg.src && o.openId == openId && decide (h.clock ≤ o.at_ + 3000000000)) with
    | some o => h.tmpNet (fun n => n.emit (some dg.port) dg.src dg.srcPort.toNat o.reply)
    | none =>
      let answer := fun (session epoch status : Nat) (h : Hw) =>
        let reply := tmpHeader 2 session epoch 0 0 0 0 0 ++ fitBytes 32 (wordsBytes [openId * 2 ^ 32 + status])
        h.tmpNet (fun n =>
          { (n.emit (some dg.port) dg.src dg.srcPort.toNat reply) with
            opened := n.opened ++ [{ addr := dg.src, openId := openId, at_ := h.clock, reply := reply }] })
      if openBad w (bytesAt body 8 24) then answer 0 0 5 h
      else if control && !takeover && h.net.control.isSome then answer 0 0 4 h
      else
        let h1 := match h.net.control with
          | some k => if control && takeover then h.closeSession k else h
          | none => h
        match h1.net.freeSession with
        | none => answer 0 0 7 h1
        | some k =>
          let epoch := sgetD k 0 h1.tmpEpochs % 65535 + 1
          let s : Session :=
            { epoch := epoch, control := control, openId := openId, addr := dg.src, udp := dg.srcPort.toNat
              local_ := dg.dst == .linkLocal, port := dg.port.val
              idleMs := if field w 16 16 = 0 then 2000 else field w 16 16, cmdLog := field w 6 5, cplLog := field w 11 5
              heard := h1.clock }
          let h2 := ({ h1 with tmpEpochs := sset k epoch h1.tmpEpochs }.setSession k s)
          let h3 := answer k epoch 0 h2
          if control then h3.deliverEvents k else h3

/-- The DACK and RD fields of a datagram are taken where they do not move backwards (R377). -/
def Session.take (s : Session) (x : Tmp) (now : Nat) : Session :=
  let a := sub32 x.dack s.dackIn
  let r := sub32 x.rd s.cplRd
  let s1 := if 0 < a ∧ a < 2 ^ 31 ∧ a ≤ sub32 s.dseqOut s.dackIn then
      { s with dackIn := x.dack, unacked := s.unacked.filter (fun u => decide (a < sub32 u.1 s.dackIn)), ackedAt := now }
    else s
  if r < 2 ^ 31 ∧ r ≤ sub32 s.cplWr s.cplRd then { s1 with cplRd := x.rd } else s1

/-- Send an ACK of a session (R377). -/
def Net.tmpAck (n : Net) (k : Nat) : Net :=
  match sget k n.sessions with
  | some s => n.emit (n.portOf s) s.addr s.udp (tmpHeader 6 k s.epoch 0 s.dseqIn 0 0 s.cmdRd)
  | none => n

/-- CMD: its records enter the command ring when it is the next in sequence and fits, and an ACK answers it (R377). -/
def cmdDatagram (dg : Dgram) (x : Tmp) (s : Session) (h : Hw) : Hw :=
  let s1 := { (s.take x h.clock) with heard := h.clock }
  let bytes := dg.payload.drop 32
  let ok := x.dseq = add32 s.dseqIn 1 ∧ x.start = s.cmdWr ∧ x.len % 32 = 0 ∧ x.len ≤ 8192 ∧ bytes.length = x.len ∧
    s.cmds.length + x.len ≤ 2 ^ s.cmdLog + s.skip
  let s2 := if ok then
      { s1 with port := dg.port.val, dseqIn := x.dseq, cmdWr := add32 s.cmdWr x.len
                cmds := s.cmds ++ bytes.drop s.skip, skip := s.skip - x.len }
    else s1
  let h1 := (h.setSession x.session s2).pump x.session
  (h1.tmpNet (fun n => n.tmpAck x.session)).scanRings

/-- ACK: its DACK and RD are taken (R377). -/
def ackDatagram (dg : Dgram) (x : Tmp) (s : Session) (h : Hw) : Hw :=
  ((h.setSession x.session { (s.take x h.clock) with heard := h.clock, port := dg.port.val }).pump x.session).scanRings

/-- A session is closed when no valid datagram has arrived on it for IDLE_MS (R377). -/
def sessionIdleExpiry (k : Nat) (h : Hw) : Hw :=
  match sget k h.net.sessions with
  | some s => if h.awake then (h.event (s.heard + 3000000 * s.idleMs)).closeSession k else h
  | none => h

/-- When DACK has not advanced for 100 µs every CPL datagram after the last acknowledged one is sent again, with the present
DACK and RD (R377). -/
def cplRetransmit (k : Nat) (h : Hw) : Hw :=
  match sget k h.net.sessions with
  | some s =>
    if h.awake ∧ !s.unacked.isEmpty then
      let h1 := h.event (s.ackedAt + 300000)
      (s.unacked.foldl (fun (h : Hw) (u : Nat × Nat × List Byte) =>
        h.tmpNet (fun n => n.emit (n.portOf s) s.addr s.udp (s.cpl k u.1 u.2.1 u.2.2))) h1).setSession k { s with ackedAt := h1.clock }
    else h
  | none => h

/-! ### The commands -/

/-- OPEN (R374). -/
def execOpen_ (dg : Dgram) (s : State) : Out := onEvent (fun h => tmpIn 1 dg (fun _ h => openSession dg h) h) s
/-- CLOSE (R377). -/
def execClose (dg : Dgram) (s : State) : Out :=
  onEvent (fun h => tmpIn 3 dg (fun x h => tmpSession dg x (fun _ h => h.closeSession x.session) h) h) s
/-- CMD (R377). -/
def execCmd (dg : Dgram) (s : State) : Out :=
  onEvent (fun h => tmpIn 4 dg (fun x h => tmpSession dg x (fun ss h => cmdDatagram dg x ss h) h) h) s
/-- TMP_ACK (R377). -/
def execTmpAck (dg : Dgram) (s : State) : Out :=
  onEvent (fun h => tmpIn 6 dg (fun x h => tmpSession dg x (fun ss h => ackDatagram dg x ss h) h) h) s
/-- DISCOVER (R372). -/
def execDiscover (dg : Dgram) (s : State) : Out := onEvent (fun h => tmpIn 7 dg (fun x h => discover dg x h) h) s
/-- SESSION_IDLE_EXPIRY (R377). -/
def execSessionIdleExpiry (n : Fin 64) (s : State) : Out := onHw (fun _ h => sessionIdleExpiry n h) s
/-- CPL_RETRANSMIT_EXPIRY (R377). -/
def execCplRetransmitExpiry (n : Fin 64) (s : State) : Out := onHw (fun _ h => cplRetransmit n h) s

end Sys2Proof.Machine
end

