-- ==== Sys2Proof/Machine/Commands.lean ====
section
/-!
DEFINITION. The firmware's commands (R380 to R386, R388, R422, R445, R457, R458, R465, R470 to R474).
-/

namespace Sys2Proof.Machine

/-! ### The command loop (R380, R381) -/

/-- A completion: STATUS, DETAIL and the words from w2. -/
structure Reply where
  status : Nat
  detail : Nat := 0
  words : List W64 := []

/-- How a command leaves the firmware: completed now, after the reset it started, without a completion, or still waiting to
start. -/
inductive Done where
  | now (r : Reply)
  | afterReset (r : Reply)
  | silent
  | waits

/-- A row of the *Commands* table: RTYPE, units, the sessions that may send it, the bits its words may hold, and whether it
needs the cores (R381, R422). -/
structure CmdSpec where
  rtype : Nat
  units : Nat
  control : List Nat → Bool := fun _ => true
  mask : List Nat → Nat → Nat
  cores : List Nat → Bool := fun _ => false

/-- The status codes (R382). -/
def stOk : Reply := { status := 0 }
def stParam (w : Nat) : Reply := { status := 5, detail := w }
def stState (x : W32) : Reply := { status := 6, detail := x.toNat }
def stRegion (w : Nat) : Reply := { status := 8, detail := w }
def stFailed (code : Nat) : Reply := { status := 9, detail := code }
def stDebugOff : Reply := { status := 10 }

/-- The faults of a record, the first in the order of R381. -/
def CmdSpec.fault (x : CmdSpec) (control : Bool) (ws : List Nat) : Option Reply :=
  if ws.length < 4 * x.units then some { status := 1 }
  else if x.control ws && !control then some { status := 3 }
  else
    ((List.range ws.length).find? (fun i =>
      i != 0 && (ws.getD i 0 &&& (if i < 4 * x.units then x.mask ws i else 0)) != ws.getD i 0)).map stParam

/-- Post the completion of a record. -/
def Hw.complete (h : Hw) (n : Nat) (ws : List Nat) (r : Reply) : Hw :=
  (h.postRec n (record (completionType (ws.headD 0 / 2 ^ 56)) (ws.headD 0 % 2 ^ 32) (statusWord r.status r.detail) r.words)).scanRings

/-- The record at the head of the ring whose turn it is, if it is this session's (R380). -/
def Hw.command (h : Hw) (n : Nat) : Option (Session × List Nat) :=
  if h.net.turn = some n then (sget n h.net.sessions).bind (fun s => s.head.map (fun ws => (s, ws))) else none

/-- The firmware takes the next command of a session, when it is this one's turn and of this kind, and executes it, as an access of its
cycle (R380, R381, R384, R422; log entry 81). -/
def cmdRow (x : CmdSpec) (pick : List Nat → Bool) (n : Nat) (body : List Nat → Session → Mem → Hw → Done × Mem × Hw)
    (m : Mem) (h : Hw) : Mem × Hw :=
  if !h.awake || h.wideReset || !h.net.afterReset.isEmpty then (m, h)
  else
    let h0 := h.scanRings
    match h0.command n with
    | none => (m, h0)
    | some (s, ws) =>
      if ws.headD 0 / 2 ^ 56 != x.rtype || !pick ws then (m, h0)
      else
        let h1 := (h0.access.setSession n (s.advance (8 * ws.length))).updNet (fun y => { y with served := n })
        match x.fault s.control ws with
        | some r => (m, h1.complete n ws r)
        | none =>
          match body ws s m (if x.cores ws then h1.ungate else h1) with
          | (.now r, m1, h2) => (m1, h2.complete n ws r)
          | (.afterReset r, m1, h2) =>
            let reply := record (completionType x.rtype) (ws.headD 0 % 2 ^ 32) (statusWord r.status r.detail) r.words
            (m1, (h2.updNet (fun y => { y with afterReset := y.afterReset ++ [(n, s.epoch, reply)] })).postAfterReset)
          | (.silent, m1, h2) => (m1, h2)
          | (.waits, m1, h2) => (m1, (h2.setSession n s).updNet (fun y => { y with served := h0.net.served }))

/-- Word i of a record. -/
def cw (ws : List Nat) (i : Nat) : Nat := ws.getD i 0

/-! ### IDENTIFY (R381, R382) -/

/-- The Thilan version of IDENTIFY word 4. -/
def Hw.versionWord (h : Hw) : Nat := h.firm.slot * 2 ^ 48 + h.firm.imageVersion.toNat

/-- The words of the *Identify result* table from w2. -/
def Hw.identify (h : Hw) : List Nat :=
  let pst := sumN ((List.range 8).map (fun p => fld (h.net.pstat p) 28 4 * 2 ^ (4 * p)))
  let ctl := match h.net.control with
    | some k => k
    | none => 0xFF
  [0xC4A00102 * 2 ^ 32 + 0x48000100, h.conf.serial, h.versionWord, h.conf.version * 2 ^ 16 + 1, h.sillTime, h.pole.time,
    h.pole.cycle, h.firm.wall.toNat, h.firm.wallAt.toNat, h.dom.dstat.toNat * 2 ^ 32 + h.leStat.toNat, pst,
    h.net.ubt.length * 2 ^ 16 + ctl * 2 ^ 8 + h.net.sessions.length, h.pole.fwver, h.pole.audit]

/-- The words of a completion. -/
def words64 (xs : List Nat) : List W64 := xs.map (BitVec.ofNat 64)

/-- IDENTIFY, which may store WALL with the present Sill count (R382). -/
def identify (n : Nat) : Mem → Hw → Mem × Hw :=
  cmdRow { rtype := 0x01, units := 1, control := fun _ => false, mask := fun _ i => if i = 1 then 1 else if i = 2 then 2 ^ 64 - 1 else 0 }
    (fun _ => true) n (fun ws _ m h =>
      let h1 : Hw := if bitAt (cw ws 1) 0 then
          { h with firm := { h.firm with wall := BitVec.ofNat 64 (cw ws 2), wallAt := BitVec.ofNat 64 h.sillTime } }
        else h
      (.now { stOk with words := words64 h1.identify }, m, h1))

/-! ### ATTEST (R457, R458) -/

/-- The registers that a mask selects. -/
def quoted (mask : Nat) : List (Fin 16) := (List.finRange 16).filter (fun k => bitAt mask k.val)

/-- The quote body (R457). -/
def Hw.quote (h : Hw) (mask : Nat) (nonce : List Nat) : List Byte :=
  wordsBytes [0x5154 * 2 ^ 48 + 0x01 * 2 ^ 40 + mask, h.conf.serial, h.sillTime, h.versionWord, h.conf.version * 2 ^ 16 + h.firm.svn,
      h.pole.fwver * 2 ^ 32 + h.pole.audit, h.pole.cycle % 2 ^ 32, h.pole.time] ++
    wordsBytes nonce ++ fitBytes 32 Config.poleKeyHash ++ (quoted mask).flatMap (fun k => fitBytes 32 h.firm.mr[k])

/-- The 64-bit words of bytes, the last filled with zeros. -/
def byteWords (bs : List Byte) : List W64 := (List.range ((bs.length + 7) / 8)).map (fun i => BitVec.ofNat 64 (wordAt bs i))

/-- The length of a DER object from its header. -/
def derLength (bs : List Byte) : Nat :=
  let b := numAt bs 1 1
  if b < 0x80 then 2 + b
  else iter (b - 0x80) (fun k acc => acc * 256 + numAt bs (2 + k) 1) 0 + 2 + (b - 0x80)

/-- The record shape of ATTEST. -/
def attestSpec : CmdSpec :=
  { rtype := 0x02, units := 2, control := fun _ => false
    mask := fun _ i => if i = 1 then 2 ^ 16 - 1 else if i ≤ 5 then 2 ^ 64 - 1 else 0 }

/-- ATTEST with a mask: a signed quote, or FAILED with DETAIL 3 without an identity (R457, R458). -/
def attest (n : Nat) : Mem → Hw → Mem × Hw :=
  cmdRow attestSpec (fun ws => cw ws 1 % 2 ^ 16 != 0) n (fun ws _ m h =>
    if h.firm.identity then
      let body := h.quote (cw ws 1) [cw ws 2, cw ws 3, cw ws 4, cw ws 5]
      let (salt, h1) := h.free
      (.now { stOk with words := byteWords (body ++ fitBytes 384 (Config.quoteSign body salt)) }, m, h1)
    else (.now (stFailed 3), m, h))

/-- ATTEST with MREG_MASK 0: a certificate (R458). -/
def attestCert (n : Nat) : Mem → Hw → Mem × Hw :=
  cmdRow attestSpec (fun ws => cw ws 1 % 2 ^ 16 == 0) n (fun ws _ m h =>
    match cw ws 2 % 256 with
    | 0 =>
      let cert := flash 0x1000 2048 m
      (.now { stOk with words := byteWords (cert.take (derLength cert)) }, m, h)
    | 1 => (.now { stOk with words := byteWords poleCertBytes }, m, h.poleDo (·.say (.cert poleCertBytes)))
    | _ => (.now (stParam 2), m, h))

/-! ### RESET and ABORT (R384, R465) -/

/-- RESET LEVEL 4: the PMODE shadows of the ports in the mask are written and committed, unless no port of the session's
network would be left on (R384). -/
def resetPorts (ws : List Nat) (s : Session) (h : Hw) : Done × Hw :=
  let mask := cw ws 2
  let mode := fun (p : Nat) => if bitAt mask p then field (cw ws (3 + p)) 30 2 else fld (h.net.port p).shadow 30 2
  if (List.range 4).all (fun k => mode (4 * portNet s.port + k) == 0) then (.now (stParam 2), h)
  else
    let h1 := iter 8 (fun p (h : Hw) => if bitAt mask p then netWrite (4 * p) (w32 (cw ws (3 + p))) h else h) h
    (.now stOk, pcommit 1 h1)

/-- RESET at the level named (R384). -/
def resetCmd (n : Nat) : Mem → Hw → Mem × Hw :=
  cmdRow
    { rtype := 0x03, units := 4
      mask := fun ws i => if i = 1 then 15 else if i = 2 then (if cw ws 1 = 3 then 0xFFF else if cw ws 1 = 4 then 0xFF else 0)
        else if i ≤ 10 ∧ cw ws 1 = 4 then 2 ^ 32 - 1 else 0
      cores := fun ws => cw ws 1 == 3 }
    (fun _ => true) n (fun ws s m h =>
      match cw ws 1 with
      | 0 =>
        let r := coldReset m h
        (.silent, r.1, r.2)
      | 1 =>
        let r := firmReset { level := .frame } m h
        (.afterReset stOk, r.1, r.2)
      | 2 =>
        let r := firmReset { level := .job } m h
        (.afterReset stOk, r.1, r.2)
      | 3 =>
        if 2112 ≤ cw ws 2 then (.now (stParam 2), m, h)
        else
          let r := firmReset { level := .core (coreId (cw ws 2)) } m h
          (.afterReset stOk, r.1, r.2)
      | 4 =>
        let r := resetPorts ws s h
        (r.1, m, r.2)
      | _ => (.now (stParam 1), m, h))

/-- ABORT: the engine's counts, then a job reset, with the post-mortem hold when HOLD is 1 (R384, R465). -/
def abort (n : Nat) : Mem → Hw → Mem × Hw :=
  cmdRow { rtype := 0x07, units := 1, mask := fun _ i => if i = 1 then 1 else 0 } (fun _ => true) n (fun ws _ m h =>
    let hold := bitAt (cw ws 1) 0
    if hold && !h.debug then (.now stDebugOff, m, h)
    else
      let r : Reply := { stOk with words := words64 [h.leStat.toNat, h.le.laid, h.le.doneCnt] }
      let x := if hold && h.postMortem then (m, h) else firmReset { level := .job, hold := hold } m h
      (.afterReset r, x.1, x.2))

/-! ### STAGE (R388) -/

/-- The record shape of STAGE. -/
def stageSpec : CmdSpec :=
  { rtype := 0x04, units := 2, control := fun _ => false
    mask := fun _ i => if i = 1 then 0xFFFF003F else if i = 2 then 2 ^ 48 - 1 else if i ≤ 5 then 2 ^ 64 - 1 else if i = 6 then 2 ^ 16 - 1
      else 0 }

/-- The line rate of a port mode in bits per second (R367). -/
def lineRate (mode : Nat) : Nat :=
  match mode with
  | 1 => 400000000000
  | 2 => 200000000000
  | 3 => 100000000000
  | _ => 0

/-- The line rate of a UBT session's port (R392). -/
def Net.ubtLine (n : Net) (u : Ubt) : Nat := lineRate (((n.ubtPort u).map (fun p => fld (n.port p).active 30 2)).getD 0)

/-- A 128-bit address from its 16 bytes in order. -/
def address (bs : List Byte) : BitVec 128 := BitVec.ofNat 128 ((bytesAt bs 0 16).foldl (fun (a : Nat) (b : Byte) => a * 256 + b.toNat) 0)

/-- STAGE OP 0: a UBT session is opened on a device window (R388). An OP that the table does not list is answered here. -/
def openWindow (n : Nat) : Mem → Hw → Mem × Hw :=
  cmdRow stageSpec (fun ws => cw ws 1 % 16 != 1 && cw ws 1 % 16 != 2) n (fun ws s m h =>
    let (base, len) := (cw ws 2, cw ws 3)
    if cw ws 1 % 16 ≠ 0 then (.now (stParam 1), m, h)
    else if base % 64 ≠ 0 then (.now (stParam 2), m, h)
    else if len = 0 ∨ len % 64 ≠ 0 then (.now (stParam 3), m, h)
    else if !copyRegion base len then (.now (stRegion 2), m, h)
    else if 65536 ≤ h.net.ubt.length then (.now { status := 7 }, m, h)
    else
      let k := ((List.range (h.net.ubt.length + 1)).find? (fun k => (sget k h.net.ubt).isNone)).getD 0
      let epoch := sgetD k 0 h.ubtEpochs % 65535 + 1
      let peer := address (wordsBytes [cw ws 4, cw ws 5])
      let u : Ubt :=
        { epoch := epoch, net := portNet s.port, base := base, length := len, r := bitAt (cw ws 1) 4, w := bitAt (cw ws 1) 5
          addr := if peer = 0 then s.addr else peer, udp := if cw ws 6 = 0 then 50711 else cw ws 6, rate := 0, sentAt := h.clock
          riseAt := h.clock }
      let u1 := { u with rate := h.net.ubtLine u }
      (.now { stOk with words := words64 [epoch * 2 ^ 16 + k] }, m,
        { (h.updNet (fun y => { y with ubt := sset k u1 y.ubt })) with ubtEpochs := sset k epoch h.ubtEpochs }))

/-- STAGE OP 1: a UBT session is closed (R388, R393). -/
def closeWindow (n : Nat) : Mem → Hw → Mem × Hw :=
  cmdRow stageSpec (fun ws => cw ws 1 % 16 == 1) n (fun ws _ m h =>
    let k := field (cw ws 1) 16 16
    match sget k h.net.ubt with
    | none => (.now (stParam 1), m, h)
    | some u =>
      (.now { stOk with words := words64 [u.epoch * 2 ^ 16 + k] }, m,
        (h.updNet (fun y => { y with ubt := sdel k y.ubt })).updSill (fun x => { x with since := h.clock })))

/-- STAGE OP 2: a host window is added to a UBT session (R388). -/
def hostWindow (n : Nat) : Mem → Hw → Mem × Hw :=
  cmdRow stageSpec (fun ws => cw ws 1 % 16 == 2) n (fun ws _ m h =>
    let k := field (cw ws 1) 16 16
    match sget k h.net.ubt with
    | none => (.now (stParam 1), m, h)
    | some u =>
      if cw ws 3 = 0 then (.now (stParam 3), m, h)
      else
        (.now { stOk with words := words64 [u.epoch * 2 ^ 16 + k] }, m,
          h.updNet (fun y => y.updUbt k (fun u => { u with host := some (cw ws 2, cw ws 3) }))))

/-! ### GRAPH_LOAD and RUN (R383) -/

/-- The segments that a range of instruction memory touches in a kind of core all lie in RUNNER_SEGS (R383). -/
def inSegs (segs dst len c : Nat) : Bool :=
  (List.range 16).all (fun k =>
    bitAt segs k || !(decide (dst < (k + 1) * segSize c) && decide (k * segSize c < dst + len)))

/-- The checks of the runner's ranges on every kind of core: the word of the first that fails (R225, R383). -/
def runnerFault (src len dst segs : Nat) : Option Nat :=
  match xlocate 0 src len false with
  | .bad | .scratch _ _ | .imem _ _ => some 3
  | _ =>
    if src % 8 ≠ 0 then some 3
    else if dst % 8 ≠ 0 ∨ len % 8 ≠ 0 ∨ len = 0 then some 4
    else if [0, 32, 40].any (fun c => decide (imemSize c < dst + len) || !inSegs segs dst len c) then some 4
    else none

/-- The registers that GRAPH_LOAD writes, with the commit of the GSPLIT set (R383). -/
def graphRegisters (ws : List Nat) (h : Hw) : Hw :=
  let lo := fun (i : Nat) => w32 (cw ws i)
  let hi := fun (i : Nat) => w32 (cw ws i / 2 ^ 32)
  let xs : List (Nat × W32) :=
    [(0x08, lo 1), (0x0C, hi 1), (0x10, lo 2), (0x14, w32 (field (cw ws 5) 32 16)), (0x18, w32 (field (cw ws 6) 32 24)),
      (0x00, w32 (cw ws 6 % 8)), (0x30, lo 7), (0x34, hi 7), (0x38, lo 8), (0x48, lo 9), (0x4C, hi 9), (0x70, lo 10), (0x74, hi 10),
      (0x78, lo 11), (0x7C, hi 11), (0x80, 1)]
  xs.foldl (fun (h : Hw) (x : Nat × W32) => leWrite x.1 x.2 h) h

/-- GRAPH_LOAD: the engine's registers, the runner in every instruction memory, and thread 0 of every core started; a
post-mortem hold ends first (R383, R455, R465, R467). -/
def graphLoad (n : Nat) : Mem → Hw → Mem × Hw :=
  cmdRow
    { rtype := 0x05, units := 4
      mask := fun _ i =>
        match i with
        | 1 | 3 | 7 | 9 => 2 ^ 48 - 1
        | 2 => 2 ^ 21 - 1
        | 4 => (2 ^ 32 - 1) * 2 ^ 32 + (2 ^ 20 - 1)
        | 5 => (2 ^ 16 - 1) * 2 ^ 32 + (2 ^ 20 - 1)
        | 6 => (2 ^ 24 - 1) * 2 ^ 32 + 7
        | 8 => 2 ^ 32 - 1
        | 10 | 11 => 2 ^ 64 - 1
        | 12 => 2 ^ 7 - 1
        | 13 => 1
        | _ => 0
      cores := fun _ => true }
    (fun _ => true) n (fun ws _ m0 h0 =>
      if !h0.resets.isEmpty then (.waits, m0, h0)
      else if h0.le.st ≠ .idle ∧ h0.le.st ≠ .done then (.now (stState h0.leStat), m0, h0)
      else if h0.xmWest.failed ≠ 0 ∨ h0.xmEast.failed ≠ 0 then (.now (stFailed 0x0104), m0, h0)
      else
        let e := endHold m0 h0
        let h := graphRegisters ws e.2
        let (src, len, dst, segs, entry) := (cw ws 3, cw ws 4 / 2 ^ 32, field (cw ws 4) 0 20, field (cw ws 5) 32 16, field (cw ws 5) 0 20)
        if h.le.splitRef then (.now (stParam 10), e.1, h)
        else
          match runnerFault src len dst segs with
          | some w => (.now (stRegion w), e.1, h)
          | none =>
            let h1 : Hw := { h with firm := { h.firm with runner := (src, len, dst, entry), loaded := false } }
            match h1.runnerBytes e.1 with
            | (.error code, h2) => (.now (stFailed code), e.1, h2)
            | (.ok bs, h2) =>
              let debug := bitAt (cw ws 13) 0
              let h3 : Hw := { h2 with
                firm := { h2.firm.clearJob with loaded := true }, debug := debug
                net := { h2.net with noticeEn := bitAt (cw ws 12) 6, noticeSession := field (cw ws 12) 0 6 } }
              let h4 := (h3.extendMr 4 bs).extendMr 5 (Config.measure 5 [cw ws 1, cw ws 2, segs, b2n debug])
              let cs := (List.range 2112).map coreId
              (.now stOk, loadRunner dst bs cs e.1, h4.startRunner cs))

/-- RUN: GO is written for a loaded graph (R383). -/
def runCmd (n : Nat) : Mem → Hw → Mem × Hw :=
  cmdRow { rtype := 0x06, units := 1, mask := fun _ _ => 0 } (fun _ => true) n (fun _ _ m h =>
    if h.firm.loaded ∧ (h.le.st = .idle ∨ h.le.st = .done) then
      (.now stOk, m, leWrite 0x00 (0x80000000#32 ||| (leRead 0x00 h).1) h)
    else (.now (stState h.leStat), m, h))

/-! ### BUDGET, METER_READ and LOG (R325, R329, R427, R445) -/

/-- BUDGET: LBUDGET and LCAP are written and committed (R427). -/
def budget (n : Nat) : Mem → Hw → Mem × Hw :=
  cmdRow { rtype := 0x08, units := 1, mask := fun _ i => if i = 2 then 2 ^ 32 - 1 else if i = 3 then 2 ^ 64 - 1 else 0 }
    (fun _ => true) n (fun ws _ m h =>
      let h1 := leWrite 0x5C 1 (leWrite 0x58 (w32 (cw ws 3 / 2 ^ 32)) (leWrite 0x54 (w32 (cw ws 3)) (leWrite 0x50 (w32 (cw ws 2)) h)))
      (.now { stOk with words := [h1.le.balWord] }, m, h1))

/-- METER_READ: the records that come before the first NOT_HELD (R445). -/
def meterRead (n : Nat) : Mem → Hw → Mem × Hw :=
  cmdRow { rtype := 0x09, units := 1, control := fun _ => false,
           mask := fun _ i => if i = 1 ∨ i = 3 then 15 else if i = 2 then 2 ^ 64 - 1 else 0 }
    (fun _ => true) n (fun ws _ m h =>
      let (kind, first, count) := (cw ws 1, cw ws 2, cw ws 3)
      if 1 < kind then (.now (stParam 1), m, h)
      else if count = 0 ∨ 8 < count then (.now (stParam 3), m, h)
      else
        let got := ((List.range count).map (fun i => if h.pole.powered then h.pole.held (kind == 1) (first + i) else none)).takeWhile
          (·.isSome)
        let ws := words64 ((List.range (60 * got.length)).map (wordAt (got.flatMap (fun r => fitBytes 480 (r.getD [])))))
        let h1 := iter (min count (got.length + 1)) (fun i (h : Hw) => h.poleDo (·.readRec (kind == 1) (first + i))) h
        (.now { status := if got.length = count then 0 else 9, detail := if got.length = count then 0 else got.length, words := ws },
          m, h1))

/-- LOG: LOG_RD advances, and the offsets and RUN_DROP are returned (R329, R381). -/
def logCmd (n : Nat) : Mem → Hw → Mem × Hw :=
  cmdRow { rtype := 0x0C, units := 1, control := fun ws => cw ws 1 % 2 ^ 32 != 0, mask := fun _ i => if i = 1 then 2 ^ 32 - 1 else 0 }
    (fun _ => true) n (fun ws _ m h =>
      let adv := cw ws 1
      let size := h.le.logSize.toNat
      if adv % 32 ≠ 0 ∨ (adv ≠ 0 ∧ (h.le.logWr + size - h.le.logRd) % size < adv) then (.now (stParam 1), m, h)
      else
        let h1 := if adv = 0 then h else leWrite 0x40 (w32 ((h.le.logRd + adv) % size)) h
        let r := leRead 0x44 h1
        (.now { stOk with words := words64 [h1.le.logWr, h1.le.logRd, r.1.toNat] }, m, r.2))

/-! ### DOMAIN (R385) -/

/-- The record shape of DOMAIN_JOIN. -/
def domainSpec : CmdSpec :=
  { rtype := 0x0A, units := 4
    mask := fun _ i => if i = 1 then 3 else if i ≤ 3 then 2 ^ 32 - 1 else if i = 4 then 1 else if i ≤ 8 then 2 ^ 64 - 1
      else if i = 9 then 2 ^ 48 - 1 else 0 }

/-- DOMAIN_JOIN with OP JOIN: the routing table, the domain's registers and links, and JOIN; MR6 is extended (R385, R455). An
OP that the table does not list is answered here. -/
def domainJoin (n : Nat) : Mem → Hw → Mem × Hw :=
  cmdRow domainSpec (fun ws => cw ws 1 % 4 != 1) n (fun ws _ m h =>
    let src := cw ws 9
    if cw ws 1 ≠ 0 then (.now (stParam 1), m, h)
    else if h.dom.joined then (.now (stState h.dom.dstat), m, h)
    else
      match xlocate 0 src 4096 false with
      | .bad | .scratch _ _ | .imem _ _ => (.now (stRegion 9), m, h)
      | _ =>
        match readNow ridgeRouter false .read 66 src 4096 m h with
        | (.error code, h1) => (.now (stFailed code), m, h1)
        | (.ok bs, h1) =>
          let h2 := iter 1024 (fun i (h : Hw) => domWrite (0x1000 + 4 * i) (w32 (numAt bs (4 * i) 4)) h) h1
          let h3 := domWrite 0x08 (w32 (cw ws 3)) (domWrite 0x04 (w32 (cw ws 2)) h2)
          let h4 := (List.finRange 8).foldl (fun (h : Hw) (l : Fin 8) =>
            linkEnable l (w32 (cw ws (5 + l.val / 2) / 2 ^ (32 * (l.val % 2)))) h) (domCtrlWrite (w32 (cw ws 4)) h3)
          let h5 := domCtrlWrite (w32 (2 ^ 31 + cw ws 4)) (rtCommit 1 h4)
          (.now stOk, m, h5.extendMr 6 (toBytes 4 (cw ws 2) ++ toBytes 4 (cw ws 3) ++ bs)))

/-- DOMAIN_JOIN with OP LEAVE, under the conditions of R365 (R385, R455). -/
def domainLeave (n : Nat) : Mem → Hw → Mem × Hw :=
  cmdRow domainSpec (fun ws => cw ws 1 % 4 == 1) n (fun _ _ m h =>
    if h.dom.joined && h.le.quiet then
      let h1 := domCtrlWrite (w32 (2 ^ 30 + b2n h.dom.root)) h
      (.now stOk, m, { h1 with firm := { h1.firm with mr := h1.firm.mr.set 6 (List.replicate 32 0) },
                               sill := { h1.sill with since := h1.clock } })
    else (.now (stState h.dom.dstat), m, h))

/-! ### DEBUG (R386, R470 to R474) -/

/-- The record shape of DEBUG: the words that each OP requires. -/
def debugSpec : CmdSpec :=
  { rtype := 0x0B, units := 2
    mask := fun ws i =>
      let op := cw ws 1 % 16
      if i = 1 then 15
      else if i = 2 then
        (if op = 3 ∨ op = 4 then 0xFFFF0FFF else if op = 5 ∨ op = 6 then 0x33 else if op = 7 then 0x3FFF else if op = 8 then 0x7FFF
          else 2 ^ 64 - 1)
      else if i = 3 then (if op = 4 then 2 ^ 32 - 1 else if op = 5 ∨ op = 6 ∨ 8 < op then 2 ^ 64 - 1 else 0)
      else if 8 < op then 2 ^ 64 - 1 else 0
    cores := fun ws => decide (3 ≤ cw ws 1) && decide (cw ws 1 ≤ 8) }

/-- The code of a cut's state (R310). -/
def cutCode : CutState → Nat
  | .wait => 0
  | .ready => 1
  | .laid => 2
  | .staged => 3
  | .running => 4
  | .complete => 5
  | .failed => 6

/-- The counter store entry of a cut; a cut that is not there has 0 (R310). -/
def Layout.entryWord (l : Layout) (i : Nat) : Nat :=
  match sget i l.cuts with
  | some x => cutCode x.st * 2 ^ 60 + x.place * 2 ^ 40 + x.done * 2 ^ 20 + x.next
  | none => 0

/-- A DEBUG OP (R386). -/
def debugCmd (op : Nat) (n : Nat) (body : List Nat → Mem → Hw → Done × Mem × Hw) : Mem → Hw → Mem × Hw :=
  cmdRow debugSpec (fun ws => cw ws 1 % 16 == op || (op == 0 && decide (8 < cw ws 1 % 16))) n (fun ws _ m h => body ws m h)

/-- OPs 3 to 8 need DEBUG = 1 and, where they name a core, one that there is (R386). -/
def debugOn (named : Bool) (ws : List Nat) (m : Mem) (h : Hw) (f : CoreId → Done × Mem × Hw) : Done × Mem × Hw :=
  if !h.debug then (.now stDebugOff, m, h)
  else if named && decide (2112 ≤ cw ws 2 % 2 ^ 12) then (.now (stParam 2), m, h)
  else f (coreId (cw ws 2 % 2 ^ 12))

/-- OP 0: a counter store entry; an OP beyond 8 is answered here (R386). -/
def debugEntryRead (n : Nat) : Mem → Hw → Mem × Hw :=
  debugCmd 0 n (fun ws m h =>
    if 8 < cw ws 1 then (.now (stParam 1), m, h) else (.now { stOk with words := words64 [h.le.entryWord (cw ws 2)] }, m, h))
/-- OP 1: a register of the Layout engine (R386). -/
def debugEngineRead (n : Nat) : Mem → Hw → Mem × Hw :=
  debugCmd 1 n (fun ws m h =>
    let r := leRead (cw ws 2) h
    (.now { stOk with words := [r.1.setWidth 64] }, m, r.2))
/-- OP 2: a domain register (R386). -/
def debugDomainRead (n : Nat) : Mem → Hw → Mem × Hw :=
  debugCmd 2 n (fun ws m h =>
    let r := domRead (cw ws 2) h
    (.now { stOk with words := [r.1.setWidth 64] }, m, r.2))
/-- The core and port that w2 names. -/
def portField (ws : List Nat) : BitVec 16 := BitVec.ofNat 16 (field (cw ws 2) 16 16)

/-- OP 3: a port of a core over the purlin; it waits for the end of the core's scrub (R386, R464). -/
def debugPortRead (n : Nat) : Mem → Hw → Mem × Hw :=
  debugCmd 3 n (fun ws m h => debugOn true ws m h (fun c =>
    if (h.core c).held && !h.postMortem then (.waits, m, h)
    else
      let r := h.purlinGet c (portField ws)
      (.now { stOk with words := [r.1.setWidth 64] }, m, r.2)))
/-- OP 4: a write to a port of a core over the purlin (R386). -/
def debugPortWrite (n : Nat) : Mem → Hw → Mem × Hw :=
  debugCmd 4 n (fun ws m h => debugOn true ws m h (fun c => (.now stOk, m, h.purlinPut c (portField ws) (w32 (cw ws 3)))))

/-- The joist cores of a gang part (R472). -/
def gangCores (l : Layout) (p : Nat) : List CoreId :=
  if partEn (l.part p) then
    ((List.range 48).filter (fun b => decide (partFirst (l.part p) ≤ b) && decide (b ≤ partLast (l.part p)))).flatMap
      (fun b => (List.range 32).map (fun c => coreId (44 * b + c)))
  else []

/-- FREEZE and THAW: one BWRITE of DFRZ with an apply time, to every core of the device or to the joist cores of a gang part. What it
writes takes hold with the end of that cycle (R470 to R472). -/
def freezeBody (on : Bool) (ws : List Nat) (m : Mem) (h : Hw) : Done × Mem × Hw :=
  debugOn false ws m h (fun _ =>
    let scope := cw ws 2 % 4
    let at_ := if cw ws 3 = 0 then h.purlinTurn + 88 - h.fcyc0 else cw ws 3
    let to_ : List (Option CoreId) := if scope = 0 then [none] else (gangCores h.le (field (cw ws 2) 4 2)).map some
    if 1 < scope then (.now (stParam 2), m, h)
    else if h.atRefused at_ then (.now (stParam 3), m, h)
    else
      (.now { stOk with words := words64 [at_] }, m, to_.foldl (fun (h : Hw) (c : Option CoreId) =>
        h.after (h.fcyc0 + at_) (if on then .freeze c else .thaw c)) h.purlinIssue))

/-- OP 5 (R470). -/
def freezeCmd (n : Nat) : Mem → Hw → Mem × Hw := debugCmd 5 n (freezeBody true)
/-- OP 6 (R470). -/
def thawCmd (n : Nat) : Mem → Hw → Mem × Hw := debugCmd 6 n (freezeBody false)

/-- The thread that w2 names. -/
def threadField (ws : List Nat) : Fin 4 := fin 4 (field (cw ws 2) 12 2)

/-- A stop of a thread is on its way or waits for the end of an instruction. -/
def Hw.stopping (h : Hw) (w : Who) : Bool := (h.thread w).stopReq || h.later.any (fun e => e.2 == .stop w)

/-- OP 7: a purlin write of DTSTOP.STOP. The thread stops in its first slot after it, in a wait that is never interrupted only once the
wait has completed; the firmware takes the command up again until it has, and then returns TCTL (R473). -/
def threadStop (n : Nat) : Mem → Hw → Mem × Hw :=
  debugCmd 7 n (fun ws m h => debugOn true ws m h (fun c =>
    let w : Who := ⟨c, threadField ws⟩
    let h1 :=
      if h.stopping w then h
      else
        let x := h.purlinPut c 0xF09#16 (w32 (2 ^ w.thread.val))
        if (x.core c).frozenAt.isSome then x else x.reachCycle c (slotAt w.thread (x.cycle c + 1))
    if h1.stopping w then (.waits, m, h1)
    else
      let r := h1.purlinGet c (BitVec.ofNat 16 (0x418 + 0x10 * w.thread.val))
      (.now { stOk with words := [r.1.setWidth 64] }, m, r.2)))
/-- OP 8: a purlin write of DTSTOP.GO, for one instruction with STEP (R474). -/
def threadGo (n : Nat) : Mem → Hw → Mem × Hw :=
  debugCmd 8 n (fun ws m h => debugOn true ws m h (fun c =>
    (.now stOk, m, h.purlinPut c 0xF09#16 (w32 (2 ^ (4 + (threadField ws).val) + field (cw ws 2) 14 1 * 2 ^ 8)))))

/-- The next command of the device needs the cores (R422). -/
def Hw.wantsCores (h : Hw) : Bool :=
  match h.net.turn.bind (fun k => (sget k h.net.sessions).bind (·.head)) with
  | some ws =>
    let t := ws.headD 0 / 2 ^ 56
    t == 0x05 || (t == 0x03 && cw ws 1 == 3) || (t == 0x0B && decide (3 ≤ cw ws 1) && decide (cw ws 1 ≤ 8))
  | none => false

/-! ### The commands -/

/-- IDLE_GATE_EXIT (R422). -/
def execIdleGateExit (s : State) : Out :=
  onHw (fun _ h => if h.awake && !h.wideReset && h.scanRings.wantsCores then h.scanRings.ungate else h) s
/-- IDENTIFY (R382). -/
def execIdentify (n : Fin 64) (s : State) : Out := onMem (identify n) s
/-- ATTEST (R457). -/
def execAttest (n : Fin 64) (s : State) : Out := onMem (attest n) s
/-- ATTEST_CERT (R458). -/
def execAttestCert (n : Fin 64) (s : State) : Out := onMem (attestCert n) s
/-- RESET (R384). -/
def execReset (n : Fin 64) (s : State) : Out := onMem (resetCmd n) s
/-- OPEN_WINDOW (R388). -/
def execOpenWindow (n : Fin 64) (s : State) : Out := onMem (openWindow n) s
/-- CLOSE_WINDOW (R388). -/
def execCloseWindow (n : Fin 64) (s : State) : Out := onMem (closeWindow n) s
/-- HOST_WINDOW (R388). -/
def execHostWindow (n : Fin 64) (s : State) : Out := onMem (hostWindow n) s
/-- GRAPH_LOAD (R383). -/
def execGraphLoad (n : Fin 64) (s : State) : Out := onMem (graphLoad n) s
/-- RUN (R383). -/
def execRun (n : Fin 64) (s : State) : Out := onMem (runCmd n) s
/-- ABORT (R384). -/
def execAbort (n : Fin 64) (s : State) : Out := onMem (abort n) s
/-- BUDGET (R325). -/
def execBudget (n : Fin 64) (s : State) : Out := onMem (budget n) s
/-- METER_READ (R445). -/
def execMeterRead (n : Fin 64) (s : State) : Out := onMem (meterRead n) s
/-- DOMAIN_JOIN (R385). -/
def execDomainJoin (n : Fin 64) (s : State) : Out := onMem (domainJoin n) s
/-- DOMAIN_LEAVE (R385). -/
def execDomainLeave (n : Fin 64) (s : State) : Out := onMem (domainLeave n) s
/-- DEBUG_ENTRY_READ (R386). -/
def execDebugEntryRead (n : Fin 64) (s : State) : Out := onMem (debugEntryRead n) s
/-- DEBUG_ENGINE_READ (R386). -/
def execDebugEngineRead (n : Fin 64) (s : State) : Out := onMem (debugEngineRead n) s
/-- DEBUG_DOMAIN_READ (R386). -/
def execDebugDomainRead (n : Fin 64) (s : State) : Out := onMem (debugDomainRead n) s
/-- DEBUG_PORT_READ (R386). -/
def execDebugPortRead (n : Fin 64) (s : State) : Out := onMem (debugPortRead n) s
/-- DEBUG_PORT_WRITE (R386). -/
def execDebugPortWrite (n : Fin 64) (s : State) : Out := onMem (debugPortWrite n) s
/-- FREEZE (R470). -/
def execFreeze (n : Fin 64) (s : State) : Out := onMem (freezeCmd n) s
/-- THAW (R470). -/
def execThaw (n : Fin 64) (s : State) : Out := onMem (thawCmd n) s
/-- THREAD_STOP (R473). -/
def execThreadStop (n : Fin 64) (s : State) : Out := onMem (threadStop n) s
/-- THREAD_GO (R474). -/
def execThreadGo (n : Fin 64) (s : State) : Out := onMem (threadGo n) s
/-- LOG (R329). -/
def execLog (n : Fin 64) (s : State) : Out := onMem (logCmd n) s

end Sys2Proof.Machine
end

