-- ==== Sys2Proof/Machine/Control.lean ====
section
/-!
DEFINITION. Control transfer, WAIT, TRAP, BRK, ERET, instruction-memory access, the prefix, and entry to exceptions and
interrupts (R136 to R138, R152 to R155, R185 to R206).
-/

namespace Sys2Proof.Machine

/-- The fault of an instruction that is supervisor-only, in user mode (R155, R212). -/
def userFault (th : Thread) : Option Ctl := if th.mode then none else some (faultAt th excPriv)

/-! ### Control transfer (R152 to R154) -/

/-- The target of a branch of an offset in words (R152). -/
def branchTarget {n : Nat} (pc : BitVec 20) (off : BitVec n) : BitVec 20 := pc + 4 * off.signExtend 20

/-- B: condition 0xF raises ILLEGAL. -/
def execB (w : Who) (cond : BitVec 4) (off : BitVec 22) (s : State) : Out :=
  onHw (runInstr w (formOf (.b w cond off)) (fun _ => onThread w (fun th =>
    if cond = 0xF then (faultAt th excIllegal, th)
    else if condHolds th.flags cond then (.jump (branchTarget th.pc off), th)
    else (.done 1, th)))) s
/-- The return address of a call (R152). -/
def linkOf (th : Thread) : W48 := BitVec.ofNat 48 (th.pc.toNat + 4)
/-- BL: a14 takes the return address. -/
def execBl (w : Who) (off : BitVec 26) (s : State) : Out :=
  onHw (runInstr w (formOf (.bl w off)) (fun _ => onThread w (fun th =>
    (.jump (branchTarget th.pc off), th.setA 14 (linkOf th))))) s
/-- The check of a jump's target (R154). -/
def jumpTo (c : Nat) (th th' : Thread) (target : W48) : Ctl × Thread :=
  if target.toNat % 4 ≠ 0 then (faultAt th excFetchAlign target.toNat, th)
  else if imemSize c ≤ target.toNat then (faultAt th excFetchRange target.toNat, th)
  else (.jump (target.setWidth 20), th')
/-- JR. -/
def execJr (w : Who) (a : Fin 16) (s : State) : Out :=
  onHw (runInstr w (formOf (.jr w a)) (fun _ => onThread w (fun th => jumpTo w.core th th (th.getA a)))) s
/-- JLR: the target is the value before the link is written. -/
def execJlr (w : Who) (d a : Fin 16) (s : State) : Out :=
  onHw (runInstr w (formOf (.jlr w d a)) (fun _ => onThread w (fun th =>
    jumpTo w.core th (th.setA d (linkOf th)) (th.getA a)))) s

/-! ### System instructions (R155, R188 to R199) -/

/-- NOP. -/
def execNop (w : Who) (s : State) : Out := onHw (runInstr w {} (fun _ h => (.done 1, h))) s

/-- A WAIT completes: an event of its mask or an interrupt cause is pending (R189). -/
def Thread.wakes (th : Thread) (mask : BitVec 16) : Bool := th.evpend &&& mask != 0 || th.ipend != 0

/-- WAIT: it completes in its slot when it may, else the thread is WAITING (R189). -/
def execWait (w : Who) (mask : BitVec 16) (s : State) : Out :=
  onHw (runInstr w {} (fun _ => onThread w (fun th =>
    if th.wakes mask then (.done 1, th) else (.stay, { th with tstate := .waiting, waitMask := mask })))) s

/-- A waiting thread's WAIT may complete in the present cycle (R189). -/
def Hw.wakes (h : Hw) (w : Who) : Bool :=
  let th := h.thread w
  (h.core w.core).runs && th.tstate == .waiting && th.wakes th.waitMask && !th.takeable

/-- A waiting thread completes its WAIT in the first of its slots in which it may, by the events and causes of the cycles
before (R189). -/
def waitWake (w : Who) (h : Hw) : Hw :=
  match h.slotWhere w (·.wakes w) with
  | some x => (x.updThread w (fun th => ({ th with tstate := .running }).finish 1 (x.cycle w.core + 4))).noted w.core
  | none => h
/-- WAIT_WAKE. -/
def execWaitWake (w : Who) (s : State) : Out := onHw (fun _ => waitWake w) s

/-- TRAP: EPC is the instruction after it, EADDR its code (R156, R197). -/
def execTrap (w : Who) (code : BitVec 16) (s : State) : Out :=
  onHw (runInstr w {} (fun _ => onThread w (fun th =>
    (.fault { code := excTrap, epc := th.pc + 4, eaddr := code.setWidth 48 }, th)))) s
/-- BRK: an exception, or a thread stop when BRKSTOP is 1 (R197, R198). -/
def execBrk (w : Who) (s : State) : Out :=
  onHw (runInstr w {} (fun _ => onThread w (fun th =>
    if th.brkstop then (.stay, th.stopNow) else (faultAt th excBrk, th)))) s
/-- ERET: the return from an exception, supervisor only (R199). -/
def execEret (w : Who) (s : State) : Out :=
  onHw (runInstr w {} (fun _ => onThread w (fun th =>
    match userFault th with
    | some c => (c, th)
    | none => (.ret th.epc, th.eret)))) s

/-- The checks of ILD and IST (R155). -/
def imemCheck (c : Nat) (th : Thread) (a : W48) : Option Ctl :=
  match userFault th with
  | some x => some x
  | none =>
    if a.toNat % 4 ≠ 0 then some (faultAt th excAlign a.toNat)
    else if imemSize c ≤ a.toNat then some (faultAt th excImemRange a.toNat)
    else none

/-- ILD: the instruction word at aB, zero-extended. -/
def execIld (w : Who) (d : Fin 32) (b : Fin 16) (s : State) : Out :=
  onHw (fun m => runInstr w {} (fun _ => onThread w (fun th =>
    match imemCheck w.core th (th.getA b) with
    | some c => (c, th)
    | none => (.done 1, th.setD d (BitVec.ofNat 64 (memNat (locImem w.core (th.getA b).toNat) 4 m))))) m) s
/-- IST: the instruction word at aB := dS[31:0]; later fetches see it (R131). -/
def execIst (w : Who) (b : Fin 16) (sr : Fin 32) (s : State) : Out :=
  onMem (runInstrM w {} (fun _ m h =>
    let th := h.thread w
    match imemCheck w.core th (th.getA b) with
    | some c => (c, m, h)
    | none => (.done 1, memWriteN (locImem w.core (th.getA b).toNat) (toBytes 4 (th.getD sr).toNat) m, h))) s

/-- PFX: its 26 bits wait for the instruction of its pair, which issues in the same slot (R136, R137); a second PFX raises
ILLEGAL (R138). -/
def pfx (w : Who) (imm : BitVec 26) (m : Mem) (h : Hw) : Hw :=
  match h.nextSlot w with
  | none => h
  | some x =>
    match inSlot w {} (fun _ m h => (.done 1, m, h)) m x with
    | (.fault e, _, _) => x.settle w {} m (.fault e)
    | _ => x.updThread w (fun th => { th with pfx := some imm })
/-- PFX. -/
def execPfx (w : Who) (imm : BitVec 26) (s : State) : Out := onHw (pfx w imm) s

/-! ### Timers (R190) -/

/-- An armed timer reaches 0: TIMER is set and the timer stops. A write of the timer in that cycle comes before (R190). -/
def timerExpiry (w : Who) (h : Hw) : Hw :=
  match (h.thread w).timer with
  | none => h
  | some at_ =>
    if (h.core w.core).frozenAt.isSome then h
    else
      (((h.eventCycle w.core at_).updThread w (fun th => { th with timer := none })).raiseIpend w.core w.thread 1).noted w.core
/-- TIMER_EXPIRY. -/
def execTimerExpiry (w : Who) (s : State) : Out := onHw (fun _ => timerExpiry w) s

/-! ### Entries (R192 to R196, R201) -/

/-- An interrupt is to be entered in the present cycle: between instructions, in a stall of R158 or in WAIT (R192). -/
def Hw.interruptReady (h : Hw) (w : Who) : Bool :=
  let k := h.core w.core
  let th := k.thread w.thread
  k.runs && (th.tstate == .running || th.tstate == .waiting) && th.found.isNone && th.takeable && k.atBoundary w.thread

/-- An interrupt is entered in its thread's first slot in which it may be, by the causes of the cycles before; none is entered
between the words of a pair (R159, R192). -/
def interruptEntry (w : Who) (h : Hw) : Hw :=
  if h.pairOpen w then h
  else
    match h.slotWhere w (·.interruptReady w) with
    | some x => x.takeInterrupt w
    | none => h
/-- INTERRUPT_ENTRY. -/
def execInterruptEntry (w : Who) (s : State) : Out := onHw (fun _ => interruptEntry w) s

end Sys2Proof.Machine
end

