-- ==== Sys2Proof/Machine/Matrix.lean ====
section
/-!
DEFINITION. The matrix engine (R45 to R63): issue and checks, the stages of an accepted instruction, and its update of its
group.
-/

namespace Sys2Proof.Machine

/-! ### Issue (R45 to R52) -/

/-- The sparse set (R57). -/
def inSparseSet (code : Nat) : Bool := code == 0x1 || code == 0x2 || code == 0x4 || code == 0x5 || code == 0x6

/-- The checks of a matrix instruction in their order (R51): the code of the first condition met. -/
def matCheck (w : Who) (k : Core) (g ta tb : Fin 8) (tm : Option (Fin 8)) : Option Nat :=
  let a := k.tiles[ta]
  let b := k.tiles[tb]
  let m := tm.map (fun t => k.tiles[t])
  let gr := k.groups[g]
  let some_ := fun (p : Tile → Bool) => p a || p b || (m.map p).getD false
  let noInput := fun (t : Tile) => t.code == 0xD || t.code == 0xE
  if groupCount w.core ≤ g.val then some excGroupInvalid
  else if some_ Tile.empty then some excTileEmpty
  else if some_ (·.othersOwn w.thread) then some excTileOwned
  else if !gr.opened then some excGroupClosed
  else if gr.owner ≠ w.thread then some excGroupOwned
  else if noInput a || noInput b || (m.map (fun t => t.code != 0xD || !inSparseSet a.code)).getD false then some excMatFormat
  else if a.fmt ≠ gr.fa || b.fmt ≠ gr.fb then some excGroupFormat
  else
    let bad := match m with
      | none => a.elems != b.elems
      | some t =>
        a.elems != 2 * b.elems || a.elems % 8 != 0 || t.rows != b.rows || t.rbytes != a.elems / 8 || tm == some ta || tm == some tb
    if bad then some excMatShape else none

/-- Issue a matrix instruction: its checks, the stall of a full engine or of a tile a drain still writes or a held release
names, and its acceptance with the contents of its operands (R51, R52, R54, R83, R126). -/
def matIssue (w : Who) (g ta tb : Fin 8) (tm : Option (Fin 8)) (neg : Bool) : Mem → Hw → Hw :=
  runInstr w {} (fun _ h =>
    let k := h.core w.core
    let cyc := h.cycle w.core
    let names := fun (p : Fin 8 → Bool) => p ta || p tb || (tm.map p).getD false
    match matCheck w k g ta tb tm with
    | some code => (faultAt (h.thread w) code, h)
    | none =>
      if names (fun t => k.readWaits t cyc || k.trelNames t) then (.stall .interlock 0, h)
      else if 3 ≤ (k.mat.filter MatJob.held).length then (.stall .engine 0, h)
      else
        let j : MatJob :=
          { serial := k.matSerial + 1, thread := w.thread, g := g, ta := ta, tb := tb, tm := tm, neg := neg,
            opA := k.tiles[ta], opB := k.tiles[tb], opM := tm.map (fun t => k.tiles[t]), stage := .accepted cyc }
        (.done 1, (h.traceEv w 4 (h.thread w).pc g).updCore w.core (fun k => { k with mat := k.mat ++ [j], matSerial := k.matSerial + 1 })))

/-- TMMA (R45). -/
def execTmma (w : Who) (g ta tb : Fin 8) (s : State) : Out := onHw (matIssue w g ta tb none false) s
/-- TMMAN (R46). -/
def execTmman (w : Who) (g ta tb : Fin 8) (s : State) : Out := onHw (matIssue w g ta tb none true) s
/-- TMMAS (R47). -/
def execTmmas (w : Who) (g ta tb tm : Fin 8) (s : State) : Out := onHw (matIssue w g ta tb (some tm) false) s

/-- An instruction accepted up to a serial number has not updated its group (R48). -/
def Core.matPends (k : Core) (upTo : Nat) : Bool := k.mat.any (fun j => decide (j.serial ≤ upTo))

/-- MSYNC: it stalls until every instruction accepted before it has updated its group, and ends with the last of these updates
(R48). -/
def execMsync (w : Who) (s : State) : Out :=
  onHw (runInstr w {} (fun _ h =>
    let k := h.core w.core
    if k.matPends k.matSerial then (.stall .msync k.matSerial, h) else (.done 1, h))) s

/-! ### Stages (R58 to R60) -/

/-- Change the oldest instruction of a stage. -/
def Core.stageJob (k : Core) (p : MatStage → Bool) (st : MatStage) : Core :=
  { k with mat := updFirst (fun j => p j.stage) (fun j => { j with stage := st }) k.mat }
/-- The oldest instruction of a stage. -/
def Core.jobAt (k : Core) (p : MatStage → Bool) : Option MatJob := k.mat.find? (fun j => p j.stage)

def MatStage.isAccepted : MatStage → Bool
  | .accepted _ => true
  | _ => false
def MatStage.isLoading : MatStage → Bool
  | .loading _ => true
  | _ => false
def MatStage.isLoaded : MatStage → Bool
  | .loaded _ => true
  | _ => false
def MatStage.isComputing : MatStage → Bool
  | .computing _ => true
  | _ => false
def MatStage.isUpdating : MatStage → Bool
  | .updating _ => true
  | _ => false
/-- The CYCLE value of a stage. -/
def MatStage.time : MatStage → Nat
  | .accepted n | .loading n | .loaded n | .computing n | .updating n => n

/-- Cycles of the stationary load (R59). -/
def MatJob.loadCycles (j : MatJob) : Nat :=
  let part := fun (t : Tile) => (t.rows * t.rbytes + 255) / 256
  part j.opB + (j.opM.map part).getD 0

/-- An engine event of a core that is not frozen (R53). -/
def unfrozen (c : CoreId) (f : Core → Hw → Hw) (h : Hw) : Hw := if (h.core c).frozenAt.isSome then h else f (h.core c) h

/-- The stationary load of the next instruction begins once a buffer is free and the load before it has ended (R59). -/
def stationaryLoadStart (c : CoreId) : Hw → Hw :=
  unfrozen c (fun k h =>
    let used := (k.mat.filter (fun j => j.stage.isLoading || j.stage.isLoaded || j.stage.isComputing)).length
    let loadFrom := ((k.mat.filter (·.stage.isLoaded)).map (fun j => j.stage.time + 1)).foldl max 0
    match k.jobAt MatStage.isAccepted with
    | some j =>
      if used < 2 ∧ (k.jobAt MatStage.isLoading).isNone then
        let h1 := h.reachCycle c (max (max (j.stage.time + 1) loadFrom) (if used = 1 then k.arrayFrom else 0))
        h1.updCore c (·.stageJob MatStage.isAccepted (.loading (h1.cycle c + j.loadCycles - 1)))
      else h
    | none => h)
/-- STATIONARY_LOAD_START. -/
def execStationaryLoadStart (c : CoreId) (s : State) : Out := onHw (fun _ => stationaryLoadStart c) s

/-- A stationary load ends: its tiles may be written from the next cycle (R54). -/
def stationaryLoadEnd (c : CoreId) : Hw → Hw :=
  unfrozen c (fun k h =>
    match k.jobAt MatStage.isLoading with
    | some j =>
      let h1 := h.coreEvent c j.stage.time
      let e := h1.cycle c
      (h1.updCore c (fun k =>
        let k1 := (k.stageJob MatStage.isLoading (.loaded e)).freeTile j.tb e
        (j.tm.map (fun t => k1.freeTile t e)).getD k1)).trelRun c
    | none => h)
/-- STATIONARY_LOAD_END. -/
def execStationaryLoadEnd (c : CoreId) (s : State) : Out := onHw (fun _ => stationaryLoadEnd c) s

/-- Cycles of computation (R58). -/
def MatJob.cycles (j : MatJob) : Nat := computeCycles j.opA.code j.opA.elems j.tm.isSome

/-- Computation begins in the first cycle after the load in which the array is free (R60). -/
def matrixComputeStart (c : CoreId) : Hw → Hw :=
  unfrozen c (fun k h =>
    match k.jobAt MatStage.isLoaded with
    | some j =>
      if (k.jobAt MatStage.isComputing).isNone then
        let h1 := h.reachCycle c (max (j.stage.time + 1) k.arrayFrom)
        h1.updCore c (·.stageJob MatStage.isLoaded (.computing (h1.cycle c + j.cycles - 1)))
      else h
    | none => h)
/-- MATRIX_COMPUTE_START. -/
def execMatrixComputeStart (c : CoreId) (s : State) : Out := onHw (fun _ => matrixComputeStart c) s

/-- Computation ends; the last product reaches the group 14, 10 or 8 cycles later, and the streaming tile may be written from the
next cycle (R54, R60). -/
def matrixComputeEnd (c : CoreId) : Hw → Hw :=
  unfrozen c (fun k h =>
    match k.jobAt MatStage.isComputing with
    | some j =>
      let h1 := h.coreEvent c j.stage.time
      let e := h1.cycle c
      ((h1.updCore c (fun k =>
        { ((k.stageJob MatStage.isComputing (.updating (e + byKind c 14 10 8))).freeTile j.ta e) with arrayFrom := e + 1 })).trelRun c).noted c
    | none => h)
/-- MATRIX_COMPUTE_END. -/
def execMatrixComputeEnd (c : CoreId) (s : State) : Out := onHw (fun _ => matrixComputeEnd c) s

/-! ### The update (R34, R39 to R42, R55, R69, R70) -/

/-- The factors of one element: pairs of a streaming and a stationary number. A sparse instruction takes, for kept value
v of group q of a row of tb, the element of A that the metadata entry names (R55). -/
def factors (arow brow : List Num) (meta_ : Option Nat) : List (Num × Num) :=
  match meta_ with
  | none => arow.zip brow
  | some bits =>
    ((List.range brow.length).zip brow).map (fun p => (arow.getD (4 * (p.1 / 2) + field bits (4 * (p.1 / 2) + 2 * (p.1 % 2)) 2) .nan, p.2))

/-- The sum of the rounded products of one accumulator, the combination of their classes, and whether any was rounded
(R69, R70). -/
def dot (lse : Int) (neg : Bool) (ps : List (Num × Num)) : Int × Cls × Bool :=
  ps.foldl (fun acc p =>
    let x := p.1.mul p.2
    let g := toGrid lse (if neg then x.neg else x)
    (acc.1 + g.1, acc.2.1.comb g.2.1, acc.2.2 || g.2.2)) (0, .fin, false)

/-- Add an instruction's products into its group (R34, R70). -/
def MatJob.update (j : MatJob) (side : Nat) (gr : Group) : Group :=
  let as := (List.range j.opA.rows).map j.opA.nums
  let bs := (List.range j.opB.rows).map (fun r => (j.opB.nums r, j.opM.map (fun m => ofBytes (m.row_ r))))
  let cells := ((List.range as.length).zip as).flatMap (fun a => ((List.range bs.length).zip bs).map (fun b => (a, b)))
  cells.foldl (fun gr c =>
    let d := dot gr.exp j.neg (factors c.1.2 c.2.2.1 c.2.2.2)
    let at_ := side * c.1.1 + c.2.1
    let r := (gr.at_ at_).add d.1 d.2.1
    { (gr.put at_ r.1) with inx := gr.inx || d.2.2, sat := gr.sat || r.2 }) gr

/-- Work units of an instruction (R63). -/
def MatJob.work (j : MatJob) : Nat := j.opA.rows * j.opB.rows * j.opA.elems / (if j.tm.isSome then 2 else 1)

/-- The MSYNCs that wait for no other update complete (R48). -/
def Hw.syncs (h : Hw) (c : CoreId) : Hw :=
  (List.finRange 4).foldl (fun h t =>
    let th := (h.core c).thread t
    if th.stall = some .msync ∧ !(h.core c).matPends th.stallOn then h.release ⟨c, t⟩ 1 else h) h

/-- An instruction's products are in its group: the oldest one computed, not before a drain of the group has read its last
row (R60, R78); its work units are counted on the core and on the bent's line (R63). -/
def matrixUpdateComplete (c : CoreId) : Hw → Hw :=
  unfrozen c (fun k h =>
    match k.jobAt MatStage.isUpdating with
    | some j =>
      let drained := (k.drains.filter (·.g == j.g)).foldl (fun n d => max n (d.readEnd + 1)) 0
      let h1 := h.coreEvent c (max j.stage.time drained)
      ((h1.updCore c (fun k =>
        { (k.freeGroup j.g (h1.cycle c)) with
            mat := k.mat.filter (fun x => x.serial != j.serial)
            mwork := k.mwork + BitVec.ofNat 64 j.work
            groups := k.groups.set j.g (j.update (arraySide c) k.groups[j.g]) })).updBent (bentOf c)
        (fun b => { b with lineTotal := b.lineTotal + BitVec.ofNat 64 j.work })).syncs c
    | none => h)
/-- MATRIX_UPDATE_COMPLETE. -/
def execMatrixUpdateComplete (c : CoreId) (s : State) : Out := onHw (fun _ => matrixUpdateComplete c) s

end Sys2Proof.Machine
end

