-- ==== Sys2Proof/Machine/Ubt.lean ====
section
/-!
DEFINITION. UBT packets: receiving and answering, acknowledgement and retransmission, and the packets of NET cuts (R388 to
R394).
-/

namespace Sys2Proof.Machine

/-! ### Receiving (R388, R389) -/

/-- The fields of a UBT header. -/
structure UbtHdr where
  op : Nat
  session : Nat
  epoch : Nat
  psn : Nat
  apsn : Nat
  addr : Nat
  ece : Bool
  last : Bool
  err : Nat
  len : Nat
  deriving DecidableEq, Repr

/-- The header of a packet: none where it is dropped without answer (R389). -/
def UbtHdr.of (bs : List Byte) : Option UbtHdr :=
  let w := wordAt bs
  let op := field (w 0) 32 8
  let len := field (w 3) 0 32
  let payload := if op = 1 ∨ op = 3 then len else 0
  if 32 ≤ bs.length ∧ field (w 0) 40 24 = 0x7A5501 ∧ 1 ≤ op ∧ op ≤ 5 ∧ field (w 3) 56 6 = 0 ∧ field (w 3) 32 16 = 0 ∧
      bs.length = 32 + payload then
    some { op := op, session := field (w 0) 16 16, epoch := field (w 0) 0 16, psn := w 1 / 2 ^ 32, apsn := w 1 % 2 ^ 32, addr := w 2
           ece := bitAt (w 3) 63, last := bitAt (w 3) 62, err := field (w 3) 48 8, len := len }
  else none


/-- A packet of an OP for an open session with its epoch arrives on the session's network; one of a wrong epoch or a closed
session is answered with NAK SESSION (R388, R389). Under the post-mortem hold UBT accepts no work (R465). -/
def ubtIn (op : Nat) (dg : Dgram) (f : UbtHdr → Ubt → Mem → Hw → Mem × Hw) (m : Mem) (h0 : Hw) : Mem × Hw :=
  let h := h0.event h0.clock
  if !h.awake || !h.net.isUp dg.port || h.postMortem then (m, h)
  else
    match UbtHdr.of dg.payload with
    | none => (m, h.pdrop dg.port)
    | some x =>
      if x.op ≠ op then (m, h)
      else if !toUnicast dg.dst then (m, h.pdrop dg.port)
      else
        match sget x.session h.net.ubt with
        | some u =>
          if u.epoch ≠ x.epoch then
            (m, h.updNet (fun n => n.emitClass true (some dg.port) dg.src dg.srcPort.toNat (ubtHeader 5 x.session x.epoch 0 x.psn 0 false false 6 0)))
          else if u.net ≠ portNet dg.port.val then (m, h.pdrop dg.port)
          else f x u m h
        | none =>
          (m, h.updNet (fun n => n.emitClass true (some dg.port) dg.src dg.srcPort.toNat (ubtHeader 5 x.session x.epoch 0 x.psn 0 false false 6 0)))

/-- A WRITE, READ_REQ or READ_RESP is handled by its PSN: the expected one is processed, an earlier one acknowledged again, and
for a later one a NAK SEQUENCE is sent at most once in 20 µs (R389). -/
def ubtSeq (dg : Dgram) (x : UbtHdr) (u : Ubt) (f : Mem → Hw → Mem × Hw) (m : Mem) (h : Hw) : Mem × Hw :=
  let d := sub32 x.psn u.psnIn
  if d = 0 then
    f m (h.updNet (fun n => n.updUbt x.session (fun u =>
      { u with port := some dg.port.val, psnIn := add32 u.psnIn 1, ce := u.ce || dg.ce })))
  else if d < 2 ^ 31 then
    if u.nakAt.any (fun t => decide (h.clock < t + 60000)) then (m, h)
    else (m, h.updNet (fun n => (n.ubtNak x.session u.psnIn 0).updUbt x.session (fun u => { u with nakAt := some h.clock })))
  else (m, h.updNet (fun n => n.ubtAck x.session))

/-- The mark of a packet that is still issuing its parts. -/
def issuing : Nat := 2 ^ 40

/-- A packet of the host enters the list of those not yet acknowledged. -/
def Hw.ubtEnter (h : Hw) (k : Nat) (x : UbtIn) : Hw := h.updNet (fun n => n.updUbt k (fun u => { u with inPkts := u.inPkts ++ [x] }))

/-- The line parts of a device range: address and length of each (R390). -/
def lineParts : Nat → Nat → Nat → List (Nat × Nat)
  | 0, _, _ => []
  | fuel + 1, a, n =>
    if n = 0 then []
    else
      let k := min n (64 - a % 64)
      (a, k) :: lineParts fuel (a + k) (n - k)

/-- Issue line parts of a write in order until one meets a page fault; `o` is the origin of the part at an offset, `go` marks it
issued (R390). It answers the offset and XRES code of the fault. -/
def issueParts (p : Plate) (o : Nat → Origin) (go : Nat → Hw → Hw) (base : Nat) (bs : List Byte) :
    List (Nat × Nat) → Mem → Hw → Option (Nat × Nat) × Mem × Hw
  | [], m, h => (none, m, h)
  | (a, n) :: rest, m, h =>
    let off := a - base
    let loc := xlocate 0 a n true
    let path := xpath loc n (xlatNow .write m) h
    match path.1 with
    | .fault exc => (some (off, pageCode exc), m, path.2)
    | q =>
      let r := plateWrite p loc q (o off) (bytesAt bs off n) path.2.clock m (go off path.2)
      issueParts p o go base bs rest r.1 r.2

/-- WRITE: NAK RANGE or ACCESS, or the payload is written line by line (R390). -/
def ubtWrite (dg : Dgram) (x : UbtHdr) (u : Ubt) (m : Mem) (h : Hw) : Mem × Hw :=
  let k := x.session
  let bad := if x.addr % 8 ≠ 0 ∨ x.len % 8 ≠ 0 ∨ 8192 < x.len ∨ u.length < x.addr + x.len then some 1 else if !u.w then some 2 else none
  match bad with
  | some err => (m, (h.ubtEnter k { psn := x.psn, open_ := [issuing], fault := some (err, 0) }).ubtPart k u.epoch x.psn issuing none)
  | none =>
    let a := u.base + x.addr
    let go := fun (off : Nat) (h : Hw) => h.updNet (fun n => n.updUbt k (fun u =>
      { u with inPkts := u.inPkts.map (fun y => if y.psn = x.psn then { y with open_ := off :: y.open_ } else y) }))
    let r := issueParts (portPlate dg.port.val) (fun off => .ubt k u.epoch x.psn off) go a (dg.payload.drop 32)
      (lineParts (x.len / 8 + 2) a x.len) m (h.ubtEnter k { psn := x.psn, open_ := [issuing] })
    let h1 := match r.1 with
      | some (off, _) => r.2.2.ubtPart k u.epoch x.psn off (some 4)
      | none => r.2.2
    (r.2.1, h1.ubtPart k u.epoch x.psn issuing none)

/-- READ_REQ: NAK RANGE or ACCESS, or it is answered by the READ_RESP packets that the session then sends (R390). -/
def ubtReadReq (x : UbtHdr) (u : Ubt) (m : Mem) (h : Hw) : Mem × Hw :=
  let k := x.session
  let bad := if x.addr % 8 ≠ 0 ∨ x.len % 8 ≠ 0 ∨ 2 ^ 20 < x.len ∨ u.length < x.addr + x.len then some (1, 0)
    else if !u.r then some (2, 0) else none
  (m, (h.ubtEnter k { psn := x.psn, open_ := [issuing], fault := bad, read := true, addr := x.addr, len := x.len }).ubtPart k u.epoch
    x.psn issuing none)

/-- The unit of a PULL that stands for its read at an offset. -/
def readUnit (off : Nat) : Nat := 2 ^ 48 + off

/-- READ_RESP: the bytes of the oldest read of the module's own are written at its place, under the rules of writes; LAST ends the
read (R390, R394). -/
def ubtReadResp (dg : Dgram) (x : UbtHdr) (u : Ubt) (m : Mem) (h : Hw) : Mem × Hw :=
  let k := x.session
  let entered := h.ubtEnter k { psn := x.psn, open_ := [issuing] }
  let ended := fun (r : Mem × Hw) => (r.1, r.2.ubtPart k u.epoch x.psn issuing none)
  match u.reads with
  | [] => ended (m, entered)
  | q :: rest =>
    let n := min x.len (q.len - q.got)
    let dev := ((sget q.cut h.le.cuts).map (fun c => field (dword c.spec 0) 0 48)).getD 0
    let at_ := q.off + q.got
    let go := fun (off : Nat) (h : Hw) => h.updCut q.cut (fun c => { c with open_ := (at_ + off) :: c.open_ })
    let live := (sget q.cut h.le.cuts).any (fun c => c.fault.isNone)
    let r := issueParts (portPlate dg.port.val) (fun off => .copy q.cut (at_ + off)) go (dev + at_) (dg.payload.drop 32)
      (if live then lineParts (n / 8 + 2) (dev + at_) n else []) m entered
    let h1 := match r.1 with
      | some (off, code) => r.2.2.copySettle q.cut (at_ + off) code r.2.2.clock
      | none => r.2.2
    let left := if x.last then rest else { q with got := q.got + n } :: rest
    let h2 := h1.updNet (fun y => y.updUbt k (fun u => { u with reads := left }))
    ended (r.2.1, if x.last then h2.copySettle q.cut (readUnit q.off) 0 h2.clock else h2)

/-! ### Acknowledgement and retransmission (R389, R391, R392, R394) -/

/-- A packet of the module's own has been acknowledged: a PUSH's unit is settled (R394). -/
def Hw.ubtAcked (h : Hw) (p : UbtPacket) : Hw :=
  match p.cut, p.settles with
  | some c, some unit => h.copySettle c unit 0 h.clock
  | _, _ => h


/-- Send packets of a session again. -/
def Hw.ubtResend (h : Hw) (u : Ubt) (ps : List UbtPacket) : Hw :=
  ps.foldl (fun (h : Hw) (p : UbtPacket) => h.updNet (fun n => n.ubtEmit u p.bytes)) h

/-- The device closes its end of a session: UBT_EVT is raised and UBT_LOST posted (R389, R412). -/
def Hw.ubtLost (h : Hw) (k : Nat) (u : Ubt) : Hw :=
  (((h.updNet (fun n => { n with ubt := sdel k n.ubt })).raiseSource (222 + plateNum (h.net.ubtPlate u))).postEvent 0xCE k [0]).updSill
    (fun x => { x with since := h.clock })

/-- ACK: every packet up to APSN is acknowledged; with ECE the rate falls, at most once in 16 µs (R391, R392). -/
def ubtAckIn (dg : Dgram) (x : UbtHdr) (u : Ubt) (h : Hw) : Hw :=
  let k := x.session
  let first := (u.unacked.head?.map (·.psn)).getD u.psnOut
  let done := sub32 (add32 x.apsn 1) first
  let acked := if done ≤ sub32 u.psnOut first then u.unacked.filter (fun p => decide (sub32 p.psn first < done)) else []
  let cut := x.ece && !u.cutAt.any (fun t => decide (h.clock < t + 48000))
  let h1 := h.updNet (fun n => n.updUbt k (fun u =>
    { u with
      port := some dg.port.val
      unacked := u.unacked.filter (fun p => !acked.contains p)
      sentAt := if acked.isEmpty then u.sentAt else h.clock, timeouts := if acked.isEmpty then u.timeouts else 0
      rate := if cut then max (7 * u.rate / 8) 1000000000 else u.rate, cutAt := if cut then some h.clock else u.cutAt
      riseAt := if x.ece then h.clock else u.riseAt }))
  acked.foldl (fun (h : Hw) (p : UbtPacket) => h.ubtAcked p) h1

/-- NAK: SEQUENCE has everything from APSN on sent again; SESSION closes the session; another cause ends the packet it names and
fails its NET cut (R389, R394, R412). -/
def ubtNakIn (dg : Dgram) (x : UbtHdr) (u : Ubt) (h : Hw) : Hw :=
  let k := x.session
  let h0 := (h.updNet (fun n => n.updUbt k (fun u => { u with port := some dg.port.val }))).raiseSource
    (222 + plateNum (portPlate dg.port.val))
  if x.err = 6 then h0.ubtLost k u
  else if x.err = 0 then h0.ubtResend { u with port := some dg.port.val } (u.unacked.filter (fun p => decide (sub32 p.psn x.apsn < 2 ^ 31)))
  else if 6 < x.err then h0
  else
    match u.unacked.find? (fun p => p.psn == x.apsn) with
    | none => h0
    | some p =>
      let h1 := h0.updNet (fun n => n.updUbt k (fun u =>
        { u with unacked := u.unacked.filter (fun q => q.psn != p.psn), reads := u.reads.filter (fun r => r.psn != p.psn) }))
      match p.cut with
      | none => h1
      | some c =>
        let unit := match p.settles, u.reads.find? (fun r => r.psn == p.psn) with
          | some n, _ => n
          | none, some r => readUnit r.off
          | none, none => 0
        h1.copySettle c unit (0x100 + x.err) h1.clock

/-- 200 µs have passed without APSN advancing: every unacknowledged packet is sent again, and at the sixteenth time in a row the
session is closed (R389). -/
def ubtRetransmit (k : Nat) (h : Hw) : Hw :=
  match sget k h.net.ubt with
  | some u =>
    if u.unacked.isEmpty || !h.awake then h
    else
      let h1 := h.event (u.sentAt + 600000)
      if 16 ≤ u.timeouts + 1 then h1.ubtLost k u
      else
        (h1.ubtResend u u.unacked).updNet (fun n => n.updUbt k (fun u => { u with sentAt := h1.clock, timeouts := u.timeouts + 1 }))
  | none => h

/-! ### Sending (R390, R392, R394) -/

/-- Send a packet of a session: it takes the next PSN and waits for acknowledgement, and the rate sets when the next may go
(R389, R392). -/
def Hw.ubtSend (h : Hw) (k op addr : Nat) (last : Bool) (len : Nat) (data : List Byte) (cut settles : Option Nat) : Hw :=
  match sget k h.net.ubt with
  | none => h
  | some u =>
    let bytes := ubtHeader op k u.epoch u.psnOut 0 addr false last 0 len ++ data
    let wait := (8 * bytes.length * 3000000000 + u.rate - 1) / max 1 u.rate
    (h.updNet (fun n => n.ubtEmit u bytes)).updNet (fun n => n.updUbt k (fun u =>
      { u with psnOut := add32 u.psnOut 1, unacked := u.unacked ++ [{ psn := u.psnOut, bytes := bytes, cut := cut, settles := settles }]
               sentAt := if u.unacked.isEmpty then h.clock else u.sentAt, sendFrom := h.clock + wait }))

/-- The next NET cut of a session with bytes to move: running, not failed, in the order of their numbers (R394). -/
def Hw.netCut (h : Hw) (k : Nat) : Option (Nat × Cut) :=
  h.le.cuts.find? (fun p => p.2.kind == 3 && p.2.st == .running && p.2.fault.isNone && field (dword p.2.spec 1) 0 16 == k &&
    decide (p.2.unit < p.2.copyLen))

/-- The session sends its next packet when its rate and its window of 256 packets allow: a READ_RESP of the oldest read being
answered, else the next packet of a NET cut (R389, R390, R392, R394). -/
def ubtPacketSend (k : Nat) (m : Mem) (h0 : Hw) : Hw :=
  match sget k h0.net.ubt with
  | none => h0
  | some u =>
    let port := (h0.net.ubtPort u).map (fun p => h0.net.port p)
    if !h0.awake || h0.postMortem || 256 ≤ u.unacked.length || port.all (fun p => p.paused.getLsbD (p.pcp true)) then h0
    else
      let h := h0.event u.sendFrom
      match u.inPkts.find? (fun x => x.read && x.fault.isNone && decide (x.next < x.len)) with
      | some x =>
        let n := min 8192 (x.len - x.next)
        match readNow (plateRouter (h.net.ubtPlate u)) true .read (n / 64 + 2) (u.base + x.addr + x.next) n m h with
        | (.error code, h1) => h1.ubtPart k u.epoch x.psn x.next (some (if code = 7 then 5 else 4))
        | (.ok bs, h1) =>
          let h2 := h1.ubtSend k 3 (x.addr + x.next) (decide (x.len ≤ x.next + n)) n bs none none
          (h2.updNet (fun y => y.updUbt k (fun u =>
            { u with inPkts := u.inPkts.map (fun z => if z.psn = x.psn then { z with next := x.next + n } else z) }))).ubtPart k u.epoch
              x.psn issuing none
      | none =>
        match u.host, h.netCut k with
        | some _, some (i, c) =>
          let h := h.event c.from_
          let dev := field (dword c.spec 0) 0 48
          let host := dword c.spec 2
          if bitAt (dword c.spec 1) 16 then
            let n := min (2 ^ 20) (c.copyLen - c.unit)
            let h1 := h.ubtSend k 2 (host + c.unit) false n [] (some i) none
            (h1.updCut i (fun c => { c with unit := c.unit + n, open_ := readUnit c.unit :: c.open_ })).updNet (fun y =>
              y.updUbt k (fun v => { v with reads := v.reads ++ [{ psn := u.psnOut, cut := i, off := c.unit, len := n }] }))
          else
            let n := min 8192 (c.copyLen - c.unit)
            match readNow (plateRouter (h.net.ubtPlate u)) true .read (n / 64 + 2) (dev + c.unit) n m h with
            | (.error code, h1) => h1.copySettle i c.unit code h1.clock
            | (.ok bs, h1) =>
              (h1.ubtSend k 1 (host + c.unit) false n bs (some i) (some c.unit)).updCut i (fun c =>
                { c with unit := c.unit + n, open_ := c.unit :: c.open_ })
        | _, _ => h0

/-- After 16 µs without ECE the rate rises by 1/64 of the line rate (R392). -/
def ubtRateRise (k : Nat) (h : Hw) : Hw :=
  match sget k h.net.ubt with
  | none => h
  | some u =>
    let h1 := h.event (u.riseAt + 48000)
    let line := h.net.ubtLine u
    h1.updNet (fun n => n.updUbt k (fun u => { u with rate := min line (u.rate + line / 64), riseAt := h1.clock }))

/-! ### The commands -/

/-- UBT_WRITE (R390). -/
def execUbtWrite (dg : Dgram) (s : State) : Out :=
  onMem (fun m h => ubtIn 1 dg (fun x u m h => ubtSeq dg x u (ubtWrite dg x u) m h) m h) s
/-- READ_REQ (R390). -/
def execReadReq (dg : Dgram) (s : State) : Out :=
  onMem (fun m h => ubtIn 2 dg (fun x u m h => ubtSeq dg x u (ubtReadReq x u) m h) m h) s
/-- READ_RESP (R390). -/
def execReadResp (dg : Dgram) (s : State) : Out :=
  onMem (fun m h => ubtIn 3 dg (fun x u m h => ubtSeq dg x u (ubtReadResp dg x u) m h) m h) s
/-- UBT_ACK (R391). -/
def execUbtAck (dg : Dgram) (s : State) : Out := onMem (fun m h => ubtIn 4 dg (fun x u m h => (m, ubtAckIn dg x u h)) m h) s
/-- UBT_NAK (R389). -/
def execUbtNak (dg : Dgram) (s : State) : Out := onMem (fun m h => ubtIn 5 dg (fun x u m h => (m, ubtNakIn dg x u h)) m h) s
/-- UBT_RETRANSMIT_EXPIRY (R389). -/
def execUbtRetransmitExpiry (u : BitVec 16) (s : State) : Out := onHw (fun _ h => ubtRetransmit u.toNat h) s
/-- UBT_PACKET_SEND (R392). -/
def execUbtPacketSend (u : BitVec 16) (s : State) : Out := onHw (fun m h => ubtPacketSend u.toNat m h) s
/-- UBT_RATE_RISE (R392). -/
def execUbtRateRise (u : BitVec 16) (s : State) : Out := onHw (fun _ h => ubtRateRise u.toNat h) s

end Sys2Proof.Machine
end

