-- ==== Sys2Proof/Machine/Vector.lean ====
section
/-!
DEFINITION. The vector instructions that stay in the register files (R160 to R176, R180): arithmetic, compare, select,
classify, permutation, reduction, conversion, special functions and scalar moves.
-/

namespace Sys2Proof.Machine

/-- A vector register (R160). -/
def Thread.getV (th : Thread) (r : Fin 32) : BitVec 2048 := th.v[r]
/-- Write a vector register (R160). -/
def Thread.setV (th : Thread) (r : Fin 32) (x : BitVec 2048) : Thread := { th with v := th.v.set r x }

/-- The width in bits of an element type (R160). -/
def etBits (et : Nat) : Nat :=
  match et with
  | 0 | 5 => 32
  | 1 | 2 | 4 => 16
  | 3 => 8
  | _ => 64

/-- The format of a floating-point element type (R160). -/
def etFmt (et : Nat) : Fmt := if et = 0 then fFP32 else if et = 1 then fBF16 else fFP16

/-- The lanes of a register, lane 0 first (R160). -/
def lanesOf (bits w : Nat) (x : BitVec 2048) : List Nat := (List.range (bits / w)).map (fun k => field x.toNat (w * k) w)

/-- A register from its lanes, lane 0 first. -/
def ofLanes (w : Nat) (xs : List Nat) : BitVec 2048 :=
  BitVec.ofNat 2048 (xs.foldr (fun x acc => acc * 2 ^ w + x % 2 ^ w) 0)

/-- A vector instruction on one thread: an element type outside its set raises ILLEGAL (R163). -/
def vecOp (w : Who) (ok : Bool) (slots : Nat) (f : Thread → Thread) (m : Mem) (h : Hw) : Hw :=
  runInstr w {} (fun _ => onThread w (fun th => if ok then (.done slots, f th) else (faultAt th excIllegal, th))) m h

/-- The element types of the floating-point group (R162). -/
def etFloat (et : BitVec 3) : Bool := et.toNat ≤ 2
/-- The element types of the integer group (R162). -/
def etInt (et : BitVec 3) : Bool := 3 ≤ et.toNat && et.toNat ≤ 6
/-- The element types of the compare, permute and move groups (R162). -/
def etAny (et : BitVec 3) : Bool := et.toNat ≤ 6

/-- Lane for lane from va and vb. -/
def vMap2 (w : Who) (ok : Bool) (et : BitVec 3) (vd va vb : Fin 32) (f : Nat → Nat → Nat) (m : Mem) (h : Hw) : Hw :=
  let n := etBits et.toNat
  let bits := vecBits w.core
  vecOp w ok 1 (fun th =>
    th.setV vd (ofLanes n (List.zipWith f (lanesOf bits n (th.getV va)) (lanesOf bits n (th.getV vb))))) m h

/-- Lane for lane from va, vb and vd. -/
def vMap3 (w : Who) (ok : Bool) (et : BitVec 3) (vd va vb : Fin 32) (f : Nat → Nat → Nat → Nat) (m : Mem) (h : Hw) : Hw :=
  let n := etBits et.toNat
  let bits := vecBits w.core
  vecOp w ok 1 (fun th =>
    th.setV vd (ofLanes n (List.zipWith (fun p d => f p.1 p.2 d)
      (List.zip (lanesOf bits n (th.getV va)) (lanesOf bits n (th.getV vb))) (lanesOf bits n (th.getV vd))))) m h

/-- Lane for lane from va. -/
def vMap1 (w : Who) (ok : Bool) (et : BitVec 3) (vd va : Fin 32) (f : Nat → Nat) (m : Mem) (h : Hw) : Hw :=
  let n := etBits et.toNat
  vecOp w ok 1 (fun th => th.setV vd (ofLanes n ((lanesOf (vecBits w.core) n (th.getV va)).map f))) m h

/-! ### Floating-point arithmetic (R164, R165) -/

/-- A binary operation on exact numbers, rounded once. -/
def fop2 (et : BitVec 3) (g : Num → Num → Num) (x y : Nat) : Nat :=
  let f := etFmt et.toNat
  f.encode (g (f.decode x) (f.decode y))

/-- VADD, floating point. -/
def execVaddF (w : Who) (et : BitVec 3) (vd va vb : Fin 32) (s : State) : Out :=
  onHw (vMap2 w (etFloat et) et vd va vb (fop2 et Num.add)) s
/-- VSUB, floating point. -/
def execVsubF (w : Who) (et : BitVec 3) (vd va vb : Fin 32) (s : State) : Out :=
  onHw (vMap2 w (etFloat et) et vd va vb (fop2 et (fun x y => x.add y.neg))) s
/-- VMUL, floating point. -/
def execVmulF (w : Who) (et : BitVec 3) (vd va vb : Fin 32) (s : State) : Out :=
  onHw (vMap2 w (etFloat et) et vd va vb (fop2 et Num.mul)) s
/-- VFMA: va × vb + vd with one rounding. -/
def execVfma (w : Who) (et : BitVec 3) (vd va vb : Fin 32) (s : State) : Out :=
  onHw (vMap3 w (etFloat et) et vd va vb (fun x y d =>
    let f := etFmt et.toNat
    f.encode (((f.decode x).mul (f.decode y)).add (f.decode d)))) s
/-- VFMS: vd − va × vb with one rounding. -/
def execVfms (w : Who) (et : BitVec 3) (vd va vb : Fin 32) (s : State) : Out :=
  onHw (vMap3 w (etFloat et) et vd va vb (fun x y d =>
    let f := etFmt et.toNat
    f.encode ((f.decode d).add ((f.decode x).mul (f.decode y)).neg))) s
/-- VMIN, floating point. -/
def execVminF (w : Who) (et : BitVec 3) (vd va vb : Fin 32) (s : State) : Out :=
  onHw (vMap2 w (etFloat et) et vd va vb ((etFmt et.toNat).pick false)) s
/-- VMAX, floating point. -/
def execVmaxF (w : Who) (et : BitVec 3) (vd va vb : Fin 32) (s : State) : Out :=
  onHw (vMap2 w (etFloat et) et vd va vb ((etFmt et.toNat).pick true)) s
/-- VABS: the sign bit cleared, NaN included. -/
def execVabs (w : Who) (et : BitVec 3) (vd va : Fin 32) (s : State) : Out :=
  onHw (vMap1 w (etFloat et) et vd va (fun x => x % 2 ^ (etBits et.toNat - 1))) s
/-- VNEG: the sign bit inverted, NaN included. -/
def execVneg (w : Who) (et : BitVec 3) (vd va : Fin 32) (s : State) : Out :=
  onHw (vMap1 w (etFloat et) et vd va (fun x => x ^^^ 2 ^ (etBits et.toNat - 1))) s

/-! ### Integer and bitwise -/

/-- A binary operation on signed lanes, kept modulo 2^w. -/
def iop2 (et : BitVec 3) (g : Int → Int → Int) (x y : Nat) : Nat :=
  let n := etBits et.toNat
  wrap n (g (signed n x) (signed n y))

/-- An integer clamped to the signed range of `n` bits. -/
def clampS (n : Nat) (x : Int) : Int :=
  if x < -(2 ^ (n - 1)) then -(2 ^ (n - 1)) else if 2 ^ (n - 1) ≤ x then 2 ^ (n - 1) - 1 else x

/-- VADD, integer. -/
def execVaddI (w : Who) (et : BitVec 3) (vd va vb : Fin 32) (s : State) : Out :=
  onHw (vMap2 w (etInt et) et vd va vb (iop2 et (· + ·))) s
/-- VSUB, integer. -/
def execVsubI (w : Who) (et : BitVec 3) (vd va vb : Fin 32) (s : State) : Out :=
  onHw (vMap2 w (etInt et) et vd va vb (iop2 et (· - ·))) s
/-- VMUL, integer: the low w bits. -/
def execVmulI (w : Who) (et : BitVec 3) (vd va vb : Fin 32) (s : State) : Out :=
  onHw (vMap2 w (etInt et) et vd va vb (iop2 et (· * ·))) s
/-- VADDS: the clamped signed sum. -/
def execVadds (w : Who) (et : BitVec 3) (vd va vb : Fin 32) (s : State) : Out :=
  onHw (vMap2 w (etInt et) et vd va vb (iop2 et (fun x y => clampS (etBits et.toNat) (x + y)))) s
/-- VSUBS: the clamped signed difference. -/
def execVsubs (w : Who) (et : BitVec 3) (vd va vb : Fin 32) (s : State) : Out :=
  onHw (vMap2 w (etInt et) et vd va vb (iop2 et (fun x y => clampS (etBits et.toNat) (x - y)))) s
/-- VMIN, signed. -/
def execVminI (w : Who) (et : BitVec 3) (vd va vb : Fin 32) (s : State) : Out :=
  onHw (vMap2 w (etInt et) et vd va vb (iop2 et min)) s
/-- VMAX, signed. -/
def execVmaxI (w : Who) (et : BitVec 3) (vd va vb : Fin 32) (s : State) : Out :=
  onHw (vMap2 w (etInt et) et vd va vb (iop2 et max)) s
/-- VMINU. -/
def execVminu (w : Who) (et : BitVec 3) (vd va vb : Fin 32) (s : State) : Out :=
  onHw (vMap2 w (etInt et) et vd va vb min) s
/-- VMAXU. -/
def execVmaxu (w : Who) (et : BitVec 3) (vd va vb : Fin 32) (s : State) : Out :=
  onHw (vMap2 w (etInt et) et vd va vb max) s
/-- VSHL by vb mod w. -/
def execVshl (w : Who) (et : BitVec 3) (vd va vb : Fin 32) (s : State) : Out :=
  onHw (vMap2 w (etInt et) et vd va vb (fun x y => x * 2 ^ (y % etBits et.toNat))) s
/-- VSHR by vb mod w. -/
def execVshr (w : Who) (et : BitVec 3) (vd va vb : Fin 32) (s : State) : Out :=
  onHw (vMap2 w (etInt et) et vd va vb (fun x y => x / 2 ^ (y % etBits et.toNat))) s
/-- VSAR by vb mod w. -/
def execVsar (w : Who) (et : BitVec 3) (vd va vb : Fin 32) (s : State) : Out :=
  onHw (vMap2 w (etInt et) et vd va vb (fun x y =>
    let n := etBits et.toNat
    wrap n (signed n x / 2 ^ (y % n)))) s

/-- A bitwise operation over the whole register; its ET must be 0 (R162). -/
def vBits (w : Who) (et : BitVec 3) (vd va vb : Fin 32) (f : BitVec 2048 → BitVec 2048 → BitVec 2048) (m : Mem) (h : Hw) : Hw :=
  vecOp w (et == 0) 1 (fun th =>
    th.setV vd (f (th.getV va) (th.getV vb) &&& BitVec.ofNat 2048 (2 ^ vecBits w.core - 1))) m h

/-- VAND. -/
def execVand (w : Who) (et : BitVec 3) (vd va vb : Fin 32) (s : State) : Out :=
  onHw (vBits w et vd va vb (· &&& ·)) s
/-- VOR. -/
def execVor (w : Who) (et : BitVec 3) (vd va vb : Fin 32) (s : State) : Out :=
  onHw (vBits w et vd va vb (· ||| ·)) s
/-- VXOR. -/
def execVxor (w : Who) (et : BitVec 3) (vd va vb : Fin 32) (s : State) : Out :=
  onHw (vBits w et vd va vb (· ^^^ ·)) s
/-- VANDN: va AND NOT vb. -/
def execVandn (w : Who) (et : BitVec 3) (vd va vb : Fin 32) (s : State) : Out :=
  onHw (vBits w et vd va vb (fun x y => x &&& ~~~y)) s
/-- VNOT. -/
def execVnot (w : Who) (et : BitVec 3) (vd va : Fin 32) (s : State) : Out :=
  onHw (vBits w et vd va va (fun x _ => ~~~x)) s

/-! ### Compare, select, classify (R166, R167) -/

/-- A compare of two lanes: `ord` decides from their order, `onNan` where a lane is NaN (R166). -/
def vCmp (w : Who) (et : BitVec 3) (vd va vb : Fin 32) (ord : Ordering → Bool) (onNan : Bool) (m : Mem) (h : Hw) : Hw :=
  let n := etBits et.toNat
  vMap2 w (etAny et) et vd va vb (fun x y =>
    let o := if etFloat et then ((etFmt et.toNat).decode x).cmp ((etFmt et.toNat).decode y)
             else some (compare (signed n x) (signed n y))
    if (match o with | some k => ord k | none => onNan) then 2 ^ n - 1 else 0) m h

/-- VCMPEQ. -/
def execVcmpeq (w : Who) (et : BitVec 3) (vd va vb : Fin 32) (s : State) : Out :=
  onHw (vCmp w et vd va vb (· == .eq) false) s
/-- VCMPNE: true for a NaN operand. -/
def execVcmpne (w : Who) (et : BitVec 3) (vd va vb : Fin 32) (s : State) : Out :=
  onHw (vCmp w et vd va vb (· != .eq) true) s
/-- VCMPLT. -/
def execVcmplt (w : Who) (et : BitVec 3) (vd va vb : Fin 32) (s : State) : Out :=
  onHw (vCmp w et vd va vb (· == .lt) false) s
/-- VCMPLE. -/
def execVcmple (w : Who) (et : BitVec 3) (vd va vb : Fin 32) (s : State) : Out :=
  onHw (vCmp w et vd va vb (· != .gt) false) s
/-- VCMPGT. -/
def execVcmpgt (w : Who) (et : BitVec 3) (vd va vb : Fin 32) (s : State) : Out :=
  onHw (vCmp w et vd va vb (· == .gt) false) s
/-- VCMPGE. -/
def execVcmpge (w : Who) (et : BitVec 3) (vd va vb : Fin 32) (s : State) : Out :=
  onHw (vCmp w et vd va vb (· != .lt) false) s
/-- VCMPLTU: integer element types only (R166). -/
def execVcmpltu (w : Who) (et : BitVec 3) (vd va vb : Fin 32) (s : State) : Out :=
  onHw (vMap2 w (etInt et) et vd va vb (fun x y => if x < y then 2 ^ etBits et.toNat - 1 else 0)) s
/-- VCMPGEU: integer element types only (R166). -/
def execVcmpgeu (w : Who) (et : BitVec 3) (vd va vb : Fin 32) (s : State) : Out :=
  onHw (vMap2 w (etInt et) et vd va vb (fun x y => if y ≤ x then 2 ^ etBits et.toNat - 1 else 0)) s
/-- VSEL: each bit of va where vd is 1, of vb where vd is 0. -/
def execVsel (w : Who) (et : BitVec 3) (vd va vb : Fin 32) (s : State) : Out :=
  onHw (vecOp w (et == 0) 1 (fun th =>
    let m := th.getV vd
    th.setV vd ((th.getV va &&& m) ||| (th.getV vb &&& ~~~m)))) s
/-- VCLASS. -/
def execVclass (w : Who) (et : BitVec 3) (vd va : Fin 32) (s : State) : Out :=
  onHw (vMap1 w (etFloat et) et vd va (etFmt et.toNat).classOf) s

/-! ### Permutation and reduction (R168, R169) -/

/-- VPERM: lane i is the lane of va that lane i of vb names, 0 beyond the lanes. -/
def execVperm (w : Who) (et : BitVec 3) (vd va vb : Fin 32) (s : State) : Out :=
  onHw (vecOp w (etAny et) 1 (fun th =>
    let n := etBits et.toNat
    let xs := lanesOf (vecBits w.core) n (th.getV va)
    th.setV vd (ofLanes n ((lanesOf (vecBits w.core) n (th.getV vb)).map (fun p => xs.getD p 0))))) s
/-- VSLIDE: lane i is lane i + dB, dB signed, 0 outside the lanes. -/
def execVslide (w : Who) (et : BitVec 3) (vd va db : Fin 32) (s : State) : Out :=
  onHw (vecOp w (etAny et) 1 (fun th =>
    let n := etBits et.toNat
    let xs := lanesOf (vecBits w.core) n (th.getV va)
    let k := (th.getD db).toInt
    th.setV vd (ofLanes n ((List.range xs.length).map (fun (i : Nat) =>
      let j := (i : Int) + k
      if j < 0 then 0 else xs.getD j.toNat 0))))) s
/-- VBCL: every lane is lane dB, dB unsigned, 0 beyond the lanes. -/
def execVbcl (w : Who) (et : BitVec 3) (vd va db : Fin 32) (s : State) : Out :=
  onHw (vecOp w (etAny et) 1 (fun th =>
    let n := etBits et.toNat
    let xs := lanesOf (vecBits w.core) n (th.getV va)
    th.setV vd (ofLanes n (List.replicate xs.length (xs.getD (th.getD db).toNat 0))))) s

/-- One level of the reduction tree (R168). -/
def treeLevel {α : Type} (op : α → α → α) : List α → List α
  | x :: y :: rest => op x y :: treeLevel op rest
  | xs => xs

/-- The reduction tree over 2^k lanes (R168). -/
def treeReduce {α : Type} (op : α → α → α) : Nat → List α → List α
  | 0, xs => xs
  | k + 1, xs => treeReduce op k (treeLevel op xs)

/-- A reduction into lane 0, 0 in every other lane (R168). -/
def vReduce (w : Who) (et : BitVec 3) (vd va : Fin 32) (op : Nat → Nat → Nat) (m : Mem) (h : Hw) : Hw :=
  let n := etBits et.toNat
  vecOp w (etAny et) 2 (fun th =>
    th.setV vd (ofLanes n [(treeReduce op 8 (lanesOf (vecBits w.core) n (th.getV va))).headD 0])) m h

/-- VRSUM: each floating-point sum is rounded, integer sums wrap. -/
def execVrsum (w : Who) (et : BitVec 3) (vd va : Fin 32) (s : State) : Out :=
  onHw (vReduce w et vd va (if etFloat et then fop2 et Num.add else iop2 et (· + ·))) s
/-- VRMAX. -/
def execVrmax (w : Who) (et : BitVec 3) (vd va : Fin 32) (s : State) : Out :=
  onHw (vReduce w et vd va (if etFloat et then (etFmt et.toNat).pick true else iop2 et max)) s
/-- VRMIN. -/
def execVrmin (w : Who) (et : BitVec 3) (vd va : Fin 32) (s : State) : Out :=
  onHw (vReduce w et vd va (if etFloat et then (etFmt et.toNat).pick false else iop2 et min)) s
/-- VRARGMAX: lane 0 the maximum, lane 1 the lowest index that holds it; a NaN lane wins (R169). -/
def execVrargmax (w : Who) (et : BitVec 3) (vd va : Fin 32) (s : State) : Out :=
  onHw (vecOp w (etAny et) 2 (fun th =>
    let n := etBits et.toNat
    let f := etFmt et.toNat
    let xs := lanesOf (vecBits w.core) n (th.getV va)
    let nan := fun x => etFloat et && f.isNan x
    let top := if xs.any nan then f.canonNan
               else (treeReduce (if etFloat et then f.pick true else iop2 et max) 8 xs).headD 0
    let ix := if xs.any nan then xs.findIdx nan else xs.findIdx (· == top)
    th.setV vd (ofLanes n [top, ix]))) s

/-! ### Conversion (R170 to R172) -/

/-- The width of a conversion type (R170). -/
def cvBits (t : Nat) : Nat :=
  match t with
  | 0 | 5 => 32
  | 1 | 2 | 4 => 16
  | 6 => 64
  | _ => 8

/-- The floating-point format of a conversion type, if it is one (R170). -/
def cvFmt (t : Nat) : Option Fmt :=
  match t with
  | 0 => some fFP32
  | 1 => some fBF16
  | 2 => some fFP16
  | 7 => some fE4M3
  | 8 => some fE5M2
  | _ => none

/-- The code combinations that VCVT accepts (R170). -/
def cvOk (dst fr part : Nat) : Bool :=
  let r := max (cvBits dst) (cvBits fr) / min (cvBits dst) (cvBits fr)
  dst ≤ 8 && fr ≤ 8 && dst != fr && r ≤ 4 && part < r

/-- Convert one element (R172); the NaN of E5M2 and E4M3 are 0x7E and 0x7F. -/
def cvElem (dst fr x : Nat) : Nat :=
  match cvFmt fr, cvFmt dst with
  | some a, some b => b.encode (a.decode x)
  | some a, none => wrap (cvBits dst) ((a.decode x).toInt (cvBits dst))
  | none, some b => b.encode (Num.ofInt (signed (cvBits fr) x))
  | none, none => wrap (cvBits dst) (clampS (cvBits dst) (signed (cvBits fr) x))

/-- The register after a conversion of portion `part` (R171). -/
def cvReg (bits dst fr part : Nat) (va vd : BitVec 2048) : BitVec 2048 :=
  let wd := cvBits dst
  let ws := cvBits fr
  if wd < ws then
    let lanes := (lanesOf bits ws va).map (cvElem dst fr)
    let n := lanes.length
    ofLanes wd ((lanesOf bits wd vd).take (part * n) ++ lanes ++ (lanesOf bits wd vd).drop ((part + 1) * n))
  else
    let n := bits / wd
    ofLanes wd ((((lanesOf bits ws va).drop (part * n)).take n).map (cvElem dst fr))

/-- VCVT. -/
def execVcvt (w : Who) (vd va : Fin 32) (dst fr : BitVec 4) (part : BitVec 2) (s : State) : Out :=
  onHw (vecOp w (cvOk dst.toNat fr.toNat part.toNat) 1 (fun th =>
    th.setV vd (cvReg (vecBits w.core) dst.toNat fr.toNat part.toNat (th.getV va) (th.getV vd)))) s

/-! ### Special functions (R173 to R176) -/

/-- The largest magnitude code of a format whose value is at most n × 2^k, and whether it is n × 2^k. -/
def Fmt.below (f : Fmt) (n : Nat) (k : Int) : Nat × Bool :=
  if n = 0 then (0, true)
  else
    let q := max (ilog2 n k) (1 - (f.bias : Int)) - f.mb
    let up := n * 2 ^ (k - q).toNat
    let down := 2 ^ (q - k).toNat
    let r := up / down
    let code := if r < 2 ^ f.mb then r else ((q + f.mb + f.bias).toNat - 1) * 2 ^ f.mb + r
    if f.maxFinite < code then (f.maxFinite, false) else (code, up % down == 0)

/-- The smallest magnitude code of a format whose value is at least n × 2^k; the largest finite one beyond the range. -/
def Fmt.above (f : Fmt) (n : Nat) (k : Int) : Nat :=
  let b := f.below n k
  if b.2 then b.1 else min (b.1 + 1) f.maxFinite

/-- The magnitude codes that R174 allows for the exact value n × 2^k: those within u half ULPs of it, where they are not below what
monotonicity carries over from the next lower binade. -/
def ulpRange (f : Fmt) (u2 n : Nat) (k : Int) : Nat × Nat :=
  let e := ilog2 n k
  let q := max e (-126) - f.mb - 1
  let g := min k (q - 1)
  let v := n * 2 ^ (k - g).toNat
  let b := u2 * 2 ^ (q - g).toNat
  let carried := if -126 < e then 2 ^ (e - g).toNat - b / 2 else 0
  (f.above (max (v - b) carried) g, (f.below (v + b) g).1)

/-- Codes between the powers of two around a value n × 2^k. -/
def binade (f : Fmt) (n : Nat) (k : Int) (r : Nat × Nat) : Nat × Nat :=
  (max r.1 (f.above 1 (ilog2 n k)), min r.2 (f.below 1 (ilog2 n k + 1)).1)

/-- A function of a position that never decreases, whatever the unit is: at each bit of the result from the top, the unit's own
first position at which the result has it. -/
def sfuStep (fn et pos : Nat) : Nat :=
  (List.range 31).foldr (fun k r => if Config.sfu fn et (r + 2 ^ k) ≤ pos then r + 2 ^ k else r) 0

/-- A code of a range, as the unit has it at a position: with ranges that never decrease it never decreases (R173, R174; log
entry 10). -/
def sfuPick (fn et pos : Nat) (r : Nat × Nat) : Nat := min r.2 (max r.1 (sfuStep fn et pos))

/-- Half ULPs of the bounds of R173: of VEXP and VLOG2, and of VRCP and VRSQRT. -/
def ulpWide (et : Nat) : Nat := if et = 0 then 4 else 2
def ulpNarrow (et : Nat) : Nat := if et = 0 then 2 else 1

/-- 1 / (m × 2^e) truncated to many bits: the pair of bounds and their exponent. -/
def rcpBounds (m : Nat) (e : Int) : Nat × Nat × Int :=
  let q := 2 ^ (Nat.log2 m + 80) / m
  (q, if q * m = 2 ^ (Nat.log2 m + 80) then q else q + 1, -(e + (Nat.log2 m + 80 : Nat)))

/-- The integer square root, one bit at a time from bit `k` − 1 down. -/
def isqrt : Nat → Nat → Nat → Nat
  | 0, _, r => r
  | k + 1, n, r => isqrt k n (if (r + 2 ^ k) * (r + 2 ^ k) ≤ n then r + 2 ^ k else r)

/-- 1 / √(m × 2^e) truncated to many bits: the pair of bounds and their exponent. -/
def rsqrtBounds (m : Nat) (e : Int) : Nat × Nat × Int :=
  -- m × 2^e with e even, then √(2^(2j) / m) × 2^(−e/2 − j)
  let m' := if e % 2 = 0 then m else 2 * m
  let e' := if e % 2 = 0 then e else e - 1
  let j := Nat.log2 m' + 80
  let r := isqrt (j + 1) (2 ^ (2 * j) / m') 0
  (r, if r * r * m' = 2 ^ (2 * j) then r else r + 1, -(e' / 2) - j)

/-- ln 2 × 2^200, truncated. -/
def ln2Fixed : Nat := 1113844574712631719546256151097547306333272293549090750737802

/-- e^x for x = ± m × 2^e of a binary32 format, a truncated value that never decreases in x: 2^n times the series of the rest of the
division of x by ln 2. Below −1024 it is a value less than the others. -/
def expValue (neg : Bool) (m : Nat) (e : Int) : Nat × Int :=
  if neg && 10 ≤ ilog2 m e then (1, -2000)
  else
    let x := sint neg m * 2 ^ (e + 200).toNat
    let n := x / (ln2Fixed : Int)
    let r := (x - n * ln2Fixed).toNat
    ((List.range 40).foldr (fun i s => 2 ^ 200 + r * s / ((i + 1) * 2 ^ 200)) (2 ^ 200), n - 200)

/-- VEXP of one lane (R173 to R175). -/
def sfuExp (et x : Nat) : Nat :=
  let f := etFmt et
  let inf := f.infBits false
  match f.decode x with
  | .nan => f.canonNan
  | .inf neg => if neg then 0 else inf
  | .fin neg m e =>
    let one := f.encode (.fin false 1 0)
    if m = 0 then one
    else if !neg && (if et = 0 then 0x42B17218 else 0x42B2) ≤ x then inf
    else
      let v := expValue neg m e
      let r := ulpRange f (ulpWide et) v.1 v.2
      let mag := x % 2 ^ (f.eb + f.mb)
      sfuPick 0 et (if neg then 2 ^ 31 - mag else 2 ^ 31 + mag) (if neg then (r.1, min r.2 one) else (max r.1 one, r.2))

/-- VRCP of one lane (R173 to R175): no order is stated for negative inputs. -/
def sfuRcp (et x : Nat) : Nat :=
  let f := etFmt et
  match f.decode x with
  | .nan => f.canonNan
  | .inf neg => f.signed neg 0
  | .fin neg m e =>
    if m = 0 then f.infBits neg
    else
      let b := rcpBounds m e
      let mag := x % 2 ^ (f.eb + f.mb)
      if f.overflows (2 * b.1 + b2n (b.1 != b.2.1)) (b.2.2 - 1) then f.infBits neg
      else if b.1 = b.2.1 then f.signed neg (f.below b.1 b.2.2).1
      else
        let r := binade f b.1 b.2.2 (ulpRange f (ulpNarrow et) b.1 b.2.2)
        f.signed neg (if neg then min r.2 (max r.1 (Config.sfu 4 et mag)) else sfuPick 1 et (2 ^ 31 - mag) r)

/-- VRSQRT of one lane (R173 to R175). -/
def sfuRsqrt (et x : Nat) : Nat :=
  let f := etFmt et
  match f.decode x with
  | .nan => f.canonNan
  | .inf neg => if neg then f.canonNan else 0
  | .fin neg m e =>
    if m = 0 then f.infBits neg
    else if neg then f.canonNan
    else
      let b := rsqrtBounds m e
      if b.1 = b.2.1 then (f.below b.1 b.2.2).1
      else sfuPick 2 et (2 ^ 31 - x) (binade f b.1 b.2.2 (ulpRange f (ulpNarrow et) b.1 b.2.2))

/-- log₂ of y / 2^200 for y from 2^200 to 2^201, truncated to 64 bits behind the point. -/
def log2Frac (y : Nat) : Nat :=
  (iter 64 (fun _ s =>
    let z := s.1 * s.1 / 2 ^ 200
    if 2 ^ 201 ≤ z then (z / 2, 2 * s.2 + 1) else (z, 2 * s.2)) (y, 0)).2

/-- The magnitude codes that R173 and R174 allow for a logarithm of magnitude n × 2^-64: within the bound of a result, an absolute one
for inputs from 0.5 to 2, and between the integers around it, which are exact. -/
def logRange (f : Fmt) (et n : Nat) : Nat × Nat :=
  let r := if n < 2 ^ 64 then
      let b := 2 ^ (64 - (if et = 0 then 22 else 8))
      (f.above (n - b) (-64), (f.below (n + b) (-64)).1)
    else ulpRange f (ulpWide et) n (-64)
  (max r.1 (f.above (n / 2 ^ 64) 0), min r.2 (f.below (n / 2 ^ 64 + 1) 0).1)

/-- VLOG2 of one lane (R173 to R175); a power of two is exact, and the sign of a zero result is the unit's. -/
def sfuLog2 (et x : Nat) : Nat :=
  let f := etFmt et
  match f.decode x with
  | .nan => f.canonNan
  | .inf neg => if neg then f.canonNan else f.infBits false
  | .fin neg m e =>
    let one := f.encode (.fin false 1 0)
    if m = 0 then f.infBits true
    else if neg then f.canonNan
    else if m = 2 ^ Nat.log2 m then f.encode (Num.ofInt (ilog2 m e))
    else
      let l := ilog2 m e * 2 ^ 64 + log2Frac (m * 2 ^ (200 - Nat.log2 m))
      let mag := if one ≤ x then sfuPick 3 et x (logRange f et l.toNat) else sfuPick 5 et (one - x) (logRange f et (-l).toNat)
      if mag = 0 then f.signed (Config.sfu 6 et x % 2 == 1) 0 else f.signed (decide (x < one)) mag

/-- A special-function instruction: brace cores only, ET 0 or 1; it takes the unit for 4 cycles and the thread for 3 slots,
or stalls while the unit is occupied (R163, R176, R180). -/
def sfuOp (w : Who) (et : BitVec 3) (vd va : Fin 32) (f : Nat → Nat → Nat) (m : Mem) (h : Hw) : Hw :=
  runInstr w {} (fun _ h =>
    let th := h.thread w
    if !isBrace w.core || 1 < et.toNat then (faultAt th excIllegal, h)
    else if h.cycle w.core < (h.core w.core).sfuFrom then (.stall .interlock 0, h)
    else
      let n := etBits et.toNat
      let x := ofLanes n ((lanesOf (vecBits w.core) n (th.getV va)).map (f et.toNat))
      (.done 3, (h.updThread w (·.setV vd x)).updCore w.core (fun k => { k with sfuFrom := h.cycle w.core + 5 }))) m h

/-- VEXP. -/
def execVexp (w : Who) (et : BitVec 3) (vd va : Fin 32) (s : State) : Out := onHw (sfuOp w et vd va sfuExp) s
/-- VRCP. -/
def execVrcp (w : Who) (et : BitVec 3) (vd va : Fin 32) (s : State) : Out := onHw (sfuOp w et vd va sfuRcp) s
/-- VRSQRT. -/
def execVrsqrt (w : Who) (et : BitVec 3) (vd va : Fin 32) (s : State) : Out := onHw (sfuOp w et vd va sfuRsqrt) s
/-- VLOG2. -/
def execVlog2 (w : Who) (et : BitVec 3) (vd va : Fin 32) (s : State) : Out := onHw (sfuOp w et vd va sfuLog2) s

/-! ### Scalar moves -/

/-- VSPLAT: every lane is the low w bits of dA. -/
def execVsplat (w : Who) (et : BitVec 3) (vd da : Fin 32) (s : State) : Out :=
  onHw (vecOp w (etAny et) 1 (fun th =>
    let n := etBits et.toNat
    th.setV vd (ofLanes n (List.replicate (vecBits w.core / n) (th.getD da).toNat)))) s
/-- VINS: lane dB is the low w bits of dA; no effect beyond the lanes. -/
def execVins (w : Who) (et : BitVec 3) (vd da db : Fin 32) (s : State) : Out :=
  onHw (vecOp w (etAny et) 1 (fun th =>
    let n := etBits et.toNat
    th.setV vd (ofLanes n ((lanesOf (vecBits w.core) n (th.getV vd)).set (th.getD db).toNat (th.getD da).toNat)))) s
/-- VEXT: lane dB zero-extended, 0 beyond the lanes. -/
def execVext (w : Who) (et : BitVec 3) (d va db : Fin 32) (s : State) : Out :=
  onHw (vecOp w (etAny et) 1 (fun th =>
    let xs := lanesOf (vecBits w.core) (etBits et.toNat) (th.getV va)
    th.setD d (BitVec.ofNat 64 (xs.getD (th.getD db).toNat 0)))) s
/-- VEXTS: lane dB sign-extended, 0 beyond the lanes. -/
def execVexts (w : Who) (et : BitVec 3) (d va db : Fin 32) (s : State) : Out :=
  onHw (vecOp w (etAny et) 1 (fun th =>
    let n := etBits et.toNat
    let xs := lanesOf (vecBits w.core) n (th.getV va)
    th.setD d (BitVec.ofInt 64 (signed n (xs.getD (th.getD db).toNat 0))))) s
/-- VMOV. -/
def execVmov (w : Who) (et : BitVec 3) (vd va : Fin 32) (s : State) : Out :=
  onHw (vecOp w (et == 0) 1 (fun th => th.setV vd (th.getV va))) s

end Sys2Proof.Machine
end

