-- ==== Sys2Proof/Machine/Dispatch.lean ====
section
/-!
DEFINITION. The dispatch: one arm per constructor of Instr, each one direct call of its meaning.
-/

namespace Sys2Proof.Machine

/-- The effect of a command on everything but the queue. -/
def exec (i : Instr) (s : State) : Host.Outcome State Fault Refusal :=
  match i with
  | .tmma w g ta tb => Sys2Proof.Machine.execTmma w g ta tb s
  | .tmman w g ta tb => Sys2Proof.Machine.execTmman w g ta tb s
  | .tmmas w g ta tb tm => Sys2Proof.Machine.execTmmas w g ta tb tm s
  | .msync w => Sys2Proof.Machine.execMsync w s
  | .stationaryLoadStart c => Sys2Proof.Machine.execStationaryLoadStart c s
  | .matrixComputeStart c => Sys2Proof.Machine.execMatrixComputeStart c s
  | .matrixUpdateComplete c => Sys2Proof.Machine.execMatrixUpdateComplete c s
  | .aopen w g fa fb lse => Sys2Proof.Machine.execAopen w g fa fb lse s
  | .aclose w g => Sys2Proof.Machine.execAclose w g s
  | .adrain w g td ts keep shift => Sys2Proof.Machine.execAdrain w g td ts keep shift s
  | .drainBegin w => Sys2Proof.Machine.execDrainBegin w s
  | .apass w g n tag => Sys2Proof.Machine.execApass w g n tag s
  | .achain w g m fwd => Sys2Proof.Machine.execAchain w g m fwd s
  | .streamTupleTake c => Sys2Proof.Machine.execStreamTupleTake c s
  | .acurAbandon w sr => Sys2Proof.Machine.execAcurAbandon w sr s
  | .adbgW0Read w d => Sys2Proof.Machine.execAdbgW0Read w d s
  | .tcfg w t rows rbytes fmt => Sys2Proof.Machine.execTcfg w t rows rbytes fmt s
  | .tld w t b sr x u => Sys2Proof.Machine.execTld w t b sr x u s
  | .tst w t b sr x => Sys2Proof.Machine.execTst w t b sr x s
  | .tileMoveRow c => Sys2Proof.Machine.execTileMoveRow c s
  | .trdv w v t d h => Sys2Proof.Machine.execTrdv w v t d h s
  | .twrv w t d v h => Sys2Proof.Machine.execTwrv w t d v h s
  | .trel w sr => Sys2Proof.Machine.execTrel w sr s
  | .purlinTrelRelease c => Sys2Proof.Machine.execPurlinTrelRelease c s
  | .tcur w sr => Sys2Proof.Machine.execTcur w sr s
  | .add w d a b => Sys2Proof.Machine.execAdd w d a b s
  | .adc w d a b => Sys2Proof.Machine.execAdc w d a b s
  | .sub w d a b => Sys2Proof.Machine.execSub w d a b s
  | .sbc w d a b => Sys2Proof.Machine.execSbc w d a b s
  | .cmp w a b => Sys2Proof.Machine.execCmp w a b s
  | .neg w d a => Sys2Proof.Machine.execNeg w d a s
  | .and w d a b => Sys2Proof.Machine.execAnd w d a b s
  | .or w d a b => Sys2Proof.Machine.execOr w d a b s
  | .xor w d a b => Sys2Proof.Machine.execXor w d a b s
  | .andn w d a b => Sys2Proof.Machine.execAndn w d a b s
  | .not w d a => Sys2Proof.Machine.execNot w d a s
  | .aluTst w a b => Sys2Proof.Machine.execAluTst w a b s
  | .shl w d a b => Sys2Proof.Machine.execShl w d a b s
  | .shr w d a b => Sys2Proof.Machine.execShr w d a b s
  | .sar w d a b => Sys2Proof.Machine.execSar w d a b s
  | .ror w d a b => Sys2Proof.Machine.execRor w d a b s
  | .mul w d a b => Sys2Proof.Machine.execMul w d a b s
  | .mulh w d a b => Sys2Proof.Machine.execMulh w d a b s
  | .mulhu w d a b => Sys2Proof.Machine.execMulhu w d a b s
  | .div w d a b => Sys2Proof.Machine.execDiv w d a b s
  | .divu w d a b => Sys2Proof.Machine.execDivu w d a b s
  | .rem w d a b => Sys2Proof.Machine.execRem w d a b s
  | .remu w d a b => Sys2Proof.Machine.execRemu w d a b s
  | .min w d a b => Sys2Proof.Machine.execMin w d a b s
  | .max w d a b => Sys2Proof.Machine.execMax w d a b s
  | .minu w d a b => Sys2Proof.Machine.execMinu w d a b s
  | .maxu w d a b => Sys2Proof.Machine.execMaxu w d a b s
  | .clz w d a => Sys2Proof.Machine.execClz w d a s
  | .ctz w d a => Sys2Proof.Machine.execCtz w d a s
  | .popc w d a => Sys2Proof.Machine.execPopc w d a s
  | .sext w d a size => Sys2Proof.Machine.execSext w d a size s
  | .zext w d a size => Sys2Proof.Machine.execZext w d a size s
  | .mov w d b => Sys2Proof.Machine.execMov w d b s
  | .sel w d a b cond => Sys2Proof.Machine.execSel w d a b cond s
  | .addi w d a imm => Sys2Proof.Machine.execAddi w d a imm s
  | .cmpi w a imm => Sys2Proof.Machine.execCmpi w a imm s
  | .andi w d a imm => Sys2Proof.Machine.execAndi w d a imm s
  | .ori w d a imm => Sys2Proof.Machine.execOri w d a imm s
  | .xori w d a imm => Sys2Proof.Machine.execXori w d a imm s
  | .shli w d a amt => Sys2Proof.Machine.execShli w d a amt s
  | .shri w d a amt => Sys2Proof.Machine.execShri w d a amt s
  | .sari w d a amt => Sys2Proof.Machine.execSari w d a amt s
  | .rori w d a amt => Sys2Proof.Machine.execRori w d a amt s
  | .li w d imm => Sys2Proof.Machine.execLi w d imm s
  | .lih w d imm => Sys2Proof.Machine.execLih w d imm s
  | .adda w d a imm => Sys2Proof.Machine.execAdda w d a imm s
  | .addar w d a b sh => Sys2Proof.Machine.execAddar w d a b sh s
  | .suba w d a b => Sys2Proof.Machine.execSuba w d a b s
  | .movad w d b => Sys2Proof.Machine.execMovad w d b s
  | .movda w d a => Sys2Proof.Machine.execMovda w d a s
  | .lia w d imm => Sys2Proof.Machine.execLia w d imm s
  | .liah w d imm => Sys2Proof.Machine.execLiah w d imm s
  | .cmpa w a b => Sys2Proof.Machine.execCmpa w a b s
  | .mac w acc a b => Sys2Proof.Machine.execMac w acc a b s
  | .macs w acc a b => Sys2Proof.Machine.execMacs w acc a b s
  | .msu w acc a b => Sys2Proof.Machine.execMsu w acc a b s
  | .msus w acc a b => Sys2Proof.Machine.execMsus w acc a b s
  | .acclr w acc => Sys2Proof.Machine.execAcclr w acc s
  | .accwr w acc a => Sys2Proof.Machine.execAccwr w acc a s
  | .accrd w a acc sh => Sys2Proof.Machine.execAccrd w a acc sh s
  | .accrds w a acc sh => Sys2Proof.Machine.execAccrds w a acc sh s
  | .ld w d sz b off u => Sys2Proof.Machine.execLd w d sz b off u s
  | .st w d sz b off u => Sys2Proof.Machine.execSt w d sz b off u s
  | .lda w d sz b off u => Sys2Proof.Machine.execLda w d sz b off u s
  | .sta w d sz b off u => Sys2Proof.Machine.execSta w d sz b off u s
  | .fenceC w => Sys2Proof.Machine.execFenceC w s
  | .fenceF w => Sys2Proof.Machine.execFenceF w s
  | .fenceS w => Sys2Proof.Machine.execFenceS w s
  | .cinvC w => Sys2Proof.Machine.execCinvC w s
  | .cinvF w => Sys2Proof.Machine.execCinvF w s
  | .cinvS w => Sys2Proof.Machine.execCinvS w s
  | .cinvComplete c => Sys2Proof.Machine.execCinvComplete c s
  | .b w cond off => Sys2Proof.Machine.execB w cond off s
  | .bl w off => Sys2Proof.Machine.execBl w off s
  | .jr w a => Sys2Proof.Machine.execJr w a s
  | .jlr w d a => Sys2Proof.Machine.execJlr w d a s
  | .inp w d port => Sys2Proof.Machine.execInp w d port s
  | .inr w d a => Sys2Proof.Machine.execInr w d a s
  | .out w port sr => Sys2Proof.Machine.execOut w port sr s
  | .outr w a sr => Sys2Proof.Machine.execOutr w a sr s
  | .send w n sr k tag => Sys2Proof.Machine.execSend w n sr k tag s
  | .credit w d n => Sys2Proof.Machine.execCredit w d n s
  | .recv w d m => Sys2Proof.Machine.execRecv w d m s
  | .nop w => Sys2Proof.Machine.execNop w s
  | .wait w mask => Sys2Proof.Machine.execWait w mask s
  | .waitWake w => Sys2Proof.Machine.execWaitWake w s
  | .trap w code => Sys2Proof.Machine.execTrap w code s
  | .brk w => Sys2Proof.Machine.execBrk w s
  | .eret w => Sys2Proof.Machine.execEret w s
  | .ild w d b => Sys2Proof.Machine.execIld w d b s
  | .ist w b sr => Sys2Proof.Machine.execIst w b sr s
  | .pfx w imm => Sys2Proof.Machine.execPfx w imm s
  | .vaddF w et vd va vb => Sys2Proof.Machine.execVaddF w et vd va vb s
  | .vsubF w et vd va vb => Sys2Proof.Machine.execVsubF w et vd va vb s
  | .vmulF w et vd va vb => Sys2Proof.Machine.execVmulF w et vd va vb s
  | .vfma w et vd va vb => Sys2Proof.Machine.execVfma w et vd va vb s
  | .vfms w et vd va vb => Sys2Proof.Machine.execVfms w et vd va vb s
  | .vminF w et vd va vb => Sys2Proof.Machine.execVminF w et vd va vb s
  | .vmaxF w et vd va vb => Sys2Proof.Machine.execVmaxF w et vd va vb s
  | .vabs w et vd va => Sys2Proof.Machine.execVabs w et vd va s
  | .vneg w et vd va => Sys2Proof.Machine.execVneg w et vd va s
  | .vaddI w et vd va vb => Sys2Proof.Machine.execVaddI w et vd va vb s
  | .vsubI w et vd va vb => Sys2Proof.Machine.execVsubI w et vd va vb s
  | .vmulI w et vd va vb => Sys2Proof.Machine.execVmulI w et vd va vb s
  | .vadds w et vd va vb => Sys2Proof.Machine.execVadds w et vd va vb s
  | .vsubs w et vd va vb => Sys2Proof.Machine.execVsubs w et vd va vb s
  | .vminI w et vd va vb => Sys2Proof.Machine.execVminI w et vd va vb s
  | .vmaxI w et vd va vb => Sys2Proof.Machine.execVmaxI w et vd va vb s
  | .vminu w et vd va vb => Sys2Proof.Machine.execVminu w et vd va vb s
  | .vmaxu w et vd va vb => Sys2Proof.Machine.execVmaxu w et vd va vb s
  | .vshl w et vd va vb => Sys2Proof.Machine.execVshl w et vd va vb s
  | .vshr w et vd va vb => Sys2Proof.Machine.execVshr w et vd va vb s
  | .vsar w et vd va vb => Sys2Proof.Machine.execVsar w et vd va vb s
  | .vand w et vd va vb => Sys2Proof.Machine.execVand w et vd va vb s
  | .vor w et vd va vb => Sys2Proof.Machine.execVor w et vd va vb s
  | .vxor w et vd va vb => Sys2Proof.Machine.execVxor w et vd va vb s
  | .vandn w et vd va vb => Sys2Proof.Machine.execVandn w et vd va vb s
  | .vnot w et vd va => Sys2Proof.Machine.execVnot w et vd va s
  | .vcmpeq w et vd va vb => Sys2Proof.Machine.execVcmpeq w et vd va vb s
  | .vcmpne w et vd va vb => Sys2Proof.Machine.execVcmpne w et vd va vb s
  | .vcmplt w et vd va vb => Sys2Proof.Machine.execVcmplt w et vd va vb s
  | .vcmple w et vd va vb => Sys2Proof.Machine.execVcmple w et vd va vb s
  | .vcmpgt w et vd va vb => Sys2Proof.Machine.execVcmpgt w et vd va vb s
  | .vcmpge w et vd va vb => Sys2Proof.Machine.execVcmpge w et vd va vb s
  | .vcmpltu w et vd va vb => Sys2Proof.Machine.execVcmpltu w et vd va vb s
  | .vcmpgeu w et vd va vb => Sys2Proof.Machine.execVcmpgeu w et vd va vb s
  | .vsel w et vd va vb => Sys2Proof.Machine.execVsel w et vd va vb s
  | .vclass w et vd va => Sys2Proof.Machine.execVclass w et vd va s
  | .vperm w et vd va vb => Sys2Proof.Machine.execVperm w et vd va vb s
  | .vslide w et vd va db => Sys2Proof.Machine.execVslide w et vd va db s
  | .vbcl w et vd va db => Sys2Proof.Machine.execVbcl w et vd va db s
  | .vrsum w et vd va => Sys2Proof.Machine.execVrsum w et vd va s
  | .vrmax w et vd va => Sys2Proof.Machine.execVrmax w et vd va s
  | .vrmin w et vd va => Sys2Proof.Machine.execVrmin w et vd va s
  | .vrargmax w et vd va => Sys2Proof.Machine.execVrargmax w et vd va s
  | .vcvt w vd va dst fr part => Sys2Proof.Machine.execVcvt w vd va dst fr part s
  | .vexp w et vd va => Sys2Proof.Machine.execVexp w et vd va s
  | .vrcp w et vd va => Sys2Proof.Machine.execVrcp w et vd va s
  | .vrsqrt w et vd va => Sys2Proof.Machine.execVrsqrt w et vd va s
  | .vlog2 w et vd va => Sys2Proof.Machine.execVlog2 w et vd va s
  | .vld w v b off u => Sys2Proof.Machine.execVld w v b off u s
  | .vst w v b off => Sys2Proof.Machine.execVst w v b off s
  | .vstn w v b dn => Sys2Proof.Machine.execVstn w v b dn s
  | .vsplat w et vd da => Sys2Proof.Machine.execVsplat w et vd da s
  | .vins w et vd da db => Sys2Proof.Machine.execVins w et vd da db s
  | .vext w et d va db => Sys2Proof.Machine.execVext w et d va db s
  | .vexts w et d va db => Sys2Proof.Machine.execVexts w et d va db s
  | .vmov w et vd va => Sys2Proof.Machine.execVmov w et vd va s
  | .exceptionEntry w => Sys2Proof.Machine.execExceptionEntry w s
  | .interruptEntry w => Sys2Proof.Machine.execInterruptEntry w s
  | .lateStoreError c addr => Sys2Proof.Machine.execLateStoreError c addr s
  | .restart w t sr => Sys2Proof.Machine.execRestart w t sr s
  | .evpost w sr => Sys2Proof.Machine.execEvpost w sr s
  | .tmrWrite w t sr => Sys2Proof.Machine.execTmrWrite w t sr s
  | .timerExpiry w => Sys2Proof.Machine.execTimerExpiry w s
  | .cycleLoRead w d => Sys2Proof.Machine.execCycleLoRead w d s
  | .mworkLoRead w d => Sys2Proof.Machine.execMworkLoRead w d s
  | .clkAcquire w d n => Sys2Proof.Machine.execClkAcquire w d n s
  | .clkRelease w n sr => Sys2Proof.Machine.execClkRelease w n sr s
  | .clforce w sr => Sys2Proof.Machine.execClforce w sr s
  | .blkRequest w d => Sys2Proof.Machine.execBlkRequest w d s
  | .bentLockServe b => Sys2Proof.Machine.execBentLockServe b s
  | .blkRelease w sr => Sys2Proof.Machine.execBlkRelease w sr s
  | .blforce w sr => Sys2Proof.Machine.execBlforce w sr s
  | .slot3UnitAccept c => Sys2Proof.Machine.execSlot3UnitAccept c s
  | .slot3UnitWrite c => Sys2Proof.Machine.execSlot3UnitWrite c s
  | .hcommit w sr => Sys2Proof.Machine.execHcommit w sr s
  | .xring w sr => Sys2Proof.Machine.execXring w sr s
  | .transferUnitIssue b e => Sys2Proof.Machine.execTransferUnitIssue b e s
  | .imemUnitWrite c => Sys2Proof.Machine.execImemUnitWrite c s
  | .transferComplete b e => Sys2Proof.Machine.execTransferComplete b e s
  | .transferFail b e => Sys2Proof.Machine.execTransferFail b e s
  | .xresRead w d => Sys2Proof.Machine.execXresRead w d s
  | .lineFill c r => Sys2Proof.Machine.execLineFill c r s
  | .evictionWriteback c => Sys2Proof.Machine.execEvictionWriteback c s
  | .ncommit w sr => Sys2Proof.Machine.execNcommit w sr s
  | .routeCommitApply c => Sys2Proof.Machine.execRouteCommitApply c s
  | .tupleArrival c n => Sys2Proof.Machine.execTupleArrival c n s
  | .creditReturn c n => Sys2Proof.Machine.execCreditReturn c n s
  | .performanceNotice w => Sys2Proof.Machine.execPerformanceNotice w s
  | .mflush w sr => Sys2Proof.Machine.execMflush w sr s
  | .nforce w sr => Sys2Proof.Machine.execNforce w sr s
  | .remoteEgressFree c n => Sys2Proof.Machine.execRemoteEgressFree c n s
  | .remoteDelivery p c m => Sys2Proof.Machine.execRemoteDelivery p c m s
  | .stallLimitWrite w sr => Sys2Proof.Machine.execStallLimitWrite w sr s
  | .tenonStallExpiry c n => Sys2Proof.Machine.execTenonStallExpiry c n s
  | .stillnessReport c => Sys2Proof.Machine.execStillnessReport c s
  | .sliceRequest b sl => Sys2Proof.Machine.execSliceRequest b sl s
  | .routerArbitration r o => Sys2Proof.Machine.execRouterArbitration r o s
  | .purlinWrite c port v => Sys2Proof.Machine.execPurlinWrite c port v s
  | .purlinBwrite bents cores port v at_ => Sys2Proof.Machine.execPurlinBwrite bents cores port v at_ s
  | .purlinRead c port => Sys2Proof.Machine.execPurlinRead c port s
  | .purlinApply c => Sys2Proof.Machine.execPurlinApply c s
  | .go v => Sys2Proof.Machine.execGo v s
  | .descriptorLoad => Sys2Proof.Machine.execDescriptorLoad s
  | .layoutCut => Sys2Proof.Machine.execLayoutCut s
  | .layoutReplayRecord => Sys2Proof.Machine.execLayoutReplayRecord s
  | .launchCut lane => Sys2Proof.Machine.execLaunchCut lane s
  | .endNotice => Sys2Proof.Machine.execEndNotice s
  | .stageOverlay lane => Sys2Proof.Machine.execStageOverlay lane s
  | .overlayStaged cut => Sys2Proof.Machine.execOverlayStaged cut s
  | .copyUnitIssue cut => Sys2Proof.Machine.execCopyUnitIssue cut s
  | .copyComplete cut => Sys2Proof.Machine.execCopyComplete cut s
  | .copyFail cut => Sys2Proof.Machine.execCopyFail cut s
  | .noticeAccept cut => Sys2Proof.Machine.execNoticeAccept cut s
  | .ledgerTick => Sys2Proof.Machine.execLedgerTick s
  | .lcommit v => Sys2Proof.Machine.execLcommit v s
  | .gcommit v => Sys2Proof.Machine.execGcommit v s
  | .stillReport => Sys2Proof.Machine.execStillReport s
  | .cutTimeoutExpiry cut => Sys2Proof.Machine.execCutTimeoutExpiry cut s
  | .logRdWrite v => Sys2Proof.Machine.execLogRdWrite v s
  | .counterReadClear blk off => Sys2Proof.Machine.execCounterReadClear blk off s
  | .linkEnable l v => Sys2Proof.Machine.execLinkEnable l v s
  | .linkTrainingEnd l => Sys2Proof.Machine.execLinkTrainingEnd l s
  | .linkTrainTimeout l => Sys2Proof.Machine.execLinkTrainTimeout l s
  | .laneLockLoss l => Sys2Proof.Machine.execLaneLockLoss l s
  | .linkSilenceExpiry l => Sys2Proof.Machine.execLinkSilenceExpiry l s
  | .ident l blk => Sys2Proof.Machine.execIdent l blk s
  | .idle l blk => Sys2Proof.Machine.execIdle l blk s
  | .flitBlock l blk => Sys2Proof.Machine.execFlitBlock l blk s
  | .nak l blk => Sys2Proof.Machine.execNak l blk s
  | .nakRepeatExpiry l => Sys2Proof.Machine.execNakRepeatExpiry l s
  | .blockTransmit l => Sys2Proof.Machine.execBlockTransmit l s
  | .recordForward p => Sys2Proof.Machine.execRecordForward p s
  | .ackRecord c => Sys2Proof.Machine.execAckRecord c s
  | .lostRecord c => Sys2Proof.Machine.execLostRecord c s
  | .time l blk => Sys2Proof.Machine.execTime l blk s
  | .drawbore l blk => Sys2Proof.Machine.execDrawbore l blk s
  | .dreset l blk => Sys2Proof.Machine.execDreset l blk s
  | .snap l blk => Sys2Proof.Machine.execSnap l blk s
  | .beat => Sys2Proof.Machine.execBeat s
  | .dbarrive w sr => Sys2Proof.Machine.execDbarrive w sr s
  | .drawboreComplete sc => Sys2Proof.Machine.execDrawboreComplete sc s
  | .dbcommit w sr => Sys2Proof.Machine.execDbcommit w sr s
  | .dbcommitApply b => Sys2Proof.Machine.execDbcommitApply b s
  | .stepArm lane => Sys2Proof.Machine.execStepArm lane s
  | .stepComplete => Sys2Proof.Machine.execStepComplete s
  | .stepTimeoutExpiry => Sys2Proof.Machine.execStepTimeoutExpiry s
  | .snapArm v => Sys2Proof.Machine.execSnapArm v s
  | .snapshotFreeze => Sys2Proof.Machine.execSnapshotFreeze s
  | .dresetStart v => Sys2Proof.Machine.execDresetStart v s
  | .join v => Sys2Proof.Machine.execJoin v s
  | .leave v => Sys2Proof.Machine.execLeave v s
  | .rtcommit v => Sys2Proof.Machine.execRtcommit v s
  | .open_ dg => Sys2Proof.Machine.execOpen_ dg s
  | .close dg => Sys2Proof.Machine.execClose dg s
  | .cmd dg => Sys2Proof.Machine.execCmd dg s
  | .tmpAck dg => Sys2Proof.Machine.execTmpAck dg s
  | .discover dg => Sys2Proof.Machine.execDiscover dg s
  | .sessionIdleExpiry n => Sys2Proof.Machine.execSessionIdleExpiry n s
  | .cplRetransmitExpiry n => Sys2Proof.Machine.execCplRetransmitExpiry n s
  | .identify n => Sys2Proof.Machine.execIdentify n s
  | .attest n => Sys2Proof.Machine.execAttest n s
  | .attestCert n => Sys2Proof.Machine.execAttestCert n s
  | .reset n => Sys2Proof.Machine.execReset n s
  | .openWindow n => Sys2Proof.Machine.execOpenWindow n s
  | .closeWindow n => Sys2Proof.Machine.execCloseWindow n s
  | .hostWindow n => Sys2Proof.Machine.execHostWindow n s
  | .graphLoad n => Sys2Proof.Machine.execGraphLoad n s
  | .run n => Sys2Proof.Machine.execRun n s
  | .abort n => Sys2Proof.Machine.execAbort n s
  | .budget n => Sys2Proof.Machine.execBudget n s
  | .meterRead n => Sys2Proof.Machine.execMeterRead n s
  | .domainJoin n => Sys2Proof.Machine.execDomainJoin n s
  | .domainLeave n => Sys2Proof.Machine.execDomainLeave n s
  | .debugEntryRead n => Sys2Proof.Machine.execDebugEntryRead n s
  | .debugEngineRead n => Sys2Proof.Machine.execDebugEngineRead n s
  | .debugDomainRead n => Sys2Proof.Machine.execDebugDomainRead n s
  | .debugPortRead n => Sys2Proof.Machine.execDebugPortRead n s
  | .debugPortWrite n => Sys2Proof.Machine.execDebugPortWrite n s
  | .freeze n => Sys2Proof.Machine.execFreeze n s
  | .thaw n => Sys2Proof.Machine.execThaw n s
  | .threadStop n => Sys2Proof.Machine.execThreadStop n s
  | .threadGo n => Sys2Proof.Machine.execThreadGo n s
  | .log n => Sys2Proof.Machine.execLog n s
  | .ubtWrite dg => Sys2Proof.Machine.execUbtWrite dg s
  | .readReq dg => Sys2Proof.Machine.execReadReq dg s
  | .readResp dg => Sys2Proof.Machine.execReadResp dg s
  | .ubtAck dg => Sys2Proof.Machine.execUbtAck dg s
  | .ubtNak dg => Sys2Proof.Machine.execUbtNak dg s
  | .ubtRetransmitExpiry u => Sys2Proof.Machine.execUbtRetransmitExpiry u s
  | .pcommit v => Sys2Proof.Machine.execPcommit v s
  | .portStateChange p st => Sys2Proof.Machine.execPortStateChange p st s
  | .pfcFrame p prio pause => Sys2Proof.Machine.execPfcFrame p prio pause s
  | .arp p target mac => Sys2Proof.Machine.execArp p target mac s
  | .neighborSolicitation p target mac => Sys2Proof.Machine.execNeighborSolicitation p target mac s
  | .echoRequest p dst payload => Sys2Proof.Machine.execEchoRequest p dst payload s
  | .memoryRequest p => Sys2Proof.Machine.execMemoryRequest p s
  | .patrolRead p line ecc => Sys2Proof.Machine.execPatrolRead p line ecc s
  | .dataRetraining sub => Sys2Proof.Machine.execDataRetraining sub s
  | .pageWalkEnd k vpn ecc => Sys2Proof.Machine.execPageWalkEnd k vpn ecc s
  | .pmcommit w sr => Sys2Proof.Machine.execPmcommit w sr s
  | .pageMapCommitEffect => Sys2Proof.Machine.execPageMapCommitEffect s
  | .interruptRaise src => Sys2Proof.Machine.execInterruptRaise src s
  | .iraise v => Sys2Proof.Machine.execIraise v s
  | .interruptRoute => Sys2Proof.Machine.execInterruptRoute s
  | .interruptDelivery b => Sys2Proof.Machine.execInterruptDelivery b s
  | .wardenAck b => Sys2Proof.Machine.execWardenAck b s
  | .ieoi n => Sys2Proof.Machine.execIeoi n s
  | .icommit v => Sys2Proof.Machine.execIcommit v s
  | .idleGateEntry => Sys2Proof.Machine.execIdleGateEntry s
  | .sillOnlyEntry => Sys2Proof.Machine.execSillOnlyEntry s
  | .idleGateExit => Sys2Proof.Machine.execIdleGateExit s
  | .wake src => Sys2Proof.Machine.execWake src s
  | .sillTimer => Sys2Proof.Machine.execSillTimer s
  | .temperatureSample temps => Sys2Proof.Machine.execTemperatureSample temps s
  | .referenceClockLoss => Sys2Proof.Machine.execReferenceClockLoss s
  | .meterSilent => Sys2Proof.Machine.execMeterSilent s
  | .increment => Sys2Proof.Machine.execIncrement s
  | .inputLow => Sys2Proof.Machine.execInputLow s
  | .inputUndervoltage => Sys2Proof.Machine.execInputUndervoltage s
  | .inputOvervoltage => Sys2Proof.Machine.execInputOvervoltage s
  | .powerUp => Sys2Proof.Machine.execPowerUp s
  | .railFault branch => Sys2Proof.Machine.execRailFault branch s
  | .resetNAssert ns => Sys2Proof.Machine.execResetNAssert ns s
  | .resetNRelease => Sys2Proof.Machine.execResetNRelease s
  | .moduleInsertion inserted => Sys2Proof.Machine.execModuleInsertion inserted s
  | .senseSample uv ua => Sys2Proof.Machine.execSenseSample uv ua s
  | .intervalEnd => Sys2Proof.Machine.execIntervalEnd s
  | .workCountFrameSend b => Sys2Proof.Machine.execWorkCountFrameSend b s
  | .workCountFrame b total start crc => Sys2Proof.Machine.execWorkCountFrame b total start crc s
  | .lineCrcTimeout b => Sys2Proof.Machine.execLineCrcTimeout b s
  | .recordClose => Sys2Proof.Machine.execRecordClose s
  | .readSecond recno => Sys2Proof.Machine.execReadSecond recno s
  | .readJob recno => Sys2Proof.Machine.execReadJob recno s
  | .readStatus => Sys2Proof.Machine.execReadStatus s
  | .readCert => Sys2Proof.Machine.execReadCert s
  | .jobOpen => Sys2Proof.Machine.execJobOpen s
  | .jobClose label => Sys2Proof.Machine.execJobClose label s
  | .update image => Sys2Proof.Machine.execUpdate image s
  | .bankSwitch => Sys2Proof.Machine.execBankSwitch s
  | .badCommand code => Sys2Proof.Machine.execBadCommand code s
  | .alarm kind => Sys2Proof.Machine.execAlarm kind s
  | .supplyLow => Sys2Proof.Machine.execSupplyLow s
  | .storyPolePowerUp => Sys2Proof.Machine.execStoryPolePowerUp s
  | .coldReset => Sys2Proof.Machine.execColdReset s
  | .frameReset => Sys2Proof.Machine.execFrameReset s
  | .jobReset => Sys2Proof.Machine.execJobReset s
  | .coreReset c => Sys2Proof.Machine.execCoreReset c s
  | .resetQuiesceEnd => Sys2Proof.Machine.execResetQuiesceEnd s
  | .scrubEnd => Sys2Proof.Machine.execScrubEnd s
  | .drcmdRead w sr => Sys2Proof.Machine.execDrcmdRead w sr s
  | .drcmdWrite w sr => Sys2Proof.Machine.execDrcmdWrite w sr s
  | .dregselWrite w sr => Sys2Proof.Machine.execDregselWrite w sr s
  | .trdata0Read w d => Sys2Proof.Machine.execTrdata0Read w d s
  | .bypass die tdi => Sys2Proof.Machine.execBypass die tdi s
  | .idcode die => Sys2Proof.Machine.execIdcode die s
  | .samplePreload die pins => Sys2Proof.Machine.execSamplePreload die pins s
  | .extest die enter => Sys2Proof.Machine.execExtest die enter s
  | .bootStat die => Sys2Proof.Machine.execBootStat die s
  | .flashProg die off page => Sys2Proof.Machine.execFlashProg die off page s
  | .flashRead die off len => Sys2Proof.Machine.execFlashRead die off len s
  | .registerWrite blk off v => Sys2Proof.Machine.execRegisterWrite blk off v s
  | .matrixComputeEnd c => Sys2Proof.Machine.execMatrixComputeEnd c s
  | .stationaryLoadEnd c => Sys2Proof.Machine.execStationaryLoadEnd c s
  | .referenceClockReturn => Sys2Proof.Machine.execReferenceClockReturn s
  | .overvoltageRelease => Sys2Proof.Machine.execOvervoltageRelease s
  | .slicePatrol b sl line ecc => Sys2Proof.Machine.execSlicePatrol b sl line ecc s
  | .perBankRefresh sub bank => Sys2Proof.Machine.execPerBankRefresh sub bank s
  | .ubtPacketSend u => Sys2Proof.Machine.execUbtPacketSend u s
  | .ubtRateRise u => Sys2Proof.Machine.execUbtRateRise u s
  | .unsupportedFrame p => Sys2Proof.Machine.execUnsupportedFrame p s

end Sys2Proof.Machine
end

