-- ==== Sys2Proof/Safety.lean ====
section
/-!
DEFINITION. What counts as a safe state, in the terms claims use.
-/

namespace Sys2Proof.Safety

open Sys2Proof.Machine

/-- The memory stands in its one canonical form. -/
def MemCanonical (s : State) : Prop := Memory.wf s.mem = true

/-- A step ends in a state, neither in a fault nor in a refusal. -/
def Completes (s : State) : Prop := ∃ t, step s = .next t

end Sys2Proof.Safety
end

