-- ==== Sys2Proof/WellFormed.lean ====
section
/-!
DEFINITION. Which commands are well-formed: the lengths of the lists a command carries, and the ranges of its numbers.
-/

namespace Sys2Proof

/-- A scarf block is 64 bytes (R338). -/
def Block.ok (b : Block) : Bool := b.bytes.length == 64

/-- A datagram's payload fits a frame of at most 9,216 bytes (R368). -/
def Dgram.ok (d : Dgram) : Bool := d.payload.length ≤ 9216

/-- The command's lists have the lengths, and its numbers the ranges, that its rule gives. -/
def wellFormed : Instr → Bool
  | .ident _ b | .idle _ b | .flitBlock _ b | .nak _ b | .time _ b | .drawbore _ b | .dreset _ b | .snap _ b => b.ok
  | .open_ d | .close d | .cmd d | .tmpAck d | .discover d | .ubtWrite d | .readReq d | .readResp d | .ubtAck d
  | .ubtNak d => d.ok
  -- one sample of each bent, plate and the Ridge (R426)
  | .temperatureSample ts => ts.length == 51
  -- one sample of each of the 16 rail channels (R432)
  | .senseSample uv ua => uv.length == 16 && ua.length == 16
  -- a 64-byte page (R477) inside 64 MiB of flash (R452)
  | .flashProg _ off page => decide (off < 0x4000000) && (match page with | some p => p.length == 64 | none => true)
  | .flashRead _ off len => decide (off + len ≤ 0x4000000)
  -- a line of the 39-bit physical address space (R397)
  | .patrolRead _ line _ => decide (line < 2 ^ 33)
  | _ => true

end Sys2Proof
end

