-- ==== Sys2Proof/Certificates/Slice0/Obligations.lean ====
section
/-!
DEFINITION. The statements for the provers, with the predicates they are written in. `Sys2Proof.Claims` holds the predicates;
each `Obligations.<Name>` is one statement, and its docstring names the rules it formalises.
-/

namespace Sys2Proof.Claims

open Sys2Proof Sys2Proof.Machine

/-! ### What a command answers -/

/-- The command answers a next state, and that state satisfies `P`. -/
def Yields (i : Instr) (s : State) (P : State → Prop) : Prop := ∃ t, exec i s = .next t ∧ P t

/-- The command answers a next state that differs from `s` in its hardware part alone, which satisfies `P`. -/
def Acts (i : Instr) (s : State) (P : Hw → Prop) : Prop := ∃ h, exec i s = .next { s with hw := h } ∧ P h

/-! ### A thread issues an instruction (R131, R137, R154, R157, R159, R182, R192) -/

/-- The hardware in the slot in which thread `w` issues next: what takes hold before that slot has done so. It issues in the first of its
slots in which it is RUNNING in a core that runs, holds no exception to enter, has no interrupt to take first and is in no stall that
ends by an event of its own. -/
def slot (w : Who) (s : State) : Hw := (s.hw.nextSlot w).getD s.hw

/-- The PC of the word that a thread fetches: the second word of a pair when a prefix waits. -/
def wordPc (th : Thread) : BitVec 20 := if th.pfx.isSome then th.pc + 4 else th.pc

/-- Thread `w` has a slot in which it issues, and does not issue as the second word of a pair (R159); `p` is the prefix that waits there;
and the word lies in an executable segment of the instruction memory. -/
structure Ready (w : Who) (p : Option (BitVec 26)) (s : State) : Prop where
  issues : (s.hw.nextSlot w).isSome = true
  alone : s.hw.pairOpen w = false
  pfx : ((slot w s).thread w).pfx = p
  inside : (wordPc ((slot w s).thread w)).toNat < imemSize w.core
  execute : ((slot w s).core w.core).isegx.getLsbD ((wordPc ((slot w s).thread w)).toNat / segSize w.core) = true

/-- As `Ready`, for a thread whose instruction is not a SEND that has waited for a credit. -/
structure Issues (w : Who) (p : Option (BitVec 26)) (s : State) : Prop extends Ready w p s where
  unsent : ((slot w s).thread w).stall ≠ some .credit

/-- CYCLE of the core in the slot in which the instruction issues. -/
def issueCycle (w : Who) (s : State) : Nat := (slot w s).cycle w.core

/-- What the end of an instruction of a form after `n` slots leaves of its thread: the PC stands behind its words, unless it is the first
word of a pair, whose second word issues in the same slot (R159). -/
def ended (w : Who) (f : Form) (p : Option (BitVec 26)) (n : Nat) (s : State) (th : Thread) : Thread :=
  if (slot w s).isFirst w f s.mem then th.settleFirst (issueCycle w s) n f
  else th.finish (if p.isSome then 2 else 1) (Max.max th.nextIssue (issueCycle w s + 4 * n))

/-- Of a core, everything but its threads and what the stillness detector notes (R261, R262) is as it was. -/
def SameCore (k l : Core) : Prop := { k with threads := l.threads, still := l.still, stillFrom := l.stillFrom } = l

/-- The instruction of thread `w` has completed after `n` slots with the effect `g` on its thread and no other: every other thread, core,
memory byte and waiting command is as it was in the slot. Of the core, only the thread, the detected stillness and the mortises may
differ. -/
structure Ran (w : Who) (p : Option (BitVec 26)) (n : Nat) (g : Thread → Thread) (s : State) (f : Form) (t : State) : Prop where
  thread : t.hw.thread w = ended w f p n s (g ((slot w s).thread w))
  threads : ∀ u, u ≠ w.thread → (t.hw.core w.core).thread u = ((slot w s).core w.core).thread u
  core : SameCore { t.hw.core w.core with mortises := ((slot w s).core w.core).mortises } ((slot w s).core w.core)
  cores : ∀ c : CoreId, c ≠ w.core → t.hw.core c = (slot w s).core c
  clock : t.hw.clock = (slot w s).clock
  mem : t.mem = s.mem
  pending : t.pending = s.pending

/-- The instruction answers a next state of which `R` holds for its form. -/
def Runs (i : Instr) (s : State) (R : Form → State → Prop) : Prop := Yields i s (R (formOf i))

/-- As `Ran`, for an instruction that ends with the thread as `g` leaves it (a jump, an exception found, a stall). -/
structure Left (w : Who) (g : Thread → Thread) (s t : State) : Prop where
  thread : t.hw.thread w = g ((slot w s).thread w)
  threads : ∀ u, u ≠ w.thread → (t.hw.core w.core).thread u = ((slot w s).core w.core).thread u
  core : SameCore (t.hw.core w.core) ((slot w s).core w.core)
  cores : ∀ c : CoreId, c ≠ w.core → t.hw.core c = (slot w s).core c
  clock : t.hw.clock = (slot w s).clock
  mem : t.mem = s.mem
  pending : t.pending = s.pending

/-- The thread has found an exception and issues no further (R196). -/
def found (w : Who) (s : State) (e : Exc) (th : Thread) : Thread :=
  { th with found := some { e with at_ := issueCycle w s }, stall := none, pfx := none, pair := none, nextIssue := issueCycle w s + 4 }

/-- The thread stalls at its instruction (R157, R158). -/
def stalled (w : Who) (s : State) (r : Stall) (on : Nat) (th : Thread) : Thread :=
  { th with stall := some r, stallOn := on, pair := none, nextIssue := Max.max th.nextIssue (issueCycle w s + 4) }

/-- The thread has jumped (R152). -/
def jumped (w : Who) (s : State) (pc : BitVec 20) (th : Thread) : Thread :=
  Thread.boundary { th with pc := pc, stall := none, pfx := none, pair := none, nextIssue := Max.max th.nextIssue (issueCycle w s + 4) }

/-! ### Source operands (R141, R145, R150, R151) -/

/-- `y` is the value of the second source: of dB, or of word 0 of the entry at the head of a mortise that is not a stream
entry. -/
def SourceValue (w : Who) (s : State) (y : W64) : Src → Prop
  | .reg r => y = ((slot w s).thread w).getD r
  | .mort m => ∃ k : Fin 16, k.val = m.val ∧
      ∃ e rest, ((slot w s).core w.core).mortises[k] = e :: rest ∧ e.stream = false ∧ y = e.words.headD 0

/-! ### Flags (R139) -/

/-- The flags of the sum r of x, y and a carry c. -/
def sumFlags {n : Nat} (x y r : BitVec n) (c : Nat) : Flags :=
  { z := decide (r.toNat = 0), n := r.getLsbD (n - 1), c := decide (2 ^ n ≤ x.toNat + y.toNat + c)
    v := decide (x.toInt + y.toInt + c ≠ r.toInt) }

/-- The flags of the difference r of x, y and a borrow c: C is 1 when no borrow occurs. -/
def diffFlags {n : Nat} (x y r : BitVec n) (c : Nat) : Flags :=
  { z := decide (r.toNat = 0), n := r.getLsbD (n - 1), c := decide (y.toNat + c ≤ x.toNat)
    v := decide (x.toInt - y.toInt - c ≠ r.toInt) }

/-- Z and N of a result, C and V as they stood. -/
def resultFlags {n : Nat} (f : Flags) (r : BitVec n) : Flags :=
  { z := decide (r.toNat = 0), n := r.getLsbD (n - 1), c := f.c, v := f.v }

/-- The carry flag as a number. -/
def carry (th : Thread) : Nat := if th.fc then 1 else 0

/-- The value and flags an instruction leaves in dD. -/
def leaves (d : Fin 32) (r : W64) (f : Flags) (th : Thread) : Thread := (th.setD d r).setFlags f

/-! ### Immediates (R136, R143) -/

/-- The 32 bits of a prefixed immediate: 26 of the PFX above 6 of the field. -/
def pairBits {n : Nat} (hi : BitVec 26) (f : BitVec n) : W32 := BitVec.ofNat 32 (64 * hi.toNat + f.toNat % 64)

/-- `y` is the sign-extended immediate of a field, prefixed or not; a prefixed field has no bit above 5. -/
def SignedImm {n : Nat} (p : Option (BitVec 26)) (f : BitVec n) (y : W64) : Prop :=
  match p with
  | none => y.toInt = f.toInt
  | some hi => f.toNat < 64 ∧ y.toInt = (pairBits hi f).toInt

/-- `y` is the zero-extended immediate of a field, prefixed or not. -/
def UnsignedImm {n : Nat} (p : Option (BitVec 26)) (f : BitVec n) (y : W64) : Prop :=
  match p with
  | none => y.toNat = f.toNat
  | some hi => f.toNat < 64 ∧ y.toNat = (pairBits hi f).toNat

end Sys2Proof.Claims

open Sys2Proof Sys2Proof.Machine Sys2Proof.Claims

/-! ### Scalar instructions -/

/-- R141, R139: ADD, ADC, SUB, SBC, CMP and NEG, with either source, and their flags. -/
def Obligations.SumsAndDifferences : Prop :=
  ∀ (w : Who) (d a : Fin 32) (b : Src) (y : W64) (s : State), Issues w none s → SourceValue w s y b →
    let x := ((slot w s).thread w).getD a
    let c := carry ((slot w s).thread w)
    let r := fun (n : Int) => BitVec.ofInt 64 n
    Runs (.add w d a b) s (Ran w none 1 (leaves d (r (x.toInt + y.toInt)) (sumFlags x y (r (x.toInt + y.toInt)) 0)) s) ∧
    Runs (.adc w d a b) s
      (Ran w none 1 (leaves d (r (x.toInt + y.toInt + c)) (sumFlags x y (r (x.toInt + y.toInt + c)) c)) s) ∧
    Runs (.sub w d a b) s (Ran w none 1 (leaves d (r (x.toInt - y.toInt)) (diffFlags x y (r (x.toInt - y.toInt)) 0)) s) ∧
    Runs (.sbc w d a b) s
      (Ran w none 1 (leaves d (r (x.toInt - y.toInt - (1 - c))) (diffFlags x y (r (x.toInt - y.toInt - (1 - c))) (1 - c))) s) ∧
    Runs (.cmp w a b) s (Ran w none 1 (fun th => th.setFlags (diffFlags x y (r (x.toInt - y.toInt)) 0)) s) ∧
    Runs (.neg w d a) s (Ran w none 1 (leaves d (r (-x.toInt)) (diffFlags 0 x (r (-x.toInt)) 0)) s)

/-- R141, R139, R140: AND, OR, XOR, ANDN, NOT, TST, MOV and SEL, bit by bit. -/
def Obligations.LogicMovesAndSelect : Prop :=
  ∀ (w : Who) (d a : Fin 32) (b : Src) (cond : BitVec 4) (y : W64) (s : State), Issues w none s → SourceValue w s y b →
    let x := ((slot w s).thread w).getD a
    let f := ((slot w s).thread w).flags
    let keep := fun (i : Instr) (g : Bool → Bool → Bool) =>
      ∃ r : W64, (∀ k < 64, r.getLsbD k = g (x.getLsbD k) (y.getLsbD k)) ∧
        Runs i s (Ran w none 1 (leaves d r (resultFlags f r)) s)
    keep (.and w d a b) and ∧ keep (.or w d a b) or ∧ keep (.xor w d a b) xor ∧
    keep (.andn w d a b) (fun p q => p && !q) ∧ keep (.not w d a) (fun p _ => !p) ∧
    Runs (.aluTst w a b) s (Ran w none 1 (fun th => th.setFlags (resultFlags f (x &&& y))) s) ∧
    Runs (.mov w d b) s (Ran w none 1 (fun th => th.setD d y) s) ∧
    (cond ≠ 0xF → Runs (.sel w d a b cond) s
      (Ran w none 1 (fun th => th.setD d (if condHolds f cond then x else y)) s))

/-- R141, R142, R143: the shifts and rotates by a register, a mortise or an immediate; the carry is the last bit shifted
out, and an amount of 0 leaves it. -/
def Obligations.ShiftsAndRotates : Prop :=
  ∀ (w : Who) (d a : Fin 32) (b : Src) (amt : BitVec 6) (y : W64) (s : State), Issues w none s → SourceValue w s y b →
    let x := ((slot w s).thread w).getD a
    let f := ((slot w s).thread w).flags
    let out := fun (n : Nat) (k : Nat) => if n = 0 then f.c else x.getLsbD k
    let shl := fun (i : Instr) (n : Nat) => Runs i s (Ran w none 1 (fun th =>
      leaves d (x <<< n) { resultFlags f (x <<< n) with c := out n (64 - n) } th) s)
    let shr := fun (i : Instr) (n : Nat) => Runs i s (Ran w none 1 (fun th =>
      leaves d (x >>> n) { resultFlags f (x >>> n) with c := out n (n - 1) } th) s)
    let sar := fun (i : Instr) (n : Nat) => Runs i s (Ran w none 1 (fun th =>
      leaves d (x.sshiftRight n) { resultFlags f (x.sshiftRight n) with c := out n (n - 1) } th) s)
    let ror := fun (i : Instr) (n : Nat) => ∃ r : W64, (∀ k < 64, r.getLsbD k = x.getLsbD ((k + n) % 64)) ∧
      Runs i s (Ran w none 1 (fun th =>
        leaves d r { resultFlags f r with c := if n = 0 then f.c else r.getLsbD 63 } th) s)
    shl (.shl w d a b) (y.toNat % 64) ∧ shr (.shr w d a b) (y.toNat % 64) ∧ sar (.sar w d a b) (y.toNat % 64) ∧
    ror (.ror w d a b) (y.toNat % 64) ∧
    shl (.shli w d a amt) amt.toNat ∧ shr (.shri w d a amt) amt.toNat ∧ sar (.sari w d a amt) amt.toNat ∧
    ror (.rori w d a amt) amt.toNat

/-- R141, R142, R157: the products, and the quotients and remainders by a divisor other than 0, which take 17 slots, on
a peg core 3. -/
def Obligations.ProductsAndQuotients : Prop :=
  ∀ (w : Who) (d a : Fin 32) (b : Src) (y : W64) (s : State), Issues w none s → SourceValue w s y b →
    let x := ((slot w s).thread w).getD a
    let f := ((slot w s).thread w).flags
    let n := if 40 ≤ w.core.val % 44 then 3 else 17
    let r := fun (v : Int) => BitVec.ofInt 64 v
    let tooBig := decide (x.toInt = -(2 ^ 63) ∧ y.toInt = -1)
    let p := x.toInt * y.toInt
    Runs (.mul w d a b) s (Ran w none 1 (leaves d (r p) { resultFlags f (r p) with v := decide ((r p).toInt ≠ p) }) s) ∧
    Runs (.mulh w d a b) s (Ran w none 1 (leaves d (r (p / 2 ^ 64)) (resultFlags f (r (p / 2 ^ 64)))) s) ∧
    Runs (.mulhu w d a b) s
      (let q := BitVec.ofNat 64 (x.toNat * y.toNat / 2 ^ 64); Ran w none 1 (leaves d q (resultFlags f q)) s) ∧
    (y ≠ 0 →
      Runs (.div w d a b) s
        (let q := r (x.toInt.tdiv y.toInt); Ran w none n (leaves d q { resultFlags f q with v := tooBig }) s) ∧
      Runs (.rem w d a b) s
        (let q := r (x.toInt.tmod y.toInt); Ran w none n (leaves d q { resultFlags f q with v := tooBig }) s) ∧
      Runs (.divu w d a b) s
        (let q := BitVec.ofNat 64 (x.toNat / y.toNat); Ran w none n (leaves d q (resultFlags f q)) s) ∧
      Runs (.remu w d a b) s
        (let q := BitVec.ofNat 64 (x.toNat % y.toNat); Ran w none n (leaves d q (resultFlags f q)) s))

/-- R141: the minima and maxima, the counts of leading zeros, trailing zeros and ones, and the extensions of a byte,
half or word. -/
def Obligations.ExtremaCountsAndExtensions : Prop :=
  ∀ (w : Who) (d a : Fin 32) (b : Src) (size : BitVec 4) (y : W64) (s : State), Issues w none s → SourceValue w s y b →
    let x := ((slot w s).thread w).getD a
    let f := ((slot w s).thread w).flags
    let gives := fun (i : Instr) (P : W64 → Prop) =>
      ∃ r : W64, P r ∧ Runs i s (Ran w none 1 (leaves d r (resultFlags f r)) s)
    gives (.min w d a b) (fun r => r.toInt = Min.min x.toInt y.toInt) ∧
    gives (.max w d a b) (fun r => r.toInt = Max.max x.toInt y.toInt) ∧
    gives (.minu w d a b) (fun r => r.toNat = Min.min x.toNat y.toNat) ∧
    gives (.maxu w d a b) (fun r => r.toNat = Max.max x.toNat y.toNat) ∧
    gives (.clz w d a) (fun r => r.toNat ≤ 64 ∧ (∀ k < r.toNat, x.getLsbD (63 - k) = false) ∧
      (r.toNat < 64 → x.getLsbD (63 - r.toNat) = true)) ∧
    gives (.ctz w d a) (fun r => r.toNat ≤ 64 ∧ (∀ k < r.toNat, x.getLsbD k = false) ∧
      (r.toNat < 64 → x.getLsbD r.toNat = true)) ∧
    gives (.popc w d a) (fun r => r.toNat = ((List.range 64).filter (fun k => x.getLsbD k)).length) ∧
    (size.toNat ≤ 2 →
      let n := 8 * 2 ^ size.toNat
      gives (.sext w d a size) (fun r => ∀ k < 64, r.getLsbD k = x.getLsbD (Min.min k (n - 1))) ∧
      gives (.zext w d a size) (fun r => ∀ k < 64, r.getLsbD k = (decide (k < n) && x.getLsbD k)))

/-- R150, R151, R244, R249: an operand from a mortise removes the whole head entry, whose credit travels back to the tenon that
sent it; shown for ADD, MUL and MOV. -/
def Sys2Proof.Claims.MortiseOperandsPopTheirEntry : Prop :=
  ∀ (w : Who) (d a : Fin 32) (m : Fin 32) (k : Fin 16) (e : Entry) (rest : List Entry) (s : State),
    Issues w none s → k.val = m.val → ((slot w s).core w.core).mortises[k] = e :: rest → e.stream = false →
    ∀ i ∈ [Instr.add w d a (.mort m), Instr.mul w d a (.mort m), Instr.mov w d (.mort m)],
      Acts i s (fun h =>
        (h.core w.core).mortises = ((slot w s).core w.core).mortises.set k rest ∧
        (∀ c n ep, e.credit = .tenon c n ep → ∃ fl, h.credits = (slot w s).credits ++
          [{ core := c, tenon := n, epoch := ep, due := h.clock + tupleLatency w.core c, source := some w.core, flit := fl }]) ∧
        (∀ p, e.credit = .plate p → h.credits = (slot w s).credits ∧ ∃ fl, h.plateCredits = (slot w s).plateCredits ++
          [{ plate := p, core := w.core, mort := k, due := h.clock + 8 + meshTime (bentOf w.core) (plateRouter p), flit := fl }]))

/-- The instructions with a second source. -/
def Sys2Proof.Claims.withSource (w : Who) (d a : Fin 32) (acc : Fin 4) (b : Src) : List Instr :=
  [.add w d a b, .adc w d a b, .sub w d a b, .sbc w d a b, .cmp w a b, .and w d a b, .or w d a b, .xor w d a b,
   .andn w d a b, .aluTst w a b, .shl w d a b, .shr w d a b, .sar w d a b, .ror w d a b, .mul w d a b, .mulh w d a b,
   .mulhu w d a b, .div w d a b, .divu w d a b, .rem w d a b, .remu w d a b, .min w d a b, .max w d a b, .minu w d a b,
   .maxu w d a b, .mov w d b, .sel w d a b 0xE, .mac w acc a b, .macs w acc a b, .msu w acc a b, .msus w acc a b]

/-- R89, R141, R145, R151: a mortise operand that is empty stalls the thread, a stream entry raises STREAM_ENTRY, a reserved
mortise number ILLEGAL; each leaves every register, mortise and flag as it was. -/
def Sys2Proof.Claims.MortiseOperandsThatDoNotComplete : Prop :=
  ∀ (w : Who) (d a : Fin 32) (acc : Fin 4) (m : Fin 32) (s : State), Issues w none s →
    ∀ i ∈ withSource w d a acc (.mort m),
      (∀ k : Fin 16, k.val = m.val → ((slot w s).core w.core).mortises[k] = [] → ((slot w s).thread w).stopReq = false → Yields i s (Left w (stalled w s .mortise k) s)) ∧
      (∀ (k : Fin 16) (e : Entry) (rest : List Entry), k.val = m.val → ((slot w s).core w.core).mortises[k] = e :: rest →
        e.stream = true → Yields i s (Left w (found w s { code := 0x22, epc := ((slot w s).thread w).pc }) s)) ∧
      (16 ≤ m.val → Yields i s (Left w (found w s { code := 0x01, epc := ((slot w s).thread w).pc }) s))

/-- R142, R151, R156: a zero divisor raises DIV_ZERO, has no other effect and pops no mortise. -/
def Sys2Proof.Claims.ZeroDivisorRaisesDivZero : Prop :=
  ∀ (w : Who) (d a : Fin 32) (b : Src) (s : State), Issues w none s → SourceValue w s 0 b →
    ∀ i ∈ [Instr.div w d a b, Instr.divu w d a b, Instr.rem w d a b, Instr.remu w d a b],
      Yields i s (Left w (found w s { code := 0x0A, epc := ((slot w s).thread w).pc }) s)

/-- R89, R141, R142, R145, R150, R151, R156, R244, R249: a mortise operand pops its entry and returns its credit; an
empty mortise, a stream entry, a reserved number and a zero divisor each leave everything as it was. The model's choices
it rests on: log entry 80. -/
def Obligations.MortiseOperandsAndZeroDivisors : Prop :=
  MortiseOperandsPopTheirEntry ∧ MortiseOperandsThatDoNotComplete ∧ ZeroDivisorRaisesDivZero

/-- R136, R143: the immediate instructions, prefixed or not. -/
def Obligations.ImmediateInstructions : Prop :=
  ∀ (w : Who) (p : Option (BitVec 26)) (d a : Fin 32) (imm : BitVec 16) (y z : W64) (s : State), Issues w p s →
    SignedImm p imm y → UnsignedImm p imm z →
    let x := ((slot w s).thread w).getD a
    let f := ((slot w s).thread w).flags
    Runs (.addi w d a imm) s (Ran w p 1 (leaves d (x + y) (sumFlags x y (x + y) 0)) s) ∧
    Runs (.cmpi w a imm) s (Ran w p 1 (fun th => th.setFlags (diffFlags x y (x - y) 0)) s) ∧
    Runs (.andi w d a imm) s (Ran w p 1 (leaves d (x &&& z) (resultFlags f (x &&& z))) s) ∧
    Runs (.ori w d a imm) s (Ran w p 1 (leaves d (x ||| z) (resultFlags f (x ||| z))) s) ∧
    Runs (.xori w d a imm) s (Ran w p 1 (leaves d (x ^^^ z) (resultFlags f (x ^^^ z))) s) ∧
    Runs (.li w d imm) s (Ran w p 1 (fun th => th.setD d y) s) ∧
    Runs (.lih w d imm) s (Ran w p 1 (fun th =>
      th.setD d (BitVec.ofNat 64 ((th.getD d).toNat % 2 ^ 32 + y.toNat % 2 ^ 32 * 2 ^ 32))) s)

/-- R136, R144: the address register instructions; sums and differences are taken modulo 2^48. -/
def Sys2Proof.Claims.AddressRegisterInstructions : Prop :=
  ∀ (w : Who) (p : Option (BitVec 26)) (e a b : Fin 16) (d : Fin 32) (imm : BitVec 16) (sh : BitVec 3) (y z : W64) (s : State),
    SignedImm p imm y → UnsignedImm p imm z →
    let th0 := (slot w s).thread w
    (Issues w p s →
      Runs (.adda w e a imm) s (Ran w p 1 (fun th =>
        th.setA e (BitVec.ofInt 48 ((th0.getA a).toNat + y.toInt))) s) ∧
      Runs (.lia w e imm) s (Ran w p 1 (fun th => th.setA e (BitVec.ofNat 48 z.toNat)) s)) ∧
    (Issues w none s →
      Runs (.addar w e a d sh) s (Ran w none 1 (fun th =>
        th.setA e (BitVec.ofNat 48 ((th0.getA a).toNat + (th0.getD d).toNat * 2 ^ sh.toNat))) s) ∧
      Runs (.suba w d a b) s (Ran w none 1 (fun th =>
        th.setD d (BitVec.ofInt 64 (th0.getA a - th0.getA b).toInt)) s) ∧
      Runs (.movad w e d) s (Ran w none 1 (fun th => th.setA e (BitVec.ofNat 48 (th0.getD d).toNat)) s) ∧
      Runs (.movda w d a) s (Ran w none 1 (fun th => th.setD d (BitVec.ofNat 64 (th0.getA a).toNat)) s) ∧
      Runs (.liah w e imm) s (Ran w none 1 (fun th =>
        th.setA e (BitVec.ofNat 48 ((th0.getA e).toNat % 2 ^ 32 + imm.toNat * 2 ^ 32))) s) ∧
      Runs (.cmpa w a b) s (Ran w none 1 (fun th =>
        th.setFlags (diffFlags (th0.getA a) (th0.getA b) (th0.getA a - th0.getA b) 0)) s))

/-- R145: the accumulator instructions; the wrapping forms keep 72 bits, the saturating forms clamp, and V says that the exact
result did not fit. -/
def Sys2Proof.Claims.AccumulatorInstructions : Prop :=
  ∀ (w : Who) (r : Fin 4) (a : Fin 32) (b : Src) (sh : BitVec 6) (y : W64) (s : State), Issues w none s → SourceValue w s y b →
    let th0 := (slot w s).thread w
    let f := th0.flags
    let p := (BitVec.ofNat 32 (th0.getD a).toNat).toInt * (BitVec.ofNat 32 y.toNat).toInt
    let fits := fun (n : Nat) (v : Int) => -(2 ^ (n - 1)) ≤ v ∧ v < 2 ^ (n - 1)
    let clamp := fun (n : Nat) (v : Int) => Max.max (-(2 ^ (n - 1))) (Min.min (2 ^ (n - 1) - 1) v)
    let acc := fun (i : Instr) (v : Int) (sat : Bool) => ∃ x : BitVec 72, x = BitVec.ofInt 72 (if sat then clamp 72 v else v) ∧
      Runs i s (Ran w none 1 (fun th =>
        (th.setAcc r x).setFlags { resultFlags f x with v := !decide (fits 72 v) }) s)
    let old := (th0.getAcc r).toInt
    acc (.mac w r a b) (old + p) false ∧ acc (.macs w r a b) (old + p) true ∧
    acc (.msu w r a b) (old - p) false ∧ acc (.msus w r a b) (old - p) true ∧
    Runs (.acclr w r) s (Ran w none 1 (fun th => th.setAcc r 0) s) ∧
    Runs (.accwr w r a) s (Ran w none 1 (fun th => th.setAcc r (BitVec.ofInt 72 (th0.getD a).toInt)) s) ∧
    (let v := old / 2 ^ sh.toNat
     let x : W64 := BitVec.ofInt 64 v
     let c : W64 := BitVec.ofInt 64 (clamp 64 v)
     Runs (.accrd w a r sh) s (Ran w none 1 (leaves a x (resultFlags f x)) s) ∧
     Runs (.accrds w a r sh) s (Ran w none 1 (leaves a c { resultFlags f c with v := !decide (fits 64 v) }) s))

/-- R136, R144, R145: the address register instructions, modulo 2^48, and the accumulator instructions, wrapping or
saturating. -/
def Obligations.AddressAndAccumulatorInstructions : Prop :=
  Sys2Proof.Claims.AddressRegisterInstructions ∧ Sys2Proof.Claims.AccumulatorInstructions

/-! ### Loads, stores, fences and control transfer -/

namespace Sys2Proof.Claims

/-- `a` is the address of a load or store, modulo 2^48 (R146): aB plus the sign-extended offset, prefixed or not, or aB plus a
scaled index register. -/
def Addresses (th : Thread) (b : Fin 16) (p : Option (BitVec 26)) (off : Offset) (a : Nat) : Prop :=
  match off with
  | .off o => ∃ y : W64, SignedImm p o y ∧ (a : Int) = ((th.getA b).toNat + y.toInt) % 2 ^ 48
  | .idx d sh => p = none ∧ a = ((th.getA b).toNat + (th.getD d).toNat * 2 ^ sh.toNat) % 2 ^ 48

/-- A thread's scalar and vector accesses reach `n` bytes at address `a` of its core's own scratchpad, a joist core from 0x180000 up, at
location `loc` (R147, R216). -/
def InScratch (w : Who) (a n loc : Nat) : Prop :=
  a + n ≤ spadSize w.core ∧ (w.core.val % 44 < 32 → 0x180000 ≤ a) ∧ loc = locScratch w.core a

/-- No access of slot 3 of the present frame of the core's scratchpad has been made yet (R217). -/
def FrameOpen (w : Who) (s : State) : Prop :=
  ∀ x ∈ (((slot w s).core w.core).frameLog (issueCycle w s)).acts, x.slot ≤ 2

/-- `n` bytes at address `a` lie in Ridge SRAM, which supervisor mode reaches (R147). -/
def InRidge (w : Who) (s : State) (a n : Nat) : Prop :=
  0x004000000000 ≤ a ∧ a + n ≤ 0x004001000000 ∧ ((slot w s).thread w).mode = true

/-- As `Ran`, for an access of the scratchpad, which the core's frame notes (R217). -/
structure Accessed (w : Who) (p : Option (BitVec 26)) (g : Thread → Thread) (s : State) (f : Form) (t : State) : Prop where
  thread : t.hw.thread w = ended w f p 1 s (g ((slot w s).thread w))
  threads : ∀ u, u ≠ w.thread → (t.hw.core w.core).thread u = ((slot w s).core w.core).thread u
  core : SameCore { t.hw.core w.core with frame := ((slot w s).core w.core).frame } ((slot w s).core w.core)
  cores : ∀ c : CoreId, c ≠ w.core → t.hw.core c = (slot w s).core c
  clock : t.hw.clock = (slot w s).clock
  pending : t.pending = s.pending

/-- A load from Ridge SRAM has been asked for: its thread stalls, its bytes are those of its issue, and they are on their way, no earlier
than a round trip to the Ridge after it (R148, R279). -/
structure Asked (w : Who) (n loc : Nat) (dest : LoadDest) (words : Nat) (s t : State) : Prop where
  stall : (t.hw.thread w).stall = some .load
  pc : (t.hw.thread w).pc = ((slot w s).thread w).pc
  regs : (t.hw.thread w).d = ((slot w s).thread w).d ∧ (t.hw.thread w).a = ((slot w s).thread w).a ∧
    (t.hw.thread w).v = ((slot w s).thread w).v
  load : (t.hw.core w.core).loads[w.thread] =
    some { dest := dest, pieces := [(loc, n)], got := [(0, memReadN loc n s.mem)], uncached := true, words := words }
  due : ∃ x ∈ t.hw.later, x.2 = .load w (memReadN loc n s.mem) ∧ (slot w s).clock + 180 ≤ x.1
  mem : t.mem = s.mem
  pending : t.pending = s.pending

/-- Bit `j` of the bytes from a location up. -/
def memBit (loc j : Nat) (m : Mem) : Bool := (memRead (loc + j / 8) m).getLsbD (j % 8)

/-- The bytes `k < n` from `loc` up hold the little-endian bits of a value, and every other byte is as it was. -/
def Stored (loc n : Nat) (bit : Nat → Bool) (m m' : Mem) : Prop :=
  (∀ j < 8 * n, memBit loc j m' = bit j) ∧ (∀ a, (a < loc ∨ loc + n ≤ a) → memRead a m' = memRead a m)

end Sys2Proof.Claims

/-- R146, R147, R148, R177: LD of every size, LDA and VLD from the scratchpad read its bytes; memory is as it was. -/
def Sys2Proof.Claims.ScratchpadLoadsReadTheirBytes : Prop :=
  ∀ (w : Who) (p : Option (BitVec 26)) (d : Fin 32) (e b : Fin 16) (sz : BitVec 3) (off : Offset) (o : BitVec 12) (u : Bool)
    (a n loc : Nat) (s : State), Issues w p s → InScratch w a n loc → FrameOpen w s →
    let th := (slot w s).thread w
    (sz ≠ 7 → n = 2 ^ (sz.toNat / 2) → a % n = 0 → Addresses th b p off a →
      ∃ r : W64, (∀ j < 64, r.getLsbD j =
          (if j < 8 * n then memBit loc j s.mem else decide (sz.toNat % 2 = 0) && memBit loc (8 * n - 1) s.mem)) ∧
        Runs (.ld w d sz b off u) s (fun f t => Accessed w p (fun th => th.setD d r) s f t ∧ t.mem = s.mem)) ∧
    (n = 8 → a % 8 = 0 → Addresses th b p off a →
      ∃ r : W48, (∀ j < 48, r.getLsbD j = memBit loc j s.mem) ∧
        Runs (.lda w e 6 b off u) s (fun f t => Accessed w p (fun th => th.setA e r) s f t ∧ t.mem = s.mem)) ∧
    (n = vecBits w.core / 8 → a % n = 0 → Addresses th b p (.off o) a →
      ∃ r : BitVec 2048, (∀ j < 2048, r.getLsbD j = (decide (j < 8 * n) && memBit loc j s.mem)) ∧
        Runs (.vld w d b o u) s
          (fun f t => Accessed w p (fun th => { th with v := th.v.set d r }) s f t ∧ t.mem = s.mem))

/-- R148, R157, R279: LD, LDA and VLD from Ridge SRAM are asked for, and their data, when it has come, is written to the register and
ends the instruction. -/
def Sys2Proof.Claims.RidgeLoadsWaitForTheirBytes : Prop :=
  (∀ (w : Who) (p : Option (BitVec 26)) (d : Fin 32) (e b : Fin 16) (sz : BitVec 3) (off : Offset) (o : BitVec 12) (u : Bool)
    (a n : Nat) (s : State), Issues w p s → ((slot w s).thread w).stopReq = false → InRidge w s a n →
    let th := (slot w s).thread w
    let words := if p.isSome then 2 else 1
    (sz ≠ 7 → n = 2 ^ (sz.toNat / 2) → a % n = 0 → Addresses th b p off a →
      Yields (.ld w d sz b off u) s (Asked w n a (.d d n (sz.toNat % 2 == 0)) words s)) ∧
    (n = 8 → a % 8 = 0 → Addresses th b p off a → Yields (.lda w e 6 b off u) s (Asked w 8 a (.a e) words s)) ∧
    (n = vecBits w.core / 8 → a % n = 0 → Addresses th b p (.off o) a →
      Yields (.vld w d b o u) s (Asked w n a (.v d) words s))) ∧
  (∀ (w : Who) (bs : List Byte) (o : LoadOp) (h : Hw), (h.core w.core).loads[w.thread] = some o → (h.core w.core).frozenAt = none →
    (h.thread w).tstate = .running →
    let t := h.applyLater (.load w bs)
    t.thread w = ((h.thread w).writeLoad bs o.dest).finish o.words (Max.max (h.thread w).nextIssue (h.cycle w.core + 1)) ∧
      (t.core w.core).loads[w.thread] = none)

/-- R146, R147, R148, R157, R177, R217, R279: loads from the scratchpad and from Ridge SRAM. The model's choices it rests on: log
entries 2 and 85. -/
def Obligations.DirectLoadsReadTheirBytes : Prop := ScratchpadLoadsReadTheirBytes ∧ RidgeLoadsWaitForTheirBytes

/-- R146, R147, R177, R217, R290, R294: ST of 1, 2, 4 and 8 bytes, STA, VST and VSTN to the scratchpad write their bytes and no other; to
Ridge SRAM outside its windows also, and the thread then has one store more whose performance it does not know. The model's choices
it rests on: log entries 2, 11 and 85. -/
def Obligations.DirectStoresWriteTheirBytes : Prop :=
  ∀ (w : Who) (p : Option (BitVec 26)) (d : Fin 32) (e b : Fin 16) (sz : BitVec 3) (off : Offset) (o : BitVec 12) (v dn : Fin 32)
    (a n loc : Nat) (s : State), Issues w p s →
    (InScratch w a n loc ∧ FrameOpen w s) ∨
      (InRidge w s a n ∧ loc = a ∧ ∀ k < n, ridgeWord (a - 0x004000000000 + k) = .plain) →
    let th := (slot w s).thread w
    let quiet := fun (f : Form) (t : State) =>
      Accessed w p (fun th => if 0 < n ∧ 0x004000000000 ≤ a then { th with notices := th.notices + 1 } else th) s f t
    (sz.toNat % 2 = 0 → n = 2 ^ (sz.toNat / 2) → a % n = 0 → Addresses th b p off a →
      Runs (.st w d sz b off false) s
        (fun f t => quiet f t ∧ Stored loc n (fun j => (th.getD d).getLsbD j) s.mem t.mem)) ∧
    (n = 8 → a % 8 = 0 → Addresses th b p off a →
      Runs (.sta w e 6 b off false) s
        (fun f t => quiet f t ∧ Stored loc 8 (fun j => (th.getA e).getLsbD j) s.mem t.mem)) ∧
    (n = vecBits w.core / 8 → a % n = 0 → Addresses th b p (.off o) a →
      Runs (.vst w v b o) s (fun f t => quiet f t ∧ Stored loc n (fun j => th.v[v].getLsbD j) s.mem t.mem)) ∧
    (p = none → n = Min.min (th.getD dn).toNat (vecBits w.core / 8) → a % (vecBits w.core / 8) = 0 → a = (th.getA b).toNat →
      Runs (.vstn w v b dn) s (fun f t => quiet f t ∧ Stored loc n (fun j => th.v[v].getLsbD j) s.mem t.mem))

/-- R147, R156: a data access whose address is not a multiple of its size raises ALIGN, one that lies in no region
DATA_REGION, a Ridge access in user mode PRIV, a joist core's access below 0x180000 PORT_REACH; the access does not
happen. -/
def Obligations.DataAccessFaultsArePrecise : Prop :=
  ∀ (w : Who) (p : Option (BitVec 26)) (d : Fin 32) (b : Fin 16) (off : Offset) (u : Bool) (a : Nat) (s : State),
    Issues w p s → Addresses ((slot w s).thread w) b p off a →
    let fails := fun (code : Nat) =>
      ∀ i ∈ [Instr.ld w d 6 b off u, Instr.lda w 0 6 b off u, Instr.st w d 6 b off false, Instr.sta w 0 6 b off false],
        Yields i s (Left w (found w s { code := code, epc := ((slot w s).thread w).pc, eaddr := BitVec.ofNat 48 a }) s)
    (a % 8 ≠ 0 → fails 0x03) ∧
    (a % 8 = 0 → 0x80000000 ≤ a → a < 0x001000000000 → fails 0x04) ∧
    (a % 8 = 0 → 0x004000000000 ≤ a → a + 8 ≤ 0x004001000000 → ((slot w s).thread w).mode = false → fails 0x02) ∧
    (a % 8 = 0 → w.core.val % 44 < 32 → a < 0x180000 → fails 0x05)

/-- R232, R237: a load whose bytes lie in one cached line reads them from the line, counts one hit, makes the line the
most recently used and changes no byte of it. -/
def Obligations.CachedLoadsHitTheirLine : Prop :=
  ∀ (w : Who) (p : Option (BitVec 26)) (d : Fin 32) (b : Fin 16) (off : Offset) (a key : Nat) (l : CLine) (s : State),
    Issues w p s → Addresses ((slot w s).thread w) b p off a → a % 8 = 0 →
    0x40000000 ≤ a → a + 8 ≤ 0x80000000 →
    key = (0x001000000000 + (w.core.val / 44) * 0x40000000 + (a - 0x40000000)) / 64 →
    ((slot w s).core w.core).cinv = none → ((slot w s).core w.core).line key = some l → l.data.length = 64 →
    ∃ r : W64, (∀ j < 64, r.getLsbD j = (l.data.getD (a % 64 + j / 8) 0).getLsbD (j % 8)) ∧
      Acts (.ld w d 6 b off false) s (fun h =>
        h.thread w = ended w (formOf (.ld w d 6 b off false)) p 2 s (((slot w s).thread w).setD d r) ∧
        (h.core w.core).dchits = ((slot w s).core w.core).dchits + 1 ∧
        (h.core w.core).dcmisses = ((slot w s).core w.core).dcmisses ∧
        (h.core w.core).line key = some { l with stamp := ((slot w s).core w.core).cacheStamp + 1 } ∧
        (h.core w.core).evb = ((slot w s).core w.core).evb)

/-- R292, R294, R295: FENCE.C completes in its slot; FENCE.F when no entry of the eviction buffer is unwritten and no store of the thread
awaits its notice; FENCE.S when also no send of the thread on a REMOTE route awaits its acknowledgement; otherwise the thread stalls in
the fence, and issues again from the first slot in which the condition holds for what was under way at the fence. -/
def Sys2Proof.Claims.FencesCompleteWhenTheirConditionHolds : Prop :=
  (∀ (w : Who) (s : State), Issues w none s → (s.hw.thread w).stall ≠ some .fence →
    let th := (slot w s).thread w
    let k := (slot w s).core w.core
    let done := fun (i : Instr) => Runs i s (Ran w none 1 id s)
    let waits := fun (i : Instr) => Yields i s (Left w (fun th => stalled w s .fence 0 { th with fence := some k.evSerial }) s)
    done (.fenceC w) ∧
    (k.evSerial ≤ k.evDone → th.notices = 0 → done (.fenceF w)) ∧
    (k.evSerial ≤ k.evDone → th.notices = 0 → th.remoteTo = [] → done (.fenceS w)) ∧
    (k.evDone < k.evSerial ∨ th.notices ≠ 0 → waits (.fenceF w) ∧ waits (.fenceS w)) ∧
    (th.remoteTo ≠ [] → waits (.fenceS w))) ∧
  (∀ (w : Who) (x : Hw) (s : State), (s.hw.thread w).stall = some .fence → (s.hw.thread w).tstate = .running →
    ∀ q ∈ [(Instr.fenceC w, Scope.core), (Instr.fenceF w, Scope.frame), (Instr.fenceS w, Scope.system)],
      s.hw.slotWhere w (fun y => y.canIssue w && y.fenceOver w q.2) = some x → (x.thread w).stall = some .fence →
      Acts q.1 s (fun h =>
        h.thread w = ({ x.thread w with fence := none }).finish (x.thread w).words (Max.max (x.thread w).nextIssue (x.cycle w.core)) ∧
        h.clock = x.clock ∧ ∀ c : CoreId, c ≠ w.core → h.core c = x.core c))

/-- R236, R237: CINV of each scope begins its walk in the next cycle and holds its thread. A walk whose sets have all been reached, with no
miss register in use and room for the dirty lines, has emptied the cache and moved every dirty line to the eviction buffer. CINV_COMPLETE
ends the instruction once its 128 sets are walked and its scope's condition holds. -/
def Sys2Proof.Claims.CacheInvalidationEmptiesTheCache : Prop :=
  (∀ (w : Who) (s : State), Issues w none s → ((slot w s).core w.core).cinv = none →
    ∀ x ∈ [(Instr.cinvC w, Scope.core), (Instr.cinvF w, Scope.frame), (Instr.cinvS w, Scope.system)],
      Acts x.1 s (fun h =>
        (h.core w.core).cinv = some { thread := w.thread, scope := x.2, at_ := issueCycle w s + 1 } ∧
        (h.core w.core).cache = ((slot w s).core w.core).cache ∧
        (h.thread w).stall = some .cinv ∧ (h.thread w).pc = ((slot w s).thread w).pc)) ∧
  (∀ (k : Core) (v : Cinv) (cyc : Nat), k.cinv = some v → v.set = 0 → v.at_ + 127 ≤ cyc → (∀ r : Fin 8, k.miss[r] = none) →
    (k.cache.filter (·.mask != 0)).length + k.evb.length ≤ 8 →
    (k.cinvTo cyc).cache = [] ∧ (k.cinvTo cyc).cinv.map (·.set) = some 128 ∧
    ∀ l ∈ k.cache, l.mask ≠ 0 → ∃ e ∈ (k.cinvTo cyc).evb, e.key = l.key ∧ e.data = l.data ∧ e.mask = l.mask) ∧
  (∀ (c : CoreId) (v v1 : Cinv) (s : State), (s.hw.core c).cinv = some v →
    let last := v.at_ + 127 - v.set
    let h1 := (s.hw.coreEvent c last).updCore c (·.cinvTo (Max.max last (s.hw.cycle c)))
    (h1.core c).cinv = some v1 → v1.set = 128 → (s.hw.core c).frozenAt = none → fenceMet h1 ⟨c, v.thread⟩ v1.scope v1.serial = true →
    Acts (.cinvComplete c) s (fun h =>
      (h.core c).cinv = none ∧ h.clock = h1.clock ∧
      ((h1.thread ⟨c, v.thread⟩).tstate = .running → (h1.thread ⟨c, v.thread⟩).stepOnce = false →
        (h1.thread ⟨c, v.thread⟩).stopReq = false →
        (h.thread ⟨c, v.thread⟩).pc = (h1.thread ⟨c, v.thread⟩).pc + 4 ∧ (h.thread ⟨c, v.thread⟩).stall = none)))

/-- R236, R237, R292, R294, R295: the fences and the cache invalidations complete when the condition of their scope
holds. The model's choices it rests on: log entries 2 and 90. -/
def Obligations.FencesAndCacheInvalidation : Prop :=
  FencesCompleteWhenTheirConditionHolds ∧ CacheInvalidationEmptiesTheCache

/-- R152, R153, R154: B, BL, JR and JLR; a branch not taken falls through, a target in the instruction memory is jumped to,
another faults; NOP only advances. -/
def Sys2Proof.Claims.ControlTransfersSetThePc : Prop :=
  ∀ (w : Who) (cond : BitVec 4) (off : BitVec 22) (far : BitVec 26) (d a : Fin 16) (s : State), Issues w none s →
    let th := (slot w s).thread w
    let link := fun (r : Fin 16) (x : Thread) => x.setA r (BitVec.ofNat 48 (th.pc.toNat + 4))
    let target := (th.getA a).toNat
    (cond ≠ 0xF → condHolds th.flags cond = true →
      Yields (.b w cond off) s (Left w (jumped w s (BitVec.ofInt 20 (th.pc.toNat + 4 * off.toInt))) s)) ∧
    (cond ≠ 0xF → condHolds th.flags cond = false → Runs (.b w cond off) s (Ran w none 1 id s)) ∧
    Yields (.bl w far) s (Left w (fun x => jumped w s (BitVec.ofInt 20 (th.pc.toNat + 4 * far.toInt)) (link 14 x)) s) ∧
    (target % 4 = 0 → target < imemSize w.core →
      Yields (.jr w a) s (Left w (jumped w s (BitVec.ofNat 20 target)) s) ∧
      Yields (.jlr w d a) s (Left w (fun x => jumped w s (BitVec.ofNat 20 target) (link d x)) s)) ∧
    (target % 4 ≠ 0 → ∀ i ∈ [Instr.jr w a, Instr.jlr w d a],
      Yields i s (Left w (found w s { code := 0x07, epc := th.pc, eaddr := BitVec.ofNat 48 target }) s)) ∧
    (target % 4 = 0 → imemSize w.core ≤ target → ∀ i ∈ [Instr.jr w a, Instr.jlr w d a],
      Yields i s (Left w (found w s { code := 0x08, epc := th.pc, eaddr := BitVec.ofNat 48 target }) s)) ∧
    Runs (.nop w) s (Ran w none 1 id s)

/-- R136, R137: PFX takes no slot and leaves the PC; its 26 bits wait for the instruction of its pair, and the pair that
completes advances the PC by 8. -/
def Sys2Proof.Claims.PrefixPairsAdvanceTheirPc : Prop :=
  (∀ (w : Who) (imm : BitVec 26) (s : State), Issues w none s →
    Acts (.pfx w imm) s (fun h => h.thread w = { s.hw.thread w with pfx := some imm } ∧
      ∀ c : CoreId, c ≠ w.core → h.core c = s.hw.core c)) ∧
  (∀ (w : Who) (imm : BitVec 26) (d a : Fin 32) (low : BitVec 16) (s : State), Issues w (some imm) s → low.toNat < 64 →
    ((slot w s).thread w).stepOnce = false → ((slot w s).thread w).stopReq = false →
    Acts (.addi w d a low) s (fun h => (h.thread w).pc = ((slot w s).thread w).pc + 8 ∧ (h.thread w).pfx = none))

/-- R157, R182, R192: where no effect of a later cycle is on its way and the core's engines have nothing to do, the first slot of a thread in
which something holds is its next slot, when it holds there: the first cycle that is a slot of the thread, no earlier than the present
one (the next, when an event of the present one has taken place) and its next issue. -/
def Sys2Proof.Claims.QuietCoresIssueInTheNextSlot : Prop :=
  ∀ (w : Who) (ok : Hw → Bool) (s : State), s.hw.later = [] → (s.hw.core w.core).cinv = none → (s.hw.core w.core).drains = [] →
    (s.hw.core w.core).stream = none → (s.hw.core w.core).frozenAt = none →
    (s.hw.core w.core).cyc0 ≤ s.hw.clock →
    let x := s.hw.toSlot w
    (ok x = true → s.hw.slotWhere w ok = some x) ∧ (ok x = false → s.hw.slotWhere w ok = none) ∧
    x.cycle w.core % 4 = w.thread.val ∧ (s.hw.thread w).nextIssue ≤ x.cycle w.core ∧
    x.cycle w.core < Max.max (s.hw.cycle w.core + (if s.hw.acted then 1 else 0)) (s.hw.thread w).nextIssue + 4 ∧
    x.cores = s.hw.cores ∧ x.bents = s.hw.bents

/-- R159: a word pairs with a second word that reads nothing it writes, writes no register it writes, and does not repeat its access, its
divide or its mortise source; the second word of a pair issues in the slot of the first; other cores form no pairs. -/
def Sys2Proof.Claims.PegCoresIssuePairs : Prop :=
  (∀ (w : Who) (d a d' a' : Fin 32) (b b' : Src),
    canPair (formOf (.add w d a b)) (formOf (.add w d' a' b')) = true ↔
      d ≠ a' ∧ b' ≠ .reg d ∧ d ≠ d' ∧ ¬((∃ m, b = .mort m) ∧ (∃ m, b' = .mort m))) ∧
  (∀ (w : Who) (f : Form) (m : Mem) (h : Hw), w.core.val % 44 < 40 → h.isFirst w f m = false) ∧
  (∀ (w : Who) (f : Form) (h : Hw), h.pairs w f = true → h.slotState w f = some h) ∧
  (∀ (w : Who) (d a b : Fin 32) (s : State), s.hw.pairs w (formOf (.add w d a (.reg b))) = true →
    (s.hw.thread w).pc.toNat < imemSize w.core →
    (s.hw.core w.core).isegx.getLsbD ((s.hw.thread w).pc.toNat / segSize w.core) = true →
    let x := (s.hw.thread w).getD a
    let y := (s.hw.thread w).getD b
    let r := BitVec.ofInt 64 (x.toInt + y.toInt)
    Acts (.add w d a (.reg b)) s (fun h =>
      h.clock = s.hw.clock ∧
      h.thread w = (leaves d r (sumFlags x y r 0) (s.hw.thread w)).finish 1
        (Max.max (s.hw.thread w).nextIssue (s.hw.cycle w.core + 4))))

/-- R136, R137, R152, R153, R154, R157, R159, R182: the slot of an instruction; branches, calls, jumps, NOP and prefixed pairs set the PC;
the pairs of peg cores. The model's choices it rests on: log entries 8 and 81. -/
def Obligations.ControlTransfersAndPrefixPairs : Prop :=
  QuietCoresIssueInTheNextSlot ∧ ControlTransfersSetThePc ∧ PrefixPairsAdvanceTheirPc ∧ PegCoresIssuePairs

/-- R188, R189: WAIT completes in its slot when an event of its mask or an interrupt cause is pending, and otherwise leaves the
thread WAITING; WAIT_WAKE completes it once one is. -/
def Sys2Proof.Claims.WaitEndsWithAnEventOfItsMask : Prop :=
  ∀ (w : Who) (mask : BitVec 16) (s : State),
    let th := (slot w s).thread w
    (Issues w none s →
      (th.evpend &&& mask ≠ 0 ∨ th.ipend ≠ 0 → Runs (.wait w mask) s (Ran w none 1 id s)) ∧
      (th.evpend &&& mask = 0 → th.ipend = 0 → Yields (.wait w mask) s (Left w (fun th =>
        { th with tstate := .waiting, waitMask := mask, stall := none, pfx := none, pair := none,
                  nextIssue := Max.max th.nextIssue (issueCycle w s + 4) }) s))) ∧
    (∀ x : Hw, s.hw.slotWhere w (·.wakes w) = some x →
      Acts (.waitWake w) s (fun h =>
        h.thread w = ({ x.thread w with tstate := .running }).finish 1 (x.cycle w.core + 4) ∧ h.clock = x.clock ∧
        ∀ c : CoreId, c ≠ w.core → h.core c = x.core c)) ∧
    (∀ h : Hw, (h.core w.core).coreHalt = false → (h.core w.core).frozenAt = none → ((h.core w.core).thread 0).found = none →
      (h.thread w).tstate = .waiting → (h.thread w).takeable = false →
      (h.wakes w = true ↔ ((h.thread w).evpend &&& (h.thread w).waitMask ≠ 0 ∨ (h.thread w).ipend ≠ 0)))

/-- R155, R156, R197, R198, R199: TRAP and BRK raise their exceptions, with EPC behind TRAP and its code in EADDR; BRK with
BRKSTOP stops the thread; ERET in supervisor mode restores the PC, MODE, MIE and the flags and clears EXL, in user mode it
raises PRIV. -/
def Sys2Proof.Claims.TrapBreakAndReturn : Prop :=
  ∀ (w : Who) (code : BitVec 16) (s : State), Issues w none s →
    let th := (slot w s).thread w
    Yields (.trap w code) s
      (Left w (found w s { code := 0x0B, epc := th.pc + 4, eaddr := BitVec.ofNat 48 code.toNat }) s) ∧
    (th.brkstop = false → Yields (.brk w) s (Left w (found w s { code := 0x0C, epc := th.pc }) s)) ∧
    (th.brkstop = true → Yields (.brk w) s (fun t => (t.hw.thread w).tstate = .stopped ∧ (t.hw.thread w).pc = th.pc)) ∧
    (th.mode = true → Yields (.eret w) s (fun t =>
      t.mem = s.mem ∧ t.hw.thread w = jumped w s th.epc { th with
        mode := th.estat.getLsbD 30, mie := th.estat.getLsbD 29, fz := th.estat.getLsbD 28, fn := th.estat.getLsbD 27,
        fc := th.estat.getLsbD 26, fv := th.estat.getLsbD 25, exl := false })) ∧
    (th.mode = false → Yields (.eret w) s (Left w (found w s { code := 0x02, epc := th.pc }) s))

/-- R155, R156, R188, R189, R197, R198, R199: WAIT, WAIT_WAKE, TRAP, BRK and ERET. -/
def Obligations.WaitTrapBreakAndReturn : Prop :=
  WaitEndsWithAnEventOfItsMask ∧ TrapBreakAndReturn

/-- R129, R155: ILD reads and IST writes one instruction word in supervisor mode; in user mode they raise PRIV, a
misaligned address raises ALIGN and one beyond the memory IMEM_RANGE. -/
def Obligations.InstructionMemoryAccess : Prop :=
  ∀ (w : Who) (d sr : Fin 32) (b : Fin 16) (s : State), Issues w none s →
    let th := (slot w s).thread w
    let a := (th.getA b).toNat
    let loc := locImem w.core a
    (th.mode = true → a % 4 = 0 → a < imemSize w.core →
      (∃ r : W64, (∀ j < 64, r.getLsbD j = (decide (j < 32) && memBit loc j s.mem)) ∧
        Runs (.ild w d b) s (Ran w none 1 (fun th => th.setD d r) s)) ∧
      Runs (.ist w b sr) s
        (fun f t => Accessed w none id s f t ∧ Stored loc 4 (fun j => (th.getD sr).getLsbD j) s.mem t.mem)) ∧
    (∀ i ∈ [Instr.ild w d b, Instr.ist w b sr],
      (th.mode = false → Yields i s (Left w (found w s { code := 0x02, epc := th.pc }) s)) ∧
      (th.mode = true → a % 4 ≠ 0 →
        Yields i s (Left w (found w s { code := 0x03, epc := th.pc, eaddr := BitVec.ofNat 48 a }) s)) ∧
      (th.mode = true → a % 4 = 0 → imemSize w.core ≤ a →
        Yields i s (Left w (found w s { code := 0x06, epc := th.pc, eaddr := BitVec.ofNat 48 a }) s)))

/-! ### Vector instructions -/

namespace Sys2Proof.Claims

/-- Bits of a lane of an element type (R160). -/
def laneBits (et : BitVec 3) : Nat :=
  if et.toNat = 0 ∨ et.toNat = 5 then 32 else if et.toNat = 3 then 8 else if et.toNat = 6 then 64 else 16

/-- Lane `i` of a register, as a number (R160). -/
def lane (et : BitVec 3) (x : BitVec 2048) (i : Nat) : Nat := x.toNat / 2 ^ (laneBits et * i) % 2 ^ laneBits et

/-- The lanes of a core's registers. -/
def laneCount (w : Who) (et : BitVec 3) : Nat := vecBits w.core / laneBits et

/-- The vector instruction completes in `n` slots and leaves in vd the lanes that `f` gives, and 0 above the register's width. -/
def GivesLanes (i : Instr) (w : Who) (et : BitVec 3) (vd : Fin 32) (n : Nat) (f : Nat → Nat) (s : State) : Prop :=
  ∃ x : BitVec 2048, x.toNat < 2 ^ vecBits w.core ∧ (∀ k < laneCount w et, lane et x k = f k % 2 ^ laneBits et) ∧
    Runs i s (Ran w none n (fun th => { th with v := th.v.set vd x }) s)

/-- The signed value of a lane. -/
def sLane (et : BitVec 3) (x : Nat) : Int := if x < 2 ^ (laneBits et - 1) then x else (x : Int) - 2 ^ laneBits et

/-- An integer kept in a lane. -/
def toLane (et : BitVec 3) (v : Int) : Nat := (v % 2 ^ laneBits et).toNat

/-- The format of a floating-point element type (R160). -/
def laneFmt (et : BitVec 3) : Fmt := if et.toNat = 0 then fFP32 else if et.toNat = 1 then fBF16 else fFP16

end Sys2Proof.Claims

/-- R160, R162, R164, R165: lane by lane, the floating-point sums, differences, products and fused sums are the exact
result rounded once; VMIN and VMAX give the smaller and larger lane in the order in which −0 lies below +0, or the
canonical NaN; VABS and VNEG change the sign bit alone. -/
def Obligations.VectorFloatArithmetic : Prop :=
  ∀ (w : Who) (et : BitVec 3) (vd va vb : Fin 32) (s : State), Issues w none s → et.toNat ≤ 2 →
    let th := (slot w s).thread w
    let f := laneFmt et
    let x := fun k => lane et th.v[va] k
    let y := fun k => lane et th.v[vb] k
    let z := fun k => lane et th.v[vd] k
    let top := 2 ^ (laneBits et - 1)
    GivesLanes (.vaddF w et vd va vb) w et vd 1 (fun k => f.encode ((f.decode (x k)).add (f.decode (y k)))) s ∧
    GivesLanes (.vsubF w et vd va vb) w et vd 1 (fun k => f.encode ((f.decode (x k)).add (f.decode (y k)).neg)) s ∧
    GivesLanes (.vmulF w et vd va vb) w et vd 1 (fun k => f.encode ((f.decode (x k)).mul (f.decode (y k)))) s ∧
    GivesLanes (.vfma w et vd va vb) w et vd 1
      (fun k => f.encode (((f.decode (x k)).mul (f.decode (y k))).add (f.decode (z k)))) s ∧
    GivesLanes (.vfms w et vd va vb) w et vd 1
      (fun k => f.encode ((f.decode (z k)).add ((f.decode (x k)).mul (f.decode (y k))).neg)) s ∧
    GivesLanes (.vminF w et vd va vb) w et vd 1 (fun k =>
      if f.isNan (x k) || f.isNan (y k) then f.canonNan else if f.key (x k) ≤ f.key (y k) then x k else y k) s ∧
    GivesLanes (.vmaxF w et vd va vb) w et vd 1 (fun k =>
      if f.isNan (x k) || f.isNan (y k) then f.canonNan else if f.key (y k) ≤ f.key (x k) then x k else y k) s ∧
    GivesLanes (.vabs w et vd va) w et vd 1 (fun k => x k % top) s ∧
    GivesLanes (.vneg w et vd va) w et vd 1 (fun k => if x k < top then x k + top else x k - top) s

/-- R162: the integer lanes: sums, differences and products modulo the lane, the saturating forms, the minima and
maxima, and the shifts by the lane's amount modulo its width. -/
def Obligations.VectorIntegerArithmetic : Prop :=
  ∀ (w : Who) (et : BitVec 3) (vd va vb : Fin 32) (s : State), Issues w none s → 3 ≤ et.toNat → et.toNat ≤ 6 →
    let th := (slot w s).thread w
    let u := fun k => lane et th.v[va] k
    let v := fun k => lane et th.v[vb] k
    let x := fun k => sLane et (u k)
    let y := fun k => sLane et (v k)
    let hi : Int := 2 ^ (laneBits et - 1) - 1
    let clamp := fun (n : Int) => Max.max (-hi - 1) (Min.min hi n)
    let g := fun (i : Instr) (f : Nat → Int) => GivesLanes i w et vd 1 (fun k => toLane et (f k)) s
    g (.vaddI w et vd va vb) (fun k => x k + y k) ∧ g (.vsubI w et vd va vb) (fun k => x k - y k) ∧
    g (.vmulI w et vd va vb) (fun k => x k * y k) ∧
    g (.vadds w et vd va vb) (fun k => clamp (x k + y k)) ∧ g (.vsubs w et vd va vb) (fun k => clamp (x k - y k)) ∧
    g (.vminI w et vd va vb) (fun k => Min.min (x k) (y k)) ∧ g (.vmaxI w et vd va vb) (fun k => Max.max (x k) (y k)) ∧
    g (.vminu w et vd va vb) (fun k => Min.min (u k) (v k)) ∧ g (.vmaxu w et vd va vb) (fun k => Max.max (u k) (v k)) ∧
    g (.vshl w et vd va vb) (fun k => u k * 2 ^ (v k % laneBits et)) ∧
    g (.vshr w et vd va vb) (fun k => u k / 2 ^ (v k % laneBits et)) ∧
    g (.vsar w et vd va vb) (fun k => x k / 2 ^ (v k % laneBits et))

/-- R162, R166, R167: the bitwise operations and VSEL act on every bit of the register; the compares leave all ones or 0
in a lane, with NaN unequal to everything; VCLASS gives the class and sign of each lane. -/
def Obligations.VectorBitsComparesAndClasses : Prop :=
  ∀ (w : Who) (et : BitVec 3) (vd va vb : Fin 32) (s : State), Issues w none s →
    let th := (slot w s).thread w
    let n := vecBits w.core
    let bits := fun (i : Instr) (f : Bool → Bool → Bool → Bool) =>
      ∃ x : BitVec 2048, (∀ k < n, x.getLsbD k = f (th.v[va].getLsbD k) (th.v[vb].getLsbD k) (th.v[vd].getLsbD k)) ∧
        Runs i s (Ran w none 1 (fun th => { th with v := th.v.set vd x }) s)
    bits (.vand w 0 vd va vb) (fun p q _ => p && q) ∧ bits (.vor w 0 vd va vb) (fun p q _ => p || q) ∧
    bits (.vxor w 0 vd va vb) (fun p q _ => p != q) ∧ bits (.vandn w 0 vd va vb) (fun p q _ => p && !q) ∧
    bits (.vnot w 0 vd va) (fun p _ _ => !p) ∧ bits (.vsel w 0 vd va vb) (fun p q m => if m then p else q) ∧
    bits (.vmov w 0 vd va) (fun p _ _ => p) ∧
    (let f := laneFmt et
     let u := fun k => lane et th.v[va] k
     let v := fun k => lane et th.v[vb] k
     let ones := 2 ^ laneBits et - 1
     -- the order of two lanes; none where one is NaN
     let ord := fun k => if et.toNat ≤ 2 then (f.decode (u k)).cmp (f.decode (v k))
                         else some (compare (sLane et (u k)) (sLane et (v k)))
     let c := fun (i : Instr) (p : Option Ordering → Bool) => GivesLanes i w et vd 1 (fun k => if p (ord k) then ones else 0) s
     (et.toNat ≤ 6 →
       c (.vcmpeq w et vd va vb) (· == some .eq) ∧ c (.vcmpne w et vd va vb) (· != some .eq) ∧
       c (.vcmplt w et vd va vb) (· == some .lt) ∧ c (.vcmpgt w et vd va vb) (· == some .gt) ∧
       c (.vcmple w et vd va vb) (fun o => o == some .lt || o == some .eq) ∧
       c (.vcmpge w et vd va vb) (fun o => o == some .gt || o == some .eq)) ∧
     (3 ≤ et.toNat → et.toNat ≤ 6 →
       GivesLanes (.vcmpltu w et vd va vb) w et vd 1 (fun k => if u k < v k then ones else 0) s ∧
       GivesLanes (.vcmpgeu w et vd va vb) w et vd 1 (fun k => if v k ≤ u k then ones else 0) s) ∧
     (et.toNat ≤ 2 → GivesLanes (.vclass w et vd va) w et vd 1 (fun k => f.classOf (u k)) s))

/-- The value of a reduction over 2^n lanes in the fixed tree of R168: level by level, lanes 2i and 2i + 1 go into lane i. -/
def Sys2Proof.Claims.inTree (op : Nat → Nat → Nat) (u : Nat → Nat) : Nat → Nat → Nat
  | 0, i => u i
  | n + 1, i => op (inTree op u n (2 * i)) (inTree op u n (2 * i + 1))

/-- R163, R168, R169, R180: the permutations place lanes, the reductions put the value of their fixed tree, or the
greatest or least lane, into lane 0 and 0 elsewhere in 2 slots, and the moves between scalar and vector registers take
one lane. -/
def Obligations.VectorLanesMoved : Prop :=
  ∀ (w : Who) (et : BitVec 3) (vd va vb : Fin 32) (d da db : Fin 32) (s : State), Issues w none s → et.toNat ≤ 6 →
    let th := (slot w s).thread w
    let n := laneCount w et
    let u := fun k => lane et th.v[va] k
    let at_ := fun (j : Int) => if 0 ≤ j ∧ j < n then u j.toNat else 0
    let k := (th.getD db).toNat
    GivesLanes (.vperm w et vd va vb) w et vd 1 (fun i => at_ (lane et th.v[vb] i)) s ∧
    GivesLanes (.vslide w et vd va db) w et vd 1 (fun i => at_ (i + (th.getD db).toInt)) s ∧
    GivesLanes (.vbcl w et vd va db) w et vd 1 (fun _ => at_ k) s ∧
    GivesLanes (.vsplat w et vd da) w et vd 1 (fun _ => (th.getD da).toNat) s ∧
    GivesLanes (.vins w et vd da db) w et vd 1 (fun i => if i = k then (th.getD da).toNat else lane et th.v[vd] i) s ∧
    Runs (.vext w et d va db) s (Ran w none 1 (fun th => th.setD d (BitVec.ofNat 64 (at_ k))) s) ∧
    Runs (.vexts w et d va db) s (Ran w none 1 (fun th => th.setD d (BitVec.ofInt 64 (sLane et (at_ k)))) s) ∧
    (3 ≤ et.toNat →
      GivesLanes (.vrsum w et vd va) w et vd 2
        (fun i => if i = 0 then toLane et (((List.range n).map (fun j => sLane et (u j))).sum) else 0) s ∧
      (∃ x, GivesLanes (.vrmax w et vd va) w et vd 2 (fun i => if i = 0 then x else 0) s ∧
        (∃ j < n, x = u j) ∧ ∀ j < n, sLane et (u j) ≤ sLane et x) ∧
      (∃ x, GivesLanes (.vrmin w et vd va) w et vd 2 (fun i => if i = 0 then x else 0) s ∧
        (∃ j < n, x = u j) ∧ ∀ j < n, sLane et x ≤ sLane et (u j)) ∧
      (∃ j < n, GivesLanes (.vrargmax w et vd va) w et vd 2 (fun i => if i = 0 then u j else if i = 1 then j else 0) s ∧
        (∀ i < n, sLane et (u i) ≤ sLane et (u j)) ∧ ∀ i < j, u i ≠ u j)) ∧
    (et.toNat ≤ 2 →
      let f := laneFmt et
      GivesLanes (.vrsum w et vd va) w et vd 2 (fun i =>
        if i = 0 then inTree (fun p q => f.encode ((f.decode p).add (f.decode q))) u (Nat.log2 n) 0 else 0) s ∧
      (∀ j < n, f.isNan (u j) = true → (∀ i < j, f.isNan (u i) = false) →
        GivesLanes (.vrmax w et vd va) w et vd 2 (fun i => if i = 0 then f.canonNan else 0) s ∧
        GivesLanes (.vrmin w et vd va) w et vd 2 (fun i => if i = 0 then f.canonNan else 0) s ∧
        GivesLanes (.vrargmax w et vd va) w et vd 2 (fun i => if i = 0 then f.canonNan else if i = 1 then j else 0) s) ∧
      ((∀ j < n, f.isNan (u j) = false) →
        (∃ j < n, (∀ i < n, f.key (u i) ≤ f.key (u j)) ∧ (∀ i < j, u i ≠ u j) ∧
          GivesLanes (.vrmax w et vd va) w et vd 2 (fun i => if i = 0 then u j else 0) s ∧
          GivesLanes (.vrargmax w et vd va) w et vd 2 (fun i => if i = 0 then u j else if i = 1 then j else 0) s) ∧
        (∃ j < n, (∀ i < n, f.key (u j) ≤ f.key (u i)) ∧
          GivesLanes (.vrmin w et vd va) w et vd 2 (fun i => if i = 0 then u j else 0) s)))

/-- R170, R171, R172: VCVT between formats and integers of up to a factor 4 in width; the wider side has fewer lanes,
and PART names the portion of the narrower register. -/
def Obligations.VectorConversions : Prop :=
  ∀ (w : Who) (vd va : Fin 32) (dst fr : BitVec 4) (part : BitVec 2) (s : State), Issues w none s →
    let wd := cvBits dst.toNat
    let ws := cvBits fr.toNat
    let th := (slot w s).thread w
    let src := fun j => th.v[va].toNat / 2 ^ (ws * j) % 2 ^ ws
    let old := fun j => th.v[vd].toNat / 2 ^ (wd * j) % 2 ^ wd
    let n := vecBits w.core / Max.max wd ws
    dst.toNat ≤ 8 → fr.toNat ≤ 8 → dst ≠ fr → part.toNat < Max.max wd ws / Min.min wd ws → Max.max wd ws ≤ 4 * Min.min wd ws →
    ∃ x : BitVec 2048, Runs (.vcvt w vd va dst fr part) s (Ran w none 1 (fun th => { th with v := th.v.set vd x }) s) ∧
      ∀ j < vecBits w.core / wd, x.toNat / 2 ^ (wd * j) % 2 ^ wd =
        if wd < ws then
          if part.toNat * n ≤ j ∧ j < (part.toNat + 1) * n then cvElem dst.toNat fr.toNat (src (j - part.toNat * n)) % 2 ^ wd
          else old j
        else cvElem dst.toNat fr.toNat (src (part.toNat * n + j)) % 2 ^ wd

/-- R163, R173, R175, R176, R180: VEXP, VRCP, VRSQRT and VLOG2 on a brace core whose unit is free take 3 slots and give
one lane for each lane of va, with the exact results and the results of the special lanes; while the unit is occupied they stall; on
another core, or with another element type than 0 and 1, they raise ILLEGAL. The model's choices it rests on: log entry 10. -/
def Obligations.SpecialFunctions : Prop :=
  ∀ (w : Who) (et : BitVec 3) (vd va : Fin 32) (s : State), Issues w none s →
    let th := (slot w s).thread w
    let f := laneFmt et
    let inf := (2 ^ f.eb - 1) * 2 ^ f.mb
    let nan := inf + 2 ^ (f.mb - 1)
    let sign := 2 ^ (f.eb + f.mb)
    -- the lane of 2^(k - 127)
    let pow := fun (k : Nat) => k * 2 ^ f.mb
    (32 ≤ w.core.val % 44 → w.core.val % 44 < 40 → et.toNat ≤ 1 → ((slot w s).core w.core).sfuFrom ≤ issueCycle w s →
      let gives := fun (i : Instr) (special : List (Nat × Nat)) => ∃ x : BitVec 2048,
        (∃ t, exec i s = .next t ∧
          t.hw.thread w = ended w (formOf i) none 3 s { th with v := th.v.set vd x } ∧
          (t.hw.core w.core).sfuFrom = issueCycle w s + 5 ∧ t.mem = s.mem) ∧
        ∀ k < laneCount w et, ∀ p ∈ special, lane et th.v[va] k = p.1 → lane et x k = p.2
      gives (.vexp w et vd va) [(0, pow 127), (sign, pow 127), (inf, inf), (sign + inf, 0), (nan, nan)] ∧
      gives (.vrcp w et vd va) ([(0, inf), (sign, sign + inf), (inf, 0), (sign + inf, sign), (nan, nan)] ++
        (List.range 253).map (fun j => (pow (j + 1), pow (253 - j)))) ∧
      gives (.vrsqrt w et vd va)
        ([(0, inf), (sign, sign + inf), (inf, 0), (sign + inf, nan), (sign + pow 127, nan), (nan, nan)] ++
          (List.range 127).map (fun j => (pow (2 * j + 1), pow (190 - j)))) ∧
      gives (.vlog2 w et vd va)
        ([(0, sign + inf), (sign, sign + inf), (inf, inf), (sign + pow 127, nan), (nan, nan)] ++
          (List.range 254).map (fun j => (pow (j + 1), f.encode (Num.ofInt (j - 126)))))) ∧
    (32 ≤ w.core.val % 44 → w.core.val % 44 < 40 → et.toNat ≤ 1 → issueCycle w s < ((slot w s).core w.core).sfuFrom →
      th.stopReq = false → ∀ i ∈ [Instr.vexp w et vd va, Instr.vrcp w et vd va, Instr.vrsqrt w et vd va, Instr.vlog2 w et vd va],
        Yields i s (Left w (stalled w s .interlock 0) s)) ∧
    ((w.core.val % 44 < 32 ∨ 40 ≤ w.core.val % 44 ∨ 2 ≤ et.toNat) →
      ∀ i ∈ [Instr.vexp w et vd va, Instr.vrcp w et vd va, Instr.vrsqrt w et vd va, Instr.vlog2 w et vd va],
        Yields i s (Left w (found w s { code := 0x01, epc := th.pc }) s))

/-- R36, R80, R164: rounding a number that a format holds gives back its bits: for every format and every encoding that
is no NaN, encoding the decoded value is the identity. -/
def Obligations.RoundingKeepsRepresentedNumbers : Prop :=
  ∀ f ∈ [fFP32, fBF16, fFP16, fE4M3, fE5M2, fE2M3, fE3M2, fE2M1], ∀ x < 2 ^ f.bits, f.decode x ≠ .nan → f.encode (f.decode x) = x

/-! ### Ports, threads, locks and exceptions -/

namespace Sys2Proof.Claims

/-- The instruction of thread `w` has completed in one slot, its core being changed by `g`: the thread has moved behind its word, the
core is not still (R262), and every other core, memory byte and waiting command is as it was. -/
structure Changed (w : Who) (g : Core → Core) (s : State) (f : Form) (t : State) : Prop where
  core : t.hw.core w.core =
    { (g ((slot w s).core w.core)).updThread w.thread (ended w f none 1 s) with still := false, stillFrom := none }
  cores : ∀ c : CoreId, c ≠ w.core → t.hw.core c = (slot w s).core c
  clock : t.hw.clock = (slot w s).clock
  mem : t.mem = s.mem
  pending : t.pending = s.pending

/-- A read of `v` into dD. -/
def reads (w : Who) (d : Fin 32) (v : Nat) (s : State) : Form → State → Prop :=
  Changed w (fun k => k.updThread w.thread (fun th => th.setD d (BitVec.ofNat 64 v))) s

/-- The 32 bits that an OUT writes. -/
def outValue (w : Who) (sr : Fin 32) (s : State) : W32 := (((slot w s).thread w).getD sr).setWidth 32

/-- No purlin transaction to the core is due in the slot (R28). -/
def Alone (w : Who) (s : State) : Prop := ∀ x ∈ (slot w s).purlins, x.core = w.core → (slot w s).clock < x.due

/-- A command that is an OUT to a port answers a next state of which `R` holds. -/
def Outs (i : Instr) (w : Who) (p : BitVec 16) (sr : Fin 32) (s : State) (R : Form → State → Prop) : Prop :=
  Yields i s (R (formOf (.out w p sr)))

/-- A command that is an IN from a port answers a next state of which `R` holds. -/
def Ins (i : Instr) (w : Who) (p : BitVec 16) (d : Fin 32) (s : State) (R : Form → State → Prop) : Prop :=
  Yields i s (R (formOf (.inp w d p)))

/-- An effect takes hold in the cycle after a clock value: until then it is on its way. -/
def Follows (h : Hw) (now : Nat) (e : Later) : Prop := (now + 1, e) ∈ h.later

end Sys2Proof.Claims

/-- R14, R30, R132, R155, R187, R213, R214: IN, INR, OUT and OUTR. A reserved port reads 0 and takes no write; the
identity register gives kind, warden flag and core; a user-mode access to a port of the supervisor raises PRIV with the
port as EADDR and has no other effect; EVPEND reads as it stands and a write clears the bits written as 1; VBASE takes
bits 19:8. -/
def Obligations.PortInstructions : Prop :=
  ∀ (w : Who) (d a sr : Fin 32) (p : BitVec 16) (s : State), Issues w none s →
    (((slot w s).thread w).getD a).toNat % 2 ^ 16 = p.toNat →
    let th := (slot w s).thread w
    let v := outValue w sr s
    ∀ i ∈ [Instr.inp w d p, Instr.inr w d a], ∀ o ∈ [Instr.out w p sr, Instr.outr w a sr],
      (portClass p.toNat = none → Runs i s (reads w d 0 s) ∧ (Alone w s → Runs o s (Changed w id s))) ∧
      (p = 0x0002 → Runs i s (reads w d ((if w.core.val % 44 < 32 then 0 else if w.core.val % 44 < 40 then 1 else 2) * 2 ^ 30 +
        (if w.core.val % 44 = 40 then 1 else 0) * 2 ^ 29 + w.core.val * 4096 + w.core.val / 44 * 64 + w.core.val % 44) s)) ∧
      (portClass p.toNat = some false → th.mode = false → ∀ x ∈ [i, o],
        Yields x s (Left w (found w s { code := 0x02, epc := th.pc, eaddr := BitVec.ofNat 48 p.toNat }) s)) ∧
      (p = 0x0407 → Runs i s (reads w d th.evpend.toNat s) ∧
        (Alone w s → Runs o s (Changed w (fun k => k.updThread w.thread (fun th => { th with
          evpend := th.evpend &&& ~~~(v.setWidth 16) })) s))) ∧
      (p = 0x0405 → th.mode = true → Runs i s (reads w d th.vbase.toNat s) ∧
        (Alone w s → Runs o s (Changed w (fun k => k.updThread w.thread (fun th => { th with
          vbase := BitVec.ofNat 20 (v.toNat % 2 ^ 20 / 2 ^ 8 * 2 ^ 8) })) s)))

/-- R185, R187, R188, R190, R203: RESTART of a HALTED thread, events posted to a thread in the cycle after, the timers and their expiry,
and late store errors. The model's choices it rests on: log entry 2. -/
def Obligations.ThreadsAreStartedAndSignalled : Prop :=
  (∀ (w : Who) (t : Fin 4) (sr : Fin 32) (s : State), Issues w none s → Alone w s → ((slot w s).thread w).mode = true →
    let v := outValue w sr s
    let port := BitVec.ofNat 16 (0x418 + 16 * t.val)
    (v.getLsbD 29 = false → Outs (.restart w t sr) w port sr s
      (Changed w (fun k => k.updThread t (fun th => { th with brkstop := v.getLsbD 28 })) s)) ∧
    (v.getLsbD 29 = true → (((slot w s).core w.core).thread t).tstate = .halted → ((slot w s).core w.core).held = false →
      Outs (.restart w t sr) w port sr s (Changed w (fun k => k.updThread t (fun th => { th with
        brkstop := v.getLsbD 28, pc := BitVec.ofNat 20 (v.toNat % 2 ^ 20 / 4 * 4), mode := true, mie := false, exl := false,
        dfcode := 0, dfpc := 0, tstate := .running, stall := none, found := none, pfx := none, pair := none,
        nextIssue := issueCycle w s + 1 })) s))) ∧
  (∀ (w : Who) (t : Fin 4) (sr : Fin 32) (s : State), Issues w none s → Alone w s →
    let v := outValue w sr s
    t.val = v.toNat / 2 ^ 16 % 4 → Outs (.evpost w sr) w 0x0484 sr s (fun f s' =>
      Changed w id s f s' ∧ Follows s'.hw s'.hw.clock (.events ⟨w.core, t⟩ (v.setWidth 16)))) ∧
  (∀ (w : Who) (mask : BitVec 16) (bit : Nat) (h : Hw),
    (h.applyLater (.events w mask)).thread w = { h.thread w with evpend := (h.thread w).evpend ||| mask } ∧
    (h.applyLater (.cause w bit)).thread w = { h.thread w with ipend := (h.thread w).ipend ||| (1 <<< bit) }) ∧
  (∀ (w : Who) (t : Fin 4) (sr : Fin 32) (s : State), Issues w none s → Alone w s →
    let v := outValue w sr s
    let arm := fun (t : Fin 4) (k : Core) => k.updThread t (fun th => { th with
      timer := if v = 0 then none else some (issueCycle w s + v.toNat) })
    Outs (.tmrWrite w none sr) w 0x0900 sr s (Changed w (arm w.thread) s) ∧
    (((slot w s).thread w).mode = true →
      Outs (.tmrWrite w (some t) sr) w (BitVec.ofNat 16 (0x901 + t.val)) sr s (Changed w (arm t) s))) ∧
  (∀ (w : Who) (at_ : Nat) (s : State), (s.hw.thread w).timer = some at_ → (s.hw.core w.core).frozenAt = none →
    let x := s.hw.event ((s.hw.core w.core).cyc0 + at_)
    Acts (.timerExpiry w) s (fun h =>
      h.thread w = { x.thread w with timer := none, ipend := (x.thread w).ipend ||| 0x002 } ∧
      h.clock = Max.max s.hw.clock ((s.hw.core w.core).cyc0 + at_) ∧ ∀ c : CoreId, c ≠ w.core → h.core c = x.core c)) ∧
  (∀ (c : CoreId) (addr : BitVec 48) (s : State),
    let was := ((s.hw.core c).thread 0).ipend.getLsbD 9
    Acts (.lateStoreError c addr) s (fun h =>
      (h.core c).thread 0 = { (s.hw.core c).thread 0 with ipend := ((s.hw.core c).thread 0).ipend ||| 0x200 } ∧
      (h.core c).seaddr = (if was then (s.hw.core c).seaddr else BitVec.ofNat 48 (addr.toNat / 64 * 64)) ∧
      (h.core c).seMore = was ∧ ∀ c' : CoreId, c' ≠ c → h.core c' = s.hw.core c'))

/-- What an entry leaves of a thread that was `th`: supervisor mode with EXL set, what was saved, and the registers as they were
(R195). -/
def Sys2Proof.Claims.Entered (th u : Thread) : Prop :=
  u.mode = true ∧ u.mie = false ∧ u.exl = true ∧
  u.estat.getLsbD 30 = th.mode ∧ u.estat.getLsbD 29 = th.mie ∧
  u.estat.getLsbD 28 = th.fz ∧ u.estat.getLsbD 27 = th.fn ∧
  u.estat.getLsbD 26 = th.fc ∧ u.estat.getLsbD 25 = th.fv ∧
  u.d = th.d ∧ u.a = th.a ∧ u.acc = th.acc ∧ u.v = th.v

/-- An effect due in cycle `due` is on its way while that cycle has not passed; once it has, `P` holds. -/
def Sys2Proof.Claims.OnItsWay (h : Hw) (due : Nat) (e : Later) (P : Prop) : Prop :=
  (h.clock ≤ due → (due, e) ∈ h.later) ∧ (due < h.clock → P)

/-- R195, R196: a found exception is entered in the first slot of its thread after the one in which it was found. -/
def Sys2Proof.Claims.ExceptionsAreEntered : Prop :=
  ∀ (w : Who) (e : Exc) (s : State), (s.hw.core w.core).coreHalt = false → (s.hw.core w.core).frozenAt = none →
    (w.thread = 0 ∨ ((s.hw.core w.core).thread 0).found = none ∨ ((s.hw.core w.core).thread 0).exl = false) →
    (s.hw.thread w).found = some e → (s.hw.thread w).exl = false →
    let x := s.hw.toSlotFrom w (e.at_ + 1)
    let th := x.thread w
    Acts (.exceptionEntry w) s (fun h => Entered th (h.thread w) ∧ h.clock = x.clock ∧
      (h.thread w).pc = th.vbase ∧ (h.thread w).epc = e.epc &&& 0xFFFFC ∧ (h.thread w).eaddr = e.eaddr ∧
      (h.thread w).estat.getLsbD 31 = false ∧ (h.thread w).estat.toNat % 2 ^ 6 = e.code % 64 ∧
      (h.thread w).estat.toNat / 2 ^ 9 % 8 = e.detail % 8 ∧ (h.thread w).found = none ∧
      ∀ c : CoreId, c ≠ w.core → h.core c = x.core c)

/-- R204, R205, R206: with EXL 1 an exception of thread 1, 2 or 3 halts it, and one of thread 0 halts the core, in the cycle in which it
was found; THREAD_FAULT, and the report of the core halt, follow in the next. -/
def Sys2Proof.Claims.DoubleFaultsHalt : Prop :=
  ∀ (w : Who) (e : Exc) (s : State), (s.hw.core w.core).coreHalt = false → (s.hw.core w.core).frozenAt = none →
    (s.hw.thread w).found = some e → (s.hw.thread w).exl = true →
    let due := (s.hw.core w.core).cyc0 + (e.at_ + 1)
    (w.thread ≠ 0 → (((s.hw.core w.core).thread 0).found = none ∨ ((s.hw.core w.core).thread 0).exl = false) →
      Acts (.exceptionEntry w) s (fun h => h.clock = s.hw.clock ∧
        (h.thread w).tstate = .halted ∧ (h.thread w).dfcode = BitVec.ofNat 6 e.code ∧ (h.thread w).dfpc = e.epc &&& 0xFFFFC ∧
        OnItsWay h due (.cause ⟨w.core, 0⟩ 5)
          (((h.core w.core).thread 0).ipend = ((s.hw.core w.core).thread 0).ipend ||| 0x020) ∧
        (h.core w.core).coreHalt = false)) ∧
    (w.thread = 0 → Acts (.exceptionEntry w) s (fun h => h.clock = s.hw.clock ∧
        (h.core w.core).coreHalt = true ∧ (∀ u, ((h.core w.core).thread u).tstate = .halted) ∧
        (h.thread w).dfcode = BitVec.ofNat 6 e.code ∧ (h.thread w).dfpc = e.epc &&& 0xFFFFC ∧
        (w.core.val % 44 = 40 →
          OnItsWay h due (.source (w.core.val / 44)) (h.irqPend.getLsbD (w.core.val / 44) = true)) ∧
        (w.core.val % 44 ≠ 40 → ∀ wd : CoreId, wd.val = 44 * (w.core.val / 44) + 40 →
          OnItsWay h due (.halted wd (w.core.val % 44))
            ((h.core wd).whalt.getLsbD (w.core.val % 44) = true ∧ ((h.core wd).thread 0).ipend.getLsbD 4 = true))))

/-- R192, R193: an interrupt is entered in the first slot of its thread in which it may be: that of a RUNNING or WAITING thread, with MIE
1, EXL 0 and a cause pending, at a boundary of R158. -/
def Sys2Proof.Claims.InterruptsAreEntered : Prop :=
  (∀ (w : Who) (x : Hw) (s : State), s.hw.pairOpen w = false → s.hw.slotWhere w (·.interruptReady w) = some x →
    let th := x.thread w
    Acts (.interruptEntry w) s (fun h => Entered th (h.thread w) ∧ h.clock = x.clock ∧
      (h.thread w).pc = (if th.ipend.getLsbD 2 then th.extVec else th.vbase + 0x80) ∧
      (h.thread w).epc = th.pc &&& 0xFFFFC ∧ (h.thread w).estat.getLsbD 31 = true ∧
      (h.thread w).estat.toNat % 2 ^ 6 = (if th.ipend.getLsbD 2 then 0x3E else 0) ∧ (h.thread w).ipend = th.ipend ∧
      ∀ c : CoreId, c ≠ w.core → h.core c = x.core c)) ∧
  (∀ (w : Who) (x : Hw), (x.core w.core).coreHalt = false → (x.core w.core).frozenAt = none →
    ((x.core w.core).thread 0).found = none → (x.core w.core).tileMove = none →
    let th := x.thread w
    (x.interruptReady w = true ↔ (th.tstate = .running ∨ th.tstate = .waiting) ∧ th.found = none ∧ th.mie = true ∧
      th.exl = false ∧ th.ipend ≠ 0 ∧ th.stall ∈ [none, some .credit, some .mortise, some .msync, some .stream, some .tileMove])) ∧
  (∀ (w : Who) (s : State), s.hw.pairOpen w = true ∨ s.hw.slotWhere w (·.interruptReady w) = none →
    Acts (.interruptEntry w) s (fun h => h = s.hw))

/-- R192, R193, R195, R196, R204, R205, R206: entry to an exception and to an interrupt; with EXL 1 an exception of
thread 1, 2 or 3 is a double fault and one of thread 0 halts the core and is reported. The model's choices it rests on:
log entry 74. -/
def Obligations.EntriesAndDoubleFaults : Prop := ExceptionsAreEntered ∧ DoubleFaultsHalt ∧ InterruptsAreEntered

/-- R61, R95, R215, R476: a read of the low word of CYCLE, MWORK, the selected accumulator or the selected trace entry latches
the rest for its reader; the last two give 0 in a job loaded without debug. -/
def Sys2Proof.Claims.LatchingReads : Prop :=
  ∀ (w : Who) (d : Fin 32) (s : State), Issues w none s →
    let k := (slot w s).core w.core
    let latch := fun (i : Instr) (p : BitVec 16) (v : Nat) (f : Thread → Thread) => Ins i w p d s
      (Changed w (fun k => k.updThread w.thread (fun th => (f th).setD d (BitVec.ofNat 64 v))) s)
    let cyc := issueCycle w s
    let a := k.adbg w.core
    let e := ((slot w s).bent (w.core.val / 44)).traceEntry
    latch (.cycleLoRead w d) 0x0905 (cyc % 2 ^ 32) (fun th => { th with cycleHi := BitVec.ofNat 32 (cyc / 2 ^ 32) }) ∧
    latch (.mworkLoRead w d) 0x0601 (k.mwork.toNat % 2 ^ 32)
      (fun th => { th with mworkHi := BitVec.ofNat 32 (k.mwork.toNat / 2 ^ 32) }) ∧
    (((slot w s).thread w).mode = true → (slot w s).debug = true →
      latch (.adbgW0Read w d) 0x0F21 (a.w.toNat % 2 ^ 32) (fun th => { th with
        adbgW := a.w, adbgCls := BitVec.ofNat 2 (match a.cls with | .fin => 0 | .pinf => 1 | .ninf => 2 | .nan => 3) }) ∧
      latch (.trdata0Read w d) 0x0F32 (e.toNat % 2 ^ 32) (fun th => { th with trLatch := e })) ∧
    (((slot w s).thread w).mode = true → (slot w s).debug = false →
      Ins (.adbgW0Read w d) w 0x0F21 d s (reads w d 0 s) ∧ Ins (.trdata0Read w d) w 0x0F32 d s (reads w d 0 s))

/-- R475: DREGSEL selects an item of a thread and clears ERR; DRCMD reads or writes it in a STOPPED or HALTED thread, and sets
ERR for one that runs or for an item that does not exist. -/
def Sys2Proof.Claims.DebugRegisterAccess : Prop :=
  ∀ (w : Who) (sr : Fin 32) (s : State), Issues w none s → Alone w s → ((slot w s).thread w).mode = true →
    (slot w s).debug = true →
    let v := outValue w sr s
    let k := (slot w s).core w.core
    let cmd := fun (i : Instr) (g : Core → Core) => Outs i w 0x0F11 sr s (Changed w g s)
    Outs (.dregselWrite w sr) w 0x0F10 sr s (Changed w (fun k => { k with dregsel := v &&& 0xF80003FF, dregErr := false }) s) ∧
    (∀ (t : Fin 4) (r : Fin 32), k.dregsel.toNat = t.val * 2 ^ 30 + 1 * 2 ^ 27 + r.val →
      ((k.thread t).tstate = .stopped ∨ (k.thread t).tstate = .halted →
        (v.getLsbD 0 = true → v.getLsbD 1 = false →
          cmd (.drcmdRead w sr) (fun k => { k with dreg := (k.thread t).getD r })) ∧
        (v.getLsbD 0 = false → v.getLsbD 1 = true →
          cmd (.drcmdWrite w sr) (fun k => k.updThread t (fun th => th.setD r k.dreg)))) ∧
      ((k.thread t).tstate = .running ∨ (k.thread t).tstate = .waiting → v.getLsbD 0 = true ∨ v.getLsbD 1 = true →
        ∀ i ∈ [Instr.drcmdRead w sr, Instr.drcmdWrite w sr], cmd i (fun k => { k with dregErr := true }))) ∧
    (k.dregsel.toNat / 2 ^ 27 % 8 = 5 → v.getLsbD 0 = true ∨ v.getLsbD 1 = true →
      ∀ i ∈ [Instr.drcmdRead w sr, Instr.drcmdWrite w sr], cmd i (fun k => { k with dregErr := true }))

/-- R61, R95, R215, R475, R476: the latching reads and the debug registers of a core. The model's choices it rests on:
log entry 35. -/
def Obligations.LatchingReadsAndDebugRegisters : Prop :=
  LatchingReads ∧ DebugRegisterAccess

/-- R207, R208, R210, R211: core locks. An attempt answers 1 for a free lock, which it takes, 2 for one's own and 0 for another's, which
it records; a release by the holder and a forced one remove the holder, and the core's threads are told in the cycle after. -/
def Sys2Proof.Claims.CoreLocks : Prop :=
  ∀ (w : Who) (d n sr : Fin 32) (s : State), Issues w none s →
    let k := (slot w s).core w.core
    let port := BitVec.ofNat 16 (0x500 + n.val)
    let holder := sget n.val k.locks
    let answers := fun (r : Nat) (g : Core → Core) => Ins (.clkAcquire w d n) w port d s (Changed w (fun k =>
      (g (k.updThread w.thread (fun th => { th with lockRec := if r = 0 then some (.core n) else none }))).updThread w.thread
        (fun th => th.setD d (BitVec.ofNat 64 r))) s)
    (holder = none → answers 1 (fun k => { k with locks := sset n.val w.thread k.locks })) ∧
    (holder = some w.thread → answers 2 id) ∧
    (∀ u, u ≠ w.thread → holder = some u → answers 0 id) ∧
    (Alone w s → holder = some w.thread → Outs (.clkRelease w n sr) w port sr s (fun f t =>
      Changed w (fun k => { k with locks := sdel n.val k.locks }) s f t ∧ Follows t.hw t.hw.clock (.lockFree w.core (.core n)))) ∧
    (Alone w s → holder ≠ some w.thread → Outs (.clkRelease w n sr) w port sr s (Changed w id s)) ∧
    (Alone w s → ((slot w s).thread w).mode = true → Yields (.clforce w sr) s (fun t =>
      (∀ m < 32, sget m (t.hw.core w.core).locks = if (outValue w sr s).getLsbD m then none else sget m k.locks) ∧
      ((outValue w sr s).getLsbD n.val = true → holder ≠ none → Follows t.hw t.hw.clock (.lockFree w.core (.core n))) ∧
      (t.hw.thread w).pc = ((slot w s).thread w).pc + 4 ∧ t.mem = s.mem))

/-- R209, R210, R211: bent locks. A request goes to the bent's lock unit and stalls its thread; a release comes to the unit after the
requests before it, `x` being the state then; the threads of the bent are told in the cycle after. -/
def Sys2Proof.Claims.BentLocks : Prop :=
  ∀ (w : Who) (d sr : Fin 32) (l : Fin 256) (s : State), Issues w none s → l.val = ((slot w s).thread w).blsel.toNat →
    let b := w.core.val / 44
    let x := Hw.decideAll b 176 (slot w s)
    Yields (.blkRequest w d) s (fun t => Left w (stalled w s .lock 0) s t ∧
      (t.hw.bent b).lockReqs =
        ((slot w s).bent b).lockReqs ++ [{ who := w, d := d, lock := l, issued := (slot w s).clock }]) ∧
    (Alone w s →
      let freed := fun (t : State) => sget l.val (t.hw.bent b).locks = none ∧
        (∀ m, m ≠ l.val → sget m (t.hw.bent b).locks = sget m (x.bent b).locks) ∧
        (∀ (c : CoreId) (k : Core), sget c.val x.cores = some k → c.val / 44 = b →
          Follows t.hw t.hw.clock (.lockFree c (.bent l))) ∧
        (t.hw.thread w).pc = (x.thread w).pc + 4 ∧ t.mem = s.mem
      let kept := fun (t : State) => t.hw.bent b = x.bent b ∧ (t.hw.thread w).pc = (x.thread w).pc + 4 ∧ t.mem = s.mem
      (sget l.val (x.bent b).locks = some w → Yields (.blkRelease w sr) s freed) ∧
      (sget l.val (x.bent b).locks ≠ some w → Yields (.blkRelease w sr) s kept) ∧
      (((slot w s).thread w).mode = true → sget l.val (x.bent b).locks ≠ none → Yields (.blforce w sr) s freed) ∧
      (((slot w s).bent b).lockReqs = [] → x = slot w s))

/-- R209: a bent's lock unit serves the oldest request, of those of one cycle that of the lowest core; one request in a cycle, from 8
cycles after its issue; its result is in the register 8 cycles later, when its thread issues again. -/
def Sys2Proof.Claims.LockUnitServes : Prop :=
  ∀ (b : BentId) (s : State), (s.hw.bent b).lockReqs ≠ [] →
    ∃ q ∈ (s.hw.bent b).lockReqs, (∀ r ∈ (s.hw.bent b).lockReqs,
        q.issued < r.issued ∨ (q.issued = r.issued ∧ q.who.core.val ≤ r.who.core.val)) ∧
      let at_ := Max.max (q.issued + 8) (s.hw.bent b).lockFrom
      let x := s.hw.event at_
      let holder := sget q.lock.val (x.bent b).locks
      Acts (.bentLockServe b) s (fun h =>
        (h.thread q.who).getD q.d = (match holder with
          | none => 1
          | some o => if o = q.who then 2 else 0) ∧
        (holder = none → sget q.lock.val (h.bent b).locks = some q.who) ∧
        (holder ≠ none → (h.bent b).locks = (x.bent b).locks) ∧
        (h.bent b).lockReqs.length + 1 = (s.hw.bent b).lockReqs.length ∧ (h.bent b).lockFrom = at_ + 1 ∧
        (h.thread q.who).stall = none ∧ (h.thread q.who).pc = (x.thread q.who).pc + 4 ∧
        at_ + 8 ≤ (h.core q.who.core).cyc0 + (h.thread q.who).nextIssue ∧ h.clock = Max.max s.hw.clock at_)

/-- R210: the notice of a freed lock raises the event of each thread of the core that recorded the lock and enabled its event. -/
def Sys2Proof.Claims.LockNotices : Prop :=
  ∀ (c : CoreId) (l : LockRef) (h : Hw) (t : Fin 4),
    let th := (h.core c).thread t
    ((h.applyLater (.lockFree c l)).core c).thread t =
      if th.lockRec = some l ∧ th.lkevEn = true then
        { th with evpend := th.evpend ||| (1 <<< th.lkevEvt.val), lockRec := none }
      else th

/-- R207, R208, R209, R210, R211: core locks and bent locks are acquired, released and forced, and the threads that wait for
them are told. The model's choices it rests on: log entries 27 and 28. -/
def Obligations.LocksAreTakenAndReleased : Prop := CoreLocks ∧ BentLocks ∧ LockUnitServes ∧ LockNotices

/-! ### Channels -/

namespace Sys2Proof.Claims

/-- The credit of an entry of mortise `m` of core `c` travels back to who is owed it, from the state `y` (R244, R249, R256). -/
def CreditBack (c : CoreId) (m : Fin 16) (owed : CreditTo) (y h : Hw) : Prop :=
  match owed with
  | .tenon d n ep => ∃ fl, h.credits = y.credits ++
      [{ core := d, tenon := n, epoch := ep, due := y.clock + tupleLatency c d, source := some c, flit := fl }]
  | .plate p => ∃ fl, h.plateCredits = y.plateCredits ++
      [{ plate := p, core := c, mort := m, due := y.clock + 8 + meshTime (bentOf c) (plateRouter p), flit := fl }]

/-- What travels with a flit is delivered, no earlier than it is due: `x` is the state in which it has arrived (R275, R279). -/
def Lands (h : Hw) (flit due : Nat) (x : Hw) : Prop := ∃ at_ y, h.land flit due = some (at_, y) ∧ x = y.event at_

/-- R150, R151, R155, R243, R244, R245, R249, R256: SEND uses one credit of its tenon and sends the words of dS up to its route's
mortise, or into an egress entry for a remote route; it raises ILLEGAL beyond d31 and CHAN_ROUTE on a bad route, and stalls without a
credit. -/
def SendUsesACredit : Prop :=
  ∀ (w : Who) (n : Fin 16) (sr : Fin 32) (k : BitVec 2) (tag : BitVec 6) (s : State),
    let x := slot w s
    let th := x.thread w
    let ten := (x.core w.core).tenons[n]
    let r := Route.of ten.active
    let words := (th.d.toList.drop sr.val).take (k.toNat + 1)
    (Ready w none s → sr.val + k.toNat ≤ 31 → r.en = true → routeBad x w.core r (k.toNat + 1) = false → 0 < ten.credits →
      (x.core w.core).commitHolds n = false →
      Acts (.send w n sr k tag) s (fun h =>
        (h.core w.core).tenons[n].credits + 1 = ten.credits ∧ (h.thread w).pc = th.pc + 4 ∧ (h.thread w).d = th.d ∧
        (r.remote = false → (h.thread w).notices = th.notices + 1 ∧ ∃ t, h.tuples = x.tuples ++ [t] ∧
          t.words = words ∧ t.target.val = 44 * r.bent + r.core ∧ t.mort = r.mort ∧ t.addr = r.addr ∧ t.tag = tag ∧
          t.stream = false ∧ t.epoch = ten.epoch ∧ t.due = x.clock + tupleLatency w.core t.target) ∧
        (r.remote = true → r.module ∈ (h.thread w).remoteTo ∧
          sgetD r.module 0 (h.core w.core).remoteOut = sgetD r.module 0 (x.core w.core).remoteOut + 1 ∧
          ∃ e, (h.bent (w.core.val / 44)).egress = (x.bent (w.core.val / 44)).egress ++ [e] ∧
            e.tup.words = words ∧ e.tup.tag = tag ∧ e.dmod = r.module))) ∧
    (Issues w none s →
      (31 < sr.val + k.toNat → Yields (.send w n sr k tag) s (Left w (found w s { code := 0x01, epc := th.pc }) s)) ∧
      (sr.val + k.toNat ≤ 31 → r.en = false ∨ routeBad x w.core r (k.toNat + 1) = true →
        Yields (.send w n sr k tag) s (Left w (found w s { code := 0x28, epc := th.pc }) s)) ∧
      (sr.val + k.toNat ≤ 31 → r.en = true → routeBad x w.core r (k.toNat + 1) = false → th.stopReq = false →
        ten.credits = 0 ∨ (x.core w.core).commitHolds n = true → Acts (.send w n sr k tag) s (fun h =>
          h.thread w = stalled w s .credit n th ∧
          (h.core w.core).tenons[n] = { ten with stallStart := some (ten.stallStart.getD (issueCycle w s)) })))

/-- R150, R151, R155, R247: CREDIT reads the credits and sets Z when there is none. RECV moves the head entry's words to four registers,
absent words as 0, and removes the entry; an empty mortise stalls it, and a stream entry and a register that is no multiple of 4 fault. -/
def ReceivesTakeTheHeadEntry : Prop :=
  ∀ (w : Who) (n m : Fin 16) (d : Fin 32) (s : State), Issues w none s →
    let x := slot w s
    let th := x.thread w
    let c := (x.core w.core).tenons[n].credits
    Runs (.credit w d n) s (Ran w none 1 (fun th =>
      { (th.setD d (BitVec.ofNat 64 c)) with fz := decide (c = 0), fn := false, fc := false, fv := false }) s) ∧
    (∀ e rest, d.val % 4 = 0 → (x.core w.core).mortises[m] = e :: rest → e.stream = false →
      Acts (.recv w d m) s (fun h =>
        (∀ q : Fin 32, (h.thread w).getD q =
          if d.val ≤ q.val ∧ q.val < d.val + 4 then e.words.getD (q.val - d.val) 0 else th.getD q) ∧
        (h.thread w).pc = th.pc + 4 ∧ (h.core w.core).mortises = (x.core w.core).mortises.set m rest ∧
        CreditBack w.core m e.credit x h)) ∧
    (d.val % 4 ≠ 0 → Yields (.recv w d m) s (Left w (found w s { code := 0x01, epc := th.pc }) s)) ∧
    (d.val % 4 = 0 → (x.core w.core).mortises[m] = [] → th.stopReq = false →
      Yields (.recv w d m) s (Left w (stalled w s .mortise m) s)) ∧
    (∀ e rest, d.val % 4 = 0 → (x.core w.core).mortises[m] = e :: rest → e.stream = true →
      Yields (.recv w d m) s (Left w (found w s { code := 0x22, epc := th.pc }) s))

end Sys2Proof.Claims

/-- R150, R151, R155, R243, R244, R245, R247, R249, R256: SEND, CREDIT and RECV. -/
def Obligations.SendCreditAndReceive : Prop := SendUsesACredit ∧ ReceivesTakeTheHeadEntry

/-- R240, R249, R251, R254, R255, R294, R462: the oldest tuple in flight from a tenon enters its mortise, raises the event of its TAG
and sends a performance notice back; a full mortise drops it, with MOVF, a machine check and its credit returned; a core under reset
discards it and returns its credit; an addressed unit waits at its core. -/
def Sys2Proof.Claims.TuplesArrive : Prop :=
  ∀ (c : CoreId) (n : Fin 16) (t : Tuple) (rest : List Tuple) (y : Hw) (s : State),
    takeFirst (fun t => t.sender == c && t.tenon == n) s.hw.tuples = some (t, rest) →
    (s.hw.core c).frozenAt = none ∨ (s.hw.core t.target).frozenAt = none →
    Lands { s.hw with tuples := rest } t.flit t.due y →
    let x := y.caughtUp t.target
    let k := x.core t.target
    let notified := fun (h : Hw) => ∃ fl, h.noticesIn = x.noticesIn ++
      [{ who := ⟨c, t.thread⟩, due := x.clock + tupleLatency t.target c, flit := fl }]
    (t.flit = 0 → x.clock = Max.max s.hw.clock t.due) ∧
    (t.addr = false → k.held = false → k.mortises[t.mort].length < 8 →
      Acts (.tupleArrival c n) s (fun h =>
        (h.core t.target).mortises = k.mortises.set t.mort (k.mortises[t.mort] ++
          [{ words := t.words, k := t.k, tag := t.tag, stream := t.stream, credit := .tenon c n t.epoch }]) ∧
        (∀ u : Fin 4, u.val = t.tag.toNat / 16 → ((h.core t.target).thread u).evpend.getLsbD (t.tag.toNat % 16) = true) ∧
        h.tuples = x.tuples ∧ h.clock = x.clock ∧ notified h)) ∧
    (t.addr = false → k.held = false → 8 ≤ k.mortises[t.mort].length →
      Acts (.tupleArrival c n) s (fun h =>
        (h.core t.target).mortises = k.mortises ∧ (h.core t.target).movf.getLsbD t.mort.val = true ∧
        (h.core t.target).mcstat.getLsbD 2 = true ∧ Follows h h.clock (.cause ⟨t.target, 0⟩ 10) ∧
        CreditBack t.target t.mort (.tenon c n t.epoch) x h ∧ notified h)) ∧
    (t.addr = false → k.held = true → Acts (.tupleArrival c n) s (fun h =>
      h.core t.target = k ∧ CreditBack t.target t.mort (.tenon c n t.epoch) x h ∧ notified h)) ∧
    (t.addr = true → Acts (.tupleArrival c n) s (fun h =>
      ∃ u, (h.core t.target).unitQ = k.unitQ ++ [u] ∧ u.off = (t.words.headD 0).toNat % 2 ^ 21 ∧
        u.data = wordsBytes ((t.words.drop 1).map (·.toNat)) ∧ u.remote = true ∧
        (u.bad = true ↔ 2 ^ 21 ≤ (t.words.headD 0).toNat ∨ (t.words.headD 0).toNat % 8 ≠ 0)))

/-- R244, R260, R294: a credit of the tenon's epoch counts, up to 8, and another is discarded; a notice counts down its thread's. -/
def Sys2Proof.Claims.CreditsAndNoticesCount : Prop :=
  (∀ (c : CoreId) (n : Fin 16) (x : Credit) (rest : List Credit) (at_ : Nat) (h0 : Hw) (s : State),
    takeFirst (fun x => x.core == c && x.tenon == n) s.hw.credits = some (x, rest) →
    (s.hw.core c).frozenAt = none ∨ (∀ d, x.source = some d → (s.hw.core d).frozenAt = none) →
    ({ s.hw with credits := rest } : Hw).land x.flit x.due = some (at_, h0) →
    let y := (h0.reach at_).caughtUp c
    (y.core c).stream = none →
    let ten := (y.core c).tenons[n]
    Acts (.creditReturn c n) s (fun h =>
      (h.core c).tenons[n].credits = (if ten.epoch = x.epoch then Min.min 8 (ten.credits + 1) else ten.credits) ∧
      (∀ m, m ≠ n → (h.core c).tenons[m].credits = (y.core c).tenons[m].credits) ∧ h.clock = y.clock ∧
      (x.flit = 0 → h.clock = Max.max s.hw.clock x.due) ∧
      (∀ t, x.notice = some t → ((y.core c).thread t).late = 0 →
        ((h.core c).thread t).notices = ((y.core c).thread t).notices - 1))) ∧
  (∀ (w : Who) (x : Notice) (rest : List Notice) (y : Hw) (s : State),
    takeFirst (fun x => x.who == w) s.hw.noticesIn = some (x, rest) → Lands { s.hw with noticesIn := rest } x.flit x.due y →
    Acts (.performanceNotice w) s (fun h =>
      h.thread w = (if (y.thread w).late = 0 then { y.thread w with notices := (y.thread w).notices - 1 }
        else { y.thread w with late := (y.thread w).late - 1 }) ∧
      h.clock = y.clock ∧ ∀ c : CoreId, c ≠ w.core → h.core c = y.core c))

/-- R240, R244, R249, R251, R254, R255, R260, R294, R462: tuples, credits and performance notices arrive. -/
def Obligations.TuplesCreditsAndNoticesArrive : Prop := TuplesArrive ∧ CreditsAndNoticesCount

namespace Sys2Proof.Claims

/-- Every tenon whose route changes holds 8 credits (R242). -/
def MayCommit (k : Core) : Prop := ∀ n : Fin 16, k.tenons[n].shadow = k.tenons[n].active ∨ k.tenons[n].credits = 8

/-- The shadow routes of a core become active (R242). -/
def committed (k : Core) : Core := { k with ncommitPending := false, tenons := k.tenons.map (fun t => { t with active := t.shadow }) }

/-- The tenons of a mask hold 8 credits of a new epoch; a stall counter starts again for a send that is still stalled (R258, R260). -/
def forced (v : W32) (cyc : Nat) (k : Core) : Core :=
  { k with tenons := Vector.ofFn (fun n =>
      if v.getLsbD n.val then
        { k.tenons[n] with credits := 8, epoch := k.tenons[n].epoch + 1, stallReported := false
                           stallStart := if ∃ t : Fin 4, (k.thread t).stall = some .credit ∧ (k.thread t).stallOn = n.val
                             then some (cyc + 1) else none }
      else k.tenons[n]) }

end Sys2Proof.Claims

/-- R28, R242, R252, R258, R260: NCOMMIT applies the shadow routes to all tenons at once when every changed one holds 8 credits, and else
leaves the commit pending until then; MFLUSH empties the mortises of its mask and returns their credits; NFORCE gives the tenons of its
mask 8 credits and a new epoch, and a pending commit that may then be applied is; STALL_LIMIT is written whole, after any purlin write of
the cycle. The model's choices it rests on: log entry 32. -/
def Obligations.RouteCommitFlushAndForce : Prop :=
  (∀ (w : Who) (sr : Fin 32) (s : State), Issues w none s → ((slot w s).thread w).mode = true →
    let v := outValue w sr s
    let k := (slot w s).core w.core
    Yields (.stallLimitWrite w sr) s (fun t => (t.hw.core w.core).stallLimit = v) ∧
    (Alone w s → Outs (.stallLimitWrite w sr) w 0x0910 sr s (Changed w (fun k => { k with stallLimit := v }) s)) ∧
    (Alone w s → v.getLsbD 0 = false → Outs (.ncommit w sr) w 0x0120 sr s (Changed w id s)) ∧
    (Alone w s → k.stream = none →
      (v.getLsbD 0 = true → MayCommit k → Outs (.ncommit w sr) w 0x0120 sr s (Changed w committed s)) ∧
      (v.getLsbD 0 = true → ¬MayCommit k →
        Outs (.ncommit w sr) w 0x0120 sr s (Changed w (fun k => { k with ncommitPending := true }) s)) ∧
      (let f := forced v (issueCycle w s)
       (k.ncommitPending = true → MayCommit (f k) → Outs (.nforce w sr) w 0x0121 sr s (Changed w (fun k => committed (f k)) s)) ∧
       (k.ncommitPending = false ∨ ¬MayCommit (f k) → Outs (.nforce w sr) w 0x0121 sr s (Changed w f s)))) ∧
    (Alone w s → Acts (.mflush w sr) s (fun h =>
      (h.thread w).pc = ((slot w s).thread w).pc + 4 ∧
      ∀ m : Fin 16, (h.core w.core).mortises[m] = (if v.getLsbD m.val then [] else k.mortises[m]) ∧
        (v.getLsbD m.val = true → ∀ e ∈ k.mortises[m], match e.credit with
          | .tenon c n ep => ∃ x ∈ h.credits, x.core = c ∧ x.tenon = n ∧ x.epoch = ep ∧
              x.due = h.clock + tupleLatency w.core c ∧ x.source = some w.core
          | .plate p => ∃ x ∈ h.plateCredits, x.plate = p ∧ x.core = w.core ∧ x.mort = m)))) ∧
  (∀ (c : CoreId) (s : State), (s.hw.core c).stream = none →
    let k := s.hw.core c
    (k.ncommitPending = true → k.frozenAt = none → MayCommit k → Acts (.routeCommitApply c) s (fun h => h.core c = committed k)) ∧
    (k.ncommitPending = false ∨ k.frozenAt ≠ none ∨ ¬MayCommit k → Acts (.routeCommitApply c) s (fun h => h.core c = k)))

/-- R256: an entry of the egress agent is free when its flit leaves the bent's router; its credit returns in the cycle after and
its record is on its way to its exit plate. -/
def Sys2Proof.Claims.EgressEntriesAreFreed : Prop :=
  ∀ (c : CoreId) (n : Fin 16) (x : Egress) (rest : List Egress) (f : Flit) (y : Nat) (h0 : Hw) (s : State),
    takeFirst (fun x => x.tup.sender == c && x.tup.tenon == n) (s.hw.bent (c.val / 44)).egress = some (x, rest) →
    s.hw.flits.find? (fun f => f.serial == x.tup.flit) = some f → s.hw.driveOut x.tup.flit = some (y, h0) →
    let z := h0.event (s.hw.fcyc0 + y)
    Acts (.remoteEgressFree c n) s (fun h => h.clock = z.clock ∧
      h.credits = z.credits ++ [{ core := c, tenon := n, epoch := x.tup.epoch, due := s.hw.fcyc0 + y + 1, source := none }] ∧
      (h.bent (c.val / 44)).egress = rest ∧
      ∃ q, (h.recs (routerPlate f.dst)).inbox = (z.recs (routerPlate f.dst)).inbox ++ [q] ∧ q.flit = x.tup.flit ∧ q.vc = x.vc ∧
        q.record.words = x.tup.words ∧ q.record.dmod = x.dmod ∧ q.record.kind = (if x.tup.addr then .addr else .tuple) ∧
        44 * q.record.bent + q.record.core = x.tup.target.val ∧ q.record.sgcore = c.val)

/-- R256, R295, R300: a tuple that its plate has sent is written into its mortise when that has room and no addressed unit of its sender
is still to be written, and is answered with an ACK. -/
def Sys2Proof.Claims.RemoteTuplesAreDelivered : Prop :=
  ∀ (p : Plate) (c : CoreId) (m : Fin 16) (q : Queued) (rest : List Queued) (y : Hw) (s : State),
    let h0 := s.hw.plateTurn p c m
    takeFirst (fun q => q.isFor c m) (h0.recs p).flying = some (q, rest) → Lands h0 q.flit (h0.fcyc0 + q.stamp) y →
    let x := y.caughtUp c
    (x.core c).held = false → (x.core c).unitsBefore p q.record = false → (x.core c).mortises[m].length < 8 →
    Acts (.remoteDelivery p c m) s (fun h => h.clock = x.clock ∧
      (h.core c).mortises[m] = (x.core c).mortises[m] ++
        [{ words := q.record.words, k := BitVec.ofNat 2 q.record.k, tag := BitVec.ofNat 6 q.record.tag,
           stream := q.record.mark, credit := .plate p }] ∧
      (h.recs p).flying = rest ∧
      ∃ a, (h.recs p).inbox = (x.recs p).inbox ++ [a] ∧ a.record.kind = .ack ∧ a.record.dmod = q.record.smod ∧
        a.record.count = 1)

/-- R295, R296, R339: an ACK or a LOST record acknowledges sends of its core to its module, and with the last of them no thread waits
for the module; LOST is a machine check. -/
def Sys2Proof.Claims.AcknowledgementsArrive : Prop :=
  ∀ (c : CoreId) (lost : Bool) (x : AckIn) (rest : List AckIn) (y : Hw) (s : State),
    takeFirst (fun x => x.core == c && x.lost == lost) s.hw.acksIn = some (x, rest) →
    Lands { s.hw with acksIn := rest } x.flit s.hw.clock y →
    let left := sgetD x.module 0 (y.core c).remoteOut - x.count
    Acts (if lost then .lostRecord c else .ackRecord c) s (fun h =>
      sgetD x.module 0 (h.core c).remoteOut = left ∧ h.acksIn = y.acksIn ∧
      (∀ t, ((h.core c).thread t).remoteTo =
        if left = 0 then (((y.core c).thread t).remoteTo.filter (· != x.module)) else ((y.core c).thread t).remoteTo) ∧
      (lost = true → (h.core c).mcstat.getLsbD 3 = true ∧ Follows h h.clock (.cause ⟨c, 0⟩ 10)))

/-- R258: a send stalled for STALL_LIMIT cycles sets its NSTALLED bit, once, and TENON_STALL in the cycle after. -/
def Sys2Proof.Claims.StalledSendsAreReported : Prop :=
  ∀ (c : CoreId) (n : Fin 16) (since : Nat) (s : State),
    let k := s.hw.core c
    k.tenons[n].stallStart = some since → k.stallLimit ≠ 0 → k.tenons[n].stallReported = false → k.frozenAt = none →
    let x := s.hw.coreEvent c (since + k.stallLimit.toNat - 1)
    ((x.core c).tenons[n].stallStart = some since → Acts (.tenonStallExpiry c n) s (fun h =>
      (h.core c).nstalled = (x.core c).nstalled ||| (1 <<< n.val) ∧ (h.core c).tenons[n].stallReported = true ∧
      h.clock = x.clock ∧ Follows h h.clock (.cause ⟨c, 0⟩ 6))) ∧
    ((x.core c).tenons[n].stallStart ≠ some since → Acts (.tenonStallExpiry c n) s (fun h => h = x))

/-- R261, R262: a core is still when no thread of it can go on by itself, nothing waits in its mortises and no instruction computes; its
stillness counts from the next cycle, and when it has lasted for the window the core is STILL and its warden is told in the cycle
after. -/
def Sys2Proof.Claims.StillCoresAreReported : Prop :=
  (∀ (k : Core) (cyc : Nat), k.stream = none →
    (k.isStill cyc = true ↔
      (∀ t, ((k.thread t).tstate = .waiting ∨ (k.thread t).tstate = .halted ∨
          ((k.thread t).tstate = .running ∧ ((k.thread t).stall = some .credit ∨ (k.thread t).stall = some .mortise))) ∧
        (k.thread t).timer = none ∧ (k.thread t).xoutstanding = 0) ∧
      (∀ m : Fin 16, k.mortises[m] = []) ∧ (∀ j ∈ k.mat, j.held = false) ∧ k.tileMove = none ∧ k.coreHalt = false) ∧
    (k.isStill (cyc + 1) = true → k.noted cyc = { k with stillFrom := some (k.stillFrom.getD (cyc + 1)) }) ∧
    (k.isStill (cyc + 1) = false → k.noted cyc = { k with stillFrom := none, still := false })) ∧
  (∀ (c wd : CoreId) (from_ : Nat) (s : State), wd.val = 44 * (c.val / 44) + 40 →
    let k := s.hw.core c
    let at_ := k.cyc0 + (from_ + Max.max 1 (k.stillCtl.toNat % 2 ^ 20) - 1)
    k.stillFrom = some from_ → k.stillCtl.getLsbD 31 = true → k.still = false → k.frozenAt = none → k.held = false →
    s.hw.coming c at_ = false →
    Acts (.stillnessReport c) s (fun h => (h.core c).still = true ∧ h.clock = Max.max s.hw.clock at_ ∧
      Follows h h.clock (.stilled wd (c.val % 44)))) ∧
  (∀ (wd : CoreId) (bit : Nat) (h : Hw),
    let y := h.applyLater (.stilled wd bit)
    (y.core wd).wstill = (h.core wd).wstill ||| (1 <<< bit) ∧
    ((y.core wd).thread 0).ipend = ((h.core wd).thread 0).ipend ||| 0x008)

/-- R256, R258, R261, R262, R295, R296, R300, R339: remote tuples and their acknowledgements, stalled sends and still cores. The model's
choices it rests on: log entries 33 and 95. -/
def Obligations.RemoteTuplesStallsAndStillness : Prop :=
  EgressEntriesAreFreed ∧ RemoteTuplesAreDelivered ∧ AcknowledgementsArrive ∧ StalledSendsAreReported ∧ StillCoresAreReported

/-! ### The matrix engine, groups, streams and tiles -/

namespace Sys2Proof.Claims

/-- Rows and columns of the array and of a group (R33, R66). -/
def side (c : CoreId) : Nat := if c.val % 44 < 32 then 32 else if c.val % 44 < 40 then 8 else 4

/-- Thread `t` owns a tile register that holds something. -/
def Owned (t : Fin 4) (x : Tile) : Prop := x.rows ≠ 0 ∧ x.owner = t

/-- Thread `w` may compute on group `g` from tiles `ta` and `tb`: R51 finds nothing, and the formats are the group's. -/
structure Computes (w : Who) (g ta tb : Fin 8) (k : Core) : Prop where
  group : g.val < (if w.core.val % 44 < 32 then 8 else 4)
  opened : k.groups[g].opened = true ∧ k.groups[g].owner = w.thread
  owned : Owned w.thread k.tiles[ta] ∧ Owned w.thread k.tiles[tb]
  formats : k.tiles[ta].fmt = k.groups[g].fa ∧ k.tiles[tb].fmt = k.groups[g].fb
  inputs : k.tiles[ta].fmt.toNat < 0xD ∧ k.tiles[tb].fmt.toNat < 0xD

/-- A matrix instruction has been accepted with the contents of its operands (R52, R54). -/
def Accepted (w : Who) (g ta tb : Fin 8) (tm : Option (Fin 8)) (neg : Bool) (i : Instr) (s : State) : Prop :=
  let k := (slot w s).core w.core
  Acts i s (fun h => ∃ j, (h.core w.core).mat = k.mat ++ [j] ∧ j.thread = w.thread ∧ j.g = g ∧ j.ta = ta ∧
    j.tb = tb ∧ j.tm = tm ∧ j.neg = neg ∧ j.opA = k.tiles[ta] ∧ j.opB = k.tiles[tb] ∧
    j.opM = tm.map (fun t => k.tiles[t]) ∧ j.stage = .accepted (issueCycle w s) ∧
    j.serial = k.matSerial + 1 ∧ (h.core w.core).tiles = k.tiles ∧
    (h.core w.core).groups = k.groups ∧ h.thread w = ended w {} none 1 s ((slot w s).thread w))

/-- R54, R75, R83, R111, R126: what keeps a tile from being written, a tile from being read, and a group from being used. -/
def InterlocksHold : Prop :=
  ∀ (k : Core) (t g : Fin 8) (cyc : Nat),
    let drained := ∃ d ∈ k.drains, (d.td = t ∨ d.ts = some t) ∧ cyc ≤ d.start + d.lag + d.rows - 1
    (k.writeWaits t cyc = true ↔
      (∃ j ∈ k.mat, (j.ta = t ∧ j.held = true) ∨
        ((j.tb = t ∨ j.tm = some t) ∧ (j.stage.isAccepted = true ∨ j.stage.isLoading = true))) ∨
      drained ∨ k.tileMove.map (·.t) = some t ∨ cyc < k.tileFree[t]) ∧
    (k.readWaits t cyc = true ↔ drained) ∧
    (k.groupWaits g cyc = true ↔
      (∃ j ∈ k.mat, j.g = g) ∨ (∃ d ∈ k.drains, d.g = g ∧ cyc ≤ d.start + d.rows - 1) ∨ cyc < k.groupFree[g])

/-- R45, R46, R47, R51, R52: TMMA, TMMAN and TMMAS are accepted with their operands' contents, stall on a full engine and while a drain or
a held release names a tile, and fault in the order of the checks. -/
def MatrixInstructionsIssue : Prop :=
  ∀ (w : Who) (g ta tb tm : Fin 8) (s : State), Issues w none s →
    let k := (slot w s).core w.core
    let th := (slot w s).thread w
    let a := k.tiles[ta]
    let b := k.tiles[tb]
    let m := k.tiles[tm]
    let dense := a.elems = b.elems
    let sparse := Owned w.thread m ∧ m.fmt = 0xD ∧ a.fmt.toNat ∈ [1, 2, 4, 5, 6] ∧ a.elems = 2 * b.elems ∧ a.elems % 8 = 0 ∧
      m.rows = b.rows ∧ m.rbytes = a.elems / 8 ∧ tm ≠ ta ∧ tm ≠ tb
    let free := fun (t : Fin 8) => k.readWaits t (issueCycle w s) = false ∧ k.trelNames t = false
    let room := (k.mat.filter MatJob.held).length < 3
    (Computes w g ta tb k → free ta → free tb → room →
      (dense → Accepted w g ta tb none false (.tmma w g ta tb) s ∧ Accepted w g ta tb none true (.tmman w g ta tb) s) ∧
      (sparse → free tm → Accepted w g ta tb (some tm) false (.tmmas w g ta tb tm) s)) ∧
    (Computes w g ta tb k → dense → ∀ i ∈ [Instr.tmma w g ta tb, Instr.tmman w g ta tb],
      (free ta → free tb → ¬room → Yields i s (Left w (stalled w s .engine 0) s)) ∧
      (¬(free ta ∧ free tb) → Yields i s (Left w (stalled w s .interlock 0) s))) ∧
    (∀ i ∈ [Instr.tmma w g ta tb, Instr.tmman w g ta tb, Instr.tmmas w g ta tb tm],
      let fails := fun (code : Nat) => Yields i s (Left w (found w s { code := code, epc := th.pc }) s)
      (4 ≤ g.val → 32 ≤ w.core.val % 44 → fails 0x10) ∧
      (g.val < 4 → a.rows = 0 ∨ b.rows = 0 → fails 0x16) ∧
      (g.val < 4 → a.rows ≠ 0 → b.rows ≠ 0 → m.rows ≠ 0 → a.owner ≠ w.thread → fails 0x17) ∧
      (g.val < 4 → Owned w.thread a → Owned w.thread b → Owned w.thread m → k.groups[g].opened = false → fails 0x11))

/-- R48: MSYNC completes at once when every instruction accepted before has updated its group, and else stalls until the last of them
does. -/
def MsyncWaitsForUpdates : Prop :=
  ∀ (w : Who) (s : State), Issues w none s →
    let k := (slot w s).core w.core
    ((∀ j ∈ k.mat, k.matSerial < j.serial) → Runs (.msync w) s (Ran w none 1 id s)) ∧
    ((∃ j ∈ k.mat, j.serial ≤ k.matSerial) → ((slot w s).thread w).stopReq = false →
      Yields (.msync w) s (Left w (stalled w s .msync k.matSerial) s))

end Sys2Proof.Claims

/-- R45, R46, R47, R48, R51, R52, R54, R75, R83, R126: the matrix instructions are accepted, and what holds them back. -/
def Obligations.MatrixInstructionsAreAccepted : Prop := InterlocksHold ∧ MatrixInstructionsIssue ∧ MsyncWaitsForUpdates

namespace Sys2Proof.Claims

/-- The oldest instruction of a core in a stage moves to another, `x` being the state in which it does; nothing else of the core changes
but what the stage frees. -/
def StageMoves (c : CoreId) (i : Instr) (s : State) (x : Hw) (j : MatJob) (st : MatStage) : Prop :=
  Acts i s (fun h =>
    let k := x.core c
    (h.core c).mat.length = k.mat.length ∧ { j with stage := st } ∈ (h.core c).mat ∧ h.clock = x.clock ∧
    { h.core c with mat := k.mat, arrayFrom := k.arrayFrom, tileFree := k.tileFree, still := k.still
                    stillFrom := k.stillFrom } = k)

end Sys2Proof.Claims

/-- R52, R53, R54, R58, R59, R60: the stages of an accepted instruction. A stationary load begins with a free buffer, after the load before
it, and takes a cycle for each 256 bytes of the stationary tile and of the metadata; computation begins when the array is free
and takes the cycles of R58; its last product reaches the group 14, 10 or 8 cycles later. A tile may be written from the cycle after the
one in which it is read out. -/
def Sys2Proof.Claims.StagesFollow : Prop :=
  ∀ (c : CoreId) (j : MatJob) (at_ : Nat) (s : State),
    let k := s.hw.core c
    let lines := fun (t : Tile) => (t.rows * t.rbytes + 255) / 256
    let buffers := (k.mat.filter (fun x => x.stage.isLoading || x.stage.isLoaded || x.stage.isComputing)).length
    let rate := (match j.opA.fmt.toNat with | 1 => 1 | 2 => 1 | 7 => 4 | 0xC => 4 | _ => 2) * (if j.tm.isSome then 2 else 1)
    let takes := if j.opA.fmt = 3 then 4 * j.opA.elems else (j.opA.elems + rate - 1) / rate
    k.frozenAt = none → (∀ t : Fin 4, k.trelWait[t] = none) →
    (k.mat.find? (·.stage.isAccepted) = some j → j.stage = .accepted at_ → buffers < 2 →
      (∀ x ∈ k.mat, x.stage.isLoading = false) →
      ∃ from_, at_ < from_ ∧ (∀ y ∈ k.mat, y.stage.isLoaded = true → y.stage.time < from_) ∧
        (buffers = 1 → k.arrayFrom ≤ from_) ∧
        let x := s.hw.reachCycle c from_
        StageMoves c (.stationaryLoadStart c) s x j
          (.loading (x.cycle c + (lines j.opB + (j.opM.map lines).getD 0) - 1))) ∧
    (k.mat.find? (·.stage.isLoading) = some j → j.stage = .loading at_ →
      let x := s.hw.coreEvent c at_
      StageMoves c (.stationaryLoadEnd c) s x j (.loaded (x.cycle c)) ∧
      Acts (.stationaryLoadEnd c) s (fun h => ∀ t, t = j.tb ∨ j.tm = some t → x.cycle c < (h.core c).tileFree[t])) ∧
    (k.mat.find? (·.stage.isLoaded) = some j → j.stage = .loaded at_ → (∀ x ∈ k.mat, x.stage.isComputing = false) →
      let x := s.hw.reachCycle c (Max.max (at_ + 1) k.arrayFrom)
      StageMoves c (.matrixComputeStart c) s x j (.computing (x.cycle c + takes - 1))) ∧
    (k.mat.find? (·.stage.isComputing) = some j → j.stage = .computing at_ →
      let x := s.hw.coreEvent c at_
      StageMoves c (.matrixComputeEnd c) s x j (.updating (x.cycle c +
        (if c.val % 44 < 32 then 14 else if c.val % 44 < 40 then 10 else 8))) ∧
      Acts (.matrixComputeEnd c) s (fun h =>
        x.cycle c < (h.core c).tileFree[j.ta] ∧ (h.core c).arrayFrom = x.cycle c + 1))

/-- R48, R60, R63, R78: the update takes the instruction from the engine and counts its work units; an MSYNC that waited for it alone
completes, and its thread issues again from the next cycle. -/
def Sys2Proof.Claims.UpdatesCount : Prop :=
  ∀ (c : CoreId) (j : MatJob) (at_ : Nat) (s : State),
    let k := s.hw.core c
    k.frozenAt = none → k.mat.find? (·.stage.isUpdating) = some j → j.stage = .updating at_ → (∀ d ∈ k.drains, d.g ≠ j.g) →
    let x := s.hw.coreEvent c at_
    let y := x.core c
    let work := BitVec.ofNat 64 (j.opA.rows * j.opB.rows * j.opA.elems / (if j.tm.isSome then 2 else 1))
    Acts (.matrixUpdateComplete c) s (fun h =>
      (∀ z, z ∈ (h.core c).mat ↔ z ∈ y.mat ∧ z.serial ≠ j.serial) ∧ (h.core c).mwork = y.mwork + work ∧
      (h.bent (c.val / 44)).lineTotal = (x.bent (c.val / 44)).lineTotal + work ∧
      (∀ g, g ≠ j.g → (h.core c).groups[g] = y.groups[g]) ∧ (h.core c).tiles = y.tiles ∧ h.clock = x.clock ∧
      x.cycle c < (h.core c).groupFree[j.g] ∧
      ∀ t, (y.thread t).stall = some .msync → (y.thread t).tstate = .running →
        if ∃ z ∈ y.mat, z.serial ≠ j.serial ∧ z.serial ≤ (y.thread t).stallOn then (h.core c).thread t = y.thread t
        else ((h.core c).thread t).stall = none ∧ ((h.core c).thread t).pc = (y.thread t).pc + 4 ∧
          x.cycle c < ((h.core c).thread t).nextIssue)

/-- R48, R52, R53, R54, R58, R59, R60, R63, R78: the stages of a matrix instruction. The model's choices it rests on: log entry 2. -/
def Obligations.MatrixEngineStages : Prop := StagesFollow ∧ UpdatesCount

/-- R34, R55, R69, R70: the update adds to each accumulator (i, l), for row i of ta and row l of tb, the rounded
products of the two rows, of a sparse instruction those that the metadata row selects, and leaves every other
accumulator and the window as they stood. The model's choices it rests on: log entry 18. -/
def Obligations.ProductsEnterTheirGroup : Prop :=
  ∀ (c : CoreId) (j : MatJob) (at_ : Nat) (s : State),
    let k := s.hw.core c
    k.frozenAt = none → k.mat.find? (·.stage.isUpdating) = some j → j.stage = .updating at_ → j.opB.rows ≤ side c →
    (∀ d ∈ k.drains, d.g ≠ j.g) →
    Acts (.matrixUpdateComplete c) s (fun h =>
      let g := ((s.hw.coreEvent c at_).core c).groups[j.g]
      let g' := (h.core c).groups[j.g]
      let products := fun (i l : Nat) =>
        dot g.exp j.neg (factors (j.opA.nums i) (j.opB.nums l) (j.opM.map (fun m => ofBytes (m.row_ l))))
      (∀ i l, i < j.opA.rows → l < j.opB.rows → g'.at_ (side c * i + l) =
        ((g.at_ (side c * i + l)).add (products i l).1 (products i l).2.1).1) ∧
      (∀ a, (∀ i l, i < j.opA.rows → l < j.opB.rows → a ≠ side c * i + l) → g'.at_ a = g.at_ a) ∧
      (g'.inx = true ↔ g.inx = true ∨ ∃ i l, i < j.opA.rows ∧ l < j.opB.rows ∧ (products i l).2.2 = true) ∧
      (g.sat = true → g'.sat = true) ∧ { g' with acc := g.acc, inx := g.inx, sat := g.sat } = g)

/-- R74, R75, R76, R77, R83: AOPEN sets a window and clears its accumulators, ACLOSE closes it, ADRAIN holds its thread until the drain
begins; each fails on a group of another thread. -/
def Sys2Proof.Claims.GroupsOpenAndClose : Prop :=
  ∀ (w : Who) (g td : Fin 8) (ts : Option (Fin 8)) (fa fb : BitVec 4) (lse : BitVec 10) (keep : Bool) (shift : BitVec 8)
      (s : State), Issues w none s →
    let k := (slot w s).core w.core
    let th := (slot w s).thread w
    let gr := k.groups[g]
    let t := k.tiles[td]
    let fails := fun (i : Instr) (code : Nat) => Yields i s (Left w (found w s { code := code, epc := th.pc }) s)
    (g.val < (if w.core.val % 44 < 32 then 8 else 4) →
      (gr.opened = false ∨ gr.owner = w.thread →
        (k.groupWaits g (issueCycle w s) = false →
          (validPair fa.toNat fb.toNat = true → Runs (.aopen w g fa fb lse) s (Changed w (fun k => { k with
            groups := k.groups.set g { opened := true, owner := w.thread, fa := fa, fb := fb, lse := lse } }) s)) ∧
          Runs (.aclose w g) s (Changed w (fun k => { k with
            groups := k.groups.set g { gr with opened := false, owner := 0 } }) s)) ∧
        (k.groupWaits g (issueCycle w s) = true →
          (validPair fa.toNat fb.toNat = true → Yields (.aopen w g fa fb lse) s (Left w (stalled w s .interlock 0) s)) ∧
          Yields (.aclose w g) s (Left w (stalled w s .interlock 0) s))) ∧
      (gr.opened = true → gr.owner ≠ w.thread → fails (.aclose w g) 0x12 ∧ fails (.adrain w g td ts keep shift) 0x12 ∧
        (validPair fa.toNat fb.toNat = true → fails (.aopen w g fa fb lse) 0x12)) ∧
      (validPair fa.toNat fb.toNat = false → fails (.aopen w g fa fb lse) 0x14) ∧
      (gr.opened = true → gr.owner = w.thread → Owned w.thread t → t.fmt ≠ 0 → t.fmt ≠ 7 → t.fmt.toNat < 0xD →
        t.rows ≤ side w.core → t.elems ≤ side w.core → (8 ≤ t.fmt.toNat → t.elems = 32) →
        (∀ u, ts = some u → Owned w.thread k.tiles[u] ∧ k.tiles[u].fmt = 0xE ∧ k.tiles[u].rows = 1 ∧
          t.elems ≤ k.tiles[u].rbytes ∧ u ≠ td) →
        Acts (.adrain w g td ts keep shift) s (fun h =>
          h.thread w = stalled w s .drain 0 th ∧ (h.core w.core).groups = k.groups ∧ (h.core w.core).tiles = k.tiles ∧
          (h.core w.core).drainWait = k.drainWait.set w.thread
            (some { g := g, td := td, ts := ts, keep := keep, shift := shift, issued := issueCycle w s })))) ∧
    (4 ≤ g.val → 32 ≤ w.core.val % 44 → ∀ i ∈ [Instr.aopen w g fa fb lse, Instr.aclose w g, Instr.adrain w g td ts keep shift],
      fails i 0x10)

/-- R75, R83: a waiting ADRAIN begins after its issue, once its group and its tiles are free; its thread issues again. -/
def Sys2Proof.Claims.DrainsBegin : Prop :=
  ∀ (w : Who) (d : DrainWait) (s : State),
    let k := s.hw.core w.core
    let locked := fun (t : Fin 8) => k.moveLocks t = true ∨ k.trelNames t = true
    k.frozenAt = none → k.drainWait[w.thread] = some d → (∀ j ∈ k.mat, j.g ≠ d.g) → k.matLocks d.td = false →
    ¬locked d.td → (∀ u, d.ts = some u → ¬locked u) →
    Acts (.drainBegin w) s (fun h =>
      ∃ x : Hw, h.clock = x.clock ∧ (h.thread w).stall = none ∧ (h.thread w).pc = (x.thread w).pc + 4 ∧
      (h.core w.core).drainWait = (x.core w.core).drainWait.set w.thread none ∧ (h.core w.core).groups = (x.core w.core).groups ∧
      (∀ u, u ≠ d.td → (h.core w.core).tiles[u] = (x.core w.core).tiles[u]) ∧
      (h.core w.core).tiles[d.td] = { (x.core w.core).tiles[d.td] with ract := false, rdir := false, rx := false, row := 0 } ∧
      ∃ run : DrainRun, (h.core w.core).drains = (x.core w.core).drains ++ [run] ∧ run.start = x.cycle w.core ∧
        run.g = d.g ∧ run.td = d.td ∧ run.ts = d.ts ∧ run.keep = d.keep ∧ run.shift = d.shift ∧ run.rows = k.tiles[d.td].rows ∧
        run.read = 0 ∧ run.written = 0 ∧
        run.lag = (if w.core.val % 44 < 32 then 6 else if w.core.val % 44 < 40 then 4 else 3) ∧
        d.issued < run.start ∧ k.groupFree[d.g] ≤ run.start ∧ k.tileFree[d.td] ≤ run.start ∧
        ∀ r ∈ k.drains, (r.g = d.g → r.start + r.rows - 1 < run.start) ∧
          (r.td = d.td ∨ r.ts = some d.td ∨ d.ts = some r.td → r.start + r.lag + r.rows - 1 < run.start))

/-- R79, R80, R81, R82: a drain that has read and written all its rows leaves every element of its tile converted, the flags of the
group in the tile, and the group empty unless KEEP. -/
def Sys2Proof.Claims.DrainsConvert : Prop :=
  ∀ (k : Core) (c : CoreId) (d : DrainRun) (cyc : Nat),
    let gr := k.groups[d.g]
    let t := k.tiles[d.td]
    k.drains = [d] → d.read = 0 → d.written = 0 → d.rowsIn = [] → d.inx = false → d.sat = false →
    d.rows = t.rows → 0 < d.rows → d.ts ≠ some d.td → t.elems ≤ side c → d.start + d.lag + d.rows ≤ cyc →
    let k' := k.drainTo (side c) cyc
    let t' := k'.tiles[d.td]
    k'.drains = [] ∧ (∀ u, u ≠ d.td → k'.tiles[u] = k.tiles[u]) ∧ (∀ g, g ≠ d.g → k'.groups[g] = k.groups[g]) ∧
    k'.groups[d.g] = (if d.keep then gr else { gr with acc := [], inx := false, sat := false }) ∧
    t'.rows = t.rows ∧ t'.rbytes = t.rbytes ∧ t'.fmt = t.fmt ∧ t'.owner = t.owner ∧ t'.inx = gr.inx ∧
    (t.fmt ≠ 0 → t.fmt ≠ 7 → t.fmt.toNat < 0xD → t.rbytes ≤ 128 →
      -- the value of an accumulator, scaled by SHIFT and by the byte of its column in TS
      let x := fun r n => (gr.at_ (side c * r + n)).num
        (gr.exp + d.shift.toInt + ((d.ts.map (fun u => (byteAt n k.tiles[u].data).toInt)).getD 0))
      let block := fun r => drainMx t.fmt.toNat ((fmtOf t.fmt.toNat).getD fE4M3) ((List.range t.elems).map (x r))
      let bits := elemBits t.fmt.toNat
      (∀ r n, r < t.rows → n < t.elems → ofBytes (t'.row_ r) / 2 ^ (bits * n) % 2 ^ bits =
        (if t.fmt.toNat < 8 then (drainElem t.fmt.toNat (x r n)).1 else (block r).1.getD n 0) % 2 ^ bits) ∧
      (8 ≤ t.fmt.toNat → ∀ r < t.rows, byteAt (8 * r) t'.scale = BitVec.ofNat 8 (block r).2.1) ∧
      (t'.sat = true ↔ gr.sat = true ∨ ∃ r < t.rows,
        if t.fmt.toNat < 8 then ∃ n < t.elems, (drainElem t.fmt.toNat (x r n)).2 = true else (block r).2.2 = true))

/-- R79, R83: a drain reads one row in a cycle from its start on, and writes it LAG cycles later. A row that has been read is empty unless
KEEP; the rest of the group stands until the last row has been read. -/
def Sys2Proof.Claims.DrainsGoRowByRow : Prop :=
  (∀ (k : Core) (n : Nat) (d : DrainRun) (cyc : Nat), k.drains = [d] → d.read = 0 → d.written = 0 → d.rowsIn = [] →
    d.start ≤ cyc → cyc < d.start + d.lag + d.rows →
    ∃ e, (k.drainTo n cyc).drains = [e] ∧ e.read = Min.min d.rows (cyc - d.start) ∧
      e.written = Min.min d.rows (cyc - (d.start + d.lag)) ∧ e.rowsIn.length = e.read - e.written) ∧
  (∀ (k : Core) (n : Nat) (d : DrainRun), d.read + 1 < d.rows → 0 < n →
    let g := k.groups[d.g]
    let g' := (k.drainRead n d).1.groups[d.g]
    g'.inx = g.inx ∧ g'.sat = g.sat ∧
    ∀ a, g'.at_ a = if d.keep = false ∧ n * d.read ≤ a ∧ a < n * (d.read + 1) then {} else g.at_ a)

/-- R74, R75, R76, R77, R79, R80, R81, R82, R83: AOPEN, ACLOSE, ADRAIN and the drain. The model's choices it rests on: log entries 19
and 86. -/
def Obligations.GroupsOpenCloseAndDrain : Prop :=
  GroupsOpenAndClose ∧ DrainsBegin ∧ DrainsConvert ∧ DrainsGoRowByRow

/-- R84, R85, R86, R90, R91: APASS and ACHAIN start on the stream unit, at the cursor of their thread, and APASS sends its first tuple in
its slot; a route that does not fit, and a header that does not match, fault. A write of ABANDON clears the cursor. -/
def Sys2Proof.Claims.StreamsStart : Prop :=
  ∀ (w : Who) (g : Fin 8) (n : Fin 16) (tag : BitVec 6) (fwd : Option Fwd) (sr : Fin 32) (s : State), Issues w none s →
    let x := slot w s
    let k := x.core w.core
    let th := x.thread w
    let r := Route.of k.tenons[n].active
    let last := 1 + (if w.core.val % 44 < 32 then 392 else if w.core.val % 44 < 40 then 25 else 7)
    let gr := k.groups[g]
    let at_ := th.acur.tuples + th.acur.taken.length
    (Alone w s → Outs (.acurAbandon w sr) w 0x0628 sr s (Changed w (fun k => k.updThread w.thread (fun th => { th with
      acur := if (outValue w sr s).getLsbD 31 then ({} : Acur) else th.acur })) s)) ∧
    (g.val < (if w.core.val % 44 < 32 then 8 else 4) → gr.opened = true → gr.owner = w.thread →
      k.groupWaits g (issueCycle w s) = false → k.stream = none → th.stopReq = false →
      (r.en = true → r.addr = false → routeBad x w.core r 4 = false → at_ < last →
        (th.acur.active = true → th.acur.achain = false ∧ th.acur.g = g ∧ th.acur.chan = n) →
        (0 < k.tenons[n].credits → k.commitHolds n = false → r.remote = false →
          Acts (.apass w g n tag) s (fun h =>
            (h.thread w).stall = some .stream ∧ (h.thread w).pc = th.pc ∧ (h.core w.core).groups = k.groups ∧
            (∃ j, (h.core w.core).stream = some j ∧ j.thread = w.thread ∧ j.achain = false ∧ j.g = g ∧ j.chan = n ∧
              j.tuples = at_ + 1 ∧ j.nextSend = issueCycle w s + 2) ∧
            (h.core w.core).tenons[n].credits = k.tenons[n].credits - 1 ∧
            ∃ t ∈ h.tuples, t.words = (if at_ = 0 then streamHeader w.core g gr else streamData w.core gr at_) ∧
              t.stream = true ∧ t.tag = tag ∧ t.sender = w.core)) ∧
        (k.tenons[n].credits = 0 ∨ k.commitHolds n = true →
          Acts (.apass w g n tag) s (fun h =>
            (h.thread w).stall = some .stream ∧ (h.thread w).pc = th.pc ∧ h.tuples = x.tuples ∧
            ∃ j, (h.core w.core).stream = some j ∧ j.thread = w.thread ∧ j.achain = false ∧ j.g = g ∧ j.chan = n ∧
              j.tuples = at_))) ∧
      (r.en = false ∨ r.addr = true → Yields (.apass w g n tag) s (Left w (found w s { code := 0x20, epc := th.pc }) s)) ∧
      (th.acur.active = false → th.acur.taken = [] → th.acur.tuples = 0 →
        (∀ f, fwd = some f → (Route.of k.tenons[f.tenon].active).en = true ∧ (Route.of k.tenons[f.tenon].active).addr = false ∧
          routeBad x w.core (Route.of k.tenons[f.tenon].active) 4 = false) →
        (k.headBad w.core g n 0 = false → Acts (.achain w g n fwd) s (fun h =>
          (h.thread w).stall = some .stream ∧ (h.thread w).pc = th.pc ∧ (h.core w.core).groups = k.groups ∧
          (h.core w.core).mortises = k.mortises ∧
          ∃ j, (h.core w.core).stream = some j ∧ j.thread = w.thread ∧ j.achain = true ∧ j.g = g ∧ j.chan = n ∧ j.fwd = fwd ∧
            j.tuples = 0 ∧ j.taken = [])) ∧
        (k.headBad w.core g n 0 = true →
          Yields (.achain w g n fwd) s (Left w (found w s { code := 0x23, epc := th.pc }) s))))

/-- R74, R87, R88, R89, R92, R250: the stream unit of an ACHAIN that holds fewer than two tuples takes the head entry of its mortise, a
header that matches, a data tuple, which it adds, or a trailer; it is done with 4 cycles later. A tuple that does not fit raises
WINDOW_MISMATCH and stays. -/
def Sys2Proof.Claims.StreamTuplesAreTaken : Prop :=
  ∀ (c : CoreId) (j : StreamJob) (e : Entry) (rest : List Entry) (s : State),
    let x := s.hw.streamRoom c
    let k := x.core c
    let gr := k.groups[j.g]
    let at_ := j.tuples + j.taken.length
    let last := 1 + (if c.val % 44 < 32 then 392 else if c.val % 44 < 40 then 25 else 7)
    k.frozenAt = none → k.stream = some j → j.achain = true → j.taken.length < 2 → at_ ≤ last → k.mortises[j.chan] = e :: rest →
    let takes := fun (g : Group) (carry bits : Nat) (ws : List W64) => Acts (.streamTupleTake c) s (fun h =>
      h.clock = x.clock ∧ (h.core c).mortises = k.mortises.set j.chan rest ∧ CreditBack c j.chan e.credit x h ∧
      (h.core c).groups[j.g] = g ∧ (h.core c).stream = some { j with
        carry := carry, carryBits := bits, taken := j.taken ++ [{ due := x.cycle c + 4, words := ws }] })
    (e.stream = true →
      (at_ = 0 → headerMatches c gr e.words = true → takes gr 0 0 e.words) ∧
      (0 < at_ → at_ < last →
        let r := addTuple (side c * side c) at_ j.carry j.carryBits e.words gr
        takes r.1 r.2.1 r.2.2.1 r.2.2.2) ∧
      (at_ = last → trailerOk e.words = true →
        let g := { gr with inx := gr.inx || (e.words.headD 0).getLsbD 1, sat := gr.sat || (e.words.headD 0).getLsbD 0 }
        takes g 0 0 (streamTrailer g))) ∧
    (e.stream = false ∨ (at_ = 0 ∧ headerMatches c gr e.words = false) ∨ (at_ = last ∧ trailerOk e.words = false) →
      Acts (.streamTupleTake c) s (fun h => (h.core c).mortises = k.mortises ∧ (h.core c).groups = k.groups ∧
        (h.core c).stream = none ∧ (h.thread ⟨c, j.thread⟩).found =
          some { code := 0x23, epc := (x.thread ⟨c, j.thread⟩).pc, at_ := x.cycle c }))

/-- R90, R91, R92: a tuple taken by an ACHAIN without a forward route is complete in its fourth cycle; with the trailer the instruction
is, and its thread issues again from the next. With a route it is sent on, for a credit, one tuple in a cycle. -/
def Sys2Proof.Claims.StreamTuplesComplete : Prop :=
  ∀ (c : CoreId) (j : StreamJob) (t : Taken) (cyc : Nat) (h : Hw),
    let last := 1 + (if c.val % 44 < 32 then 392 else if c.val % 44 < 40 then 25 else 7)
    (h.core c).frozenAt = none → (h.core c).stream = some j → j.achain = true → j.taken = [t] →
    let y := h.stream c cyc
    let u := y.thread ⟨c, j.thread⟩
    let completes := fun (j' : StreamJob) (at_ : Nat) =>
      (j.tuples ≠ last → (y.core c).stream = some { j' with taken := [], tuples := j.tuples + 1 }) ∧
      (j.tuples = last → (y.core c).stream = none ∧ u.pc = (h.thread ⟨c, j.thread⟩).pc + 4 ∧ u.stall = none ∧ at_ < u.nextIssue)
    (j.fwd = none → t.due ≤ cyc → completes j t.due) ∧
    (j.fwd = none → cyc < t.due → (y.core c).stream = some j) ∧
    (∀ f, j.fwd = some f → (h.core c).sendReady f.tenon = true → (Route.of (h.core c).tenons[f.tenon].active).remote = false →
      let at_ := Max.max t.due j.nextSend
      at_ ≤ cyc → completes { j with nextSend := at_ + 1 } at_ ∧
        (y.core c).tenons[f.tenon].credits + 1 = (h.core c).tenons[f.tenon].credits ∧
        ∃ z, y.tuples = h.tuples ++ [z] ∧ z.words = t.words ∧ z.stream = true ∧ z.tag = f.tag)

/-- R74, R84, R85, R86, R87, R88, R89, R90, R91, R92, R250: APASS and ACHAIN on the stream unit. The model's choices it rests on: log
entries 82, 87 and 88. -/
def Obligations.StreamsPassAndChain : Prop := StreamsStart ∧ StreamTuplesAreTaken ∧ StreamTuplesComplete

/-- R97, R100, R101, R102: TCFG gives a tile its shape and owner and clears it, stalls while the tile is not free, or faults with the
cause of its first failed check. -/
def Sys2Proof.Claims.TcfgShapesATile : Prop :=
  ∀ (w : Who) (t : Fin 8) (rows : BitVec 6) (rbytes : BitVec 8) (fmt : BitVec 4) (s : State), Issues w none s →
    let k := (slot w s).core w.core
    let x := k.tiles[t]
    let i := Instr.tcfg w t rows rbytes fmt
    let fails := fun (code detail : Nat) =>
      Yields i s (Left w (found w s { code := code, detail := detail, epc := ((slot w s).thread w).pc }) s)
    let unit := match fmt.toNat with | 1 => 2 | 2 => 2 | 3 => 4 | 8 => 32 | 9 => 32 | 0xA => 24 | 0xB => 24 | 0xC => 16 | _ => 1
    let mine := x.rows = 0 ∨ x.owner = w.thread
    let zero := rows = 0 ∧ rbytes = 0 ∧ fmt = 0
    let full := rows ≠ 0 ∧ rbytes ≠ 0 ∧ fmt ≠ 0 ∧ fmt ≠ 0xF
    let shaped : Tile :=
      { rows := rows.toNat, rbytes := rbytes.toNat, fmt := fmt, owner := if rows = 0 then 0 else w.thread }
    let large := 128 < rbytes.toNat ∨ side w.core * 128 < rows.toNat * rbytes.toNat
    let good := zero ∨ (full ∧ rows.toNat ≤ side w.core ∧ ¬large ∧ rbytes.toNat % unit = 0)
    (mine → good → k.writeWaits t (issueCycle w s) = false →
      Runs i s (Changed w (fun k => { k with tiles := k.tiles.set t shaped }) s)) ∧
    (mine → good → k.writeWaits t (issueCycle w s) = true → Yields i s (Left w (stalled w s .interlock 0) s)) ∧
    (¬mine → fails 0x17 0) ∧
    (mine → ¬zero → ¬full → fails 0x18 1) ∧
    (mine → full → side w.core < rows.toNat → fails 0x18 2) ∧
    (mine → full → rows.toNat ≤ side w.core → large → fails 0x18 3) ∧
    (mine → full → rows.toNat ≤ side w.core → ¬large → rbytes.toNat % unit ≠ 0 → fails 0x18 4)

/-- R105, R106, R111, R117, R197: TLD and TST, of elements and of scales, begin a move, at the row of a cursor of the same kind; they
stall while the move unit is busy or the tile is not free, and fault by the first failed check, TILE_ALIGN with aB as EADDR. -/
def Sys2Proof.Claims.TileMovesBegin : Prop :=
  ∀ (w : Who) (t : Fin 8) (b sa : Fin 16) (xs u : Bool) (s : State), Issues w none s →
    let k := (slot w s).core w.core
    let th := (slot w s).thread w
    let x := k.tiles[t]
    let cyc := issueCycle w s
    let fits := xs = false ∨ (8 ≤ x.fmt.toNat ∧ x.fmt.toNat ≤ 0xC)
    let aligned := (th.getA b).toNat % 8 = 0 ∧ (th.getA sa).toNat % 8 = 0
    ∀ p ∈ [(Instr.tld w t b sa xs u, false), (Instr.tst w t b sa xs, true)],
      let waits := if p.2 then k.readWaits t cyc else k.writeWaits t cyc
      let fails := fun (code eaddr : Nat) =>
        Yields p.1 s (Left w (found w s { code := code, epc := th.pc, eaddr := BitVec.ofNat 48 eaddr }) s)
      (Owned w.thread x → fits → aligned → k.tileMove = none → waits = false → k.trelNames t = false → th.stopReq = false →
        Acts p.1 s (fun h =>
          (h.thread w).stall = some .tileMove ∧ (h.thread w).pc = th.pc ∧ h.clock = (slot w s).clock ∧
          (∀ v, v ≠ t → (h.core w.core).tiles[v] = k.tiles[v]) ∧ (h.core w.core).tiles[t].data = x.data ∧
          ∃ mv, (h.core w.core).tileMove = some mv ∧ mv.thread = w.thread ∧ mv.t = t ∧ mv.store = p.2 ∧ mv.x = xs ∧
            mv.u = (if p.2 then false else u) ∧ mv.base = th.getA b ∧ mv.stride = th.getA sa ∧ mv.last = cyc + 1 ∧
            mv.row = (if x.ract = true ∧ x.rdir = p.2 ∧ x.rx = xs then x.row else 0))) ∧
      (Owned w.thread x → fits → aligned → k.tileMove ≠ none ∨ waits = true ∨ k.trelNames t = true →
        Yields p.1 s (Left w (stalled w s .interlock 0) s)) ∧
      (x.rows = 0 → fails 0x16 0) ∧ (x.rows ≠ 0 → x.owner ≠ w.thread → fails 0x17 0) ∧
      (Owned w.thread x → ¬fits → fails 0x14 0) ∧ (Owned w.thread x → fits → ¬aligned → fails 0x19 (th.getA b).toNat)

/-- R99, R120, R121: TRDV and TWRV move one row, or on a peg core a half of one, between a tile and a vector register; they stall while
the tile is not free, and fault on a row that the tile does not have. -/
def Sys2Proof.Claims.TileRowsAreRead : Prop :=
  ∀ (w : Who) (t : Fin 8) (d v : Fin 32) (hi : Bool) (s : State), Issues w none s →
    let k := (slot w s).core w.core
    let th := (slot w s).thread w
    let x := k.tiles[t]
    let cyc := issueCycle w s
    let row := (th.getD d).toNat % 2 ^ 32
    let wide := if w.core.val % 44 < 40 then 128 else 64
    let first := if hi then 64 else 0
    let fails := fun (code : Nat) => ∀ i ∈ [Instr.trdv w v t d hi, Instr.twrv w t d v hi],
      Yields i s (Left w (found w s { code := code, epc := th.pc }) s)
    (w.core.val % 44 < 40 → hi = true → fails 0x01) ∧
    (hi = false ∨ 40 ≤ w.core.val % 44 →
      (Owned w.thread x → row < x.rows →
        (k.readWaits t cyc = false →
          ∃ r : BitVec 2048, (∀ n, n < 256 → (r >>> (8 * n)).setWidth 8 =
              if n < wide ∧ first + n < x.rbytes then byteAt (128 * row + first + n) x.data else 0) ∧
            Runs (.trdv w v t d hi) s (Ran w none 1 (fun th => { th with v := th.v.set v r }) s)) ∧
        (k.writeWaits t cyc = false → Acts (.twrv w t d v hi) s (fun h =>
          h.thread w = ended w {} none 1 s th ∧
          (∀ n, n < wide → first + n < x.rbytes →
            byteAt (128 * row + first + n) (h.core w.core).tiles[t].data = (th.v[v] >>> (8 * n)).setWidth 8) ∧
          (∀ a, (a < 128 * row + first ∨ 128 * row + Min.min x.rbytes (first + wide) ≤ a) →
            byteAt a (h.core w.core).tiles[t].data = byteAt a x.data) ∧
          (∀ u, u ≠ t → (h.core w.core).tiles[u] = k.tiles[u]))) ∧
        (k.readWaits t cyc = true → Yields (.trdv w v t d hi) s (Left w (stalled w s .interlock 0) s)) ∧
        (k.writeWaits t cyc = true → Yields (.twrv w t d v hi) s (Left w (stalled w s .interlock 0) s))) ∧
      (x.rows = 0 → fails 0x16) ∧ (x.rows ≠ 0 → x.owner ≠ w.thread → fails 0x17) ∧
      (Owned w.thread x → x.rows ≤ row → fails 0x1B))

/-- R125, R126, R127: a thread's TREL completes once its registers are free of matrix instructions and moves, and they take the zero
shape in the cycle after that in which they are free of drains too; TCUR writes a row cursor. -/
def Sys2Proof.Claims.TileRegistersAreReleased : Prop :=
  (∀ (w : Who) (t : Fin 8) (sr : Fin 32) (s : State), Issues w none s → Alone w s → ((slot w s).thread w).mode = true →
    let k := (slot w s).core w.core
    let x := k.tiles[t]
    let v := outValue w sr s
    let mask := v.setWidth 8
    let named := fun (t : Fin 8) => v.getLsbD t.val = true
    let cursor : Tile := { x with ract := v.getLsbD 8, rdir := v.getLsbD 7, rx := v.getLsbD 6, row := v.toNat % 2 ^ 6 }
    ((∀ t, named t → k.matLocks t = false ∧ k.moveLocks t = false) →
      Yields (.trel w sr) s (fun s' => (s'.hw.thread w).pc = ((slot w s).thread w).pc + 4 ∧ (s'.hw.thread w).stall = none ∧
        (s'.hw.core w.core).tiles = k.tiles ∧ s'.mem = s.mem ∧
        ∃ n, issueCycle w s ≤ n ∧ (∀ t, named t → k.drainLocks t n = false ∧ k.tileFree[t] ≤ n) ∧
          n < (s'.hw.thread w).nextIssue ∧ (k.cyc0 + n, .trel w.core mask) ∈ s'.hw.later)) ∧
    ((∃ t, named t ∧ (k.matLocks t = true ∨ k.moveLocks t = true)) →
      Acts (.trel w sr) s (fun h => (h.thread w).stall = some .port ∧ (h.thread w).pc = ((slot w s).thread w).pc ∧
        (h.core w.core).trelWait = k.trelWait.set w.thread (some mask) ∧ (h.core w.core).tiles = k.tiles)) ∧
    (v.getLsbD 31 = true → v.toNat / 2 ^ 16 % 8 = t.val → x.rows ≠ 0 → v.toNat % 2 ^ 6 < x.rows →
      Outs (.tcur w sr) w 0x0649 sr s (Changed w (fun k => { k with tiles := k.tiles.set t cursor }) s)) ∧
    (v.getLsbD 31 = false ∨ (v.toNat / 2 ^ 16 % 8 = t.val ∧ (x.rows = 0 ∨ x.rows ≤ v.toNat % 2 ^ 6)) →
      Outs (.tcur w sr) w 0x0649 sr s (Changed w id s))) ∧
  (∀ (c : CoreId) (v : BitVec 8) (h : Hw) (t : Fin 8),
    ((h.applyLater (.trel c v)).core c).tiles[t] = if v.getLsbD t.val then {} else (h.core c).tiles[t])

/-- R97, R99, R100, R101, R102, R105, R106, R111, R117, R120, R121, R125, R126, R127, R197: TCFG, TLD, TST, TRDV, TWRV, TREL and TCUR each
answer a next state with their own effect when the tile is the thread's, the operands are admitted and no interlock holds the tile; else
they stall, or fault with the cause of the first failed check. The model's choices it rests on: log entries 31 and 89. -/
def Obligations.TileInstructions : Prop := TcfgShapesATile ∧ TileMovesBegin ∧ TileRowsAreRead ∧ TileRegistersAreReleased

/-- R105, R107, R108, R109, R111, R112, R115, R116, R217: a row of a tile move between the core's own scratchpad and the tile moves all its
bytes and no other, a load those that the frame found; the last row completes the move, another advances it, and a row that meets a
fault stops it with its cursor. -/
def Sys2Proof.Claims.RowsMove : Prop :=
  ∀ (c : CoreId) (mv : TileMove) (s : State),
    let y := (s.hw.reachCycle c (mv.last + 1)).caughtUp c
    let z := y.coreEvent c 0
    let k := z.core c
    let x := k.tiles[mv.t]
    let w : Who := ⟨c, mv.thread⟩
    let a := (mv.base.toNat + mv.stride.toNat * mv.row) % 2 ^ 48
    (s.hw.core c).frozenAt = none → (s.hw.core c).tileMove = some mv → (y.core c).tiles[mv.t] = x → k.tileMove = some mv →
    mv.x = false → x.rbytes ≤ 128 → (32 ≤ c.val % 44 ∨ mv.row % 2 = 1) → (z.thread w).stopReq = false →
    let moved := fun (t : State) => t.hw.clock = z.clock ∧
      (mv.row + 1 < x.rows → (t.hw.core c).tileMove.map (·.row) = some (mv.row + 1) ∧
        (t.hw.thread w).pc = (z.thread w).pc) ∧
      (x.rows ≤ mv.row + 1 → (t.hw.core c).tileMove = none ∧ (t.hw.core c).tiles[mv.t].ract = false ∧
        (t.hw.thread w).pc = (z.thread w).pc + 4 ∧ (t.hw.thread w).stall = none)
    (a + x.rbytes ≤ (if c.val % 44 < 32 then 0x180000 else spadSize c) →
      (mv.store = false → Yields (.tileMoveRow c) s (fun t => moved t ∧ t.mem = s.mem ∧
        (∀ n, n < x.rbytes → byteAt (128 * mv.row + n) (t.hw.core c).tiles[mv.t].data =
          memRead (locScratch c a + n) (k.frameStart (z.cycle c) s.mem)) ∧
        (∀ i, (i < 128 * mv.row ∨ 128 * mv.row + x.rbytes ≤ i) →
          byteAt i (t.hw.core c).tiles[mv.t].data = byteAt i x.data))) ∧
      (mv.store = true → (∀ f ∈ (k.frameLog (z.cycle c)).acts, f.slot ≤ 1) →
        Yields (.tileMoveRow c) s (fun t => moved t ∧ (t.hw.core c).tiles[mv.t].data = x.data ∧
          (∀ n, n < x.rbytes → memRead (locScratch c a + n) t.mem = byteAt (128 * mv.row + n) x.data) ∧
          (∀ i, (i < locScratch c a ∨ locScratch c a + x.rbytes ≤ i) → memRead i t.mem = memRead i s.mem)))) ∧
    (0 < x.rbytes → 0x80000000 ≤ a → a + x.rbytes ≤ 0x001000000000 → Yields (.tileMoveRow c) s (fun t => t.mem = s.mem ∧
      (t.hw.core c).tileMove = none ∧ (t.hw.core c).tiles[mv.t].ract = true ∧ (t.hw.core c).tiles[mv.t].row = mv.row ∧
      (t.hw.core c).tiles[mv.t].rdir = mv.store ∧ (t.hw.thread w).tileCur = some mv.t ∧
      (t.hw.thread w).found =
        some { code := 0x1A, epc := (z.thread w).pc, eaddr := BitVec.ofNat 48 a, at_ := z.cycle c }))

/-- R109: on a joist core an even row and the row after it, both in the own scratchpad, move in one cycle. -/
def Sys2Proof.Claims.JoistRowsMoveInPairs : Prop :=
  ∀ (c : CoreId) (mv : TileMove) (s : State),
    let z := s.hw.reachCycle c (mv.last + 1)
    let x := (s.hw.core c).tiles[mv.t]
    let a := (mv.base.toNat + mv.stride.toNat * mv.row) % 2 ^ 48
    let a' := (mv.base.toNat + mv.stride.toNat * (mv.row + 1)) % 2 ^ 48
    c.val % 44 < 32 → s.hw.later = [] → (s.hw.core c).frozenAt = none → (s.hw.core c).tileMove = some mv → mv.x = false →
    (s.hw.core c).drains = [] → (s.hw.core c).stream = none → (s.hw.core c).cinv = none → s.hw.acted = false →
    ((s.hw.core c).thread mv.thread).stopReq = false →
    mv.row % 2 = 0 → mv.row + 2 < x.rows → a + x.rbytes ≤ 0x180000 → a' + x.rbytes ≤ 0x180000 →
    Yields (.tileMoveRow c) s (fun t => t.hw.clock = z.clock ∧ (t.hw.core c).tileMove.map (·.row) = some (mv.row + 2))

/-- R126: of the purlin writes to TREL held at a core one whose registers are free is carried out in the cycle after. -/
def Sys2Proof.Claims.HeldReleasesAreMade : Prop :=
  ∀ (c : CoreId) (v : W32) (n : Nat) (s : State),
    let k := s.hw.core c
    k.trelNext (s.hw.cycle c) = some (v, n) →
    let x := (s.hw.reachCycle c (n + 1)).caughtUp c
    v ∈ k.trelHeld ∧ (∀ t : Fin 8, v.getLsbD t.val = true →
      k.matLocks t = false ∧ k.moveLocks t = false ∧ k.drainLocks t n = false ∧ k.tileFree[t] ≤ n) ∧
    Acts (.purlinTrelRelease c) s (fun h => h.clock = x.clock ∧ (h.core c).trelHeld = (x.core c).trelHeld.erase v ∧
      ∀ t : Fin 8, (h.core c).tiles[t] = if v.getLsbD t.val then {} else (x.core c).tiles[t])

/-- R105, R107, R108, R109, R111, R112, R115, R116, R126, R217: the rows of a tile move, and the releases held at a core. The model's
choices it rests on: log entries 2, 31 and 89. -/
def Obligations.TileMovesRowByRow : Prop := RowsMove ∧ JoistRowsMoveInPairs ∧ HeldReleasesAreMade

/-! ### Units, transfers, cache lines, slices, controllers and the page map -/

namespace Sys2Proof.Claims

/-- `m'` is `m` with the bytes `bs` from `loc` up. -/
def Written (loc : Nat) (bs : List Byte) (m m' : Mem) : Prop :=
  (∀ n, n < bs.length → memRead (loc + n) m' = bs.getD n 0) ∧
  (∀ a, (a < loc ∨ loc + bs.length ≤ a) → memRead a m' = memRead a m)

/-- The accesses of the present frame of a core, listed in slot order, have been performed on the memory as the frame found it, and what
they overwrote is kept (R217). -/
def FrameMade (c : CoreId) (h : Hw) (m : Mem) : Prop :=
  let fr := (h.core c).frameLog (h.cycle c)
  let base := (h.core c).frameStart (h.cycle c) m
  let made := fr.acts.foldl (doAct c) (base, [], h)
  fr.acts.Pairwise (fun x y => x.slot ≤ y.slot) ∧ made.1 = m ∧ made.2.1 = fr.undo

/-- A byte of memory has been written in the present frame of a core by a slot after `s`. -/
def WrittenLater (c : CoreId) (h : Hw) (s a : Nat) : Prop :=
  ∃ x ∈ ((h.core c).frameLog (h.cycle c)).acts,
    match x with
    | .write s' l d => s < s' ∧ l ≤ a ∧ a < l + d.length
    | .load _ _ _ _ => False

/-- R217: whatever the order in which the accesses of a frame are made, memory holds at each byte the write of the latest slot, a write
of an earlier slot made later does not show, and the load of the frame reads what the writes of slots 0 to 2 before it left. -/
def FramesGoBySlot : Prop :=
  ∀ (c : CoreId) (slot loc : Nat) (data : List Byte) (m : Mem) (h : Hw), Memory.wf m = true → FrameMade c h m →
    let r := h.frameAct c (.write slot loc data) m
    FrameMade c r.2 r.1 ∧
    (∀ a, WrittenLater c h slot a → memRead a r.1 = memRead a m) ∧
    (∀ a, ¬WrittenLater c h slot a →
      memRead a r.1 = if loc ≤ a ∧ a < loc + data.length then data.getD (a - loc) 0 else memRead a m) ∧
    (∀ t d n l, ((h.core c).frameLog (h.cycle c)).acts = [.load t (.d d n false) l n] →
      (slot < 2 → (r.2.thread ⟨c, t⟩).getD d = BitVec.ofNat 64 (memNat l n r.1)) ∧
      (2 < slot → (r.2.thread ⟨c, t⟩).getD d = (h.thread ⟨c, t⟩).getD d))

/-- An active window of a core admits `n` bytes at an offset from a source (R221). -/
def Admitted (c : CoreId) (src off n : Nat) (k : Core) : Prop :=
  off + n ≤ spadSize c ∧ ∃ x ∈ k.winActive.toList, x.maskHi.getLsbD 31 = true ∧ x.base ≤ off ∧ off + n ≤ x.limit ∧
    (if src < 32 then x.maskLo.getLsbD src = true else x.maskHi.getLsbD (src - 32) = true)

/-- A unit waits to be accepted: none of its flit is still in the mesh. -/
def Waits (u : Unit3) : Prop := u.accepted = none ∧ u.flit = 0

/-- R223: HCOMMIT makes the shadow windows those of the checks of the cycles after it. -/
def HousingIsCommitted : Prop :=
  (∀ (w : Who) (sr : Fin 32) (s : State), Issues w none s → Alone w s → ((slot w s).thread w).mode = true →
    ((outValue w sr s).getLsbD 0 = true → Outs (.hcommit w sr) w 0x0320 sr s (fun f t => Changed w id s f t ∧
      (t.hw.clock, .windows w.core ((slot w s).core w.core).winShadow) ∈ t.hw.later)) ∧
    ((outValue w sr s).getLsbD 0 = false → Outs (.hcommit w sr) w 0x0320 sr s (Changed w id s))) ∧
  (∀ (c : CoreId) (ws : Vector Window 8) (h : Hw), (h.applyLater (.windows c ws)).core c = { h.core c with winActive := ws })

/-- R218: of the units that have reached a core the one injected earliest, of those injected in one cycle that of the lower source, is
accepted next, and no sooner than the one before it and than it reached the core. -/
def UnitsAreTakenInOrder : Prop :=
  ∀ (k : Core) (now t : Nat) (u : Unit3), k.unitNext now = some (u, t) →
    u ∈ k.unitQ ∧ Waits u ∧ now ≤ t ∧ u.due ≤ t ∧
    (∀ v ∈ k.unitQ, Waits v → v.due ≤ t → u.injected < v.injected ∨ (u.injected = v.injected ∧ u.src ≤ v.src)) ∧
    (now < t → ∀ v ∈ k.unitQ, Waits v → t ≤ v.due)

/-- The credit of an addressed unit of a tuple, which is also its performance notice, is on its way back from its core (R255). -/
def UnitCredit (c : CoreId) (u : Unit3) (h : Hw) : Prop :=
  match u.origin with
  | .tuple core th n ep _ => ∃ z ∈ h.credits, z.core = core ∧ z.tenon = n ∧ z.epoch = ep ∧ z.notice = some th ∧
      z.due = h.clock + tupleLatency c core
  | _ => True

/-- R218, R221, R222, R462: the next unit is accepted if it is not remote or an active window admits it; else it is dropped, and reported
in the cycle after at its owner and, where a core sent it, at the sender, to which the credit of its tuple returns; a core under reset
discards it without a report. -/
def UnitsAreAcceptedOrDropped : Prop :=
  (∀ (c : CoreId) (u : Unit3) (t : Nat) (s : State),
    let k := s.hw.core c
    (∀ v ∈ k.unitQ, v.flit = 0) → k.frozenAt = none → k.unitNext (Max.max k.unitFrom s.hw.clock) = some (u, t) →
    let x := (s.hw.event t).caughtUp c
    let y := x.core c
    let taken := fun (h : Hw) => (h.core c).unitQ = y.unitQ.erase u ∧ (h.core c).unitFrom = t + 1 ∧ h.clock = x.clock ∧
      UnitCredit c u h
    (y.held = false → u.remote = false ∨ (u.bad = false ∧ Admitted c u.src u.off u.data.length y) →
      Acts (.slot3UnitAccept c) s (fun h => (h.core c).unitQ = y.unitQ.erase u ++ [{ u with accepted := some (x.cycle c) }] ∧
        (h.core c).unitFrom = t + 1 ∧ h.clock = x.clock ∧ h.later = x.later ∧ h.credits = x.credits)) ∧
    (y.held = false → u.remote = true → u.bad = true ∨ ¬Admitted c u.src u.off u.data.length y →
      Acts (.slot3UnitAccept c) s (fun h => taken h ∧ Follows h h.clock (.dropIn c u.src u.off) ∧
        (match u.origin with
          | .tuple core _ _ _ _ =>
            Follows h h.clock (.dropOut core (0x002000000000 + c.val / 44 * 0x08000000 + c.val % 44 * 0x00200000 + u.off))
          | .remoteTuple .west _ _ _ => Follows h h.clock (.source 220)
          | .remoteTuple .east _ _ _ => Follows h h.clock (.source 221)
          | _ => True))) ∧
    (y.held = true → Acts (.slot3UnitAccept c) s (fun h => taken h ∧ h.later = x.later))) ∧
  (∀ (c : CoreId) (src off addr : Nat) (h : Hw),
    let th := (h.core c).thread 0
    let y := (h.applyLater (.dropIn c src off)).core c
    let z := (h.applyLater (.dropOut c addr)).core c
    y.thread 0 = { th with ipend := th.ipend ||| 0x100 } ∧
    y.hrdrop = (if th.ipend.getLsbD 8 then (h.core c).hrdrop ||| 0x80000000
      else BitVec.ofNat 32 (src * 2 ^ 25 + off % 2 ^ 21)) ∧
    z.thread 0 = { th with ipend := th.ipend ||| 0x080 } ∧
    z.hsdrop = (if th.ipend.getLsbD 7 then (h.core c).hsdrop else BitVec.ofNat 48 addr) ∧
    z.hsdropMore = th.ipend.getLsbD 7)

/-- R217, R218, R227, R255: an accepted unit is written whole in slot 3 of the frame after that of its acceptance, the event of its tag
is raised in the cycle after, and its credit returns; a unit of an instruction memory is written there. -/
def UnitsAreWritten : Prop :=
  (∀ (c : CoreId) (u : Unit3) (a : Nat) (s : State),
    let k := s.hw.core c
    let cyc := 4 * (a / 4 + 1) + 3
    let x := s.hw.coreEvent c cyc
    k.unitQ.find? (·.accepted.isSome) = some u → u.accepted = some a → u.reads = 0 → k.frozenAt = none →
    k.rowDue c (Max.max cyc (s.hw.cycle c)) = false → (∀ f ∈ ((x.core c).frameLog (x.cycle c)).acts, f.slot ≤ 3) →
    Yields (.slot3UnitWrite c) s (fun t => Written (locScratch c u.off) u.data s.mem t.mem ∧
      (t.hw.core c).unitQ = (x.core c).unitQ.erase u ∧ t.hw.clock = Max.max s.hw.clock (k.cyc0 + cyc) ∧
      UnitCredit c u t.hw ∧
      (match u.origin with
        | .tuple _ _ _ _ tag | .remoteTuple _ tag _ _ =>
          Follows t.hw t.hw.clock (.events ⟨c, Fin.ofNat 4 (tag.toNat / 16)⟩ (1 <<< (tag.toNat % 16)))
        | _ => True))) ∧
  (∀ (c : CoreId) (u : ImemUnit) (s : State), (s.hw.core c).imemQ = [u] → u.flit = 0 →
    let x := s.hw.event (Max.max (Max.max (s.hw.core c).imemFrom s.hw.clock) u.due)
    ((x.core c).held = false → Yields (.imemUnitWrite c) s (fun t =>
      Written (locImem c u.addr) u.data s.mem t.mem ∧ (t.hw.core c).imemQ = (x.core c).imemQ.erase u ∧ t.hw.clock = x.clock)) ∧
    ((x.core c).held = true → Yields (.imemUnitWrite c) s (fun t =>
      t.mem = s.mem ∧ (t.hw.core c).imemQ = (x.core c).imemQ.erase u)))

end Sys2Proof.Claims

/-- R217, R218, R221, R222, R223, R227, R254, R255, R462: the frame of a core's scratchpad; housing windows; units are accepted, written
and dropped. The model's choices it rests on: log entries 2 and 77. -/
def Obligations.HousingUnitsAreAcceptedAndWritten : Prop :=
  FramesGoBySlot ∧ HousingIsCommitted ∧ UnitsAreTakenInOrder ∧ UnitsAreAcceptedOrDropped ∧ UnitsAreWritten

namespace Sys2Proof.Claims

/-- A submission of thread `th` has been taken. -/
def submitted (th : Thread) : Thread :=
  { th with xallow := th.xallow - 1, xseq := (th.xseq + 1) % 65536, xwhy := 0, xoutstanding := th.xoutstanding + 1 }

/-- R224, R225, R229: XRING submits the request registers: it takes one of ALLOW and the next SEQ, a failed check gives its code as a
result in the cycle after, and a refusal for want of ALLOW or of room changes WHY alone; of two submissions of a cycle that of the lower
core comes first, and takes the last room. XRES removes the oldest result. -/
def TransfersAreSubmitted : Prop :=
  ∀ (w : Who) (sr d : Fin 32) (e : Fin 4) (s : State), Issues w none s →
    let x := slot w s
    let th := x.thread w
    let b := w.core.val / 44
    let q := (x.bent b).engines[e]
    let dspace := th.xctl.getLsbD 15
    let evt := if th.xctl.getLsbD 8 then some (Fin.ofNat 16 (th.xctl.toNat / 16)) else none
    let change := fun (f : Thread → Thread) => Changed w (fun k => k.updThread w.thread f) s
    let fails := fun (code : Nat) => Outs (.xring w sr) w 0x0A06 sr s (fun f t => change submitted f t ∧
      Follows t.hw t.hw.clock (.xresult w { seq := th.xseq, code := code, eng := e, bytes := 0 } evt) ∧
      (t.hw.bent b).engines = (x.bent b).engines)
    let aligned := th.xsrc.toNat % 8 = 0 ∧ th.xdst.toNat % 8 = 0 ∧ th.xlen.toNat % 8 = 0 ∧ th.xlen ≠ 0
    let local_ := th.xsrc.toNat + th.xlen.toNat ≤ spadSize w.core ∧ th.xdst.toNat + th.xlen.toNat ≤ spadSize w.core
    let mine := fun (r : XReq) => r.owner = .thread w ∧ r.home = w.core ∧ r.src = th.xsrc.toNat ∧ r.dst = th.xdst.toNat ∧
      r.len = th.xlen.toNat ∧ r.seq = th.xseq ∧ r.next = 0 ∧ r.open_ = [] ∧ r.failed = none ∧ r.submitted = x.clock ∧
      x.clock < r.from_
    (e.val = th.xctl.toNat % 4 → Alone w s → (x.bent b).stageQ = [] →
      ((∀ y ∈ q, y.submitted < x.clock) →
        (th.xallow ≠ 0 → q.length < 16 →
          (dspace = false → aligned → local_ → Outs (.xring w sr) w 0x0A06 sr s (fun f t => change submitted f t ∧
            ∃ r, (t.hw.bent b).engines[e] = q ++ [r] ∧ mine r)) ∧
          (dspace = true → th.mode = false → fails 1) ∧
          (dspace = false → local_ → ¬aligned → fails 2) ∧
          (dspace = false → aligned → 0x80000000 ≤ th.xsrc.toNat → th.xsrc.toNat + th.xlen.toNat ≤ 0x001000000000 →
            th.xdst.toNat + th.xlen.toNat ≤ spadSize w.core → fails 3)) ∧
        (th.xallow ≠ 0 → 16 ≤ q.length → Outs (.xring w sr) w 0x0A06 sr s (change (fun th => { th with xwhy := 2 })))) ∧
      (∀ q0 y a, q = q0 ++ [y] → (∀ y ∈ q0, y.submitted < x.clock) → y.submitted = x.clock → y.owner = .thread a →
        w.core < a.core → th.xallow ≠ 0 → dspace = false → aligned → local_ → q.length ≤ 16 →
        Yields (.xring w sr) s (fun t => ∃ r, mine r ∧
          (t.hw.bent b).engines[e] = (if q.length < 16 then q0 ++ [r, y] else q0 ++ [r]) ∧
          (q.length = 16 → (t.hw.thread a).xwhy = 2 ∧ (t.hw.thread a).xallow = (x.thread a).xallow + 1))) ∧
      (th.xallow = 0 → Outs (.xring w sr) w 0x0A06 sr s (change (fun th => { th with xwhy := 1 })))) ∧
    (∀ r rest, th.xres = r :: rest → Ins (.xresRead w d) w 0x0A08 d s (change (fun th =>
      ({ th with xres := rest, xresDone := BitVec.ofNat 32 r.bytes, xallow := th.xallow + 1 }).setD d
        (BitVec.ofNat 64 ((2 ^ 31 + r.code * 2 ^ 24 + r.eng.val * 2 ^ 16 + r.seq) % 2 ^ 32))))) ∧
    (th.xres = [] → Ins (.xresRead w d) w 0x0A08 d s (change (fun th => ({ th with xresDone := 0 }).setD d 0)))

/-- R217, R218, R226, R280: an engine issues the next unit of its first request, up to the next 64-byte boundary of the destination, by
asking for its source: of the own scratchpad in slot 3 of the core. A page of the destination that is absent, or may not be written, fails
the request there. -/
def UnitsAreIssued : Prop :=
  ∀ (b : BentId) (e : Fin 4) (r : XReq) (rest : List XReq) (t : Nat) (s : State),
    (s.hw.bent b).stageQ = [] → (s.hw.bent b).engines[e] = r :: rest → s.hw.devFrozen = false → r.failed = none →
    r.next < r.len → r.dspace = false → r.src + r.len ≤ spadSize r.home →
    readTurn r.reading (Max.max s.hw.clock r.from_) = some t →
    let x := s.hw.event t
    let n := Min.min (64 - (r.dst + r.next) % 64) (r.len - r.next)
    (r.dst + r.len ≤ spadSize r.home ∨ (0x40000000 ≤ r.dst ∧ r.dst + r.len ≤ 0x80000000) →
      Acts (.transferUnitIssue b e) s (fun h =>
        (∃ r', (h.bent b).engines[e] = r' :: rest ∧ r'.next = r.next + n ∧ r'.open_ = r.next :: r.open_ ∧ r'.len = r.len ∧
          r'.failed = none ∧ r'.from_ = t + 1) ∧ h.clock = x.clock ∧
        ∃ u, (h.core r.home).unitQ = (x.core r.home).unitQ ++ [u] ∧ u.src = b.val ∧ u.off = r.src + r.next ∧ u.reads = n ∧
          u.remote = false ∧ u.origin = .transfer b e r.reqId r.next ∧ u.injected = x.clock ∧ u.due = x.clock ∧ Waits u)) ∧
    (∀ ent, 0x010000000000 ≤ r.dst → r.dst + r.len ≤ 0x020000000000 →
      (x.bent b).pm.find ((r.dst + r.next - 0x010000000000) / 65536) = some ent →
      ent.getLsbD 31 = false ∨ ent.getLsbD 30 = false →
      Acts (.transferUnitIssue b e) s (fun h =>
        ∃ r', (h.bent b).engines[e].head? = some r' ∧ r'.failed = some (if ent.getLsbD 31 then 5 else 4, r.next) ∧ r'.next = r.next))

/-- R217, R226, R267: the read of a unit's source in slot 3 passes its bytes on to the destination: a unit of the own scratchpad, or a
write at a slice of the own bent's shared memory. -/
def UnitsArePassedOn : Prop :=
  ∀ (c : CoreId) (b : BentId) (e : Fin 4) (u : Unit3) (a : Nat) (r : XReq) (rest : List XReq) (p : XUnit) (s : State),
    let k := s.hw.core c
    let cyc := 4 * (a / 4 + 1) + 3
    k.unitQ.find? (·.accepted.isSome) = some u → u.accepted = some a → k.frozenAt = none →
    k.rowDue c (Max.max cyc (s.hw.cycle c)) = false → b.val = c.val / 44 →
    u.origin = .transfer b e r.reqId p.off → u.reads = p.n → 0 < p.n → p.pieces = 1 → p.got = [] → p.err = false → p.sent = false →
    (s.hw.bent b).engines[e] = r :: rest → (∀ y ∈ rest, y.reqId ≠ r.reqId) → r.reading = [p] → r.home = c → r.dspace = false →
    p.off + p.n ≤ r.len → r.dst % 64 + p.off % 64 + p.n ≤ 64 → p.off % 64 = 0 ∨ r.dst % 64 = 0 → p.due = 0 →
    let x := s.hw.coreEvent c cyc
    let bytes := memReadN (locScratch c u.off) u.reads s.mem
    (r.dst + r.len ≤ spadSize c → Yields (.slot3UnitWrite c) s (fun t => t.mem = s.mem ∧ t.hw.clock = x.clock ∧
      ∃ v, (t.hw.core c).unitQ = (x.core c).unitQ.erase u ++ [v] ∧ v.off = r.dst + p.off ∧ v.data = bytes ∧ v.reads = 0 ∧
        v.remote = false ∧ v.accepted = none ∧ v.injected = x.clock ∧ v.due = x.clock ∧ v.origin = u.origin)) ∧
    (0x40000000 ≤ r.dst → r.dst + r.len ≤ 0x80000000 → p.dst = .cache [(locShared b (r.dst + p.off - 0x40000000), p.n)] →
      (x.bent b).portHeld = [] → (x.bent b).slices = [] →
      let loc := 0x001000000000 + b.val * 0x40000000 + (r.dst + p.off - 0x40000000)
      Yields (.slot3UnitWrite c) s (fun t => t.mem = s.mem ∧
        ∃ q, sgetD (loc / 64 % 64) [] (t.hw.bent b).slices = [q] ∧
          q.key = loc / 64 ∧ q.port = 44 + e.val ∧ q.wr = some (offsFrom (loc % 64) bytes) ∧ q.owner = .origin u.origin ∧
          x.clock ≤ q.entered))

/-- R226, R228, R229: a request whose units have all ended leaves its engine with its result, that of its failing unit or of all its
bytes, and with its event. The event of a failing request is the model's choice (log entry 92). -/
def TransfersEnd : Prop :=
  ∀ (b : BentId) (e : Fin 4) (r : XReq) (rest : List XReq) (w : Who) (s : State),
    (s.hw.bent b).stageQ = [] → (s.hw.bent b).engines[e] = r :: rest → r.owner = .thread w → r.open_ = [] →
    let x := s.hw.event (Max.max r.doneAt r.learned)
    let ended := fun (code bytes : Nat) (h : Hw) => (h.bent b).engines[e] = (x.bent b).engines[e].drop 1 ∧ h.clock = x.clock ∧
      (h.thread w).xres = (x.thread w).xres ++ [{ seq := r.seq, code := code, eng := e, bytes := bytes }] ∧
      (h.thread w).xoutstanding = (x.thread w).xoutstanding - 1 ∧
      (h.thread w).evpend = (if r.even then (x.thread w).evpend ||| (1 <<< r.evt.val) else (x.thread w).evpend)
    (r.failed = none → r.len ≤ r.next → Acts (.transferComplete b e) s (ended 0 r.len)) ∧
    (∀ code at_, r.failed = some (code, at_) → Acts (.transferFail b e) s (ended code at_))

end Sys2Proof.Claims

/-- R217, R218, R224, R225, R226, R228, R229, R267, R280: transfer requests are submitted, issued unit by unit, and completed. The
model's choices it rests on: log entries 21, 39 and 92. -/
def Obligations.TransfersAreSubmittedAndCompleted : Prop :=
  TransfersAreSubmitted ∧ UnitsAreIssued ∧ UnitsArePassedOn ∧ TransfersEnd

namespace Sys2Proof.Claims

/-- R232, R233, R234, R410: a line that arrives is installed and serves the requests of its miss register in order; one whose read met an
uncorrectable error is not allocated, and its store is a late store error. -/
def LinesFill : Prop :=
  ∀ (c : CoreId) (r : Fin 8) (q : MissReg) (bytes : List Byte) (y : Hw) (s : State),
    let k := s.hw.core c
    k.miss[r] = some q → q.data = some bytes → bytes.length = 64 → k.frozenAt = none → Lands s.hw q.flit q.due y →
    let x := y.caughtUp c
    (x.core c).cinv = none → (∀ l ∈ (x.core c).cache, l.key % 128 ≠ q.key % 128) →
    (∀ off bs, q.reqs = [.store off bs] → off + bs.length ≤ 64 →
      (q.err = false → Acts (.lineFill c r) s (fun h => (h.core c).miss[r] = none ∧ h.clock = x.clock ∧
        ∃ l, (h.core c).line q.key = some l ∧ ∀ i, i < 64 →
          l.data.getD i 0 = (if off ≤ i ∧ i < off + bs.length then bs.getD (i - off) 0 else bytes.getD i 0) ∧
          l.mask.getLsbD i = decide (off ≤ i ∧ i < off + bs.length))) ∧
      (q.err = true → Acts (.lineFill c r) s (fun h => (h.core c).miss[r] = none ∧ (h.core c).cache = (x.core c).cache ∧
        ((h.core c).thread 0).ipend.getLsbD 9 = true))) ∧
    (∀ t d n sx loc words o, q.reqs = [.load t] → q.err = false → loc / 64 = q.key → loc % 64 + n ≤ 64 → n ≤ 8 →
      (x.core c).loads[t] = some o → o.dest = .d d n sx → o.pieces = [(loc, n)] → o.got = [] → o.words = words →
      o.due ≤ x.clock → (x.thread ⟨c, t⟩).tstate = .running →
      ∃ v : W64, (∀ j, j < 64 → v.getLsbD j = (if j < 8 * n then (bytes.getD (loc % 64 + j / 8) 0).getLsbD (j % 8)
          else sx && decide (0 < n) && (bytes.getD (loc % 64 + n - 1) 0).getLsbD 7)) ∧
        Acts (.lineFill c r) s (fun h => (h.core c).miss[r] = none ∧ (h.core c).loads[t] = none ∧
          (h.thread ⟨c, t⟩).getD d = v ∧ (h.thread ⟨c, t⟩).stall = none ∧ x.cycle c < (h.thread ⟨c, t⟩).nextIssue ∧
          (h.thread ⟨c, t⟩).pc = (x.thread ⟨c, t⟩).pc + BitVec.ofNat 20 (4 * words) ∧
          ∃ l, (h.core c).line q.key = some l ∧ l.data = bytes ∧ l.mask = 0))

/-- R235, R287: the eviction buffer writes the masked bytes of its oldest entry and no other byte; here of a line of the own bent whose
slice holds no other request. -/
def EvictionsAreWritten : Prop :=
  ∀ (c : CoreId) (e : EvEntry) (rest : List EvEntry) (s : State),
    let k := s.hw.core c
    let b := c.val / 44
    k.evb = e :: rest → k.cinv = none → e.sent = false → e.data.length = 64 → (∀ x ∈ rest, x.serial ≠ e.serial) →
    0x001000000000 / 64 + b * 0x1000000 ≤ e.key → e.key < 0x001000000000 / 64 + (b + 1) * 0x1000000 → s.hw.later = [] →
    (s.hw.bent b).sliceUe = [] → (s.hw.bent b).portHeld = [] → sgetD (e.key % 64) [] (s.hw.bent b).slices = [] →
    Yields (.evictionWriteback c) s (fun t => (t.hw.core c).evb = rest ∧ (t.hw.core c).evDone = Max.max k.evDone e.serial ∧
      sgetD (e.key % 64) [] (t.hw.bent b).slices = [] ∧
      (∀ i, i < 64 → memRead (e.key * 64 + i) t.mem =
        if e.mask.getLsbD i then e.data.getD i 0 else memRead (e.key * 64 + i) s.mem) ∧
      (∀ a, a / 64 ≠ e.key → memRead a t.mem = memRead a s.mem))

/-- R267, R268, R269, R400, R410, R411: a slice and a controller perform a waiting read or write of one line; a read answers the miss
register that asked, with 0 where the line is uncorrectable. -/
def RequestsAreServed : Prop :=
  ∀ (c : CoreId) (r : Fin 8) (mr : MissReg) (q : MemReq) (b : BentId) (p : Plate) (sl : Fin 64) (s : State),
    let miss := fun (i : Instr) (data : List Byte) (err : Bool) => Yields i s (fun t => t.mem = s.mem ∧ s.hw.clock ≤ t.hw.clock ∧
      ∃ m, (t.hw.core c).miss[r] = some m ∧ m.key = mr.key ∧ m.reqs = mr.reqs ∧ m.data = some data ∧ m.err = err ∧ t.hw.clock < m.due)
    let write := fun (i : Instr) => ∀ off bs, q.wr = some (offsFrom off bs) → off + bs.length ≤ 64 →
      Yields i s (fun t => Written (q.key * 64 + off) bs s.mem t.mem ∧ s.hw.clock ≤ t.hw.clock)
    let reads := q.wr = none ∧ q.owner = .miss c r ∧ (s.hw.core c).miss[r] = some mr ∧ mr.key = q.key ∧ mr.data = none
    q.flit = 0 → s.hw.later = [] →
    (sgetD sl.val [] (s.hw.bent b).slices = [q] → (s.hw.bent b).portHeld = [] → q.key < 0x010000000000 / 64 →
      q.home = keyBent q.key → (s.hw.bent (keyBent q.key)).sliceUe = [] →
      (reads → miss (.sliceRequest b sl) (memReadN (q.key * 64) 64 s.mem) false) ∧ write (.sliceRequest b sl)) ∧
    ((s.hw.xm p).queue = [q] → 0x010000000000 / 64 ≤ q.key →
      (reads →
        (s.hw.poison.contains (q.key - 0x010000000000 / 64) = false →
          miss (.memoryRequest p) (memReadN (q.key * 64) 64 s.mem) false) ∧
        (s.hw.poison.contains (q.key - 0x010000000000 / 64) = true →
          miss (.memoryRequest p) (List.replicate 64 0) true)) ∧
      write (.memoryRequest p))

/-- R268, R269: of the requests that have reached a slice it performs the one that entered first, of two that entered in one cycle that of
the lower port, in a cycle in which it performs no other. -/
def SlicesServeInOrder : Prop :=
  ∀ (x : Bent) (sl now t : Nat) (q : MemReq), x.sliceNext sl now = some (q, t) →
    q ∈ sgetD sl [] x.slices ∧ q.flit = 0 ∧ now ≤ t ∧ q.entered ≤ t ∧ sgetD sl 0 x.sliceFrom ≤ t ∧
    t ∉ sgetD sl [] x.sliceUsed ∧
    ∀ y ∈ sgetD sl [] x.slices, y.flit = 0 → q.entered < y.entered ∨ (q.entered = y.entered ∧ q.port ≤ y.port)

end Sys2Proof.Claims

/-- R232, R233, R234, R235, R267, R268, R269, R287, R400, R410, R411: fills, write-backs, slices and controllers. The model's choices it
rests on: log entries 22, 23, 25, 29 and 91. -/
def Obligations.LinesAreFilledWrittenBackAndServed : Prop :=
  LinesFill ∧ EvictionsAreWritten ∧ RequestsAreServed ∧ SlicesServeInOrder

/-- R397, R398, R402, R404, R405, R406, R407, R410, R466, R467: patrols count and mark what they find, retraining holds
one sub-channel for 2 µs, a refresh changes nothing; a walk reads its page's entry into its cache, or marks the page
absent; a refused page map commit sets REFUSED, another stalls its thread until the entry is written and no cache holds
the old one. The model's choices it rests on: log entries 7, 23, 24, 25 and 26. -/
def Obligations.PatrolsWalksAndPageMapCommits : Prop :=
  (∀ (b : BentId) (sl : Fin 64) (line : BitVec 18) (s : State),
    let key := 0x001000000000 / 64 + b.val * 0x1000000 + line.toNat * 64 + sl.val
    (s.hw.bent b).sliceUe.any (fun w => w / 8 == key) = false →
    exec (.slicePatrol b sl line .ok) s = .next s ∧
    Acts (.slicePatrol b sl line .correctable) s (fun h =>
      (h.bent b).corrected = (s.hw.bent b).corrected + 1 ∧ (h.bent b).sliceUe = (s.hw.bent b).sliceUe) ∧
    Acts (.slicePatrol b sl line .uncorrectable) s (fun h =>
      (∀ i, i < 8 → 8 * key + i ∈ (h.bent b).sliceUe) ∧ h.irqPend.getLsbD (48 + b.val) = true)) ∧
  (∀ (p : Plate) (line : Nat) (ecc : Ecc) (sub : Fin 128) (bank : Fin 16) (s : State),
    exec (.perBankRefresh sub bank) s = .next s ∧
    Acts (.dataRetraining sub) s (fun h => ∀ q : Plate, (q = .west ↔ sub.val < 64) →
      sgetD sub.val 0 (h.xm q).held = s.hw.clock + 6000 ∧ (h.xm q).queue = (s.hw.xm q).queue) ∧
    (2 ^ 33 ≤ line → exec (.patrolRead p line ecc) s = .fault .noSuchLine) ∧
    (line < 2 ^ 33 → (p = .east ↔ line.testBit 6 = true) → s.hw.poison.contains line = false →
      exec (.patrolRead p line .ok) s = .next s ∧
      Acts (.patrolRead p line .correctable) s (fun h => (h.xm p).xce = (s.hw.xm p).xce + 1 ∧ h.poison = s.hw.poison) ∧
      Acts (.patrolRead p line .uncorrectable) s (fun h => (h.xm p).xue = (s.hw.xm p).xue + 1 ∧ line ∈ h.poison ∧
        h.irqPend.getLsbD (match p with | .west => 216 | .east => 217) = true))) ∧
  (∀ (k : Fin 50) (vpn : BitVec 24) (wk : Walk) (s : State),
    (s.hw.pmCache k).walks.find? (fun w => decide (w.vpn = vpn.toNat)) = some wk →
    let x := s.hw.event wk.due
    let addr := 0x7FFC000000 + 4 * vpn.toNat
    (x.poison.contains (addr / 64) = false → ∀ ecc, ecc ≠ .uncorrectable → Acts (.pageWalkEnd k vpn ecc) s (fun h =>
      (h.pmCache k).entries.head? = some (vpn.toNat, BitVec.ofNat 32 (memNat (0x010000000000 + addr) 4 s.mem)) ∧
      (h.pmCache k).walks.length + 1 = (s.hw.pmCache k).walks.length ∧ h.clock = Max.max s.hw.clock wk.due)) ∧
    Acts (.pageWalkEnd k vpn .uncorrectable) s (fun h => vpn.toNat ∈ (h.pmCache k).bad ∧
      (k.val < 48 → h.irqPend.getLsbD (48 + k.val) = true))) ∧
  (∀ (w : Who) (sr : Fin 32) (s : State), Issues w none s → Alone w s → ((slot w s).thread w).mode = true →
    (outValue w sr s).getLsbD 0 = true →
    let k := (slot w s).core w.core
    let refused := k.pment.toNat / 2 ^ 23 % 64 ≠ 0 ∨ (k.pment.getLsbD 31 = true ∧ 0x7FFC00 ≤ k.pment.toNat % 2 ^ 23)
    (refused → Outs (.pmcommit w sr) w 0x0782 sr s (Changed w (fun k => { k with pmRef := true }) s)) ∧
    (¬refused → Acts (.pmcommit w sr) s (fun h => (h.core w.core).pmRef = false ∧
      h.thread w = stalled w s .port 0 ((slot w s).thread w) ∧ h.clock = (slot w s).clock ∧
      ∃ q, h.pmCommits = (slot w s).pmCommits ++ [q] ∧ q.vpn = k.pmvpn.toNat ∧ q.ent = k.pment ∧ q.who = some w))) ∧
  (∀ (q : PmCommit) (w : Who) (s : State), s.hw.pmCommits = [q] → q.who = some w →
    let x := s.hw.event q.arrives
    (x.thread w).tstate = .running → (x.core w.core).frozenAt = none →
    Yields .pageMapCommitEffect s (fun t =>
      Written (0x010000000000 + (0x7FFC000000 + 4 * q.vpn)) (toBytes 4 q.ent.toNat) s.mem t.mem ∧ t.hw.pmCommits = [] ∧
      (∀ k : Fin 50, ∀ y ∈ (t.hw.pmCache k).entries, y.1 ≠ q.vpn) ∧ t.hw.clock = x.clock ∧
      (t.hw.thread w).pc = (x.thread w).pc + 4 ∧ (t.hw.thread w).stall = none ∧ x.cycle w.core < (t.hw.thread w).nextIssue))

/-! ### The mesh, the purlin network and the Layout engine -/

namespace Sys2Proof.Claims

/-- A flit stands ready at an output of a router in a cycle of FCYC (R276). -/
def ReadyAt (r o y : Nat) (f : Flit) : Prop := f.router = r ∧ f.hops.head?.map (·.1) = some o ∧ f.waiting = false ∧ f.exit = none ∧ f.stamp ≤ y

/-- The flits of a channel. -/
def flitsOf (vc : Fin 4) (h : Hw) : Nat := (h.flits.filter (fun f => f.vc == vc)).length

/-- The FCYC of the next cycle of a router output, and the hardware in it. -/
def outputCycle (r o : Nat) (s : State) : Nat := Max.max (sgetD (8 * r + o) 0 s.hw.arbAt) (s.hw.clock - s.hw.fcyc0)
def atOutput (r o : Nat) (s : State) : Hw := s.hw.reach (s.hw.fcyc0 + outputCycle r o s)

/-- R270, R273, R276, R279: an output sends nothing in a maintenance cycle; a flit that it sends enters the next router 16 cycles later, or
reaches its destination 9 cycles later; one for whose buffer there is no credit stays. -/
def RoutersSend : Prop :=
  ∀ (r : Fin 51) (o : Fin 7) (s : State),
    let y := outputCycle r.val o.val s
    let z := atOutput r.val o.val s
    (125 ≤ y % 128 → Acts (.routerArbitration r o) s (fun h => h.flits = z.flits ∧ h.clock = z.clock)) ∧
    (∀ (f : Flit) (r' p' : Nat) (more : List (Nat × Nat × Nat)), ReadyAt r o y f → f.hops = (o.val, r', p') :: more →
      (y % 128 < 125 → z.flits = [f] → Acts (.routerArbitration r o) s (fun h => h.clock = z.clock ∧
        h.flits = if r' = 99 then (if f.auto then [] else
            [{ f with exit := some (z.fcyc0 + y + 9), hops := [], left := some (f.left.getD y) }])
          else [{ f with router := r', inPort := p', stamp := y + 16, hops := more, left := some (f.left.getD y) }])) ∧
      (f ∈ z.flits → (∀ g ∈ z.flits, g.serial = f.serial → g = f) →
        (∀ g ∈ z.flits, g.router = r.val → g.hops.head?.map (·.1) = some o.val → g.hops.head? = f.hops.head?) →
        r' ≠ 99 → flitBuffers f.vc ≤ z.buffered r' p' f.vc → Acts (.routerArbitration r o) s (fun h => f ∈ h.flits)))

/-- R270, R276: of the eight lanes of an output sync takes at most two, then control at most two, leaving one for bulk, then reply, and
bulk takes what is left; here of flits that leave the mesh there. -/
def OutputsShareTheirLanes : Prop :=
  ∀ (r : Fin 51) (o : Fin 7) (s : State),
    let y := outputCycle r.val o.val s
    let z := atOutput r.val o.val s
    y % 128 < 125 → (∀ f ∈ z.flits, ReadyAt r o y f ∧ f.hops = [(o.val, 99, 0)] ∧ f.auto = true) → (z.flits.map (·.serial)).Nodup →
    let sync := Min.min 2 (flitsOf 3 z)
    let keep := Min.min 1 (flitsOf 0 z)
    let control := Min.min (Min.min 2 (8 - sync - keep)) (flitsOf 2 z)
    let reply := Min.min (8 - sync - control - keep) (flitsOf 1 z)
    let bulk := Min.min (8 - sync - control - reply) (flitsOf 0 z)
    Acts (.routerArbitration r o) s (fun h => flitsOf 3 h + sync = flitsOf 3 z ∧ flitsOf 2 h + control = flitsOf 2 z ∧
      flitsOf 1 h + reply = flitsOf 1 z ∧ flitsOf 0 h + bulk = flitsOf 0 z)

/-- R274, R278: a path takes the outputs of its hops, and the local output of the last router. -/
def PathsHaveTheirHops : Prop :=
  ∀ a b row : Nat, a < 51 → b < 51 → a ≠ b → row < 6 → (path a b row).length = hops a b + 1

/-- The clock value at which the root issues next, and the cycles from there to a core (R282). -/
def rootTurn (h : Hw) : Nat := Max.max h.clock h.purlinFrom
def wire (c : CoreId) : Nat := 28 + 12 * (c.val / 44 / 8)

/-- A transaction is due when it says, unless one issued before it to the same port is due later (R284). The latter is the model's choice
(log entry 97). -/
def DueAt (due : Nat) (before : List Purlin) (x : Purlin) : Prop :=
  due ≤ x.due ∧ (∀ e ∈ before, e.core = x.core → e.port = x.port → e.due ≤ x.due) ∧
    (x.due = due ∨ ∃ e ∈ before, e.core = x.core ∧ e.port = x.port ∧ x.due = e.due)

/-- R282, R284: the root issues one transaction a cycle, and it takes effect 28 + 12 y cycles later, after those issued before it to the
same port. -/
def PurlinIsIssued : Prop :=
  ∀ (c : CoreId) (port : BitVec 16) (v : BitVec 32) (s : State),
    let added := fun (kind : PurlinKind) (h : Hw) => h.clock = s.hw.clock ∧ h.purlinFrom = rootTurn s.hw + 1 ∧
      ∃ x, h.purlins = s.hw.purlins ++ [x] ∧ x.core = c ∧ x.port = port ∧ x.kind = kind ∧
        DueAt (rootTurn s.hw + wire c) s.hw.purlins x
    Acts (.purlinWrite c port v) s (added (.write v)) ∧ Acts (.purlinRead c port) s (added .read)

/-- R282, R283, R284, R412: a BWRITE goes to each core that its masks name, at its apply time where it has one; one whose apply time is
less than 88 cycles away is refused whole. -/
def BroadcastsGoToTheirCores : Prop :=
  ∀ (port : BitVec 16) (v : BitVec 32) (bents : BitVec 48) (cores : BitVec 44) (at_ : Option W64) (s : State),
    (∀ a, at_ = some a → a.toNat + s.hw.fcyc0 < rootTurn s.hw + 88 → Acts (.purlinBwrite bents cores port v at_) s (fun h =>
      h.purlins = s.hw.purlins ∧ h.irqPend = s.hw.irqPend ||| (1 <<< 228))) ∧
    ((∀ a, at_ = some a → rootTurn s.hw + 88 ≤ a.toNat + s.hw.fcyc0) → Acts (.purlinBwrite bents cores port v at_) s (fun h =>
      h.purlinFrom = rootTurn s.hw + 1 ∧ ∃ xs, h.purlins = s.hw.purlins ++ xs ∧
        (∀ x ∈ xs, x.port = port ∧ x.kind = .write v ∧ bents.getLsbD (x.core.val / 44) = true ∧
          cores.getLsbD (x.core.val % 44) = true ∧
          DueAt (match at_ with | some a => s.hw.fcyc0 + a.toNat | none => rootTurn s.hw + wire x.core) s.hw.purlins x) ∧
        (∀ c : CoreId, bents.getLsbD (c.val / 44) = true → cores.getLsbD (c.val % 44) = true → ∃ x ∈ xs, x.core = c)))

/-- R282, R464, R465, R496: a transaction takes effect at its core in the cycle in which it is due; the value of a READ returns as many
cycles later, and is 0 from a held core outside a post-mortem hold. -/
def PurlinTakesEffect : Prop :=
  ∀ (x : Purlin) (s : State), s.hw.purlins = [x] →
    let c := x.core
    let z := s.hw.reach x.due
    let k := z.core c
    (∀ v, x.port = 0x0405 → x.kind = .write v → Acts (.purlinApply c) s (fun h => h.purlins = [] ∧ h.clock = z.clock ∧
      h.core c = k.updThread 0 (fun th => { th with vbase := BitVec.ofNat 20 (v.toNat % 2 ^ 20 / 2 ^ 8 * 2 ^ 8) }))) ∧
    (x.port = 0x0910 → x.kind = .read → z.sill.power ≠ .idleGated →
      (k.held = false → Acts (.purlinApply c) s (fun h => h.purlins = [] ∧ h.core c = k ∧
        OnItsWay h (x.due + wire c - 1) (.purlinRead k.stallLimit) (h.purlinRead = k.stallLimit))) ∧
      (k.held = true → z.postMortem = false → Acts (.purlinApply c) s (fun h => h.purlins = [] ∧ h.core c = k ∧
        OnItsWay h (x.due + wire c - 1) (.purlinRead 0) (h.purlinRead = 0)))) ∧
    (∀ (v : W32) (h : Hw), (h.applyLater (.purlinRead v)).purlinRead = v)

end Sys2Proof.Claims

/-- R270, R273, R274, R276, R278, R279, R282, R283, R284, R412, R464, R496: the outputs of the routers, the paths of the mesh, and the
purlin network. The model's choices it rests on: log entries 2 and 97. -/
def Obligations.MeshAndPurlin : Prop :=
  RoutersSend ∧ OutputsShareTheirLanes ∧ PathsHaveTheirHops ∧ PurlinIsIssued ∧ BroadcastsGoToTheirCores ∧ PurlinTakesEffect

namespace Sys2Proof.Claims

/-- No slice of any bent holds an uncorrectable word, and a range lies in the shared memory of one bent (R9, R305). -/
def Readable (addr n : Nat) (h : Hw) : Prop := (∀ b, (h.bent b).sliceUe = []) ∧ inOneBent addr n = true

/-- Cut `i` stands at `x` in the engine. -/
def CutAt (i : Nat) (x : Cut) (h : Hw) : Prop := sget i h.le.cuts = some x

/-- The engine is RUNNING, logs nothing, and waits for no device freeze. -/
def Working (h : Hw) : Prop := h.le.st = .running ∧ h.le.logEn = false ∧ h.devFrozen = false

/-- A cut without successors has completed since `z`: COMPLETE, DONE_COUNT one higher, and the graph at its end with the last one (R319,
R333). -/
def Completed (i : Nat) (z h : Hw) : Prop :=
  (sget i h.le.cuts).map (·.st) = some .complete ∧ h.le.doneCnt = z.le.doneCnt + 1 ∧
  h.le.st = (if z.le.doneCnt + 1 = z.le.cutCount then .done else .running)

/-- The hardware at the turn of the engine's layout side (R309, R314). -/
def layingTurn (s : State) : Hw := s.hw.event ((s.hw.le.layFrom + 63) / 64)

/-- R309, R323, R332, R333: a write of LE_CTRL; GO starts a graph in IDLE and DONE, after the first region check. -/
def GraphsStart : Prop :=
  ∀ (v : W32) (s : State),
    let x := s.hw.access
    let l := x.le
    let n := l.cutCount
    let may := v.getLsbD 31 = true ∧ (l.st = .idle ∨ l.st = .done) ∧ x.resets = [] ∧ x.postMortem = false
    (¬may → Acts (.go v) s (fun h =>
      h.le = { l with replay := v.getLsbD 0, logEn := v.getLsbD 1, logRun := v.getLsbD 2 } ∧ h.pole = x.pole)) ∧
    (may → v.getLsbD 0 = false → v.getLsbD 1 = false →
      (0 < n → n ≤ 1048576 → l.cutBase.toNat % 128 = 0 → inOneBent l.cutBase.toNat (128 * n) = true →
        Acts (.go v) s (fun h => h.le.st = .loading ∧ h.le.err = 0 ∧ h.le.bal = l.cap ∧ h.le.laid = 0 ∧ h.le.doneCnt = 0 ∧
          h.le.cuts = [] ∧ h.le.loaded = 0 ∧ h.le.meter = 0)) ∧
      (n = 0 → Acts (.go v) s (fun h => h.le.st = .error ∧ h.le.err = 0x01 ∧ h.le.errInfo = 0)))

/-- R305, R306, R309, R310, R322, R394: the engine reads and checks the next descriptor, with the specification of a COPY or NET cut, and
stops at the first failed check. -/
def DescriptorsAreLoaded : Prop :=
  ∀ (s : State),
    let l := s.hw.le
    let z := layingTurn s
    let i := l.loaded
    let base := l.cutBase.toNat + 128 * i
    let ws := (List.range 16).map (fun j => memNat (base + 8 * j) 8 s.mem)
    let x0 := Cut.of i ws []
    let specified := x0.kind = 2 ∨ x0.kind = 3
    let x := { x0 with spec := if specified then (List.range 4).map (fun j => memNat (x0.paramPtr + 8 * j) 8 s.mem) else [0, 0, 0, 0] }
    l.st = .loading → z.le.st = .loading → base % 64 = 0 → Readable base 128 z →
    (specified → x0.paramPtr % 32 = 0 ∧ Readable x0.paramPtr 32 z) →
    (loadFault l ws x = none → Acts .descriptorLoad s (fun h =>
      CutAt i x h ∧ h.le.loaded = i + 1 ∧ h.le.st = (if i + 1 = z.le.cutCount then .running else .loading) ∧
      h.le.layFrom = 64 * z.clock + 1500)) ∧
    (ws.headD 0 / 2 ^ 56 ≠ 1 → Acts .descriptorLoad s (fun h =>
      h.le.err = 0x02 ∧ h.le.errCut = i % 2 ^ 32 ∧ h.le.errInfo = 0 ∧ h.le.loaded = z.le.loaded))

/-- R310, R312, R314, R331: layout appends a ready cut to its lane's sequence, and makes ready the successor whose last predecessor it is;
under replay the cut that the next record names. -/
def CutsAreLaidOut : Prop :=
  ∀ (i : Nat) (x : Cut) (s : State),
    let z := layingTurn s
    let l := z.le
    s.hw.le.st = .running → s.hw.le.laid < s.hw.le.cutCount → Working z → CutAt i x z → x.st = .ready →
    let laid := fun (h : Hw) => CutAt i { x with st := .laid, seq := l.laid, next := i } h ∧ h.le.laid = l.laid + 1 ∧
      h.le.tails[x.laneIx] = some i ∧ h.le.heads[x.laneIx] = some ((l.heads[x.laneIx]).getD i) ∧
      h.le.layFrom = 64 * z.clock + Max.max 3000 (375 * x.succCount)
    (s.hw.le.replay = false → (∀ p ∈ l.cuts, p.2.st = .ready → p = (i, x)) → (i, x) ∈ l.cuts → l.lanePtr ≤ x.laneIx.val →
      (x.succCount = 0 → Yields .layoutCut s (fun t => t.mem = s.mem ∧ laid t.hw ∧ t.hw.le.st = .running)) ∧
      (∀ j y, x.succCount = 1 → Readable x.succPtr 4 z → x.succPtr % 4 = 0 → memNat x.succPtr 4 s.mem = j → j ≠ i →
        j < l.cutCount → CutAt j y z → y.place = 1 → l.tails[x.laneIx] = none → Yields .layoutCut s (fun t =>
          laid t.hw ∧ CutAt j { y with place := 0, st := .ready } t.hw))) ∧
    (s.hw.le.replay = true → x.succCount = 0 → s.hw.le.laid = l.laid → s.hw.le.rplBase = l.rplBase →
      let a := l.rplBase.toNat + 32 * l.laid
      let w := memNat a 8 s.mem
      Readable a 32 z → a % 32 = 0 → w / 2 ^ 36 % 2 ^ 20 = i →
      (w / 2 ^ 60 = 1 → w / 2 ^ 16 % 2 ^ 20 = l.laid → w / 2 ^ 58 % 4 = x.lane → w / 2 ^ 56 % 4 = x.part →
        Yields .layoutReplayRecord s (fun t => t.mem = s.mem ∧ laid t.hw ∧ t.hw.le.st = .running)) ∧
      (w / 2 ^ 60 ≠ 1 → Yields .layoutReplayRecord s (fun t => t.mem = s.mem ∧ t.hw.le.err = 0x0B ∧
        t.hw.le.errCut = i % 2 ^ 32 ∧ t.hw.le.laid = l.laid)))

/-- R307, R316, R317, R323, R324: a head that the ledger admits is launched: a GANG or SIDE cut by six purlin writes to each core at the
same time, a COPY, NET or NOTICE cut without one, and a NOP completes at once; a charge above LCAP ends the graph. -/
def CutsAreLaunched : Prop :=
  ∀ (lane : Fin 7) (i : Nat) (x : Cut) (s : State),
    let z := s.hw.event s.hw.clock
    let l := s.hw.le
    Working s.hw → l.heads[lane] = some i → (∀ k, k ≠ lane → l.heads[k] = none) → CutAt i x s.hw → x.laneIx = lane →
    (∀ p ∈ l.cuts, p.2.st ≠ .running) → x.beat = false → x.ovl = false → x.st = .laid → x.done = 0 →
    (l.cap < 1000 * x.energy → Yields (.launchCut lane) s (fun t => t.hw.le.err = 0x07 ∧ t.hw.le.errCut = i % 2 ^ 32)) ∧
    (1000 * x.energy ≤ l.cap → l.bal < 1000 * (x.energy : Int) → exec (.launchCut lane) s = .next { s with hw := z }) ∧
    (1000 * x.energy ≤ l.cap → 1000 * (x.energy : Int) ≤ l.bal →
      let runs := fun (h : Hw) => (sget i h.le.cuts).map (fun y => (y.st, y.launchedAt)) = some (.running, s.hw.fcyc) ∧
        h.le.bal = l.bal - 1000 * x.energy ∧ h.le.heads[lane] = (if x.next = i then none else some x.next)
      (x.kind ≤ 1 → l.launchAt ≠ s.hw.clock → (∀ e ∈ s.hw.purlins, e.core ∉ x.cores l) →
        Acts (.launchCut lane) s (fun h => runs h ∧ ∀ c ∈ x.cores l, (h.core c).runsCut = some i ∧
          ∀ p ∈ [(0x041A, x.paramPtr % 2 ^ 32), (0x041B, x.paramPtr / 2 ^ 32), (0x041D, x.entry),
              (0x0810, l.runnerSegs.toNat ||| x.ovlSegs), (0x0484, 0x8000),
              (0x041C, (((x.cores l).head?.map (·.val)).getD 0) * 2 ^ 20 + i)],
            ∃ e ∈ h.purlins, e.core = c ∧ e.port = BitVec.ofNat 16 p.1 ∧ e.kind = .write (BitVec.ofNat 32 p.2) ∧
              e.due = Max.max s.hw.fcyc0 (rootTurn s.hw + 93))) ∧
      (x.kind = 2 ∨ x.kind = 3 ∨ x.kind = 4 → Acts (.launchCut lane) s (fun h => runs h ∧ h.purlins = s.hw.purlins ∧
        h.cores = s.hw.cores)) ∧
      (x.kind = 15 → x.succCount = 0 → Yields (.launchCut lane) s (fun t => Completed i z t.hw ∧ t.mem = s.mem ∧
        t.hw.le.bal = l.bal)))

/-- R314, R319, R323: the next end notice completes or fails its cut, in the cycle after that in which its store is performed, and the
charge is returned; the walk of its successors comes to the first one six cycles later, and its DONE falls by 1. A notice without its
bit, or of a core that does not run the cut, is an error. -/
def CutsEnd : Prop :=
  (∀ (g : RidgeMsg) (at_ : Nat) (rest : List RidgeMsg) (h1 : Hw) (i : Nat) (x : Cut) (s : State),
    let w := g.word
    let z := (({ h1.event at_ with endNotices := rest }.updThread g.who Thread.noticed).event (at_ + 1))
    let l := z.le
    s.hw.nextMsg s.hw.endNotices = some (g, at_, rest, h1) → Working z → w.toNat % 2 ^ 20 = i → CutAt i x z →
    (w.getLsbD 63 = true → x.st = .running → (z.core g.num).runsCut = some i →
      (w.toNat / 2 ^ 20 % 16 = 0 → (x.cores l).head?.map (·.val) = some g.num →
        (x.succCount = 0 → Yields .endNotice s (fun t =>
          Completed i z t.hw ∧ t.hw.le.bal = l.bal + 1000 * x.energy ∧ t.hw.endNotices = rest ∧ t.hw.clock = z.clock)) ∧
        (∀ j, x.succCount = 1 → Readable x.succPtr 4 z → x.succPtr % 4 = 0 → memNat x.succPtr 4 s.mem = j →
          l.walkFrom ≤ 64 * z.clock → Yields .endNotice s (fun t =>
            (sget i t.hw.le.cuts).map (·.st) = some .complete ∧ (z.clock + 5, .edge j) ∈ t.hw.later))) ∧
      (w.toNat / 2 ^ 20 % 16 = 1 → Yields .endNotice s (fun t =>
        (sget i t.hw.le.cuts).map (·.st) = some .failed ∧ t.hw.le.err = 0x0C ∧ t.hw.le.errInfo = g.num % 2 ^ 32 ∧
        t.hw.le.bal = l.bal + 1000 * x.energy ∧ t.hw.endNotices = rest))) ∧
    (w.getLsbD 63 = false ∨ x.st ≠ .running ∨ (z.core g.num).runsCut ≠ some i → Yields .endNotice s (fun t =>
      t.hw.le.err = 0x0D ∧ t.hw.le.errInfo = g.num % 2 ^ 32 ∧ CutAt i x t.hw))) ∧
  (∀ (j : Nat) (y : Cut) (h : Hw), CutAt j y h → CutAt j { y with done := y.done - 1 } (h.applyLater (.edge j)))

end Sys2Proof.Claims

/-- R305, R309, R310, R312, R314, R316, R317, R319, R323, R324, R331, R333: GO, loading, layout, launch and completion. The model's
choices it rests on: log entries 38, 40, 42, 43, 44, 81 and 98. -/
def Obligations.LayoutLoadsLaysOutAndLaunches : Prop :=
  GraphsStart ∧ DescriptorsAreLoaded ∧ CutsAreLaidOut ∧ CutsAreLaunched ∧ CutsEnd

namespace Sys2Proof.Claims

/-- R26, R227, R320: the staging of a head's overlay sends one request to the fourth engine of each core's bent, and the cut is STAGED,
or OVERLAY_FAULT is raised, when the engine knows that all have ended. -/
def OverlaysAreStaged : Prop :=
  (∀ (lane : Fin 7) (i : Nat) (x : Cut) (s : State),
    let l := s.hw.le
    CutAt i x s.hw → l.st = .running → l.heads[lane] = some i → (∀ p ∈ l.cuts, p.2.st ≠ .running) → x.kind ≤ 1 → x.ovl = true →
    x.st = .laid → x.staging = false → Acts (.stageOverlay lane) s (fun h => h.clock = s.hw.clock ∧
      CutAt i { x with staging := true, stageOpen := (x.cores l).length, stageFail := none, doneAt := 0 } h ∧
      ∀ c ∈ x.cores l, ∃ r ∈ (h.bent (c.val / 44)).stageQ, r.owner = .stage i ∧ r.home = c ∧ r.src = x.ovlSrc ∧
        r.dst = x.ovlDst ∧ r.len = x.ovlLen ∧ r.dspace = true ∧ r.dcore = c.val % 44 ∧ s.hw.clock ≤ r.submitted)) ∧
  (∀ (i : BitVec 20) (x : Cut) (s : State),
    let z := s.hw.event x.doneAt
    CutAt i.toNat x s.hw → CutAt i.toNat x z → x.staging = true → x.stageOpen = 0 →
    (x.stageFail = none → Acts (.overlayStaged i) s (fun h => CutAt i.toNat { x with staging := false, st := .staged } h ∧
      h.clock = z.clock)) ∧
    (∀ code, x.stageFail = some code → z.le.st = .running → Acts (.overlayStaged i) s (fun h =>
      h.le.err = 0x0F ∧ h.le.errCut = i.toNat ∧ h.le.errInfo = code % 2 ^ 32)))

/-- R322: a copy agent asks for the source of the next unit, which ends at a 64-byte boundary of the destination; the copy completes once
every unit has ended, or fails with the code of its first failing unit. -/
def CopiesMove : Prop :=
  ∀ (i : BitVec 20) (x : Cut) (s : State),
    (x.kind = 2 → x.st = .running → x.fault = none → x.reading = [] → CutAt i.toNat x s.hw → s.hw.devFrozen = false →
      let t := Max.max s.hw.clock x.from_
      let z := s.hw.event t
      let src := x.spec.getD 0 0 % 2 ^ 48
      let dst := x.spec.getD 1 0 % 2 ^ 48
      let len := x.spec.getD 2 0 % 2 ^ 32
      let n := Min.min (64 - (dst + x.unit) % 64) (len - x.unit)
      let a := src + x.unit
      let plate := if (x.spec.getD 3 0).testBit 0 then .east else .west
      CutAt i.toNat x z → x.unit < len → inOneBent src len = true → inOneBent dst len = true ∨ (coreScratch dst len).isSome = true →
      Acts (.copyUnitIssue i) s (fun h => h.clock = z.clock ∧
        (∃ u, CutAt i.toNat { x with unit := x.unit + n, open_ := x.unit :: x.open_, reading := [u], from_ := t + 1 } h ∧
          u.off = x.unit ∧ u.n = n ∧ u.sent = false) ∧
        ∃ q ∈ sgetD (a / 64 % 64) [] (h.bent ((a - 0x001000000000) / 0x40000000)).slices, q.key = a / 64 ∧ q.wr = none ∧
          q.owner = .copy i.toNat x.unit 0 ∧ q.home = plateRouter plate ∧ z.clock < q.entered)) ∧
    (x.st = .running → x.succCount = 0 → x.open_ = [] → CutAt i.toNat x s.hw →
      let z := s.hw.event x.doneAt
      CutAt i.toNat x z → Working z →
      ((x.kind = 2 ∧ x.spec.getD 2 0 % 2 ^ 32 ≤ x.unit ∨ x.kind = 3 ∧ x.spec.getD 3 0 % 2 ^ 32 ≤ x.unit) → x.fault = none →
        Yields (.copyComplete i) s (fun t => Completed i.toNat z t.hw ∧ t.hw.le.bal = z.le.bal + 1000 * x.energy ∧
          t.hw.clock = z.clock)) ∧
      (∀ code at_, x.fault = some (code, at_) → Yields (.copyFail i) s (fun t =>
        (sget i.toNat t.hw.le.cuts).map (·.st) = some .failed ∧ t.hw.le.err = 0x0E ∧ t.hw.le.errInfo = code % 2 ^ 32)))

/-- R395: a NOTICE cut completes when its session's completion ring takes the record. -/
def NoticesAreTaken : Prop :=
  ∀ (i : BitVec 20) (x : Cut) (n : Nat) (ses : Session) (s : State),
    CutAt i.toNat x s.hw → Working s.hw → x.kind = 4 → x.st = .running → x.succCount = 0 → s.hw.net.noticeTo = some n →
    sget n s.hw.net.sessions = some ses → ses.waiting = [] → (∀ ws : List W64, ws.length = 8 → (ses.place ws).isSome = true) →
    Yields (.noticeAccept i) s (fun t => Completed i.toNat s.hw t.hw ∧
      ∃ ses', sget n t.hw.net.sessions = some ses' ∧ ses.unacked.length < ses'.unacked.length)

/-- R327, R471, R472: a running cut that no freeze holds reports at the first tick past its TIMEOUT, counted without the cycles in which
it was held; a still report marks the running cut of its core in the cycle after its store is performed. -/
def CutsReport : Prop :=
  (∀ (i : BitVec 20) (x : Cut) (s : State),
    let us := if x.timeout = 0 then s.hw.le.defTimeout else x.timeout
    let z := s.hw.event (s.hw.fcyc0 + ((x.launchedAt + x.heldFor + 3000 * us) / 3000 + 1) * 3000)
    CutAt i.toNat x s.hw → CutAt i.toNat x z → x.st = .running → x.timedOut = false → s.hw.devFrozen = false →
    (x.kind ≤ 1 → ∀ c ∈ (x.cores s.hw.le).head?, (s.hw.core c).frozenAt = none) →
    Acts (.cutTimeoutExpiry i) s (fun h => CutAt i.toNat { x with timedOut := true } h ∧ h.irqPend.getLsbD 226 = true ∧
      h.clock = z.clock)) ∧
  (∀ (g : RidgeMsg) (at_ : Nat) (rest : List RidgeMsg) (h1 : Hw) (i : Nat) (x : Cut) (s : State),
    let z := (({ h1.event at_ with stillReports := rest }.updThread g.who Thread.noticed).event (at_ + 1))
    s.hw.nextMsg s.hw.stillReports = some (g, at_, rest, h1) → CutAt i x z → (z.core g.num).runsCut = some i → x.st = .running →
    Acts .stillReport s (fun h => CutAt i { x with stillMark := true } h ∧ h.stillReports = rest ∧ h.clock = z.clock))

/-- R315, R323, R325, R329, R428: a tick subtracts the increments that have reached the engine and refills the balance up to the cap, by
no more than TCAP_MW while THERMAL_WARN holds; LCOMMIT and GCOMMIT take their shadows; a write of LOG_RD ends a pause. -/
def LedgerKeepsItsBalance : Prop :=
  ∀ (v : W32) (s : State),
    let tick := (s.hw.le.lastTick / 3000 + 1) * 3000
    let z := s.hw.event (s.hw.fcyc0 + tick)
    let e := z.le.arrived.sum
    let refill := if z.sill.warm then Min.min z.le.budget z.sill.tcap.toNat else z.le.budget
    let l := s.hw.access.le
    (s.hw.devFrozen = false → Acts .ledgerTick s (fun h => h.clock = z.clock ∧
        h.le.bal = (if z.le.bal - e < z.le.cap then Min.min (z.le.bal - e + refill) (z.le.cap : Int) else z.le.bal - e) ∧
        h.le.meter = (z.le.meter + e) % 2 ^ 64 ∧ h.le.arrived = [] ∧ h.le.lastTick = tick)) ∧
    (s.hw.devFrozen = true → exec .ledgerTick s = .next s) ∧
    Acts (.lcommit v) s (fun h =>
      h.le = if v.getLsbD 0 then { l with budget := l.budgetSh.toNat, cap := l.capHiSh.toNat * 2 ^ 32 + l.capLoSh.toNat } else l) ∧
    (v.getLsbD 0 = true →
      (splitOk l.splitSh.toList = true → (l.st = .idle ∨ l.st = .done ∨ l.st = .error) → Acts (.gcommit v) s (fun h =>
        h.le = { l with split := l.splitSh, splitRef := false })) ∧
      (splitOk l.splitSh.toList = false ∨ l.st = .loading ∨ l.st = .running ∨ l.st = .draining → Acts (.gcommit v) s (fun h =>
        h.le = { l with splitRef := true }))) ∧
    Acts (.logRdWrite v) s (fun h => h.le =
      { l with logRd := v.toNat, paused := l.paused && decide ((l.logWr + 32) % l.logSize.toNat = v.toNat) })

/-- R13, R16, R332: a read of an RC counter answers its value and leaves 0, and a write of a register takes its bits, in a cycle before
its events, while the firmware serves; with the power off or the board held neither does anything. -/
def ControlRegistersAreAccessed : Prop :=
  (∀ (v : W32) (p : Plate) (s : State), s.hw.board.held = false → s.hw.firm.romHalted = false →
    (s.hw.sill.power = .idle ∨ s.hw.sill.power = .idleGated) →
    let x := s.hw.access
    Acts (.counterReadClear .layout 0x44) s (fun h => h.ctlRead = x.le.runDrop ∧ h.le = { x.le with runDrop := 0 }) ∧
    Acts (.counterReadClear (.plate p) 0x008) s (fun h => h.ctlRead = (x.xm p).xce ∧ h.xm p = { x.xm p with xce := 0 }) ∧
    Acts (.counterReadClear .domain 0x3C) s (fun h => h.ctlRead = x.dom.dslips ∧ h.dom = { x.dom with dslips := 0 }) ∧
    Acts (.registerWrite .layout 0x50 v) s (fun h => h.le = { x.le with budgetSh := v }) ∧
    Acts (.registerWrite .sill 0x2C v) s (fun h => h.sill = { x.sill with tcap := v }) ∧
    Acts (.registerWrite .domain 0x14 v) s (fun h => h.dom = { x.dom with stepTimeout := v })) ∧
  (∀ (blk : RegBlock) (off : BitVec 16) (v : W32) (s : State), s.hw.sill.power = .off ∨ s.hw.board.held = true →
    exec (.counterReadClear blk off) s = .next s ∧ exec (.registerWrite blk off v) s = .next s)

end Sys2Proof.Claims

/-- R315, R320, R322, R323, R325, R327, R329, R332, R394, R395, R428, R472: overlays, copies, notices, reports, the ledger and the
registers of the control cores. The model's choices it rests on: log entries 34, 38, 75, 79, 81, 98 and 99. -/
def Obligations.LayoutOverlaysCopiesAndLedger : Prop :=
  OverlaysAreStaged ∧ CopiesMove ∧ NoticesAreTaken ∧ CutsReport ∧ LedgerKeepsItsBalance ∧ ControlRegistersAreAccessed

/-! ### The scarf links -/

namespace Sys2Proof.Claims

/-- A valid single block of a kind (R338). -/
def Single (b : Block) (k : Nat) : Prop := blkValid b = true ∧ (blkWord b).bt = 2 ∧ (blkWord b).skind = k

/-- A valid sequenced block with the expected number (R342). -/
def InOrder (l : Fin 8) (b : Block) (h : Hw) : Prop :=
  (h.link l).isUp = true ∧ blkValid b = true ∧ (blkWord b).seq = (h.link l).eseq

/-- A replay buffer after the acknowledgement of block `n` (R342). -/
def released (n : Nat) (rb : List Sent) : List Sent :=
  if rb.any (·.seq == n) then (rb.dropWhile (·.seq != n)).drop 1 else rb

/-- Records held in the replay buffer of a link, and those it has still to send (R296). -/
def aboard (x : Link) : List Rec :=
  x.replayBuf.flatMap (·.recs) ++ (match x.flit with | some f => f.2.filterMap id | none => []) ++
    x.queues.toList.flatten.map (·.record)

/-- The LOST record of a lost record (R296). -/
def lostNote (h : Hw) (r : Rec) : Queued :=
  { record := { kind := .lost, dmod := r.smod, smod := h.dom.num, bent := bentOf r.sgcore, core := coreIn r.sgcore, count := 1 }
    vc := 1, port := 6, link := none, stamp := h.fcyc }

/-- A link of the hardware `z` goes DOWN with a cause, trains again when enabled, and loses what it held, with a LOST record for every
data record (R296, R337). -/
structure Fell (l : Fin 8) (cause : Nat) (en : Bool) (z h : Hw) : Prop where
  clock : h.clock = z.clock
  state : (h.link l).state = if en then .train else .down
  cause : (h.link l).downCause = BitVec.ofNat 4 cause
  count : (h.link l).downCount = (z.link l).downCount + 1
  replay : (h.link l).replayBuf = []
  queues : ∀ vc : Fin 4, (h.link l).queues[vc] = []
  combine : (h.link l).combine = false
  irq : h.irqPend.getLsbD (192 + l.val) = true
  lost : (h.recs (linkPlate l)).inbox =
    (z.recs (linkPlate l)).inbox ++ ((aboard (z.link l)).filter (·.counts)).map (lostNote h)
  beat : z.dom.joined = true → z.dom.parent = some l → h.dom.beatLock = false

/-- R336, R337: LCTRL.EN takes a DOWN link to TRAIN, and another to DOWN; training ends in ALIGN, or after 200 ms DOWN; a lost lane or
10 µs of silence take an UP link DOWN. -/
def LinksChangeState : Prop :=
  ∀ (l : Fin 8) (v : W32) (s : State),
    let x := s.hw.link l
    let y := s.hw.access
    let late := s.hw.event (x.since + 600000000)
    let silent := s.hw.event (x.lastValid + 30000)
    (v.getLsbD 31 = true →
      ((y.link l).state = .down → Acts (.linkEnable l v) s (fun h => (h.link l).state = .train ∧ (h.link l).since = y.clock ∧
        (h.link l).ctrl = v &&& 0xE7800000 ∧ h.irqPend = y.irqPend ||| (1 <<< (192 + l.val)))) ∧
      ((y.link l).state ≠ .down → Acts (.linkEnable l v) s (fun h =>
        h.links = y.links.set l { y.link l with ctrl := v &&& 0xE7800000 } ∧ h.irqPend = y.irqPend))) ∧
    (v.getLsbD 31 = false → (y.link l).state = .up → Acts (.linkEnable l v) s (Fell l 1 false y)) ∧
    (v.getLsbD 31 = false → ((y.link l).state = .train ∨ (y.link l).state = .align) → Acts (.linkEnable l v) s (fun h =>
      (h.link l).state = .down)) ∧
    (x.state = .train → Acts (.linkTrainingEnd l) s (fun h => (h.link l).state = .align ∧
      h.irqPend = s.hw.irqPend ||| (1 <<< (192 + l.val)))) ∧
    ((x.state = .train ∨ x.state = .align) → Acts (.linkTrainTimeout l) s (Fell l 6 (late.link l).en late)) ∧
    (x.state = .up → Acts (.laneLockLoss l) s (Fell l 2 x.en s.hw) ∧
      Acts (.linkSilenceExpiry l) s (Fell l 5 (silent.link l).en silent))

/-- R336, R337, R338, R339, R342: three IDENT blocks with the own tag take a link UP; every valid block delivers its acknowledgement and
its credits, and the 32nd invalid one in a row takes the link DOWN; a flit block that is in order gives its record to the plate, and the
four blocks of a flit hold one buffer until the last of their records has left; one out of order makes a NAK due, which is repeated every
1.2 µs. -/
def BlocksAreReceived : Prop :=
  ∀ (l : Fin 8) (b : Block) (s : State),
    let x := s.hw.link l
    (x.state = .align → Single b 6 →
      (numAt b.bytes 8 2 = s.hw.dom.domId.toNat % 2 ^ 16 →
        (x.idents < 2 → Acts (.ident l b) s (fun h => (h.link l).state = .align ∧ (h.link l).idents = x.idents + 1)) ∧
        (x.idents = 2 → Acts (.ident l b) s (fun h => (h.link l).state = .up ∧ (h.link l).seq = 0 ∧ (h.link l).eseq = 0 ∧
          (h.link l).credits = #v[512, 512, 64, 32] ∧ (h.link l).miswire = false ∧ h.irqPend.getLsbD (192 + l.val) = true))) ∧
      (numAt b.bytes 8 2 ≠ s.hw.dom.domId.toNat % 2 ^ 16 → Acts (.ident l b) s (fun h => (h.link l).state = .align ∧
        (h.link l).idents = 0 ∧ (h.link l).miswire = true ∧ (x.miswire = false → h.irqPend.getLsbD 238 = true)))) ∧
    (x.isUp = true → Single b 0 → Acts (.idle l b) s (fun h =>
      (∀ vc : Fin 4, (h.link l).credits[vc] = x.credits[vc] + ((blkWord b).cr[vc] + 64 - x.peerFreed[vc] % 64) % 64 ∧
        (h.link l).peerFreed[vc] = (blkWord b).cr[vc]) ∧
      (h.link l).replayBuf = released (blkWord b).ackseq x.replayBuf ∧ (h.link l).invalidRun = 0 ∧
      (h.link l).lastValid = s.hw.clock ∧ ∀ k, k ≠ l → h.link k = s.hw.link k)) ∧
    (x.isUp = true → crcOk b = false →
      (x.invalidRun < 31 → Acts (.idle l b) s (fun h => (h.link l).invalidRun = x.invalidRun + 1 ∧ (h.link l).state = .up ∧
        (h.link l).fecUnc = x.fecUnc + BitVec.ofNat 32 b.lost ∧ (h.link l).fecCorr = x.fecCorr + BitVec.ofNat 32 b.corrected ∧
        (h.link l).credits = x.credits)) ∧
      (x.invalidRun = 31 → Acts (.idle l b) s (Fell l 4 x.en s.hw))) ∧
    (x.isUp = true → Single b 1 →
      let n := numAt b.bytes 8 2 % 4096
      Acts (.nak l b) s (fun h => (h.link l).replays = x.replays + 1 ∧
        ((released (blkWord b).ackseq x.replayBuf).any (·.seq == n) = true → (h.link l).resend = some n))) ∧
    (InOrder l b s.hw → (blkWord b).bt < 2 → ∀ r : Rec, Rec.of b.bytes = some r →
      let vc := (blkWord b).vc
      let k := (x.rxBlocks[vc]).2
      let n := if k = 0 then x.rxCount + 1 else (x.rxBlocks[vc]).1
      let held := if k = 0 then sset n 4 x.rxFlits[vc] else x.rxFlits[vc]
      let taken := fun (h : Hw) => (h.link l).eseq = (x.eseq + 1) % 4096 ∧ (h.link l).acked = x.eseq ∧ (h.link l).nakOpen = false ∧
        (h.link l).rxBlocks[vc] = (n, (k + 1) % 4)
      (r.kind ≠ .empty → Acts (.flitBlock l b) s (fun h => taken h ∧ (h.link l).rxFlits[vc] = held ∧ (h.link l).freed = x.freed ∧
        (h.recs (linkPlate l)).inbox = (s.hw.recs (linkPlate l)).inbox ++
          [{ record := r, vc := vc, port := 7 + l.val % 4, link := some l, rx := n, stamp := s.hw.fcyc }])) ∧
      (r.kind = .empty → Acts (.flitBlock l b) s (fun h => taken h ∧
        (sget n held = some 1 → (h.link l).rxFlits[vc] = sdel n held ∧ (h.link l).freed[vc] = (x.freed[vc] + 1) % 64) ∧
        (∀ j, sget n held = some (j + 2) → (h.link l).rxFlits[vc] = sset n (j + 1) held ∧ (h.link l).freed = x.freed)))) ∧
    (x.isUp = true → blkValid b = true → (blkWord b).bt < 2 → (blkWord b).seq ≠ x.eseq → x.nakOpen = false →
      Acts (.flitBlock l b) s (fun h => (h.link l).nakDue = true ∧ (h.link l).nakOpen = true ∧ (h.link l).eseq = x.eseq ∧
        h.recsWest = s.hw.recsWest ∧ h.recsEast = s.hw.recsEast)) ∧
    (x.isUp = true → x.nakOpen = true → x.nakDue = false → Acts (.nakRepeatExpiry l) s (fun h => (h.link l).nakDue = true ∧
      h.clock = (s.hw.event (x.nakAt + 3600)).clock))

/-- The block boundary of a link's transmitter that comes next, in 1/25 of a cycle: boundaries lie 0.32 ns apart (R335). Their phase is the
model's choice (log entry 94). -/
def boundary (l : Fin 8) (s : State) : Nat := (Max.max (s.hw.link l).txFrom (25 * s.hw.clock) + 23) / 24 * 24

/-- R335, R336, R337, R339, R340, R341, R342, R346: at each block boundary a link sends the first of the list of R341: a NAK that is due, the
next block of a replay, a sync block, the block of a flit, or IDLE. -/
def BlocksAreSent : Prop :=
  ∀ (l : Fin 8) (s : State),
    let x := s.hw.link l
    let z := s.hw.event (boundary l s / 25)
    z.link l = x → z.blocksOut = s.hw.blocksOut →
    let sends := fun (h : Hw) (bt vc seq skind : Nat) (body : List Byte) => h.clock = z.clock ∧
      (h.link l).txFrom = boundary l s + 24 ∧ h.blocksOut = s.hw.blocksOut ++ [(l.val, blockBytes x bt vc seq skind body)]
    (x.state = .align → Acts (.blockTransmit l) s (fun h => sends h 2 3 0 6 (identBody z l))) ∧
    (x.state = .up →
      (x.nakDue = true →
        (x.naks < 7 → Acts (.blockTransmit l) s (fun h => sends h 2 3 0 1 (toBytes 2 x.eseq) ∧ (h.link l).nakDue = false ∧
          (h.link l).naks = x.naks + 1 ∧ (h.link l).nakAt = z.clock)) ∧
        (7 ≤ x.naks → Acts (.blockTransmit l) s (Fell l 3 x.en z))) ∧
      (x.nakDue = false →
        (∀ n b rest, x.resend = some n → x.replayBuf.dropWhile (·.seq != n) = b :: rest →
          Acts (.blockTransmit l) s (fun h => sends h b.bt b.vc b.seq b.skind b.body ∧
            (h.link l).resend = rest.head?.map (·.seq) ∧ (h.link l).replayBuf = x.replayBuf)) ∧
        (x.resend = none → 1024 ≤ x.replayBuf.length → Acts (.blockTransmit l) s (fun h => sends h 2 3 0 0 [])) ∧
        (x.resend = none → x.replayBuf.length < 1024 →
          (∀ m rest, x.syncQ = m :: rest → m.1 ≤ z.clock → (∀ m' ∈ rest, m.1 ≤ m'.1) → 0 < x.credits[3] →
            Acts (.blockTransmit l) s (fun h => sends h 2 3 x.seq m.2.1 m.2.2 ∧ (h.link l).syncQ = rest ∧
              (h.link l).credits[3] = x.credits[3] - 1 ∧ (h.link l).seq = (x.seq + 1) % 4096 ∧ (h.link l).replayBuf =
                x.replayBuf ++ [{ seq := x.seq, bt := 2, vc := 3, skind := m.2.1, body := m.2.2, recs := [] }])) ∧
          ((x.credits[3] = 0 ∨ ∀ m ∈ x.syncQ, z.clock < m.1) →
            (x.flit = none → (∀ vc : Fin 4, x.queues[vc] = []) → Acts (.blockTransmit l) s (fun h =>
              sends h 2 3 0 0 [] ∧ h.link l = { x with txFrom := boundary l s + 24 })) ∧
            (∀ (vc : Fin 4) (q : Queued), x.flit = none → vc ≠ 3 → (∀ v, v ≠ vc → x.queues[v] = []) →
              x.queues[vc] = [q] → q.link = none → 2 ≤ x.credits[vc] → Acts (.blockTransmit l) s (fun h =>
                sends h 0 vc x.seq 0 q.record.body ∧ (h.link l).queues[vc] = [] ∧
                (h.link l).credits[vc] = x.credits[vc] - 1 ∧ (h.link l).flit = some (vc, [none, none, none]) ∧
                (h.link l).flits = x.flits + 1 ∧ (h.link l).seq = (x.seq + 1) % 4096)) ∧
            (∀ (vc : Fin 4) (r : Option Rec) (more : List (Option Rec)), x.flit = some (vc, r :: more) →
              Acts (.blockTransmit l) s (fun h =>
                sends h 1 vc x.seq 0 ((r.map (·.body)).getD []) ∧ (h.link l).flit = (if more = [] then none else some (vc, more)) ∧
                (h.link l).seq = (x.seq + 1) % 4096)) ∧
            (x.flit = none → x.flitReady 2 ≠ [] → x.flits % 2 = 0 → Acts (.blockTransmit l) s (fun h =>
              (h.link l).flit.map (·.1) = some 2 ∧ (h.link l).credits[2] = x.credits[2] - 1))))))

/-- R256, R296, R337, R339, R345, R347: a plate takes the oldest of the records that have reached it, of one stamp that of the lowest port,
and sends it to its core, holds it for a full mortise, queues it at the link of its module, sends it to the plate of that, or loses it
with a LOST record. That a link that is not UP loses it is the model's choice (log entry 96). -/
def RecordsAreForwarded : Prop :=
  (∀ (x : PlateRecs) (q : Queued), x.next = some q → q ∈ x.inbox ∧ q.flit = 0 ∧
    ∀ y ∈ x.inbox, y.flit = 0 → q.stamp < y.stamp ∨ (q.stamp = y.stamp ∧ q.port ≤ y.port)) ∧
  (∀ (p : Plate) (q : Queued) (s : State),
    let z := s.hw.event (s.hw.fcyc0 + q.stamp)
    let l : Fin 8 := Fin.ofNat 8 ((sgetD q.record.dmod 0 z.dom.rtAct).toNat % 8)
    let row := (sgetD q.record.dmod 0 z.dom.rtAct).toNat / 8 % 8
    let r := q.record
    let rest := (z.recs p).inbox.erase q
    (∀ y ∈ (s.hw.recs p).inbox, y.flit = 0) → (s.hw.recs p).next = some q →
    (∀ c k, r.dmod = z.dom.num → q.link = some k → r.target = some c → r.kind = .tuple →
      (∀ y ∈ (z.recs p).held, y.isFor c (Fin.ofNat 16 r.mort) = false) →
      (z.plateRoom p c (Fin.ofNat 16 r.mort) = true → Acts (.recordForward p) s (fun h => (h.recs p).inbox = rest ∧
        ∃ y, (h.recs p).flying = (z.recs p).flying ++ [y] ∧ y.record = r ∧
          y.stamp = z.fcyc + meshTime (plateRouter p) (c.val / 44))) ∧
      (z.plateRoom p c (Fin.ofNat 16 r.mort) = false → Acts (.recordForward p) s (fun h => (h.recs p).inbox = rest ∧
        (h.recs p).held = (z.recs p).held ++ [q] ∧ (h.recs p).flying = (z.recs p).flying))) ∧
    (r.dmod ≠ z.dom.num → z.dom.reaches r.dmod = false ∨ (z.dom.reaches r.dmod = true ∧ linkPlate l = p ∧ (z.link l).isUp = false) →
      q.link = none → r.counts = true → Acts (.recordForward p) s (fun h => (h.recs p).inbox = rest ++ [lostNote h r])) ∧
    (r.dmod ≠ z.dom.num → z.dom.reaches r.dmod = true →
      (linkPlate l = p → (z.link l).isUp = true → Acts (.recordForward p) s (fun h => (h.recs p).inbox = rest ∧
        h.clock = z.clock ∧ (h.link l).queues[q.vc] = (z.link l).queues[q.vc] ++ [{ q with stamp := h.fcyc }])) ∧
      (linkPlate l ≠ p → Acts (.recordForward p) s (fun h => (h.recs p).inbox = rest ∧
        ∃ y f, (h.recs (linkPlate l)).inbox = (z.recs (linkPlate l)).inbox ++ [y] ∧ y.record = r ∧ y.port = row ∧ y.link = none ∧
          y.flit = f.serial ∧ f ∈ h.flits ∧ f.src = plateRouter p ∧ f.dst = plateRouter (linkPlate l) ∧ f.vc = q.vc))))

end Sys2Proof.Claims

/-- R296, R335, R336, R337, R338, R339, R340, R341, R342, R345, R346, R347: the states of a link, the blocks it receives and sends, and the
records of the plates. The model's choices it rests on: log entries 13, 37, 81, 93, 94 and 96. -/
def Obligations.ScarfLinks : Prop :=
  LinksChangeState ∧ BlocksAreReceived ∧ BlocksAreSent ∧ RecordsAreForwarded

/-! ### The domain: beat, drawbore, steps and snapshots -/

namespace Sys2Proof.Claims

/-- The combiner's values of R355, some cycles after the values of the hardware `z` have changed: the least step, the greatest beat among
those at that step, no generation above the own, and a DRAWBORE message of them on every link of the combine set. -/
structure Combined (delay : Nat) (z h : Hw) : Prop where
  own : h.dom.cStep ≤ h.dom.ownStep
  step : ∀ k, (h.link k).combine = true → h.dom.cStep ≤ (h.link k).rxStep
  least : h.dom.cStep = h.dom.ownStep ∨ ∃ k, (h.link k).combine = true ∧ h.dom.cStep = (h.link k).rxStep
  ownBeat : h.dom.ownStep = h.dom.cStep → h.dom.ownBeat ≤ h.dom.cBeat
  beat : ∀ k, (h.link k).combine = true → (h.link k).rxStep = h.dom.cStep → near 32 h.dom.beat (h.link k).rxBeat ≤ h.dom.cBeat
  gen : h.dom.cDgen ≤ h.dom.ownDgen
  sent : ∀ k, (h.link k).combine = true → (h.link k).syncQ = (z.link k).syncQ ++
    [(z.clock + delay, 2, toBytes 4 h.dom.cStep ++ toBytes 4 h.dom.cBeat ++ toBytes 2 h.dom.cDgen)]

/-- R349, R350, R351, R355: a beat falls at the clock fixed at the beat before it, and sends TIME on every UP link; a member that is not the
root measures its offset against its parent, a free value (log entry 3), and sets or loses the lock by it. -/
def BeatsFall : Prop :=
  ∀ s : State,
    let d := s.hw.dom
    let at_ := d.beatClk + (3000 + d.adjust).toNat
    let z := s.hw.event at_
    z.dom = d → z.links = s.hw.links →
    let fell := fun (h : Hw) => h.clock = z.clock ∧ h.dom.beatClk = at_ ∧ h.dom.beatf = at_ - z.fcyc0 ∧
      ∀ k, (z.link k).isUp = true → ((z.link k).syncQ ++ [(z.clock, 3, toBytes 8 h.dom.beat)]) <+: (h.link k).syncQ
    (d.joined = false ∨ d.root = true → Acts .beat s (fun h => fell h ∧
      h.dom.beat = (d.beat + 1) % 2 ^ 64 ∧ h.dom.adjust = 0 ∧
      (d.joined = true → h.dom.beatLock = true ∧ h.dom.cStep ≤ d.ownStep))) ∧
    (∀ l n t, d.joined = true → d.parent = some l → (s.hw.link l).rxTime = some (n, t) →
      let ofs := BitVec.ofNat 16 (Config.freeNat z.freeCtr)
      let mag := ofs.toInt.natAbs
      Acts .beat s (fun h => fell h ∧ h.dom.beatOfs = ofs ∧ -3 ≤ h.dom.adjust ∧ h.dom.adjust ≤ 3 ∧ (h.link l).rxTime = none ∧
        (d.beatLock = true → mag ≤ 480 → h.dom.beatLock = true ∧ h.dom.beat = (d.beat + 1) % 2 ^ 64) ∧
        (d.beatLock = true → 480 < mag → h.dom.beatLock = false ∧ h.irqPend.getLsbD 233 = true) ∧
        (d.beatLock = false → mag ≤ 96 → 15 ≤ d.locked → h.dom.beatLock = true ∧ h.dom.beat = (n + 1) % 2 ^ 64 ∧
          h.irqPend.getLsbD 232 = true) ∧
        (d.beatLock = false → 96 < mag → h.dom.beatLock = false ∧ h.dom.locked = 0)))

/-- R338, R350, R355, R362: what the sync blocks of a link do that come in order: TIME is noted, unless it came through a replay; DRAWBORE
sets the values received, and the combiner works when they have changed; DRESET starts a job reset when it bears the next generation; SNAP
has no further effect. Each frees its buffer. -/
def SyncBlocksTakeEffect : Prop :=
  ∀ (l : Fin 8) (b : Block) (s : State), InOrder l b s.hw →
    let x := s.hw.link l
    let z := s.hw.event s.hw.clock
    let taken := fun (h : Hw) => (h.link l).eseq = (x.eseq + 1) % 4096 ∧ (h.link l).freed[3] = (x.freed[3] + 1) % 64
    (Single b 3 → Acts (.time l b) s (fun h => taken h ∧
      (h.link l).rxTime = if x.nakOpen then x.rxTime else some (wordAt b.bytes 1, s.hw.fcyc))) ∧
    (Single b 2 →
      let same := x.rxStep = numAt b.bytes 8 4 ∧ x.rxBeat = numAt b.bytes 12 4 ∧ x.rxDgen = numAt b.bytes 16 2
      Acts (.drawbore l b) s (fun h => taken h ∧ (h.link l).rxStep = numAt b.bytes 8 4 ∧
        (h.link l).rxBeat = numAt b.bytes 12 4 ∧ (h.link l).rxDgen = numAt b.bytes 16 2 ∧
        (s.hw.dom.joined = true → x.combine = true → ¬same → Combined 60 z h) ∧
        (s.hw.dom.joined = false ∨ x.combine = false ∨ same → h.dom = s.hw.dom))) ∧
    (Single b 5 → Acts (.snap l b) s (fun h => taken h ∧ h.dom = s.hw.dom)) ∧
    (Single b 4 →
      let g := BitVec.ofNat 16 (numAt b.bytes 8 2)
      (g = s.hw.dom.dresetGen + 1 → Yields (.dreset l b) s (fun t => t.hw.dom.dresetGen = g ∧
        ((∀ r ∈ s.hw.resets, r.level.rank ≤ 1) → t.hw.resets = [{ level := .job }]))) ∧
      (g ≠ s.hw.dom.dresetGen + 1 → Acts (.dreset l b) s (fun h => taken h ∧ h.dom = s.hw.dom ∧ h.resets = s.hw.resets)))

/-- R344, R348, R355, R359, R361, R362, R365: DRESET starts a domain reset; JOIN and LEAVE change the membership, the combine set and the
step lead; RTCOMMIT takes the shadow table; a snapshot is armed for a beat that is still to come. -/
def DomainsAreControlled : Prop :=
  ∀ (v : W32) (s : State),
    let x := s.hw.access
    let d := x.dom
    let lead := (150 + 300 * (d.param.toNat / 2 ^ 16 % 2 ^ 5) + 1200 + 999) / 1000 + 1
    (v.getLsbD 0 = true → Yields (.dresetStart v) s (fun t => t.hw.dom.dresetGen = d.dresetGen + 1 ∧
      ((∀ r ∈ x.resets, r.level.rank ≤ 1) → t.hw.resets = [{ level := .job }]))) ∧
    (v.getLsbD 0 = false → exec (.dresetStart v) s = .next { s with hw := x }) ∧
    (v.getLsbD 31 = true → d.joined = false → Acts (.join v) s (fun h =>
      h.dom.joined = true ∧ h.dom.root = v.getLsbD 0 ∧ h.dom.beatLock = v.getLsbD 0 ∧ h.dom.ownStep = 0 ∧ h.dom.cStep = 0 ∧
      h.dom.dstep = 0 ∧ (∀ k, (h.link k).combine = (x.link k).isUp ∧ (h.link k).rxStep = 0) ∧
      h.dom.param.toNat / 2 ^ 24 = (if d.param.toNat / 2 ^ 24 = 0 then lead % 256 else d.param.toNat / 2 ^ 24))) ∧
    (v.getLsbD 31 = false → v.getLsbD 30 = true → d.joined = true →
      ((x.le.st = .idle ∨ x.le.st = .done ∨ x.le.st = .error) → Acts (.leave v) s (fun h =>
        h.dom.joined = false ∧ h.dom.beatLock = false ∧ ∀ k, (h.link k).combine = false)) ∧
      ((x.le.st = .loading ∨ x.le.st = .running ∨ x.le.st = .draining) → Acts (.leave v) s (fun h =>
        h.dom = { d with root := v.getLsbD 0 } ∧ h.links = x.links))) ∧
    Acts (.rtcommit v) s (fun h => h.dom = { d with rtAct := if v.getLsbD 0 then d.rt else d.rtAct }) ∧
    (v.getLsbD 31 = true → d.beat < near 32 d.beat d.snapBeat.toNat → Acts (.snapArm v) s (fun h =>
      h.dom = { d with snapArm := true, snapDone := false, snapFrozen := false })) ∧
    (v.getLsbD 31 = true → near 32 d.beat d.snapBeat.toNat ≤ d.beat → exec (.snapArm v) s = .next { s with hw := x }) ∧
    (v.getLsbD 31 = false → Acts (.snapArm v) s (fun h => h.dom = { d with snapArm := false }))

/-- R361, R472: at the armed beat the freeze of the device is on its way, and holds every core from the next cycle on. -/
def SnapshotsFreeze : Prop :=
  (∀ (s : State),
    let d := s.hw.dom
    let z := s.hw.event d.beatClk
    (d.snapArm = true → near 32 d.beat d.snapBeat.toNat ≤ d.beat → Acts .snapshotFreeze s (fun h =>
      h.dom.snapArm = false ∧ h.clock = z.clock ∧ (z.clock, .freeze none) ∈ h.later)) ∧
    (d.snapArm = false ∨ d.beat < near 32 d.beat d.snapBeat.toNat → exec .snapshotFreeze s = .next s)) ∧
  (∀ h : Hw, (h.applyLater (.freeze none)).devFrozen = true ∧
    ∀ c : CoreId, ((h.applyLater (.freeze none)).core c).frozenAt = some (((h.core c).frozenAt).getD (h.clock + 1)))

end Sys2Proof.Claims

/-- R338, R344, R348, R349, R350, R351, R355, R359, R361, R362, R365, R472: the beat, the sync blocks, the domain's control registers, and
snapshots. The model's choices it rests on: log entries 3, 30, 41 and 81. -/
def Obligations.BeatDomainBlocksAndSnapshots : Prop :=
  BeatsFall ∧ SyncBlocksTakeEffect ∧ DomainsAreControlled ∧ SnapshotsFreeze

namespace Sys2Proof.Claims

/-- Core `c` has been released from scope `sc`: its arrival is cleared and the event of its TAG raised (R353). -/
def Released (c : CoreId) (sc : Fin 3) (tag : BitVec 6) (h : Hw) : Prop :=
  (h.core c).dbPend[sc] = none ∧
    ∀ (t : Fin 4) (k : Nat), t.val = tag.toNat / 16 → k = tag.toNat % 16 → ((h.core c).thread t).evpend.getLsbD k = true

/-- The arrivals of some cores at a scope in `z` have been released in `h`. -/
def AllReleased (cs : List CoreId) (sc : Fin 3) (z h : Hw) : Prop :=
  ∀ c ∈ cs, ∀ p, (z.core c).dbPend[sc] = some p → Released c sc p.1 h

/-- The members lie in one bent. -/
def OneBent (cs : List CoreId) : Prop := cs.Pairwise (fun c e => c.val / 44 = e.val / 44)

/-- R352, R353: all of some cores have arrived, the last of them at the clock value that is given. -/
def LastArrivals : Prop :=
  ∀ (sc : Fin 3) (cs : List CoreId) (h : Hw),
    (∀ t, h.allArrived sc cs = some t → cs ≠ [] ∧ (∀ c ∈ cs, ∃ p ∈ (h.core c).dbPend[sc], p.2 ≤ t) ∧
      ∃ c ∈ cs, ∃ p ∈ (h.core c).dbPend[sc], p.2 = t) ∧
    (cs ≠ [] → (∀ c ∈ cs, (h.core c).dbPend[sc] ≠ none) → h.allArrived sc cs ≠ none)

/-- R18, R352, R354: an arrival is recorded in the cycle after its OUT, for a member that has not arrived yet; a second one and that of no
member set their flags alone; DBCOMMIT applies at once when no core of the bent has arrived, and else waits. -/
def ArrivalsAreRecorded : Prop :=
  ∀ (w : Who) (sr : Fin 32) (s : State), Issues w none s → Alone w s →
    let v := outValue w sr s
    let h := slot w s
    let k0 := h.core w.core
    let x := h.bent (bentOf w.core)
    let arrives := fun (g : Core → Core) => Outs (.dbarrive w sr) w 0x0660 sr s (Changed w g s)
    let commits := fun (b : Bent) => Outs (.dbcommit w sr) w 0x0664 sr s (fun f t => Changed w id s f t ∧ t.hw.bent (bentOf w.core) = b)
    (∀ sc : Fin 3, v.toNat % 4 = sc.val →
      let orphan := h.orphan w.core sc
      (k0.dbPend[sc] = none → orphan = false → arrives (fun k => k.setPend sc (some (BitVec.ofNat 6 (v.toNat / 16), h.clock + 1)))) ∧
      (k0.dbPend[sc] ≠ none → orphan = false → arrives (fun k => { k with dbDup := true })) ∧
      (k0.dbPend[sc] = none → orphan = true → arrives (fun k => { k with dbOrphan := true }))) ∧
    (v.toNat % 4 = 3 → arrives id) ∧
    ((h.thread w).mode = true →
      (v.getLsbD 0 = false → commits x) ∧
      (v.getLsbD 0 = true →
        ((∀ c : CoreId, c.val / 44 = w.core.val / 44 → (h.core c).dbPend[0] = none) →
          commits { x with dbPending := false, dbActive := x.dbShadow }) ∧
        (∀ c : CoreId, c.val / 44 = w.core.val / 44 → (h.core c).dbPend[0] ≠ none → commits { x with dbPending := true })))

/-- R353, R354: a LOCAL generation completes 21 cycles after the last arrival, and lets a waiting commit of the membership through. -/
def LocalGenerationsComplete : Prop :=
  ∀ (b : BentId) (s : State),
    let x := s.hw.bent b
    let cs := (List.finRange 2112).filter (fun c => decide (c.val / 44 = b.val ∧ x.dbActive.getLsbD (c.val % 44) = true))
    (∀ t, s.hw.allArrived 0 cs = some t →
      let z := s.hw.event (t + 21)
      Acts (.drawboreComplete (.bent b)) s (fun h => h.clock = z.clock ∧ (h.bent b).lgen = (z.bent b).lgen + 1 ∧
        AllReleased cs 0 z h ∧
        ((∀ c : CoreId, c.val / 44 = b.val → c ∉ cs → (z.core c).dbPend[0] = none) →
          (h.bent b).dbActive = (if (z.bent b).dbPending then (z.bent b).dbShadow else (z.bent b).dbActive)))) ∧
    (∀ c ∈ cs, (s.hw.core c).dbPend[0] = none → exec (.drawboreComplete (.bent b)) s = .next s) ∧
    (x.dbPending = true → (∀ c : CoreId, c.val / 44 = b.val → (s.hw.core c).dbPend[0] = none) →
      Acts (.dbcommitApply b) s (fun h => h.bent b = { x with dbPending := false, dbActive := x.dbShadow } ∧
        ∀ b' : BentId, b' ≠ b → h.bent b' = s.hw.bent b')) ∧
    (∀ c : CoreId, c.val / 44 = b.val → (s.hw.core c).dbPend[0] ≠ none → exec (.dbcommitApply b) s = .next s)

/-- R352, R353, R355, R356: the CUT generation of the cut that runs completes 21 or 450 cycles after the last arrival, and the DOMAIN
generation as it outside a domain; in one the own generation rises 225 cycles after the last local arrival, and the members are released
225 cycles after c.dgen has reached it. -/
def CutGenerationsComplete : Prop :=
  (∀ (i : Nat) (x : Cut) (s : State), s.hw.runningCuts = [(i, x)] →
    let cs := s.hw.coresOf i
    (∀ t n, n = 21 ∨ n = 450 → (n = 21 ↔ OneBent cs) →
      let z := s.hw.event (t + n)
      (s.hw.allArrived 1 cs = some t → Acts (.drawboreComplete .chip) s (fun h => h.clock = z.clock ∧
        h.dom = { z.dom with cgen := z.dom.cgen + 1 } ∧ AllReleased cs 1 z h)) ∧
      (s.hw.allArrived 2 cs = some t → s.hw.dom.joined = false → s.hw.dom.dgenWait = false →
        Acts (.drawboreComplete .domain) s (fun h => h.clock = z.clock ∧
          h.dom = { z.dom with dgen := z.dom.dgen + 1 } ∧ AllReleased cs 2 z h))) ∧
    (∀ c ∈ cs, (s.hw.core c).dbPend[1] = none → exec (.drawboreComplete .chip) s = .next s) ∧
    (∀ t, s.hw.allArrived 2 cs = some t → s.hw.dom.joined = true → s.hw.dom.dgenWait = false →
      let z := s.hw.event (t + 225)
      z.dom = s.hw.dom → (∀ k, (z.link k).combine = false) → z.dom.cDgen ≤ z.dom.ownDgen →
      Acts (.drawboreComplete .domain) s (fun h => h.clock = z.clock + 225 ∧ h.dom.ownDgen = z.dom.ownDgen + 1 ∧
        h.dom.cDgen = h.dom.ownDgen ∧ h.dom.dgen = z.dom.dgen + 1 ∧ AllReleased cs 2 z h))) ∧
  (∀ (s : State), s.hw.dom.dgenWait = true →
    let z := s.hw.event (s.hw.dom.cDgenAt + 225)
    (s.hw.dom.cDgen < s.hw.dom.ownDgen → exec (.drawboreComplete .domain) s = .next s) ∧
    (s.hw.dom.ownDgen ≤ s.hw.dom.cDgen → Acts (.drawboreComplete .domain) s (fun h => h.clock = z.clock ∧
      h.dom = { z.dom with dgen := z.dom.dgen + 1, dgenWait := false } ∧ ∀ c : CoreId, (h.core c).dbPend[2] = none)))

/-- R357, R358, R360: a BEAT head arms with its charge and the combiner learns of it; its launch beat follows from the combined step, or a
later beat is taken and reported; an armed step that stays incomplete is reported. -/
def StepsAreTaken : Prop :=
  (∀ (lane : Fin 7) (i : Nat) (x : Cut) (s : State),
    let l := s.hw.le
    let d := s.hw.dom
    let z := s.hw.event s.hw.clock
    l.st = .running → s.hw.devFrozen = false → l.heads[lane] = some i → (∀ k, k ≠ lane → l.heads[k] = none) →
    CutAt i x s.hw → (∀ p ∈ l.cuts, p.2.st ≠ .running) → x.beat = true → x.ovl = false → x.st = .laid → x.done = 0 →
    d.joined = true → d.beatLock = true → d.armed = none →
    (1000 * x.energy ≤ l.cap → 1000 * (x.energy : Int) ≤ l.bal → Acts (.stepArm lane) s (fun h =>
      h.dom.ownStep = d.ownStep + 1 ∧ h.dom.ownBeat = d.beat ∧ h.le.bal = l.bal - 1000 * x.energy ∧ Combined 0 z h ∧
      h.dom.armed = some { lane := lane.val, cut := i, step := d.ownStep + 1, at_ := s.hw.clock })) ∧
    (1000 * x.energy ≤ l.cap → l.bal < 1000 * (x.energy : Int) → exec (.stepArm lane) s = .next { s with hw := z })) ∧
  (∀ (a : Armed) (s : State),
    let d := s.hw.dom
    let b := d.cBeat + d.param.toNat / 2 ^ 24
    d.armed = some a → a.launch = none →
    (d.cStep < a.step → exec .stepComplete s = .next { s with hw := s.hw.event s.hw.clock }) ∧
    (a.step ≤ d.cStep → s.hw.clock + 96 ≤ d.beatAt b → Acts .stepComplete s (fun h =>
      h.dom = { d with armed := some { a with launch := some b } })) ∧
    (a.step ≤ d.cStep → d.beatAt b < s.hw.clock + 96 → -3 ≤ d.adjust → Acts .stepComplete s (fun h => ∃ b',
      h.dom = { d with armed := some { a with launch := some b' }, slip := true, dslips := d.dslips + 1 } ∧
      d.beat < b' ∧ s.hw.clock + 96 ≤ d.beatAt b' ∧ h.irqPend = s.hw.irqPend ||| (1 <<< 234))) ∧
    (let z := s.hw.event (a.at_ + 3000 * d.stepTimeout.toNat)
     a.reported = false → s.hw.devFrozen = false → Acts .stepTimeoutExpiry s (fun h =>
      h.dom = { z.dom with armed := some { a with reported := true } } ∧ h.irqPend = z.irqPend ||| (1 <<< 235) ∧
      h.clock = z.clock)))

end Sys2Proof.Claims

/-- R18, R352, R353, R354, R355, R356, R357, R358, R360: drawbores within the module, and the steps of the domain. The model's choices it
rests on: log entries 36, 40, 41 and 81. -/
def Obligations.DrawboresAndSteps : Prop :=
  LastArrivals ∧ ArrivalsAreRecorded ∧ LocalGenerationsComplete ∧ CutGenerationsComplete ∧ StepsAreTaken

/-! ### Interrupts and power states -/

namespace Sys2Proof.Claims

/-- The firmware serves: powered beyond Sill-only, not held in cold reset, its ROM not halted. -/
def Serving (s : State) : Prop :=
  (s.hw.sill.power = .idle ∨ s.hw.sill.power = .idleGated) ∧ s.hw.board.held = false ∧ s.hw.firm.romHalted = false

/-- The module is powered and not held in cold reset (R419). -/
def Powered (s : State) : Prop := s.hw.sill.power ≠ .off ∧ s.hw.board.held = false

/-- PRIO of the active routing of a source (R412). -/
def prioOf (n : Nat) (h : Hw) : Nat := (sgetD n 0 h.irq.cfgAct).toNat / 2 ^ 24 % 16

/-- Source `n` is enabled with routing mode 0 to processor `p`, and goes before every other pending source (R413, R414). -/
def Foremost (n p : Nat) (h : Hw) : Prop :=
  let cfg := sgetD n 0 h.irq.cfgAct
  n < 288 ∧ h.irqPend.getLsbD n = true ∧ cfg.getLsbD 31 = true ∧ 0 < prioOf n h ∧ cfg.toNat / 2 ^ 20 % 8 = 0 ∧
    cfg.toNat % 64 = p ∧ sget p h.irq.serv = none ∧
    ∀ r, r ≠ n → h.irqPend.getLsbD r = true → prioOf r h < prioOf n h ∨ prioOf r h = prioOf n h ∧ n < r


/-- R412, R413, R414, R415, R416, R417: sources are raised, and those that the table does not list are not; the controller decides once a
cycle, on the state at the end of the cycle before: it routes the foremost source to its processor, if that takes it, and a warden has its
delivery 28 + 12 y cycles later; an acknowledgement ends it. -/
def InterruptsAreServed : Prop :=
  (∀ (src : Fin 288) (v : W32) (s : State),
    let listed := fun (n : Nat) => n ≤ 228 ∨ 232 ≤ n ∧ n ≤ 238 ∨ 240 ≤ n ∧ n ≤ 250 ∨ 252 ≤ n ∧ n ≤ 259
    let z := s.hw.event s.hw.clock
    let x := s.hw.access
    (listed src → Acts (.interruptRaise src) s (fun h => h = { z with irqPend := z.irqPend ||| (1 <<< src.val) })) ∧
    (¬listed src → exec (.interruptRaise src) s = .next { s with hw := z }) ∧
    (listed (v.toNat % 512) → Acts (.iraise v) s (fun h =>
      h = { x with irqPend := x.irqPend ||| (1 <<< (v.toNat % 512)) })) ∧
    (¬listed (v.toNat % 512) → exec (.iraise v) s = .next { s with hw := x })) ∧
  (∀ (n : Nat) (s : State),
    let z := s.hw.event (s.hw.clock + 1)
    (z.irqPend = 0 → exec .interruptRoute s = .next { s with hw := z }) ∧
    (∀ p, p < 8 → Foremost n p z → (z.irq.cprio[Fin.ofNat 8 p]).toNat < prioOf n z → Acts .interruptRoute s (fun h =>
      h.irqPend = z.irqPend &&& ~~~(1#288 <<< n) ∧ sget p h.irq.serv = some n ∧ h.irq.flying = z.irq.flying ∧
      h.clock = z.clock)) ∧
    (∀ b : BentId, Foremost n (8 + b.val) z → (z.core (44 * b.val + 40)).wprio.toNat < prioOf n z →
      ((z.core (44 * b.val + 40)).thread 0).tstate = .running → (z.core (44 * b.val + 40)).coreHalt = false →
      (z.core (44 * b.val + 40)).held = false → z.sill.power = .idle → Acts .interruptRoute s (fun h =>
        h.irqPend = z.irqPend &&& ~~~(1#288 <<< n) ∧ sget (8 + b.val) h.irq.serv = some n ∧ h.irq.flying =
          z.irq.flying ++ [(b.val, (sgetD n 0 z.irq.vecAct).setWidth 20, z.clock + (28 + 12 * (b.val / 8)))]))) ∧
  (∀ (b : BentId) (s : State),
    let w : Who := ⟨coreId (44 * b.val + 40), 0⟩
    (∀ vec due rest, s.hw.irq.flying = (b.val, vec, due) :: rest →
      let z := s.hw.event due
      Acts (.interruptDelivery b) s (fun h => h.clock = z.clock ∧ h.irq.flying = rest ∧
        h.thread w = { z.thread w with extVec := vec, ipend := (z.thread w).ipend ||| 0x004 })) ∧
    (∀ r rest at_ h1, s.hw.wardenAcks = r :: rest → r.num = b.val → s.hw.land r.flit r.due = some (at_, h1) →
      let z := { h1.event at_ with wardenAcks := rest }
      let due := z.clock + (28 + 12 * (b.val / 8))
      (∀ n, r.who = w → sget (8 + b.val) z.irq.serv = some n → Acts (.wardenAck b) s (fun h =>
        sget (8 + b.val) h.irq.serv = none ∧ h.wardenAcks = rest ∧ h.clock = z.clock ∧
        (due, .extClear w) ∈ h.later ∧ (due, .performed w) ∈ h.later)) ∧
      (r.who ≠ w ∨ sget (8 + b.val) z.irq.serv = none → Acts (.wardenAck b) s (fun h =>
        h.irq = z.irq ∧ h.wardenAcks = rest ∧ h.later = z.later ∧ (h.thread r.who).ipend = (z.thread r.who).ipend)))) ∧
  (∀ (w : Who) (h : Hw), ((h.applyLater (.extClear w)).thread w).ipend = (h.thread w).ipend &&& ~~~(0x004#11)) ∧
  (∀ (k : Fin 8) (v : W32) (s : State),
    let x := s.hw.access
    Acts (.ieoi k) s (fun h => sget k h.irq.serv = none ∧ ∀ j, j ≠ k.val → sget j h.irq.serv = sget j x.irq.serv) ∧
    Acts (.icommit v) s (fun h => h.irq = if v.getLsbD 0 then { x.irq with cfgAct := x.irq.cfg, vecAct := x.irq.vec }
      else x.irq))

/-- R421, R422, R423, R424, R425: the module enters its idle states after their times, and leaves Sill-only by an enabled wake source after
15 µs; SILL_TIMER is raised when the reference has counted to SILL_CMP. -/
def PowerStatesChange : Prop :=
  (∀ s : State,
    (Serving s → s.hw.sill.power = .idle → (s.hw.le.st = .idle ∨ s.hw.le.st = .done ∨ s.hw.le.st = .error) →
      s.hw.firm.loaded = false → s.hw.resets = [] → s.hw.postMortem = false → Yields .idleGateEntry s (fun t =>
        t.hw.sill.power = .idleGated ∧ s.hw.sill.since + 3000 * s.hw.conf.idleGateUs ≤ t.hw.clock ∧
        ∀ (c : CoreId) (a : Nat), a < imemSize c → memRead (locImem c a) t.mem = 0)) ∧
    (s.hw.sill.power ≠ .idle ∨ s.hw.firm.loaded = true → exec .idleGateEntry s = .next s) ∧
    (Serving s → s.hw.sill.power = .idleGated → s.hw.net.sessions = [] → s.hw.net.ubt = [] → s.hw.dom.joined = false →
      Yields .sillOnlyEntry s (fun t => t.hw.sill.power = .sillOnly ∧
        s.hw.sill.since + 3000000000 * s.hw.conf.sillAfterS ≤ t.hw.clock ∧ t.hw.firm.loaded = false ∧
        (∀ l, (t.hw.link l).state = .down) ∧ (∀ b a, b < 48 → a < 0x40000000 → memRead (locShared b a) t.mem = 0) ∧
        ∀ a, a < 0x8000000000 → memRead (locExt a) t.mem = memRead (locExt a) s.mem)) ∧
    (s.hw.sill.power ≠ .idleGated ∨ s.hw.dom.joined = true → exec .sillOnlyEntry s = .next s)) ∧
  (∀ (l : Fin 8) (p : Fin 8) (dg : Dgram) (s : State),
    let wakes := fun (src : WakeSource) (bit : Nat) => s.hw.sill.wakeEn.getLsbD bit = true → Yields (.wake src) s (fun t =>
      t.hw.sill.power = .idleGated ∧ t.hw.sill.wakeStat.getLsbD bit = true ∧ t.hw.irqPend.getLsbD 250 = true ∧
      s.hw.clock + 45000 ≤ t.hw.clock ∧ t.hw.fcyc = 0)
    (s.hw.sill.power = .sillOnly → s.hw.board.held = false → s.hw.sill.railHeld = false →
      (s.hw.net.isUp p = true → 4 ≤ p.val → s.hw.sill.wakePorts.getLsbD (p.val - 4) = true → wakeDatagram dg = true →
        wakes (.netb p dg) 0) ∧
      ((s.hw.link l).en = true → wakes (.scarf l) 1) ∧ (s.hw.sill.twarn ≤ s.hw.sill.tempMax.1 → wakes .thermal 2) ∧
      (s.hw.pole.alarms ≠ 0 → wakes .storyPole 3) ∧ (s.hw.sill.cmp.toNat ≤ s.hw.sillTime → wakes .timer 4)) ∧
    (s.hw.sill.power ≠ .sillOnly ∨ s.hw.sill.wakeEn = 0 → ∀ src, exec (.wake src) s = .next s) ∧
    (let z := s.hw.event (s.hw.sill.time0 + 120 * s.hw.sill.cmp.toNat)
     Powered s → z.sill.power ≠ .sillOnly → s.hw.sill.stoppedAt = none → Acts .sillTimer s (fun h =>
      h.irqPend = z.irqPend ||| (1 <<< 244) ∧ h.clock = z.clock)))

/-- R412, R426: a sample of the 51 sensors takes its place; a bent that reaches the warning is reported, the warning has its hysteresis of
5 °C, and 115 °C trips the module into Sill-only. -/
def TemperaturesAreSampled : Prop :=
  (∀ (ts : List Nat) (s : State), ts.length = 51 → Serving s →
    let warn := s.hw.sill.twarn
    ((∀ x ∈ ts, x < 115) → Acts (.temperatureSample ts) s (fun h =>
      h.sill.temps = ts ∧ h.sill.power = s.hw.sill.power ∧
      (∀ b : BentId, s.hw.sill.temps.getD b 0 < warn → warn ≤ ts.getD b 0 → h.irqPend.getLsbD (144 + b.val) = true) ∧
      ((∃ x ∈ ts, warn ≤ x) → h.sill.warm = true ∧ (s.hw.sill.warm = false → h.irqPend.getLsbD 245 = true)) ∧
      ((∀ x ∈ ts, x + 5 ≤ warn) → 0 < warn → h.sill.warm = false))) ∧
    ((∃ x ∈ ts, 115 ≤ x) → s.hw.sill.railHeld = false → Yields (.temperatureSample ts) s (fun t =>
      t.hw.sill.power = .sillOnly ∧ t.hw.sill.tripped = true)))

end Sys2Proof.Claims

/-- R412, R413, R414, R415, R416, R417, R421, R422, R423, R424, R425, R426: the interrupt controller, the power states and the Sill. The
model's choices it rests on: log entries 2, 51, 58, 63, 72 and 81. -/
def Obligations.InterruptsAndPowerStates : Prop :=
  InterruptsAreServed ∧ PowerStatesChange ∧ TemperaturesAreSampled

/-! ### The board's signals and the test connector -/

namespace Sys2Proof.Claims

/-- The module is held in cold reset: every core and the network at their reset values, and memory but boot flash and Ridge SRAM
cleared (R419, R454, R460). -/
structure HeldCold (s t : State) : Prop where
  held : t.hw.board.held = true
  cores : t.hw.cores = [] ∧ t.hw.coreDef = { cyc0 := t.hw.clock }
  net : t.hw.net.sessions = [] ∧ t.hw.net.ubt = []
  pole : t.hw.pole = s.hw.pole
  flash : ∀ a, memRead (locFlash a) t.mem = memRead (locFlash a) s.mem
  mem : ∀ a, a < locRidge 0 ∨ locExt 0 ≤ a ∧ a < locFlash 0 → memRead a t.mem = memDefault a

/-- The module has booted after a cold reset (R454, R460): not held, powered, FCYC 0 at its end, and, where the configuration
record fails its checks, the ROM halted with cause 1. -/
structure Booted (s t : State) : Prop where
  held : t.hw.board.held = false
  power : t.hw.sill.power = .idle
  cores : t.hw.cores = [] ∧ ∀ c : CoreId, (t.hw.core c).held = false ∧ ((t.hw.core c).thread 0).tstate = .halted
  kept : ∀ a, a < 0x04000000 → memRead (locFlash a) t.mem = memRead (locFlash a) s.mem
  rom : Config.recordOk (flash 0 0xFE80 s.mem) (flash 0xFE80 384 s.mem) = false →
    t.hw.firm.romHalted = true ∧ t.hw.firm.bootCause = 1

/-- Every block but the Story Pole goes dark (R487). -/
structure Dark (s t : State) : Prop where
  sill : t.hw.sill = { power := .off }
  board : t.hw.board.pwrgood = false ∧ t.hw.board.held = true ∧ t.hw.board.inputGood = false
  pole : t.hw.pole = { s.hw.pole with lines := s.hw.pole.lines.map (fun l => (l.1, { l.2 with signal := false })) }
  flash : ∀ a, memRead (locFlash a) t.mem = memRead (locFlash a) s.mem
  mem : ∀ a, a < locFlash 0 → memRead a t.mem = memDefault a

/-- A held cold reset may proceed (R419, R485). -/
def MayBoot (s : State) : Prop := s.hw.board.pwrgood = true ∧ s.hw.board.refLost = false ∧ s.hw.tap.ir.all (· != 0x00) = true

/-- R419, R420, R427, R429, R459, R480, R484, R486, R487, R488: the reference stops and returns; the meter's increments arrive, or are
missed; the 48 V input is low, out of its range or back; the module is inserted, removed and powered up; a rail fails; a cold reset. -/
def BoardSignalsAct : Prop :=
  ∀ s : State,
    let z := s.hw.event s.hw.clock
    let silent := s.hw.event (s.hw.incAt + 900000)
    (s.hw.board.refLost = false → s.hw.sill.power ≠ .off → Yields .referenceClockLoss s (fun t => HeldCold s t ∧
      t.hw.board.refLost = true ∧ t.hw.sill.stoppedAt = some s.hw.clock)) ∧
    (∀ at_, s.hw.board.refLost = true → s.hw.sill.stoppedAt = some at_ → at_ ≤ s.hw.clock →
      (MayBoot { s with hw := { s.hw with board := { s.hw.board with refLost := false } } } → s.hw.board.held = true →
        s.hw.board.resetN = true → Yields .referenceClockReturn s (fun t => Booted s t ∧ t.hw.board.refLost = false ∧
          t.hw.sill.stoppedAt = none ∧ t.hw.sill.time0 = s.hw.sill.time0 + (s.hw.clock - at_))) ∧
      (s.hw.board.resetN = false → Acts .referenceClockReturn s (fun h => h.board = { s.hw.board with refLost := false } ∧
        h.sill.stoppedAt = none))) ∧
    (∀ nj rest, s.hw.pole.increments = nj :: rest → Acts .increment s (fun h => h.pole = { s.hw.pole with increments := rest } ∧
      h.le = { s.hw.le with arrived := s.hw.le.arrived ++ [nj] } ∧ h.incAt = s.hw.clock)) ∧
    Acts .meterSilent s (fun h => h.clock = silent.clock ∧ h.irqPend = silent.irqPend ||| (1 <<< 249)) ∧
    (s.hw.sill.power ≠ .off → Acts .inputLow s (fun h => h = { z with irqPend := z.irqPend ||| (1 <<< 247) })) ∧
    Yields .inputUndervoltage s (fun t => Dark s t ∧ t.hw.board.disconnected = false) ∧
    Yields .inputOvervoltage s (fun t => Dark s t ∧ t.hw.board.disconnected = true) ∧
    Yields (.moduleInsertion false) s (fun t => Dark s t ∧ t.hw.board.inserted = false) ∧
    (s.hw.board.inserted = false → s.hw.sill.power = .off → s.hw.board.disconnected = false → Yields (.moduleInsertion true) s
      (fun t => t.mem = s.mem ∧ t.hw.board.inserted = true ∧ t.hw.board.resetN = false ∧ t.hw.board.held = true ∧
        t.hw.board.pwrgood = true ∧ t.hw.pole.powered = true)) ∧
    (s.hw.sill.power = .off → s.hw.board.inserted = true → s.hw.board.refLost = false → s.hw.tap.ir.all (· != 0x00) = true →
      s.hw.board.resetN = true →
      (s.hw.board.disconnected = false → Yields .powerUp s (fun t => Booted s t ∧ t.hw.pole.powered = true ∧
        s.hw.clock + 153000000 ≤ t.hw.clock ∧ t.hw.board.pwrgood = true)) ∧
      (s.hw.board.disconnected = true → exec .powerUp s = .next s ∧ Yields .overvoltageRelease s (fun t => Booted s t ∧
        t.hw.board.disconnected = false))) ∧
    (Powered s → ∀ branch, Yields (.railFault branch) s (fun t => t.hw.sill.power = .sillOnly ∧
      t.hw.sill.railFault = some branch ∧ t.hw.sill.railHeld = true ∧ t.hw.board.pwrgood = false)) ∧
    ((s.hw.sill.power = .idle ∨ s.hw.sill.power = .idleGated) → s.hw.board.held = false → Yields .coldReset s (fun t =>
      Booted s t ∧ (s.hw.sill.railHeld = true → t.hw.irqPend.getLsbD 248 = true))) ∧
    (s.hw.sill.power = .sillOnly ∨ s.hw.sill.power = .off → exec .coldReset s = .next s)

/-- R485, R486: RESET_N starts a cold reset when it is low for 1,280 ns, none below 640 ns, and between them either; the reset proceeds 1 ms
after its release. -/
def ResetNIsFollowed : Prop :=
  ∀ (ns : Nat) (s : State),
    (ns < 640 → exec (.resetNAssert ns) s = .next s) ∧
    (1280 ≤ ns → s.hw.sill.power ≠ .off → Yields (.resetNAssert ns) s (fun t => HeldCold s t ∧ t.hw.board.resetN = false)) ∧
    (640 ≤ ns → ns < 1280 → s.hw.sill.power ≠ .off → Yields (.resetNAssert ns) s (fun t =>
      (Config.freeNat s.hw.freeCtr % 2 = 0 → HeldCold s t ∧ t.hw.board.resetN = false) ∧
      (Config.freeNat s.hw.freeCtr % 2 = 1 → t.mem = s.mem ∧ t.hw.board = s.hw.board) ∧
      t.hw.freeCtr = s.hw.freeCtr + 1)) ∧
    (s.hw.board.held = true → MayBoot s → Yields .resetNRelease s (fun t => Booted s t ∧ t.hw.board.resetN = true ∧
      s.hw.clock + 3000000 ≤ t.hw.clock)) ∧
    (s.hw.board.held = false ∨ s.hw.board.pwrgood = false → Acts .resetNRelease s (fun h =>
      h = { s.hw with board := { s.hw.board with resetN := true } }))

/-- R477, R478: the instructions of the test connector. -/
def TapInstructionsAct : Prop :=
  ∀ (die : TapDie) (tdi : Bool) (pins off len : Nat) (bs : List Byte) (s : State), s.hw.sill.power ≠ .off →
    let d : Fin 3 := match die with | .ridge => 0 | .west => 1 | .east => 2
    let x := s.hw.tap
    let force := fun (i : BitVec 6) => x.ir.set d i
    let scan := fun (i : BitVec 6) (b : Bool) (h : Hw) =>
      h.tap = { x with ir := force i, out := (if x.bypass[d] then 1 else 0), bypass := x.bypass.set d b }
    Acts (.bypass die tdi) s (scan 0x3F tdi) ∧
    Acts (.idcode die) s (fun h => h.tap = { x with ir := force 0x01, out := match die with
      | .ridge => 0x1D480A6B
      | .west => 0x1D481A6B
      | .east => 0x1D482A6B }) ∧
    Acts (.samplePreload die pins) s (fun h => h.tap = { x with ir := force 0x02, out := x.cells[d], cells := x.cells.set d pins }) ∧
    (s.hw.board.held = false → Yields (.extest die true) s (fun t => HeldCold s t ∧ t.hw.tap.ir[d] = 0x00)) ∧
    (s.hw.tap.ir[d] = 0x00 → (∀ e, e ≠ d → x.ir[e] ≠ 0x00) → s.hw.board.held = true → s.hw.board.resetN = true →
      s.hw.board.pwrgood = true → s.hw.board.refLost = false → Yields (.extest die false) s (fun t => Booted s t ∧
        t.hw.tap.ir[d] = 0x3F)) ∧
    Acts (.bootStat die) s (fun h => h.tap = if die = .ridge then
      { x with ir := force 0x20, out := (if s.hw.firm.romHalted then 2 ^ 31 else 0) + s.hw.firm.bootCause.toNat }
      else { x with ir := force 0x3F }) ∧
    (die = .ridge → s.hw.board.resetN = false → off < 0x04000000 →
      (bs.length = 64 → Yields (.flashProg die off (some bs)) s (fun t =>
        (∀ k, k < 64 → memRead (locFlash (off / 64 * 64 + k)) t.mem = bs.getD k 0) ∧
        (∀ a, a < locFlash (off / 64 * 64) ∨ locFlash (off / 64 * 64) + 64 ≤ a → memRead a t.mem = memRead a s.mem))) ∧
      Yields (.flashProg die off none) s (fun t =>
        (∀ k, k < 65536 → memRead (locFlash (off / 65536 * 65536 + k)) t.mem = 0xFF) ∧
        (∀ a, a < locFlash (off / 65536 * 65536) ∨ locFlash (off / 65536 * 65536) + 65536 ≤ a →
          memRead a t.mem = memRead a s.mem)) ∧
      (off + len ≤ 0x04000000 → Acts (.flashRead die off len) s (fun h => h.tap.outBytes =
        (List.range len).map (fun k => memRead (locFlash (off + k)) s.mem)))) ∧
    (die ≠ .ridge ∨ s.hw.board.resetN = true → ∀ page,
      Acts (.flashProg die off page) s (scan 0x21 false) ∧ Acts (.flashRead die off len) s (scan 0x22 false))

end Sys2Proof.Claims

/-- R419, R420, R427, R429, R459, R477, R478, R480, R484, R485, R486, R488: the board's signals and the test connector. The model's choices
it rests on: log entries 3, 6, 49, 59, 60, 61 and 81. -/
def Obligations.BoardSignalsAndTap : Prop :=
  BoardSignalsAct ∧ ResetNIsFollowed ∧ TapInstructionsAct

/-! ### TMP sessions and the host's commands -/

namespace Sys2Proof.Claims

/-- A well-formed TMP datagram of a type has reached an UP port at an address of its own, or a DISCOVER at all nodes (R372, R373, R375);
no pause holds the port. -/
structure Arrives (type : Nat) (dg : Dgram) (x : Tmp) (s : State) : Prop where
  serving : Serving s
  up : s.hw.net.isUp dg.port = true
  header : Tmp.of dg.payload = some x
  own : toUnicast dg.dst = true ∨ type = 7 ∧ dg.dst = .allNodes
  type : x.type = type
  unpaused : (s.hw.net.port dg.port).paused = 0

/-- A datagram as a port sends it to an address and UDP port, with the tag of its class in PMODE (R367, R368). -/
def datagram (ubt : Bool) (p : Nat) (addr : BitVec 128) (udp : Nat) (payload : List Byte) (s : State) : Sending :=
  let mode := (s.hw.net.port p).active.toNat
  { port := p, ubt := ubt, vid := mode % 2 ^ 12, pcp := mode / 2 ^ (if ubt then 22 else 25) % 8, addr := addr, udp := udp
    payload := payload }

/-- One TMP datagram has left from a port for an address and UDP port. -/
def Sent (p : Nat) (addr : BitVec 128) (udp : Nat) (payload : List Byte) (s : State) (h : Hw) : Prop :=
  h.net.sent = s.hw.net.sent ++ [datagram false p addr udp payload s]

/-- The datagram is of open session `k`, which stands at `ses`, and comes by the port of that session (R375). -/
def OfSession (x : Tmp) (dg : Dgram) (ses : Session) (s : State) : Prop :=
  sget x.session s.hw.net.sessions = some ses ∧ ses.epoch = x.epoch ∧ ses.port = dg.port.val

/-- Record `ws` of an RTYPE is the one whole record in the command ring of the only open session `n`, which has an empty
completion ring, and nothing holds its execution up (R378, R380). -/
structure Commanded (n : Fin 64) (rtype : Nat) (ses : Session) (ws : List Nat) (s : State) : Prop where
  serving : Serving s
  power : s.hw.sill.power = .idle
  resets : s.hw.resets = [] ∧ s.hw.net.afterReset = [] ∧ s.hw.postMortem = false
  only : s.hw.net.sessions = [(n.val, ses)]
  record : ses.head = some ws
  rtype : ws.headD 0 / 2 ^ 56 = rtype
  whole : ses.cmds.length = 8 * ws.length ∧ 8 * ws.length ≤ 4096 ∧ 8 * ws.length ≤ 2 ^ ses.cmdLog - ses.cmdRd % 2 ^ ses.cmdLog
  room : ses.waiting = [] ∧ ses.cplRd = ses.cplWr ∧ 13 ≤ ses.cplLog ∧ ses.cplLog ≤ 24

/-- The session has been answered by a completion with a STATUS, a DETAIL and words, behind any events; its command ring is empty
(R379, R381). -/
def Answered (n : Fin 64) (ses : Session) (ws : List Nat) (status detail : Nat) (words : List W64) (t : State) : Prop :=
  ∃ (ses' : Session) (before : List (Nat × Nat × List Byte)) (d at_ : Nat) (pad : List Byte),
    sget n.val t.hw.net.sessions = some ses' ∧ ses'.cmds = [] ∧ ses'.waiting = [] ∧
      ses'.cmdRd = add32 ses.cmdRd (8 * ws.length) ∧
      ses'.unacked = ses.unacked ++ before ++ [(d, at_, pad ++ recordBytes (record (0x80 + ws.headD 0 / 2 ^ 56)
        (ws.headD 0 % 2 ^ 32) (BitVec.ofNat 64 (detail % 2 ^ 32 * 2 ^ 32 + status)) words))]

/-- The command started a reset of a level, and its completion waits for the end of it (R384). -/
def AfterReset (n : Fin 64) (ses : Session) (ws : List Nat) (level : Level) (words : List W64) (t : State) : Prop :=
  t.hw.resets = [{ level := level }] ∧ t.hw.net.afterReset = [(n.val, ses.epoch, record (0x80 + ws.headD 0 / 2 ^ 56)
    (ws.headD 0 % 2 ^ 32) 0 words)]

/-- R372: a DISCOVER is answered, at most once in a millisecond of each port. -/
def DiscoverIsAnswered : Prop :=
  ∀ (dg : Dgram) (x : Tmp) (s : State), Arrives 7 dg x s →
    x.session = 0 → x.epoch = 0 → x.dseq = 0 → x.dack = 0 → x.start = 0 → x.len = 0 → x.rd = 0 → dg.payload.length = 32 →
    wordAt dg.payload 0 % 2 ^ 10 = 0 → wordAt dg.payload 3 = 0 →
    (¬(∃ t, (s.hw.net.port dg.port).discovered = some t ∧ s.hw.clock < t + 3000000) → Acts (.discover dg) s (fun h =>
      (∃ body, h.net.sent = s.hw.net.sent ++ [{ datagram false dg.port dg.src dg.srcPort.toNat (tmpHeader 8 0 0 0 0 0 0 0 ++ body) s with
        from_ := some (if dg.dst = .allNodes then .linkLocal else dg.dst) }]) ∧
      (h.net.port dg.port).discovered = some s.hw.clock)) ∧
    (∀ t, (s.hw.net.port dg.port).discovered = some t → s.hw.clock < t + 3000000 → Acts (.discover dg) s (fun h =>
      h.net = s.hw.net))

/-- R374, R376: an OPEN opens the lowest free session with its next epoch, or is refused, and OPEN_ACK says so. -/
def SessionsAreOpened : Prop :=
  ∀ (dg : Dgram) (x : Tmp) (s : State), Arrives 1 dg x s → 64 ≤ dg.payload.length → s.hw.net.opened = [] →
    s.hw.net.sessions = [] → s.hw.net.events = [] → s.hw.net.eventsLost = 0 →
    let w := wordAt (dg.payload.drop 32) 0
    let epoch := sgetD 0 0 s.hw.tmpEpochs % 65535 + 1
    let idle := w / 2 ^ 16 % 2 ^ 16
    let reply := fun (session epoch status : Nat) =>
      tmpHeader 2 session epoch 0 0 0 0 0 ++ fitBytes 32 (wordsBytes [w / 2 ^ 32 * 2 ^ 32 + status])
    (openBad w (bytesAt (dg.payload.drop 32) 8 24) = false → Acts (.open_ dg) s (fun h =>
      Sent dg.port dg.src dg.srcPort.toNat (reply 0 epoch 0) s h ∧ sgetD 0 0 h.tmpEpochs = epoch ∧
      h.irqPend.getLsbD (208 + dg.port.val) = true ∧
      ∃ ses, h.net.sessions = [(0, ses)] ∧ ses.epoch = epoch ∧ ses.control = w.testBit 0 ∧ ses.addr = dg.src ∧
        ses.udp = dg.srcPort.toNat ∧ ses.port = dg.port.val ∧ ses.idleMs = (if idle = 0 then 2000 else idle) ∧
        ses.cplLog = w / 2 ^ 11 % 2 ^ 5 ∧ ses.cmdLog = w / 2 ^ 6 % 2 ^ 5 ∧ ses.cmds = [])) ∧
    (openBad w (bytesAt (dg.payload.drop 32) 8 24) = true → Acts (.open_ dg) s (fun h =>
      Sent dg.port dg.src dg.srcPort.toNat (reply 0 0 5) s h ∧ h.net.sessions = []))

/-- R376, R377, R378: CLOSE, CMD and ACK of an open session. -/
def SessionsTakeTheirDatagrams : Prop :=
  ∀ (dg : Dgram) (x : Tmp) (ses : Session) (s : State), OfSession x dg ses s →
    (Arrives 3 dg x s → Acts (.close dg) s (fun h => sget x.session h.net.sessions = none ∧
      ∀ k, k ≠ x.session → sget k h.net.sessions = sget k s.hw.net.sessions)) ∧
    (Arrives 4 dg x s →
      let n := dg.payload.length - 32
      let fits := x.dseq = add32 ses.dseqIn 1 ∧ x.start = ses.cmdWr ∧ x.len % 32 = 0 ∧ x.len ≤ 8192 ∧ n = x.len ∧
        ses.cmds.length + x.len ≤ 2 ^ ses.cmdLog + ses.skip
      (fits → Acts (.cmd dg) s (fun h => ∃ ses', sget x.session h.net.sessions = some ses' ∧ ses'.dseqIn = x.dseq ∧
        ses'.cmdWr = add32 ses.cmdWr x.len ∧ ses'.heard = s.hw.clock)) ∧
      (fits → s.hw.resets = [{ level := .job }] → ses.skip = 0 → Acts (.cmd dg) s (fun h => ∃ ses',
        sget x.session h.net.sessions = some ses' ∧ ses'.cmds = ses.cmds ++ dg.payload.drop 32)) ∧
      (¬fits → Acts (.cmd dg) s (fun h => ∃ ses', sget x.session h.net.sessions = some ses' ∧ ses'.dseqIn = ses.dseqIn ∧
        ses'.cmdWr = ses.cmdWr ∧ ses'.heard = s.hw.clock))) ∧
    (Arrives 6 dg x s →
      let a := sub32 x.dack ses.dackIn
      let r := sub32 x.rd ses.cplRd
      Acts (.tmpAck dg) s (fun h => ∃ ses', sget x.session h.net.sessions = some ses' ∧ ses'.heard = s.hw.clock ∧
        (0 < a → a < 2 ^ 31 → a ≤ sub32 ses.dseqOut ses.dackIn → ses'.dackIn = x.dack) ∧
        (a = 0 → ses'.dackIn = ses.dackIn) ∧ (r < 2 ^ 31 → r ≤ sub32 ses.cplWr ses.cplRd → ses'.cplRd = x.rd)))

/-- R377: a datagram of a stale epoch is answered with REJECT. -/
def StaleDatagramsAreRejected : Prop :=
  ∀ (dg : Dgram) (x : Tmp) (ses : Session) (s : State), sget x.session s.hw.net.sessions = some ses → ses.epoch ≠ x.epoch →
    Arrives 4 dg x s → Acts (.cmd dg) s (fun h => h.net.sessions = s.hw.net.sessions ∧
      Sent dg.port dg.src dg.srcPort.toNat (tmpHeader 9 x.session x.epoch 0 0 0 0 0) s h)

/-- R377: an idle session is closed; unacknowledged records are sent again. -/
def SessionTimersExpire : Prop :=
  ∀ (n : Fin 64) (ses : Session) (s : State), Serving s → sget n s.hw.net.sessions = some ses →
    Acts (.sessionIdleExpiry n) s (fun h => sget n h.net.sessions = none ∧
      h.clock = Max.max s.hw.clock (ses.heard + 3000000 * ses.idleMs)) ∧
    (∀ u, ses.unacked = [u] → (∀ p, (s.hw.net.port p).paused = 0) → s.hw.net.isUp ses.port = true →
      Acts (.cplRetransmitExpiry n) s (fun h => h.clock = Max.max s.hw.clock (ses.ackedAt + 300000) ∧
        sget n h.net.sessions = some { ses with ackedAt := h.clock } ∧
        Sent ses.port ses.addr ses.udp (tmpHeader 0x05 n ses.epoch u.1 ses.dseqIn u.2.1 u.2.2.length ses.cmdRd ++ u.2.2) s h))

/-- R381, R382, R384, R427, R445, R383, R329: IDENTIFY, METER_READ, LOG, BUDGET, RUN and ABORT. -/
def FirmwareAnswers : Prop :=
  ∀ (n : Fin 64) (ses : Session) (hd x y z : Nat) (s : State), x < 2 ^ 64 → y < 2 ^ 64 → z < 2 ^ 64 →
    let le := s.hw.access.le
    let leStat := s.hw.access.leStat
    let one := fun (a b c : Nat) => [hd, a, b, c]
    (∀ w1, w1 ≤ 1 → Commanded n 0x01 ses (one w1 x 0) s → Yields (.identify n) s (fun t =>
      t.mem = s.mem ∧ t.hw.firm.wall = (if w1 = 1 then BitVec.ofNat 64 x else s.hw.firm.wall) ∧
      ∃ words, Answered n ses (one w1 x 0) 0 0 words t ∧ words.length = 14 ∧ words.getD 0 0 = 0xC4A0010248000100 ∧
        words.getD 1 0 = BitVec.ofNat 64 s.hw.conf.serial ∧ words.getD 7 0 = t.hw.firm.wall)) ∧
    (∀ rec_, x < 2 ^ 63 → Commanded n 0x09 ses (one 0 x 1) s → s.hw.pole.powered = true →
      (sget x s.hw.pole.secs = some rec_ → Yields (.meterRead n) s (fun t =>
        Answered n ses (one 0 x 1) 0 0 ((List.range 60).map (fun i => BitVec.ofNat 64 (wordAt (fitBytes 480 rec_) i))) t ∧
        t.hw.pole.sent = s.hw.pole.sent ++ [.record rec_])) ∧
      (sget x s.hw.pole.secs = none → Yields (.meterRead n) s (fun t => Answered n ses (one 0 x 1) 9 0 [] t ∧
        t.hw.pole.sent = s.hw.pole.sent ++ [.notHeld]))) ∧
    (Commanded n 0x0C ses (one 0 0 0) s → Yields (.log n) s (fun t => t.hw.le = { le with runDrop := 0 } ∧
      Answered n ses (one 0 0 0) 0 0 [BitVec.ofNat 64 le.logWr, BitVec.ofNat 64 le.logRd,
        le.runDrop.setWidth 64] t)) ∧
    (ses.control = false → Commanded n 0x08 ses (one 0 0 0) s → Yields (.budget n) s (fun t => t.hw.le = le ∧
      Answered n ses (one 0 0 0) 3 0 [] t)) ∧
    (ses.control = true →
      (y < 2 ^ 32 → Commanded n 0x08 ses (one 0 y z) s → Yields (.budget n) s (fun t => t.hw.le.budget = y ∧ t.hw.le.cap = z ∧
        Answered n ses (one 0 y z) 0 0 [BitVec.ofInt 64 le.bal] t)) ∧
      (Commanded n 0x06 ses (one 0 0 0) s →
        let l := le
        (s.hw.firm.loaded = true → (l.st = .idle ∨ l.st = .done) → 0 < l.cutCount → l.cutCount ≤ 1048576 →
          l.cutBase.toNat % 128 = 0 → inOneBent l.cutBase.toNat (128 * l.cutCount) = true → l.replay = false → l.logEn = false →
          Yields (.run n) s (fun t => t.hw.le.st = .loading ∧ t.hw.le.bal = l.cap ∧ Answered n ses (one 0 0 0) 0 0 [] t)) ∧
        (s.hw.firm.loaded = false → Yields (.run n) s (fun t => t.hw.le = l ∧
          Answered n ses (one 0 0 0) 6 leStat.toNat [] t))) ∧
      (Commanded n 0x07 ses (one 0 0 0) s → Yields (.abort n) s (AfterReset n ses (one 0 0 0) .job
        [BitVec.ofNat 64 leStat.toNat, BitVec.ofNat 64 le.laid, BitVec.ofNat 64 le.doneCnt])) ∧
      (s.hw.debug = false → Commanded n 0x07 ses (one 1 0 0) s → Yields (.abort n) s (fun t =>
        Answered n ses (one 1 0 0) 10 0 [] t ∧ t.hw.resets = [] ∧ t.hw.le = le)))

/-- R457, R458: a signed quote, or FAILED without an identity; the certificate of the Story Pole. -/
def QuotesAndCertificatesAreReturned : Prop :=
  ∀ (n : Fin 64) (ses : Session) (hd mask x2 x3 x4 x5 : Nat) (s : State),
    let ws := [hd, mask, x2, x3, x4, x5, 0, 0]
    x2 < 2 ^ 64 → x3 < 2 ^ 64 → x4 < 2 ^ 64 → x5 < 2 ^ 64 → Commanded n 0x02 ses ws s →
    (0 < mask → mask < 2 ^ 16 →
      (s.hw.firm.identity = true → Yields (.attest n) s (fun t => t.hw.freeCtr = s.hw.freeCtr + 1 ∧ ∃ body,
        body.length = 128 + 32 * (quoted mask).length ∧ numAt body 64 8 = x2 ∧ numAt body 88 8 = x5 ∧
        Answered n ses ws 0 0 (byteWords (body ++
          fitBytes 384 (Config.quoteSign body (Config.freeNat s.hw.freeCtr)))) t)) ∧
      (s.hw.firm.identity = false → Yields (.attest n) s (Answered n ses ws 9 3 []))) ∧
    (mask = 0 → x2 = 1 → s.hw.pole.powered = true → Yields (.attestCert n) s (fun t =>
      Answered n ses ws 0 0 (byteWords poleCertBytes) t ∧ t.hw.pole.sent = s.hw.pole.sent ++ [.cert poleCertBytes]))

/-- R388: a UBT session is opened on a window, closed, or given a host window. -/
def WindowsAreOpenedAndClosed : Prop :=
  ∀ (n : Fin 64) (ses : Session) (hd w1 base len p4 p5 port k epoch : Nat) (u : Ubt) (s : State),
    let ws := [hd, w1, base, len, p4, p5, port, 0]
    Commanded n 0x04 ses ws s → p4 < 2 ^ 64 → p5 < 2 ^ 64 → port < 2 ^ 16 → len < 2 ^ 64 →
    (w1 < 64 → w1 % 16 = 0 → base < 2 ^ 48 → base % 64 = 0 → len % 64 = 0 → 0 < len → copyRegion base len = true →
      s.hw.net.ubt = [] → epoch = sgetD 0 0 s.hw.ubtEpochs % 65535 + 1 → Yields (.openWindow n) s (fun t =>
        Answered n ses ws 0 0 [BitVec.ofNat 64 (epoch * 2 ^ 16)] t ∧ sgetD 0 0 t.hw.ubtEpochs = epoch ∧
        ∃ v, t.hw.net.ubt = [(0, v)] ∧ v.epoch = epoch ∧ v.base = base ∧ v.length = len ∧ v.r = w1.testBit 4 ∧
          v.w = w1.testBit 5 ∧ v.net = ses.port / 4 ∧ v.udp = (if port = 0 then 50711 else port))) ∧
    (base = 0 → len = 0 → w1 = 1 + 2 ^ 16 * k → k < 65536 → s.hw.net.ubt = [(k, u)] → Yields (.closeWindow n) s (fun t =>
      t.hw.net.ubt = [] ∧ Answered n ses ws 0 0 [BitVec.ofNat 64 (u.epoch * 2 ^ 16 + k)] t)) ∧
    (base < 2 ^ 48 → 0 < len → w1 = 2 + 2 ^ 16 * k → k < 65536 → s.hw.net.ubt = [(k, u)] → Yields (.hostWindow n) s (fun t =>
      t.hw.net.ubt = [(k, { u with host := some (base, len) })] ∧
        Answered n ses ws 0 0 [BitVec.ofNat 64 (u.epoch * 2 ^ 16 + k)] t))

/-- R384: RESET at each level. -/
def ResetsAreCommanded : Prop :=
  ∀ (n : Fin 64) (ses : Session) (hd level c : Nat) (s : State),
    let ws := [hd, level, c] ++ List.replicate 13 0
    Commanded n 0x03 ses ws s → ses.control = true →
    (level = 0 → c = 0 → Yields (.reset n) s (fun t => Booted s t ∧ t.hw.net.sessions = [])) ∧
    (level = 1 → c = 0 → Yields (.reset n) s (fun t => AfterReset n ses ws .frame [] t ∧ t.hw.fcyc = 0)) ∧
    (level = 2 → c = 0 → Yields (.reset n) s (AfterReset n ses ws .job [])) ∧
    (level = 3 → ∀ core : CoreId, c = core.val → Yields (.reset n) s (AfterReset n ses ws (.core core) [])) ∧
    (level = 3 → 2112 ≤ c → c < 4096 → Yields (.reset n) s (fun t => Answered n ses ws 5 2 [] t ∧ t.hw.resets = []))

/-- R383: GRAPH_LOAD writes the engine, loads the runner and starts it, or names the word that fails. -/
def GraphsAreLoaded : Prop :=
  ∀ (n : Fin 64) (ses : Session) (hd cuts count src len dst segs entry : Nat) (s : State),
    let ws := [hd, cuts, count, src, len * 2 ^ 32 + dst, segs * 2 ^ 32 + entry, 0, 0, 0, 0, 0x80002F00, 0, 0, 0, 0, 0]
    let z := s.hw.access
    Commanded n 0x05 ses ws s → ses.control = true → cuts < 2 ^ 48 → count < 2 ^ 21 → src < 2 ^ 48 → dst < 2 ^ 20 →
    segs < 2 ^ 16 → entry < 2 ^ 20 → (z.le.st = .idle ∨ z.le.st = .done) → s.hw.xmWest.failed = 0 →
    s.hw.xmEast.failed = 0 → Readable src len z → src % 64 = 0 → len < 2 ^ 20 →
    (runnerFault src len dst segs = none → Yields (.graphLoad n) s (fun t =>
      Answered n ses ws 0 0 [] t ∧ t.hw.firm.loaded = true ∧ t.hw.debug = false ∧ t.hw.le.cutBase.toNat = cuts ∧
      t.hw.le.cutCount = count ∧
      (∀ (c : CoreId) (k : Nat), k < len → memRead (locImem c (dst + k)) t.mem = memRead (src + k) s.mem) ∧
      ∀ c : CoreId, (t.hw.core c).isegx.toNat = segs ∧ (((z.core c).thread 0).tstate = .halted →
        ((t.hw.core c).thread 0).tstate = .running ∧ ((t.hw.core c).thread 0).pc.toNat = entry / 4 * 4))) ∧
    (∀ w, runnerFault src len dst segs = some w → Yields (.graphLoad n) s (fun t => Answered n ses ws 8 w [] t ∧
      t.hw.firm = s.hw.firm ∧ t.mem = s.mem))

/-- R385: DOMAIN_JOIN and DOMAIN_LEAVE. -/
def DomainsAreJoinedAndLeft : Prop :=
  ∀ (n : Fin 64) (ses : Session) (hd op id param ctrl src : Nat) (s : State),
    let ws := [hd, op, id, param, ctrl, 0, 0, 0, 0, src] ++ List.replicate 6 0
    let z := s.hw.access
    Commanded n 0x0A ses ws s → ses.control = true → id < 2 ^ 32 → param < 2 ^ 32 → ctrl ≤ 1 → src < 2 ^ 48 →
    (op = 0 → s.hw.dom.joined = false → Readable src 4096 z → src % 64 = 0 → Yields (.domainJoin n) s (fun t =>
      Answered n ses ws 0 0 [] t ∧ t.hw.dom.joined = true ∧ t.hw.dom.root = (ctrl == 1) ∧
      t.hw.dom.domId.toNat = id % 2 ^ 26 ∧
      ∀ i, i < 1024 → sgetD i 0 t.hw.dom.rtAct = BitVec.ofNat 32 (memNat (src + 4 * i) 4 s.mem) &&& 0x8000003F)) ∧
    (op = 1 →
      (s.hw.dom.joined = true → (z.le.st = .idle ∨ z.le.st = .done ∨ z.le.st = .error) → Yields (.domainLeave n) s
        (fun t => Answered n ses ws 0 0 [] t ∧ t.hw.dom.joined = false ∧ t.hw.dom.root = s.hw.dom.root)) ∧
      (s.hw.dom.joined = false → Yields (.domainLeave n) s (fun t => t.hw.dom = z.dom ∧
        Answered n ses ws 6 z.dom.dstat.toNat [] t)))

/-- R386: the DEBUG reads that need no core, and DEBUG_OFF. -/
def DebugReadsAreAnswered : Prop :=
  ∀ (n : Fin 64) (ses : Session) (hd op x y : Nat) (s : State),
    let ws := [hd, op, x, y, 0, 0, 0, 0]
    let z := s.hw.access
    let answers := fun (words : List W64) => Answered n ses ws 0 0 words
    Commanded n 0x0B ses ws s → ses.control = true →
    (op = 0 → y = 0 → x < 2 ^ 64 → sget x z.le.cuts = none → Yields (.debugEntryRead n) s (answers [0])) ∧
    (op = 1 → y = 0 → x = 0x20 → Yields (.debugEngineRead n) s (answers [BitVec.ofNat 64 (z.le.doneCnt % 2 ^ 32)])) ∧
    (op = 2 → y = 0 → x = 0x10 → Yields (.debugDomainRead n) s (answers [z.dom.dstep.setWidth 64])) ∧
    (s.hw.debug = false → op = 3 → y = 0 → x < 4096 → Yields (.debugPortRead n) s (Answered n ses ws 10 0 []))

/-- R386, R470 to R474: the DEBUG commands over the purlin, when nothing is on its way there: a port is read or written, the device frozen or
thawed, a thread stopped or started again. -/
def DebugActsOverThePurlin : Prop :=
  ∀ (n : Fin 64) (ses : Session) (hd x y : Nat) (c : CoreId) (th : Fin 4) (s : State),
    let ws := fun (op : Nat) => [hd, op, x, y, 0, 0, 0, 0]
    let z := s.hw.access
    let due := rootTurn z + wire c
    let at_ := z.reach due
    let answers := fun (op : Nat) (words : List W64) => Answered n ses (ws op) 0 0 words
    let sent := fun (op : Nat) => Commanded n 0x0B ses (ws op) s
    ses.control = true → s.hw.debug = true → s.hw.purlins = [] → (z.core c).held = false →
    (sent 3 → y = 0 → x = 0x0910 * 2 ^ 16 + c.val → Yields (.debugPortRead n) s (fun t =>
      answers 3 [(at_.core c).stallLimit.setWidth 64] t ∧ t.hw.clock = due + wire c)) ∧
    (sent 4 → y < 2 ^ 32 → x = 0x0910 * 2 ^ 16 + c.val → Yields (.debugPortWrite n) s (fun t =>
      answers 4 [] t ∧ (t.hw.core c).stallLimit = BitVec.ofNat 32 y ∧ t.hw.clock = due)) ∧
    (sent 5 → x = 0 → y = 0 → Yields (.freeze n) s (fun t =>
      answers 5 [BitVec.ofNat 64 (rootTurn z + 88 - z.fcyc0)] t ∧ t.hw.purlinFrom = rootTurn z + 1 ∧
      (z.fcyc0 ≤ rootTurn z + 88 → (rootTurn z + 88, .freeze none) ∈ t.hw.later))) ∧
    (sent 6 → x = 0 → y = 0 → Yields (.thaw n) s (fun t =>
      answers 6 [BitVec.ofNat 64 (rootTurn z + 88 - z.fcyc0)] t ∧ t.hw.purlinFrom = rootTurn z + 1 ∧
      (z.fcyc0 ≤ rootTurn z + 88 → (rootTurn z + 88, .thaw none) ∈ t.hw.later))) ∧
    (sent 7 → y = 0 → x = th.val * 2 ^ 12 + c.val → s.hw.later = [] → (z.core c).frozenAt = none →
      ((z.core c).thread th).tstate = .waiting → ((z.core c).thread th).stopReq = false → Yields (.threadStop n) s (fun t =>
        let u := (t.hw.core c).thread th
        u.tstate = .stopped ∧ answers 7 [BitVec.ofNat 64 (3 * 2 ^ 30 + b2n u.brkstop * 2 ^ 28 + u.dfcode.toNat * 2 ^ 22)] t)) ∧
    (sent 8 → y = 0 → x = th.val * 2 ^ 12 + c.val → ((at_.core c).thread th).tstate = .stopped →
      ((at_.core c).thread th).wasWaiting = false → Yields (.threadGo n) s (fun t =>
        ((t.hw.core c).thread th).tstate = .running ∧ answers 8 [] t ∧ t.hw.clock = due))

/-- R422: a command that needs the cores ungates them in 40 µs. -/
def GatedCoresAreWoken : Prop :=
  ∀ (n : Fin 64) (ses : Session) (ws : List Nat) (s : State),
    Commanded n 0x05 ses ws { s with hw := { s.hw with sill := { s.hw.sill with power := .idle } } } →
    s.hw.sill.power = .idleGated → Acts .idleGateExit s (fun h => h.sill.power = .idle ∧ h.clock = s.hw.clock + 120000)

end Sys2Proof.Claims

/-- R372, R373, R374, R375, R376, R377, R378: DISCOVER, OPEN, CLOSE, CMD and ACK do what their datagrams say; one of a
stale epoch is answered with REJECT; an idle session is closed, and unacknowledged records are sent again. The model's
choices it rests on: log entries 5, 12, 64, 81 and 98. -/
def Obligations.TmpSessions : Prop :=
  DiscoverIsAnswered ∧ SessionsAreOpened ∧ SessionsTakeTheirDatagrams ∧ StaleDatagramsAreRejected ∧ SessionTimersExpire

/-- R380, R381, R382, R383, R384, R385, R386, R388, R422, R427, R445, R457, R458, R470, R472, R473, R474: the firmware
takes the record at the head of a ring, does what its RTYPE says and completes it; RESET and ABORT complete after the
reset they start. The model's choices it rests on: log entries 5, 65, 66, 67, 68, 78, 81 and 98. -/
def Obligations.HostCommands : Prop :=
  FirmwareAnswers ∧ QuotesAndCertificatesAreReturned ∧ WindowsAreOpenedAndClosed ∧ ResetsAreCommanded ∧ GraphsAreLoaded ∧
    DomainsAreJoinedAndLeft ∧ DebugReadsAreAnswered ∧ DebugActsOverThePurlin ∧ GatedCoresAreWoken

/-! ### UBT and Ethernet -/

namespace Sys2Proof.Claims

/-- The session stands so that `P` holds of it. -/
def UbtAt (k : Nat) (h : Hw) (P : Ubt → Prop) : Prop := ∃ u, sget k h.net.ubt = some u ∧ P u

/-- One UBT datagram has left from a port for the peer of a session. -/
def UbtSent (p : Nat) (u : Ubt) (payload : List Byte) (s : State) (h : Hw) : Prop :=
  h.net.sent = s.hw.net.sent ++ [datagram true p u.addr u.udp payload s]

/-- The queue of the slice that holds a shared-memory address. -/
def sliceOf (a : Nat) (h : Hw) : List MemReq := sgetD (a / 64 % 64) [] (h.bent ((a - 0x001000000000) / 0x40000000)).slices

/-- A UBT packet of an OP has reached an UP port at an address of its own, for open session `x.session`, which stands at `u` and
sends by that port (R388, R389); nothing waits on a pause. -/
structure Packet (op : Nat) (dg : Dgram) (x : UbtHdr) (u : Ubt) (s : State) : Prop where
  serving : Serving s
  up : s.hw.net.isUp dg.port = true
  hold : s.hw.postMortem = false
  header : UbtHdr.of dg.payload = some x
  op : x.op = op
  own : toUnicast dg.dst = true
  session : sget x.session s.hw.net.ubt = some u
  epoch : u.epoch = x.epoch
  net : u.net = dg.port.val / 4
  port : u.port = some dg.port.val
  unpaused : (s.hw.net.port dg.port).paused = 0

/-- R369, R370: a port goes DOWN, trains and comes UP; PCOMMIT applies every shadow, and a port whose mode changes goes DOWN. -/
def PortsChangeState : Prop :=
  ∀ (p : Fin 8) (v : W32) (s : State),
    let q := s.hw.net.port p
    let z := s.hw.event s.hw.clock
    (q.state ≠ .down → Acts (.portStateChange p .down) s (fun h => (h.net.port p).state = .down ∧ (h.net.port p).held = [] ∧
      (h.net.port p).paused = 0 ∧ h.irqPend = s.hw.irqPend ||| (1 <<< (200 + p.val)))) ∧
    (q.state = .down → Acts (.portStateChange p .down) s (fun h => h = z)) ∧
    (q.state = .down → q.active.toNat / 2 ^ 30 ≠ 0 → s.hw.board.held = false → s.hw.firm.romHalted = false →
      Acts (.portStateChange p .train) s (fun h => (h.net.port p).state = .train)) ∧
    (q.state = .train → Acts (.portStateChange p .up) s (fun h => (h.net.port p).state = .up)) ∧
    (v.getLsbD 0 = true → Acts (.pcommit v) s (fun h => ∀ r : Fin 8, (h.net.port r).active = (s.hw.net.port r).shadow ∧
      (h.net.port r).state = (if pmodeKey (s.hw.net.port r).active = pmodeKey (s.hw.net.port r).shadow then
        (s.hw.net.port r).state else .down))) ∧
    (v.getLsbD 0 = false → Acts (.pcommit v) s (fun h => h = s.hw.access))

/-- R368, R369: a pause holds a priority of the port's own back, its end sends what it held; a frame of another kind is dropped and
counted. -/
def PausesAreFollowed : Prop :=
  ∀ (p prio : Fin 8) (s : State),
    let q := s.hw.net.port p
    let z := s.hw.event s.hw.clock
    let tmp := q.active.toNat / 2 ^ 25 % 8
    let ubt := q.active.toNat / 2 ^ 22 % 8
    (q.state = .up → prio.val = tmp ∨ prio.val = ubt ∧ q.active.getLsbD 21 = true →
      Acts (.pfcFrame p prio true) s (fun h => h.net.port p = { q with paused := q.paused ||| (1 <<< prio.val) } ∧
        h.net.sent = s.hw.net.sent) ∧
      Acts (.pfcFrame p prio false) s (fun h => h.net.port p =
          { q with paused := q.paused &&& ~~~(1#8 <<< prio.val), held := q.held.filter (fun x => x.pcp != prio.val) } ∧
        h.net.sent = s.hw.net.sent ++ q.held.filter (fun x => x.pcp == prio.val))) ∧
    (prio.val ≠ tmp → prio.val ≠ ubt ∨ q.active.getLsbD 21 = false → ∀ pause, Acts (.pfcFrame p prio pause) s (fun h => h = z)) ∧
    (q.state = .up → Acts (.unsupportedFrame p) s (fun h => h.net.port p = { q with drops := q.drops + 1 }))

/-- R368, R371: a port answers for its own addresses, and for no other. -/
def PortsAnswerBelowUdp : Prop :=
  ∀ (p : Fin 8) (t4 : W32) (t6 : BitVec 128) (mac : BitVec 48) (bytes : List Byte) (s : State), s.hw.net.isUp p = true →
    let z := s.hw.event s.hw.clock
    let answers := fun (x : Answer) (h : Hw) => h.net.answers = s.hw.net.answers ++ [x]
    let mine := (s.hw.conf.macBase + p.val) % 2 ^ 48
    let v4 := s.hw.conf.v4.getD (p.val / 4) none
    (v4 = some t4 → Acts (.arp p t4 mac) s (answers (.arp p t4 mine mac))) ∧
    (v4 ≠ some t4 → Acts (.arp p t4 mac) s (fun h => h = z)) ∧
    (s.hw.conf.hasV6 p t6 = true → Acts (.neighborSolicitation p t6 mac) s (answers (.advert p t6 mine mac)) ∧
      Acts (.echoRequest p t6 bytes) s (answers (.echo p t6 bytes))) ∧
    (s.hw.conf.hasV6 p t6 = false → Acts (.neighborSolicitation p t6 mac) s (fun h => h = z))

/-- R389, R390, R394: a packet in sequence is performed, an early one is answered with NAK SEQUENCE at most once in 20 µs, and an old one
acknowledged again. -/
def UbtPacketsAreReceived : Prop :=
  ∀ (dg : Dgram) (x : UbtHdr) (u : Ubt) (s : State),
    let k := x.session
    let a := u.base + x.addr
    let sent := UbtSent dg.port u
    let local_ := u.inPkts = [] ∧ Readable a x.len s.hw ∧ a % 64 + x.len ≤ 64 ∧ 0 < x.len
    (Packet 1 dg x u s → x.psn = u.psnIn → x.addr % 8 = 0 → x.len % 8 = 0 → x.addr + x.len ≤ u.length →
      (u.w = true → local_ → Acts (.ubtWrite dg) s (fun h =>
        UbtAt k h (fun u' => u'.psnIn = add32 u.psnIn 1 ∧ u'.inPkts = [{ psn := x.psn, open_ := [0] }]) ∧
        ∃ q, sliceOf a h = sliceOf a s.hw ++ [q] ∧ q.key = a / 64 ∧ q.wr = some (offsFrom (a % 64) (dg.payload.drop 32)) ∧
          q.owner = .origin (.ubt k u.epoch x.psn 0))) ∧
      (u.w = false → u.inPkts = [] → x.len ≤ 8192 → Acts (.ubtWrite dg) s (fun h =>
        sent (ubtHeader 5 k u.epoch 0 x.psn 0 false false 2 0) s h ∧
        UbtAt k h (fun u' => u'.psnIn = add32 u.psnIn 1 ∧ u'.inPkts = [])))) ∧
    (Packet 1 dg x u s →
      let d := sub32 x.psn u.psnIn
      (0 < d → d < 2 ^ 31 → (∀ t, u.nakAt = some t → t + 60000 ≤ s.hw.clock) → Acts (.ubtWrite dg) s (fun h =>
        sent (ubtHeader 5 k u.epoch 0 u.psnIn 0 false false 0 0) s h ∧
        UbtAt k h (fun u' => u' = { u with nakAt := some s.hw.clock }))) ∧
      (2 ^ 31 ≤ d → Acts (.ubtWrite dg) s (fun h =>
        sent (ubtHeader 4 k u.epoch 0 (sub32 u.doneIn 1) 0 u.ce false 0 0) s h))) ∧
    (Packet 2 dg x u s → x.psn = u.psnIn → x.addr % 8 = 0 → x.len % 8 = 0 → x.addr + x.len ≤ u.length → 0 < x.len →
      x.len ≤ 2 ^ 20 → u.r = true → u.inPkts = [] → Acts (.readReq dg) s (fun h => UbtAt k h (fun u' =>
        u'.psnIn = add32 u.psnIn 1 ∧ u'.inPkts = [{ psn := x.psn, read := true, addr := x.addr, len := x.len }]))) ∧
    (Packet 3 dg x u s → x.psn = u.psnIn → u.reads = [] → u.inPkts = [] → Acts (.readResp dg) s (fun h =>
      UbtAt k h (fun u' => u'.psnIn = add32 u.psnIn 1 ∧ u'.doneIn = add32 x.psn 1) ∧
      sent (ubtHeader 4 k u.epoch 0 (sub32 (add32 x.psn 1) 1) 0 (u.ce || dg.ce) false 0 0) s h)) ∧
    (∀ (r : UbtRead) (c : Cut), Packet 3 dg x u s → x.psn = u.psnIn → u.reads = [r] → u.inPkts = [] → r.got = 0 → x.last = true →
      x.len = r.len → CutAt r.cut c s.hw → c.fault = none → 0 < x.len →
      let b := c.spec.headD 0 % 2 ^ 48 + r.off
      Readable b x.len s.hw → b % 64 + x.len ≤ 64 → Acts (.readResp dg) s (fun h =>
        UbtAt k h (fun u' => u'.reads = []) ∧
        ∃ q, sliceOf b h = sliceOf b s.hw ++ [q] ∧ q.key = b / 64 ∧ q.wr = some (offsFrom (b % 64) (dg.payload.drop 32))))

/-- R389, R391, R392, R412: an ACK ends what it acknowledges, and one with ECE lowers the rate at most once in 16 µs; a NAK SEQUENCE has the
packets sent again, another ends the packet it names, and SESSION ends the session. -/
def UbtAnswersAreTaken : Prop :=
  ∀ (dg : Dgram) (x : UbtHdr) (u : Ubt) (s : State),
    let k := x.session
    (∀ p : UbtPacket, u.unacked = [p] → p.psn = x.apsn → p.cut = none →
      (Packet 4 dg x u s → u.psnOut = add32 x.apsn 1 → x.apsn < 2 ^ 32 → Acts (.ubtAck dg) s (fun h => UbtAt k h (fun u' =>
        u'.unacked = [] ∧ u'.timeouts = 0 ∧ u'.sentAt = s.hw.clock ∧ u'.rate =
          if x.ece ∧ u.cutAt.all (fun t => decide (t + 48000 ≤ s.hw.clock)) = true then Max.max (7 * u.rate / 8) 1000000000
          else u.rate))) ∧
      (Packet 5 dg x u s → x.err = 0 → Acts (.ubtNak dg) s (fun h => UbtSent dg.port u p.bytes s h ∧
        h.irqPend.getLsbD (222 + dg.port.val / 2 % 2) = true)) ∧
      (Packet 5 dg x u s → x.err = 1 → Acts (.ubtNak dg) s (fun h => UbtAt k h (fun u' => u'.unacked = [])))) ∧
    (Packet 5 dg x u s → x.err = 6 → Acts (.ubtNak dg) s (fun h => sget k h.net.ubt = none))

/-- R389, R390, R392: unacknowledged packets are sent again, and at the sixteenth time the session ends; a read is answered as rate and
window allow; the rate rises. -/
def UbtSessionsSend : Prop :=
  ∀ (n : BitVec 16) (u : Ubt) (port : Fin 8) (s : State), Serving s → sget n.toNat s.hw.net.ubt = some u →
    u.port = some port.val → s.hw.net.isUp port = true → (s.hw.net.port port).paused = 0 →
    let line := Net.ubtLine s.hw.net u
    let z := s.hw.event u.sendFrom
    (∀ p, u.unacked = [p] →
      (u.timeouts < 15 → Acts (.ubtRetransmitExpiry n) s (fun h => UbtSent port u p.bytes s h ∧
        h.clock = Max.max s.hw.clock (u.sentAt + 600000) ∧
        UbtAt n.toNat h (fun u' => u' = { u with sentAt := h.clock, timeouts := u.timeouts + 1 }))) ∧
      (15 ≤ u.timeouts → Acts (.ubtRetransmitExpiry n) s (fun h => sget n.toNat h.net.ubt = none))) ∧
    (∀ y : UbtIn, s.hw.postMortem = false → u.unacked.length < 256 → u.inPkts = [y] → y.read = true → y.fault = none →
      y.next = 0 → 0 < y.len → y.len ≤ 8192 → Readable (u.base + y.addr) y.len z → (u.base + y.addr) % 64 = 0 →
      Acts (.ubtPacketSend n) s (fun h => h.clock = Max.max s.hw.clock u.sendFrom ∧
        UbtAt n.toNat h (fun u' => u'.psnOut = add32 u.psnOut 1) ∧
        let bytes := ubtHeader 3 n.toNat u.epoch u.psnOut 0 y.addr false true 0 y.len ++ memReadN (u.base + y.addr) y.len s.mem
        (s.hw.net.sent ++ [datagram true port u.addr u.udp bytes s]) <+: h.net.sent)) ∧
    (u.inPkts = [] → u.host = none → exec (.ubtPacketSend n) s = .next s) ∧
    Acts (.ubtRateRise n) s (fun h => h.clock = Max.max s.hw.clock (u.riseAt + 48000) ∧ UbtAt n.toNat h (fun u' =>
      u' = { u with rate := Min.min line (u.rate + line / 64), riseAt := h.clock }))

end Sys2Proof.Claims

/-- R366 to R371, R388, R389, R390, R391, R392, R394: ports change state and modes, pause and resume, and answer frames
below UDP; UBT packets are taken in sequence, performed, acknowledged and sent again, and the rate falls and rises. The
model's choices it rests on: log entries 12, 50, 52, 69, 70, 71, 73, 81 and 98. -/
def Obligations.UbtAndEthernet : Prop :=
  PortsChangeState ∧ PausesAreFollowed ∧ PortsAnswerBelowUdp ∧ UbtPacketsAreReceived ∧ UbtAnswersAreTaken ∧ UbtSessionsSend

/-! ### The Story Pole -/

namespace Sys2Proof.Claims

/-- The access changes the Story Pole alone, as `f` says. -/
def PoleDoes (i : Instr) (s : State) (f : Pole → Pole) : Prop := Acts i s (fun h => h = { s.hw with pole := f s.hw.pole })

/-- The event changes the Story Pole alone, as `f` says. -/
def PoleHas (i : Instr) (s : State) (f : Pole → Pole) : Prop :=
  Acts i s (fun h => h = { s.hw.event s.hw.clock with pole := f s.hw.pole })

/-- What the Story Pole sends on its read port (R431). -/
def replies (x : PoleMsg) (p : Pole) : Pole := { p with sent := p.sent ++ [x] }

/-- R432, R433: the 16 channels are sampled at one instant and their energy accumulates; a sample out of its range is clamped and marked. -/
def EnergyIsSampled : Prop :=
  ∀ (uv ua : List Nat) (s : State), uv.length = 16 → ua.length = 16 →
    let ok := fun (ch : Nat) => 36000000 ≤ uv.getD ch 0 ∧ uv.getD ch 0 ≤ 64000000 ∧ ua.getD ch 0 ≤ 8000000
    (s.hw.pole.powered = true → (∀ ch, ch < 16 → ok ch) → PoleHas (.senseSample uv ua) s (fun p =>
      { p with energy := p.energy + (List.zipWith (· * ·) uv ua).sum })) ∧
    (∀ ch : Fin 16, s.hw.pole.powered = true → ¬ok ch → Acts (.senseSample uv ua) s (fun h =>
      h.pole.flags.testBit 2 = true ∧ .senseRange ch ∈ h.pole.due)) ∧
    (s.hw.pole.powered = false → Acts (.senseSample uv ua) s (fun h => h = s.hw.event s.hw.clock))

/-- R434, R438, R439: an interval ends with its INCREMENT, and with it a per-second record after 10,000. -/
def IntervalsEnd : Prop :=
  ∀ s : State, s.hw.pole.powered = true → s.hw.pole.jobs = [] →
    let p := s.hw.pole
    let e := p.carryNj + p.energy
    Acts .intervalEnd s (fun h => h.pole.time = p.time + 1 ∧ h.pole.energy = 0 ∧ h.pole.work = 0 ∧ h.pole.flags = 0 ∧
      h.pole.carryNj = e % 10 ^ 8 ∧ h.pole.increments = p.increments ++ [e / 10 ^ 8] ∧
      h.pole.sent = p.sent ++ [.increment p.time (e / 10 ^ 8) p.work] ∧
      (p.second.first ≤ p.time → p.second.last = none →
        (p.time + 1 < p.second.first + 10000 → h.pole.ready = p.ready ∧ h.pole.second = { p.second with
          energy := p.second.energy + p.energy, work := p.second.work + p.work, flags := p.second.flags ||| p.flags }) ∧
        (p.second.first + 10000 ≤ p.time + 1 → p.second.job = false → h.pole.second = { job := false, first := p.time + 1 } ∧
          ∃ r, h.pole.ready = p.ready ++ [r] ∧ r.job = false ∧ r.first = p.second.first ∧ r.last = p.time ∧
            r.energy = (p.carryUj + p.second.energy + p.energy) / 10 ^ 11 ∧ r.work = p.second.work + p.work ∧
            h.pole.carryUj = (p.carryUj + p.second.energy + p.energy) % 10 ^ 11)))

/-- R436, R437: a bent sends its frame at every 3,000 of FCYC, 16 times with START, and the Story Pole counts it by its baseline; a frame whose
CRC fails is left, and after 1 ms of them the line is faulty. -/
def WorkIsCounted : Prop :=
  ∀ (b : BentId) (total : W64) (start : Bool) (crc : BitVec 16) (s : State),
    let l := sgetD b.val {} s.hw.pole.lines
    let inc := (total.toNat + 2 ^ 64 - l.baseline) % 2 ^ 64
    Acts (.workCountFrameSend b) s (fun h => (h.bent b).lineSent = (s.hw.bent b).lineSent + 1 ∧
      (h.bent b).lineRestart = decide ((s.hw.bent b).lineSent < 16) ∧
      (s.hw.fcyc0 ≤ s.hw.clock → h.clock = s.hw.fcyc0 + (Max.max s.hw.clock (s.hw.bent b).lineFrom - s.hw.fcyc0 + 2999) / 3000 * 3000)) ∧
    (s.hw.pole.powered = true →
      (crc = lineCrc total start → l.signal = true → inc < 2 ^ 32 → PoleHas (.workCountFrame b total start crc) s (fun p =>
        { p with work := p.work + inc, lines := sset b.val { signal := true, baseline := total.toNat } p.lines })) ∧
      (crc = lineCrc total start → start = false → 2 ^ 32 ≤ inc → PoleHas (.workCountFrame b total start crc) s (fun p =>
        { p with flags := p.flags ||| 8, due := p.due ++ [.lineFault b]
                 lines := sset b.val { signal := true, baseline := total.toNat } p.lines })) ∧
      (crc ≠ lineCrc total start → l.failing = none → PoleHas (.workCountFrame b total start crc) s (fun p =>
        { p with lines := sset b.val { l with failing := some s.hw.clock } p.lines })) ∧
      (∀ t, l.failing = some t → Acts (.lineCrcTimeout b) s (fun h => h.clock = Max.max s.hw.clock (t + 3000000) ∧
        h.pole = { s.hw.pole with flags := s.hw.pole.flags ||| 8, due := s.hw.pole.due ++ [.lineFault b]
                                  lines := sset b.val { l with failing := none } s.hw.pole.lines })))

/-- R439, R440, R443: a finished record is signed and stored under its number; the oldest of its kind goes. -/
def RecordsAreStored : Prop :=
  ∀ (r : Machine.Ready) (rest : List Machine.Ready) (s : State), s.hw.pole.powered = true → s.hw.pole.ready = r :: rest →
    let p := s.hw.pole
    Acts .recordClose s (fun h => h.pole.ready = rest ∧ h.freeCtr = s.hw.freeCtr + 1 ∧
      (r.job = false → h.pole.secCount = p.secCount + 1 ∧ h.irqPend = s.hw.irqPend ||| (1 <<< 240) ∧
        (4096 ≤ p.secCount → sget (p.secCount - 4096) h.pole.secs = none) ∧
        ∃ body, body.length = 96 ∧ sget p.secCount h.pole.secs =
          some (body ++ fitBytes 384 (Config.poleSign body (Config.freeNat s.hw.freeCtr)))) ∧
      (r.job = true → h.pole.jobCount = p.jobCount + 1 ∧ h.irqPend = s.hw.irqPend ||| (1 <<< 241) ∧
        h.pole.secs = p.secs))

/-- R431, R441, R445: the commands of the read port. -/
def ReadPortIsServed : Prop :=
  ∀ (n : W64) (label : BitVec 128) (code : BitVec 8) (s : State), s.hw.pole.powered = true →
    let p := s.hw.pole
    PoleDoes (.readSecond n) s (replies (match sget n.toNat p.secs with | some bs => .record bs | none => .notHeld)) ∧
    PoleDoes (.readJob n) s (replies (match sget n.toNat p.jobRecs with | some bs => .record bs | none => .notHeld)) ∧
    PoleDoes .readStatus s (replies (.status p.statusBytes)) ∧
    PoleDoes .readCert s (replies (.cert (Config.poleCert.take 2048))) ∧
    (p.jobs = [] → PoleDoes .jobOpen s (fun p => { replies .ok p with jobs := [{ job := true, first := p.time + 1 }] })) ∧
    (∀ r, p.jobs = [r] → r.last = none →
      PoleDoes .jobOpen s (fun p => { replies .ok p with
        jobs := [{ r with last := some p.time, flags := r.flags ||| 2 }, { job := true, first := p.time + 1 }] }) ∧
      PoleDoes (.jobClose label) s (fun p => { replies .ok p with
        jobs := [{ r with last := some p.time, label := toBytes 16 label.toNat }] })) ∧
    (p.jobs = [] → PoleDoes (.jobClose label) s (replies .noneOpen)) ∧
    (code = 0 ∨ 7 < code.toNat → PoleDoes (.badCommand code) s (replies .badCommand)) ∧
    (1 ≤ code.toNat → code.toNat ≤ 7 → exec (.badCommand code) s = .next s)

/-- R446, R449, R450: an image is refused with the first cause that it meets, else accepted. -/
def UpdatesAreTaken : Prop :=
  ∀ (bs : List Byte) (s : State), s.hw.pole.powered = true →
    let p := s.hw.pole
    let x := Image.of bs
    let rejected := fun (cause : Nat) (h : Hw) => h.pole.rejects = p.rejects + 1 ∧ h.pole.image = p.image ∧
      h.pole.sent = p.sent ++ [.rejected cause]
    Acts (.update bs) s (fun h =>
      if sha256 x.modulus ≠ Config.poleUpdateHash then rejected 1 h
      else if Config.pssVerify x.modulus x.signed x.signature = false then rejected 2 h
      else if x.version ≤ p.fwver then rejected 3 h
      else if p.jobOpen = true then rejected 4 h
      else if Config.freeNat s.hw.freeCtr % 2 = 1 then rejected 5 h
      else h.pole = { replies .accepted p with image := some x.version })

/-- R442, R448, R450: the switch to an accepted image, alarms, and the loss and return of the supply. -/
def AlarmsAndSupply : Prop :=
  ∀ (k : AlarmKind) (v : Nat) (s : State),
    let p := s.hw.pole
    let z := s.hw.event s.hw.clock
    (p.image = some v → p.powered = true → p.second.first = p.time → Acts .bankSwitch s (fun h => h.pole.fwver = v ∧
      h.pole.image = none ∧ h.pole.audit = (p.audit + 1) % 2 ^ 32 ∧ h.irqPend = s.hw.irqPend ||| (1 <<< 243))) ∧
    (p.image = none ∨ p.second.first ≠ p.time → Acts .bankSwitch s (fun h => h = z)) ∧
    (k ∈ p.due ∨ k = .clockFault ∨ k = .nvmFault → Acts (.alarm k) s (fun h => h.pole.sent = p.sent ++ [.alarm k] ∧
      h.pole.due = p.due.erase k ∧ h.irqPend = s.hw.irqPend ||| (1 <<< 242) ∧ h.pole.alarms ≠ 0)) ∧
    (k ∉ p.due → k ≠ .clockFault → k ≠ .nvmFault → Acts (.alarm k) s (fun h => h = z)) ∧
    (p.powered = true → p.jobs = [] → p.ready = [] → p.second.job = false → Acts .supplyLow s (fun h =>
      h.pole.powered = false ∧ h.pole.ready = [] ∧ h.pole.secCount = p.secCount + 1 ∧ h.irqPend.getLsbD 240 = true ∧
      .supplyLow ∈ h.pole.due)) ∧
    (p.powered = false → Acts .supplyLow s (fun h => h = z) ∧ Acts .storyPolePowerUp s (fun h => h.pole.powered = true ∧
      h.pole.cycle = p.cycle + 1 ∧ h.pole.jobs = [] ∧ h.pole.alarms = 0 ∧ h.pole.second = { job := false, first := p.time } ∧
      h.pole.secs = p.secs ∧ h.pole.time = p.time)) ∧
    (p.powered = true → exec .storyPolePowerUp s = .next s)

end Sys2Proof.Claims

/-- R431 to R450: the Story Pole samples and accumulates energy, ends intervals with an INCREMENT, counts work by its
lines, closes and stores signed records, answers the commands of its read port, takes and switches to updates, sends its
alarms, and closes its records at a loss of supply. The model's choices it rests on: log entries 3, 14, 45, 46, 47, 48,
78 and 81. -/
def Obligations.StoryPole : Prop :=
  EnergyIsSampled ∧ IntervalsEnd ∧ WorkIsCounted ∧ RecordsAreStored ∧ ReadPortIsServed ∧
    UpdatesAreTaken ∧ AlarmsAndSupply

/-! ### Resets -/

namespace Sys2Proof.Claims

/-- Core `c` has been stopped by a reset: held, with CYCLE 0, its registers and channels at their reset values, and its channel
epochs advanced (R182, R265, R460, R464). -/
structure Stopped (c : CoreId) (s t : State) : Prop where
  held : (t.hw.core c).held = true
  cycle : t.hw.cycle c = 0
  threads : ∀ w : Fin 4, ((t.hw.core c).thread w).tstate = .halted ∧ ((t.hw.core c).thread w).pc = 0 ∧
    ((t.hw.core c).thread w).d = Vector.replicate 32 0 ∧ ((t.hw.core c).thread w).mode = true
  channels : ∀ n : Fin 16, ((t.hw.core c).tenons[n]).epoch = ((s.hw.core c).tenons[n]).epoch + 1 ∧
    ((t.hw.core c).tenons[n]).credits = 8 ∧ ((t.hw.core c).tenons[n]).active = 0 ∧ (t.hw.core c).mortises[n] = []
  engines : (t.hw.core c).mat = [] ∧ (t.hw.core c).groups = Vector.replicate 8 {} ∧ (t.hw.core c).tiles = Vector.replicate 8 {}

/-- What was on its way before a reset stays on its way (R265, R461). -/
def StillOnTheirWay (s t : State) : Prop := ∀ x ∈ s.hw.tuples, ∃ y ∈ t.hw.tuples, y = { x with due := y.due } ∧ x.due ≤ y.due

/-- R182, R265, R384, R455, R459, R460, R461, R462: a reset stops what it covers at its reset values and holds it; one of a lower level
does not run beside a higher; tuples on their way go on. -/
def ResetsStop : Prop :=
  (∀ (c : CoreId) (s : State), s.hw.resets = [] → s.hw.postMortem = false →
    Yields .frameReset s (fun t => t.hw.resets = [{ level := .frame }] ∧ (∀ k, Stopped k s t) ∧ t.hw.fcyc = 0 ∧
      StillOnTheirWay s t ∧ t.hw.irqPend = 0 ∧ t.hw.le.st = .idle ∧ t.hw.firm.loaded = false ∧ t.hw.le.cap = s.hw.le.cap ∧
      t.hw.clock = s.hw.clock) ∧
    Yields .jobReset s (fun t => t.hw.resets = [{ level := .job }] ∧ (∀ k, Stopped k s t) ∧ StillOnTheirWay s t ∧ t.hw.le.st = .idle ∧
      t.hw.le.budget = s.hw.le.budget ∧ t.hw.net.ubt = [] ∧ t.hw.firm.loaded = false ∧ t.hw.fcyc0 = s.hw.fcyc0 ∧
      t.hw.clock = s.hw.clock) ∧
    Yields (.coreReset c) s (fun t => t.hw.resets = [{ level := .core c }] ∧ Stopped c s t ∧ StillOnTheirWay s t ∧
      (t.hw.core c).runsCut = (s.hw.core c).runsCut ∧ t.hw.clock = s.hw.clock ∧
      ∀ k, k ≠ c → (t.hw.core k).held = (s.hw.core k).held ∧ (t.hw.core k).tiles = (s.hw.core k).tiles)) ∧
  (∀ (c : CoreId) (s : State), s.hw.resets = [{ level := .frame }] → exec (.coreReset c) s = .next s)

/-- Nothing waits in memory that a reset would have to wait for. -/
def MemoryStill (s : State) : Prop :=
  (∀ p ∈ s.hw.bents, p.2.slices = [] ∧ p.2.portHeld = []) ∧ s.hw.xmWest.queue = [] ∧ s.hw.xmEast.queue = []

/-- R461, R462, R464, R465: a stopped reset begins its scrub when the accesses it waits for have ended, and ends it after the cycles of its
level; under the post-mortem hold there is none. -/
def ResetsQuiesce : Prop :=
  ∀ (op : ResetOp) (s : State), s.hw.resets = [op] → op.quiesced = false →
    let z := s.hw.event s.hw.clock
    let n := match op.level with
      | .frame => 262144
      | .job => if s.hw.conf.scrubShared then 262144 else 8704
      | .core c => if c.val % 44 < 32 then 8704 else if c.val % 44 < 40 then 4608 else 4096
    (MemoryStill s → op.hold = false → Acts .resetQuiesceEnd s (fun h =>
      h = { z with resets := [{ op with quiesced := true, due := s.hw.clock + n }] })) ∧
    (MemoryStill s → op.hold = true → s.hw.net.afterReset = [] → Acts .resetQuiesceEnd s (fun h =>
      h.resets = [] ∧ h.postMortem = true)) ∧
    (∀ (b : BentId) (k : Nat) (r : MemReq) (c : CoreId) (m : Fin 8), op.level = .job → s.hw.bents = [(b.val, { slices := [(k, [r])] })] →
      r.owner = .miss c m → exec .resetQuiesceEnd s = .next s)

/-- The private stores of a core read 0 (R460). -/
def PrivateCleared (c : CoreId) (t : State) : Prop :=
  (∀ a, a < spadSize c → memRead (locScratch c a) t.mem = 0) ∧ (∀ a, a < imemSize c → memRead (locImem c a) t.mem = 0)

/-- Core `c` goes on, its CYCLE at 0 (R464). -/
def GoesOn (c : CoreId) (t : State) : Prop := (t.hw.core c).held = false ∧ (t.hw.core c).cyc0 = t.hw.clock

/-- R460, R462, R463, R464, R465: a scrub ends with what it covers cleared; its cores go on, a core of a running cut with its runner, and
under a post-mortem hold none does. -/
def ScrubsEnd : Prop :=
  ∀ (op : ResetOp) (s : State), s.hw.resets = [op] → op.quiesced = true → s.hw.net.afterReset = [] →
    let z := s.hw.event op.due
    (∀ c : CoreId, op.level = .core c →
      ((s.hw.core c).runsCut = none → Yields .scrubEnd s (fun t => t.hw.resets = [] ∧ t.hw.clock = z.clock ∧
        (s.hw.postMortem = false → GoesOn c t) ∧ (s.hw.postMortem = true → (t.hw.core c).held = (z.core c).held) ∧ PrivateCleared c t ∧
        ∀ (k : CoreId) (a : Nat), k ≠ c → a < spadSize k → memRead (locScratch k a) t.mem = memRead (locScratch k a) s.mem)) ∧
      (∀ i src len dst entry, (s.hw.core c).runsCut = some i → s.hw.firm.runner = (src, len, dst, entry) → Readable src len z →
        src % 64 = 0 → dst + len ≤ imemSize c → ((z.core c).thread 0).tstate = .halted → s.hw.postMortem = false →
        Yields .scrubEnd s (fun t => t.hw.resets = [] ∧ GoesOn c t ∧ ((t.hw.core c).thread 0).tstate = .running ∧
          (t.hw.core c).isegx = s.hw.le.runnerSegs ∧
          ∀ k, k < len → memRead (locImem c (dst + k)) t.mem = memRead (src + k) s.mem))) ∧
    (op.level = .job ∨ op.level = .frame → Yields .scrubEnd s (fun t => t.hw.resets = [] ∧ t.hw.clock = z.clock ∧
      (∀ c : CoreId, GoesOn c t ∧ PrivateCleared c t) ∧
      (∀ b a, b < 48 → a < 0x40000000 → memRead (locShared b a) t.mem =
        if op.level = .frame ∨ s.hw.conf.scrubShared = true then 0 else memRead (locShared b a) s.mem) ∧
      ∀ a, a < 0x8000000000 → memRead (locExt a) t.mem = memRead (locExt a) s.mem))

end Sys2Proof.Claims

/-- R182, R265, R384, R455, R459, R460, R461, R462, R463, R464, R465: a reset stops what it covers at its reset values and
holds it; one of a lower level does not run beside a higher; its scrub begins when its accesses have ended, and clears
what it covers; its cores then go on, a core of a running cut with its runner. The model's choices it rests on: log
entries 53, 54, 55, 56, 57, 59 and 81. -/
def Obligations.Resets : Prop := ResetsStop ∧ ResetsQuiesce ∧ ScrubsEnd

/-! ### The whole machine -/

namespace Sys2Proof.Claims

/-- The commands that may change a byte of memory: stores, rows and units written, requests performed, the engine's log, resets,
power and the test connector. -/
def stores : Instr → Bool
  | .tileMoveRow .. | .st .. | .sta .. | .ist .. | .vst .. | .vstn .. | .slot3UnitWrite .. | .transferUnitIssue .. => true
  | .imemUnitWrite .. | .evictionWriteback .. | .sliceRequest .. | .memoryRequest .. | .pageMapCommitEffect .. => true
  | .layoutCut .. | .layoutReplayRecord .. | .launchCut .. | .endNotice .. | .copyUnitIssue .. | .copyComplete .. => true
  | .copyFail .. | .noticeAccept .. | .registerWrite .. | .graphLoad .. | .ubtWrite .. | .readResp .. => true
  | .dreset .. | .dresetStart .. | .reset .. | .abort .. | .coldReset .. | .frameReset .. | .jobReset .. => true
  | .coreReset .. | .scrubEnd .. | .idleGateEntry .. | .sillOnlyEntry .. | .wake .. | .sillTimer .. => true
  | .temperatureSample .. | .referenceClockLoss .. | .referenceClockReturn .. | .inputUndervoltage .. => true
  | .inputOvervoltage .. | .overvoltageRelease .. | .powerUp .. | .railFault .. | .resetNAssert .. => true
  | .resetNRelease .. | .moduleInsertion .. | .extest .. | .flashProg .. => true
  | _ => false

end Sys2Proof.Claims

/-- A step runs the command at the front of the queue on the state with the queue's rest; on an empty queue the block
idles for one core cycle, in which what has become due takes hold (log entries 1 and 81). -/
def Obligations.StepRunsTheFrontCommand : Prop :=
  (∀ (c : Instr) (rest : List Instr) (s : State), step { s with pending := c :: rest } = exec c { s with pending := rest }) ∧
  (∀ s : State, s.pending = [] → step s = .next { s with hw := s.hw.reach (s.hw.clock + 1) })

/-- R10, R182, R184, R242, R258, R270, R332, R336, R344, R365, R404, R417, R460: after reset no command waits, memory has its
canonical form, FCYC and every CYCLE are 0; every thread is HALTED in supervisor mode with MIE and EXL 0; every tenon has 8 credits and
epoch 0 and every mortise is empty; STALL_LIMIT is 3,000,000; the Layout engine is IDLE with SPLIT 0x80002F00, 0, 0, 0 and a default
timeout of 1,000,000; every scarf link is DOWN, the domain is not joined and its step timeout is 1,000,000; no interrupt is pending; the
entry of page v of the page map holds 0xC0000000 + v below 0x7FFC00 and 0 above. The model's choices it rests on: log entries 2, 4 and
6. -/
def Obligations.ResetState : Prop :=
  let s := State.reset
  s.pending = [] ∧ Memory.wf s.mem = true ∧ s.hw.fcyc = 0 ∧
  (∀ c : CoreId, s.hw.cycle c = 0 ∧ (∀ t : Fin 4, ((s.hw.core c).thread t).tstate = .halted ∧ ((s.hw.core c).thread t).mode = true ∧
      ((s.hw.core c).thread t).mie = false ∧ ((s.hw.core c).thread t).exl = false) ∧
    (∀ n : Fin 16, ((s.hw.core c).tenons[n]).credits = 8 ∧ ((s.hw.core c).tenons[n]).epoch = 0 ∧ (s.hw.core c).mortises[n] = []) ∧
    (s.hw.core c).stallLimit = 3000000) ∧
  s.hw.le.st = .idle ∧ s.hw.le.split.toList = [0x80002F00, 0, 0, 0] ∧ s.hw.le.defTimeout = 1000000 ∧
  (∀ l, (s.hw.link l).state = .down) ∧ s.hw.dom.joined = false ∧ s.hw.dom.stepTimeout = 1000000 ∧ s.hw.irqPend = 0 ∧
  (∀ vpn k : Nat, vpn < 2 ^ 24 → k < 4 → (memRead (locExt (0x7FFC000000 + 4 * vpn + k)) s.mem).toNat =
    (if vpn < 0x7FFC00 then 0xC0000000 + vpn else 0) / 256 ^ k % 256)

/-- Every step keeps the canonical form of memory: addresses strictly rising, and no entry equal to what an unlisted
byte reads. The model's choices it rests on: log entry 6. -/
def Obligations.EveryStepKeepsMemoryCanonical : Prop :=
  ∀ s t : State, Memory.wf s.mem = true → step s = .next t → Memory.wf t.mem = true

/-- Every well-formed command completes, leaves the waiting commands alone, and changes no byte of memory unless it is
one of those that store; a patrol beyond the 39-bit address space and a flash access beyond the flash fault (R397,
R452). The model's choices it rests on: log entries 7, 8 and 9. -/
def Obligations.WellFormedCommandsComplete : Prop :=
  (∀ (c : Instr) (s : State), wellFormed c = true → ∃ t, exec c s = .next t ∧ t.pending = s.pending ∧
    (stores c = false → t.mem = s.mem)) ∧
  (∀ (p : Plate) (line : Nat) (e : Ecc) (s : State), 2 ^ 33 ≤ line → exec (.patrolRead p line e) s = .fault .noSuchLine) ∧
  (∀ (off len : Nat) (page : Option (List Byte)) (s : State), s.hw.sill.power ≠ .off → s.hw.board.resetN = false →
    (0x04000000 ≤ off → exec (.flashProg .ridge off page) s = .fault .noSuchFlash) ∧
    (0x04000000 < off + len → exec (.flashRead .ridge off len) s = .fault .noSuchFlash))
end

