-- ==== Sys2Proof/Laws/Tables.lean ====
section
/-!
SUPPORT. Laws of the sparse tables that memory, cores, bents and sessions are held in.
-/

namespace Sys2Proof.Machine

variable {α β : Type}

/-- A table reads the value last listed at a key. -/
@[simp] theorem sget_sset_self (k : Nat) (v : α) (m : SMap α) : sget k (sset k v m) = some v := by
  induction m with
  | nil => simp [sset, sget]
  | cons p rest ih =>
    obtain ⟨j, u⟩ := p
    by_cases h1 : k < j
    · simp [sset, h1, sget]
    · by_cases h2 : j = k
      · simp [sset, h2, sget]
      · simp [sset, h1, h2, sget, ih]

/-- Listing one key leaves every other key's entry alone. -/
theorem sget_sset_ne {k j : Nat} (h : k ≠ j) (v : α) (m : SMap α) : sget k (sset j v m) = sget k m := by
  induction m with
  | nil => simp [sset, sget, h.symm]
  | cons p rest ih =>
    obtain ⟨i, u⟩ := p
    by_cases h1 : j < i
    · simp [sset, h1, sget, h.symm]
    · by_cases h2 : i = j
      · subst h2; simp [sset, sget, h.symm]
      · simp only [sset, h1, h2, if_false, sget, ih]

/-- A dropped key is not listed. -/
@[simp] theorem sget_sdel_self (k : Nat) (m : SMap α) : sget k (sdel k m) = none := by
  induction m with
  | nil => simp [sdel, sget]
  | cons p rest ih =>
    obtain ⟨j, u⟩ := p
    by_cases h : j = k <;> simp [sdel, h, sget, ih]

/-- Dropping one key leaves every other key's entry alone. -/
theorem sget_sdel_ne {k j : Nat} (h : k ≠ j) (m : SMap α) : sget k (sdel j m) = sget k m := by
  induction m with
  | nil => simp [sdel]
  | cons p rest ih =>
    obtain ⟨i, u⟩ := p
    by_cases h1 : i = j
    · subst h1; simp [sdel, sget, h.symm, ih]
    · by_cases h2 : i = k
      · subst h2; simp [sdel, h1, sget]
      · simp [sdel, h1, sget, h2, ih]

/-- A table read with a default, at the key just listed. -/
@[simp] theorem sgetD_sset_self (k : Nat) (d v : α) (m : SMap α) : sgetD k d (sset k v m) = v := by simp [sgetD]

/-- A table read with a default, at another key than the one listed. -/
theorem sgetD_sset_ne {k j : Nat} (h : k ≠ j) (d v : α) (m : SMap α) : sgetD k d (sset j v m) = sgetD k d m := by
  simp [sgetD, sget_sset_ne h]

/-- Listing a key twice keeps the later value. -/
@[simp] theorem sset_sset (k : Nat) (u v : α) (m : SMap α) : sset k v (sset k u m) = sset k v m := by
  induction m with
  | nil => simp [sset]
  | cons p rest ih =>
    obtain ⟨j, w⟩ := p
    by_cases h1 : k < j
    · simp [sset, h1]
    · by_cases h2 : j = k
      · simp [sset, h2]
      · simp [sset, h1, h2, ih]

/-- A table whose every entry is changed in the same way reads the changed entry. -/
theorem sget_map (f : α → β) (k : Nat) (m : SMap α) : sget k (m.map (fun p => (p.1, f p.2))) = (sget k m).map f := by
  induction m with
  | nil => simp [sget]
  | cons p rest ih =>
    obtain ⟨j, u⟩ := p
    by_cases h : j = k <;> simp [sget, h, ih]

/-- The same, read with a default that is changed too. -/
theorem sgetD_map (f : α → β) (k : Nat) (d : α) (m : SMap α) :
    sgetD k (f d) (m.map (fun p => (p.1, f p.2))) = f (sgetD k d m) := by
  simp only [sgetD, sget_map]; cases sget k m <;> rfl

/-- A filter by key keeps the entries of the keys it admits. -/
theorem sget_filter_key {q : Nat → Bool} {k : Nat} (h : q k = true) (m : SMap α) :
    sget k (m.filter (fun p => q p.1)) = sget k m := by
  induction m with
  | nil => simp [sget]
  | cons p rest ih =>
    obtain ⟨j, u⟩ := p
    by_cases h1 : j = k
    · subst h1; simp [sget, h]
    · by_cases h2 : q j = true <;> simp [h2, sget, h1, ih]

/-- A filter by key lists none of the keys it refuses. -/
theorem sget_filter_key_none {q : Nat → Bool} {k : Nat} (h : q k = false) (m : SMap α) :
    sget k (m.filter (fun p => q p.1)) = none := by
  induction m with
  | nil => simp [sget]
  | cons p rest ih =>
    obtain ⟨j, u⟩ := p
    by_cases h2 : q j = true
    · have h1 : j ≠ k := fun e => by subst e; simp [h] at h2
      simp [h2, sget, h1, ih]
    · simp [h2, ih]

/-! ### The first of a list -/

/-- The head is taken when it satisfies the test. -/
@[simp] theorem takeFirst_head {p : α → Bool} {x : α} (h : p x = true) (xs : List α) : takeFirst p (x :: xs) = some (x, xs) := by
  simp [takeFirst, h]

/-- Nothing is taken where no element satisfies the test. -/
theorem takeFirst_none {p : α → Bool} {xs : List α} (h : ∀ x ∈ xs, p x = false) : takeFirst p xs = none := by
  induction xs with
  | nil => rfl
  | cons x xs ih =>
    simp only [takeFirst, h x (by simp)]
    simp [ih (fun y hy => h y (by simp [hy]))]

/-! ### Byte order (R11) -/

/-- A byte sequence of `n` bytes. -/
@[simp] theorem toBytes_length (n x : Nat) : (toBytes n x).length = n := by
  induction n generalizing x with
  | zero => rfl
  | succ n ih => simp [toBytes, ih]

/-- The number of the encoding of a number is that number, modulo its width. -/
theorem ofBytes_toBytes (n x : Nat) : ofBytes (toBytes n x) = x % 256 ^ n := by
  induction n generalizing x with
  | zero => simp [toBytes, ofBytes, Nat.mod_one]
  | succ n ih =>
    have h : (BitVec.ofNat 8 x).toNat = x % 256 := BitVec.toNat_ofNat x 8
    rw [toBytes, ofBytes, ih, h, Nat.pow_succ', Nat.mod_mul]

/-- Fitting cuts or fills to the length. -/
@[simp] theorem fitBytes_length (n : Nat) (bs : List Byte) : (fitBytes n bs).length = n := by simp [fitBytes]

/-- Fitting a sequence of that length changes nothing. -/
theorem fitBytes_self {n : Nat} {bs : List Byte} (h : bs.length = n) : fitBytes n bs = bs := by
  subst h; simp [fitBytes]

end Sys2Proof.Machine
end

