-- ==== Sys2Proof/Laws/State.lean ====
section
/-!
SUPPORT. Laws of the state: what each named update leaves of each field, so that no proof unfolds a record update; and what a
core, a bent or a thread reads as after one of them is changed.
-/

namespace Sys2Proof.Machine

/-! ### Outcomes -/

/-- A meaning lifted by `onHw` answers a next state that differs in its hardware part alone. -/
@[simp] theorem onHw_eq (f : Mem → Hw → Hw) (s : State) : onHw f s = .next { s with hw := f s.mem s.hw } := rfl

/-- A meaning lifted by `onMem` answers a next state that differs in memory and hardware alone. -/
@[simp] theorem onMem_eq (f : Mem → Hw → Mem × Hw) (s : State) :
    onMem f s = .next { s with mem := (f s.mem s.hw).1, hw := (f s.mem s.hw).2 } := rfl

/-! ### Updates of the hardware part, field by field -/

@[simp] theorem Hw.setCore_clock (h : Hw) (c : Nat) (k : Core) : (h.setCore c k).clock = h.clock := rfl
@[simp] theorem Hw.setCore_fcyc0 (h : Hw) (c : Nat) (k : Core) : (h.setCore c k).fcyc0 = h.fcyc0 := rfl
@[simp] theorem Hw.setCore_freeCtr (h : Hw) (c : Nat) (k : Core) : (h.setCore c k).freeCtr = h.freeCtr := rfl
@[simp] theorem Hw.setCore_coreDef (h : Hw) (c : Nat) (k : Core) : (h.setCore c k).coreDef = h.coreDef := rfl
@[simp] theorem Hw.setCore_bents (h : Hw) (c : Nat) (k : Core) : (h.setCore c k).bents = h.bents := rfl
@[simp] theorem Hw.setCore_bentDef (h : Hw) (c : Nat) (k : Core) : (h.setCore c k).bentDef = h.bentDef := rfl
@[simp] theorem Hw.setCore_acted (h : Hw) (c : Nat) (k : Core) : (h.setCore c k).acted = h.acted := rfl
@[simp] theorem Hw.setCore_later (h : Hw) (c : Nat) (k : Core) : (h.setCore c k).later = h.later := rfl
@[simp] theorem Hw.setCore_tuples (h : Hw) (c : Nat) (k : Core) : (h.setCore c k).tuples = h.tuples := rfl
@[simp] theorem Hw.setCore_credits (h : Hw) (c : Nat) (k : Core) : (h.setCore c k).credits = h.credits := rfl
@[simp] theorem Hw.setCore_noticesIn (h : Hw) (c : Nat) (k : Core) : (h.setCore c k).noticesIn = h.noticesIn := rfl
@[simp] theorem Hw.setCore_plateCredits (h : Hw) (c : Nat) (k : Core) : (h.setCore c k).plateCredits = h.plateCredits := rfl
@[simp] theorem Hw.setCore_purlins (h : Hw) (c : Nat) (k : Core) : (h.setCore c k).purlins = h.purlins := rfl
@[simp] theorem Hw.setCore_purlinRead (h : Hw) (c : Nat) (k : Core) : (h.setCore c k).purlinRead = h.purlinRead := rfl
@[simp] theorem Hw.setCore_purlinSerial (h : Hw) (c : Nat) (k : Core) : (h.setCore c k).purlinSerial = h.purlinSerial := rfl
@[simp] theorem Hw.setCore_purlinFrom (h : Hw) (c : Nat) (k : Core) : (h.setCore c k).purlinFrom = h.purlinFrom := rfl
@[simp] theorem Hw.setCore_flits (h : Hw) (c : Nat) (k : Core) : (h.setCore c k).flits = h.flits := rfl
@[simp] theorem Hw.setCore_flitSerial (h : Hw) (c : Nat) (k : Core) : (h.setCore c k).flitSerial = h.flitSerial := rfl
@[simp] theorem Hw.setCore_xmWest (h : Hw) (c : Nat) (k : Core) : (h.setCore c k).xmWest = h.xmWest := rfl
@[simp] theorem Hw.setCore_xmEast (h : Hw) (c : Nat) (k : Core) : (h.setCore c k).xmEast = h.xmEast := rfl
@[simp] theorem Hw.setCore_pmCommits (h : Hw) (c : Nat) (k : Core) : (h.setCore c k).pmCommits = h.pmCommits := rfl
@[simp] theorem Hw.setCore_poison (h : Hw) (c : Nat) (k : Core) : (h.setCore c k).poison = h.poison := rfl
@[simp] theorem Hw.setCore_debug (h : Hw) (c : Nat) (k : Core) : (h.setCore c k).debug = h.debug := rfl
@[simp] theorem Hw.setCore_irqPend (h : Hw) (c : Nat) (k : Core) : (h.setCore c k).irqPend = h.irqPend := rfl
@[simp] theorem Hw.setCore_endNotices (h : Hw) (c : Nat) (k : Core) : (h.setCore c k).endNotices = h.endNotices := rfl
@[simp] theorem Hw.setCore_stillReports (h : Hw) (c : Nat) (k : Core) : (h.setCore c k).stillReports = h.stillReports := rfl
@[simp] theorem Hw.setCore_wardenAcks (h : Hw) (c : Nat) (k : Core) : (h.setCore c k).wardenAcks = h.wardenAcks := rfl
@[simp] theorem Hw.setCore_links (h : Hw) (c : Nat) (k : Core) : (h.setCore c k).links = h.links := rfl
@[simp] theorem Hw.setCore_recsWest (h : Hw) (c : Nat) (k : Core) : (h.setCore c k).recsWest = h.recsWest := rfl
@[simp] theorem Hw.setCore_recsEast (h : Hw) (c : Nat) (k : Core) : (h.setCore c k).recsEast = h.recsEast := rfl
@[simp] theorem Hw.setCore_acksIn (h : Hw) (c : Nat) (k : Core) : (h.setCore c k).acksIn = h.acksIn := rfl
@[simp] theorem Hw.setCore_dom (h : Hw) (c : Nat) (k : Core) : (h.setCore c k).dom = h.dom := rfl
@[simp] theorem Hw.setCore_arbAt (h : Hw) (c : Nat) (k : Core) : (h.setCore c k).arbAt = h.arbAt := rfl
@[simp] theorem Hw.setCore_le (h : Hw) (c : Nat) (k : Core) : (h.setCore c k).le = h.le := rfl
@[simp] theorem Hw.setCore_net (h : Hw) (c : Nat) (k : Core) : (h.setCore c k).net = h.net := rfl
@[simp] theorem Hw.setCore_tmpEpochs (h : Hw) (c : Nat) (k : Core) : (h.setCore c k).tmpEpochs = h.tmpEpochs := rfl
@[simp] theorem Hw.setCore_ubtEpochs (h : Hw) (c : Nat) (k : Core) : (h.setCore c k).ubtEpochs = h.ubtEpochs := rfl
@[simp] theorem Hw.setCore_devFrozen (h : Hw) (c : Nat) (k : Core) : (h.setCore c k).devFrozen = h.devFrozen := rfl
@[simp] theorem Hw.setCore_blocksOut (h : Hw) (c : Nat) (k : Core) : (h.setCore c k).blocksOut = h.blocksOut := rfl
@[simp] theorem Hw.setCore_ctlRead (h : Hw) (c : Nat) (k : Core) : (h.setCore c k).ctlRead = h.ctlRead := rfl
@[simp] theorem Hw.setCore_irq (h : Hw) (c : Nat) (k : Core) : (h.setCore c k).irq = h.irq := rfl
@[simp] theorem Hw.setCore_conf (h : Hw) (c : Nat) (k : Core) : (h.setCore c k).conf = h.conf := rfl
@[simp] theorem Hw.setCore_sill (h : Hw) (c : Nat) (k : Core) : (h.setCore c k).sill = h.sill := rfl
@[simp] theorem Hw.setCore_board (h : Hw) (c : Nat) (k : Core) : (h.setCore c k).board = h.board := rfl
@[simp] theorem Hw.setCore_tap (h : Hw) (c : Nat) (k : Core) : (h.setCore c k).tap = h.tap := rfl
@[simp] theorem Hw.setCore_firm (h : Hw) (c : Nat) (k : Core) : (h.setCore c k).firm = h.firm := rfl
@[simp] theorem Hw.setCore_pole (h : Hw) (c : Nat) (k : Core) : (h.setCore c k).pole = h.pole := rfl
@[simp] theorem Hw.setCore_resets (h : Hw) (c : Nat) (k : Core) : (h.setCore c k).resets = h.resets := rfl
@[simp] theorem Hw.setCore_postMortem (h : Hw) (c : Nat) (k : Core) : (h.setCore c k).postMortem = h.postMortem := rfl
@[simp] theorem Hw.setCore_incAt (h : Hw) (c : Nat) (k : Core) : (h.setCore c k).incAt = h.incAt := rfl

@[simp] theorem Hw.updCore_clock (h : Hw) (c : Nat) (f : Core → Core) : (h.updCore c f).clock = h.clock := rfl
@[simp] theorem Hw.updCore_fcyc0 (h : Hw) (c : Nat) (f : Core → Core) : (h.updCore c f).fcyc0 = h.fcyc0 := rfl
@[simp] theorem Hw.updCore_freeCtr (h : Hw) (c : Nat) (f : Core → Core) : (h.updCore c f).freeCtr = h.freeCtr := rfl
@[simp] theorem Hw.updCore_coreDef (h : Hw) (c : Nat) (f : Core → Core) : (h.updCore c f).coreDef = h.coreDef := rfl
@[simp] theorem Hw.updCore_bents (h : Hw) (c : Nat) (f : Core → Core) : (h.updCore c f).bents = h.bents := rfl
@[simp] theorem Hw.updCore_bentDef (h : Hw) (c : Nat) (f : Core → Core) : (h.updCore c f).bentDef = h.bentDef := rfl
@[simp] theorem Hw.updCore_acted (h : Hw) (c : Nat) (f : Core → Core) : (h.updCore c f).acted = h.acted := rfl
@[simp] theorem Hw.updCore_later (h : Hw) (c : Nat) (f : Core → Core) : (h.updCore c f).later = h.later := rfl
@[simp] theorem Hw.updCore_tuples (h : Hw) (c : Nat) (f : Core → Core) : (h.updCore c f).tuples = h.tuples := rfl
@[simp] theorem Hw.updCore_credits (h : Hw) (c : Nat) (f : Core → Core) : (h.updCore c f).credits = h.credits := rfl
@[simp] theorem Hw.updCore_noticesIn (h : Hw) (c : Nat) (f : Core → Core) : (h.updCore c f).noticesIn = h.noticesIn := rfl
@[simp] theorem Hw.updCore_plateCredits (h : Hw) (c : Nat) (f : Core → Core) : (h.updCore c f).plateCredits = h.plateCredits := rfl
@[simp] theorem Hw.updCore_purlins (h : Hw) (c : Nat) (f : Core → Core) : (h.updCore c f).purlins = h.purlins := rfl
@[simp] theorem Hw.updCore_purlinRead (h : Hw) (c : Nat) (f : Core → Core) : (h.updCore c f).purlinRead = h.purlinRead := rfl
@[simp] theorem Hw.updCore_purlinSerial (h : Hw) (c : Nat) (f : Core → Core) : (h.updCore c f).purlinSerial = h.purlinSerial := rfl
@[simp] theorem Hw.updCore_purlinFrom (h : Hw) (c : Nat) (f : Core → Core) : (h.updCore c f).purlinFrom = h.purlinFrom := rfl
@[simp] theorem Hw.updCore_flits (h : Hw) (c : Nat) (f : Core → Core) : (h.updCore c f).flits = h.flits := rfl
@[simp] theorem Hw.updCore_flitSerial (h : Hw) (c : Nat) (f : Core → Core) : (h.updCore c f).flitSerial = h.flitSerial := rfl
@[simp] theorem Hw.updCore_xmWest (h : Hw) (c : Nat) (f : Core → Core) : (h.updCore c f).xmWest = h.xmWest := rfl
@[simp] theorem Hw.updCore_xmEast (h : Hw) (c : Nat) (f : Core → Core) : (h.updCore c f).xmEast = h.xmEast := rfl
@[simp] theorem Hw.updCore_pmCommits (h : Hw) (c : Nat) (f : Core → Core) : (h.updCore c f).pmCommits = h.pmCommits := rfl
@[simp] theorem Hw.updCore_poison (h : Hw) (c : Nat) (f : Core → Core) : (h.updCore c f).poison = h.poison := rfl
@[simp] theorem Hw.updCore_debug (h : Hw) (c : Nat) (f : Core → Core) : (h.updCore c f).debug = h.debug := rfl
@[simp] theorem Hw.updCore_irqPend (h : Hw) (c : Nat) (f : Core → Core) : (h.updCore c f).irqPend = h.irqPend := rfl
@[simp] theorem Hw.updCore_endNotices (h : Hw) (c : Nat) (f : Core → Core) : (h.updCore c f).endNotices = h.endNotices := rfl
@[simp] theorem Hw.updCore_stillReports (h : Hw) (c : Nat) (f : Core → Core) : (h.updCore c f).stillReports = h.stillReports := rfl
@[simp] theorem Hw.updCore_wardenAcks (h : Hw) (c : Nat) (f : Core → Core) : (h.updCore c f).wardenAcks = h.wardenAcks := rfl
@[simp] theorem Hw.updCore_links (h : Hw) (c : Nat) (f : Core → Core) : (h.updCore c f).links = h.links := rfl
@[simp] theorem Hw.updCore_recsWest (h : Hw) (c : Nat) (f : Core → Core) : (h.updCore c f).recsWest = h.recsWest := rfl
@[simp] theorem Hw.updCore_recsEast (h : Hw) (c : Nat) (f : Core → Core) : (h.updCore c f).recsEast = h.recsEast := rfl
@[simp] theorem Hw.updCore_acksIn (h : Hw) (c : Nat) (f : Core → Core) : (h.updCore c f).acksIn = h.acksIn := rfl
@[simp] theorem Hw.updCore_dom (h : Hw) (c : Nat) (f : Core → Core) : (h.updCore c f).dom = h.dom := rfl
@[simp] theorem Hw.updCore_arbAt (h : Hw) (c : Nat) (f : Core → Core) : (h.updCore c f).arbAt = h.arbAt := rfl
@[simp] theorem Hw.updCore_le (h : Hw) (c : Nat) (f : Core → Core) : (h.updCore c f).le = h.le := rfl
@[simp] theorem Hw.updCore_net (h : Hw) (c : Nat) (f : Core → Core) : (h.updCore c f).net = h.net := rfl
@[simp] theorem Hw.updCore_tmpEpochs (h : Hw) (c : Nat) (f : Core → Core) : (h.updCore c f).tmpEpochs = h.tmpEpochs := rfl
@[simp] theorem Hw.updCore_ubtEpochs (h : Hw) (c : Nat) (f : Core → Core) : (h.updCore c f).ubtEpochs = h.ubtEpochs := rfl
@[simp] theorem Hw.updCore_devFrozen (h : Hw) (c : Nat) (f : Core → Core) : (h.updCore c f).devFrozen = h.devFrozen := rfl
@[simp] theorem Hw.updCore_blocksOut (h : Hw) (c : Nat) (f : Core → Core) : (h.updCore c f).blocksOut = h.blocksOut := rfl
@[simp] theorem Hw.updCore_ctlRead (h : Hw) (c : Nat) (f : Core → Core) : (h.updCore c f).ctlRead = h.ctlRead := rfl
@[simp] theorem Hw.updCore_irq (h : Hw) (c : Nat) (f : Core → Core) : (h.updCore c f).irq = h.irq := rfl
@[simp] theorem Hw.updCore_conf (h : Hw) (c : Nat) (f : Core → Core) : (h.updCore c f).conf = h.conf := rfl
@[simp] theorem Hw.updCore_sill (h : Hw) (c : Nat) (f : Core → Core) : (h.updCore c f).sill = h.sill := rfl
@[simp] theorem Hw.updCore_board (h : Hw) (c : Nat) (f : Core → Core) : (h.updCore c f).board = h.board := rfl
@[simp] theorem Hw.updCore_tap (h : Hw) (c : Nat) (f : Core → Core) : (h.updCore c f).tap = h.tap := rfl
@[simp] theorem Hw.updCore_firm (h : Hw) (c : Nat) (f : Core → Core) : (h.updCore c f).firm = h.firm := rfl
@[simp] theorem Hw.updCore_pole (h : Hw) (c : Nat) (f : Core → Core) : (h.updCore c f).pole = h.pole := rfl
@[simp] theorem Hw.updCore_resets (h : Hw) (c : Nat) (f : Core → Core) : (h.updCore c f).resets = h.resets := rfl
@[simp] theorem Hw.updCore_postMortem (h : Hw) (c : Nat) (f : Core → Core) : (h.updCore c f).postMortem = h.postMortem := rfl
@[simp] theorem Hw.updCore_incAt (h : Hw) (c : Nat) (f : Core → Core) : (h.updCore c f).incAt = h.incAt := rfl

@[simp] theorem Hw.updThread_clock (h : Hw) (w : Who) (f : Thread → Thread) : (h.updThread w f).clock = h.clock := rfl
@[simp] theorem Hw.updThread_fcyc0 (h : Hw) (w : Who) (f : Thread → Thread) : (h.updThread w f).fcyc0 = h.fcyc0 := rfl
@[simp] theorem Hw.updThread_freeCtr (h : Hw) (w : Who) (f : Thread → Thread) : (h.updThread w f).freeCtr = h.freeCtr := rfl
@[simp] theorem Hw.updThread_coreDef (h : Hw) (w : Who) (f : Thread → Thread) : (h.updThread w f).coreDef = h.coreDef := rfl
@[simp] theorem Hw.updThread_bents (h : Hw) (w : Who) (f : Thread → Thread) : (h.updThread w f).bents = h.bents := rfl
@[simp] theorem Hw.updThread_bentDef (h : Hw) (w : Who) (f : Thread → Thread) : (h.updThread w f).bentDef = h.bentDef := rfl
@[simp] theorem Hw.updThread_acted (h : Hw) (w : Who) (f : Thread → Thread) : (h.updThread w f).acted = h.acted := rfl
@[simp] theorem Hw.updThread_later (h : Hw) (w : Who) (f : Thread → Thread) : (h.updThread w f).later = h.later := rfl
@[simp] theorem Hw.updThread_tuples (h : Hw) (w : Who) (f : Thread → Thread) : (h.updThread w f).tuples = h.tuples := rfl
@[simp] theorem Hw.updThread_credits (h : Hw) (w : Who) (f : Thread → Thread) : (h.updThread w f).credits = h.credits := rfl
@[simp] theorem Hw.updThread_noticesIn (h : Hw) (w : Who) (f : Thread → Thread) : (h.updThread w f).noticesIn = h.noticesIn := rfl
@[simp] theorem Hw.updThread_plateCredits (h : Hw) (w : Who) (f : Thread → Thread) : (h.updThread w f).plateCredits = h.plateCredits := rfl
@[simp] theorem Hw.updThread_purlins (h : Hw) (w : Who) (f : Thread → Thread) : (h.updThread w f).purlins = h.purlins := rfl
@[simp] theorem Hw.updThread_purlinRead (h : Hw) (w : Who) (f : Thread → Thread) : (h.updThread w f).purlinRead = h.purlinRead := rfl
@[simp] theorem Hw.updThread_purlinSerial (h : Hw) (w : Who) (f : Thread → Thread) : (h.updThread w f).purlinSerial = h.purlinSerial := rfl
@[simp] theorem Hw.updThread_purlinFrom (h : Hw) (w : Who) (f : Thread → Thread) : (h.updThread w f).purlinFrom = h.purlinFrom := rfl
@[simp] theorem Hw.updThread_flits (h : Hw) (w : Who) (f : Thread → Thread) : (h.updThread w f).flits = h.flits := rfl
@[simp] theorem Hw.updThread_flitSerial (h : Hw) (w : Who) (f : Thread → Thread) : (h.updThread w f).flitSerial = h.flitSerial := rfl
@[simp] theorem Hw.updThread_xmWest (h : Hw) (w : Who) (f : Thread → Thread) : (h.updThread w f).xmWest = h.xmWest := rfl
@[simp] theorem Hw.updThread_xmEast (h : Hw) (w : Who) (f : Thread → Thread) : (h.updThread w f).xmEast = h.xmEast := rfl
@[simp] theorem Hw.updThread_pmCommits (h : Hw) (w : Who) (f : Thread → Thread) : (h.updThread w f).pmCommits = h.pmCommits := rfl
@[simp] theorem Hw.updThread_poison (h : Hw) (w : Who) (f : Thread → Thread) : (h.updThread w f).poison = h.poison := rfl
@[simp] theorem Hw.updThread_debug (h : Hw) (w : Who) (f : Thread → Thread) : (h.updThread w f).debug = h.debug := rfl
@[simp] theorem Hw.updThread_irqPend (h : Hw) (w : Who) (f : Thread → Thread) : (h.updThread w f).irqPend = h.irqPend := rfl
@[simp] theorem Hw.updThread_endNotices (h : Hw) (w : Who) (f : Thread → Thread) : (h.updThread w f).endNotices = h.endNotices := rfl
@[simp] theorem Hw.updThread_stillReports (h : Hw) (w : Who) (f : Thread → Thread) : (h.updThread w f).stillReports = h.stillReports := rfl
@[simp] theorem Hw.updThread_wardenAcks (h : Hw) (w : Who) (f : Thread → Thread) : (h.updThread w f).wardenAcks = h.wardenAcks := rfl
@[simp] theorem Hw.updThread_links (h : Hw) (w : Who) (f : Thread → Thread) : (h.updThread w f).links = h.links := rfl
@[simp] theorem Hw.updThread_recsWest (h : Hw) (w : Who) (f : Thread → Thread) : (h.updThread w f).recsWest = h.recsWest := rfl
@[simp] theorem Hw.updThread_recsEast (h : Hw) (w : Who) (f : Thread → Thread) : (h.updThread w f).recsEast = h.recsEast := rfl
@[simp] theorem Hw.updThread_acksIn (h : Hw) (w : Who) (f : Thread → Thread) : (h.updThread w f).acksIn = h.acksIn := rfl
@[simp] theorem Hw.updThread_dom (h : Hw) (w : Who) (f : Thread → Thread) : (h.updThread w f).dom = h.dom := rfl
@[simp] theorem Hw.updThread_arbAt (h : Hw) (w : Who) (f : Thread → Thread) : (h.updThread w f).arbAt = h.arbAt := rfl
@[simp] theorem Hw.updThread_le (h : Hw) (w : Who) (f : Thread → Thread) : (h.updThread w f).le = h.le := rfl
@[simp] theorem Hw.updThread_net (h : Hw) (w : Who) (f : Thread → Thread) : (h.updThread w f).net = h.net := rfl
@[simp] theorem Hw.updThread_tmpEpochs (h : Hw) (w : Who) (f : Thread → Thread) : (h.updThread w f).tmpEpochs = h.tmpEpochs := rfl
@[simp] theorem Hw.updThread_ubtEpochs (h : Hw) (w : Who) (f : Thread → Thread) : (h.updThread w f).ubtEpochs = h.ubtEpochs := rfl
@[simp] theorem Hw.updThread_devFrozen (h : Hw) (w : Who) (f : Thread → Thread) : (h.updThread w f).devFrozen = h.devFrozen := rfl
@[simp] theorem Hw.updThread_blocksOut (h : Hw) (w : Who) (f : Thread → Thread) : (h.updThread w f).blocksOut = h.blocksOut := rfl
@[simp] theorem Hw.updThread_ctlRead (h : Hw) (w : Who) (f : Thread → Thread) : (h.updThread w f).ctlRead = h.ctlRead := rfl
@[simp] theorem Hw.updThread_irq (h : Hw) (w : Who) (f : Thread → Thread) : (h.updThread w f).irq = h.irq := rfl
@[simp] theorem Hw.updThread_conf (h : Hw) (w : Who) (f : Thread → Thread) : (h.updThread w f).conf = h.conf := rfl
@[simp] theorem Hw.updThread_sill (h : Hw) (w : Who) (f : Thread → Thread) : (h.updThread w f).sill = h.sill := rfl
@[simp] theorem Hw.updThread_board (h : Hw) (w : Who) (f : Thread → Thread) : (h.updThread w f).board = h.board := rfl
@[simp] theorem Hw.updThread_tap (h : Hw) (w : Who) (f : Thread → Thread) : (h.updThread w f).tap = h.tap := rfl
@[simp] theorem Hw.updThread_firm (h : Hw) (w : Who) (f : Thread → Thread) : (h.updThread w f).firm = h.firm := rfl
@[simp] theorem Hw.updThread_pole (h : Hw) (w : Who) (f : Thread → Thread) : (h.updThread w f).pole = h.pole := rfl
@[simp] theorem Hw.updThread_resets (h : Hw) (w : Who) (f : Thread → Thread) : (h.updThread w f).resets = h.resets := rfl
@[simp] theorem Hw.updThread_postMortem (h : Hw) (w : Who) (f : Thread → Thread) : (h.updThread w f).postMortem = h.postMortem := rfl
@[simp] theorem Hw.updThread_incAt (h : Hw) (w : Who) (f : Thread → Thread) : (h.updThread w f).incAt = h.incAt := rfl

@[simp] theorem Hw.updAllCores_clock (h : Hw) (f : Core → Core) : (h.updAllCores f).clock = h.clock := rfl
@[simp] theorem Hw.updAllCores_fcyc0 (h : Hw) (f : Core → Core) : (h.updAllCores f).fcyc0 = h.fcyc0 := rfl
@[simp] theorem Hw.updAllCores_freeCtr (h : Hw) (f : Core → Core) : (h.updAllCores f).freeCtr = h.freeCtr := rfl
@[simp] theorem Hw.updAllCores_bents (h : Hw) (f : Core → Core) : (h.updAllCores f).bents = h.bents := rfl
@[simp] theorem Hw.updAllCores_bentDef (h : Hw) (f : Core → Core) : (h.updAllCores f).bentDef = h.bentDef := rfl
@[simp] theorem Hw.updAllCores_acted (h : Hw) (f : Core → Core) : (h.updAllCores f).acted = h.acted := rfl
@[simp] theorem Hw.updAllCores_later (h : Hw) (f : Core → Core) : (h.updAllCores f).later = h.later := rfl
@[simp] theorem Hw.updAllCores_tuples (h : Hw) (f : Core → Core) : (h.updAllCores f).tuples = h.tuples := rfl
@[simp] theorem Hw.updAllCores_credits (h : Hw) (f : Core → Core) : (h.updAllCores f).credits = h.credits := rfl
@[simp] theorem Hw.updAllCores_noticesIn (h : Hw) (f : Core → Core) : (h.updAllCores f).noticesIn = h.noticesIn := rfl
@[simp] theorem Hw.updAllCores_plateCredits (h : Hw) (f : Core → Core) : (h.updAllCores f).plateCredits = h.plateCredits := rfl
@[simp] theorem Hw.updAllCores_purlins (h : Hw) (f : Core → Core) : (h.updAllCores f).purlins = h.purlins := rfl
@[simp] theorem Hw.updAllCores_purlinRead (h : Hw) (f : Core → Core) : (h.updAllCores f).purlinRead = h.purlinRead := rfl
@[simp] theorem Hw.updAllCores_purlinSerial (h : Hw) (f : Core → Core) : (h.updAllCores f).purlinSerial = h.purlinSerial := rfl
@[simp] theorem Hw.updAllCores_purlinFrom (h : Hw) (f : Core → Core) : (h.updAllCores f).purlinFrom = h.purlinFrom := rfl
@[simp] theorem Hw.updAllCores_flits (h : Hw) (f : Core → Core) : (h.updAllCores f).flits = h.flits := rfl
@[simp] theorem Hw.updAllCores_flitSerial (h : Hw) (f : Core → Core) : (h.updAllCores f).flitSerial = h.flitSerial := rfl
@[simp] theorem Hw.updAllCores_xmWest (h : Hw) (f : Core → Core) : (h.updAllCores f).xmWest = h.xmWest := rfl
@[simp] theorem Hw.updAllCores_xmEast (h : Hw) (f : Core → Core) : (h.updAllCores f).xmEast = h.xmEast := rfl
@[simp] theorem Hw.updAllCores_pmCommits (h : Hw) (f : Core → Core) : (h.updAllCores f).pmCommits = h.pmCommits := rfl
@[simp] theorem Hw.updAllCores_poison (h : Hw) (f : Core → Core) : (h.updAllCores f).poison = h.poison := rfl
@[simp] theorem Hw.updAllCores_debug (h : Hw) (f : Core → Core) : (h.updAllCores f).debug = h.debug := rfl
@[simp] theorem Hw.updAllCores_irqPend (h : Hw) (f : Core → Core) : (h.updAllCores f).irqPend = h.irqPend := rfl
@[simp] theorem Hw.updAllCores_endNotices (h : Hw) (f : Core → Core) : (h.updAllCores f).endNotices = h.endNotices := rfl
@[simp] theorem Hw.updAllCores_stillReports (h : Hw) (f : Core → Core) : (h.updAllCores f).stillReports = h.stillReports := rfl
@[simp] theorem Hw.updAllCores_wardenAcks (h : Hw) (f : Core → Core) : (h.updAllCores f).wardenAcks = h.wardenAcks := rfl
@[simp] theorem Hw.updAllCores_links (h : Hw) (f : Core → Core) : (h.updAllCores f).links = h.links := rfl
@[simp] theorem Hw.updAllCores_recsWest (h : Hw) (f : Core → Core) : (h.updAllCores f).recsWest = h.recsWest := rfl
@[simp] theorem Hw.updAllCores_recsEast (h : Hw) (f : Core → Core) : (h.updAllCores f).recsEast = h.recsEast := rfl
@[simp] theorem Hw.updAllCores_acksIn (h : Hw) (f : Core → Core) : (h.updAllCores f).acksIn = h.acksIn := rfl
@[simp] theorem Hw.updAllCores_dom (h : Hw) (f : Core → Core) : (h.updAllCores f).dom = h.dom := rfl
@[simp] theorem Hw.updAllCores_arbAt (h : Hw) (f : Core → Core) : (h.updAllCores f).arbAt = h.arbAt := rfl
@[simp] theorem Hw.updAllCores_le (h : Hw) (f : Core → Core) : (h.updAllCores f).le = h.le := rfl
@[simp] theorem Hw.updAllCores_net (h : Hw) (f : Core → Core) : (h.updAllCores f).net = h.net := rfl
@[simp] theorem Hw.updAllCores_tmpEpochs (h : Hw) (f : Core → Core) : (h.updAllCores f).tmpEpochs = h.tmpEpochs := rfl
@[simp] theorem Hw.updAllCores_ubtEpochs (h : Hw) (f : Core → Core) : (h.updAllCores f).ubtEpochs = h.ubtEpochs := rfl
@[simp] theorem Hw.updAllCores_devFrozen (h : Hw) (f : Core → Core) : (h.updAllCores f).devFrozen = h.devFrozen := rfl
@[simp] theorem Hw.updAllCores_blocksOut (h : Hw) (f : Core → Core) : (h.updAllCores f).blocksOut = h.blocksOut := rfl
@[simp] theorem Hw.updAllCores_ctlRead (h : Hw) (f : Core → Core) : (h.updAllCores f).ctlRead = h.ctlRead := rfl
@[simp] theorem Hw.updAllCores_irq (h : Hw) (f : Core → Core) : (h.updAllCores f).irq = h.irq := rfl
@[simp] theorem Hw.updAllCores_conf (h : Hw) (f : Core → Core) : (h.updAllCores f).conf = h.conf := rfl
@[simp] theorem Hw.updAllCores_sill (h : Hw) (f : Core → Core) : (h.updAllCores f).sill = h.sill := rfl
@[simp] theorem Hw.updAllCores_board (h : Hw) (f : Core → Core) : (h.updAllCores f).board = h.board := rfl
@[simp] theorem Hw.updAllCores_tap (h : Hw) (f : Core → Core) : (h.updAllCores f).tap = h.tap := rfl
@[simp] theorem Hw.updAllCores_firm (h : Hw) (f : Core → Core) : (h.updAllCores f).firm = h.firm := rfl
@[simp] theorem Hw.updAllCores_pole (h : Hw) (f : Core → Core) : (h.updAllCores f).pole = h.pole := rfl
@[simp] theorem Hw.updAllCores_resets (h : Hw) (f : Core → Core) : (h.updAllCores f).resets = h.resets := rfl
@[simp] theorem Hw.updAllCores_postMortem (h : Hw) (f : Core → Core) : (h.updAllCores f).postMortem = h.postMortem := rfl
@[simp] theorem Hw.updAllCores_incAt (h : Hw) (f : Core → Core) : (h.updAllCores f).incAt = h.incAt := rfl

@[simp] theorem Hw.setBent_clock (h : Hw) (b : Nat) (x : Bent) : (h.setBent b x).clock = h.clock := rfl
@[simp] theorem Hw.setBent_fcyc0 (h : Hw) (b : Nat) (x : Bent) : (h.setBent b x).fcyc0 = h.fcyc0 := rfl
@[simp] theorem Hw.setBent_freeCtr (h : Hw) (b : Nat) (x : Bent) : (h.setBent b x).freeCtr = h.freeCtr := rfl
@[simp] theorem Hw.setBent_cores (h : Hw) (b : Nat) (x : Bent) : (h.setBent b x).cores = h.cores := rfl
@[simp] theorem Hw.setBent_coreDef (h : Hw) (b : Nat) (x : Bent) : (h.setBent b x).coreDef = h.coreDef := rfl
@[simp] theorem Hw.setBent_bentDef (h : Hw) (b : Nat) (x : Bent) : (h.setBent b x).bentDef = h.bentDef := rfl
@[simp] theorem Hw.setBent_acted (h : Hw) (b : Nat) (x : Bent) : (h.setBent b x).acted = h.acted := rfl
@[simp] theorem Hw.setBent_later (h : Hw) (b : Nat) (x : Bent) : (h.setBent b x).later = h.later := rfl
@[simp] theorem Hw.setBent_tuples (h : Hw) (b : Nat) (x : Bent) : (h.setBent b x).tuples = h.tuples := rfl
@[simp] theorem Hw.setBent_credits (h : Hw) (b : Nat) (x : Bent) : (h.setBent b x).credits = h.credits := rfl
@[simp] theorem Hw.setBent_noticesIn (h : Hw) (b : Nat) (x : Bent) : (h.setBent b x).noticesIn = h.noticesIn := rfl
@[simp] theorem Hw.setBent_plateCredits (h : Hw) (b : Nat) (x : Bent) : (h.setBent b x).plateCredits = h.plateCredits := rfl
@[simp] theorem Hw.setBent_purlins (h : Hw) (b : Nat) (x : Bent) : (h.setBent b x).purlins = h.purlins := rfl
@[simp] theorem Hw.setBent_purlinRead (h : Hw) (b : Nat) (x : Bent) : (h.setBent b x).purlinRead = h.purlinRead := rfl
@[simp] theorem Hw.setBent_purlinSerial (h : Hw) (b : Nat) (x : Bent) : (h.setBent b x).purlinSerial = h.purlinSerial := rfl
@[simp] theorem Hw.setBent_purlinFrom (h : Hw) (b : Nat) (x : Bent) : (h.setBent b x).purlinFrom = h.purlinFrom := rfl
@[simp] theorem Hw.setBent_flits (h : Hw) (b : Nat) (x : Bent) : (h.setBent b x).flits = h.flits := rfl
@[simp] theorem Hw.setBent_flitSerial (h : Hw) (b : Nat) (x : Bent) : (h.setBent b x).flitSerial = h.flitSerial := rfl
@[simp] theorem Hw.setBent_xmWest (h : Hw) (b : Nat) (x : Bent) : (h.setBent b x).xmWest = h.xmWest := rfl
@[simp] theorem Hw.setBent_xmEast (h : Hw) (b : Nat) (x : Bent) : (h.setBent b x).xmEast = h.xmEast := rfl
@[simp] theorem Hw.setBent_pmCommits (h : Hw) (b : Nat) (x : Bent) : (h.setBent b x).pmCommits = h.pmCommits := rfl
@[simp] theorem Hw.setBent_poison (h : Hw) (b : Nat) (x : Bent) : (h.setBent b x).poison = h.poison := rfl
@[simp] theorem Hw.setBent_debug (h : Hw) (b : Nat) (x : Bent) : (h.setBent b x).debug = h.debug := rfl
@[simp] theorem Hw.setBent_irqPend (h : Hw) (b : Nat) (x : Bent) : (h.setBent b x).irqPend = h.irqPend := rfl
@[simp] theorem Hw.setBent_endNotices (h : Hw) (b : Nat) (x : Bent) : (h.setBent b x).endNotices = h.endNotices := rfl
@[simp] theorem Hw.setBent_stillReports (h : Hw) (b : Nat) (x : Bent) : (h.setBent b x).stillReports = h.stillReports := rfl
@[simp] theorem Hw.setBent_wardenAcks (h : Hw) (b : Nat) (x : Bent) : (h.setBent b x).wardenAcks = h.wardenAcks := rfl
@[simp] theorem Hw.setBent_links (h : Hw) (b : Nat) (x : Bent) : (h.setBent b x).links = h.links := rfl
@[simp] theorem Hw.setBent_recsWest (h : Hw) (b : Nat) (x : Bent) : (h.setBent b x).recsWest = h.recsWest := rfl
@[simp] theorem Hw.setBent_recsEast (h : Hw) (b : Nat) (x : Bent) : (h.setBent b x).recsEast = h.recsEast := rfl
@[simp] theorem Hw.setBent_acksIn (h : Hw) (b : Nat) (x : Bent) : (h.setBent b x).acksIn = h.acksIn := rfl
@[simp] theorem Hw.setBent_dom (h : Hw) (b : Nat) (x : Bent) : (h.setBent b x).dom = h.dom := rfl
@[simp] theorem Hw.setBent_arbAt (h : Hw) (b : Nat) (x : Bent) : (h.setBent b x).arbAt = h.arbAt := rfl
@[simp] theorem Hw.setBent_le (h : Hw) (b : Nat) (x : Bent) : (h.setBent b x).le = h.le := rfl
@[simp] theorem Hw.setBent_net (h : Hw) (b : Nat) (x : Bent) : (h.setBent b x).net = h.net := rfl
@[simp] theorem Hw.setBent_tmpEpochs (h : Hw) (b : Nat) (x : Bent) : (h.setBent b x).tmpEpochs = h.tmpEpochs := rfl
@[simp] theorem Hw.setBent_ubtEpochs (h : Hw) (b : Nat) (x : Bent) : (h.setBent b x).ubtEpochs = h.ubtEpochs := rfl
@[simp] theorem Hw.setBent_devFrozen (h : Hw) (b : Nat) (x : Bent) : (h.setBent b x).devFrozen = h.devFrozen := rfl
@[simp] theorem Hw.setBent_blocksOut (h : Hw) (b : Nat) (x : Bent) : (h.setBent b x).blocksOut = h.blocksOut := rfl
@[simp] theorem Hw.setBent_ctlRead (h : Hw) (b : Nat) (x : Bent) : (h.setBent b x).ctlRead = h.ctlRead := rfl
@[simp] theorem Hw.setBent_irq (h : Hw) (b : Nat) (x : Bent) : (h.setBent b x).irq = h.irq := rfl
@[simp] theorem Hw.setBent_conf (h : Hw) (b : Nat) (x : Bent) : (h.setBent b x).conf = h.conf := rfl
@[simp] theorem Hw.setBent_sill (h : Hw) (b : Nat) (x : Bent) : (h.setBent b x).sill = h.sill := rfl
@[simp] theorem Hw.setBent_board (h : Hw) (b : Nat) (x : Bent) : (h.setBent b x).board = h.board := rfl
@[simp] theorem Hw.setBent_tap (h : Hw) (b : Nat) (x : Bent) : (h.setBent b x).tap = h.tap := rfl
@[simp] theorem Hw.setBent_firm (h : Hw) (b : Nat) (x : Bent) : (h.setBent b x).firm = h.firm := rfl
@[simp] theorem Hw.setBent_pole (h : Hw) (b : Nat) (x : Bent) : (h.setBent b x).pole = h.pole := rfl
@[simp] theorem Hw.setBent_resets (h : Hw) (b : Nat) (x : Bent) : (h.setBent b x).resets = h.resets := rfl
@[simp] theorem Hw.setBent_postMortem (h : Hw) (b : Nat) (x : Bent) : (h.setBent b x).postMortem = h.postMortem := rfl
@[simp] theorem Hw.setBent_incAt (h : Hw) (b : Nat) (x : Bent) : (h.setBent b x).incAt = h.incAt := rfl

@[simp] theorem Hw.updBent_clock (h : Hw) (b : Nat) (f : Bent → Bent) : (h.updBent b f).clock = h.clock := rfl
@[simp] theorem Hw.updBent_fcyc0 (h : Hw) (b : Nat) (f : Bent → Bent) : (h.updBent b f).fcyc0 = h.fcyc0 := rfl
@[simp] theorem Hw.updBent_freeCtr (h : Hw) (b : Nat) (f : Bent → Bent) : (h.updBent b f).freeCtr = h.freeCtr := rfl
@[simp] theorem Hw.updBent_cores (h : Hw) (b : Nat) (f : Bent → Bent) : (h.updBent b f).cores = h.cores := rfl
@[simp] theorem Hw.updBent_coreDef (h : Hw) (b : Nat) (f : Bent → Bent) : (h.updBent b f).coreDef = h.coreDef := rfl
@[simp] theorem Hw.updBent_bentDef (h : Hw) (b : Nat) (f : Bent → Bent) : (h.updBent b f).bentDef = h.bentDef := rfl
@[simp] theorem Hw.updBent_acted (h : Hw) (b : Nat) (f : Bent → Bent) : (h.updBent b f).acted = h.acted := rfl
@[simp] theorem Hw.updBent_later (h : Hw) (b : Nat) (f : Bent → Bent) : (h.updBent b f).later = h.later := rfl
@[simp] theorem Hw.updBent_tuples (h : Hw) (b : Nat) (f : Bent → Bent) : (h.updBent b f).tuples = h.tuples := rfl
@[simp] theorem Hw.updBent_credits (h : Hw) (b : Nat) (f : Bent → Bent) : (h.updBent b f).credits = h.credits := rfl
@[simp] theorem Hw.updBent_noticesIn (h : Hw) (b : Nat) (f : Bent → Bent) : (h.updBent b f).noticesIn = h.noticesIn := rfl
@[simp] theorem Hw.updBent_plateCredits (h : Hw) (b : Nat) (f : Bent → Bent) : (h.updBent b f).plateCredits = h.plateCredits := rfl
@[simp] theorem Hw.updBent_purlins (h : Hw) (b : Nat) (f : Bent → Bent) : (h.updBent b f).purlins = h.purlins := rfl
@[simp] theorem Hw.updBent_purlinRead (h : Hw) (b : Nat) (f : Bent → Bent) : (h.updBent b f).purlinRead = h.purlinRead := rfl
@[simp] theorem Hw.updBent_purlinSerial (h : Hw) (b : Nat) (f : Bent → Bent) : (h.updBent b f).purlinSerial = h.purlinSerial := rfl
@[simp] theorem Hw.updBent_purlinFrom (h : Hw) (b : Nat) (f : Bent → Bent) : (h.updBent b f).purlinFrom = h.purlinFrom := rfl
@[simp] theorem Hw.updBent_flits (h : Hw) (b : Nat) (f : Bent → Bent) : (h.updBent b f).flits = h.flits := rfl
@[simp] theorem Hw.updBent_flitSerial (h : Hw) (b : Nat) (f : Bent → Bent) : (h.updBent b f).flitSerial = h.flitSerial := rfl
@[simp] theorem Hw.updBent_xmWest (h : Hw) (b : Nat) (f : Bent → Bent) : (h.updBent b f).xmWest = h.xmWest := rfl
@[simp] theorem Hw.updBent_xmEast (h : Hw) (b : Nat) (f : Bent → Bent) : (h.updBent b f).xmEast = h.xmEast := rfl
@[simp] theorem Hw.updBent_pmCommits (h : Hw) (b : Nat) (f : Bent → Bent) : (h.updBent b f).pmCommits = h.pmCommits := rfl
@[simp] theorem Hw.updBent_poison (h : Hw) (b : Nat) (f : Bent → Bent) : (h.updBent b f).poison = h.poison := rfl
@[simp] theorem Hw.updBent_debug (h : Hw) (b : Nat) (f : Bent → Bent) : (h.updBent b f).debug = h.debug := rfl
@[simp] theorem Hw.updBent_irqPend (h : Hw) (b : Nat) (f : Bent → Bent) : (h.updBent b f).irqPend = h.irqPend := rfl
@[simp] theorem Hw.updBent_endNotices (h : Hw) (b : Nat) (f : Bent → Bent) : (h.updBent b f).endNotices = h.endNotices := rfl
@[simp] theorem Hw.updBent_stillReports (h : Hw) (b : Nat) (f : Bent → Bent) : (h.updBent b f).stillReports = h.stillReports := rfl
@[simp] theorem Hw.updBent_wardenAcks (h : Hw) (b : Nat) (f : Bent → Bent) : (h.updBent b f).wardenAcks = h.wardenAcks := rfl
@[simp] theorem Hw.updBent_links (h : Hw) (b : Nat) (f : Bent → Bent) : (h.updBent b f).links = h.links := rfl
@[simp] theorem Hw.updBent_recsWest (h : Hw) (b : Nat) (f : Bent → Bent) : (h.updBent b f).recsWest = h.recsWest := rfl
@[simp] theorem Hw.updBent_recsEast (h : Hw) (b : Nat) (f : Bent → Bent) : (h.updBent b f).recsEast = h.recsEast := rfl
@[simp] theorem Hw.updBent_acksIn (h : Hw) (b : Nat) (f : Bent → Bent) : (h.updBent b f).acksIn = h.acksIn := rfl
@[simp] theorem Hw.updBent_dom (h : Hw) (b : Nat) (f : Bent → Bent) : (h.updBent b f).dom = h.dom := rfl
@[simp] theorem Hw.updBent_arbAt (h : Hw) (b : Nat) (f : Bent → Bent) : (h.updBent b f).arbAt = h.arbAt := rfl
@[simp] theorem Hw.updBent_le (h : Hw) (b : Nat) (f : Bent → Bent) : (h.updBent b f).le = h.le := rfl
@[simp] theorem Hw.updBent_net (h : Hw) (b : Nat) (f : Bent → Bent) : (h.updBent b f).net = h.net := rfl
@[simp] theorem Hw.updBent_tmpEpochs (h : Hw) (b : Nat) (f : Bent → Bent) : (h.updBent b f).tmpEpochs = h.tmpEpochs := rfl
@[simp] theorem Hw.updBent_ubtEpochs (h : Hw) (b : Nat) (f : Bent → Bent) : (h.updBent b f).ubtEpochs = h.ubtEpochs := rfl
@[simp] theorem Hw.updBent_devFrozen (h : Hw) (b : Nat) (f : Bent → Bent) : (h.updBent b f).devFrozen = h.devFrozen := rfl
@[simp] theorem Hw.updBent_blocksOut (h : Hw) (b : Nat) (f : Bent → Bent) : (h.updBent b f).blocksOut = h.blocksOut := rfl
@[simp] theorem Hw.updBent_ctlRead (h : Hw) (b : Nat) (f : Bent → Bent) : (h.updBent b f).ctlRead = h.ctlRead := rfl
@[simp] theorem Hw.updBent_irq (h : Hw) (b : Nat) (f : Bent → Bent) : (h.updBent b f).irq = h.irq := rfl
@[simp] theorem Hw.updBent_conf (h : Hw) (b : Nat) (f : Bent → Bent) : (h.updBent b f).conf = h.conf := rfl
@[simp] theorem Hw.updBent_sill (h : Hw) (b : Nat) (f : Bent → Bent) : (h.updBent b f).sill = h.sill := rfl
@[simp] theorem Hw.updBent_board (h : Hw) (b : Nat) (f : Bent → Bent) : (h.updBent b f).board = h.board := rfl
@[simp] theorem Hw.updBent_tap (h : Hw) (b : Nat) (f : Bent → Bent) : (h.updBent b f).tap = h.tap := rfl
@[simp] theorem Hw.updBent_firm (h : Hw) (b : Nat) (f : Bent → Bent) : (h.updBent b f).firm = h.firm := rfl
@[simp] theorem Hw.updBent_pole (h : Hw) (b : Nat) (f : Bent → Bent) : (h.updBent b f).pole = h.pole := rfl
@[simp] theorem Hw.updBent_resets (h : Hw) (b : Nat) (f : Bent → Bent) : (h.updBent b f).resets = h.resets := rfl
@[simp] theorem Hw.updBent_postMortem (h : Hw) (b : Nat) (f : Bent → Bent) : (h.updBent b f).postMortem = h.postMortem := rfl
@[simp] theorem Hw.updBent_incAt (h : Hw) (b : Nat) (f : Bent → Bent) : (h.updBent b f).incAt = h.incAt := rfl

@[simp] theorem Hw.updAllBents_clock (h : Hw) (f : Bent → Bent) : (h.updAllBents f).clock = h.clock := rfl
@[simp] theorem Hw.updAllBents_fcyc0 (h : Hw) (f : Bent → Bent) : (h.updAllBents f).fcyc0 = h.fcyc0 := rfl
@[simp] theorem Hw.updAllBents_freeCtr (h : Hw) (f : Bent → Bent) : (h.updAllBents f).freeCtr = h.freeCtr := rfl
@[simp] theorem Hw.updAllBents_cores (h : Hw) (f : Bent → Bent) : (h.updAllBents f).cores = h.cores := rfl
@[simp] theorem Hw.updAllBents_coreDef (h : Hw) (f : Bent → Bent) : (h.updAllBents f).coreDef = h.coreDef := rfl
@[simp] theorem Hw.updAllBents_acted (h : Hw) (f : Bent → Bent) : (h.updAllBents f).acted = h.acted := rfl
@[simp] theorem Hw.updAllBents_later (h : Hw) (f : Bent → Bent) : (h.updAllBents f).later = h.later := rfl
@[simp] theorem Hw.updAllBents_tuples (h : Hw) (f : Bent → Bent) : (h.updAllBents f).tuples = h.tuples := rfl
@[simp] theorem Hw.updAllBents_credits (h : Hw) (f : Bent → Bent) : (h.updAllBents f).credits = h.credits := rfl
@[simp] theorem Hw.updAllBents_noticesIn (h : Hw) (f : Bent → Bent) : (h.updAllBents f).noticesIn = h.noticesIn := rfl
@[simp] theorem Hw.updAllBents_plateCredits (h : Hw) (f : Bent → Bent) : (h.updAllBents f).plateCredits = h.plateCredits := rfl
@[simp] theorem Hw.updAllBents_purlins (h : Hw) (f : Bent → Bent) : (h.updAllBents f).purlins = h.purlins := rfl
@[simp] theorem Hw.updAllBents_purlinRead (h : Hw) (f : Bent → Bent) : (h.updAllBents f).purlinRead = h.purlinRead := rfl
@[simp] theorem Hw.updAllBents_purlinSerial (h : Hw) (f : Bent → Bent) : (h.updAllBents f).purlinSerial = h.purlinSerial := rfl
@[simp] theorem Hw.updAllBents_purlinFrom (h : Hw) (f : Bent → Bent) : (h.updAllBents f).purlinFrom = h.purlinFrom := rfl
@[simp] theorem Hw.updAllBents_flits (h : Hw) (f : Bent → Bent) : (h.updAllBents f).flits = h.flits := rfl
@[simp] theorem Hw.updAllBents_flitSerial (h : Hw) (f : Bent → Bent) : (h.updAllBents f).flitSerial = h.flitSerial := rfl
@[simp] theorem Hw.updAllBents_xmWest (h : Hw) (f : Bent → Bent) : (h.updAllBents f).xmWest = h.xmWest := rfl
@[simp] theorem Hw.updAllBents_xmEast (h : Hw) (f : Bent → Bent) : (h.updAllBents f).xmEast = h.xmEast := rfl
@[simp] theorem Hw.updAllBents_pmCommits (h : Hw) (f : Bent → Bent) : (h.updAllBents f).pmCommits = h.pmCommits := rfl
@[simp] theorem Hw.updAllBents_poison (h : Hw) (f : Bent → Bent) : (h.updAllBents f).poison = h.poison := rfl
@[simp] theorem Hw.updAllBents_debug (h : Hw) (f : Bent → Bent) : (h.updAllBents f).debug = h.debug := rfl
@[simp] theorem Hw.updAllBents_irqPend (h : Hw) (f : Bent → Bent) : (h.updAllBents f).irqPend = h.irqPend := rfl
@[simp] theorem Hw.updAllBents_endNotices (h : Hw) (f : Bent → Bent) : (h.updAllBents f).endNotices = h.endNotices := rfl
@[simp] theorem Hw.updAllBents_stillReports (h : Hw) (f : Bent → Bent) : (h.updAllBents f).stillReports = h.stillReports := rfl
@[simp] theorem Hw.updAllBents_wardenAcks (h : Hw) (f : Bent → Bent) : (h.updAllBents f).wardenAcks = h.wardenAcks := rfl
@[simp] theorem Hw.updAllBents_links (h : Hw) (f : Bent → Bent) : (h.updAllBents f).links = h.links := rfl
@[simp] theorem Hw.updAllBents_recsWest (h : Hw) (f : Bent → Bent) : (h.updAllBents f).recsWest = h.recsWest := rfl
@[simp] theorem Hw.updAllBents_recsEast (h : Hw) (f : Bent → Bent) : (h.updAllBents f).recsEast = h.recsEast := rfl
@[simp] theorem Hw.updAllBents_acksIn (h : Hw) (f : Bent → Bent) : (h.updAllBents f).acksIn = h.acksIn := rfl
@[simp] theorem Hw.updAllBents_dom (h : Hw) (f : Bent → Bent) : (h.updAllBents f).dom = h.dom := rfl
@[simp] theorem Hw.updAllBents_arbAt (h : Hw) (f : Bent → Bent) : (h.updAllBents f).arbAt = h.arbAt := rfl
@[simp] theorem Hw.updAllBents_le (h : Hw) (f : Bent → Bent) : (h.updAllBents f).le = h.le := rfl
@[simp] theorem Hw.updAllBents_net (h : Hw) (f : Bent → Bent) : (h.updAllBents f).net = h.net := rfl
@[simp] theorem Hw.updAllBents_tmpEpochs (h : Hw) (f : Bent → Bent) : (h.updAllBents f).tmpEpochs = h.tmpEpochs := rfl
@[simp] theorem Hw.updAllBents_ubtEpochs (h : Hw) (f : Bent → Bent) : (h.updAllBents f).ubtEpochs = h.ubtEpochs := rfl
@[simp] theorem Hw.updAllBents_devFrozen (h : Hw) (f : Bent → Bent) : (h.updAllBents f).devFrozen = h.devFrozen := rfl
@[simp] theorem Hw.updAllBents_blocksOut (h : Hw) (f : Bent → Bent) : (h.updAllBents f).blocksOut = h.blocksOut := rfl
@[simp] theorem Hw.updAllBents_ctlRead (h : Hw) (f : Bent → Bent) : (h.updAllBents f).ctlRead = h.ctlRead := rfl
@[simp] theorem Hw.updAllBents_irq (h : Hw) (f : Bent → Bent) : (h.updAllBents f).irq = h.irq := rfl
@[simp] theorem Hw.updAllBents_conf (h : Hw) (f : Bent → Bent) : (h.updAllBents f).conf = h.conf := rfl
@[simp] theorem Hw.updAllBents_sill (h : Hw) (f : Bent → Bent) : (h.updAllBents f).sill = h.sill := rfl
@[simp] theorem Hw.updAllBents_board (h : Hw) (f : Bent → Bent) : (h.updAllBents f).board = h.board := rfl
@[simp] theorem Hw.updAllBents_tap (h : Hw) (f : Bent → Bent) : (h.updAllBents f).tap = h.tap := rfl
@[simp] theorem Hw.updAllBents_firm (h : Hw) (f : Bent → Bent) : (h.updAllBents f).firm = h.firm := rfl
@[simp] theorem Hw.updAllBents_pole (h : Hw) (f : Bent → Bent) : (h.updAllBents f).pole = h.pole := rfl
@[simp] theorem Hw.updAllBents_resets (h : Hw) (f : Bent → Bent) : (h.updAllBents f).resets = h.resets := rfl
@[simp] theorem Hw.updAllBents_postMortem (h : Hw) (f : Bent → Bent) : (h.updAllBents f).postMortem = h.postMortem := rfl
@[simp] theorem Hw.updAllBents_incAt (h : Hw) (f : Bent → Bent) : (h.updAllBents f).incAt = h.incAt := rfl

@[simp] theorem Hw.raiseSource_clock (h : Hw) (n : Nat) : (h.raiseSource n).clock = h.clock := rfl
@[simp] theorem Hw.raiseSource_fcyc0 (h : Hw) (n : Nat) : (h.raiseSource n).fcyc0 = h.fcyc0 := rfl
@[simp] theorem Hw.raiseSource_freeCtr (h : Hw) (n : Nat) : (h.raiseSource n).freeCtr = h.freeCtr := rfl
@[simp] theorem Hw.raiseSource_cores (h : Hw) (n : Nat) : (h.raiseSource n).cores = h.cores := rfl
@[simp] theorem Hw.raiseSource_coreDef (h : Hw) (n : Nat) : (h.raiseSource n).coreDef = h.coreDef := rfl
@[simp] theorem Hw.raiseSource_bents (h : Hw) (n : Nat) : (h.raiseSource n).bents = h.bents := rfl
@[simp] theorem Hw.raiseSource_bentDef (h : Hw) (n : Nat) : (h.raiseSource n).bentDef = h.bentDef := rfl
@[simp] theorem Hw.raiseSource_acted (h : Hw) (n : Nat) : (h.raiseSource n).acted = h.acted := rfl
@[simp] theorem Hw.raiseSource_later (h : Hw) (n : Nat) : (h.raiseSource n).later = h.later := rfl
@[simp] theorem Hw.raiseSource_tuples (h : Hw) (n : Nat) : (h.raiseSource n).tuples = h.tuples := rfl
@[simp] theorem Hw.raiseSource_credits (h : Hw) (n : Nat) : (h.raiseSource n).credits = h.credits := rfl
@[simp] theorem Hw.raiseSource_noticesIn (h : Hw) (n : Nat) : (h.raiseSource n).noticesIn = h.noticesIn := rfl
@[simp] theorem Hw.raiseSource_plateCredits (h : Hw) (n : Nat) : (h.raiseSource n).plateCredits = h.plateCredits := rfl
@[simp] theorem Hw.raiseSource_purlins (h : Hw) (n : Nat) : (h.raiseSource n).purlins = h.purlins := rfl
@[simp] theorem Hw.raiseSource_purlinRead (h : Hw) (n : Nat) : (h.raiseSource n).purlinRead = h.purlinRead := rfl
@[simp] theorem Hw.raiseSource_purlinSerial (h : Hw) (n : Nat) : (h.raiseSource n).purlinSerial = h.purlinSerial := rfl
@[simp] theorem Hw.raiseSource_purlinFrom (h : Hw) (n : Nat) : (h.raiseSource n).purlinFrom = h.purlinFrom := rfl
@[simp] theorem Hw.raiseSource_flits (h : Hw) (n : Nat) : (h.raiseSource n).flits = h.flits := rfl
@[simp] theorem Hw.raiseSource_flitSerial (h : Hw) (n : Nat) : (h.raiseSource n).flitSerial = h.flitSerial := rfl
@[simp] theorem Hw.raiseSource_xmWest (h : Hw) (n : Nat) : (h.raiseSource n).xmWest = h.xmWest := rfl
@[simp] theorem Hw.raiseSource_xmEast (h : Hw) (n : Nat) : (h.raiseSource n).xmEast = h.xmEast := rfl
@[simp] theorem Hw.raiseSource_pmCommits (h : Hw) (n : Nat) : (h.raiseSource n).pmCommits = h.pmCommits := rfl
@[simp] theorem Hw.raiseSource_poison (h : Hw) (n : Nat) : (h.raiseSource n).poison = h.poison := rfl
@[simp] theorem Hw.raiseSource_debug (h : Hw) (n : Nat) : (h.raiseSource n).debug = h.debug := rfl
@[simp] theorem Hw.raiseSource_endNotices (h : Hw) (n : Nat) : (h.raiseSource n).endNotices = h.endNotices := rfl
@[simp] theorem Hw.raiseSource_stillReports (h : Hw) (n : Nat) : (h.raiseSource n).stillReports = h.stillReports := rfl
@[simp] theorem Hw.raiseSource_wardenAcks (h : Hw) (n : Nat) : (h.raiseSource n).wardenAcks = h.wardenAcks := rfl
@[simp] theorem Hw.raiseSource_links (h : Hw) (n : Nat) : (h.raiseSource n).links = h.links := rfl
@[simp] theorem Hw.raiseSource_recsWest (h : Hw) (n : Nat) : (h.raiseSource n).recsWest = h.recsWest := rfl
@[simp] theorem Hw.raiseSource_recsEast (h : Hw) (n : Nat) : (h.raiseSource n).recsEast = h.recsEast := rfl
@[simp] theorem Hw.raiseSource_acksIn (h : Hw) (n : Nat) : (h.raiseSource n).acksIn = h.acksIn := rfl
@[simp] theorem Hw.raiseSource_dom (h : Hw) (n : Nat) : (h.raiseSource n).dom = h.dom := rfl
@[simp] theorem Hw.raiseSource_arbAt (h : Hw) (n : Nat) : (h.raiseSource n).arbAt = h.arbAt := rfl
@[simp] theorem Hw.raiseSource_le (h : Hw) (n : Nat) : (h.raiseSource n).le = h.le := rfl
@[simp] theorem Hw.raiseSource_net (h : Hw) (n : Nat) : (h.raiseSource n).net = h.net := rfl
@[simp] theorem Hw.raiseSource_tmpEpochs (h : Hw) (n : Nat) : (h.raiseSource n).tmpEpochs = h.tmpEpochs := rfl
@[simp] theorem Hw.raiseSource_ubtEpochs (h : Hw) (n : Nat) : (h.raiseSource n).ubtEpochs = h.ubtEpochs := rfl
@[simp] theorem Hw.raiseSource_devFrozen (h : Hw) (n : Nat) : (h.raiseSource n).devFrozen = h.devFrozen := rfl
@[simp] theorem Hw.raiseSource_blocksOut (h : Hw) (n : Nat) : (h.raiseSource n).blocksOut = h.blocksOut := rfl
@[simp] theorem Hw.raiseSource_ctlRead (h : Hw) (n : Nat) : (h.raiseSource n).ctlRead = h.ctlRead := rfl
@[simp] theorem Hw.raiseSource_irq (h : Hw) (n : Nat) : (h.raiseSource n).irq = h.irq := rfl
@[simp] theorem Hw.raiseSource_conf (h : Hw) (n : Nat) : (h.raiseSource n).conf = h.conf := rfl
@[simp] theorem Hw.raiseSource_sill (h : Hw) (n : Nat) : (h.raiseSource n).sill = h.sill := rfl
@[simp] theorem Hw.raiseSource_board (h : Hw) (n : Nat) : (h.raiseSource n).board = h.board := rfl
@[simp] theorem Hw.raiseSource_tap (h : Hw) (n : Nat) : (h.raiseSource n).tap = h.tap := rfl
@[simp] theorem Hw.raiseSource_firm (h : Hw) (n : Nat) : (h.raiseSource n).firm = h.firm := rfl
@[simp] theorem Hw.raiseSource_pole (h : Hw) (n : Nat) : (h.raiseSource n).pole = h.pole := rfl
@[simp] theorem Hw.raiseSource_resets (h : Hw) (n : Nat) : (h.raiseSource n).resets = h.resets := rfl
@[simp] theorem Hw.raiseSource_postMortem (h : Hw) (n : Nat) : (h.raiseSource n).postMortem = h.postMortem := rfl
@[simp] theorem Hw.raiseSource_incAt (h : Hw) (n : Nat) : (h.raiseSource n).incAt = h.incAt := rfl

@[simp] theorem Hw.raiseIpend_clock (h : Hw) (c : CoreId) (t : Fin 4) (bit : Nat) : (h.raiseIpend c t bit).clock = h.clock := rfl
@[simp] theorem Hw.raiseIpend_fcyc0 (h : Hw) (c : CoreId) (t : Fin 4) (bit : Nat) : (h.raiseIpend c t bit).fcyc0 = h.fcyc0 := rfl
@[simp] theorem Hw.raiseIpend_freeCtr (h : Hw) (c : CoreId) (t : Fin 4) (bit : Nat) : (h.raiseIpend c t bit).freeCtr = h.freeCtr := rfl
@[simp] theorem Hw.raiseIpend_coreDef (h : Hw) (c : CoreId) (t : Fin 4) (bit : Nat) : (h.raiseIpend c t bit).coreDef = h.coreDef := rfl
@[simp] theorem Hw.raiseIpend_bents (h : Hw) (c : CoreId) (t : Fin 4) (bit : Nat) : (h.raiseIpend c t bit).bents = h.bents := rfl
@[simp] theorem Hw.raiseIpend_bentDef (h : Hw) (c : CoreId) (t : Fin 4) (bit : Nat) : (h.raiseIpend c t bit).bentDef = h.bentDef := rfl
@[simp] theorem Hw.raiseIpend_acted (h : Hw) (c : CoreId) (t : Fin 4) (bit : Nat) : (h.raiseIpend c t bit).acted = h.acted := rfl
@[simp] theorem Hw.raiseIpend_later (h : Hw) (c : CoreId) (t : Fin 4) (bit : Nat) : (h.raiseIpend c t bit).later = h.later := rfl
@[simp] theorem Hw.raiseIpend_tuples (h : Hw) (c : CoreId) (t : Fin 4) (bit : Nat) : (h.raiseIpend c t bit).tuples = h.tuples := rfl
@[simp] theorem Hw.raiseIpend_credits (h : Hw) (c : CoreId) (t : Fin 4) (bit : Nat) : (h.raiseIpend c t bit).credits = h.credits := rfl
@[simp] theorem Hw.raiseIpend_noticesIn (h : Hw) (c : CoreId) (t : Fin 4) (bit : Nat) : (h.raiseIpend c t bit).noticesIn = h.noticesIn := rfl
@[simp] theorem Hw.raiseIpend_plateCredits (h : Hw) (c : CoreId) (t : Fin 4) (bit : Nat) : (h.raiseIpend c t bit).plateCredits = h.plateCredits := rfl
@[simp] theorem Hw.raiseIpend_purlins (h : Hw) (c : CoreId) (t : Fin 4) (bit : Nat) : (h.raiseIpend c t bit).purlins = h.purlins := rfl
@[simp] theorem Hw.raiseIpend_purlinRead (h : Hw) (c : CoreId) (t : Fin 4) (bit : Nat) : (h.raiseIpend c t bit).purlinRead = h.purlinRead := rfl
@[simp] theorem Hw.raiseIpend_purlinSerial (h : Hw) (c : CoreId) (t : Fin 4) (bit : Nat) : (h.raiseIpend c t bit).purlinSerial = h.purlinSerial := rfl
@[simp] theorem Hw.raiseIpend_purlinFrom (h : Hw) (c : CoreId) (t : Fin 4) (bit : Nat) : (h.raiseIpend c t bit).purlinFrom = h.purlinFrom := rfl
@[simp] theorem Hw.raiseIpend_flits (h : Hw) (c : CoreId) (t : Fin 4) (bit : Nat) : (h.raiseIpend c t bit).flits = h.flits := rfl
@[simp] theorem Hw.raiseIpend_flitSerial (h : Hw) (c : CoreId) (t : Fin 4) (bit : Nat) : (h.raiseIpend c t bit).flitSerial = h.flitSerial := rfl
@[simp] theorem Hw.raiseIpend_xmWest (h : Hw) (c : CoreId) (t : Fin 4) (bit : Nat) : (h.raiseIpend c t bit).xmWest = h.xmWest := rfl
@[simp] theorem Hw.raiseIpend_xmEast (h : Hw) (c : CoreId) (t : Fin 4) (bit : Nat) : (h.raiseIpend c t bit).xmEast = h.xmEast := rfl
@[simp] theorem Hw.raiseIpend_pmCommits (h : Hw) (c : CoreId) (t : Fin 4) (bit : Nat) : (h.raiseIpend c t bit).pmCommits = h.pmCommits := rfl
@[simp] theorem Hw.raiseIpend_poison (h : Hw) (c : CoreId) (t : Fin 4) (bit : Nat) : (h.raiseIpend c t bit).poison = h.poison := rfl
@[simp] theorem Hw.raiseIpend_debug (h : Hw) (c : CoreId) (t : Fin 4) (bit : Nat) : (h.raiseIpend c t bit).debug = h.debug := rfl
@[simp] theorem Hw.raiseIpend_irqPend (h : Hw) (c : CoreId) (t : Fin 4) (bit : Nat) : (h.raiseIpend c t bit).irqPend = h.irqPend := rfl
@[simp] theorem Hw.raiseIpend_endNotices (h : Hw) (c : CoreId) (t : Fin 4) (bit : Nat) : (h.raiseIpend c t bit).endNotices = h.endNotices := rfl
@[simp] theorem Hw.raiseIpend_stillReports (h : Hw) (c : CoreId) (t : Fin 4) (bit : Nat) : (h.raiseIpend c t bit).stillReports = h.stillReports := rfl
@[simp] theorem Hw.raiseIpend_wardenAcks (h : Hw) (c : CoreId) (t : Fin 4) (bit : Nat) : (h.raiseIpend c t bit).wardenAcks = h.wardenAcks := rfl
@[simp] theorem Hw.raiseIpend_links (h : Hw) (c : CoreId) (t : Fin 4) (bit : Nat) : (h.raiseIpend c t bit).links = h.links := rfl
@[simp] theorem Hw.raiseIpend_recsWest (h : Hw) (c : CoreId) (t : Fin 4) (bit : Nat) : (h.raiseIpend c t bit).recsWest = h.recsWest := rfl
@[simp] theorem Hw.raiseIpend_recsEast (h : Hw) (c : CoreId) (t : Fin 4) (bit : Nat) : (h.raiseIpend c t bit).recsEast = h.recsEast := rfl
@[simp] theorem Hw.raiseIpend_acksIn (h : Hw) (c : CoreId) (t : Fin 4) (bit : Nat) : (h.raiseIpend c t bit).acksIn = h.acksIn := rfl
@[simp] theorem Hw.raiseIpend_dom (h : Hw) (c : CoreId) (t : Fin 4) (bit : Nat) : (h.raiseIpend c t bit).dom = h.dom := rfl
@[simp] theorem Hw.raiseIpend_arbAt (h : Hw) (c : CoreId) (t : Fin 4) (bit : Nat) : (h.raiseIpend c t bit).arbAt = h.arbAt := rfl
@[simp] theorem Hw.raiseIpend_le (h : Hw) (c : CoreId) (t : Fin 4) (bit : Nat) : (h.raiseIpend c t bit).le = h.le := rfl
@[simp] theorem Hw.raiseIpend_net (h : Hw) (c : CoreId) (t : Fin 4) (bit : Nat) : (h.raiseIpend c t bit).net = h.net := rfl
@[simp] theorem Hw.raiseIpend_tmpEpochs (h : Hw) (c : CoreId) (t : Fin 4) (bit : Nat) : (h.raiseIpend c t bit).tmpEpochs = h.tmpEpochs := rfl
@[simp] theorem Hw.raiseIpend_ubtEpochs (h : Hw) (c : CoreId) (t : Fin 4) (bit : Nat) : (h.raiseIpend c t bit).ubtEpochs = h.ubtEpochs := rfl
@[simp] theorem Hw.raiseIpend_devFrozen (h : Hw) (c : CoreId) (t : Fin 4) (bit : Nat) : (h.raiseIpend c t bit).devFrozen = h.devFrozen := rfl
@[simp] theorem Hw.raiseIpend_blocksOut (h : Hw) (c : CoreId) (t : Fin 4) (bit : Nat) : (h.raiseIpend c t bit).blocksOut = h.blocksOut := rfl
@[simp] theorem Hw.raiseIpend_ctlRead (h : Hw) (c : CoreId) (t : Fin 4) (bit : Nat) : (h.raiseIpend c t bit).ctlRead = h.ctlRead := rfl
@[simp] theorem Hw.raiseIpend_irq (h : Hw) (c : CoreId) (t : Fin 4) (bit : Nat) : (h.raiseIpend c t bit).irq = h.irq := rfl
@[simp] theorem Hw.raiseIpend_conf (h : Hw) (c : CoreId) (t : Fin 4) (bit : Nat) : (h.raiseIpend c t bit).conf = h.conf := rfl
@[simp] theorem Hw.raiseIpend_sill (h : Hw) (c : CoreId) (t : Fin 4) (bit : Nat) : (h.raiseIpend c t bit).sill = h.sill := rfl
@[simp] theorem Hw.raiseIpend_board (h : Hw) (c : CoreId) (t : Fin 4) (bit : Nat) : (h.raiseIpend c t bit).board = h.board := rfl
@[simp] theorem Hw.raiseIpend_tap (h : Hw) (c : CoreId) (t : Fin 4) (bit : Nat) : (h.raiseIpend c t bit).tap = h.tap := rfl
@[simp] theorem Hw.raiseIpend_firm (h : Hw) (c : CoreId) (t : Fin 4) (bit : Nat) : (h.raiseIpend c t bit).firm = h.firm := rfl
@[simp] theorem Hw.raiseIpend_pole (h : Hw) (c : CoreId) (t : Fin 4) (bit : Nat) : (h.raiseIpend c t bit).pole = h.pole := rfl
@[simp] theorem Hw.raiseIpend_resets (h : Hw) (c : CoreId) (t : Fin 4) (bit : Nat) : (h.raiseIpend c t bit).resets = h.resets := rfl
@[simp] theorem Hw.raiseIpend_postMortem (h : Hw) (c : CoreId) (t : Fin 4) (bit : Nat) : (h.raiseIpend c t bit).postMortem = h.postMortem := rfl
@[simp] theorem Hw.raiseIpend_incAt (h : Hw) (c : CoreId) (t : Fin 4) (bit : Nat) : (h.raiseIpend c t bit).incAt = h.incAt := rfl

@[simp] theorem Hw.raiseEvent_clock (h : Hw) (w : Who) (k : Fin 16) : (h.raiseEvent w k).clock = h.clock := rfl
@[simp] theorem Hw.raiseEvent_fcyc0 (h : Hw) (w : Who) (k : Fin 16) : (h.raiseEvent w k).fcyc0 = h.fcyc0 := rfl
@[simp] theorem Hw.raiseEvent_freeCtr (h : Hw) (w : Who) (k : Fin 16) : (h.raiseEvent w k).freeCtr = h.freeCtr := rfl
@[simp] theorem Hw.raiseEvent_coreDef (h : Hw) (w : Who) (k : Fin 16) : (h.raiseEvent w k).coreDef = h.coreDef := rfl
@[simp] theorem Hw.raiseEvent_bents (h : Hw) (w : Who) (k : Fin 16) : (h.raiseEvent w k).bents = h.bents := rfl
@[simp] theorem Hw.raiseEvent_bentDef (h : Hw) (w : Who) (k : Fin 16) : (h.raiseEvent w k).bentDef = h.bentDef := rfl
@[simp] theorem Hw.raiseEvent_acted (h : Hw) (w : Who) (k : Fin 16) : (h.raiseEvent w k).acted = h.acted := rfl
@[simp] theorem Hw.raiseEvent_later (h : Hw) (w : Who) (k : Fin 16) : (h.raiseEvent w k).later = h.later := rfl
@[simp] theorem Hw.raiseEvent_tuples (h : Hw) (w : Who) (k : Fin 16) : (h.raiseEvent w k).tuples = h.tuples := rfl
@[simp] theorem Hw.raiseEvent_credits (h : Hw) (w : Who) (k : Fin 16) : (h.raiseEvent w k).credits = h.credits := rfl
@[simp] theorem Hw.raiseEvent_noticesIn (h : Hw) (w : Who) (k : Fin 16) : (h.raiseEvent w k).noticesIn = h.noticesIn := rfl
@[simp] theorem Hw.raiseEvent_plateCredits (h : Hw) (w : Who) (k : Fin 16) : (h.raiseEvent w k).plateCredits = h.plateCredits := rfl
@[simp] theorem Hw.raiseEvent_purlins (h : Hw) (w : Who) (k : Fin 16) : (h.raiseEvent w k).purlins = h.purlins := rfl
@[simp] theorem Hw.raiseEvent_purlinRead (h : Hw) (w : Who) (k : Fin 16) : (h.raiseEvent w k).purlinRead = h.purlinRead := rfl
@[simp] theorem Hw.raiseEvent_purlinSerial (h : Hw) (w : Who) (k : Fin 16) : (h.raiseEvent w k).purlinSerial = h.purlinSerial := rfl
@[simp] theorem Hw.raiseEvent_purlinFrom (h : Hw) (w : Who) (k : Fin 16) : (h.raiseEvent w k).purlinFrom = h.purlinFrom := rfl
@[simp] theorem Hw.raiseEvent_flits (h : Hw) (w : Who) (k : Fin 16) : (h.raiseEvent w k).flits = h.flits := rfl
@[simp] theorem Hw.raiseEvent_flitSerial (h : Hw) (w : Who) (k : Fin 16) : (h.raiseEvent w k).flitSerial = h.flitSerial := rfl
@[simp] theorem Hw.raiseEvent_xmWest (h : Hw) (w : Who) (k : Fin 16) : (h.raiseEvent w k).xmWest = h.xmWest := rfl
@[simp] theorem Hw.raiseEvent_xmEast (h : Hw) (w : Who) (k : Fin 16) : (h.raiseEvent w k).xmEast = h.xmEast := rfl
@[simp] theorem Hw.raiseEvent_pmCommits (h : Hw) (w : Who) (k : Fin 16) : (h.raiseEvent w k).pmCommits = h.pmCommits := rfl
@[simp] theorem Hw.raiseEvent_poison (h : Hw) (w : Who) (k : Fin 16) : (h.raiseEvent w k).poison = h.poison := rfl
@[simp] theorem Hw.raiseEvent_debug (h : Hw) (w : Who) (k : Fin 16) : (h.raiseEvent w k).debug = h.debug := rfl
@[simp] theorem Hw.raiseEvent_irqPend (h : Hw) (w : Who) (k : Fin 16) : (h.raiseEvent w k).irqPend = h.irqPend := rfl
@[simp] theorem Hw.raiseEvent_endNotices (h : Hw) (w : Who) (k : Fin 16) : (h.raiseEvent w k).endNotices = h.endNotices := rfl
@[simp] theorem Hw.raiseEvent_stillReports (h : Hw) (w : Who) (k : Fin 16) : (h.raiseEvent w k).stillReports = h.stillReports := rfl
@[simp] theorem Hw.raiseEvent_wardenAcks (h : Hw) (w : Who) (k : Fin 16) : (h.raiseEvent w k).wardenAcks = h.wardenAcks := rfl
@[simp] theorem Hw.raiseEvent_links (h : Hw) (w : Who) (k : Fin 16) : (h.raiseEvent w k).links = h.links := rfl
@[simp] theorem Hw.raiseEvent_recsWest (h : Hw) (w : Who) (k : Fin 16) : (h.raiseEvent w k).recsWest = h.recsWest := rfl
@[simp] theorem Hw.raiseEvent_recsEast (h : Hw) (w : Who) (k : Fin 16) : (h.raiseEvent w k).recsEast = h.recsEast := rfl
@[simp] theorem Hw.raiseEvent_acksIn (h : Hw) (w : Who) (k : Fin 16) : (h.raiseEvent w k).acksIn = h.acksIn := rfl
@[simp] theorem Hw.raiseEvent_dom (h : Hw) (w : Who) (k : Fin 16) : (h.raiseEvent w k).dom = h.dom := rfl
@[simp] theorem Hw.raiseEvent_arbAt (h : Hw) (w : Who) (k : Fin 16) : (h.raiseEvent w k).arbAt = h.arbAt := rfl
@[simp] theorem Hw.raiseEvent_le (h : Hw) (w : Who) (k : Fin 16) : (h.raiseEvent w k).le = h.le := rfl
@[simp] theorem Hw.raiseEvent_net (h : Hw) (w : Who) (k : Fin 16) : (h.raiseEvent w k).net = h.net := rfl
@[simp] theorem Hw.raiseEvent_tmpEpochs (h : Hw) (w : Who) (k : Fin 16) : (h.raiseEvent w k).tmpEpochs = h.tmpEpochs := rfl
@[simp] theorem Hw.raiseEvent_ubtEpochs (h : Hw) (w : Who) (k : Fin 16) : (h.raiseEvent w k).ubtEpochs = h.ubtEpochs := rfl
@[simp] theorem Hw.raiseEvent_devFrozen (h : Hw) (w : Who) (k : Fin 16) : (h.raiseEvent w k).devFrozen = h.devFrozen := rfl
@[simp] theorem Hw.raiseEvent_blocksOut (h : Hw) (w : Who) (k : Fin 16) : (h.raiseEvent w k).blocksOut = h.blocksOut := rfl
@[simp] theorem Hw.raiseEvent_ctlRead (h : Hw) (w : Who) (k : Fin 16) : (h.raiseEvent w k).ctlRead = h.ctlRead := rfl
@[simp] theorem Hw.raiseEvent_irq (h : Hw) (w : Who) (k : Fin 16) : (h.raiseEvent w k).irq = h.irq := rfl
@[simp] theorem Hw.raiseEvent_conf (h : Hw) (w : Who) (k : Fin 16) : (h.raiseEvent w k).conf = h.conf := rfl
@[simp] theorem Hw.raiseEvent_sill (h : Hw) (w : Who) (k : Fin 16) : (h.raiseEvent w k).sill = h.sill := rfl
@[simp] theorem Hw.raiseEvent_board (h : Hw) (w : Who) (k : Fin 16) : (h.raiseEvent w k).board = h.board := rfl
@[simp] theorem Hw.raiseEvent_tap (h : Hw) (w : Who) (k : Fin 16) : (h.raiseEvent w k).tap = h.tap := rfl
@[simp] theorem Hw.raiseEvent_firm (h : Hw) (w : Who) (k : Fin 16) : (h.raiseEvent w k).firm = h.firm := rfl
@[simp] theorem Hw.raiseEvent_pole (h : Hw) (w : Who) (k : Fin 16) : (h.raiseEvent w k).pole = h.pole := rfl
@[simp] theorem Hw.raiseEvent_resets (h : Hw) (w : Who) (k : Fin 16) : (h.raiseEvent w k).resets = h.resets := rfl
@[simp] theorem Hw.raiseEvent_postMortem (h : Hw) (w : Who) (k : Fin 16) : (h.raiseEvent w k).postMortem = h.postMortem := rfl
@[simp] theorem Hw.raiseEvent_incAt (h : Hw) (w : Who) (k : Fin 16) : (h.raiseEvent w k).incAt = h.incAt := rfl

@[simp] theorem Hw.updLink_clock (h : Hw) (l : Fin 8) (f : Link → Link) : (h.updLink l f).clock = h.clock := rfl
@[simp] theorem Hw.updLink_fcyc0 (h : Hw) (l : Fin 8) (f : Link → Link) : (h.updLink l f).fcyc0 = h.fcyc0 := rfl
@[simp] theorem Hw.updLink_freeCtr (h : Hw) (l : Fin 8) (f : Link → Link) : (h.updLink l f).freeCtr = h.freeCtr := rfl
@[simp] theorem Hw.updLink_cores (h : Hw) (l : Fin 8) (f : Link → Link) : (h.updLink l f).cores = h.cores := rfl
@[simp] theorem Hw.updLink_coreDef (h : Hw) (l : Fin 8) (f : Link → Link) : (h.updLink l f).coreDef = h.coreDef := rfl
@[simp] theorem Hw.updLink_bents (h : Hw) (l : Fin 8) (f : Link → Link) : (h.updLink l f).bents = h.bents := rfl
@[simp] theorem Hw.updLink_bentDef (h : Hw) (l : Fin 8) (f : Link → Link) : (h.updLink l f).bentDef = h.bentDef := rfl
@[simp] theorem Hw.updLink_acted (h : Hw) (l : Fin 8) (f : Link → Link) : (h.updLink l f).acted = h.acted := rfl
@[simp] theorem Hw.updLink_later (h : Hw) (l : Fin 8) (f : Link → Link) : (h.updLink l f).later = h.later := rfl
@[simp] theorem Hw.updLink_tuples (h : Hw) (l : Fin 8) (f : Link → Link) : (h.updLink l f).tuples = h.tuples := rfl
@[simp] theorem Hw.updLink_credits (h : Hw) (l : Fin 8) (f : Link → Link) : (h.updLink l f).credits = h.credits := rfl
@[simp] theorem Hw.updLink_noticesIn (h : Hw) (l : Fin 8) (f : Link → Link) : (h.updLink l f).noticesIn = h.noticesIn := rfl
@[simp] theorem Hw.updLink_plateCredits (h : Hw) (l : Fin 8) (f : Link → Link) : (h.updLink l f).plateCredits = h.plateCredits := rfl
@[simp] theorem Hw.updLink_purlins (h : Hw) (l : Fin 8) (f : Link → Link) : (h.updLink l f).purlins = h.purlins := rfl
@[simp] theorem Hw.updLink_purlinRead (h : Hw) (l : Fin 8) (f : Link → Link) : (h.updLink l f).purlinRead = h.purlinRead := rfl
@[simp] theorem Hw.updLink_purlinSerial (h : Hw) (l : Fin 8) (f : Link → Link) : (h.updLink l f).purlinSerial = h.purlinSerial := rfl
@[simp] theorem Hw.updLink_purlinFrom (h : Hw) (l : Fin 8) (f : Link → Link) : (h.updLink l f).purlinFrom = h.purlinFrom := rfl
@[simp] theorem Hw.updLink_flits (h : Hw) (l : Fin 8) (f : Link → Link) : (h.updLink l f).flits = h.flits := rfl
@[simp] theorem Hw.updLink_flitSerial (h : Hw) (l : Fin 8) (f : Link → Link) : (h.updLink l f).flitSerial = h.flitSerial := rfl
@[simp] theorem Hw.updLink_xmWest (h : Hw) (l : Fin 8) (f : Link → Link) : (h.updLink l f).xmWest = h.xmWest := rfl
@[simp] theorem Hw.updLink_xmEast (h : Hw) (l : Fin 8) (f : Link → Link) : (h.updLink l f).xmEast = h.xmEast := rfl
@[simp] theorem Hw.updLink_pmCommits (h : Hw) (l : Fin 8) (f : Link → Link) : (h.updLink l f).pmCommits = h.pmCommits := rfl
@[simp] theorem Hw.updLink_poison (h : Hw) (l : Fin 8) (f : Link → Link) : (h.updLink l f).poison = h.poison := rfl
@[simp] theorem Hw.updLink_debug (h : Hw) (l : Fin 8) (f : Link → Link) : (h.updLink l f).debug = h.debug := rfl
@[simp] theorem Hw.updLink_irqPend (h : Hw) (l : Fin 8) (f : Link → Link) : (h.updLink l f).irqPend = h.irqPend := rfl
@[simp] theorem Hw.updLink_endNotices (h : Hw) (l : Fin 8) (f : Link → Link) : (h.updLink l f).endNotices = h.endNotices := rfl
@[simp] theorem Hw.updLink_stillReports (h : Hw) (l : Fin 8) (f : Link → Link) : (h.updLink l f).stillReports = h.stillReports := rfl
@[simp] theorem Hw.updLink_wardenAcks (h : Hw) (l : Fin 8) (f : Link → Link) : (h.updLink l f).wardenAcks = h.wardenAcks := rfl
@[simp] theorem Hw.updLink_recsWest (h : Hw) (l : Fin 8) (f : Link → Link) : (h.updLink l f).recsWest = h.recsWest := rfl
@[simp] theorem Hw.updLink_recsEast (h : Hw) (l : Fin 8) (f : Link → Link) : (h.updLink l f).recsEast = h.recsEast := rfl
@[simp] theorem Hw.updLink_acksIn (h : Hw) (l : Fin 8) (f : Link → Link) : (h.updLink l f).acksIn = h.acksIn := rfl
@[simp] theorem Hw.updLink_dom (h : Hw) (l : Fin 8) (f : Link → Link) : (h.updLink l f).dom = h.dom := rfl
@[simp] theorem Hw.updLink_arbAt (h : Hw) (l : Fin 8) (f : Link → Link) : (h.updLink l f).arbAt = h.arbAt := rfl
@[simp] theorem Hw.updLink_le (h : Hw) (l : Fin 8) (f : Link → Link) : (h.updLink l f).le = h.le := rfl
@[simp] theorem Hw.updLink_net (h : Hw) (l : Fin 8) (f : Link → Link) : (h.updLink l f).net = h.net := rfl
@[simp] theorem Hw.updLink_tmpEpochs (h : Hw) (l : Fin 8) (f : Link → Link) : (h.updLink l f).tmpEpochs = h.tmpEpochs := rfl
@[simp] theorem Hw.updLink_ubtEpochs (h : Hw) (l : Fin 8) (f : Link → Link) : (h.updLink l f).ubtEpochs = h.ubtEpochs := rfl
@[simp] theorem Hw.updLink_devFrozen (h : Hw) (l : Fin 8) (f : Link → Link) : (h.updLink l f).devFrozen = h.devFrozen := rfl
@[simp] theorem Hw.updLink_blocksOut (h : Hw) (l : Fin 8) (f : Link → Link) : (h.updLink l f).blocksOut = h.blocksOut := rfl
@[simp] theorem Hw.updLink_ctlRead (h : Hw) (l : Fin 8) (f : Link → Link) : (h.updLink l f).ctlRead = h.ctlRead := rfl
@[simp] theorem Hw.updLink_irq (h : Hw) (l : Fin 8) (f : Link → Link) : (h.updLink l f).irq = h.irq := rfl
@[simp] theorem Hw.updLink_conf (h : Hw) (l : Fin 8) (f : Link → Link) : (h.updLink l f).conf = h.conf := rfl
@[simp] theorem Hw.updLink_sill (h : Hw) (l : Fin 8) (f : Link → Link) : (h.updLink l f).sill = h.sill := rfl
@[simp] theorem Hw.updLink_board (h : Hw) (l : Fin 8) (f : Link → Link) : (h.updLink l f).board = h.board := rfl
@[simp] theorem Hw.updLink_tap (h : Hw) (l : Fin 8) (f : Link → Link) : (h.updLink l f).tap = h.tap := rfl
@[simp] theorem Hw.updLink_firm (h : Hw) (l : Fin 8) (f : Link → Link) : (h.updLink l f).firm = h.firm := rfl
@[simp] theorem Hw.updLink_pole (h : Hw) (l : Fin 8) (f : Link → Link) : (h.updLink l f).pole = h.pole := rfl
@[simp] theorem Hw.updLink_resets (h : Hw) (l : Fin 8) (f : Link → Link) : (h.updLink l f).resets = h.resets := rfl
@[simp] theorem Hw.updLink_postMortem (h : Hw) (l : Fin 8) (f : Link → Link) : (h.updLink l f).postMortem = h.postMortem := rfl
@[simp] theorem Hw.updLink_incAt (h : Hw) (l : Fin 8) (f : Link → Link) : (h.updLink l f).incAt = h.incAt := rfl

@[simp] theorem Hw.updDom_clock (h : Hw) (f : Domain → Domain) : (h.updDom f).clock = h.clock := rfl
@[simp] theorem Hw.updDom_fcyc0 (h : Hw) (f : Domain → Domain) : (h.updDom f).fcyc0 = h.fcyc0 := rfl
@[simp] theorem Hw.updDom_freeCtr (h : Hw) (f : Domain → Domain) : (h.updDom f).freeCtr = h.freeCtr := rfl
@[simp] theorem Hw.updDom_cores (h : Hw) (f : Domain → Domain) : (h.updDom f).cores = h.cores := rfl
@[simp] theorem Hw.updDom_coreDef (h : Hw) (f : Domain → Domain) : (h.updDom f).coreDef = h.coreDef := rfl
@[simp] theorem Hw.updDom_bents (h : Hw) (f : Domain → Domain) : (h.updDom f).bents = h.bents := rfl
@[simp] theorem Hw.updDom_bentDef (h : Hw) (f : Domain → Domain) : (h.updDom f).bentDef = h.bentDef := rfl
@[simp] theorem Hw.updDom_acted (h : Hw) (f : Domain → Domain) : (h.updDom f).acted = h.acted := rfl
@[simp] theorem Hw.updDom_later (h : Hw) (f : Domain → Domain) : (h.updDom f).later = h.later := rfl
@[simp] theorem Hw.updDom_tuples (h : Hw) (f : Domain → Domain) : (h.updDom f).tuples = h.tuples := rfl
@[simp] theorem Hw.updDom_credits (h : Hw) (f : Domain → Domain) : (h.updDom f).credits = h.credits := rfl
@[simp] theorem Hw.updDom_noticesIn (h : Hw) (f : Domain → Domain) : (h.updDom f).noticesIn = h.noticesIn := rfl
@[simp] theorem Hw.updDom_plateCredits (h : Hw) (f : Domain → Domain) : (h.updDom f).plateCredits = h.plateCredits := rfl
@[simp] theorem Hw.updDom_purlins (h : Hw) (f : Domain → Domain) : (h.updDom f).purlins = h.purlins := rfl
@[simp] theorem Hw.updDom_purlinRead (h : Hw) (f : Domain → Domain) : (h.updDom f).purlinRead = h.purlinRead := rfl
@[simp] theorem Hw.updDom_purlinSerial (h : Hw) (f : Domain → Domain) : (h.updDom f).purlinSerial = h.purlinSerial := rfl
@[simp] theorem Hw.updDom_purlinFrom (h : Hw) (f : Domain → Domain) : (h.updDom f).purlinFrom = h.purlinFrom := rfl
@[simp] theorem Hw.updDom_flits (h : Hw) (f : Domain → Domain) : (h.updDom f).flits = h.flits := rfl
@[simp] theorem Hw.updDom_flitSerial (h : Hw) (f : Domain → Domain) : (h.updDom f).flitSerial = h.flitSerial := rfl
@[simp] theorem Hw.updDom_xmWest (h : Hw) (f : Domain → Domain) : (h.updDom f).xmWest = h.xmWest := rfl
@[simp] theorem Hw.updDom_xmEast (h : Hw) (f : Domain → Domain) : (h.updDom f).xmEast = h.xmEast := rfl
@[simp] theorem Hw.updDom_pmCommits (h : Hw) (f : Domain → Domain) : (h.updDom f).pmCommits = h.pmCommits := rfl
@[simp] theorem Hw.updDom_poison (h : Hw) (f : Domain → Domain) : (h.updDom f).poison = h.poison := rfl
@[simp] theorem Hw.updDom_debug (h : Hw) (f : Domain → Domain) : (h.updDom f).debug = h.debug := rfl
@[simp] theorem Hw.updDom_irqPend (h : Hw) (f : Domain → Domain) : (h.updDom f).irqPend = h.irqPend := rfl
@[simp] theorem Hw.updDom_endNotices (h : Hw) (f : Domain → Domain) : (h.updDom f).endNotices = h.endNotices := rfl
@[simp] theorem Hw.updDom_stillReports (h : Hw) (f : Domain → Domain) : (h.updDom f).stillReports = h.stillReports := rfl
@[simp] theorem Hw.updDom_wardenAcks (h : Hw) (f : Domain → Domain) : (h.updDom f).wardenAcks = h.wardenAcks := rfl
@[simp] theorem Hw.updDom_links (h : Hw) (f : Domain → Domain) : (h.updDom f).links = h.links := rfl
@[simp] theorem Hw.updDom_recsWest (h : Hw) (f : Domain → Domain) : (h.updDom f).recsWest = h.recsWest := rfl
@[simp] theorem Hw.updDom_recsEast (h : Hw) (f : Domain → Domain) : (h.updDom f).recsEast = h.recsEast := rfl
@[simp] theorem Hw.updDom_acksIn (h : Hw) (f : Domain → Domain) : (h.updDom f).acksIn = h.acksIn := rfl
@[simp] theorem Hw.updDom_arbAt (h : Hw) (f : Domain → Domain) : (h.updDom f).arbAt = h.arbAt := rfl
@[simp] theorem Hw.updDom_le (h : Hw) (f : Domain → Domain) : (h.updDom f).le = h.le := rfl
@[simp] theorem Hw.updDom_net (h : Hw) (f : Domain → Domain) : (h.updDom f).net = h.net := rfl
@[simp] theorem Hw.updDom_tmpEpochs (h : Hw) (f : Domain → Domain) : (h.updDom f).tmpEpochs = h.tmpEpochs := rfl
@[simp] theorem Hw.updDom_ubtEpochs (h : Hw) (f : Domain → Domain) : (h.updDom f).ubtEpochs = h.ubtEpochs := rfl
@[simp] theorem Hw.updDom_devFrozen (h : Hw) (f : Domain → Domain) : (h.updDom f).devFrozen = h.devFrozen := rfl
@[simp] theorem Hw.updDom_blocksOut (h : Hw) (f : Domain → Domain) : (h.updDom f).blocksOut = h.blocksOut := rfl
@[simp] theorem Hw.updDom_ctlRead (h : Hw) (f : Domain → Domain) : (h.updDom f).ctlRead = h.ctlRead := rfl
@[simp] theorem Hw.updDom_irq (h : Hw) (f : Domain → Domain) : (h.updDom f).irq = h.irq := rfl
@[simp] theorem Hw.updDom_conf (h : Hw) (f : Domain → Domain) : (h.updDom f).conf = h.conf := rfl
@[simp] theorem Hw.updDom_sill (h : Hw) (f : Domain → Domain) : (h.updDom f).sill = h.sill := rfl
@[simp] theorem Hw.updDom_board (h : Hw) (f : Domain → Domain) : (h.updDom f).board = h.board := rfl
@[simp] theorem Hw.updDom_tap (h : Hw) (f : Domain → Domain) : (h.updDom f).tap = h.tap := rfl
@[simp] theorem Hw.updDom_firm (h : Hw) (f : Domain → Domain) : (h.updDom f).firm = h.firm := rfl
@[simp] theorem Hw.updDom_pole (h : Hw) (f : Domain → Domain) : (h.updDom f).pole = h.pole := rfl
@[simp] theorem Hw.updDom_resets (h : Hw) (f : Domain → Domain) : (h.updDom f).resets = h.resets := rfl
@[simp] theorem Hw.updDom_postMortem (h : Hw) (f : Domain → Domain) : (h.updDom f).postMortem = h.postMortem := rfl
@[simp] theorem Hw.updDom_incAt (h : Hw) (f : Domain → Domain) : (h.updDom f).incAt = h.incAt := rfl

@[simp] theorem Hw.updNet_clock (h : Hw) (f : Net → Net) : (h.updNet f).clock = h.clock := rfl
@[simp] theorem Hw.updNet_fcyc0 (h : Hw) (f : Net → Net) : (h.updNet f).fcyc0 = h.fcyc0 := rfl
@[simp] theorem Hw.updNet_freeCtr (h : Hw) (f : Net → Net) : (h.updNet f).freeCtr = h.freeCtr := rfl
@[simp] theorem Hw.updNet_cores (h : Hw) (f : Net → Net) : (h.updNet f).cores = h.cores := rfl
@[simp] theorem Hw.updNet_coreDef (h : Hw) (f : Net → Net) : (h.updNet f).coreDef = h.coreDef := rfl
@[simp] theorem Hw.updNet_bents (h : Hw) (f : Net → Net) : (h.updNet f).bents = h.bents := rfl
@[simp] theorem Hw.updNet_bentDef (h : Hw) (f : Net → Net) : (h.updNet f).bentDef = h.bentDef := rfl
@[simp] theorem Hw.updNet_acted (h : Hw) (f : Net → Net) : (h.updNet f).acted = h.acted := rfl
@[simp] theorem Hw.updNet_later (h : Hw) (f : Net → Net) : (h.updNet f).later = h.later := rfl
@[simp] theorem Hw.updNet_tuples (h : Hw) (f : Net → Net) : (h.updNet f).tuples = h.tuples := rfl
@[simp] theorem Hw.updNet_credits (h : Hw) (f : Net → Net) : (h.updNet f).credits = h.credits := rfl
@[simp] theorem Hw.updNet_noticesIn (h : Hw) (f : Net → Net) : (h.updNet f).noticesIn = h.noticesIn := rfl
@[simp] theorem Hw.updNet_plateCredits (h : Hw) (f : Net → Net) : (h.updNet f).plateCredits = h.plateCredits := rfl
@[simp] theorem Hw.updNet_purlins (h : Hw) (f : Net → Net) : (h.updNet f).purlins = h.purlins := rfl
@[simp] theorem Hw.updNet_purlinRead (h : Hw) (f : Net → Net) : (h.updNet f).purlinRead = h.purlinRead := rfl
@[simp] theorem Hw.updNet_purlinSerial (h : Hw) (f : Net → Net) : (h.updNet f).purlinSerial = h.purlinSerial := rfl
@[simp] theorem Hw.updNet_purlinFrom (h : Hw) (f : Net → Net) : (h.updNet f).purlinFrom = h.purlinFrom := rfl
@[simp] theorem Hw.updNet_flits (h : Hw) (f : Net → Net) : (h.updNet f).flits = h.flits := rfl
@[simp] theorem Hw.updNet_flitSerial (h : Hw) (f : Net → Net) : (h.updNet f).flitSerial = h.flitSerial := rfl
@[simp] theorem Hw.updNet_xmWest (h : Hw) (f : Net → Net) : (h.updNet f).xmWest = h.xmWest := rfl
@[simp] theorem Hw.updNet_xmEast (h : Hw) (f : Net → Net) : (h.updNet f).xmEast = h.xmEast := rfl
@[simp] theorem Hw.updNet_pmCommits (h : Hw) (f : Net → Net) : (h.updNet f).pmCommits = h.pmCommits := rfl
@[simp] theorem Hw.updNet_poison (h : Hw) (f : Net → Net) : (h.updNet f).poison = h.poison := rfl
@[simp] theorem Hw.updNet_debug (h : Hw) (f : Net → Net) : (h.updNet f).debug = h.debug := rfl
@[simp] theorem Hw.updNet_irqPend (h : Hw) (f : Net → Net) : (h.updNet f).irqPend = h.irqPend := rfl
@[simp] theorem Hw.updNet_endNotices (h : Hw) (f : Net → Net) : (h.updNet f).endNotices = h.endNotices := rfl
@[simp] theorem Hw.updNet_stillReports (h : Hw) (f : Net → Net) : (h.updNet f).stillReports = h.stillReports := rfl
@[simp] theorem Hw.updNet_wardenAcks (h : Hw) (f : Net → Net) : (h.updNet f).wardenAcks = h.wardenAcks := rfl
@[simp] theorem Hw.updNet_links (h : Hw) (f : Net → Net) : (h.updNet f).links = h.links := rfl
@[simp] theorem Hw.updNet_recsWest (h : Hw) (f : Net → Net) : (h.updNet f).recsWest = h.recsWest := rfl
@[simp] theorem Hw.updNet_recsEast (h : Hw) (f : Net → Net) : (h.updNet f).recsEast = h.recsEast := rfl
@[simp] theorem Hw.updNet_acksIn (h : Hw) (f : Net → Net) : (h.updNet f).acksIn = h.acksIn := rfl
@[simp] theorem Hw.updNet_dom (h : Hw) (f : Net → Net) : (h.updNet f).dom = h.dom := rfl
@[simp] theorem Hw.updNet_arbAt (h : Hw) (f : Net → Net) : (h.updNet f).arbAt = h.arbAt := rfl
@[simp] theorem Hw.updNet_le (h : Hw) (f : Net → Net) : (h.updNet f).le = h.le := rfl
@[simp] theorem Hw.updNet_tmpEpochs (h : Hw) (f : Net → Net) : (h.updNet f).tmpEpochs = h.tmpEpochs := rfl
@[simp] theorem Hw.updNet_ubtEpochs (h : Hw) (f : Net → Net) : (h.updNet f).ubtEpochs = h.ubtEpochs := rfl
@[simp] theorem Hw.updNet_devFrozen (h : Hw) (f : Net → Net) : (h.updNet f).devFrozen = h.devFrozen := rfl
@[simp] theorem Hw.updNet_blocksOut (h : Hw) (f : Net → Net) : (h.updNet f).blocksOut = h.blocksOut := rfl
@[simp] theorem Hw.updNet_ctlRead (h : Hw) (f : Net → Net) : (h.updNet f).ctlRead = h.ctlRead := rfl
@[simp] theorem Hw.updNet_irq (h : Hw) (f : Net → Net) : (h.updNet f).irq = h.irq := rfl
@[simp] theorem Hw.updNet_conf (h : Hw) (f : Net → Net) : (h.updNet f).conf = h.conf := rfl
@[simp] theorem Hw.updNet_sill (h : Hw) (f : Net → Net) : (h.updNet f).sill = h.sill := rfl
@[simp] theorem Hw.updNet_board (h : Hw) (f : Net → Net) : (h.updNet f).board = h.board := rfl
@[simp] theorem Hw.updNet_tap (h : Hw) (f : Net → Net) : (h.updNet f).tap = h.tap := rfl
@[simp] theorem Hw.updNet_firm (h : Hw) (f : Net → Net) : (h.updNet f).firm = h.firm := rfl
@[simp] theorem Hw.updNet_pole (h : Hw) (f : Net → Net) : (h.updNet f).pole = h.pole := rfl
@[simp] theorem Hw.updNet_resets (h : Hw) (f : Net → Net) : (h.updNet f).resets = h.resets := rfl
@[simp] theorem Hw.updNet_postMortem (h : Hw) (f : Net → Net) : (h.updNet f).postMortem = h.postMortem := rfl
@[simp] theorem Hw.updNet_incAt (h : Hw) (f : Net → Net) : (h.updNet f).incAt = h.incAt := rfl

@[simp] theorem Hw.updLe_clock (h : Hw) (f : Layout → Layout) : (h.updLe f).clock = h.clock := rfl
@[simp] theorem Hw.updLe_fcyc0 (h : Hw) (f : Layout → Layout) : (h.updLe f).fcyc0 = h.fcyc0 := rfl
@[simp] theorem Hw.updLe_freeCtr (h : Hw) (f : Layout → Layout) : (h.updLe f).freeCtr = h.freeCtr := rfl
@[simp] theorem Hw.updLe_cores (h : Hw) (f : Layout → Layout) : (h.updLe f).cores = h.cores := rfl
@[simp] theorem Hw.updLe_coreDef (h : Hw) (f : Layout → Layout) : (h.updLe f).coreDef = h.coreDef := rfl
@[simp] theorem Hw.updLe_bents (h : Hw) (f : Layout → Layout) : (h.updLe f).bents = h.bents := rfl
@[simp] theorem Hw.updLe_bentDef (h : Hw) (f : Layout → Layout) : (h.updLe f).bentDef = h.bentDef := rfl
@[simp] theorem Hw.updLe_acted (h : Hw) (f : Layout → Layout) : (h.updLe f).acted = h.acted := rfl
@[simp] theorem Hw.updLe_later (h : Hw) (f : Layout → Layout) : (h.updLe f).later = h.later := rfl
@[simp] theorem Hw.updLe_tuples (h : Hw) (f : Layout → Layout) : (h.updLe f).tuples = h.tuples := rfl
@[simp] theorem Hw.updLe_credits (h : Hw) (f : Layout → Layout) : (h.updLe f).credits = h.credits := rfl
@[simp] theorem Hw.updLe_noticesIn (h : Hw) (f : Layout → Layout) : (h.updLe f).noticesIn = h.noticesIn := rfl
@[simp] theorem Hw.updLe_plateCredits (h : Hw) (f : Layout → Layout) : (h.updLe f).plateCredits = h.plateCredits := rfl
@[simp] theorem Hw.updLe_purlins (h : Hw) (f : Layout → Layout) : (h.updLe f).purlins = h.purlins := rfl
@[simp] theorem Hw.updLe_purlinRead (h : Hw) (f : Layout → Layout) : (h.updLe f).purlinRead = h.purlinRead := rfl
@[simp] theorem Hw.updLe_purlinSerial (h : Hw) (f : Layout → Layout) : (h.updLe f).purlinSerial = h.purlinSerial := rfl
@[simp] theorem Hw.updLe_purlinFrom (h : Hw) (f : Layout → Layout) : (h.updLe f).purlinFrom = h.purlinFrom := rfl
@[simp] theorem Hw.updLe_flits (h : Hw) (f : Layout → Layout) : (h.updLe f).flits = h.flits := rfl
@[simp] theorem Hw.updLe_flitSerial (h : Hw) (f : Layout → Layout) : (h.updLe f).flitSerial = h.flitSerial := rfl
@[simp] theorem Hw.updLe_xmWest (h : Hw) (f : Layout → Layout) : (h.updLe f).xmWest = h.xmWest := rfl
@[simp] theorem Hw.updLe_xmEast (h : Hw) (f : Layout → Layout) : (h.updLe f).xmEast = h.xmEast := rfl
@[simp] theorem Hw.updLe_pmCommits (h : Hw) (f : Layout → Layout) : (h.updLe f).pmCommits = h.pmCommits := rfl
@[simp] theorem Hw.updLe_poison (h : Hw) (f : Layout → Layout) : (h.updLe f).poison = h.poison := rfl
@[simp] theorem Hw.updLe_debug (h : Hw) (f : Layout → Layout) : (h.updLe f).debug = h.debug := rfl
@[simp] theorem Hw.updLe_irqPend (h : Hw) (f : Layout → Layout) : (h.updLe f).irqPend = h.irqPend := rfl
@[simp] theorem Hw.updLe_endNotices (h : Hw) (f : Layout → Layout) : (h.updLe f).endNotices = h.endNotices := rfl
@[simp] theorem Hw.updLe_stillReports (h : Hw) (f : Layout → Layout) : (h.updLe f).stillReports = h.stillReports := rfl
@[simp] theorem Hw.updLe_wardenAcks (h : Hw) (f : Layout → Layout) : (h.updLe f).wardenAcks = h.wardenAcks := rfl
@[simp] theorem Hw.updLe_links (h : Hw) (f : Layout → Layout) : (h.updLe f).links = h.links := rfl
@[simp] theorem Hw.updLe_recsWest (h : Hw) (f : Layout → Layout) : (h.updLe f).recsWest = h.recsWest := rfl
@[simp] theorem Hw.updLe_recsEast (h : Hw) (f : Layout → Layout) : (h.updLe f).recsEast = h.recsEast := rfl
@[simp] theorem Hw.updLe_acksIn (h : Hw) (f : Layout → Layout) : (h.updLe f).acksIn = h.acksIn := rfl
@[simp] theorem Hw.updLe_dom (h : Hw) (f : Layout → Layout) : (h.updLe f).dom = h.dom := rfl
@[simp] theorem Hw.updLe_arbAt (h : Hw) (f : Layout → Layout) : (h.updLe f).arbAt = h.arbAt := rfl
@[simp] theorem Hw.updLe_net (h : Hw) (f : Layout → Layout) : (h.updLe f).net = h.net := rfl
@[simp] theorem Hw.updLe_tmpEpochs (h : Hw) (f : Layout → Layout) : (h.updLe f).tmpEpochs = h.tmpEpochs := rfl
@[simp] theorem Hw.updLe_ubtEpochs (h : Hw) (f : Layout → Layout) : (h.updLe f).ubtEpochs = h.ubtEpochs := rfl
@[simp] theorem Hw.updLe_devFrozen (h : Hw) (f : Layout → Layout) : (h.updLe f).devFrozen = h.devFrozen := rfl
@[simp] theorem Hw.updLe_blocksOut (h : Hw) (f : Layout → Layout) : (h.updLe f).blocksOut = h.blocksOut := rfl
@[simp] theorem Hw.updLe_ctlRead (h : Hw) (f : Layout → Layout) : (h.updLe f).ctlRead = h.ctlRead := rfl
@[simp] theorem Hw.updLe_irq (h : Hw) (f : Layout → Layout) : (h.updLe f).irq = h.irq := rfl
@[simp] theorem Hw.updLe_conf (h : Hw) (f : Layout → Layout) : (h.updLe f).conf = h.conf := rfl
@[simp] theorem Hw.updLe_sill (h : Hw) (f : Layout → Layout) : (h.updLe f).sill = h.sill := rfl
@[simp] theorem Hw.updLe_board (h : Hw) (f : Layout → Layout) : (h.updLe f).board = h.board := rfl
@[simp] theorem Hw.updLe_tap (h : Hw) (f : Layout → Layout) : (h.updLe f).tap = h.tap := rfl
@[simp] theorem Hw.updLe_firm (h : Hw) (f : Layout → Layout) : (h.updLe f).firm = h.firm := rfl
@[simp] theorem Hw.updLe_pole (h : Hw) (f : Layout → Layout) : (h.updLe f).pole = h.pole := rfl
@[simp] theorem Hw.updLe_resets (h : Hw) (f : Layout → Layout) : (h.updLe f).resets = h.resets := rfl
@[simp] theorem Hw.updLe_postMortem (h : Hw) (f : Layout → Layout) : (h.updLe f).postMortem = h.postMortem := rfl
@[simp] theorem Hw.updLe_incAt (h : Hw) (f : Layout → Layout) : (h.updLe f).incAt = h.incAt := rfl

@[simp] theorem Hw.updPole_clock (h : Hw) (f : Pole → Pole) : (h.updPole f).clock = h.clock := rfl
@[simp] theorem Hw.updPole_fcyc0 (h : Hw) (f : Pole → Pole) : (h.updPole f).fcyc0 = h.fcyc0 := rfl
@[simp] theorem Hw.updPole_freeCtr (h : Hw) (f : Pole → Pole) : (h.updPole f).freeCtr = h.freeCtr := rfl
@[simp] theorem Hw.updPole_cores (h : Hw) (f : Pole → Pole) : (h.updPole f).cores = h.cores := rfl
@[simp] theorem Hw.updPole_coreDef (h : Hw) (f : Pole → Pole) : (h.updPole f).coreDef = h.coreDef := rfl
@[simp] theorem Hw.updPole_bents (h : Hw) (f : Pole → Pole) : (h.updPole f).bents = h.bents := rfl
@[simp] theorem Hw.updPole_bentDef (h : Hw) (f : Pole → Pole) : (h.updPole f).bentDef = h.bentDef := rfl
@[simp] theorem Hw.updPole_acted (h : Hw) (f : Pole → Pole) : (h.updPole f).acted = h.acted := rfl
@[simp] theorem Hw.updPole_later (h : Hw) (f : Pole → Pole) : (h.updPole f).later = h.later := rfl
@[simp] theorem Hw.updPole_tuples (h : Hw) (f : Pole → Pole) : (h.updPole f).tuples = h.tuples := rfl
@[simp] theorem Hw.updPole_credits (h : Hw) (f : Pole → Pole) : (h.updPole f).credits = h.credits := rfl
@[simp] theorem Hw.updPole_noticesIn (h : Hw) (f : Pole → Pole) : (h.updPole f).noticesIn = h.noticesIn := rfl
@[simp] theorem Hw.updPole_plateCredits (h : Hw) (f : Pole → Pole) : (h.updPole f).plateCredits = h.plateCredits := rfl
@[simp] theorem Hw.updPole_purlins (h : Hw) (f : Pole → Pole) : (h.updPole f).purlins = h.purlins := rfl
@[simp] theorem Hw.updPole_purlinRead (h : Hw) (f : Pole → Pole) : (h.updPole f).purlinRead = h.purlinRead := rfl
@[simp] theorem Hw.updPole_purlinSerial (h : Hw) (f : Pole → Pole) : (h.updPole f).purlinSerial = h.purlinSerial := rfl
@[simp] theorem Hw.updPole_purlinFrom (h : Hw) (f : Pole → Pole) : (h.updPole f).purlinFrom = h.purlinFrom := rfl
@[simp] theorem Hw.updPole_flits (h : Hw) (f : Pole → Pole) : (h.updPole f).flits = h.flits := rfl
@[simp] theorem Hw.updPole_flitSerial (h : Hw) (f : Pole → Pole) : (h.updPole f).flitSerial = h.flitSerial := rfl
@[simp] theorem Hw.updPole_xmWest (h : Hw) (f : Pole → Pole) : (h.updPole f).xmWest = h.xmWest := rfl
@[simp] theorem Hw.updPole_xmEast (h : Hw) (f : Pole → Pole) : (h.updPole f).xmEast = h.xmEast := rfl
@[simp] theorem Hw.updPole_pmCommits (h : Hw) (f : Pole → Pole) : (h.updPole f).pmCommits = h.pmCommits := rfl
@[simp] theorem Hw.updPole_poison (h : Hw) (f : Pole → Pole) : (h.updPole f).poison = h.poison := rfl
@[simp] theorem Hw.updPole_debug (h : Hw) (f : Pole → Pole) : (h.updPole f).debug = h.debug := rfl
@[simp] theorem Hw.updPole_irqPend (h : Hw) (f : Pole → Pole) : (h.updPole f).irqPend = h.irqPend := rfl
@[simp] theorem Hw.updPole_endNotices (h : Hw) (f : Pole → Pole) : (h.updPole f).endNotices = h.endNotices := rfl
@[simp] theorem Hw.updPole_stillReports (h : Hw) (f : Pole → Pole) : (h.updPole f).stillReports = h.stillReports := rfl
@[simp] theorem Hw.updPole_wardenAcks (h : Hw) (f : Pole → Pole) : (h.updPole f).wardenAcks = h.wardenAcks := rfl
@[simp] theorem Hw.updPole_links (h : Hw) (f : Pole → Pole) : (h.updPole f).links = h.links := rfl
@[simp] theorem Hw.updPole_recsWest (h : Hw) (f : Pole → Pole) : (h.updPole f).recsWest = h.recsWest := rfl
@[simp] theorem Hw.updPole_recsEast (h : Hw) (f : Pole → Pole) : (h.updPole f).recsEast = h.recsEast := rfl
@[simp] theorem Hw.updPole_acksIn (h : Hw) (f : Pole → Pole) : (h.updPole f).acksIn = h.acksIn := rfl
@[simp] theorem Hw.updPole_dom (h : Hw) (f : Pole → Pole) : (h.updPole f).dom = h.dom := rfl
@[simp] theorem Hw.updPole_arbAt (h : Hw) (f : Pole → Pole) : (h.updPole f).arbAt = h.arbAt := rfl
@[simp] theorem Hw.updPole_le (h : Hw) (f : Pole → Pole) : (h.updPole f).le = h.le := rfl
@[simp] theorem Hw.updPole_net (h : Hw) (f : Pole → Pole) : (h.updPole f).net = h.net := rfl
@[simp] theorem Hw.updPole_tmpEpochs (h : Hw) (f : Pole → Pole) : (h.updPole f).tmpEpochs = h.tmpEpochs := rfl
@[simp] theorem Hw.updPole_ubtEpochs (h : Hw) (f : Pole → Pole) : (h.updPole f).ubtEpochs = h.ubtEpochs := rfl
@[simp] theorem Hw.updPole_devFrozen (h : Hw) (f : Pole → Pole) : (h.updPole f).devFrozen = h.devFrozen := rfl
@[simp] theorem Hw.updPole_blocksOut (h : Hw) (f : Pole → Pole) : (h.updPole f).blocksOut = h.blocksOut := rfl
@[simp] theorem Hw.updPole_ctlRead (h : Hw) (f : Pole → Pole) : (h.updPole f).ctlRead = h.ctlRead := rfl
@[simp] theorem Hw.updPole_irq (h : Hw) (f : Pole → Pole) : (h.updPole f).irq = h.irq := rfl
@[simp] theorem Hw.updPole_conf (h : Hw) (f : Pole → Pole) : (h.updPole f).conf = h.conf := rfl
@[simp] theorem Hw.updPole_sill (h : Hw) (f : Pole → Pole) : (h.updPole f).sill = h.sill := rfl
@[simp] theorem Hw.updPole_board (h : Hw) (f : Pole → Pole) : (h.updPole f).board = h.board := rfl
@[simp] theorem Hw.updPole_tap (h : Hw) (f : Pole → Pole) : (h.updPole f).tap = h.tap := rfl
@[simp] theorem Hw.updPole_firm (h : Hw) (f : Pole → Pole) : (h.updPole f).firm = h.firm := rfl
@[simp] theorem Hw.updPole_resets (h : Hw) (f : Pole → Pole) : (h.updPole f).resets = h.resets := rfl
@[simp] theorem Hw.updPole_postMortem (h : Hw) (f : Pole → Pole) : (h.updPole f).postMortem = h.postMortem := rfl
@[simp] theorem Hw.updPole_incAt (h : Hw) (f : Pole → Pole) : (h.updPole f).incAt = h.incAt := rfl

@[simp] theorem Hw.updSill_clock (h : Hw) (f : Sill → Sill) : (h.updSill f).clock = h.clock := rfl
@[simp] theorem Hw.updSill_fcyc0 (h : Hw) (f : Sill → Sill) : (h.updSill f).fcyc0 = h.fcyc0 := rfl
@[simp] theorem Hw.updSill_freeCtr (h : Hw) (f : Sill → Sill) : (h.updSill f).freeCtr = h.freeCtr := rfl
@[simp] theorem Hw.updSill_cores (h : Hw) (f : Sill → Sill) : (h.updSill f).cores = h.cores := rfl
@[simp] theorem Hw.updSill_coreDef (h : Hw) (f : Sill → Sill) : (h.updSill f).coreDef = h.coreDef := rfl
@[simp] theorem Hw.updSill_bents (h : Hw) (f : Sill → Sill) : (h.updSill f).bents = h.bents := rfl
@[simp] theorem Hw.updSill_bentDef (h : Hw) (f : Sill → Sill) : (h.updSill f).bentDef = h.bentDef := rfl
@[simp] theorem Hw.updSill_acted (h : Hw) (f : Sill → Sill) : (h.updSill f).acted = h.acted := rfl
@[simp] theorem Hw.updSill_later (h : Hw) (f : Sill → Sill) : (h.updSill f).later = h.later := rfl
@[simp] theorem Hw.updSill_tuples (h : Hw) (f : Sill → Sill) : (h.updSill f).tuples = h.tuples := rfl
@[simp] theorem Hw.updSill_credits (h : Hw) (f : Sill → Sill) : (h.updSill f).credits = h.credits := rfl
@[simp] theorem Hw.updSill_noticesIn (h : Hw) (f : Sill → Sill) : (h.updSill f).noticesIn = h.noticesIn := rfl
@[simp] theorem Hw.updSill_plateCredits (h : Hw) (f : Sill → Sill) : (h.updSill f).plateCredits = h.plateCredits := rfl
@[simp] theorem Hw.updSill_purlins (h : Hw) (f : Sill → Sill) : (h.updSill f).purlins = h.purlins := rfl
@[simp] theorem Hw.updSill_purlinRead (h : Hw) (f : Sill → Sill) : (h.updSill f).purlinRead = h.purlinRead := rfl
@[simp] theorem Hw.updSill_purlinSerial (h : Hw) (f : Sill → Sill) : (h.updSill f).purlinSerial = h.purlinSerial := rfl
@[simp] theorem Hw.updSill_purlinFrom (h : Hw) (f : Sill → Sill) : (h.updSill f).purlinFrom = h.purlinFrom := rfl
@[simp] theorem Hw.updSill_flits (h : Hw) (f : Sill → Sill) : (h.updSill f).flits = h.flits := rfl
@[simp] theorem Hw.updSill_flitSerial (h : Hw) (f : Sill → Sill) : (h.updSill f).flitSerial = h.flitSerial := rfl
@[simp] theorem Hw.updSill_xmWest (h : Hw) (f : Sill → Sill) : (h.updSill f).xmWest = h.xmWest := rfl
@[simp] theorem Hw.updSill_xmEast (h : Hw) (f : Sill → Sill) : (h.updSill f).xmEast = h.xmEast := rfl
@[simp] theorem Hw.updSill_pmCommits (h : Hw) (f : Sill → Sill) : (h.updSill f).pmCommits = h.pmCommits := rfl
@[simp] theorem Hw.updSill_poison (h : Hw) (f : Sill → Sill) : (h.updSill f).poison = h.poison := rfl
@[simp] theorem Hw.updSill_debug (h : Hw) (f : Sill → Sill) : (h.updSill f).debug = h.debug := rfl
@[simp] theorem Hw.updSill_irqPend (h : Hw) (f : Sill → Sill) : (h.updSill f).irqPend = h.irqPend := rfl
@[simp] theorem Hw.updSill_endNotices (h : Hw) (f : Sill → Sill) : (h.updSill f).endNotices = h.endNotices := rfl
@[simp] theorem Hw.updSill_stillReports (h : Hw) (f : Sill → Sill) : (h.updSill f).stillReports = h.stillReports := rfl
@[simp] theorem Hw.updSill_wardenAcks (h : Hw) (f : Sill → Sill) : (h.updSill f).wardenAcks = h.wardenAcks := rfl
@[simp] theorem Hw.updSill_links (h : Hw) (f : Sill → Sill) : (h.updSill f).links = h.links := rfl
@[simp] theorem Hw.updSill_recsWest (h : Hw) (f : Sill → Sill) : (h.updSill f).recsWest = h.recsWest := rfl
@[simp] theorem Hw.updSill_recsEast (h : Hw) (f : Sill → Sill) : (h.updSill f).recsEast = h.recsEast := rfl
@[simp] theorem Hw.updSill_acksIn (h : Hw) (f : Sill → Sill) : (h.updSill f).acksIn = h.acksIn := rfl
@[simp] theorem Hw.updSill_dom (h : Hw) (f : Sill → Sill) : (h.updSill f).dom = h.dom := rfl
@[simp] theorem Hw.updSill_arbAt (h : Hw) (f : Sill → Sill) : (h.updSill f).arbAt = h.arbAt := rfl
@[simp] theorem Hw.updSill_le (h : Hw) (f : Sill → Sill) : (h.updSill f).le = h.le := rfl
@[simp] theorem Hw.updSill_net (h : Hw) (f : Sill → Sill) : (h.updSill f).net = h.net := rfl
@[simp] theorem Hw.updSill_tmpEpochs (h : Hw) (f : Sill → Sill) : (h.updSill f).tmpEpochs = h.tmpEpochs := rfl
@[simp] theorem Hw.updSill_ubtEpochs (h : Hw) (f : Sill → Sill) : (h.updSill f).ubtEpochs = h.ubtEpochs := rfl
@[simp] theorem Hw.updSill_devFrozen (h : Hw) (f : Sill → Sill) : (h.updSill f).devFrozen = h.devFrozen := rfl
@[simp] theorem Hw.updSill_blocksOut (h : Hw) (f : Sill → Sill) : (h.updSill f).blocksOut = h.blocksOut := rfl
@[simp] theorem Hw.updSill_ctlRead (h : Hw) (f : Sill → Sill) : (h.updSill f).ctlRead = h.ctlRead := rfl
@[simp] theorem Hw.updSill_irq (h : Hw) (f : Sill → Sill) : (h.updSill f).irq = h.irq := rfl
@[simp] theorem Hw.updSill_conf (h : Hw) (f : Sill → Sill) : (h.updSill f).conf = h.conf := rfl
@[simp] theorem Hw.updSill_board (h : Hw) (f : Sill → Sill) : (h.updSill f).board = h.board := rfl
@[simp] theorem Hw.updSill_tap (h : Hw) (f : Sill → Sill) : (h.updSill f).tap = h.tap := rfl
@[simp] theorem Hw.updSill_firm (h : Hw) (f : Sill → Sill) : (h.updSill f).firm = h.firm := rfl
@[simp] theorem Hw.updSill_pole (h : Hw) (f : Sill → Sill) : (h.updSill f).pole = h.pole := rfl
@[simp] theorem Hw.updSill_resets (h : Hw) (f : Sill → Sill) : (h.updSill f).resets = h.resets := rfl
@[simp] theorem Hw.updSill_postMortem (h : Hw) (f : Sill → Sill) : (h.updSill f).postMortem = h.postMortem := rfl
@[simp] theorem Hw.updSill_incAt (h : Hw) (f : Sill → Sill) : (h.updSill f).incAt = h.incAt := rfl

@[simp] theorem Hw.updIrq_clock (h : Hw) (f : Irq → Irq) : (h.updIrq f).clock = h.clock := rfl
@[simp] theorem Hw.updIrq_fcyc0 (h : Hw) (f : Irq → Irq) : (h.updIrq f).fcyc0 = h.fcyc0 := rfl
@[simp] theorem Hw.updIrq_freeCtr (h : Hw) (f : Irq → Irq) : (h.updIrq f).freeCtr = h.freeCtr := rfl
@[simp] theorem Hw.updIrq_cores (h : Hw) (f : Irq → Irq) : (h.updIrq f).cores = h.cores := rfl
@[simp] theorem Hw.updIrq_coreDef (h : Hw) (f : Irq → Irq) : (h.updIrq f).coreDef = h.coreDef := rfl
@[simp] theorem Hw.updIrq_bents (h : Hw) (f : Irq → Irq) : (h.updIrq f).bents = h.bents := rfl
@[simp] theorem Hw.updIrq_bentDef (h : Hw) (f : Irq → Irq) : (h.updIrq f).bentDef = h.bentDef := rfl
@[simp] theorem Hw.updIrq_acted (h : Hw) (f : Irq → Irq) : (h.updIrq f).acted = h.acted := rfl
@[simp] theorem Hw.updIrq_later (h : Hw) (f : Irq → Irq) : (h.updIrq f).later = h.later := rfl
@[simp] theorem Hw.updIrq_tuples (h : Hw) (f : Irq → Irq) : (h.updIrq f).tuples = h.tuples := rfl
@[simp] theorem Hw.updIrq_credits (h : Hw) (f : Irq → Irq) : (h.updIrq f).credits = h.credits := rfl
@[simp] theorem Hw.updIrq_noticesIn (h : Hw) (f : Irq → Irq) : (h.updIrq f).noticesIn = h.noticesIn := rfl
@[simp] theorem Hw.updIrq_plateCredits (h : Hw) (f : Irq → Irq) : (h.updIrq f).plateCredits = h.plateCredits := rfl
@[simp] theorem Hw.updIrq_purlins (h : Hw) (f : Irq → Irq) : (h.updIrq f).purlins = h.purlins := rfl
@[simp] theorem Hw.updIrq_purlinRead (h : Hw) (f : Irq → Irq) : (h.updIrq f).purlinRead = h.purlinRead := rfl
@[simp] theorem Hw.updIrq_purlinSerial (h : Hw) (f : Irq → Irq) : (h.updIrq f).purlinSerial = h.purlinSerial := rfl
@[simp] theorem Hw.updIrq_purlinFrom (h : Hw) (f : Irq → Irq) : (h.updIrq f).purlinFrom = h.purlinFrom := rfl
@[simp] theorem Hw.updIrq_flits (h : Hw) (f : Irq → Irq) : (h.updIrq f).flits = h.flits := rfl
@[simp] theorem Hw.updIrq_flitSerial (h : Hw) (f : Irq → Irq) : (h.updIrq f).flitSerial = h.flitSerial := rfl
@[simp] theorem Hw.updIrq_xmWest (h : Hw) (f : Irq → Irq) : (h.updIrq f).xmWest = h.xmWest := rfl
@[simp] theorem Hw.updIrq_xmEast (h : Hw) (f : Irq → Irq) : (h.updIrq f).xmEast = h.xmEast := rfl
@[simp] theorem Hw.updIrq_pmCommits (h : Hw) (f : Irq → Irq) : (h.updIrq f).pmCommits = h.pmCommits := rfl
@[simp] theorem Hw.updIrq_poison (h : Hw) (f : Irq → Irq) : (h.updIrq f).poison = h.poison := rfl
@[simp] theorem Hw.updIrq_debug (h : Hw) (f : Irq → Irq) : (h.updIrq f).debug = h.debug := rfl
@[simp] theorem Hw.updIrq_irqPend (h : Hw) (f : Irq → Irq) : (h.updIrq f).irqPend = h.irqPend := rfl
@[simp] theorem Hw.updIrq_endNotices (h : Hw) (f : Irq → Irq) : (h.updIrq f).endNotices = h.endNotices := rfl
@[simp] theorem Hw.updIrq_stillReports (h : Hw) (f : Irq → Irq) : (h.updIrq f).stillReports = h.stillReports := rfl
@[simp] theorem Hw.updIrq_wardenAcks (h : Hw) (f : Irq → Irq) : (h.updIrq f).wardenAcks = h.wardenAcks := rfl
@[simp] theorem Hw.updIrq_links (h : Hw) (f : Irq → Irq) : (h.updIrq f).links = h.links := rfl
@[simp] theorem Hw.updIrq_recsWest (h : Hw) (f : Irq → Irq) : (h.updIrq f).recsWest = h.recsWest := rfl
@[simp] theorem Hw.updIrq_recsEast (h : Hw) (f : Irq → Irq) : (h.updIrq f).recsEast = h.recsEast := rfl
@[simp] theorem Hw.updIrq_acksIn (h : Hw) (f : Irq → Irq) : (h.updIrq f).acksIn = h.acksIn := rfl
@[simp] theorem Hw.updIrq_dom (h : Hw) (f : Irq → Irq) : (h.updIrq f).dom = h.dom := rfl
@[simp] theorem Hw.updIrq_arbAt (h : Hw) (f : Irq → Irq) : (h.updIrq f).arbAt = h.arbAt := rfl
@[simp] theorem Hw.updIrq_le (h : Hw) (f : Irq → Irq) : (h.updIrq f).le = h.le := rfl
@[simp] theorem Hw.updIrq_net (h : Hw) (f : Irq → Irq) : (h.updIrq f).net = h.net := rfl
@[simp] theorem Hw.updIrq_tmpEpochs (h : Hw) (f : Irq → Irq) : (h.updIrq f).tmpEpochs = h.tmpEpochs := rfl
@[simp] theorem Hw.updIrq_ubtEpochs (h : Hw) (f : Irq → Irq) : (h.updIrq f).ubtEpochs = h.ubtEpochs := rfl
@[simp] theorem Hw.updIrq_devFrozen (h : Hw) (f : Irq → Irq) : (h.updIrq f).devFrozen = h.devFrozen := rfl
@[simp] theorem Hw.updIrq_blocksOut (h : Hw) (f : Irq → Irq) : (h.updIrq f).blocksOut = h.blocksOut := rfl
@[simp] theorem Hw.updIrq_ctlRead (h : Hw) (f : Irq → Irq) : (h.updIrq f).ctlRead = h.ctlRead := rfl
@[simp] theorem Hw.updIrq_conf (h : Hw) (f : Irq → Irq) : (h.updIrq f).conf = h.conf := rfl
@[simp] theorem Hw.updIrq_sill (h : Hw) (f : Irq → Irq) : (h.updIrq f).sill = h.sill := rfl
@[simp] theorem Hw.updIrq_board (h : Hw) (f : Irq → Irq) : (h.updIrq f).board = h.board := rfl
@[simp] theorem Hw.updIrq_tap (h : Hw) (f : Irq → Irq) : (h.updIrq f).tap = h.tap := rfl
@[simp] theorem Hw.updIrq_firm (h : Hw) (f : Irq → Irq) : (h.updIrq f).firm = h.firm := rfl
@[simp] theorem Hw.updIrq_pole (h : Hw) (f : Irq → Irq) : (h.updIrq f).pole = h.pole := rfl
@[simp] theorem Hw.updIrq_resets (h : Hw) (f : Irq → Irq) : (h.updIrq f).resets = h.resets := rfl
@[simp] theorem Hw.updIrq_postMortem (h : Hw) (f : Irq → Irq) : (h.updIrq f).postMortem = h.postMortem := rfl
@[simp] theorem Hw.updIrq_incAt (h : Hw) (f : Irq → Irq) : (h.updIrq f).incAt = h.incAt := rfl

@[simp] theorem Hw.raiseSource_pending (h : Hw) (n : Nat) : (h.raiseSource n).irqPend = h.irqPend ||| (1#288 <<< n) := rfl
@[simp] theorem Hw.updDom_dom (h : Hw) (f : Domain → Domain) : (h.updDom f).dom = f h.dom := rfl
@[simp] theorem Hw.updNet_net (h : Hw) (f : Net → Net) : (h.updNet f).net = f h.net := rfl
@[simp] theorem Hw.updLe_le (h : Hw) (f : Layout → Layout) : (h.updLe f).le = f h.le := rfl
@[simp] theorem Hw.updPole_pole (h : Hw) (f : Pole → Pole) : (h.updPole f).pole = f h.pole := rfl
@[simp] theorem Hw.updSill_sill (h : Hw) (f : Sill → Sill) : (h.updSill f).sill = f h.sill := rfl
@[simp] theorem Hw.updIrq_irq (h : Hw) (f : Irq → Irq) : (h.updIrq f).irq = f h.irq := rfl

/-! ### Time -/

/-- Time does not run back. -/
@[simp] theorem Hw.reach_past (h : Hw) {t : Nat} (ht : t ≤ h.clock) : h.reach t = h := by simp [Hw.reach, ht]

/-- The clock stands where time has run to. -/
@[simp] theorem Hw.reach_clock (h : Hw) (t : Nat) : (h.reach t).clock = max h.clock t := by
  unfold Hw.reach
  split
  · omega
  · show t = max h.clock t
    omega

/-- No effect is due before the first that is due late enough. -/
theorem Hw.settleTo_nothing {h : Hw} {t : Nat} (hl : h.later.all (fun e => decide (t ≤ e.1)) = true) : h.settleTo t = h := by
  have hd : h.later.takeWhile (fun e => decide (e.1 < t)) = [] := by
    cases hq : h.later with
    | nil => rfl
    | cons e rest =>
      have : t ≤ e.1 := by simpa [hq] using (List.all_eq_true.mp hl e (by simp [hq]))
      simp [Nat.not_lt.mpr this]
  simp [Hw.settleTo, hd]

/-- Where no effect takes hold in between, time runs on and changes the clock alone. -/
theorem Hw.reach_nothing {h : Hw} {t : Nat} (ht : h.clock < t) (hl : h.later.all (fun e => decide (t ≤ e.1)) = true) :
    h.reach t = { h with clock := t, acted := false } := by
  simp [Hw.reach, Nat.not_le.mpr ht, Hw.settleTo_nothing hl]

/-! ### Cores, bents and links after a change -/

@[simp] theorem Hw.core_setCore_self (h : Hw) (c : Nat) (k : Core) : (h.setCore c k).core c = k := by
  simp [Hw.core, Hw.setCore]

theorem Hw.core_setCore_ne (h : Hw) {c d : Nat} (hd : d ≠ c) (k : Core) : (h.setCore c k).core d = h.core d := by
  simp [Hw.core, Hw.setCore, sgetD_sset_ne hd]

@[simp] theorem Hw.core_updCore_self (h : Hw) (c : Nat) (f : Core → Core) : (h.updCore c f).core c = f (h.core c) := by
  simp [Hw.updCore]

theorem Hw.core_updCore_ne (h : Hw) {c d : Nat} (hd : d ≠ c) (f : Core → Core) : (h.updCore c f).core d = h.core d := by
  simp [Hw.updCore, Hw.core_setCore_ne _ hd]

@[simp] theorem Hw.core_updAllCores (h : Hw) (c : Nat) (f : Core → Core) : (h.updAllCores f).core c = f (h.core c) := by
  simp [Hw.core, Hw.updAllCores, sgetD_map]

@[simp] theorem Hw.bent_setBent_self (h : Hw) (b : Nat) (x : Bent) : (h.setBent b x).bent b = x := by
  simp [Hw.bent, Hw.setBent]

theorem Hw.bent_setBent_ne (h : Hw) {b d : Nat} (hd : d ≠ b) (x : Bent) : (h.setBent b x).bent d = h.bent d := by
  simp [Hw.bent, Hw.setBent, sgetD_sset_ne hd]

@[simp] theorem Hw.bent_updBent_self (h : Hw) (b : Nat) (f : Bent → Bent) : (h.updBent b f).bent b = f (h.bent b) := by
  simp [Hw.updBent]

theorem Hw.bent_updBent_ne (h : Hw) {b d : Nat} (hd : d ≠ b) (f : Bent → Bent) : (h.updBent b f).bent d = h.bent d := by
  simp [Hw.updBent, Hw.bent_setBent_ne _ hd]

@[simp] theorem Hw.bent_updAllBents (h : Hw) (b : Nat) (f : Bent → Bent) : (h.updAllBents f).bent b = f (h.bent b) := by
  simp [Hw.bent, Hw.updAllBents, sgetD_map]

@[simp] theorem Hw.link_updLink_self (h : Hw) (l : Fin 8) (f : Link → Link) : (h.updLink l f).link l = f (h.link l) := by
  simp [Hw.link, Hw.updLink]

theorem Hw.link_updLink_ne (h : Hw) {l k : Fin 8} (hk : k ≠ l) (f : Link → Link) : (h.updLink l f).link k = h.link k := by
  simp [Hw.link, Hw.updLink, Fin.val_ne_of_ne hk.symm]

/-- What does not touch the cores leaves every core as it was. -/
theorem Hw.core_congr {h g : Hw} (hc : h.cores = g.cores) (hd : h.coreDef = g.coreDef) (c : Nat) : h.core c = g.core c := by
  simp [Hw.core, hc, hd]

/-- What does not touch the bents leaves every bent as it was. -/
theorem Hw.bent_congr {h g : Hw} (hc : h.bents = g.bents) (hd : h.bentDef = g.bentDef) (b : Nat) : h.bent b = g.bent b := by
  simp [Hw.bent, hc, hd]

@[simp] theorem Hw.bent_setCore (h : Hw) (b_ : Nat) (c : Nat) (k : Core) : (h.setCore c k).bent b_ = h.bent b_ := rfl
@[simp] theorem Hw.link_setCore (h : Hw) (l_ : Fin 8) (c : Nat) (k : Core) : (h.setCore c k).link l_ = h.link l_ := rfl
@[simp] theorem Hw.bent_updCore (h : Hw) (b_ : Nat) (c : Nat) (f : Core → Core) : (h.updCore c f).bent b_ = h.bent b_ := rfl
@[simp] theorem Hw.link_updCore (h : Hw) (l_ : Fin 8) (c : Nat) (f : Core → Core) : (h.updCore c f).link l_ = h.link l_ := rfl
@[simp] theorem Hw.bent_updThread (h : Hw) (b_ : Nat) (w : Who) (f : Thread → Thread) : (h.updThread w f).bent b_ = h.bent b_ := rfl
@[simp] theorem Hw.link_updThread (h : Hw) (l_ : Fin 8) (w : Who) (f : Thread → Thread) : (h.updThread w f).link l_ = h.link l_ := rfl
@[simp] theorem Hw.bent_updAllCores (h : Hw) (b_ : Nat) (f : Core → Core) : (h.updAllCores f).bent b_ = h.bent b_ := rfl
@[simp] theorem Hw.link_updAllCores (h : Hw) (l_ : Fin 8) (f : Core → Core) : (h.updAllCores f).link l_ = h.link l_ := rfl
@[simp] theorem Hw.core_setBent (h : Hw) (c_ : Nat) (b : Nat) (x : Bent) : (h.setBent b x).core c_ = h.core c_ := rfl
@[simp] theorem Hw.link_setBent (h : Hw) (l_ : Fin 8) (b : Nat) (x : Bent) : (h.setBent b x).link l_ = h.link l_ := rfl
@[simp] theorem Hw.core_updBent (h : Hw) (c_ : Nat) (b : Nat) (f : Bent → Bent) : (h.updBent b f).core c_ = h.core c_ := rfl
@[simp] theorem Hw.link_updBent (h : Hw) (l_ : Fin 8) (b : Nat) (f : Bent → Bent) : (h.updBent b f).link l_ = h.link l_ := rfl
@[simp] theorem Hw.core_updAllBents (h : Hw) (c_ : Nat) (f : Bent → Bent) : (h.updAllBents f).core c_ = h.core c_ := rfl
@[simp] theorem Hw.link_updAllBents (h : Hw) (l_ : Fin 8) (f : Bent → Bent) : (h.updAllBents f).link l_ = h.link l_ := rfl
@[simp] theorem Hw.core_raiseSource (h : Hw) (c_ : Nat) (n : Nat) : (h.raiseSource n).core c_ = h.core c_ := rfl
@[simp] theorem Hw.bent_raiseSource (h : Hw) (b_ : Nat) (n : Nat) : (h.raiseSource n).bent b_ = h.bent b_ := rfl
@[simp] theorem Hw.link_raiseSource (h : Hw) (l_ : Fin 8) (n : Nat) : (h.raiseSource n).link l_ = h.link l_ := rfl
@[simp] theorem Hw.bent_raiseIpend (h : Hw) (b_ : Nat) (c : CoreId) (t : Fin 4) (bit : Nat) : (h.raiseIpend c t bit).bent b_ = h.bent b_ := rfl
@[simp] theorem Hw.link_raiseIpend (h : Hw) (l_ : Fin 8) (c : CoreId) (t : Fin 4) (bit : Nat) : (h.raiseIpend c t bit).link l_ = h.link l_ := rfl
@[simp] theorem Hw.bent_raiseEvent (h : Hw) (b_ : Nat) (w : Who) (k : Fin 16) : (h.raiseEvent w k).bent b_ = h.bent b_ := rfl
@[simp] theorem Hw.link_raiseEvent (h : Hw) (l_ : Fin 8) (w : Who) (k : Fin 16) : (h.raiseEvent w k).link l_ = h.link l_ := rfl
@[simp] theorem Hw.core_updLink (h : Hw) (c_ : Nat) (l : Fin 8) (f : Link → Link) : (h.updLink l f).core c_ = h.core c_ := rfl
@[simp] theorem Hw.bent_updLink (h : Hw) (b_ : Nat) (l : Fin 8) (f : Link → Link) : (h.updLink l f).bent b_ = h.bent b_ := rfl
@[simp] theorem Hw.core_updDom (h : Hw) (c_ : Nat) (f : Domain → Domain) : (h.updDom f).core c_ = h.core c_ := rfl
@[simp] theorem Hw.bent_updDom (h : Hw) (b_ : Nat) (f : Domain → Domain) : (h.updDom f).bent b_ = h.bent b_ := rfl
@[simp] theorem Hw.link_updDom (h : Hw) (l_ : Fin 8) (f : Domain → Domain) : (h.updDom f).link l_ = h.link l_ := rfl
@[simp] theorem Hw.core_updNet (h : Hw) (c_ : Nat) (f : Net → Net) : (h.updNet f).core c_ = h.core c_ := rfl
@[simp] theorem Hw.bent_updNet (h : Hw) (b_ : Nat) (f : Net → Net) : (h.updNet f).bent b_ = h.bent b_ := rfl
@[simp] theorem Hw.link_updNet (h : Hw) (l_ : Fin 8) (f : Net → Net) : (h.updNet f).link l_ = h.link l_ := rfl
@[simp] theorem Hw.core_updLe (h : Hw) (c_ : Nat) (f : Layout → Layout) : (h.updLe f).core c_ = h.core c_ := rfl
@[simp] theorem Hw.bent_updLe (h : Hw) (b_ : Nat) (f : Layout → Layout) : (h.updLe f).bent b_ = h.bent b_ := rfl
@[simp] theorem Hw.link_updLe (h : Hw) (l_ : Fin 8) (f : Layout → Layout) : (h.updLe f).link l_ = h.link l_ := rfl
@[simp] theorem Hw.core_updPole (h : Hw) (c_ : Nat) (f : Pole → Pole) : (h.updPole f).core c_ = h.core c_ := rfl
@[simp] theorem Hw.bent_updPole (h : Hw) (b_ : Nat) (f : Pole → Pole) : (h.updPole f).bent b_ = h.bent b_ := rfl
@[simp] theorem Hw.link_updPole (h : Hw) (l_ : Fin 8) (f : Pole → Pole) : (h.updPole f).link l_ = h.link l_ := rfl
@[simp] theorem Hw.core_updSill (h : Hw) (c_ : Nat) (f : Sill → Sill) : (h.updSill f).core c_ = h.core c_ := rfl
@[simp] theorem Hw.bent_updSill (h : Hw) (b_ : Nat) (f : Sill → Sill) : (h.updSill f).bent b_ = h.bent b_ := rfl
@[simp] theorem Hw.link_updSill (h : Hw) (l_ : Fin 8) (f : Sill → Sill) : (h.updSill f).link l_ = h.link l_ := rfl
@[simp] theorem Hw.core_updIrq (h : Hw) (c_ : Nat) (f : Irq → Irq) : (h.updIrq f).core c_ = h.core c_ := rfl
@[simp] theorem Hw.bent_updIrq (h : Hw) (b_ : Nat) (f : Irq → Irq) : (h.updIrq f).bent b_ = h.bent b_ := rfl
@[simp] theorem Hw.link_updIrq (h : Hw) (l_ : Fin 8) (f : Irq → Irq) : (h.updIrq f).link l_ = h.link l_ := rfl

/-! ### Threads of a core -/

@[simp] theorem Core.thread_setThread_self (k : Core) (t : Fin 4) (x : Thread) : (k.setThread t x).thread t = x := by
  simp [Core.thread, Core.setThread]

theorem Core.thread_setThread_ne (k : Core) {t u : Fin 4} (hu : u ≠ t) (x : Thread) : (k.setThread t x).thread u = k.thread u := by
  simp [Core.thread, Core.setThread, Fin.val_ne_of_ne hu.symm]

@[simp] theorem Core.thread_updThread_self (k : Core) (t : Fin 4) (f : Thread → Thread) :
    (k.updThread t f).thread t = f (k.thread t) := by simp [Core.updThread]

theorem Core.thread_updThread_ne (k : Core) {t u : Fin 4} (hu : u ≠ t) (f : Thread → Thread) :
    (k.updThread t f).thread u = k.thread u := by simp [Core.updThread, Core.thread_setThread_ne _ hu]

@[simp] theorem Core.thread_updThreads (k : Core) (t : Fin 4) (f : Thread → Thread) :
    (k.updThreads f).thread t = f (k.thread t) := by simp [Core.thread, Core.updThreads]

@[simp] theorem Hw.thread_updThread_self (h : Hw) (w : Who) (f : Thread → Thread) :
    (h.updThread w f).thread w = f (h.thread w) := by simp [Hw.thread, Hw.updThread]

theorem Hw.thread_updThread_other (h : Hw) (w : Who) {u : Fin 4} (hu : u ≠ w.thread) (f : Thread → Thread) :
    ((h.updThread w f).core w.core).thread u = (h.core w.core).thread u := by
  simp [Hw.updThread, Core.thread_updThread_ne _ hu]

theorem Hw.core_updThread_ne (h : Hw) (w : Who) {c : Nat} (hc : c ≠ w.core.val) (f : Thread → Thread) :
    (h.updThread w f).core c = h.core c := by simp [Hw.updThread, Hw.core_updCore_ne _ hc]

/-! ### Updates of a core, field by field -/

@[simp] theorem Core.setThread_cyc0 (k : Core) (t : Fin 4) (x : Thread) : (k.setThread t x).cyc0 = k.cyc0 := rfl
@[simp] theorem Core.setThread_frozenAt (k : Core) (t : Fin 4) (x : Thread) : (k.setThread t x).frozenAt = k.frozenAt := rfl
@[simp] theorem Core.setThread_coreHalt (k : Core) (t : Fin 4) (x : Thread) : (k.setThread t x).coreHalt = k.coreHalt := rfl
@[simp] theorem Core.setThread_held (k : Core) (t : Fin 4) (x : Thread) : (k.setThread t x).held = k.held := rfl
@[simp] theorem Core.setThread_locks (k : Core) (t : Fin 4) (x : Thread) : (k.setThread t x).locks = k.locks := rfl
@[simp] theorem Core.setThread_mat (k : Core) (t : Fin 4) (x : Thread) : (k.setThread t x).mat = k.mat := rfl
@[simp] theorem Core.setThread_arrayFrom (k : Core) (t : Fin 4) (x : Thread) : (k.setThread t x).arrayFrom = k.arrayFrom := rfl
@[simp] theorem Core.setThread_matSerial (k : Core) (t : Fin 4) (x : Thread) : (k.setThread t x).matSerial = k.matSerial := rfl
@[simp] theorem Core.setThread_mwork (k : Core) (t : Fin 4) (x : Thread) : (k.setThread t x).mwork = k.mwork := rfl
@[simp] theorem Core.setThread_groups (k : Core) (t : Fin 4) (x : Thread) : (k.setThread t x).groups = k.groups := rfl
@[simp] theorem Core.setThread_tiles (k : Core) (t : Fin 4) (x : Thread) : (k.setThread t x).tiles = k.tiles := rfl
@[simp] theorem Core.setThread_tileFree (k : Core) (t : Fin 4) (x : Thread) : (k.setThread t x).tileFree = k.tileFree := rfl
@[simp] theorem Core.setThread_groupFree (k : Core) (t : Fin 4) (x : Thread) : (k.setThread t x).groupFree = k.groupFree := rfl
@[simp] theorem Core.setThread_drainWait (k : Core) (t : Fin 4) (x : Thread) : (k.setThread t x).drainWait = k.drainWait := rfl
@[simp] theorem Core.setThread_drains (k : Core) (t : Fin 4) (x : Thread) : (k.setThread t x).drains = k.drains := rfl
@[simp] theorem Core.setThread_stream (k : Core) (t : Fin 4) (x : Thread) : (k.setThread t x).stream = k.stream := rfl
@[simp] theorem Core.setThread_tileMove (k : Core) (t : Fin 4) (x : Thread) : (k.setThread t x).tileMove = k.tileMove := rfl
@[simp] theorem Core.setThread_trelHeld (k : Core) (t : Fin 4) (x : Thread) : (k.setThread t x).trelHeld = k.trelHeld := rfl
@[simp] theorem Core.setThread_trelWait (k : Core) (t : Fin 4) (x : Thread) : (k.setThread t x).trelWait = k.trelWait := rfl
@[simp] theorem Core.setThread_released (k : Core) (t : Fin 4) (x : Thread) : (k.setThread t x).released = k.released := rfl
@[simp] theorem Core.setThread_frame (k : Core) (t : Fin 4) (x : Thread) : (k.setThread t x).frame = k.frame := rfl
@[simp] theorem Core.setThread_sfuFrom (k : Core) (t : Fin 4) (x : Thread) : (k.setThread t x).sfuFrom = k.sfuFrom := rfl
@[simp] theorem Core.setThread_winShadow (k : Core) (t : Fin 4) (x : Thread) : (k.setThread t x).winShadow = k.winShadow := rfl
@[simp] theorem Core.setThread_winActive (k : Core) (t : Fin 4) (x : Thread) : (k.setThread t x).winActive = k.winActive := rfl
@[simp] theorem Core.setThread_hrdrop (k : Core) (t : Fin 4) (x : Thread) : (k.setThread t x).hrdrop = k.hrdrop := rfl
@[simp] theorem Core.setThread_hsdrop (k : Core) (t : Fin 4) (x : Thread) : (k.setThread t x).hsdrop = k.hsdrop := rfl
@[simp] theorem Core.setThread_hsdropMore (k : Core) (t : Fin 4) (x : Thread) : (k.setThread t x).hsdropMore = k.hsdropMore := rfl
@[simp] theorem Core.setThread_seaddr (k : Core) (t : Fin 4) (x : Thread) : (k.setThread t x).seaddr = k.seaddr := rfl
@[simp] theorem Core.setThread_seMore (k : Core) (t : Fin 4) (x : Thread) : (k.setThread t x).seMore = k.seMore := rfl
@[simp] theorem Core.setThread_unitQ (k : Core) (t : Fin 4) (x : Thread) : (k.setThread t x).unitQ = k.unitQ := rfl
@[simp] theorem Core.setThread_unitFrom (k : Core) (t : Fin 4) (x : Thread) : (k.setThread t x).unitFrom = k.unitFrom := rfl
@[simp] theorem Core.setThread_imemFrom (k : Core) (t : Fin 4) (x : Thread) : (k.setThread t x).imemFrom = k.imemFrom := rfl
@[simp] theorem Core.setThread_imemQ (k : Core) (t : Fin 4) (x : Thread) : (k.setThread t x).imemQ = k.imemQ := rfl
@[simp] theorem Core.setThread_isegx (k : Core) (t : Fin 4) (x : Thread) : (k.setThread t x).isegx = k.isegx := rfl
@[simp] theorem Core.setThread_cache (k : Core) (t : Fin 4) (x : Thread) : (k.setThread t x).cache = k.cache := rfl
@[simp] theorem Core.setThread_cacheStamp (k : Core) (t : Fin 4) (x : Thread) : (k.setThread t x).cacheStamp = k.cacheStamp := rfl
@[simp] theorem Core.setThread_miss (k : Core) (t : Fin 4) (x : Thread) : (k.setThread t x).miss = k.miss := rfl
@[simp] theorem Core.setThread_loads (k : Core) (t : Fin 4) (x : Thread) : (k.setThread t x).loads = k.loads := rfl
@[simp] theorem Core.setThread_evb (k : Core) (t : Fin 4) (x : Thread) : (k.setThread t x).evb = k.evb := rfl
@[simp] theorem Core.setThread_evSerial (k : Core) (t : Fin 4) (x : Thread) : (k.setThread t x).evSerial = k.evSerial := rfl
@[simp] theorem Core.setThread_evDone (k : Core) (t : Fin 4) (x : Thread) : (k.setThread t x).evDone = k.evDone := rfl
@[simp] theorem Core.setThread_cinv (k : Core) (t : Fin 4) (x : Thread) : (k.setThread t x).cinv = k.cinv := rfl
@[simp] theorem Core.setThread_tileZero (k : Core) (t : Fin 4) (x : Thread) : (k.setThread t x).tileZero = k.tileZero := rfl
@[simp] theorem Core.setThread_dchits (k : Core) (t : Fin 4) (x : Thread) : (k.setThread t x).dchits = k.dchits := rfl
@[simp] theorem Core.setThread_dcmisses (k : Core) (t : Fin 4) (x : Thread) : (k.setThread t x).dcmisses = k.dcmisses := rfl
@[simp] theorem Core.setThread_tenons (k : Core) (t : Fin 4) (x : Thread) : (k.setThread t x).tenons = k.tenons := rfl
@[simp] theorem Core.setThread_ncommitPending (k : Core) (t : Fin 4) (x : Thread) : (k.setThread t x).ncommitPending = k.ncommitPending := rfl
@[simp] theorem Core.setThread_nstalled (k : Core) (t : Fin 4) (x : Thread) : (k.setThread t x).nstalled = k.nstalled := rfl
@[simp] theorem Core.setThread_stallLimit (k : Core) (t : Fin 4) (x : Thread) : (k.setThread t x).stallLimit = k.stallLimit := rfl
@[simp] theorem Core.setThread_mortises (k : Core) (t : Fin 4) (x : Thread) : (k.setThread t x).mortises = k.mortises := rfl
@[simp] theorem Core.setThread_movf (k : Core) (t : Fin 4) (x : Thread) : (k.setThread t x).movf = k.movf := rfl
@[simp] theorem Core.setThread_stillCtl (k : Core) (t : Fin 4) (x : Thread) : (k.setThread t x).stillCtl = k.stillCtl := rfl
@[simp] theorem Core.setThread_still (k : Core) (t : Fin 4) (x : Thread) : (k.setThread t x).still = k.still := rfl
@[simp] theorem Core.setThread_remoteOut (k : Core) (t : Fin 4) (x : Thread) : (k.setThread t x).remoteOut = k.remoteOut := rfl
@[simp] theorem Core.setThread_stillFrom (k : Core) (t : Fin 4) (x : Thread) : (k.setThread t x).stillFrom = k.stillFrom := rfl
@[simp] theorem Core.setThread_pCycleHi (k : Core) (t : Fin 4) (x : Thread) : (k.setThread t x).pCycleHi = k.pCycleHi := rfl
@[simp] theorem Core.setThread_pMworkHi (k : Core) (t : Fin 4) (x : Thread) : (k.setThread t x).pMworkHi = k.pMworkHi := rfl
@[simp] theorem Core.setThread_pAdbgW (k : Core) (t : Fin 4) (x : Thread) : (k.setThread t x).pAdbgW = k.pAdbgW := rfl
@[simp] theorem Core.setThread_pAdbgCls (k : Core) (t : Fin 4) (x : Thread) : (k.setThread t x).pAdbgCls = k.pAdbgCls := rfl
@[simp] theorem Core.setThread_pTrLatch (k : Core) (t : Fin 4) (x : Thread) : (k.setThread t x).pTrLatch = k.pTrLatch := rfl
@[simp] theorem Core.setThread_whalt (k : Core) (t : Fin 4) (x : Thread) : (k.setThread t x).whalt = k.whalt := rfl
@[simp] theorem Core.setThread_wstill (k : Core) (t : Fin 4) (x : Thread) : (k.setThread t x).wstill = k.wstill := rfl
@[simp] theorem Core.setThread_wprio (k : Core) (t : Fin 4) (x : Thread) : (k.setThread t x).wprio = k.wprio := rfl
@[simp] theorem Core.setThread_pmvpn (k : Core) (t : Fin 4) (x : Thread) : (k.setThread t x).pmvpn = k.pmvpn := rfl
@[simp] theorem Core.setThread_pment (k : Core) (t : Fin 4) (x : Thread) : (k.setThread t x).pment = k.pment := rfl
@[simp] theorem Core.setThread_pmRef (k : Core) (t : Fin 4) (x : Thread) : (k.setThread t x).pmRef = k.pmRef := rfl
@[simp] theorem Core.setThread_adbgSel (k : Core) (t : Fin 4) (x : Thread) : (k.setThread t x).adbgSel = k.adbgSel := rfl
@[simp] theorem Core.setThread_dbPend (k : Core) (t : Fin 4) (x : Thread) : (k.setThread t x).dbPend = k.dbPend := rfl
@[simp] theorem Core.setThread_dbDup (k : Core) (t : Fin 4) (x : Thread) : (k.setThread t x).dbDup = k.dbDup := rfl
@[simp] theorem Core.setThread_dbOrphan (k : Core) (t : Fin 4) (x : Thread) : (k.setThread t x).dbOrphan = k.dbOrphan := rfl
@[simp] theorem Core.setThread_runsCut (k : Core) (t : Fin 4) (x : Thread) : (k.setThread t x).runsCut = k.runsCut := rfl
@[simp] theorem Core.setThread_mcstat (k : Core) (t : Fin 4) (x : Thread) : (k.setThread t x).mcstat = k.mcstat := rfl
@[simp] theorem Core.setThread_mcaddr (k : Core) (t : Fin 4) (x : Thread) : (k.setThread t x).mcaddr = k.mcaddr := rfl
@[simp] theorem Core.setThread_mcMore (k : Core) (t : Fin 4) (x : Thread) : (k.setThread t x).mcMore = k.mcMore := rfl
@[simp] theorem Core.setThread_secc (k : Core) (t : Fin 4) (x : Thread) : (k.setThread t x).secc = k.secc := rfl
@[simp] theorem Core.setThread_dregsel (k : Core) (t : Fin 4) (x : Thread) : (k.setThread t x).dregsel = k.dregsel := rfl
@[simp] theorem Core.setThread_dreg (k : Core) (t : Fin 4) (x : Thread) : (k.setThread t x).dreg = k.dreg := rfl
@[simp] theorem Core.setThread_dregErr (k : Core) (t : Fin 4) (x : Thread) : (k.setThread t x).dregErr = k.dregErr := rfl
@[simp] theorem Core.setThread_trctl (k : Core) (t : Fin 4) (x : Thread) : (k.setThread t x).trctl = k.trctl := rfl

@[simp] theorem Core.updThread_cyc0 (k : Core) (t : Fin 4) (f : Thread → Thread) : (k.updThread t f).cyc0 = k.cyc0 := rfl
@[simp] theorem Core.updThread_frozenAt (k : Core) (t : Fin 4) (f : Thread → Thread) : (k.updThread t f).frozenAt = k.frozenAt := rfl
@[simp] theorem Core.updThread_coreHalt (k : Core) (t : Fin 4) (f : Thread → Thread) : (k.updThread t f).coreHalt = k.coreHalt := rfl
@[simp] theorem Core.updThread_held (k : Core) (t : Fin 4) (f : Thread → Thread) : (k.updThread t f).held = k.held := rfl
@[simp] theorem Core.updThread_locks (k : Core) (t : Fin 4) (f : Thread → Thread) : (k.updThread t f).locks = k.locks := rfl
@[simp] theorem Core.updThread_mat (k : Core) (t : Fin 4) (f : Thread → Thread) : (k.updThread t f).mat = k.mat := rfl
@[simp] theorem Core.updThread_arrayFrom (k : Core) (t : Fin 4) (f : Thread → Thread) : (k.updThread t f).arrayFrom = k.arrayFrom := rfl
@[simp] theorem Core.updThread_matSerial (k : Core) (t : Fin 4) (f : Thread → Thread) : (k.updThread t f).matSerial = k.matSerial := rfl
@[simp] theorem Core.updThread_mwork (k : Core) (t : Fin 4) (f : Thread → Thread) : (k.updThread t f).mwork = k.mwork := rfl
@[simp] theorem Core.updThread_groups (k : Core) (t : Fin 4) (f : Thread → Thread) : (k.updThread t f).groups = k.groups := rfl
@[simp] theorem Core.updThread_tiles (k : Core) (t : Fin 4) (f : Thread → Thread) : (k.updThread t f).tiles = k.tiles := rfl
@[simp] theorem Core.updThread_tileFree (k : Core) (t : Fin 4) (f : Thread → Thread) : (k.updThread t f).tileFree = k.tileFree := rfl
@[simp] theorem Core.updThread_groupFree (k : Core) (t : Fin 4) (f : Thread → Thread) : (k.updThread t f).groupFree = k.groupFree := rfl
@[simp] theorem Core.updThread_drainWait (k : Core) (t : Fin 4) (f : Thread → Thread) : (k.updThread t f).drainWait = k.drainWait := rfl
@[simp] theorem Core.updThread_drains (k : Core) (t : Fin 4) (f : Thread → Thread) : (k.updThread t f).drains = k.drains := rfl
@[simp] theorem Core.updThread_stream (k : Core) (t : Fin 4) (f : Thread → Thread) : (k.updThread t f).stream = k.stream := rfl
@[simp] theorem Core.updThread_tileMove (k : Core) (t : Fin 4) (f : Thread → Thread) : (k.updThread t f).tileMove = k.tileMove := rfl
@[simp] theorem Core.updThread_trelHeld (k : Core) (t : Fin 4) (f : Thread → Thread) : (k.updThread t f).trelHeld = k.trelHeld := rfl
@[simp] theorem Core.updThread_trelWait (k : Core) (t : Fin 4) (f : Thread → Thread) : (k.updThread t f).trelWait = k.trelWait := rfl
@[simp] theorem Core.updThread_released (k : Core) (t : Fin 4) (f : Thread → Thread) : (k.updThread t f).released = k.released := rfl
@[simp] theorem Core.updThread_frame (k : Core) (t : Fin 4) (f : Thread → Thread) : (k.updThread t f).frame = k.frame := rfl
@[simp] theorem Core.updThread_sfuFrom (k : Core) (t : Fin 4) (f : Thread → Thread) : (k.updThread t f).sfuFrom = k.sfuFrom := rfl
@[simp] theorem Core.updThread_winShadow (k : Core) (t : Fin 4) (f : Thread → Thread) : (k.updThread t f).winShadow = k.winShadow := rfl
@[simp] theorem Core.updThread_winActive (k : Core) (t : Fin 4) (f : Thread → Thread) : (k.updThread t f).winActive = k.winActive := rfl
@[simp] theorem Core.updThread_hrdrop (k : Core) (t : Fin 4) (f : Thread → Thread) : (k.updThread t f).hrdrop = k.hrdrop := rfl
@[simp] theorem Core.updThread_hsdrop (k : Core) (t : Fin 4) (f : Thread → Thread) : (k.updThread t f).hsdrop = k.hsdrop := rfl
@[simp] theorem Core.updThread_hsdropMore (k : Core) (t : Fin 4) (f : Thread → Thread) : (k.updThread t f).hsdropMore = k.hsdropMore := rfl
@[simp] theorem Core.updThread_seaddr (k : Core) (t : Fin 4) (f : Thread → Thread) : (k.updThread t f).seaddr = k.seaddr := rfl
@[simp] theorem Core.updThread_seMore (k : Core) (t : Fin 4) (f : Thread → Thread) : (k.updThread t f).seMore = k.seMore := rfl
@[simp] theorem Core.updThread_unitQ (k : Core) (t : Fin 4) (f : Thread → Thread) : (k.updThread t f).unitQ = k.unitQ := rfl
@[simp] theorem Core.updThread_unitFrom (k : Core) (t : Fin 4) (f : Thread → Thread) : (k.updThread t f).unitFrom = k.unitFrom := rfl
@[simp] theorem Core.updThread_imemFrom (k : Core) (t : Fin 4) (f : Thread → Thread) : (k.updThread t f).imemFrom = k.imemFrom := rfl
@[simp] theorem Core.updThread_imemQ (k : Core) (t : Fin 4) (f : Thread → Thread) : (k.updThread t f).imemQ = k.imemQ := rfl
@[simp] theorem Core.updThread_isegx (k : Core) (t : Fin 4) (f : Thread → Thread) : (k.updThread t f).isegx = k.isegx := rfl
@[simp] theorem Core.updThread_cache (k : Core) (t : Fin 4) (f : Thread → Thread) : (k.updThread t f).cache = k.cache := rfl
@[simp] theorem Core.updThread_cacheStamp (k : Core) (t : Fin 4) (f : Thread → Thread) : (k.updThread t f).cacheStamp = k.cacheStamp := rfl
@[simp] theorem Core.updThread_miss (k : Core) (t : Fin 4) (f : Thread → Thread) : (k.updThread t f).miss = k.miss := rfl
@[simp] theorem Core.updThread_loads (k : Core) (t : Fin 4) (f : Thread → Thread) : (k.updThread t f).loads = k.loads := rfl
@[simp] theorem Core.updThread_evb (k : Core) (t : Fin 4) (f : Thread → Thread) : (k.updThread t f).evb = k.evb := rfl
@[simp] theorem Core.updThread_evSerial (k : Core) (t : Fin 4) (f : Thread → Thread) : (k.updThread t f).evSerial = k.evSerial := rfl
@[simp] theorem Core.updThread_evDone (k : Core) (t : Fin 4) (f : Thread → Thread) : (k.updThread t f).evDone = k.evDone := rfl
@[simp] theorem Core.updThread_cinv (k : Core) (t : Fin 4) (f : Thread → Thread) : (k.updThread t f).cinv = k.cinv := rfl
@[simp] theorem Core.updThread_tileZero (k : Core) (t : Fin 4) (f : Thread → Thread) : (k.updThread t f).tileZero = k.tileZero := rfl
@[simp] theorem Core.updThread_dchits (k : Core) (t : Fin 4) (f : Thread → Thread) : (k.updThread t f).dchits = k.dchits := rfl
@[simp] theorem Core.updThread_dcmisses (k : Core) (t : Fin 4) (f : Thread → Thread) : (k.updThread t f).dcmisses = k.dcmisses := rfl
@[simp] theorem Core.updThread_tenons (k : Core) (t : Fin 4) (f : Thread → Thread) : (k.updThread t f).tenons = k.tenons := rfl
@[simp] theorem Core.updThread_ncommitPending (k : Core) (t : Fin 4) (f : Thread → Thread) : (k.updThread t f).ncommitPending = k.ncommitPending := rfl
@[simp] theorem Core.updThread_nstalled (k : Core) (t : Fin 4) (f : Thread → Thread) : (k.updThread t f).nstalled = k.nstalled := rfl
@[simp] theorem Core.updThread_stallLimit (k : Core) (t : Fin 4) (f : Thread → Thread) : (k.updThread t f).stallLimit = k.stallLimit := rfl
@[simp] theorem Core.updThread_mortises (k : Core) (t : Fin 4) (f : Thread → Thread) : (k.updThread t f).mortises = k.mortises := rfl
@[simp] theorem Core.updThread_movf (k : Core) (t : Fin 4) (f : Thread → Thread) : (k.updThread t f).movf = k.movf := rfl
@[simp] theorem Core.updThread_stillCtl (k : Core) (t : Fin 4) (f : Thread → Thread) : (k.updThread t f).stillCtl = k.stillCtl := rfl
@[simp] theorem Core.updThread_still (k : Core) (t : Fin 4) (f : Thread → Thread) : (k.updThread t f).still = k.still := rfl
@[simp] theorem Core.updThread_remoteOut (k : Core) (t : Fin 4) (f : Thread → Thread) : (k.updThread t f).remoteOut = k.remoteOut := rfl
@[simp] theorem Core.updThread_stillFrom (k : Core) (t : Fin 4) (f : Thread → Thread) : (k.updThread t f).stillFrom = k.stillFrom := rfl
@[simp] theorem Core.updThread_pCycleHi (k : Core) (t : Fin 4) (f : Thread → Thread) : (k.updThread t f).pCycleHi = k.pCycleHi := rfl
@[simp] theorem Core.updThread_pMworkHi (k : Core) (t : Fin 4) (f : Thread → Thread) : (k.updThread t f).pMworkHi = k.pMworkHi := rfl
@[simp] theorem Core.updThread_pAdbgW (k : Core) (t : Fin 4) (f : Thread → Thread) : (k.updThread t f).pAdbgW = k.pAdbgW := rfl
@[simp] theorem Core.updThread_pAdbgCls (k : Core) (t : Fin 4) (f : Thread → Thread) : (k.updThread t f).pAdbgCls = k.pAdbgCls := rfl
@[simp] theorem Core.updThread_pTrLatch (k : Core) (t : Fin 4) (f : Thread → Thread) : (k.updThread t f).pTrLatch = k.pTrLatch := rfl
@[simp] theorem Core.updThread_whalt (k : Core) (t : Fin 4) (f : Thread → Thread) : (k.updThread t f).whalt = k.whalt := rfl
@[simp] theorem Core.updThread_wstill (k : Core) (t : Fin 4) (f : Thread → Thread) : (k.updThread t f).wstill = k.wstill := rfl
@[simp] theorem Core.updThread_wprio (k : Core) (t : Fin 4) (f : Thread → Thread) : (k.updThread t f).wprio = k.wprio := rfl
@[simp] theorem Core.updThread_pmvpn (k : Core) (t : Fin 4) (f : Thread → Thread) : (k.updThread t f).pmvpn = k.pmvpn := rfl
@[simp] theorem Core.updThread_pment (k : Core) (t : Fin 4) (f : Thread → Thread) : (k.updThread t f).pment = k.pment := rfl
@[simp] theorem Core.updThread_pmRef (k : Core) (t : Fin 4) (f : Thread → Thread) : (k.updThread t f).pmRef = k.pmRef := rfl
@[simp] theorem Core.updThread_adbgSel (k : Core) (t : Fin 4) (f : Thread → Thread) : (k.updThread t f).adbgSel = k.adbgSel := rfl
@[simp] theorem Core.updThread_dbPend (k : Core) (t : Fin 4) (f : Thread → Thread) : (k.updThread t f).dbPend = k.dbPend := rfl
@[simp] theorem Core.updThread_dbDup (k : Core) (t : Fin 4) (f : Thread → Thread) : (k.updThread t f).dbDup = k.dbDup := rfl
@[simp] theorem Core.updThread_dbOrphan (k : Core) (t : Fin 4) (f : Thread → Thread) : (k.updThread t f).dbOrphan = k.dbOrphan := rfl
@[simp] theorem Core.updThread_runsCut (k : Core) (t : Fin 4) (f : Thread → Thread) : (k.updThread t f).runsCut = k.runsCut := rfl
@[simp] theorem Core.updThread_mcstat (k : Core) (t : Fin 4) (f : Thread → Thread) : (k.updThread t f).mcstat = k.mcstat := rfl
@[simp] theorem Core.updThread_mcaddr (k : Core) (t : Fin 4) (f : Thread → Thread) : (k.updThread t f).mcaddr = k.mcaddr := rfl
@[simp] theorem Core.updThread_mcMore (k : Core) (t : Fin 4) (f : Thread → Thread) : (k.updThread t f).mcMore = k.mcMore := rfl
@[simp] theorem Core.updThread_secc (k : Core) (t : Fin 4) (f : Thread → Thread) : (k.updThread t f).secc = k.secc := rfl
@[simp] theorem Core.updThread_dregsel (k : Core) (t : Fin 4) (f : Thread → Thread) : (k.updThread t f).dregsel = k.dregsel := rfl
@[simp] theorem Core.updThread_dreg (k : Core) (t : Fin 4) (f : Thread → Thread) : (k.updThread t f).dreg = k.dreg := rfl
@[simp] theorem Core.updThread_dregErr (k : Core) (t : Fin 4) (f : Thread → Thread) : (k.updThread t f).dregErr = k.dregErr := rfl
@[simp] theorem Core.updThread_trctl (k : Core) (t : Fin 4) (f : Thread → Thread) : (k.updThread t f).trctl = k.trctl := rfl

/-! ### Registers of a thread -/

@[simp] theorem Thread.setD_a (th : Thread) (r : Fin 32) (x : W64) : (th.setD r x).a = th.a := rfl
@[simp] theorem Thread.setD_acc (th : Thread) (r : Fin 32) (x : W64) : (th.setD r x).acc = th.acc := rfl
@[simp] theorem Thread.setD_v (th : Thread) (r : Fin 32) (x : W64) : (th.setD r x).v = th.v := rfl
@[simp] theorem Thread.setD_pc (th : Thread) (r : Fin 32) (x : W64) : (th.setD r x).pc = th.pc := rfl
@[simp] theorem Thread.setD_fz (th : Thread) (r : Fin 32) (x : W64) : (th.setD r x).fz = th.fz := rfl
@[simp] theorem Thread.setD_fn (th : Thread) (r : Fin 32) (x : W64) : (th.setD r x).fn = th.fn := rfl
@[simp] theorem Thread.setD_fc (th : Thread) (r : Fin 32) (x : W64) : (th.setD r x).fc = th.fc := rfl
@[simp] theorem Thread.setD_fv (th : Thread) (r : Fin 32) (x : W64) : (th.setD r x).fv = th.fv := rfl
@[simp] theorem Thread.setD_mode (th : Thread) (r : Fin 32) (x : W64) : (th.setD r x).mode = th.mode := rfl
@[simp] theorem Thread.setD_mie (th : Thread) (r : Fin 32) (x : W64) : (th.setD r x).mie = th.mie := rfl
@[simp] theorem Thread.setD_exl (th : Thread) (r : Fin 32) (x : W64) : (th.setD r x).exl = th.exl := rfl
@[simp] theorem Thread.setD_estat (th : Thread) (r : Fin 32) (x : W64) : (th.setD r x).estat = th.estat := rfl
@[simp] theorem Thread.setD_epc (th : Thread) (r : Fin 32) (x : W64) : (th.setD r x).epc = th.epc := rfl
@[simp] theorem Thread.setD_eaddr (th : Thread) (r : Fin 32) (x : W64) : (th.setD r x).eaddr = th.eaddr := rfl
@[simp] theorem Thread.setD_vbase (th : Thread) (r : Fin 32) (x : W64) : (th.setD r x).vbase = th.vbase := rfl
@[simp] theorem Thread.setD_ipend (th : Thread) (r : Fin 32) (x : W64) : (th.setD r x).ipend = th.ipend := rfl
@[simp] theorem Thread.setD_extVec (th : Thread) (r : Fin 32) (x : W64) : (th.setD r x).extVec = th.extVec := rfl
@[simp] theorem Thread.setD_evpend (th : Thread) (r : Fin 32) (x : W64) : (th.setD r x).evpend = th.evpend := rfl
@[simp] theorem Thread.setD_tstate (th : Thread) (r : Fin 32) (x : W64) : (th.setD r x).tstate = th.tstate := rfl
@[simp] theorem Thread.setD_brkstop (th : Thread) (r : Fin 32) (x : W64) : (th.setD r x).brkstop = th.brkstop := rfl
@[simp] theorem Thread.setD_dfcode (th : Thread) (r : Fin 32) (x : W64) : (th.setD r x).dfcode = th.dfcode := rfl
@[simp] theorem Thread.setD_dfpc (th : Thread) (r : Fin 32) (x : W64) : (th.setD r x).dfpc = th.dfpc := rfl
@[simp] theorem Thread.setD_escr (th : Thread) (r : Fin 32) (x : W64) : (th.setD r x).escr = th.escr := rfl
@[simp] theorem Thread.setD_timer (th : Thread) (r : Fin 32) (x : W64) : (th.setD r x).timer = th.timer := rfl
@[simp] theorem Thread.setD_waitMask (th : Thread) (r : Fin 32) (x : W64) : (th.setD r x).waitMask = th.waitMask := rfl
@[simp] theorem Thread.setD_lkevEn (th : Thread) (r : Fin 32) (x : W64) : (th.setD r x).lkevEn = th.lkevEn := rfl
@[simp] theorem Thread.setD_lkevEvt (th : Thread) (r : Fin 32) (x : W64) : (th.setD r x).lkevEvt = th.lkevEvt := rfl
@[simp] theorem Thread.setD_lockRec (th : Thread) (r : Fin 32) (x : W64) : (th.setD r x).lockRec = th.lockRec := rfl
@[simp] theorem Thread.setD_blsel (th : Thread) (r : Fin 32) (x : W64) : (th.setD r x).blsel = th.blsel := rfl
@[simp] theorem Thread.setD_cycleHi (th : Thread) (r : Fin 32) (x : W64) : (th.setD r x).cycleHi = th.cycleHi := rfl
@[simp] theorem Thread.setD_mworkHi (th : Thread) (r : Fin 32) (x : W64) : (th.setD r x).mworkHi = th.mworkHi := rfl
@[simp] theorem Thread.setD_adbgW (th : Thread) (r : Fin 32) (x : W64) : (th.setD r x).adbgW = th.adbgW := rfl
@[simp] theorem Thread.setD_adbgCls (th : Thread) (r : Fin 32) (x : W64) : (th.setD r x).adbgCls = th.adbgCls := rfl
@[simp] theorem Thread.setD_trLatch (th : Thread) (r : Fin 32) (x : W64) : (th.setD r x).trLatch = th.trLatch := rfl
@[simp] theorem Thread.setD_xsrc (th : Thread) (r : Fin 32) (x : W64) : (th.setD r x).xsrc = th.xsrc := rfl
@[simp] theorem Thread.setD_xdst (th : Thread) (r : Fin 32) (x : W64) : (th.setD r x).xdst = th.xdst := rfl
@[simp] theorem Thread.setD_xlen (th : Thread) (r : Fin 32) (x : W64) : (th.setD r x).xlen = th.xlen := rfl
@[simp] theorem Thread.setD_xctl (th : Thread) (r : Fin 32) (x : W64) : (th.setD r x).xctl = th.xctl := rfl
@[simp] theorem Thread.setD_xallow (th : Thread) (r : Fin 32) (x : W64) : (th.setD r x).xallow = th.xallow := rfl
@[simp] theorem Thread.setD_xres (th : Thread) (r : Fin 32) (x : W64) : (th.setD r x).xres = th.xres := rfl
@[simp] theorem Thread.setD_xoutstanding (th : Thread) (r : Fin 32) (x : W64) : (th.setD r x).xoutstanding = th.xoutstanding := rfl
@[simp] theorem Thread.setD_xseq (th : Thread) (r : Fin 32) (x : W64) : (th.setD r x).xseq = th.xseq := rfl
@[simp] theorem Thread.setD_xresDone (th : Thread) (r : Fin 32) (x : W64) : (th.setD r x).xresDone = th.xresDone := rfl
@[simp] theorem Thread.setD_xwhy (th : Thread) (r : Fin 32) (x : W64) : (th.setD r x).xwhy = th.xwhy := rfl
@[simp] theorem Thread.setD_acur (th : Thread) (r : Fin 32) (x : W64) : (th.setD r x).acur = th.acur := rfl
@[simp] theorem Thread.setD_stall (th : Thread) (r : Fin 32) (x : W64) : (th.setD r x).stall = th.stall := rfl
@[simp] theorem Thread.setD_stallOn (th : Thread) (r : Fin 32) (x : W64) : (th.setD r x).stallOn = th.stallOn := rfl
@[simp] theorem Thread.setD_notices (th : Thread) (r : Fin 32) (x : W64) : (th.setD r x).notices = th.notices := rfl
@[simp] theorem Thread.setD_late (th : Thread) (r : Fin 32) (x : W64) : (th.setD r x).late = th.late := rfl
@[simp] theorem Thread.setD_remoteTo (th : Thread) (r : Fin 32) (x : W64) : (th.setD r x).remoteTo = th.remoteTo := rfl
@[simp] theorem Thread.setD_fence (th : Thread) (r : Fin 32) (x : W64) : (th.setD r x).fence = th.fence := rfl
@[simp] theorem Thread.setD_nextIssue (th : Thread) (r : Fin 32) (x : W64) : (th.setD r x).nextIssue = th.nextIssue := rfl
@[simp] theorem Thread.setD_pfx (th : Thread) (r : Fin 32) (x : W64) : (th.setD r x).pfx = th.pfx := rfl
@[simp] theorem Thread.setD_pair (th : Thread) (r : Fin 32) (x : W64) : (th.setD r x).pair = th.pair := rfl
@[simp] theorem Thread.setD_found (th : Thread) (r : Fin 32) (x : W64) : (th.setD r x).found = th.found := rfl
@[simp] theorem Thread.setD_tileCur (th : Thread) (r : Fin 32) (x : W64) : (th.setD r x).tileCur = th.tileCur := rfl
@[simp] theorem Thread.setD_stopReq (th : Thread) (r : Fin 32) (x : W64) : (th.setD r x).stopReq = th.stopReq := rfl
@[simp] theorem Thread.setD_stepOnce (th : Thread) (r : Fin 32) (x : W64) : (th.setD r x).stepOnce = th.stepOnce := rfl
@[simp] theorem Thread.setD_wasWaiting (th : Thread) (r : Fin 32) (x : W64) : (th.setD r x).wasWaiting = th.wasWaiting := rfl

@[simp] theorem Thread.setA_d (th : Thread) (r : Fin 16) (x : W48) : (th.setA r x).d = th.d := rfl
@[simp] theorem Thread.setA_acc (th : Thread) (r : Fin 16) (x : W48) : (th.setA r x).acc = th.acc := rfl
@[simp] theorem Thread.setA_v (th : Thread) (r : Fin 16) (x : W48) : (th.setA r x).v = th.v := rfl
@[simp] theorem Thread.setA_pc (th : Thread) (r : Fin 16) (x : W48) : (th.setA r x).pc = th.pc := rfl
@[simp] theorem Thread.setA_fz (th : Thread) (r : Fin 16) (x : W48) : (th.setA r x).fz = th.fz := rfl
@[simp] theorem Thread.setA_fn (th : Thread) (r : Fin 16) (x : W48) : (th.setA r x).fn = th.fn := rfl
@[simp] theorem Thread.setA_fc (th : Thread) (r : Fin 16) (x : W48) : (th.setA r x).fc = th.fc := rfl
@[simp] theorem Thread.setA_fv (th : Thread) (r : Fin 16) (x : W48) : (th.setA r x).fv = th.fv := rfl
@[simp] theorem Thread.setA_mode (th : Thread) (r : Fin 16) (x : W48) : (th.setA r x).mode = th.mode := rfl
@[simp] theorem Thread.setA_mie (th : Thread) (r : Fin 16) (x : W48) : (th.setA r x).mie = th.mie := rfl
@[simp] theorem Thread.setA_exl (th : Thread) (r : Fin 16) (x : W48) : (th.setA r x).exl = th.exl := rfl
@[simp] theorem Thread.setA_estat (th : Thread) (r : Fin 16) (x : W48) : (th.setA r x).estat = th.estat := rfl
@[simp] theorem Thread.setA_epc (th : Thread) (r : Fin 16) (x : W48) : (th.setA r x).epc = th.epc := rfl
@[simp] theorem Thread.setA_eaddr (th : Thread) (r : Fin 16) (x : W48) : (th.setA r x).eaddr = th.eaddr := rfl
@[simp] theorem Thread.setA_vbase (th : Thread) (r : Fin 16) (x : W48) : (th.setA r x).vbase = th.vbase := rfl
@[simp] theorem Thread.setA_ipend (th : Thread) (r : Fin 16) (x : W48) : (th.setA r x).ipend = th.ipend := rfl
@[simp] theorem Thread.setA_extVec (th : Thread) (r : Fin 16) (x : W48) : (th.setA r x).extVec = th.extVec := rfl
@[simp] theorem Thread.setA_evpend (th : Thread) (r : Fin 16) (x : W48) : (th.setA r x).evpend = th.evpend := rfl
@[simp] theorem Thread.setA_tstate (th : Thread) (r : Fin 16) (x : W48) : (th.setA r x).tstate = th.tstate := rfl
@[simp] theorem Thread.setA_brkstop (th : Thread) (r : Fin 16) (x : W48) : (th.setA r x).brkstop = th.brkstop := rfl
@[simp] theorem Thread.setA_dfcode (th : Thread) (r : Fin 16) (x : W48) : (th.setA r x).dfcode = th.dfcode := rfl
@[simp] theorem Thread.setA_dfpc (th : Thread) (r : Fin 16) (x : W48) : (th.setA r x).dfpc = th.dfpc := rfl
@[simp] theorem Thread.setA_escr (th : Thread) (r : Fin 16) (x : W48) : (th.setA r x).escr = th.escr := rfl
@[simp] theorem Thread.setA_timer (th : Thread) (r : Fin 16) (x : W48) : (th.setA r x).timer = th.timer := rfl
@[simp] theorem Thread.setA_waitMask (th : Thread) (r : Fin 16) (x : W48) : (th.setA r x).waitMask = th.waitMask := rfl
@[simp] theorem Thread.setA_lkevEn (th : Thread) (r : Fin 16) (x : W48) : (th.setA r x).lkevEn = th.lkevEn := rfl
@[simp] theorem Thread.setA_lkevEvt (th : Thread) (r : Fin 16) (x : W48) : (th.setA r x).lkevEvt = th.lkevEvt := rfl
@[simp] theorem Thread.setA_lockRec (th : Thread) (r : Fin 16) (x : W48) : (th.setA r x).lockRec = th.lockRec := rfl
@[simp] theorem Thread.setA_blsel (th : Thread) (r : Fin 16) (x : W48) : (th.setA r x).blsel = th.blsel := rfl
@[simp] theorem Thread.setA_cycleHi (th : Thread) (r : Fin 16) (x : W48) : (th.setA r x).cycleHi = th.cycleHi := rfl
@[simp] theorem Thread.setA_mworkHi (th : Thread) (r : Fin 16) (x : W48) : (th.setA r x).mworkHi = th.mworkHi := rfl
@[simp] theorem Thread.setA_adbgW (th : Thread) (r : Fin 16) (x : W48) : (th.setA r x).adbgW = th.adbgW := rfl
@[simp] theorem Thread.setA_adbgCls (th : Thread) (r : Fin 16) (x : W48) : (th.setA r x).adbgCls = th.adbgCls := rfl
@[simp] theorem Thread.setA_trLatch (th : Thread) (r : Fin 16) (x : W48) : (th.setA r x).trLatch = th.trLatch := rfl
@[simp] theorem Thread.setA_xsrc (th : Thread) (r : Fin 16) (x : W48) : (th.setA r x).xsrc = th.xsrc := rfl
@[simp] theorem Thread.setA_xdst (th : Thread) (r : Fin 16) (x : W48) : (th.setA r x).xdst = th.xdst := rfl
@[simp] theorem Thread.setA_xlen (th : Thread) (r : Fin 16) (x : W48) : (th.setA r x).xlen = th.xlen := rfl
@[simp] theorem Thread.setA_xctl (th : Thread) (r : Fin 16) (x : W48) : (th.setA r x).xctl = th.xctl := rfl
@[simp] theorem Thread.setA_xallow (th : Thread) (r : Fin 16) (x : W48) : (th.setA r x).xallow = th.xallow := rfl
@[simp] theorem Thread.setA_xres (th : Thread) (r : Fin 16) (x : W48) : (th.setA r x).xres = th.xres := rfl
@[simp] theorem Thread.setA_xoutstanding (th : Thread) (r : Fin 16) (x : W48) : (th.setA r x).xoutstanding = th.xoutstanding := rfl
@[simp] theorem Thread.setA_xseq (th : Thread) (r : Fin 16) (x : W48) : (th.setA r x).xseq = th.xseq := rfl
@[simp] theorem Thread.setA_xresDone (th : Thread) (r : Fin 16) (x : W48) : (th.setA r x).xresDone = th.xresDone := rfl
@[simp] theorem Thread.setA_xwhy (th : Thread) (r : Fin 16) (x : W48) : (th.setA r x).xwhy = th.xwhy := rfl
@[simp] theorem Thread.setA_acur (th : Thread) (r : Fin 16) (x : W48) : (th.setA r x).acur = th.acur := rfl
@[simp] theorem Thread.setA_stall (th : Thread) (r : Fin 16) (x : W48) : (th.setA r x).stall = th.stall := rfl
@[simp] theorem Thread.setA_stallOn (th : Thread) (r : Fin 16) (x : W48) : (th.setA r x).stallOn = th.stallOn := rfl
@[simp] theorem Thread.setA_notices (th : Thread) (r : Fin 16) (x : W48) : (th.setA r x).notices = th.notices := rfl
@[simp] theorem Thread.setA_late (th : Thread) (r : Fin 16) (x : W48) : (th.setA r x).late = th.late := rfl
@[simp] theorem Thread.setA_remoteTo (th : Thread) (r : Fin 16) (x : W48) : (th.setA r x).remoteTo = th.remoteTo := rfl
@[simp] theorem Thread.setA_fence (th : Thread) (r : Fin 16) (x : W48) : (th.setA r x).fence = th.fence := rfl
@[simp] theorem Thread.setA_nextIssue (th : Thread) (r : Fin 16) (x : W48) : (th.setA r x).nextIssue = th.nextIssue := rfl
@[simp] theorem Thread.setA_pfx (th : Thread) (r : Fin 16) (x : W48) : (th.setA r x).pfx = th.pfx := rfl
@[simp] theorem Thread.setA_pair (th : Thread) (r : Fin 16) (x : W48) : (th.setA r x).pair = th.pair := rfl
@[simp] theorem Thread.setA_found (th : Thread) (r : Fin 16) (x : W48) : (th.setA r x).found = th.found := rfl
@[simp] theorem Thread.setA_tileCur (th : Thread) (r : Fin 16) (x : W48) : (th.setA r x).tileCur = th.tileCur := rfl
@[simp] theorem Thread.setA_stopReq (th : Thread) (r : Fin 16) (x : W48) : (th.setA r x).stopReq = th.stopReq := rfl
@[simp] theorem Thread.setA_stepOnce (th : Thread) (r : Fin 16) (x : W48) : (th.setA r x).stepOnce = th.stepOnce := rfl
@[simp] theorem Thread.setA_wasWaiting (th : Thread) (r : Fin 16) (x : W48) : (th.setA r x).wasWaiting = th.wasWaiting := rfl

@[simp] theorem Thread.setAcc_d (th : Thread) (r : Fin 4) (x : BitVec 72) : (th.setAcc r x).d = th.d := rfl
@[simp] theorem Thread.setAcc_a (th : Thread) (r : Fin 4) (x : BitVec 72) : (th.setAcc r x).a = th.a := rfl
@[simp] theorem Thread.setAcc_v (th : Thread) (r : Fin 4) (x : BitVec 72) : (th.setAcc r x).v = th.v := rfl
@[simp] theorem Thread.setAcc_pc (th : Thread) (r : Fin 4) (x : BitVec 72) : (th.setAcc r x).pc = th.pc := rfl
@[simp] theorem Thread.setAcc_fz (th : Thread) (r : Fin 4) (x : BitVec 72) : (th.setAcc r x).fz = th.fz := rfl
@[simp] theorem Thread.setAcc_fn (th : Thread) (r : Fin 4) (x : BitVec 72) : (th.setAcc r x).fn = th.fn := rfl
@[simp] theorem Thread.setAcc_fc (th : Thread) (r : Fin 4) (x : BitVec 72) : (th.setAcc r x).fc = th.fc := rfl
@[simp] theorem Thread.setAcc_fv (th : Thread) (r : Fin 4) (x : BitVec 72) : (th.setAcc r x).fv = th.fv := rfl
@[simp] theorem Thread.setAcc_mode (th : Thread) (r : Fin 4) (x : BitVec 72) : (th.setAcc r x).mode = th.mode := rfl
@[simp] theorem Thread.setAcc_mie (th : Thread) (r : Fin 4) (x : BitVec 72) : (th.setAcc r x).mie = th.mie := rfl
@[simp] theorem Thread.setAcc_exl (th : Thread) (r : Fin 4) (x : BitVec 72) : (th.setAcc r x).exl = th.exl := rfl
@[simp] theorem Thread.setAcc_estat (th : Thread) (r : Fin 4) (x : BitVec 72) : (th.setAcc r x).estat = th.estat := rfl
@[simp] theorem Thread.setAcc_epc (th : Thread) (r : Fin 4) (x : BitVec 72) : (th.setAcc r x).epc = th.epc := rfl
@[simp] theorem Thread.setAcc_eaddr (th : Thread) (r : Fin 4) (x : BitVec 72) : (th.setAcc r x).eaddr = th.eaddr := rfl
@[simp] theorem Thread.setAcc_vbase (th : Thread) (r : Fin 4) (x : BitVec 72) : (th.setAcc r x).vbase = th.vbase := rfl
@[simp] theorem Thread.setAcc_ipend (th : Thread) (r : Fin 4) (x : BitVec 72) : (th.setAcc r x).ipend = th.ipend := rfl
@[simp] theorem Thread.setAcc_extVec (th : Thread) (r : Fin 4) (x : BitVec 72) : (th.setAcc r x).extVec = th.extVec := rfl
@[simp] theorem Thread.setAcc_evpend (th : Thread) (r : Fin 4) (x : BitVec 72) : (th.setAcc r x).evpend = th.evpend := rfl
@[simp] theorem Thread.setAcc_tstate (th : Thread) (r : Fin 4) (x : BitVec 72) : (th.setAcc r x).tstate = th.tstate := rfl
@[simp] theorem Thread.setAcc_brkstop (th : Thread) (r : Fin 4) (x : BitVec 72) : (th.setAcc r x).brkstop = th.brkstop := rfl
@[simp] theorem Thread.setAcc_dfcode (th : Thread) (r : Fin 4) (x : BitVec 72) : (th.setAcc r x).dfcode = th.dfcode := rfl
@[simp] theorem Thread.setAcc_dfpc (th : Thread) (r : Fin 4) (x : BitVec 72) : (th.setAcc r x).dfpc = th.dfpc := rfl
@[simp] theorem Thread.setAcc_escr (th : Thread) (r : Fin 4) (x : BitVec 72) : (th.setAcc r x).escr = th.escr := rfl
@[simp] theorem Thread.setAcc_timer (th : Thread) (r : Fin 4) (x : BitVec 72) : (th.setAcc r x).timer = th.timer := rfl
@[simp] theorem Thread.setAcc_waitMask (th : Thread) (r : Fin 4) (x : BitVec 72) : (th.setAcc r x).waitMask = th.waitMask := rfl
@[simp] theorem Thread.setAcc_lkevEn (th : Thread) (r : Fin 4) (x : BitVec 72) : (th.setAcc r x).lkevEn = th.lkevEn := rfl
@[simp] theorem Thread.setAcc_lkevEvt (th : Thread) (r : Fin 4) (x : BitVec 72) : (th.setAcc r x).lkevEvt = th.lkevEvt := rfl
@[simp] theorem Thread.setAcc_lockRec (th : Thread) (r : Fin 4) (x : BitVec 72) : (th.setAcc r x).lockRec = th.lockRec := rfl
@[simp] theorem Thread.setAcc_blsel (th : Thread) (r : Fin 4) (x : BitVec 72) : (th.setAcc r x).blsel = th.blsel := rfl
@[simp] theorem Thread.setAcc_cycleHi (th : Thread) (r : Fin 4) (x : BitVec 72) : (th.setAcc r x).cycleHi = th.cycleHi := rfl
@[simp] theorem Thread.setAcc_mworkHi (th : Thread) (r : Fin 4) (x : BitVec 72) : (th.setAcc r x).mworkHi = th.mworkHi := rfl
@[simp] theorem Thread.setAcc_adbgW (th : Thread) (r : Fin 4) (x : BitVec 72) : (th.setAcc r x).adbgW = th.adbgW := rfl
@[simp] theorem Thread.setAcc_adbgCls (th : Thread) (r : Fin 4) (x : BitVec 72) : (th.setAcc r x).adbgCls = th.adbgCls := rfl
@[simp] theorem Thread.setAcc_trLatch (th : Thread) (r : Fin 4) (x : BitVec 72) : (th.setAcc r x).trLatch = th.trLatch := rfl
@[simp] theorem Thread.setAcc_xsrc (th : Thread) (r : Fin 4) (x : BitVec 72) : (th.setAcc r x).xsrc = th.xsrc := rfl
@[simp] theorem Thread.setAcc_xdst (th : Thread) (r : Fin 4) (x : BitVec 72) : (th.setAcc r x).xdst = th.xdst := rfl
@[simp] theorem Thread.setAcc_xlen (th : Thread) (r : Fin 4) (x : BitVec 72) : (th.setAcc r x).xlen = th.xlen := rfl
@[simp] theorem Thread.setAcc_xctl (th : Thread) (r : Fin 4) (x : BitVec 72) : (th.setAcc r x).xctl = th.xctl := rfl
@[simp] theorem Thread.setAcc_xallow (th : Thread) (r : Fin 4) (x : BitVec 72) : (th.setAcc r x).xallow = th.xallow := rfl
@[simp] theorem Thread.setAcc_xres (th : Thread) (r : Fin 4) (x : BitVec 72) : (th.setAcc r x).xres = th.xres := rfl
@[simp] theorem Thread.setAcc_xoutstanding (th : Thread) (r : Fin 4) (x : BitVec 72) : (th.setAcc r x).xoutstanding = th.xoutstanding := rfl
@[simp] theorem Thread.setAcc_xseq (th : Thread) (r : Fin 4) (x : BitVec 72) : (th.setAcc r x).xseq = th.xseq := rfl
@[simp] theorem Thread.setAcc_xresDone (th : Thread) (r : Fin 4) (x : BitVec 72) : (th.setAcc r x).xresDone = th.xresDone := rfl
@[simp] theorem Thread.setAcc_xwhy (th : Thread) (r : Fin 4) (x : BitVec 72) : (th.setAcc r x).xwhy = th.xwhy := rfl
@[simp] theorem Thread.setAcc_acur (th : Thread) (r : Fin 4) (x : BitVec 72) : (th.setAcc r x).acur = th.acur := rfl
@[simp] theorem Thread.setAcc_stall (th : Thread) (r : Fin 4) (x : BitVec 72) : (th.setAcc r x).stall = th.stall := rfl
@[simp] theorem Thread.setAcc_stallOn (th : Thread) (r : Fin 4) (x : BitVec 72) : (th.setAcc r x).stallOn = th.stallOn := rfl
@[simp] theorem Thread.setAcc_notices (th : Thread) (r : Fin 4) (x : BitVec 72) : (th.setAcc r x).notices = th.notices := rfl
@[simp] theorem Thread.setAcc_late (th : Thread) (r : Fin 4) (x : BitVec 72) : (th.setAcc r x).late = th.late := rfl
@[simp] theorem Thread.setAcc_remoteTo (th : Thread) (r : Fin 4) (x : BitVec 72) : (th.setAcc r x).remoteTo = th.remoteTo := rfl
@[simp] theorem Thread.setAcc_fence (th : Thread) (r : Fin 4) (x : BitVec 72) : (th.setAcc r x).fence = th.fence := rfl
@[simp] theorem Thread.setAcc_nextIssue (th : Thread) (r : Fin 4) (x : BitVec 72) : (th.setAcc r x).nextIssue = th.nextIssue := rfl
@[simp] theorem Thread.setAcc_pfx (th : Thread) (r : Fin 4) (x : BitVec 72) : (th.setAcc r x).pfx = th.pfx := rfl
@[simp] theorem Thread.setAcc_pair (th : Thread) (r : Fin 4) (x : BitVec 72) : (th.setAcc r x).pair = th.pair := rfl
@[simp] theorem Thread.setAcc_found (th : Thread) (r : Fin 4) (x : BitVec 72) : (th.setAcc r x).found = th.found := rfl
@[simp] theorem Thread.setAcc_tileCur (th : Thread) (r : Fin 4) (x : BitVec 72) : (th.setAcc r x).tileCur = th.tileCur := rfl
@[simp] theorem Thread.setAcc_stopReq (th : Thread) (r : Fin 4) (x : BitVec 72) : (th.setAcc r x).stopReq = th.stopReq := rfl
@[simp] theorem Thread.setAcc_stepOnce (th : Thread) (r : Fin 4) (x : BitVec 72) : (th.setAcc r x).stepOnce = th.stepOnce := rfl
@[simp] theorem Thread.setAcc_wasWaiting (th : Thread) (r : Fin 4) (x : BitVec 72) : (th.setAcc r x).wasWaiting = th.wasWaiting := rfl

@[simp] theorem Thread.setFlags_d (th : Thread) (f : Flags) : (th.setFlags f).d = th.d := rfl
@[simp] theorem Thread.setFlags_a (th : Thread) (f : Flags) : (th.setFlags f).a = th.a := rfl
@[simp] theorem Thread.setFlags_acc (th : Thread) (f : Flags) : (th.setFlags f).acc = th.acc := rfl
@[simp] theorem Thread.setFlags_v (th : Thread) (f : Flags) : (th.setFlags f).v = th.v := rfl
@[simp] theorem Thread.setFlags_pc (th : Thread) (f : Flags) : (th.setFlags f).pc = th.pc := rfl
@[simp] theorem Thread.setFlags_mode (th : Thread) (f : Flags) : (th.setFlags f).mode = th.mode := rfl
@[simp] theorem Thread.setFlags_mie (th : Thread) (f : Flags) : (th.setFlags f).mie = th.mie := rfl
@[simp] theorem Thread.setFlags_exl (th : Thread) (f : Flags) : (th.setFlags f).exl = th.exl := rfl
@[simp] theorem Thread.setFlags_estat (th : Thread) (f : Flags) : (th.setFlags f).estat = th.estat := rfl
@[simp] theorem Thread.setFlags_epc (th : Thread) (f : Flags) : (th.setFlags f).epc = th.epc := rfl
@[simp] theorem Thread.setFlags_eaddr (th : Thread) (f : Flags) : (th.setFlags f).eaddr = th.eaddr := rfl
@[simp] theorem Thread.setFlags_vbase (th : Thread) (f : Flags) : (th.setFlags f).vbase = th.vbase := rfl
@[simp] theorem Thread.setFlags_ipend (th : Thread) (f : Flags) : (th.setFlags f).ipend = th.ipend := rfl
@[simp] theorem Thread.setFlags_extVec (th : Thread) (f : Flags) : (th.setFlags f).extVec = th.extVec := rfl
@[simp] theorem Thread.setFlags_evpend (th : Thread) (f : Flags) : (th.setFlags f).evpend = th.evpend := rfl
@[simp] theorem Thread.setFlags_tstate (th : Thread) (f : Flags) : (th.setFlags f).tstate = th.tstate := rfl
@[simp] theorem Thread.setFlags_brkstop (th : Thread) (f : Flags) : (th.setFlags f).brkstop = th.brkstop := rfl
@[simp] theorem Thread.setFlags_dfcode (th : Thread) (f : Flags) : (th.setFlags f).dfcode = th.dfcode := rfl
@[simp] theorem Thread.setFlags_dfpc (th : Thread) (f : Flags) : (th.setFlags f).dfpc = th.dfpc := rfl
@[simp] theorem Thread.setFlags_escr (th : Thread) (f : Flags) : (th.setFlags f).escr = th.escr := rfl
@[simp] theorem Thread.setFlags_timer (th : Thread) (f : Flags) : (th.setFlags f).timer = th.timer := rfl
@[simp] theorem Thread.setFlags_waitMask (th : Thread) (f : Flags) : (th.setFlags f).waitMask = th.waitMask := rfl
@[simp] theorem Thread.setFlags_lkevEn (th : Thread) (f : Flags) : (th.setFlags f).lkevEn = th.lkevEn := rfl
@[simp] theorem Thread.setFlags_lkevEvt (th : Thread) (f : Flags) : (th.setFlags f).lkevEvt = th.lkevEvt := rfl
@[simp] theorem Thread.setFlags_lockRec (th : Thread) (f : Flags) : (th.setFlags f).lockRec = th.lockRec := rfl
@[simp] theorem Thread.setFlags_blsel (th : Thread) (f : Flags) : (th.setFlags f).blsel = th.blsel := rfl
@[simp] theorem Thread.setFlags_cycleHi (th : Thread) (f : Flags) : (th.setFlags f).cycleHi = th.cycleHi := rfl
@[simp] theorem Thread.setFlags_mworkHi (th : Thread) (f : Flags) : (th.setFlags f).mworkHi = th.mworkHi := rfl
@[simp] theorem Thread.setFlags_adbgW (th : Thread) (f : Flags) : (th.setFlags f).adbgW = th.adbgW := rfl
@[simp] theorem Thread.setFlags_adbgCls (th : Thread) (f : Flags) : (th.setFlags f).adbgCls = th.adbgCls := rfl
@[simp] theorem Thread.setFlags_trLatch (th : Thread) (f : Flags) : (th.setFlags f).trLatch = th.trLatch := rfl
@[simp] theorem Thread.setFlags_xsrc (th : Thread) (f : Flags) : (th.setFlags f).xsrc = th.xsrc := rfl
@[simp] theorem Thread.setFlags_xdst (th : Thread) (f : Flags) : (th.setFlags f).xdst = th.xdst := rfl
@[simp] theorem Thread.setFlags_xlen (th : Thread) (f : Flags) : (th.setFlags f).xlen = th.xlen := rfl
@[simp] theorem Thread.setFlags_xctl (th : Thread) (f : Flags) : (th.setFlags f).xctl = th.xctl := rfl
@[simp] theorem Thread.setFlags_xallow (th : Thread) (f : Flags) : (th.setFlags f).xallow = th.xallow := rfl
@[simp] theorem Thread.setFlags_xres (th : Thread) (f : Flags) : (th.setFlags f).xres = th.xres := rfl
@[simp] theorem Thread.setFlags_xoutstanding (th : Thread) (f : Flags) : (th.setFlags f).xoutstanding = th.xoutstanding := rfl
@[simp] theorem Thread.setFlags_xseq (th : Thread) (f : Flags) : (th.setFlags f).xseq = th.xseq := rfl
@[simp] theorem Thread.setFlags_xresDone (th : Thread) (f : Flags) : (th.setFlags f).xresDone = th.xresDone := rfl
@[simp] theorem Thread.setFlags_xwhy (th : Thread) (f : Flags) : (th.setFlags f).xwhy = th.xwhy := rfl
@[simp] theorem Thread.setFlags_acur (th : Thread) (f : Flags) : (th.setFlags f).acur = th.acur := rfl
@[simp] theorem Thread.setFlags_stall (th : Thread) (f : Flags) : (th.setFlags f).stall = th.stall := rfl
@[simp] theorem Thread.setFlags_stallOn (th : Thread) (f : Flags) : (th.setFlags f).stallOn = th.stallOn := rfl
@[simp] theorem Thread.setFlags_notices (th : Thread) (f : Flags) : (th.setFlags f).notices = th.notices := rfl
@[simp] theorem Thread.setFlags_late (th : Thread) (f : Flags) : (th.setFlags f).late = th.late := rfl
@[simp] theorem Thread.setFlags_remoteTo (th : Thread) (f : Flags) : (th.setFlags f).remoteTo = th.remoteTo := rfl
@[simp] theorem Thread.setFlags_fence (th : Thread) (f : Flags) : (th.setFlags f).fence = th.fence := rfl
@[simp] theorem Thread.setFlags_nextIssue (th : Thread) (f : Flags) : (th.setFlags f).nextIssue = th.nextIssue := rfl
@[simp] theorem Thread.setFlags_pfx (th : Thread) (f : Flags) : (th.setFlags f).pfx = th.pfx := rfl
@[simp] theorem Thread.setFlags_pair (th : Thread) (f : Flags) : (th.setFlags f).pair = th.pair := rfl
@[simp] theorem Thread.setFlags_found (th : Thread) (f : Flags) : (th.setFlags f).found = th.found := rfl
@[simp] theorem Thread.setFlags_tileCur (th : Thread) (f : Flags) : (th.setFlags f).tileCur = th.tileCur := rfl
@[simp] theorem Thread.setFlags_stopReq (th : Thread) (f : Flags) : (th.setFlags f).stopReq = th.stopReq := rfl
@[simp] theorem Thread.setFlags_stepOnce (th : Thread) (f : Flags) : (th.setFlags f).stepOnce = th.stepOnce := rfl
@[simp] theorem Thread.setFlags_wasWaiting (th : Thread) (f : Flags) : (th.setFlags f).wasWaiting = th.wasWaiting := rfl

@[simp] theorem Thread.getD_setD_self (th : Thread) (r : Fin 32) (x : W64) : (th.setD r x).getD r = x := by
  simp [Thread.getD, Thread.setD]

theorem Thread.getD_setD_ne (th : Thread) {r q : Fin 32} (hq : q ≠ r) (x : W64) : (th.setD r x).getD q = th.getD q := by
  simp [Thread.getD, Thread.setD, Fin.val_ne_of_ne hq.symm]

@[simp] theorem Thread.getA_setA_self (th : Thread) (r : Fin 16) (x : W48) : (th.setA r x).getA r = x := by
  simp [Thread.getA, Thread.setA]

theorem Thread.getA_setA_ne (th : Thread) {r q : Fin 16} (hq : q ≠ r) (x : W48) : (th.setA r x).getA q = th.getA q := by
  simp [Thread.getA, Thread.setA, Fin.val_ne_of_ne hq.symm]

@[simp] theorem Thread.getAcc_setAcc_self (th : Thread) (r : Fin 4) (x : BitVec 72) : (th.setAcc r x).getAcc r = x := by
  simp [Thread.getAcc, Thread.setAcc]

theorem Thread.getAcc_setAcc_ne (th : Thread) {r q : Fin 4} (hq : q ≠ r) (x : BitVec 72) :
    (th.setAcc r x).getAcc q = th.getAcc q := by
  simp [Thread.getAcc, Thread.setAcc, Fin.val_ne_of_ne hq.symm]

/-- The end of an instruction without a waiting stop or step. -/
theorem Thread.boundary_quiet {th : Thread} (h1 : th.stopReq = false) (h2 : th.stepOnce = false) : th.boundary = th := by
  simp [Thread.boundary, h1, h2]

end Sys2Proof.Machine
end

