-- ==== Sys2Proof/Laws/Issue.lean ====
section
/-!
SUPPORT. What letting time run and issuing an instruction do, said once per shared operation: reaching a clock value, the slot of an
instruction, what it leaves of its thread, its operands, and the entry to an exception.
-/

namespace Sys2Proof.Machine

/-! ### Time -/

/-- An event takes place at its clock value, or at the present one. -/
@[simp] theorem Hw.clock_event (h : Hw) (t : Nat) : (h.event t).clock = max h.clock t := by simp [Hw.event]
@[simp] theorem Hw.acted_event (h : Hw) (t : Nat) : (h.event t).acted = true := rfl

/-- An event of the present cycle only marks the cycle. -/
@[simp] theorem Hw.event_now (h : Hw) : h.event h.clock = { h with acted := true } := by
  rw [Hw.event, Hw.reach_past _ (Nat.le_refl _)]

/-- Before an event of its cycle, an access takes place at once. -/
theorem Hw.access_open {h : Hw} (ha : h.acted = false) : h.access = h := by simp [Hw.access, ha]

/-- An effect whose cycle has passed takes hold at once. -/
theorem Hw.after_past {h : Hw} {t : Nat} (ht : t < h.clock) (e : Later) : h.after t e = h.applyLater e := by
  simp [Hw.after, ht]

/-- An effect of the present cycle or of a later one waits until time passes it. -/
theorem Hw.after_ahead {h : Hw} {t : Nat} (ht : h.clock ≤ t) (e : Later) : h.after t e = h.enqueue t e := by
  simp [Hw.after, Nat.not_lt.mpr ht]

/-! ### The slot -/

/-- An instruction that is not the second word of a pair issues in its thread's next slot. -/
theorem Hw.slotState_next {h : Hw} {w : Who} {f : Form} (hp : h.pairs w f = false) : h.slotState w f = h.nextSlot w := by
  simp [Hw.slotState, hp]

/-- No second word issues where no pair is open. -/
theorem Hw.pairs_closed {h : Hw} {w : Who} (hp : h.pairOpen w = false) (f : Form) : h.pairs w f = false := by
  simp [Hw.pairs, hp]

/-- A thread may issue in its next slot. -/
theorem Hw.canIssue_of_nextSlot {h x : Hw} {w : Who} (hx : h.nextSlot w = some x) : x.canIssue w = true := by
  unfold Hw.nextSlot Hw.slotWhere at hx
  exact List.find?_some (p := fun y : Hw => y.canIssue w) hx

/-- The fetch of a word in an executable segment of the memory finds no fault. -/
theorem fetchFault_none {c : Nat} {k : Core} {epc pc : BitVec 20} (hi : pc.toNat < imemSize c)
    (hx : k.isegx.getLsbD (pc.toNat / segSize c) = true) : fetchFault c k epc pc = none := by
  unfold fetchFault
  rw [if_neg (Nat.not_le.mpr hi), if_pos hx]

/-- What an issue attempt in its slot comes to: a fault of its fetch, ILLEGAL at a prefix it does not take, or its own effect. -/
theorem inSlot_cases (w : Who) (f : Form) (body : Option (BitVec 26) → Mem → Hw → Ctl × Mem × Hw) (m : Mem) (h : Hw) :
    (∃ e, fetchFault w.core (h.core w.core) (h.thread w).pc (h.thread w).fetchPc = some e ∧
      inSlot w f body m h = (.fault e, m, h)) ∨
    (fetchFault w.core (h.core w.core) (h.thread w).pc (h.thread w).fetchPc = none ∧
      (((h.thread w).pfx.isSome = true ∧ f.takesPfx = false ∧ inSlot w f body m h = (faultAt (h.thread w) excIllegal, m, h)) ∨
        (((h.thread w).pfx = none ∨ f.takesPfx = true) ∧ inSlot w f body m h = body (h.thread w).pfx m h))) := by
  cases hf : fetchFault w.core (h.core w.core) (h.thread w).pc (h.thread w).fetchPc with
  | some e => exact .inl ⟨e, rfl, by simp only [inSlot, hf]⟩
  | none =>
    refine .inr ⟨rfl, ?_⟩
    cases hp : (h.thread w).pfx <;> cases ht : f.takesPfx <;> simp [inSlot, hf, hp, ht]

/-- An instruction whose word is fetched, with no prefix or one that it takes, has its own effect. -/
theorem inSlot_body {w : Who} {f : Form} {body : Option (BitVec 26) → Mem → Hw → Ctl × Mem × Hw} {m : Mem} {h : Hw}
    (hf : fetchFault w.core (h.core w.core) (h.thread w).pc (h.thread w).fetchPc = none)
    (hp : (h.thread w).pfx = none ∨ f.takesPfx = true) : inSlot w f body m h = body (h.thread w).pfx m h := by
  rcases hp with hp | hp <;> simp [inSlot, hf, hp]

/-! ### Issue -/

/-- An instruction that issues in a slot of its own does what it does there, and its thread settles. -/
theorem runInstrM_slot {w : Who} {f : Form} {body : Option (BitVec 26) → Mem → Hw → Ctl × Mem × Hw} {m : Mem} {h x : Hw}
    (hp : h.pairs w f = false) (hx : h.nextSlot w = some x) :
    runInstrM w f body m h = ((inSlot w f body m x).2.1, (inSlot w f body m x).2.2.settle w f m (inSlot w f body m x).1) := by
  simp [runInstrM, Hw.slotState_next hp, hx, hp]

/-- As `runInstrM_slot`, for an instruction that writes no memory. -/
theorem runInstr_slot {w : Who} {f : Form} {body : Option (BitVec 26) → Hw → Ctl × Hw} {m : Mem} {h x : Hw}
    (hp : h.pairs w f = false) (hx : h.nextSlot w = some x)
    (hf : fetchFault w.core (x.core w.core) (x.thread w).pc (x.thread w).fetchPc = none)
    (ht : (x.thread w).pfx = none ∨ f.takesPfx = true) :
    runInstr w f body m h = (body (x.thread w).pfx x).2.settle w f m (body (x.thread w).pfx x).1 := by
  unfold runInstr
  rw [runInstrM_slot hp hx, inSlot_body hf ht]

/-- An instruction of a thread that has no slot to issue in changes nothing. -/
theorem runInstrM_no {w : Who} {f : Form} {body : Option (BitVec 26) → Mem → Hw → Ctl × Mem × Hw} {m : Mem} {h : Hw}
    (hp : h.pairs w f = false) (hx : h.nextSlot w = none) : runInstrM w f body m h = (m, h) := by
  simp [runInstrM, Hw.slotState_next hp, hx]

/-! ### Tracing -/

@[simp] theorem Hw.core_traceEv (h : Hw) (w : Who) (k : Nat) (pc : BitVec 20) (d c : Nat) : (h.traceEv w k pc d).core c = h.core c := by
  simp only [Hw.traceEv]; split <;> simp
@[simp] theorem Hw.thread_traceEv (h : Hw) (w v : Who) (k : Nat) (pc : BitVec 20) (d : Nat) :
    (h.traceEv w k pc d).thread v = h.thread v := by simp [Hw.thread]
@[simp] theorem Hw.clock_traceEv (h : Hw) (w : Who) (k : Nat) (pc : BitVec 20) (d : Nat) : (h.traceEv w k pc d).clock = h.clock := by
  simp only [Hw.traceEv]; split <;> simp
/-- A job loaded with DEBUG = 0 records nothing. -/
theorem Hw.traceEv_off {h : Hw} (hd : h.debug = false) (w : Who) (k : Nat) (pc : BitVec 20) (d : Nat) : h.traceEv w k pc d = h := by
  simp [Hw.traceEv, hd]
@[simp] theorem Hw.core_traceCtl (h : Hw) (w : Who) (c : Ctl) (k : Nat) : (h.traceCtl w c).core k = h.core k := by
  cases c <;> simp [Hw.traceCtl]
@[simp] theorem Hw.thread_traceCtl (h : Hw) (w v : Who) (c : Ctl) : (h.traceCtl w c).thread v = h.thread v := by simp [Hw.thread]
@[simp] theorem Hw.clock_traceCtl (h : Hw) (w : Who) (c : Ctl) : (h.traceCtl w c).clock = h.clock := by
  cases c <;> simp [Hw.traceCtl]

/-! ### Settling -/

/-- Settling takes no time of its own. -/
@[simp] theorem Hw.clock_settle (h : Hw) (w : Who) (f : Form) (m : Mem) (c : Ctl) : (h.settle w f m c).clock = h.clock := by
  simp [Hw.settle, Hw.noted]

/-- Settling leaves every other core. -/
theorem Hw.core_settle_ne (h : Hw) (w : Who) {c : Nat} (hc : c ≠ w.core.val) (f : Form) (m : Mem) (x : Ctl) :
    (h.settle w f m x).core c = h.core c := by
  simp [Hw.settle, Hw.noted, Hw.core_updCore_ne _ hc]

/-- What the stillness detector notes leaves the threads. -/
@[simp] theorem Core.threads_noted (k : Core) (n : Nat) : (k.noted n).threads = k.threads := by
  simp only [Core.noted]; split <;> rfl
@[simp] theorem Core.thread_noted (k : Core) (n : Nat) (t : Fin 4) : (k.noted n).thread t = k.thread t := by simp [Core.thread]

/-- No stop waits for a thread that does not ask for one. -/
theorem Core.stopStalled_none {k : Core} {t : Fin 4} (hr : (k.thread t).stopReq = false) : k.stopStalled t = k := by
  simp only [Core.stopStalled, hr, Bool.false_and, Bool.false_eq_true, if_false]

/-- Where no SEND was stalled and no stop waits, settling settles the thread of the instruction, and of its core only what the stillness
detector notes. -/
theorem Hw.core_settle {h : Hw} {w : Who} (hs : (h.thread w).stall ≠ some .credit) {f : Form} {m : Mem} {c : Ctl}
    (hr : ((h.traceCtl w c).settled w f m c).stopReq = false) :
    ∃ n, (h.settle w f m c).core w.core =
      ((h.core w.core).updThread w.thread (fun _ => (h.traceCtl w c).settled w f m c)).noted n := by
  have ho : ((h.core w.core).thread w.thread).sendOn = none := if_neg hs
  have hk : (((h.core w.core).updThread w.thread (fun _ => (h.traceCtl w c).settled w f m c)).thread w.thread).stopReq = false := by
    rw [Core.thread_updThread_self]; exact hr
  simp only [Hw.settle, Hw.noted, Hw.core_updCore_self, Hw.core_traceCtl, ho, Core.sendEnds, Core.stopStalled_none hk]
  exact ⟨_, rfl⟩

/-! ### Operands -/

/-- A register as second source: its value, and nothing popped. -/
theorem withOperand_reg (w : Who) (b : Fin 32) (f : Thread → W64 → Ctl × Thread) (p : Option (BitVec 26)) (h : Hw) :
    withOperand w (.reg b) f p h =
      match (f (h.thread w) ((h.thread w).getD b)).1 with
      | .fault e => (.fault e, h)
      | c => (c, h.updThread w (fun _ => (f (h.thread w) ((h.thread w).getD b)).2)) := by
  simp only [withOperand, operand]
  split <;> simp_all

/-- An empty mortise as second source stalls the instruction. -/
theorem withOperand_empty {w : Who} {m : Fin 32} (hm : m.val < 16) {h : Hw} (he : (h.core w.core).mortises[m.val] = [])
    (f : Thread → W64 → Ctl × Thread) (p : Option (BitVec 26)) :
    withOperand w (.mort m) f p h = (.stall .mortise m.val, h) := by
  simp [withOperand, operand, headOperand, hm, he]

/-- A mortise that is not there raises ILLEGAL. -/
theorem withOperand_bad {w : Who} {m : Fin 32} (hm : 16 ≤ m.val) (f : Thread → W64 → Ctl × Thread) (p : Option (BitVec 26)) (h : Hw) :
    withOperand w (.mort m) f p h = (faultAt (h.thread w) excIllegal, h) := by
  simp [withOperand, operand, Nat.not_lt.mpr hm]

/-- An unprefixed immediate is the sign-extended field. -/
@[simp] theorem immS_none {n : Nat} (f : BitVec n) : immS none f = some (f.signExtend 64) := rfl
/-- An unprefixed immediate is the zero-extended field. -/
@[simp] theorem immZ_none {n : Nat} (f : BitVec n) : immZ none f = some (f.setWidth 64) := rfl

/-! ### Exceptions -/

/-- What an entry leaves in the thread (R195). -/
theorem Thread.enter_fields (th : Thread) (i : Bool) (e : Exc) (v : BitVec 20) (n : Nat) :
    (th.enter i e v n).mode = true ∧ (th.enter i e v n).mie = false ∧ (th.enter i e v n).exl = true ∧ (th.enter i e v n).pc = v ∧
      (th.enter i e v n).estat = entryEstat th i e.code e.detail ∧ (th.enter i e v n).epc = e.epc &&& 0xFFFFC#20 ∧
      (th.enter i e v n).eaddr = e.eaddr ∧ (th.enter i e v n).found = none ∧ (th.enter i e v n).d = th.d ∧
      (th.enter i e v n).a = th.a := ⟨rfl, rfl, rfl, rfl, rfl, rfl, rfl, rfl, rfl, rfl⟩

/-- A thread other than 0 whose EXL is 1 is HALTED by a double fault (R204). -/
theorem Hw.takeException_double {h : Hw} {w : Who} (he : (h.thread w).exl = true) (hw : w.thread ≠ 0) (e : Exc) :
    h.takeException w e = h.doubleFault w e := by
  simp [Hw.takeException, he, hw]

/-- Thread 0 with EXL 1 halts the core (R205). -/
theorem Hw.takeException_halt {h : Hw} {w : Who} (he : (h.thread w).exl = true) (hw : w.thread = 0) (e : Exc) :
    h.takeException w e = h.coreHalted w.core e := by
  simp [Hw.takeException, he, hw]

end Sys2Proof.Machine
end

