-- ==== Sys2Proof/Laws/Memory.lean ====
section
/-!
SUPPORT. Laws of memory: what a write leaves to read, and that every memory operation keeps the canonical form.
-/

namespace Sys2Proof.Machine

/-! ### Reading after writing -/

/-- A byte just written reads as written. -/
@[simp] theorem memRead_memWrite_self (a : Nat) (v : Byte) (m : Mem) : memRead a (memWrite a v m) = v := by
  unfold memRead memWrite
  split
  · next h => simp [h]
  · simp

/-- A write leaves every other byte as it was. -/
theorem memRead_memWrite_ne {a b : Nat} (h : a ≠ b) (v : Byte) (m : Mem) : memRead a (memWrite b v m) = memRead a m := by
  unfold memRead memWrite
  split
  · rw [sget_sdel_ne h]
  · rw [sget_sset_ne h]

/-- A run of bytes leaves every byte outside it as it was. -/
theorem memRead_memWriteN_out {a b : Nat} (bs : List Byte) (m : Mem) (h : a < b ∨ b + bs.length ≤ a) :
    memRead a (memWriteN b bs m) = memRead a m := by
  induction bs generalizing b m with
  | nil => rfl
  | cons x xs ih =>
    simp only [List.length_cons] at h
    rw [memWriteN, ih _ (by omega), memRead_memWrite_ne (by omega)]

/-- A run of bytes reads as written. -/
theorem memRead_memWriteN_in {b k : Nat} (bs : List Byte) (m : Mem) (h : k < bs.length) :
    memRead (b + k) (memWriteN b bs m) = bs.getD k 0 := by
  induction bs generalizing b m k with
  | nil => simp at h
  | cons x xs ih =>
    rw [memWriteN]
    cases k with
    | zero => rw [memRead_memWriteN_out _ _ (by omega)]; simp
    | succ k =>
      rw [show b + (k + 1) = b + 1 + k by omega, ih _ (by simpa using h)]
      simp

/-- A read of a range gives as many bytes as asked. -/
@[simp] theorem memReadN_length (a n : Nat) (m : Mem) : (memReadN a n m).length = n := by simp [memReadN]

/-- A filter by location keeps the bytes it admits. -/
theorem memRead_filter {q : Nat → Bool} {a : Nat} (h : q a = true) (m : Mem) :
    memRead a (m.filter (fun p => q p.1)) = memRead a m := by
  unfold memRead; rw [sget_filter_key h]

/-- A byte that a filter by location refuses reads as one that nothing has written. -/
theorem memRead_filter_none {q : Nat → Bool} {a : Nat} (h : q a = false) (m : Mem) :
    memRead a (m.filter (fun p => q p.1)) = memDefault a := by
  unfold memRead; rw [sget_filter_key_none h]; rfl

/-- Forgotten bytes read as unwritten ones, and every other byte as before. -/
theorem memRead_memForget (a b n : Nat) (m : Mem) :
    memRead a (memForget b n m) = if a < b ∨ b + n ≤ a then memRead a m else memDefault a := by
  unfold memForget
  split
  · next h => exact memRead_filter (q := fun k => decide (k < b) || decide (b + n ≤ k)) (by simpa using h) m
  · next h => exact memRead_filter_none (q := fun k => decide (k < b) || decide (b + n ≤ k)) (by simpa using h) m

/-! ### The canonical form -/

/-- A canonical memory that starts above a location also starts above a lower one. -/
theorem wfFrom_mono {lo hi : Nat} (h : lo ≤ hi) {m : Mem} (hm : Memory.wfFrom hi m = true) : Memory.wfFrom lo m = true := by
  cases m with
  | nil => rfl
  | cons p rest =>
    simp only [Memory.wfFrom, Bool.and_eq_true, decide_eq_true_eq] at hm ⊢
    exact ⟨⟨by omega, hm.1.2⟩, hm.2⟩

theorem wfFrom_sset {lo a : Nat} {v : Byte} (hv : v ≠ memDefault a) (ha : lo ≤ a) {m : Mem}
    (hm : Memory.wfFrom lo m = true) : Memory.wfFrom lo (sset a v m) = true := by
  induction m generalizing lo with
  | nil => simp [sset, Memory.wfFrom, ha, hv]
  | cons p rest ih =>
    obtain ⟨j, u⟩ := p
    simp only [Memory.wfFrom, Bool.and_eq_true, decide_eq_true_eq] at hm
    by_cases h1 : a < j
    · simp only [sset, h1, if_true, Memory.wfFrom, Bool.and_eq_true, decide_eq_true_eq]
      exact ⟨⟨ha, hv⟩, ⟨by omega, hm.1.2⟩, hm.2⟩
    · by_cases h2 : j = a
      · subst h2
        simp only [sset, Nat.lt_irrefl, if_false, if_true, Memory.wfFrom, Bool.and_eq_true, decide_eq_true_eq]
        exact ⟨⟨ha, hv⟩, hm.2⟩
      · simp only [sset, h1, h2, if_false, Memory.wfFrom, Bool.and_eq_true, decide_eq_true_eq]
        exact ⟨hm.1, ih (by omega) hm.2⟩

theorem wfFrom_sdel {lo : Nat} (a : Nat) {m : Mem} (hm : Memory.wfFrom lo m = true) : Memory.wfFrom lo (sdel a m) = true := by
  induction m generalizing lo with
  | nil => rfl
  | cons p rest ih =>
    obtain ⟨j, u⟩ := p
    simp only [Memory.wfFrom, Bool.and_eq_true, decide_eq_true_eq] at hm
    by_cases h : j = a
    · simp only [sdel, h, if_true]; exact wfFrom_mono (by omega) (ih hm.2)
    · simp only [sdel, h, if_false, Memory.wfFrom, Bool.and_eq_true, decide_eq_true_eq]
      exact ⟨hm.1, ih hm.2⟩

theorem wfFrom_filter {lo : Nat} (q : Nat × Byte → Bool) {m : Mem} (hm : Memory.wfFrom lo m = true) :
    Memory.wfFrom lo (m.filter q) = true := by
  induction m generalizing lo with
  | nil => rfl
  | cons p rest ih =>
    obtain ⟨j, u⟩ := p
    simp only [Memory.wfFrom, Bool.and_eq_true, decide_eq_true_eq] at hm
    by_cases h : q (j, u) = true
    · simp only [List.filter_cons, h, if_true, Memory.wfFrom, Bool.and_eq_true, decide_eq_true_eq]
      exact ⟨hm.1, ih hm.2⟩
    · simp only [List.filter_cons, h]
      exact wfFrom_mono (by omega) (ih hm.2)

/-- Reset memory is canonical. -/
theorem wf_reset : Memory.wf State.reset.mem = true := rfl

/-- A written byte keeps the canonical form. -/
theorem wf_memWrite (a : Nat) (v : Byte) {m : Mem} (hm : Memory.wf m = true) : Memory.wf (memWrite a v m) = true := by
  unfold memWrite
  split
  · exact wfFrom_sdel a hm
  · next h => exact wfFrom_sset h (Nat.zero_le a) hm

/-- A written run keeps the canonical form. -/
theorem wf_memWriteN (a : Nat) (bs : List Byte) {m : Mem} (hm : Memory.wf m = true) : Memory.wf (memWriteN a bs m) = true := by
  induction bs generalizing a m with
  | nil => exact hm
  | cons b bs ih => exact ih (a + 1) (wf_memWrite a b hm)

/-- The bytes of a line write keep the canonical form. -/
theorem wf_writeOffs (base : Nat) (ws : List (Nat × Byte)) {m : Mem} (hm : Memory.wf m = true) :
    Memory.wf (writeOffs base ws m) = true := by
  induction ws generalizing m with
  | nil => exact hm
  | cons w ws ih => exact ih (wf_memWrite _ w.2 hm)

/-- The bytes of a store to Ridge SRAM keep the canonical form. -/
theorem wf_ridgeBytes (off : Nat) (bs : List Byte) {m : Mem} (hm : Memory.wf m = true) :
    Memory.wf (ridgeBytes off bs m) = true := by
  induction bs generalizing off m with
  | nil => exact hm
  | cons b bs ih =>
    refine ih (off + 1) ?_
    split
    · exact wf_memWrite _ b hm
    · exact hm

/-- A performed line write changes memory by its bytes alone, whatever its code check finds. -/
@[simp] theorem performWrite_mem (key : Nat) (ws : List (Nat × Byte)) (m : Mem) (h : Hw) :
    (performWrite key ws m h).2.1 = writeOffs (key * 64) ws m := by
  unfold performWrite
  dsimp only
  repeat' split
  all_goals rfl

/-- A unit that reaches its destination changes memory only when that is Ridge SRAM. -/
theorem wf_xwrite (loc : XLoc) (p : RowPath) (src port bsrc : Nat) (remote : Bool) (o : Origin) (bs : List Byte) (now : Nat) {m : Mem}
    (h : Hw)
    (hm : Memory.wf m = true) : Memory.wf (xwrite loc p src port bsrc remote o bs now m h).1 = true := by
  unfold xwrite
  split
  · exact hm
  · exact hm
  · exact wf_ridgeBytes _ bs hm
  · exact hm
  · exact hm

/-- A filter keeps the canonical form: what a reset or a loss of power leaves of memory. -/
theorem wf_filter (q : Nat × Byte → Bool) {m : Mem} (hm : Memory.wf m = true) : Memory.wf (m.filter q) = true :=
  wfFrom_filter q hm

/-- Forgetting bytes keeps the canonical form. -/
theorem wf_memForget (a n : Nat) {m : Mem} (hm : Memory.wf m = true) : Memory.wf (memForget a n m) = true := wf_filter _ hm

/-- A scrub keeps the canonical form. -/
theorem wf_scrubMem (l : Level) (h : Hw) {m : Mem} (hm : Memory.wf m = true) : Memory.wf (scrubMem l m h) = true := wf_filter _ hm

/-- What a cold reset leaves of memory is canonical. -/
theorem wf_coldMem {m : Mem} (hm : Memory.wf m = true) : Memory.wf (coldMem m) = true := wf_filter _ hm

/-- What Sill-only leaves of memory is canonical. -/
theorem wf_sillMem {m : Mem} (hm : Memory.wf m = true) : Memory.wf (sillMem m) = true := wf_filter _ hm

end Sys2Proof.Machine
end

