-- ==== Sys2Proof/Tests/Slice0.lean ====
section
/-!
SUPPORT. One small state per group of premises of the obligations, with a theorem that says it meets them, so that no
obligation is empty; small tests of single commands, their expected values taken from the rules named and worked by hand; and
an ill-formed operand of each kind, which `wellFormed` refuses.
-/

section

set_option maxRecDepth 20000
-- one theorem after another: each `decide +kernel` waits for the kernel
set_option Elab.async false
set_option linter.unreachableTactic false
set_option linter.unusedTactic false

namespace Sys2Proof.Tests
open Sys2Proof Sys2Proof.Machine Sys2Proof.Claims

/-! ### What the states are built from -/

def wh (c : Nat) (t : Nat) : Who := { core := Fin.ofNat 2112 c, thread := Fin.ofNat 4 t }
def dvals : List Nat := [0, 1, 2^64-1, 2^63, 2^63-1, 0x0123456789ABCDEF, 64, 63, 0x80000000, 0x7FFFFFFF, 0xFFFFFFFF, 17, 2^63+5, 0xF0F0F0F0F0F0F0F0, 3, 100, 0x1000, 0x1FFFF8, 2^40, 7,8,9,10,11,12,13,14,15,16,2^33,2^20,5]
def thr0 : Thread := {
  tstate := .running, pc := 0x40, d := Vector.ofFn (fun i : Fin 32 => BitVec.ofNat 64 (dvals.getD i.val 0)),
  a := Vector.ofFn (fun i : Fin 16 => BitVec.ofNat 48 ([0,0x40,0x1000,0x100000000000,2^48-1,2^47,0x1FFFF8,0x12345678,0x001000000000,8,3,0x002000000000,0x004000000000,0x010000000000,16,0xFFFFFF].getD i.val 0)),
  acc := Vector.ofFn (fun i : Fin 4 => BitVec.ofNat 72 ([0,2^71-1,2^71,12345].getD i.val 0)) }
def run (c t : Nat) (f : Thread → Thread := id) (g : Core → Core := id) (k : Hw → Hw := id) (m : Mem := []) : State :=
  let h : Hw := State.reset.hw
  let h := { h with clock := 1000 }
  let h := h.updCore c (fun x => g (({ x with isegx := 0xFFFF#16 }).setThread (Fin.ofNat 4 t) (f thr0)))
  { pending := [.endNotice], mem := m, hw := k h }

/-! ### Lemmas for premises over all addresses, cores or sources -/

theorem addresses_off {th : Thread} {b : Fin 16} {o : BitVec 12} {a : Nat}
    (h : (a : Int) = ((th.getA b).toNat + o.toInt) % 2 ^ 48) : Addresses th b none (.off o) a :=
  ⟨o.signExtend 64, BitVec.toInt_signExtend_of_le (by decide), by rw [BitVec.toInt_signExtend_of_le (by decide)]; exact h⟩

theorem foremost_rest {n : Nat} {z : Hw}
    (h : ∀ r : Fin 288, r.val ≠ n → z.irqPend.getLsbD r = true → prioOf r z < prioOf n z ∨ prioOf r z = prioOf n z ∧
     n < r) :
    ∀ r, r ≠ n → z.irqPend.getLsbD r = true → prioOf r z < prioOf n z ∨ prioOf r z = prioOf n z ∧ n < r := by
  intro r hr hb
  by_cases hlt : r < 288
  · exact h ⟨r, hlt⟩ hr hb
  · rw [BitVec.getLsbD_of_ge _ _ (by omega)] at hb; cases hb

theorem not_self {n : Nat} (x : BitVec (n + 1)) : ~~~x ≠ x := by
  intro h
  have := congrArg (·.getLsbD 0) h
  simp at this

theorem paused_all {n : Net} (h : ∀ q : Fin 8, n.ports[q].paused = 0) : ∀ p : Nat, (n.port p).paused = 0 := fun p => h (fin 8 p)

def desc (s : State) : List Nat := (List.range 16).map (fun j => memNat (s.hw.le.cutBase.toNat + 128 * s.hw.le.loaded + 8 * j) 8 s.mem)

def descCut (s : State) : Cut := { Cut.of s.hw.le.loaded (desc s) [] with spec := [0, 0, 0, 0] }

end Sys2Proof.Tests

open Sys2Proof Sys2Proof.Machine Sys2Proof.Claims Sys2Proof.Tests

namespace Sys2Proof.Tests.OneStep

/-! The words in which the small tests speak: a data register and the pc after a command, the flags, and a mortise word. -/

/-- Data register d of a thread after a command. -/
def dAfter (i : Instr) (w : Who) (d : Fin 32) (s : State) : Option W64 :=
  match exec i s with
  | .next t => some ((t.hw.thread w).getD d)
  | _ => none
/-- Z, N, C and V of a thread after a command. -/
def flagsAfter (i : Instr) (w : Who) (s : State) : Option (Bool × Bool × Bool × Bool) :=
  match exec i s with
  | .next t => let th := t.hw.thread w; some (th.fz, th.fn, th.fc, th.fv)
  | _ => none
/-- The PC of a thread after a command. -/
def pcAfter (i : Instr) (w : Who) (s : State) : Option (BitVec 20) :=
  match exec i s with
  | .next t => some (t.hw.thread w).pc
  | _ => none
/-- The exception that a thread has found after a command, by its code. -/
def codeAfter (i : Instr) (w : Who) (s : State) : Option Nat :=
  match exec i s with
  | .next t => (t.hw.thread w).found.map (·.code)
  | _ => none
def me : Who := wh 0 1
/-- Thread 1 of core 0 with two data registers set. -/
def two (x y : W64) : State := run 0 1 (fun th => (th.setD 1 x).setD 2 y)

/-- R139, R141: 2^63 − 1 plus 1 is negative and overflows, without a carry. -/
theorem test_add_overflows : dAfter (.add me 3 1 (.reg 2)) me 3 (two 0x7FFFFFFFFFFFFFFF 1) = some 0x8000000000000000 ∧
    flagsAfter (.add me 3 1 (.reg 2)) me (two 0x7FFFFFFFFFFFFFFF 1) = some (false, true, false, true) := by
  and_intros <;> decide +kernel
/-- R139, R141: 2^64 − 1 plus 1 is zero with a carry. -/
theorem test_add_carries : dAfter (.add me 1 1 (.reg 2)) me 1 (two 0xFFFFFFFFFFFFFFFF 1) = some 0 ∧
    flagsAfter (.add me 1 1 (.reg 2)) me (two 0xFFFFFFFFFFFFFFFF 1) = some (true, false, true, false) := by
  and_intros <;> decide +kernel
/-- R139: C is 1 after a subtraction that borrows nothing, 0 after one that borrows. -/
theorem test_cmp_borrow : flagsAfter (.cmp me 1 (.reg 2)) me (two 5 3) = some (false, false, true, false) ∧
    flagsAfter (.cmp me 1 (.reg 2)) me (two 3 5) = some (false, true, false, false) := by
  and_intros <;> decide +kernel
/-- R141: MULH is the upper half of the signed product, (−1) × 1. -/
theorem test_mulh_signed : dAfter (.mulh me 3 1 (.reg 2)) me 3 (two 0xFFFFFFFFFFFFFFFF 1) = some 0xFFFFFFFFFFFFFFFF := by
  decide +kernel
/-- R142: a zero divisor raises DIV_ZERO, code 0x0A. -/
theorem test_div_zero : codeAfter (.div me 3 1 (.reg 2)) me (two 7 0) = some 0x0A := by decide +kernel
/-- R142: a quotient truncates towards zero, −7 / 2 = −3. -/
theorem test_div_truncates : dAfter (.div me 3 1 (.reg 2)) me 3 (two 0xFFFFFFFFFFFFFFF9 2) = some 0xFFFFFFFFFFFFFFFD := by
  decide +kernel
/-- R143: LI extends the sign of its immediate. -/
theorem test_li_extends : dAfter (.li me 3 0x8000) me 3 (two 0 0) = some 0xFFFFFFFFFFFF8000 := by decide +kernel
/-- R152: B with condition 0xE branches always, PC-relative by four bytes an offset. -/
theorem test_branch_back : pcAfter (.b me 0xE (-4)) me (two 0 0) = some 0x30 := by decide +kernel

/-- R40, its example: 6 × (−1) × 2^(124 + 129 − 254) = −3. -/
theorem test_mx_product : (((fE2M1.decode 0b0111).scale (0x7C - 127)).mul ((fE2M1.decode 0b1010).scale (0x81 - 127))).cmp
    (.fin true 3 0) = some .eq := by decide +kernel
/-- R168, R169, their example: 2^24, 1, 1, 1 and zeros sum to 0x4B80_0001 in the fixed tree. -/
def ones : State := run 0 1 (fun th => { th with v := th.v.set 1 0x3F8000003F8000003F8000004B800000 })
theorem test_vrsum_tree : (match exec (.vrsum me 0 3 1) ones with
    | .next t => decide ((t.hw.thread me).v[(3 : Fin 32)] = 0x4B800001)
    | _ => false) = true := by decide +kernel
/-- R278, its example: bent 29 is six hops from the west plate, and d(6) = 114. -/
theorem test_hops : hopsBP 29 .west = 6 ∧ meshD 6 = 114 := by decide +kernel
/-- R249, its example: a tuple within one bent takes 8 cycles. -/
theorem test_tuple_latency : tupleLatency 3 5 = 8 := by decide +kernel

/-- No row of the table gives bits, so no word spells a command and none is put into the queue. -/
theorem test_no_word_spells : decodeTableWord 32 0x12345678 = none ∧
    (State.reset.withFetchWord 32 0x12345678).pending = [] := by decide +kernel
/-- A step with a command in front runs it and takes it off the queue. -/
theorem test_step_takes_front : (match step { two 1 2 with pending := [.add me 3 1 (.reg 2), .endNotice] } with
    | .next t => decide (t.pending = [.endNotice]) && decide ((t.hw.thread me).getD 3 = 3)
    | _ => false) = true := by decide +kernel

/-! Words of instruction memory, as the tables of the spec's encoding examples write them. -/

/-- R49: its encoding examples; a word with a nonzero bit of the field that must be 0, and FN 7, spell nothing. -/
theorem test_decode_matrix : [0xB0102000, 0xB04CB800, 0xB0826000, 0xB0C00000, 0xB0102001, 0xB1C00001].map (decodeWord me) =
    [some (.tmma me 2 0 1), some (.tmmas me 1 4 5 6), some (.tmman me 0 2 3), some (.msync me), none, none] := by decide +kernel
/-- R73: its encoding examples; −18 is LSE 0x3EE and −3 is SHIFT 0xFD. -/
theorem test_decode_groups : [0xB10227DC, 0xB1580000, 0xB18C0000, 0xB195DFE8, 0xB1C18A00, 0xB2010000, 0xB2014C50].map
    (decodeWord me) = [some (.aopen me 0 4 4 0x3EE), some (.aclose me 3), some (.adrain me 1 4 none false 0),
      some (.adrain me 2 5 (some 6) true 0xFD), some (.apass me 0 3 5), some (.achain me 0 2 none),
      some (.achain me 0 2 (some { tenon := 3, tag := 5 }))] := by decide +kernel
/-- R99: its encoding examples. -/
theorem test_decode_tiles : [0xB24C1008, 0xB2540F14, 0xB2680000, 0xB2811800, 0xB2A33A00, 0xB2CC4C00, 0xB3194E00, 0xB3730500].map
    (decodeWord me) = [some (.tcfg me 1 32 128 4), some (.tcfg me 2 32 120 0xA), some (.tcfg me 5 0 0 0),
      some (.tld me 0 2 3 false false), some (.tld me 4 6 7 false true), some (.tst me 1 8 9 true),
      some (.trdv me 5 3 7 false), some (.twrv me 6 2 12 true)] := by decide +kernel
/-- R135: the words of the worked loop. -/
theorem test_decode_loop : [0x50204000, 0x28200039, 0x6062C000, 0x40210002, 0x00421800, 0x0421FFFF, 0x807FFFFC].map
    (decodeWord me) = [some (.lia me 1 0x4000), some (.li me 1 57), some (.ld me 3 3 1 (.off 0) false),
      some (.adda me 1 1 2), some (.add me 2 2 (.reg 3)), some (.addi me 1 1 (-1)), some (.b me 1 (-4))] := by decide +kernel
/-- R136 to R155: the encoding examples of the core's instructions. -/
theorem test_decode_core : [0xFC0013DA, 0x54400100, 0x08040064, 0x00A01E00, 0x30121400, 0xA0800640, 0xB4346280, 0xB5300000,
    0xB6240000, 0x881C0000, 0x8BC60000, 0xE0000000, 0xE040FFFF, 0xE1000000].map (decodeWord me) =
    [some (.pfx me 0x13DA), some (.liah me 2 0x100), some (.cmpi me 4 100), some (.mov me 5 (.mort 3)),
      some (.mac me 1 4 (.reg 5)), some (.inp me 4 0x640), some (.send me 3 8 3 5), some (.credit me 0 3), some (.recv me 8 2),
      some (.jr me 14), some (.jlr me 14 3), some (.nop me), some (.wait me 0xFFFF), some (.eret me)] := by decide +kernel
/-- R155, R138: FENCE and CINV of each scope; SCOPE 0 of either is ILLEGAL. -/
theorem test_decode_fences : [0x70100000, 0x70200000, 0x70300000, 0x70500000, 0x70600000, 0x70700000, 0x70000000, 0x70400000].map
    (decodeWord me) = [some (.fenceC me), some (.fenceF me), some (.fenceS me), some (.cinvC me), some (.cinvF me),
      some (.cinvS me), none, none] := by decide +kernel
/-- R162, R170, R177: the encoding examples of the vector instructions. -/
theorem test_decode_vector : [0xC081100C, 0xCC200024, 0xD4420000, 0xD0C57080, 0xD8640100, 0xD84B0380, 0xDCE30500].map
    (decodeWord me) = [some (.vfma me 0 4 1 2), some (.vrmax me 0 1 0), some (.vexp me 0 2 2), some (.vcvt me 6 5 7 0 2),
      some (.vld me 3 2 256 false), some (.vstn me 2 5 7), some (.vsplat me 5 7 3)] := by decide +kernel

/-! The check of a command's operands refuses an ill-formed term of each kind. -/

def block64 : Block := { bytes := List.replicate 64 0, fecOk := true }
def dgram (n : Nat) : Dgram := { port := 0, src := 0, srcPort := 0, dst := .globalV6, ce := false, payload := List.replicate n 0 }
theorem test_wellFormed_block : wellFormed (.ident 0 block64) = true ∧
    wellFormed (.ident 0 { block64 with bytes := [0] }) = false ∧ wellFormed (.time 0 { block64 with bytes := [] }) = false := by
  decide +kernel
theorem test_wellFormed_datagram : wellFormed (.open_ (dgram 9216)) = true ∧ wellFormed (.open_ (dgram 9217)) = false ∧
    wellFormed (.readResp (dgram 9217)) = false := by decide +kernel
theorem test_wellFormed_samples : wellFormed (.temperatureSample (List.replicate 51 40)) = true ∧
    wellFormed (.temperatureSample (List.replicate 50 40)) = false ∧
    wellFormed (.senseSample (List.replicate 16 0) (List.replicate 16 0)) = true ∧
    wellFormed (.senseSample (List.replicate 16 0) (List.replicate 15 0)) = false ∧
    wellFormed (.senseSample (List.replicate 17 0) (List.replicate 16 0)) = false := by decide +kernel
theorem test_wellFormed_flash : wellFormed (.flashProg .ridge 0x3FFFFFF none) = true ∧
    wellFormed (.flashProg .ridge 0x4000000 none) = false ∧ wellFormed (.flashProg .ridge 0 (some [1])) = false ∧
    wellFormed (.flashRead .ridge 0x3FFFFFF 1) = true ∧ wellFormed (.flashRead .ridge 0x3FFFFFF 2) = false := by decide +kernel
theorem test_wellFormed_patrol : wellFormed (.patrolRead .west 0x1FFFFFFFF .ok) = true ∧
    wellFormed (.patrolRead .west 0x200000000 .ok) = false := by decide +kernel

end Sys2Proof.Tests.OneStep

namespace Sys2Proof.Tests.Remaining

def st : Entry := { words := [5, 6], k := 1, tag := 3, stream := true, credit := .plate .west }
def sm : State := run 0 1 id (fun k => { k with mortises := k.mortises.set 6 [st] })

/-- Mortise 5 is empty, mortise 6 holds a stream entry, and 31 numbers no mortise. -/
theorem witness_MortiseOperandsAndZeroDivisors :
    (Issues (wh 0 1) none sm ∧ Instr.add (wh 0 1) 1 2 (.mort 5) ∈ Claims.withSource (wh 0 1) 1 2 0 (.mort 5) ∧
      (5 : Fin 16).val = (5 : Fin 32).val ∧ (sm.hw.core (wh 0 1).core).mortises[(5 : Fin 16)] = []) ∧
    (Instr.msus (wh 0 1) 0 2 (.mort 6) ∈ Claims.withSource (wh 0 1) 1 2 0 (.mort 6) ∧
      (6 : Fin 16).val = (6 : Fin 32).val ∧ (sm.hw.core (wh 0 1).core).mortises[(6 : Fin 16)] = [st] ∧ st.stream = true) ∧
    (Instr.sel (wh 0 1) 1 2 (.mort 31) 0xE ∈ Claims.withSource (wh 0 1) 1 2 0 (.mort 31) ∧ 16 ≤ (31 : Fin 32).val) := by
  repeat' first | decide +kernel | rfl | constructor

/-- 1.0 of each end of the list of formats. -/
theorem witness_RoundingKeepsRepresentedNumbers :
    (fFP32 ∈ [fFP32, fBF16, fFP16, fE4M3, fE5M2, fE2M3, fE3M2, fE2M1] ∧ 0x3F800000 < 2 ^ fFP32.bits ∧
      fFP32.decode 0x3F800000 ≠ .nan) ∧
    (fE2M1 ∈ [fFP32, fBF16, fFP16, fE4M3, fE5M2, fE2M3, fE3M2, fE2M1] ∧ 2 < 2 ^ fE2M1.bits ∧
     fE2M1.decode 2 ≠ .nan) := by
  decide +kernel

/-- Lane 1 holds NaN in one state and 1.0 in the other. -/
def lanes (x : BitVec 32) : State := run 0 1 (fun th => { th with v := th.v.set 1 (x.setWidth 2048 <<< 32) })
theorem witness_VectorLanesMoved :
    (Issues (wh 0 1) none (lanes 0x7FC00000) ∧ (0 : BitVec 3).toNat ≤ 2 ∧ 1 < laneCount (wh 0 1) 0 ∧
      (laneFmt 0).isNan (lane 0 ((lanes 0x7FC00000).hw.thread (wh 0 1)).v[(1 : Fin 32)] 1) = true ∧
      ∀ i < 1, (laneFmt 0).isNan (lane 0 ((lanes 0x7FC00000).hw.thread (wh 0 1)).v[(1 : Fin 32)] i) = false) ∧
    (Issues (wh 0 1) none (lanes 0x3F800000) ∧ ∀ j < laneCount (wh 0 1) 0,
      (laneFmt 0).isNan (lane 0 ((lanes 0x3F800000).hw.thread (wh 0 1)).v[(1 : Fin 32)] j) = false) := by
  repeat' first | decide +kernel | constructor

/-- A frame in which slot 3 has written two bytes, and one in which thread 1 has loaded a register. -/
def written : Mem × Hw := (run 0 1).hw.frameAct 0 (.write 3 (locScratch 0 0x40) [9, 8]) []
def loaded : Mem × Hw := (run 0 1).hw.frameAct 0 (.load 1 (.d 4 8 false) (locScratch 0 0x40) 8) []
theorem written_acts : ((written.2.core (0 : CoreId)).frameLog (written.2.cycle (0 : CoreId))).acts = [.write 3 (locScratch 0 0x40) [9, 8]] := by
  decide +kernel
/-- A frame with an access of a later slot, one of its bytes and a byte beside it; and a frame with a load. -/
theorem witness_HousingUnitsAreAcceptedAndWritten :
    (Memory.wf written.1 = true ∧ FrameMade 0 written.2 written.1 ∧ WrittenLater 0 written.2 1 (locScratch 0 0x41) ∧
      ¬WrittenLater 0 written.2 1 (locScratch 0 0x42)) ∧
    (Memory.wf loaded.1 = true ∧ FrameMade 0 loaded.2 loaded.1 ∧
      ((loaded.2.core 0).frameLog (loaded.2.cycle 0)).acts = [.load 1 (.d 4 8 false) (locScratch 0 0x40) 8] ∧ 1 < 2 ∧ 2 < 3) := by
  refine ⟨⟨by decide +kernel, by unfold FrameMade; decide +kernel, ?_, ?_⟩, by decide +kernel, by unfold FrameMade; decide +kernel,
    by decide +kernel, by decide, by decide⟩
  · exact ⟨.write 3 (locScratch 0 0x40) [9, 8], by rw [written_acts]; exact List.mem_singleton_self _, by decide +kernel⟩
  · rintro ⟨x, hx, h⟩
    rw [written_acts] at hx; rw [List.mem_singleton] at hx
    subst hx
    exact absurd h (by decide +kernel)

theorem witness_StepRunsTheFrontCommand : State.reset.pending = [] := by decide +kernel

/-- The ranges of the page map: the last mapped page, the first unmapped one and the last one. -/
theorem witness_ResetState : (0x7FFBFF < 2 ^ 24 ∧ 0 < 4) ∧ (0x7FFC00 < 2 ^ 24 ∧ 3 < 4) ∧ (0xFFFFFF < 2 ^ 24 ∧ 3 < 4) := by
  decide +kernel

/-- A command steps from a state whose memory is canonical. -/
def stepping : State := { run 0 1 (m := [(0x40, 7)]) with pending := [.li (wh 0 1) 1 5] }
theorem witness_EveryStepKeepsMemoryCanonical : Memory.wf stepping.mem = true ∧ ∃ t, step stepping = .next t :=
  ⟨by decide +kernel, _, rfl⟩

/-- RESET_N is low and the module has power. -/
def low : State := { State.reset with hw := { State.reset.hw with board := { State.reset.hw.board with resetN := false } } }
theorem witness_WellFormedCommandsComplete :
    wellFormed (.patrolRead .west 0x1FFFFFFFF .ok) = true ∧ 2 ^ 33 ≤ 0x200000000 ∧
    (low.hw.sill.power ≠ .off ∧ low.hw.board.resetN = false ∧ 0x04000000 ≤ 0x4000000 ∧ 0x04000000 < 0x3FFFFFF + 2) := by
  decide +kernel

/-- A completion ring of 8,192 bytes, at offset 0. -/
def ses : Session := { epoch := 1, control := true, openId := 1, addr := 1, udp := 1, local_ := false, port := 0, idleMs := 1,
                       cmdLog := 13, cplLog := 13 }
theorem recordBytes_length (ws : List W64) : (recordBytes ws).length = 8 * ws.length := by
  have h : ∀ n v, (toBytes n v).length = n := by
    intro n; induction n with
    | zero => intro v; rfl
    | succ n ih => intro v; simp [toBytes, ih]
  unfold recordBytes wordsBytes
  induction ws with
  | nil => rfl
  | cons w ws ih => simp only [List.map_cons, List.flatMap_cons, List.length_append, ih, h, List.length_cons]; omega
/-- A ring with that much room places every record of a notice (R379). -/
theorem witness_LayoutOverlaysCopiesAndLedger : ses.waiting = [] ∧ ∀ ws : List W64, ws.length = 8 → (ses.place ws).isSome = true := by
  refine ⟨rfl, fun ws h => ?_⟩
  have h1 := recordBytes_length ws
  simp only [Session.place, ses, sub32, h1, h]
  simp [h1, h]

end Sys2Proof.Tests.Remaining

namespace Sys2Proof.Tests.Scalars

def st : Entry := { words := [5, 6], k := 1, tag := 3, stream := true, credit := .plate .west }
def en : Entry := { words := [0xFFFFFFFF80000003, 6], k := 1, tag := 3, stream := false, credit := .tenon 1 2 3 }
def sm := run 0 1 id (fun k => { k with mortises := (k.mortises.set 5 [en]).set 6 [st] })
def wit1 := run 0 1
def wit3 := run 0 1 (fun th => {th with fc := true, fn := true})
def wit5 := run 0 1 

/-- The premises of `Obligations.SumsAndDifferences` can be met. -/
theorem witness_SumsAndDifferences :
    (Issues (wh 0 1) none wit1 ∧
     SourceValue (wh 0 1) wit1 (BitVec.ofNat 64 0x8000000000000000) (Src.reg (3 : Fin 32))) := by
  repeat' first | decide +kernel | rfl | constructor

/-- The premises of `Obligations.LogicMovesAndSelect` can be met. -/
theorem witness_LogicMovesAndSelect :
    (Issues (wh 0 1) none wit3 ∧
     SourceValue (wh 0 1) wit3 (BitVec.ofNat 64 0xf0f0f0f0f0f0f0f0) (Src.reg (13 : Fin 32)) ∧
     (3 : BitVec 4) ≠ (15 : BitVec 4)) := by
  repeat' first | decide +kernel | rfl | constructor

/-- The premises of `Obligations.ShiftsAndRotates` can be met. -/
theorem witness_ShiftsAndRotates :
    (Issues (wh 0 1) none wit3 ∧ SourceValue (wh 0 1) wit3 (63 : W64) (Src.reg (7 : Fin 32))) := by
  repeat' first | decide +kernel | rfl | constructor

/-- The premises of `Obligations.ProductsAndQuotients` can be met. -/
theorem witness_ProductsAndQuotients :
    (Issues (wh 0 1) none wit5 ∧ SourceValue (wh 0 1) wit5 (-1 : W64) (Src.reg (2 : Fin 32)) ∧
     (-1 : W64) ≠ (0 : W64)) := by
  repeat' first | decide +kernel | rfl | constructor

/-- The premises of `Obligations.ExtremaCountsAndExtensions` can be met. -/
theorem witness_ExtremaCountsAndExtensions :
    (Issues (wh 0 1) none wit5 ∧ SourceValue (wh 0 1) wit5 (3 : W64) (Src.reg (14 : Fin 32)) ∧
     BitVec.toNat (1 : BitVec 4) ≤ 2) := by
  repeat' first | decide +kernel | rfl | constructor

/-- The premises of `Obligations.MortiseOperandsAndZeroDivisors` can be met. -/
theorem witness_MortiseOperandsAndZeroDivisors :
    (Issues (wh 0 1) none sm ∧ Fin.val (5 : Fin 16) = Fin.val (5 : Fin 32) ∧
     ((slot (wh 0 1) sm).core (Fin.val (wh 0 1).core)).mortises[(5 : Fin 16)] = [en] ∧ en.stream = false) ∧
    (Issues (wh 0 1) none sm ∧ SourceValue (wh 0 1) sm (0 : W64) (Src.reg (0 : Fin 32))) := by
  repeat' first | decide +kernel | rfl | constructor

/-- The premises of `Obligations.ImmediateInstructions` can be met. -/
theorem witness_ImmediateInstructions :
    (Issues (wh 0 1) none sm ∧ SignedImm none (0x8003 : BitVec 16) (0xffffffffffff8003 : W64) ∧
     UnsignedImm none (0x8003 : BitVec 16) (0x8003 : W64)) := by
  repeat' first | decide +kernel | rfl | constructor | unfold SignedImm | unfold UnsignedImm | dsimp only

/-- The premises of `Obligations.AddressAndAccumulatorInstructions` can be met. -/
theorem witness_AddressAndAccumulatorInstructions :
    (SignedImm none (0x8003 : BitVec 16) (0xffffffffffff8003 : W64) ∧
     UnsignedImm none (0x8003 : BitVec 16) (0x8003 : W64) ∧ Issues (wh 0 1) none sm) ∧
    (Issues (wh 0 1) none sm ∧ SourceValue (wh 0 1) sm (0xffffffff : W64) (Src.reg (10 : Fin 32))) := by
  repeat' first | decide +kernel | rfl | constructor | unfold SignedImm | unfold UnsignedImm | dsimp only

end Sys2Proof.Tests.Scalars

namespace Sys2Proof.Tests.Accesses

def dirMem : Mem := memWriteN (locScratch 0 0x180000) (toBytes 16 0xF1E2D3C4B5A69788_0102030405060708) (memWriteN (locRidge 0x100) (toBytes 8 0xDEADBEEF89ABCDEF) [])
def sa (x : Nat) (p : Option (BitVec 26) := none) (c := 0) := run c 1 (fun th => { th with a := th.a.set 1 (BitVec.ofNat 48 x), pfx := p, v := th.v.set 3 (BitVec.ofNat 2048 (2^2047 + 2^1023 + 2^511 + 0xABCDEF0123456789)) }) id id dirMem
def wit1 := sa 0x180000
def wit2 := sa 0x180010
def wit4 := Offset.off 0
def wit5 := sa 0x004000000100
def wit8 : LoadOp := { dest := .d 3 2 true, pieces := [(5,2)], got := [], uncached := true, words := 2 }
def wit9 := (run 0 1 id (fun k => { k with loads := k.loads.set 1 (some { dest := .d 3 2 true, pieces := [(5,2)], got := [], uncached := true, words := 2 }) })).hw
def wit10 := sa 0x40 none 41
def wit13 := sa 0x180001
def wit14 := sa 0x7FFFFFF8
def wit16 := sa 0x17FFF0
def wit17 := run 41 1 (fun th => { th with mode := false, a := th.a.set 1 0x003FFFFFFFF8 })
def cl : CLine := { key := (0x001000000000 + 0x1000) / 64, data := (List.range 64).map (fun k => BitVec.ofNat 8 (k*7)), mask := 0, way := 1, stamp := 4 }
def wit18 := (0x001000000000 + 0x1000) / 64
def wit19 := run 0 1 (fun th => { th with a := th.a.set 1 0x40001030 }) (fun k => { k with cache := [cl], cacheStamp := 9 })
def wit20 := run 0 1
def wit21 := run 0 1 id (fun k => { k with evSerial := 4, evDone := 3 })
def fst2 := run 0 1 (fun th => { th with fence := some 3, remoteTo := [2,3], stall := some .fence }) (fun k => { k with evSerial := 4, evDone := 3 })
def wit23 := (fst2.hw.slotWhere (wh 0 1) (fun y => y.canIssue (wh 0 1) && y.fenceOver (wh 0 1) .frame)).getD fst2.hw
def fst3 := run 0 1 (fun th => { th with remoteTo := [2,3] })
def cd : CLine := { cl with mask := 0xF0, key := cl.key + 5 }
def cv : Cinv := {thread := 1, scope := .system, at_ := 20}
def cvs := run 0 1 (fun th => { th with stall := some .cinv }) (fun k => { k with cache := [cl, cd], cinv := some cv })
def wit25 := run 0 1 id (fun k => { k with cache := [cl, cd] })
def wit27 := cvs.hw.core 0
def cvs2 := run 0 1 (fun th => { th with stall := some .cinv }) (fun k => { k with cache := [cl], cinv := some cv })
def wit28 : Cinv := {cv with set := 128, at_ := 148, serial := 0}
def wit30 := run 0 1 (fun th => { th with pfx := some 5 })
def wit32 := run 0 1 (fun th => { th with evpend := 5 })
def wwS := run 0 1 (fun th => { th with evpend := 5, waitMask := 4, tstate := .waiting })
def wit34 := (wwS.hw.slotWhere (wh 0 1) (·.wakes (wh 0 1))).getD wwS.hw
def wit35 := run 0 1 (fun th => { th with brkstop := true, mode := false })
def wit37 := run 0 1 (fun th => { th with mode := false })
def wit39 := run 0 1 (fun th => {th with nextIssue := 1003})
def pq := run 41 1 (fun th => { th with pair := some { slot := 1000, form := formOf (.add (wh 41 1) 1 2 (.reg 3)) } })

/-- The premises of `Obligations.DirectLoadsReadTheirBytes` can be met. -/
theorem witness_DirectLoadsReadTheirBytes :
    (Issues (wh 0 1) none wit1 ∧ InScratch (wh 0 1) 0x180008 1 (locScratch 0 0x180008) ∧ FrameOpen (wh 0 1) wit1 ∧
     (0 : BitVec 3) ≠ (7 : BitVec 3) ∧ 1 = 2 ^ (BitVec.toNat (0 : BitVec 3) / 2) ∧ 0x180008 % 1 = 0 ∧
     Addresses ((slot (wh 0 1) wit1).thread (wh 0 1)) (1 : Fin 16) none (Offset.off (8 : BitVec 12)) 0x180008) ∧
    (Issues (wh 0 1) none wit5 ∧ ((slot (wh 0 1) wit5).thread (wh 0 1)).stopReq = false ∧
     InRidge (wh 0 1) wit5 0x4000000100 4 ∧ (5 : BitVec 3) ≠ (7 : BitVec 3) ∧
     4 = 2 ^ (BitVec.toNat (5 : BitVec 3) / 2) ∧ 0x4000000100 % 4 = 0 ∧
     Addresses ((slot (wh 0 1) wit5).thread (wh 0 1)) (1 : Fin 16) none wit4 0x4000000100) ∧
    (Issues (wh 0 1) none wit2 ∧ InScratch (wh 0 1) 0x180008 8 (locScratch 0 0x180008) ∧ FrameOpen (wh 0 1) wit2 ∧
     8 = 8 ∧ 0x180008 % 8 = 0 ∧
     Addresses ((slot (wh 0 1) wit2).thread (wh 0 1)) (1 : Fin 16) none (Offset.off (4088 : BitVec 12)) 0x180008) ∧
    (Issues (wh 0 1) none wit5 ∧ ((slot (wh 0 1) wit5).thread (wh 0 1)).stopReq = false ∧
     InRidge (wh 0 1) wit5 0x4000000100 8 ∧ 8 = 8 ∧ 0x4000000100 % 8 = 0 ∧
     Addresses ((slot (wh 0 1) wit5).thread (wh 0 1)) (1 : Fin 16) none wit4 0x4000000100) ∧
    (Issues (wh 0 1) none wit5 ∧ ((slot (wh 0 1) wit5).thread (wh 0 1)).stopReq = false ∧
     InRidge (wh 0 1) wit5 0x4000000100 128 ∧ 128 = vecBits (Fin.val (wh 0 1).core) / 8 ∧ 0x4000000100 % 128 = 0 ∧
     Addresses ((slot (wh 0 1) wit5).thread (wh 0 1)) (1 : Fin 16) none (Offset.off (0 : BitVec 12)) 0x4000000100) ∧
    (Issues (wh 0 1) none wit1 ∧ InScratch (wh 0 1) 0x180000 128 (locScratch 0 0x180000) ∧ FrameOpen (wh 0 1) wit1 ∧
     128 = vecBits (Fin.val (wh 0 1).core) / 8 ∧ 0x180000 % 128 = 0 ∧
     Addresses ((slot (wh 0 1) wit1).thread (wh 0 1)) (1 : Fin 16) none (Offset.off (0 : BitVec 12)) 0x180000) ∧
    ((wit9.core (Fin.val (wh 0 1).core)).loads[(wh 0 1).thread] = some wit8 ∧
     (wit9.core (Fin.val (wh 0 1).core)).frozenAt = none ∧ (wit9.thread (wh 0 1)).tstate = TState.running) := by
  repeat' first | decide +kernel | rfl | (refine addresses_off ?_; decide +kernel) | constructor | unfold InScratch | unfold FrameOpen | unfold Addresses | unfold SignedImm | unfold InRidge | dsimp only

/-- The premises of `Obligations.DirectStoresWriteTheirBytes` can be met. -/
theorem witness_DirectStoresWriteTheirBytes :
    (Issues (wh 0 1) none wit1 ∧ (InScratch (wh 0 1) 0x180008 1 (locScratch 0 0x180008) ∧
     FrameOpen (wh 0 1) wit1 ∨ InRidge (wh 0 1) wit1 0x180008 1 ∧ locScratch 0 0x180008 = 0x180008 ∧
     ∀ k < 1, ridgeWord (0x180008 - 0x4000000000 + k) = RidgeWord.plain) ∧ BitVec.toNat (0 : BitVec 3) % 2 = 0 ∧
     1 = 2 ^ (BitVec.toNat (0 : BitVec 3) / 2) ∧ 0x180008 % 1 = 0 ∧
     Addresses ((slot (wh 0 1) wit1).thread (wh 0 1)) (1 : Fin 16) none (Offset.off (8 : BitVec 12)) 0x180008) ∧
    (Issues (wh 0 1) none wit1 ∧ (InScratch (wh 0 1) 0x180008 8 (locScratch 0 0x180008) ∧
     FrameOpen (wh 0 1) wit1 ∨ InRidge (wh 0 1) wit1 0x180008 8 ∧ locScratch 0 0x180008 = 0x180008 ∧
     ∀ k < 8, ridgeWord (0x180008 - 0x4000000000 + k) = RidgeWord.plain) ∧ 8 = 8 ∧ 0x180008 % 8 = 0 ∧
     Addresses ((slot (wh 0 1) wit1).thread (wh 0 1)) (1 : Fin 16) none (Offset.off (8 : BitVec 12)) 0x180008) ∧
    (Issues (wh 41 1) none wit10 ∧ (InScratch (wh 41 1) 64 64 (locScratch 41 64) ∧
     FrameOpen (wh 41 1) wit10 ∨ InRidge (wh 41 1) wit10 64 64 ∧ locScratch 41 64 = 64 ∧
     ∀ k < 64, ridgeWord (64 - 0x4000000000 + k) = RidgeWord.plain) ∧ 64 = vecBits (Fin.val (wh 41 1).core) / 8 ∧
     64 % 64 = 0 ∧
     Addresses ((slot (wh 41 1) wit10).thread (wh 41 1)) (1 : Fin 16) none (Offset.off (0 : BitVec 12)) 64) ∧
    (Issues (wh 41 1) none wit10 ∧ (InScratch (wh 41 1) 64 64 (locScratch 41 64) ∧
     FrameOpen (wh 41 1) wit10 ∨ InRidge (wh 41 1) wit10 64 64 ∧ locScratch 41 64 = 64 ∧
     ∀ k < 64, ridgeWord (64 - 0x4000000000 + k) = RidgeWord.plain) ∧
     64 = min (BitVec.toNat (((slot (wh 41 1) wit10).thread (wh 41 1)).getD (15 : Fin 32))) (vecBits (Fin.val (wh 41 1).core) / 8) ∧
     64 % (vecBits (Fin.val (wh 41 1).core) / 8) = 0 ∧
     64 = BitVec.toNat (((slot (wh 41 1) wit10).thread (wh 41 1)).getA (1 : Fin 16))) := by
  repeat' first | decide +kernel | rfl | (refine addresses_off ?_; decide +kernel) | (intro _; rfl) | constructor | unfold InScratch | unfold FrameOpen | unfold InRidge | unfold Addresses | unfold SignedImm | dsimp only

/-- The premises of `Obligations.DataAccessFaultsArePrecise` can be met. -/
theorem witness_DataAccessFaultsArePrecise :
    (Issues (wh 41 1) none wit17 ∧
     Addresses ((slot (wh 41 1) wit17).thread (wh 41 1)) (1 : Fin 16) none (Offset.off (8 : BitVec 12)) 0x4000000000 ∧
     0x4000000000 % 8 = 0 ∧ 0x4000000000 ≤ 0x4000000000 ∧ 0x4000000000 + 8 ≤ 0x4001000000 ∧
     ((slot (wh 41 1) wit17).thread (wh 41 1)).mode = false) ∧
    (Issues (wh 0 1) none wit14 ∧
     Addresses ((slot (wh 0 1) wit14).thread (wh 0 1)) (1 : Fin 16) none (Offset.off (8 : BitVec 12)) 0x80000000 ∧
     0x80000000 % 8 = 0 ∧ 0x80000000 ≤ 0x80000000 ∧ 0x80000000 < 0x1000000000) ∧
    (Issues (wh 0 1) none wit16 ∧
     Addresses ((slot (wh 0 1) wit16).thread (wh 0 1)) (1 : Fin 16) none (Offset.off (8 : BitVec 12)) 0x17fff8 ∧
     0x17fff8 % 8 = 0 ∧ Fin.val (wh 0 1).core % 44 < 32 ∧ 0x17fff8 < 0x180000) ∧
    (Issues (wh 0 1) none wit13 ∧
     Addresses ((slot (wh 0 1) wit13).thread (wh 0 1)) (1 : Fin 16) none (Offset.off (8 : BitVec 12)) 0x180009 ∧
     0x180009 % 8 ≠ 0) := by
  repeat' first | decide +kernel | rfl | (refine addresses_off ?_; decide +kernel) | constructor | unfold Addresses | unfold SignedImm | dsimp only

/-- The premises of `Obligations.CachedLoadsHitTheirLine` can be met. -/
theorem witness_CachedLoadsHitTheirLine :
    (Issues (wh 0 1) none wit19 ∧
     Addresses ((slot (wh 0 1) wit19).thread (wh 0 1)) (1 : Fin 16) none (Offset.off (8 : BitVec 12)) 0x40001038 ∧
     0x40001038 % 8 = 0 ∧ 0x40000000 ≤ 0x40001038 ∧ 0x40001038 + 8 ≤ 0x80000000 ∧
     wit18 = (0x1000000000 + Fin.val (wh 0 1).core / 44 * 0x40000000 + (0x40001038 - 0x40000000)) / 64 ∧
     ((slot (wh 0 1) wit19).core (Fin.val (wh 0 1).core)).cinv = none ∧
     ((slot (wh 0 1) wit19).core (Fin.val (wh 0 1).core)).line wit18 = some cl ∧ cl.data.length = 64) := by
  repeat' first | decide +kernel | rfl | (refine addresses_off ?_; decide +kernel) | constructor | unfold Addresses | unfold SignedImm | dsimp only

/-- The premises of `Obligations.FencesAndCacheInvalidation` can be met. -/
theorem witness_FencesAndCacheInvalidation :
    (wit27.cinv = some cv ∧ cv.set = 0 ∧ cv.at_ + 127 ≤ 147 ∧ (∀ (r : Fin 8), wit27.miss[r] = none) ∧
     ((List.filter (fun x => x.mask != (0 : BitVec 64)) wit27.cache).length + wit27.evb.length ≤ 8) ∧ cd ∈ wit27.cache ∧
     cd.mask ≠ (0 : BitVec 64)) ∧
    (Issues (wh 0 1) none wit20 ∧ (wit20.hw.thread (wh 0 1)).stall ≠ some Stall.fence ∧
     ((slot (wh 0 1) wit20).core (Fin.val (wh 0 1).core)).evSerial ≤ ((slot (wh 0 1) wit20).core (Fin.val (wh 0 1).core)).evDone ∧
     ((slot (wh 0 1) wit20).thread (wh 0 1)).notices = 0 ∧ ((slot (wh 0 1) wit20).thread (wh 0 1)).remoteTo = []) ∧
    ((cvs2.hw.core (Fin.val (0 : CoreId))).cinv = some cv ∧
     ((((cvs2.hw.coreEvent (0 : CoreId) (cv.at_ + 127 - cv.set)).updCore (Fin.val (0 : CoreId)) fun x => x.cinvTo (max (cv.at_ + 127 - cv.set) (cvs2.hw.cycle (Fin.val (0 : CoreId))))).core (Fin.val (0 : CoreId))).cinv = some wit28) ∧
     wit28.set = 128 ∧ (cvs2.hw.core (Fin.val (0 : CoreId))).frozenAt = none ∧
     (fenceMet ((cvs2.hw.coreEvent (0 : CoreId) (cv.at_ + 127 - cv.set)).updCore (Fin.val (0 : CoreId)) fun x => x.cinvTo (max (cv.at_ + 127 - cv.set) (cvs2.hw.cycle (Fin.val (0 : CoreId))))) { core := (0 : CoreId), thread := cv.thread : Who } wit28.scope wit28.serial = true)) ∧
    ((fst2.hw.thread (wh 0 1)).stall = some Stall.fence ∧ (fst2.hw.thread (wh 0 1)).tstate = TState.running ∧
     ((fst2.hw.slotWhere (wh 0 1) fun y => y.canIssue (wh 0 1) && y.fenceOver (wh 0 1) (Instr.fenceC (wh 0 1), Scope.core).2) = some wit23) ∧
     (wit23.thread (wh 0 1)).stall = some Stall.fence) ∧
    (Issues (wh 0 1) none wit21 ∧ (wit21.hw.thread (wh 0 1)).stall ≠ some Stall.fence ∧
     (((slot (wh 0 1) wit21).core (Fin.val (wh 0 1).core)).evDone < ((slot (wh 0 1) wit21).core (Fin.val (wh 0 1).core)).evSerial ∨ ((slot (wh 0 1) wit21).thread (wh 0 1)).notices ≠ 0)) ∧
    (Issues (wh 0 1) none fst3 ∧ (fst3.hw.thread (wh 0 1)).stall ≠ some Stall.fence ∧
     ((slot (wh 0 1) fst3).thread (wh 0 1)).remoteTo ≠ []) ∧
    (Issues (wh 0 1) none wit25 ∧ ((slot (wh 0 1) wit25).core (Fin.val (wh 0 1).core)).cinv = none) := by
  repeat' first | decide +kernel | rfl | (intro _; rfl) | constructor

/-- The premises of `Obligations.ControlTransfersAndPrefixPairs` can be met. -/
theorem witness_ControlTransfersAndPrefixPairs :
    (wit20.hw.later = [] ∧ (wit20.hw.core (Fin.val (wh 0 1).core)).cinv = none ∧
     (wit20.hw.core (Fin.val (wh 0 1).core)).drains = [] ∧ (wit20.hw.core (Fin.val (wh 0 1).core)).stream = none ∧
     (wit20.hw.core (Fin.val (wh 0 1).core)).frozenAt = none ∧
     (wit20.hw.core (Fin.val (wh 0 1).core)).cyc0 ≤ wit20.hw.clock ∧
     (wit20.hw.toSlot (wh 0 1)).canIssue (wh 0 1) = true) ∧
    (wit39.hw.later = [] ∧ (wit39.hw.core (Fin.val (wh 0 2).core)).cinv = none ∧
     (wit39.hw.core (Fin.val (wh 0 2).core)).drains = [] ∧ (wit39.hw.core (Fin.val (wh 0 2).core)).stream = none ∧
     (wit39.hw.core (Fin.val (wh 0 2).core)).frozenAt = none ∧
     (wit39.hw.core (Fin.val (wh 0 2).core)).cyc0 ≤ wit39.hw.clock ∧
     (wit39.hw.toSlot (wh 0 2)).canIssue (wh 0 2) = false) ∧
    (Issues (wh 0 1) (some (5 : BitVec 26)) wit30 ∧ BitVec.toNat (63 : BitVec 16) < 64 ∧
     ((slot (wh 0 1) wit30).thread (wh 0 1)).stepOnce = false ∧
     ((slot (wh 0 1) wit30).thread (wh 0 1)).stopReq = false) ∧
    (Issues (wh 0 1) none wit20 ∧ (14 : BitVec 4) ≠ (15 : BitVec 4) ∧
     condHolds ((slot (wh 0 1) wit20).thread (wh 0 1)).flags (14 : BitVec 4) = true) ∧
    (Issues (wh 0 1) none wit20 ∧ BitVec.toNat (((slot (wh 0 1) wit20).thread (wh 0 1)).getA (2 : Fin 16)) % 4 = 0 ∧
     BitVec.toNat (((slot (wh 0 1) wit20).thread (wh 0 1)).getA (2 : Fin 16)) < imemSize (Fin.val (wh 0 1).core)) ∧
    (Issues (wh 0 1) none wit20 ∧ (0 : BitVec 4) ≠ (15 : BitVec 4) ∧
     condHolds ((slot (wh 0 1) wit20).thread (wh 0 1)).flags (0 : BitVec 4) = false) ∧
    (Issues (wh 0 1) none wit20 ∧ BitVec.toNat (((slot (wh 0 1) wit20).thread (wh 0 1)).getA (8 : Fin 16)) % 4 = 0 ∧
     imemSize (Fin.val (wh 0 1).core) ≤ BitVec.toNat (((slot (wh 0 1) wit20).thread (wh 0 1)).getA (8 : Fin 16))) ∧
    (pq.hw.pairs (wh 41 1) (formOf (Instr.add (wh 41 1) (2 : Fin 32) (2 : Fin 32) (Src.reg (2 : Fin 32)))) = true ∧
     (pq.hw.thread (wh 41 1)).pc.toNat < imemSize (Fin.val (wh 41 1).core) ∧
     (pq.hw.core (Fin.val (wh 41 1).core)).isegx.getLsbD ((pq.hw.thread (wh 41 1)).pc.toNat / segSize (Fin.val (wh 41 1).core)) = true) ∧
    (Issues (wh 0 1) none wit20 ∧ BitVec.toNat (((slot (wh 0 1) wit20).thread (wh 0 1)).getA (10 : Fin 16)) % 4 ≠ 0) ∧
    (Fin.val (wh 0 1).core % 44 < 40) := by
  repeat' first | decide +kernel | rfl | constructor

/-- The premises of `Obligations.WaitTrapBreakAndReturn` can be met. -/
theorem witness_WaitTrapBreakAndReturn :
    ((wit34.core (Fin.val (wh 0 1).core)).coreHalt = false ∧ (wit34.core (Fin.val (wh 0 1).core)).frozenAt = none ∧
     ((wit34.core (Fin.val (wh 0 1).core)).thread (0 : Fin 4)).found = none ∧
     (wit34.thread (wh 0 1)).tstate = TState.waiting ∧ (wit34.thread (wh 0 1)).takeable = false) ∧
    (Issues (wh 0 1) none wit20 ∧ ((slot (wh 0 1) wit20).thread (wh 0 1)).evpend &&& (4 : BitVec 16) = (0 : BitVec 16) ∧
     ((slot (wh 0 1) wit20).thread (wh 0 1)).ipend = (0 : BitVec 11)) ∧
    (Issues (wh 0 1) none wit32 ∧
     (((slot (wh 0 1) wit32).thread (wh 0 1)).evpend &&& (4 : BitVec 16) ≠ (0 : BitVec 16) ∨ ((slot (wh 0 1) wit32).thread (wh 0 1)).ipend ≠ (0 : BitVec 11))) ∧
    (Issues (wh 0 1) none wit20 ∧ ((slot (wh 0 1) wit20).thread (wh 0 1)).brkstop = false) ∧
    (Issues (wh 0 1) none wit20 ∧ ((slot (wh 0 1) wit20).thread (wh 0 1)).mode = true) ∧
    (Issues (wh 0 1) none wit35 ∧ ((slot (wh 0 1) wit35).thread (wh 0 1)).brkstop = true) ∧
    (Issues (wh 0 1) none wit35 ∧ ((slot (wh 0 1) wit35).thread (wh 0 1)).mode = false) ∧
    (((wwS.hw.slotWhere (wh 0 1) fun x => x.wakes (wh 0 1)) = some wit34)) := by
  repeat' first | decide +kernel | rfl | constructor

/-- The premises of `Obligations.InstructionMemoryAccess` can be met. -/
theorem witness_InstructionMemoryAccess :
    (Issues (wh 0 1) none wit20 ∧ ((slot (wh 0 1) wit20).thread (wh 0 1)).mode = true ∧
     BitVec.toNat (((slot (wh 0 1) wit20).thread (wh 0 1)).getA (1 : Fin 16)) % 4 = 0 ∧
     BitVec.toNat (((slot (wh 0 1) wit20).thread (wh 0 1)).getA (1 : Fin 16)) < imemSize (Fin.val (wh 0 1).core)) ∧
    (Issues (wh 0 1) none wit20 ∧ ((slot (wh 0 1) wit20).thread (wh 0 1)).mode = true ∧
     BitVec.toNat (((slot (wh 0 1) wit20).thread (wh 0 1)).getA (3 : Fin 16)) % 4 = 0 ∧
     imemSize (Fin.val (wh 0 1).core) ≤ BitVec.toNat (((slot (wh 0 1) wit20).thread (wh 0 1)).getA (3 : Fin 16))) ∧
    (Issues (wh 0 1) none wit20 ∧ ((slot (wh 0 1) wit20).thread (wh 0 1)).mode = true ∧
     BitVec.toNat (((slot (wh 0 1) wit20).thread (wh 0 1)).getA (10 : Fin 16)) % 4 ≠ 0) ∧
    (Issues (wh 0 1) none wit37 ∧ ((slot (wh 0 1) wit37).thread (wh 0 1)).mode = false) := by
  repeat' first | decide +kernel | rfl | constructor

end Sys2Proof.Tests.Accesses

namespace Sys2Proof.Tests.Pairs

def wit1 := run 0 1 (fun th => {th with nextIssue := 1003}) id (fun h => {h with acted := true})
def wit2 := run 0 1 (fun th => {th with nextIssue := 1003})
def pq := run 41 1 (fun th => { th with pair := some { slot := 1000, form := formOf (.add (wh 41 1) 1 2 (.reg 3)) } })
def wit3 := formOf (.add (wh 41 1) 4 5 (.reg 6))

/-- The premises of `Obligations.ControlTransfersAndPrefixPairs` can be met. -/
theorem witness_ControlTransfersAndPrefixPairs :
    (wit1.hw.later = [] ∧ (wit1.hw.core (Fin.val (wh 0 1).core)).cinv = none ∧
     (wit1.hw.core (Fin.val (wh 0 1).core)).drains = [] ∧ (wit1.hw.core (Fin.val (wh 0 1).core)).stream = none ∧
     (wit1.hw.core (Fin.val (wh 0 1).core)).frozenAt = none ∧
     (wit1.hw.core (Fin.val (wh 0 1).core)).cyc0 ≤ wit1.hw.clock ∧ (wit1.hw.toSlot (wh 0 1)).canIssue (wh 0 1) = true) ∧
    (wit2.hw.later = [] ∧ (wit2.hw.core (Fin.val (wh 0 2).core)).cinv = none ∧
     (wit2.hw.core (Fin.val (wh 0 2).core)).drains = [] ∧ (wit2.hw.core (Fin.val (wh 0 2).core)).stream = none ∧
     (wit2.hw.core (Fin.val (wh 0 2).core)).frozenAt = none ∧
     (wit2.hw.core (Fin.val (wh 0 2).core)).cyc0 ≤ wit2.hw.clock ∧
     (wit2.hw.toSlot (wh 0 2)).canIssue (wh 0 2) = false) ∧
    (pq.hw.pairs (wh 41 1) (formOf (Instr.add (wh 41 1) (2 : Fin 32) (2 : Fin 32) (Src.reg (2 : Fin 32)))) = true ∧
     (pq.hw.thread (wh 41 1)).pc.toNat < imemSize (Fin.val (wh 41 1).core) ∧
     (pq.hw.core (Fin.val (wh 41 1).core)).isegx.getLsbD ((pq.hw.thread (wh 41 1)).pc.toNat / segSize (Fin.val (wh 41 1).core)) = true) ∧
    (Fin.val (wh 0 1).core % 44 < 40) ∧
    (pq.hw.pairs (wh 41 1) wit3 = true) := by
  and_intros <;> decide +kernel

end Sys2Proof.Tests.Pairs

namespace Sys2Proof.Tests.Debugging

def sd (v : Nat) (f : Thread → Thread := id) (g : Core → Core := id) (h : Hw → Hw := id) (c := 0) := run c 1 (fun th => f { th with d := th.d.set 5 (BitVec.ofNat 64 v) }) g h
def wit1 := sd 0x1 id (fun k => {k with dregsel := 0x88000003}) (fun h => {h with debug := true})

/-- The premises of `Obligations.LatchingReadsAndDebugRegisters` can be met. -/
theorem witness_LatchingReadsAndDebugRegisters :
    (Issues (wh 0 1) none wit1 ∧ Alone (wh 0 1) wit1 ∧ ((slot (wh 0 1) wit1).thread (wh 0 1)).mode = true ∧
     (slot (wh 0 1) wit1).debug = true ∧
     BitVec.toNat ((slot (wh 0 1) wit1).core (Fin.val (wh 0 1).core)).dregsel = Fin.val (2 : Fin 4) * 2 ^ 30 + 1 * 2 ^ 27 + Fin.val (3 : Fin 32) ∧
     ((((slot (wh 0 1) wit1).core (Fin.val (wh 0 1).core)).thread (2 : Fin 4)).tstate = TState.stopped ∨ (((slot (wh 0 1) wit1).core (Fin.val (wh 0 1).core)).thread (2 : Fin 4)).tstate = TState.halted) ∧
     BitVec.getLsbD (outValue (wh 0 1) (5 : Fin 32) wit1) 0 = true ∧
     BitVec.getLsbD (outValue (wh 0 1) (5 : Fin 32) wit1) 1 = false) := by
  repeat' first | decide +kernel | rfl | constructor | unfold Alone

end Sys2Proof.Tests.Debugging

namespace Sys2Proof.Tests.Vectors

def f32 : List Nat := [0,0x80000000,0x3F800000,0xBF800000,0x7F800000,0xFF800000,0x7FC00000,0x7F800001,1,0x80000001,0x007FFFFF,0x00800000,0x7F7FFFFF,0xFF7FFFFF,0x40490FDB,0x3EAAAAAB,0x34000000,0x4B800001,0x12345678,0x87654321,0x33333333,0xC2C80000,0x42C80000,0x0000FFFF,0x3F000000,0x3F7FFFFF,0x41200000,0x4F000000,0xCF000000,0x5F000000,0x7FFFFFFF,0xFFFFFFFF]
def pk (n : Nat) (l : List Nat) : BitVec 2048 := BitVec.ofNat 2048 (l.foldr (fun x a => a * 2^n + x) 0)
def sv (c : Nat) : State := run c 1 (fun th => { th with v := ((th.v.set 1 (pk 32 f32)).set 2 (pk 32 (f32.rotateLeft 5))).set 3 (pk 32 (f32.rotateLeft 11)), d := th.d.set 4 (BitVec.ofInt 64 (-3)) })
def wit1 := sv 0
def wit3 := sv 41

/-- The premises of `Obligations.VectorFloatArithmetic` can be met. -/
theorem witness_VectorFloatArithmetic :
    (Issues (wh 0 1) none wit1 ∧ BitVec.toNat (0 : BitVec 3) ≤ 2) := by
  repeat' first | decide +kernel | rfl | constructor

/-- The premises of `Obligations.VectorIntegerArithmetic` can be met. -/
theorem witness_VectorIntegerArithmetic :
    (Issues (wh 0 1) none wit1 ∧ 3 ≤ BitVec.toNat (3 : BitVec 3) ∧ BitVec.toNat (3 : BitVec 3) ≤ 6) := by
  repeat' first | decide +kernel | rfl | constructor

/-- The premises of `Obligations.VectorBitsComparesAndClasses` can be met. -/
theorem witness_VectorBitsComparesAndClasses :
    (Issues (wh 0 1) none wit1 ∧ 3 ≤ BitVec.toNat (3 : BitVec 3) ∧ BitVec.toNat (3 : BitVec 3) ≤ 6) ∧
    (Issues (wh 41 1) none wit3 ∧ BitVec.toNat (0 : BitVec 3) ≤ 6) ∧
    (Issues (wh 41 1) none wit3 ∧ BitVec.toNat (0 : BitVec 3) ≤ 2) := by
  repeat' first | decide +kernel | rfl | constructor

/-- The premises of `Obligations.VectorLanesMoved` can be met. -/
theorem witness_VectorLanesMoved :
    (Issues (wh 0 1) none wit1 ∧ BitVec.toNat (6 : BitVec 3) ≤ 6 ∧ 3 ≤ BitVec.toNat (6 : BitVec 3)) ∧
    (Issues (wh 0 1) none wit1 ∧ BitVec.toNat (0 : BitVec 3) ≤ 6 ∧ BitVec.toNat (0 : BitVec 3) ≤ 2) := by
  repeat' first | decide +kernel | rfl | constructor

end Sys2Proof.Tests.Vectors

namespace Sys2Proof.Tests.Conversions

def f32 : List Nat := [0,0x80000000,0x3F800000,0xBF800000,0x7F800000,0xFF800000,0x7FC00000,0x7F800001,1,0x80000001,0x007FFFFF,0x00800000,0x7F7FFFFF,0xFF7FFFFF,0x40490FDB,0x3EAAAAAB,0x34000000,0x4B800001,0x12345678,0x87654321,0x33333333,0xC2C80000,0x42C80000,0x0000FFFF,0x3F000000,0x3F7FFFFF,0x41200000,0x4F000000,0xCF000000,0x5F000000,0x7FFFFFFF,0xFFFFFFFF]
def pk (n : Nat) (l : List Nat) : BitVec 2048 := BitVec.ofNat 2048 (l.foldr (fun x a => a * 2^n + x) 0)
def sv (c : Nat) : State := run c 1 (fun th => { th with v := ((th.v.set 1 (pk 32 f32)).set 2 (pk 32 (f32.rotateLeft 5))).set 3 (pk 32 (f32.rotateLeft 11)), d := th.d.set 4 (BitVec.ofInt 64 (-3)) })
def wit1 := sv 0
def wit3 := sv 33
def sw (c : Nat) (n : Nat) (l : List Nat) (g : Core → Core := id) : State := run c 1 (fun th => { th with v := th.v.set 1 (pk n l) }) g
def wit9 := sw 33 16 ((List.range 64).map (fun j => (100+j)*2^7)) (fun k => {k with sfuFrom := 1003})

/-- The premises of `Obligations.VectorConversions` can be met. -/
theorem witness_VectorConversions :
    (Issues (wh 0 1) none wit1 ∧ BitVec.toNat (0 : BitVec 4) ≤ 8 ∧ BitVec.toNat (1 : BitVec 4) ≤ 8 ∧
     (0 : BitVec 4) ≠ (1 : BitVec 4) ∧
     BitVec.toNat (1 : BitVec 2) < max (cvBits (BitVec.toNat (0 : BitVec 4))) (cvBits (BitVec.toNat (1 : BitVec 4))) / min (cvBits (BitVec.toNat (0 : BitVec 4))) (cvBits (BitVec.toNat (1 : BitVec 4))) ∧
     max (cvBits (BitVec.toNat (0 : BitVec 4))) (cvBits (BitVec.toNat (1 : BitVec 4))) ≤ 4 * min (cvBits (BitVec.toNat (0 : BitVec 4))) (cvBits (BitVec.toNat (1 : BitVec 4)))) := by
  repeat' first | decide +kernel | rfl | constructor

/-- The premises of `Obligations.SpecialFunctions` can be met. -/
theorem witness_SpecialFunctions :
    (Issues (wh 33 1) none wit9 ∧ 32 ≤ Fin.val (wh 33 1).core % 44 ∧ Fin.val (wh 33 1).core % 44 < 40 ∧
     BitVec.toNat (1 : BitVec 3) ≤ 1 ∧
     issueCycle (wh 33 1) wit9 < ((slot (wh 33 1) wit9).core (Fin.val (wh 33 1).core)).sfuFrom ∧
     ((slot (wh 33 1) wit9).thread (wh 33 1)).stopReq = false) ∧
    (Issues (wh 33 1) none wit3 ∧ 32 ≤ Fin.val (wh 33 1).core % 44 ∧ Fin.val (wh 33 1).core % 44 < 40 ∧
     BitVec.toNat (0 : BitVec 3) ≤ 1 ∧
     ((slot (wh 33 1) wit3).core (Fin.val (wh 33 1).core)).sfuFrom ≤ issueCycle (wh 33 1) wit3) ∧
    (Issues (wh 0 1) none wit1 ∧
     (Fin.val (wh 0 1).core % 44 < 32 ∨ 40 ≤ Fin.val (wh 0 1).core % 44 ∨ 2 ≤ BitVec.toNat (1 : BitVec 3))) := by
  repeat' first | decide +kernel | rfl | constructor

end Sys2Proof.Tests.Conversions

namespace Sys2Proof.Tests.Lanes

def f32 : List Nat := [0,0x80000000,0x3F800000,0xBF800000,0x7F800000,0xFF800000,0x7FC00000,0x7F800001,1,0x80000001,0x007FFFFF,0x00800000,0x7F7FFFFF,0xFF7FFFFF,0x40490FDB,0x3EAAAAAB,0x34000000,0x4B800001,0x12345678,0x87654321,0x33333333,0xC2C80000,0x42C80000,0x0000FFFF,0x3F000000,0x3F7FFFFF,0x41200000,0x4F000000,0xCF000000,0x5F000000,0x7FFFFFFF,0xFFFFFFFF]
def pk (n : Nat) (l : List Nat) : BitVec 2048 := BitVec.ofNat 2048 (l.foldr (fun x a => a * 2^n + x) 0)
def sv (c : Nat) : State := run c 1 (fun th => { th with v := ((th.v.set 1 (pk 32 f32)).set 2 (pk 32 (f32.rotateLeft 5))).set 3 (pk 32 (f32.rotateLeft 11)), d := th.d.set 4 (BitVec.ofInt 64 (-3)) })
def wit1 := sv 0

/-- The premises of `Obligations.VectorLanesMoved` can be met. -/
theorem witness_VectorLanesMoved :
    (Issues (wh 0 1) none wit1 ∧ BitVec.toNat (3 : BitVec 3) ≤ 6 ∧ 3 ≤ BitVec.toNat (3 : BitVec 3)) := by
  repeat' first | decide +kernel | rfl | constructor

end Sys2Proof.Tests.Lanes

namespace Sys2Proof.Tests.Threads

def sp (x : Nat) (f : Thread → Thread := id) (c := 0) := run c 1 (fun th => f { th with d := th.d.set 5 (BitVec.ofNat 64 x), evpend := 0xF0F3 })
def wit1 := sp 0x10002
def wit5 := sp 0xF000
def wit6 := sp 0x0407
def wit7 := sp 0x0405
def wit8 := sp 0x0405 (fun th => {th with mode := false})
def sd (v : Nat) (f : Thread → Thread := id) (g : Core → Core := id) (h : Hw → Hw := id) (c := 0) := run c 1 (fun th => f { th with d := th.d.set 5 (BitVec.ofNat 64 v) }) g h
def wit9 := sd 0x30012347
def wit10 := sd 0x10000000
def wit12 := sd 0x0002_8001
def wit14 := sd 7 (fun th => {th with timer := some 2000})
def e1 : Exc := { code := 0x0B, detail := 5, epc := 0x44, eaddr := 0x77 }
def wit17 := sd 0 (fun th => {th with found := some e1, fc := true, fz := true, mode := false, mie := true, vbase := 0x300 })
def x18 := (sd 0 (fun th => {th with found := some e1, fc := true, fz := true, mode := false, mie := true, vbase := 0x300 }))
def wit19 := sd 0 (fun th => {th with found := some e1, fc := true, fz := true, mode := false, mie := true, vbase := 0x300, exl := true })
def wit21 := run 0 0 (fun th => {th with found := some e1, fc := true, fz := true, mode := false, mie := true, vbase := 0x300, exl := true })
def x34 := (sd 0 (fun th => {th with fc := true, fz := true, mode := false, mie := true, vbase := 0x300, ipend := 2 }))
def wit26 := (x34.hw.slotWhere (wh 0 1) (·.interruptReady (wh 0 1))).getD x34.hw
def wit29 := sd 0 (fun th => {th with nextIssue := 2^33 + 5}) (fun k => {k with mwork := 0x123456789ABCDEF0}) (fun h => {h with debug := true})
def wit30 := sd 0 (fun th => {th with nextIssue := 2^33 + 5}) (fun k => {k with mwork := 0x123456789ABCDEF0})
def wit31 := sd 0x1 id (fun k => {k with dregsel := 0x88000003}) (fun h => {h with debug := true})
def wit32 := sd 0x2 id (fun k => {k with dregsel := 0x88000003, dreg := 77}) (fun h => {h with debug := true})
def wit33 := sd 0x2 id (fun k => {k with dregsel := 0x48000003, dreg := 77}) (fun h => {h with debug := true})
def wit34 := sd 0x2 id (fun k => {k with dregsel := 0x28000003, dreg := 77}) (fun h => {h with debug := true})

/-- The premises of `Obligations.PortInstructions` can be met. -/
theorem witness_PortInstructions :
    (Issues (wh 0 1) none wit7 ∧
     BitVec.toNat (((slot (wh 0 1) wit7).thread (wh 0 1)).getD (5 : Fin 32)) % 2 ^ 16 = BitVec.toNat (1029 : BitVec 16) ∧
     (1029 : BitVec 16) = (1029 : BitVec 16) ∧ ((slot (wh 0 1) wit7).thread (wh 0 1)).mode = true ∧
     Alone (wh 0 1) wit7) ∧
    (Issues (wh 0 1) none wit5 ∧
     BitVec.toNat (((slot (wh 0 1) wit5).thread (wh 0 1)).getD (5 : Fin 32)) % 2 ^ 16 = BitVec.toNat (0xf000 : BitVec 16) ∧
     portClass (BitVec.toNat (0xf000 : BitVec 16)) = none ∧ Alone (wh 0 1) wit5) ∧
    (Issues (wh 0 1) none wit6 ∧
     BitVec.toNat (((slot (wh 0 1) wit6).thread (wh 0 1)).getD (5 : Fin 32)) % 2 ^ 16 = BitVec.toNat (1031 : BitVec 16) ∧
     (1031 : BitVec 16) = (1031 : BitVec 16) ∧ Alone (wh 0 1) wit6) ∧
    (Issues (wh 0 1) none wit8 ∧
     BitVec.toNat (((slot (wh 0 1) wit8).thread (wh 0 1)).getD (5 : Fin 32)) % 2 ^ 16 = BitVec.toNat (1029 : BitVec 16) ∧
     portClass (BitVec.toNat (1029 : BitVec 16)) = some false ∧ ((slot (wh 0 1) wit8).thread (wh 0 1)).mode = false) ∧
    (Issues (wh 0 1) none wit1 ∧
     BitVec.toNat (((slot (wh 0 1) wit1).thread (wh 0 1)).getD (5 : Fin 32)) % 2 ^ 16 = BitVec.toNat (2 : BitVec 16) ∧
     (2 : BitVec 16) = (2 : BitVec 16)) := by
  repeat' first | decide +kernel | rfl | constructor | unfold Alone

/-- The premises of `Obligations.ThreadsAreStartedAndSignalled` can be met. -/
theorem witness_ThreadsAreStartedAndSignalled :
    (Issues (wh 0 1) none wit9 ∧ Alone (wh 0 1) wit9 ∧ ((slot (wh 0 1) wit9).thread (wh 0 1)).mode = true ∧
     BitVec.getLsbD (outValue (wh 0 1) (5 : Fin 32) wit9) 29 = true ∧
     (((slot (wh 0 1) wit9).core (Fin.val (wh 0 1).core)).thread (2 : Fin 4)).tstate = TState.halted ∧
     ((slot (wh 0 1) wit9).core (Fin.val (wh 0 1).core)).held = false) ∧
    (Issues (wh 0 1) none wit10 ∧ Alone (wh 0 1) wit10 ∧ ((slot (wh 0 1) wit10).thread (wh 0 1)).mode = true ∧
     BitVec.getLsbD (outValue (wh 0 1) (5 : Fin 32) wit10) 29 = false) ∧
    (Issues (wh 0 1) none wit12 ∧ Alone (wh 0 1) wit12 ∧
     Fin.val (2 : Fin 4) = BitVec.toNat (outValue (wh 0 1) (5 : Fin 32) wit12) / 2 ^ 16 % 4) ∧
    ((wit14.hw.thread (wh 0 1)).timer = some 2000 ∧ (wit14.hw.core (Fin.val (wh 0 1).core)).frozenAt = none) := by
  repeat' first | decide +kernel | rfl | constructor | unfold Alone

/-- The premises of `Obligations.EntriesAndDoubleFaults` can be met. -/
theorem witness_EntriesAndDoubleFaults :
    ((wit19.hw.core (Fin.val (wh 0 1).core)).coreHalt = false ∧
     (wit19.hw.core (Fin.val (wh 0 1).core)).frozenAt = none ∧ (wit19.hw.thread (wh 0 1)).found = some e1 ∧
     (wit19.hw.thread (wh 0 1)).exl = true ∧ (wh 0 1).thread ≠ (0 : Fin 4) ∧
     (((wit19.hw.core (Fin.val (wh 0 1).core)).thread (0 : Fin 4)).found = none ∨ ((wit19.hw.core (Fin.val (wh 0 1).core)).thread (0 : Fin 4)).exl = false)) ∧
    ((wit17.hw.core (Fin.val (wh 0 1).core)).coreHalt = false ∧
     (wit17.hw.core (Fin.val (wh 0 1).core)).frozenAt = none ∧
     ((wh 0 1).thread = (0 : Fin 4) ∨ ((wit17.hw.core (Fin.val (wh 0 1).core)).thread (0 : Fin 4)).found = none ∨ ((wit17.hw.core (Fin.val (wh 0 1).core)).thread (0 : Fin 4)).exl = false) ∧
     (wit17.hw.thread (wh 0 1)).found = some e1 ∧ (wit17.hw.thread (wh 0 1)).exl = false) ∧
    ((wit21.hw.core (Fin.val (wh 0 0).core)).coreHalt = false ∧
     (wit21.hw.core (Fin.val (wh 0 0).core)).frozenAt = none ∧ (wit21.hw.thread (wh 0 0)).found = some e1 ∧
     (wit21.hw.thread (wh 0 0)).exl = true ∧ (wh 0 0).thread = (0 : Fin 4)) ∧
    ((x18.hw.core (Fin.val (wh 0 1).core)).coreHalt = false ∧ (x18.hw.core (Fin.val (wh 0 1).core)).frozenAt = none ∧
     ((x18.hw.core (Fin.val (wh 0 1).core)).thread (0 : Fin 4)).found = none ∧
     (x18.hw.core (Fin.val (wh 0 1).core)).tileMove = none) ∧
    (x34.hw.pairOpen (wh 0 1) = false ∧ ((x34.hw.slotWhere (wh 0 1) fun x => x.interruptReady (wh 0 1)) = some wit26)) ∧
    ((x18.hw.pairOpen (wh 0 1) = true ∨ (x18.hw.slotWhere (wh 0 1) fun x => x.interruptReady (wh 0 1)) = none)) := by
  and_intros <;> decide +kernel

/-- The premises of `Obligations.LatchingReadsAndDebugRegisters` can be met. -/
theorem witness_LatchingReadsAndDebugRegisters :
    (Issues (wh 0 1) none wit31 ∧ Alone (wh 0 1) wit31 ∧ ((slot (wh 0 1) wit31).thread (wh 0 1)).mode = true ∧
     (slot (wh 0 1) wit31).debug = true ∧
     BitVec.toNat ((slot (wh 0 1) wit31).core (Fin.val (wh 0 1).core)).dregsel = Fin.val (2 : Fin 4) * 2 ^ 30 + 1 * 2 ^ 27 + Fin.val (3 : Fin 32) ∧
     ((((slot (wh 0 1) wit31).core (Fin.val (wh 0 1).core)).thread (2 : Fin 4)).tstate = TState.stopped ∨ (((slot (wh 0 1) wit31).core (Fin.val (wh 0 1).core)).thread (2 : Fin 4)).tstate = TState.halted) ∧
     BitVec.getLsbD (outValue (wh 0 1) (5 : Fin 32) wit31) 0 = true ∧
     BitVec.getLsbD (outValue (wh 0 1) (5 : Fin 32) wit31) 1 = false) ∧
    (Issues (wh 0 1) none wit32 ∧ Alone (wh 0 1) wit32 ∧ ((slot (wh 0 1) wit32).thread (wh 0 1)).mode = true ∧
     (slot (wh 0 1) wit32).debug = true ∧
     BitVec.toNat ((slot (wh 0 1) wit32).core (Fin.val (wh 0 1).core)).dregsel = Fin.val (2 : Fin 4) * 2 ^ 30 + 1 * 2 ^ 27 + Fin.val (3 : Fin 32) ∧
     ((((slot (wh 0 1) wit32).core (Fin.val (wh 0 1).core)).thread (2 : Fin 4)).tstate = TState.stopped ∨ (((slot (wh 0 1) wit32).core (Fin.val (wh 0 1).core)).thread (2 : Fin 4)).tstate = TState.halted) ∧
     BitVec.getLsbD (outValue (wh 0 1) (5 : Fin 32) wit32) 0 = false ∧
     BitVec.getLsbD (outValue (wh 0 1) (5 : Fin 32) wit32) 1 = true) ∧
    (Issues (wh 0 1) none wit33 ∧ Alone (wh 0 1) wit33 ∧ ((slot (wh 0 1) wit33).thread (wh 0 1)).mode = true ∧
     (slot (wh 0 1) wit33).debug = true ∧
     BitVec.toNat ((slot (wh 0 1) wit33).core (Fin.val (wh 0 1).core)).dregsel = Fin.val (1 : Fin 4) * 2 ^ 30 + 1 * 2 ^ 27 + Fin.val (3 : Fin 32) ∧
     ((((slot (wh 0 1) wit33).core (Fin.val (wh 0 1).core)).thread (1 : Fin 4)).tstate = TState.running ∨ (((slot (wh 0 1) wit33).core (Fin.val (wh 0 1).core)).thread (1 : Fin 4)).tstate = TState.waiting) ∧
     (BitVec.getLsbD (outValue (wh 0 1) (5 : Fin 32) wit33) 0 = true ∨ BitVec.getLsbD (outValue (wh 0 1) (5 : Fin 32) wit33) 1 = true)) ∧
    (Issues (wh 0 1) none wit34 ∧ Alone (wh 0 1) wit34 ∧ ((slot (wh 0 1) wit34).thread (wh 0 1)).mode = true ∧
     (slot (wh 0 1) wit34).debug = true ∧
     BitVec.toNat ((slot (wh 0 1) wit34).core (Fin.val (wh 0 1).core)).dregsel / 2 ^ 27 % 8 = 5 ∧
     (BitVec.getLsbD (outValue (wh 0 1) (5 : Fin 32) wit34) 0 = true ∨ BitVec.getLsbD (outValue (wh 0 1) (5 : Fin 32) wit34) 1 = true)) ∧
    (Issues (wh 0 1) none wit29 ∧ ((slot (wh 0 1) wit29).thread (wh 0 1)).mode = true ∧
     (slot (wh 0 1) wit29).debug = true) ∧
    (Issues (wh 0 1) none wit30 ∧ ((slot (wh 0 1) wit30).thread (wh 0 1)).mode = true ∧
     (slot (wh 0 1) wit30).debug = false) := by
  repeat' first | decide +kernel | rfl | constructor | unfold Alone

end Sys2Proof.Tests.Threads

namespace Sys2Proof.Tests.Locks

def sd (v : Nat) (f : Thread → Thread := id) (g : Core → Core := id) (h : Hw → Hw := id) (c := 0) := run c 1 (fun th => f { th with d := th.d.set 5 (BitVec.ofNat 64 v) }) g h
def rec3 (k : Core) : Core := k.updThread 3 (fun th => {th with lockRec := some (.core 7), lkevEn := true, lkevEvt := 9})
def brec3 (k : Core) : Core := k.updThread 3 (fun th => {th with lockRec := some (.bent 7), lkevEn := true, lkevEvt := 9})
def s1 := sd 0xFF id (fun k => rec3 {k with locks := [(3, 2), (7, 1)]})
def s2 := sd 0xFF id (fun k => rec3 {k with locks := [(3, 2), (7, 0)]})
def s3 := sd 0xFF (fun th => {th with blsel := 7})
def b1 (o : List (Nat × Who)) (q : List LockReq) (h : Hw) : Hw := h.updBent 0 (fun b => {b with locks := o, lockReqs := q})
def s4 := sd 0xFF (fun th => {th with blsel := 7}) brec3 (b1 [(2, wh 5 1), (7, wh 0 1)] [])
def q1 : LockReq := { who := wh 2 0, d := 4, lock := 7, issued := 90 }
def q2 : LockReq := { who := wh 1 0, d := 4, lock := 7, issued := 90 }
def q3 : LockReq := { who := wh 1 2, d := 4, lock := 7, issued := 95 }
def s6 := sd 0xFF id id (b1 [(2, wh 5 1)] [q1, q2, q3])

/-- The premises of `Obligations.LocksAreTakenAndReleased` can be met. -/
theorem witness_LocksAreTakenAndReleased :
    (Issues (wh 0 1) none s4 ∧ Fin.val (7 : Fin 256) = ((slot (wh 0 1) s4).thread (wh 0 1)).blsel.toNat ∧
     Alone (wh 0 1) s4 ∧ ((slot (wh 0 1) s4).thread (wh 0 1)).mode = true ∧
     sget (Fin.val (7 : Fin 256)) ((Hw.decideAll (Fin.val (wh 0 1).core / 44) 176 (slot (wh 0 1) s4)).bent (Fin.val (wh 0 1).core / 44)).locks ≠ none) ∧
    (Issues (wh 0 1) none s3 ∧ Fin.val (7 : Fin 256) = ((slot (wh 0 1) s3).thread (wh 0 1)).blsel.toNat ∧
     Alone (wh 0 1) s3 ∧
     sget (Fin.val (7 : Fin 256)) ((Hw.decideAll (Fin.val (wh 0 1).core / 44) 176 (slot (wh 0 1) s3)).bent (Fin.val (wh 0 1).core / 44)).locks ≠ some (wh 0 1)) ∧
    (Issues (wh 0 1) none s3 ∧ Fin.val (7 : Fin 256) = ((slot (wh 0 1) s3).thread (wh 0 1)).blsel.toNat ∧
     Alone (wh 0 1) s3 ∧ ((slot (wh 0 1) s3).bent (Fin.val (wh 0 1).core / 44)).lockReqs = []) ∧
    (Issues (wh 0 1) none s4 ∧ Fin.val (7 : Fin 256) = ((slot (wh 0 1) s4).thread (wh 0 1)).blsel.toNat ∧
     Alone (wh 0 1) s4 ∧
     sget (Fin.val (7 : Fin 256)) ((Hw.decideAll (Fin.val (wh 0 1).core / 44) 176 (slot (wh 0 1) s4)).bent (Fin.val (wh 0 1).core / 44)).locks = some (wh 0 1)) ∧
    (Issues (wh 0 1) none s1 ∧ Alone (wh 0 1) s1 ∧
     sget (Fin.val (7 : Fin 32)) ((slot (wh 0 1) s1).core (Fin.val (wh 0 1).core)).locks = some (wh 0 1).thread) ∧
    (Issues (wh 0 1) none s1 ∧ Alone (wh 0 1) s1 ∧ ((slot (wh 0 1) s1).thread (wh 0 1)).mode = true) ∧
    (Issues (wh 0 1) none s2 ∧ Alone (wh 0 1) s2 ∧
     sget (Fin.val (7 : Fin 32)) ((slot (wh 0 1) s2).core (Fin.val (wh 0 1).core)).locks ≠ some (wh 0 1).thread) ∧
    (Issues (wh 0 1) none s2 ∧
     sget (Fin.val (4 : Fin 32)) ((slot (wh 0 1) s2).core (Fin.val (wh 0 1).core)).locks = none) ∧
    ((s6.hw.bent (Fin.val (0 : BentId))).lockReqs ≠ []) := by
  repeat' first | decide +kernel | rfl | constructor | unfold Alone

end Sys2Proof.Tests.Locks

namespace Sys2Proof.Tests.Channels

def act (n : Fin 16) (r : W32) (cr := 8) (k : Core) : Core := { k with tenons := k.tenons.set n { active := r, shadow := r, credits := cr, epoch := 2 } }
def rLoc : W32 := BitVec.ofNat 32 (2^31 + 1*2^11 + 5*2^5 + 9*2)
def rRem : W32 := BitVec.ofNat 32 (2^31 + 2^29 + 1*2^27 + 3*2^17 + 1*2^11 + 5*2^5 + 9*2)
def joined (h : Hw) : Hw := { h with dom := { h.dom with joined := true, rtAct := [(3, 0x80000006)] } }
def st : Entry := { words := [5, 6], k := 1, tag := 3, stream := true, credit := .plate .west }
def en : Entry := { words := [0xFFFFFFFF80000003, 6], k := 1, tag := 3, stream := false, credit := .tenon 1 2 3 }
def mo (k : Core) : Core := { k with mortises := (k.mortises.set 5 [en, st]).set 6 [st] }
def wit1 := run 0 1 id (mo ∘ act 4 rLoc)
def wit2 := run 0 1 id (mo ∘ act 4 rRem) joined
def wit3 := run 0 1 id (mo ∘ act 4 rRem)
def wit5 := run 0 1 id (mo ∘ act 4 rLoc 0)
def tu : Tuple := { sender := 0, thread := 1, tenon := 4, epoch := 2, target := 49, mort := 9, addr := false, words := [7, 8], k := 1, tag := 37, stream := false, due := 1100, flit := 0 }
def ta : Tuple := { tu with addr := true, words := [0x180008, 8, 9], k := 2 }
def sa0 : State := run 0 1 id id (fun h => { h with tuples := [{tu with tenon := 5}, tu, tu] })
def sa1 : State := run 0 1 id id (fun h => { (h.updCore 49 (fun k => {k with mortises := k.mortises.set 9 [en,en,en,en,en,en,en,en]})) with tuples := [tu, tu] })
def sa2 : State := run 0 1 id id (fun h => { h with tuples := [ta, tu] })
def c1 : Credit := { core := 0, tenon := 4, epoch := 2, due := 1500, source := some 1, notice := some 1 }
def sa4 : State := run 0 1 (fun th => {th with notices := 3}) (act 4 rLoc 7) (fun h => { h with credits := [{c1 with tenon := 3}, c1], noticesIn := [{who := wh 0 2, due := 5}, {who := wh 0 1, due := 5000}] })
def n1 : Notice := {who := wh 0 1, due := 5000}
def tk (s : State) (c : CoreId) (n : Fin 16) : Tuple × List Tuple := (takeFirst (fun t => t.sender == c && t.tenon == n) s.hw.tuples).getD (tu, [])
def ln (h : Hw) (f d : Nat) : Hw := match h.land f d with | some (a, y) => y.event a | none => h
def sa7 : State := { sa1 with hw := sa1.hw.updCore 49 (fun k => {k with held := true}) }
def wit8 := (tk sa0 0 4).1
def wit9 := (tk sa0 0 4).2
def wit10 := ln {sa0.hw with tuples := (tk sa0 0 4).2} (tk sa0 0 4).1.flit (tk sa0 0 4).1.due
def wit11 := (tk sa1 0 4).1
def wit12 := (tk sa1 0 4).2
def wit13 := ln {sa1.hw with tuples := (tk sa1 0 4).2} (tk sa1 0 4).1.flit (tk sa1 0 4).1.due
def wit14 := (tk sa2 0 4).1
def wit15 := (tk sa2 0 4).2
def wit16 := ln {sa2.hw with tuples := (tk sa2 0 4).2} (tk sa2 0 4).1.flit (tk sa2 0 4).1.due
def wit20 := (tk sa7 0 4).1
def wit21 := (tk sa7 0 4).2
def wit22 := ln {sa7.hw with tuples := (tk sa7 0 4).2} (tk sa7 0 4).1.flit (tk sa7 0 4).1.due
def tc (s : State) (c : CoreId) (n : Fin 16) : Credit × List Credit := (takeFirst (fun t => t.core == c && t.tenon == n) s.hw.credits).getD (c1, [])
def wit23 := (tc sa4 0 4).1
def wit24 := (tc sa4 0 4).2
def wit25 : Hw := {sa4.hw with credits := (tc sa4 0 4).2}
def wit26 := ln {sa4.hw with noticesIn := [{who := wh 0 2, due := 5}] } 0 5000
def sr (v : Nat) (g : Core → Core) : State := run 0 1 (fun th => {th with d := th.d.set 5 (BitVec.ofNat 64 v)}) g
def wit35 := sr 0x33 (mo ∘ act 4 rLoc 3)
def wit36 := sr 0x60 mo
def wit37 := sr 1 (fun k => {k with ncommitPending := true, tenons := k.tenons.set 3 {shadow := 5}})
def wit38 := sr 1 (fun k => {k with ncommitPending := true, tenons := k.tenons.set 3 {shadow := 5, credits := 7}})
def tr : Tuple := { tu with sender := 0, target := 49 }
def e0 : Egress := { tup := tr, dmod := 3, vc := 1 }
def sendRem : Hw := match exec (.send (wh 0 1) 4 28 2 21) (run 0 1 id (mo ∘ act 4 rRem) joined) with | .next t => t.hw | _ => {}
def s0 : State := { (run 0 1) with hw := sendRem }
def eg : Egress := ((sendRem.bent 0).egress.head?).getD e0
def dr : Nat × Hw := (sendRem.driveOut eg.tup.flit).getD (0, {})
def fl0 : Flit := match sendRem.flits with | f :: _ => f | [] => { serial := 0, vc := 0, src := 0, dst := 0, router := 0, inPort := 0, stamp := 0, waiting := false, hops := [], auto := false }
def wit39 := fl0
def rec0 : Rec := { kind := .tuple, dmod := 0, smod := 3, bent := 0, core := 0, mort := 4, k := 1, tag := 22, mark := true, words := [5, 6], sgcore := 50 }
def qd : Queued := { record := rec0, vc := 1, port := 2, stamp := 7 }
def s2 : State := run 0 1 id id (fun h => { joined h with recsWest := { held := [{qd with record := {rec0 with core := 3}}, qd] } })
def h2 := s2.hw.plateTurn .west 0 4
def q2 := (takeFirst (fun (q : Queued) => q.isFor 0 4) (h2.recs .west).flying).getD (qd, [])
def wit40 := ln h2 q2.1.flit (h2.fcyc0 + q2.1.stamp)
def s3 : State := run 0 1 (fun th => {th with remoteTo := [5, 7]}) (fun k => {k with remoteOut := [(5, 3), (7, 2)]}) (fun h => { joined h with acksIn := [{core := 1, module := 5, count := 2, lost := true, flit := 0}, {core := 0, module := 5, count := 3, lost := false, flit := 0}, {core := 0, module := 7, count := 1, lost := true, flit := 0}]})
def ak (s : State) (l : Bool) := (takeFirst (fun (x : AckIn) => x.core == 0 && x.lost == l) s.hw.acksIn).getD ({core := 1, module := 5, count := 2, lost := true, flit := 0}, [])
def wit41 := (ak s3 false).1
def wit42 := (ak s3 false).2
def wit43 := ln {s3.hw with acksIn := (ak s3 false).2} 0 s3.hw.clock
def s4 : State := run 0 1 id (fun k => {k with tenons := k.tenons.set 4 {stallStart := some 700}})
def s5 : State := run 0 1 (fun th => {th with tstate := .waiting}) (fun k => {k with stillFrom := some 995, stillCtl := 0x80000010})
def wit47 := s5.hw.core 0
def wit48 := s4.hw.core 0

/-- The premises of `Obligations.SendCreditAndReceive` can be met. -/
theorem witness_SendCreditAndReceive :
    (Claims.Ready (wh 0 1) none wit1 ∧ Fin.val (29 : Fin 32) + BitVec.toNat (2 : BitVec 2) ≤ 31 ∧
     (Route.of ((slot (wh 0 1) wit1).core (Fin.val (wh 0 1).core)).tenons[(4 : Fin 16)].active).en = true ∧
     routeBad (slot (wh 0 1) wit1) (Fin.val (wh 0 1).core) (Route.of ((slot (wh 0 1) wit1).core (Fin.val (wh 0 1).core)).tenons[(4 : Fin 16)].active) (BitVec.toNat (2 : BitVec 2) + 1) = false ∧
     0 < ((slot (wh 0 1) wit1).core (Fin.val (wh 0 1).core)).tenons[(4 : Fin 16)].credits ∧
     ((slot (wh 0 1) wit1).core (Fin.val (wh 0 1).core)).commitHolds (4 : Fin 16) = false) ∧
    (Issues (wh 0 1) none wit5 ∧ Fin.val (29 : Fin 32) + BitVec.toNat (1 : BitVec 2) ≤ 31 ∧
     (Route.of ((slot (wh 0 1) wit5).core (Fin.val (wh 0 1).core)).tenons[(4 : Fin 16)].active).en = true ∧
     routeBad (slot (wh 0 1) wit5) (Fin.val (wh 0 1).core) (Route.of ((slot (wh 0 1) wit5).core (Fin.val (wh 0 1).core)).tenons[(4 : Fin 16)].active) (BitVec.toNat (1 : BitVec 2) + 1) = false ∧
     ((slot (wh 0 1) wit5).thread (wh 0 1)).stopReq = false ∧
     (((slot (wh 0 1) wit5).core (Fin.val (wh 0 1).core)).tenons[(4 : Fin 16)].credits = 0 ∨ ((slot (wh 0 1) wit5).core (Fin.val (wh 0 1).core)).commitHolds (4 : Fin 16) = true)) ∧
    (Issues (wh 0 1) none wit1 ∧ Fin.val (8 : Fin 32) % 4 = 0 ∧
     ((slot (wh 0 1) wit1).core (Fin.val (wh 0 1).core)).mortises[(5 : Fin 16)] = [en, st] ∧ en.stream = false) ∧
    (Issues (wh 0 1) none wit1 ∧ Fin.val (4 : Fin 32) % 4 = 0 ∧
     ((slot (wh 0 1) wit1).core (Fin.val (wh 0 1).core)).mortises[(6 : Fin 16)] = [st] ∧ st.stream = true) ∧
    (Issues (wh 0 1) none wit1 ∧ Fin.val (4 : Fin 32) % 4 = 0 ∧
     ((slot (wh 0 1) wit1).core (Fin.val (wh 0 1).core)).mortises[(7 : Fin 16)] = [] ∧
     ((slot (wh 0 1) wit1).thread (wh 0 1)).stopReq = false) ∧
    (Issues (wh 0 1) none wit3 ∧ Fin.val (29 : Fin 32) + BitVec.toNat (1 : BitVec 2) ≤ 31 ∧
     ((Route.of ((slot (wh 0 1) wit3).core (Fin.val (wh 0 1).core)).tenons[(4 : Fin 16)].active).en = false ∨ routeBad (slot (wh 0 1) wit3) (Fin.val (wh 0 1).core) (Route.of ((slot (wh 0 1) wit3).core (Fin.val (wh 0 1).core)).tenons[(4 : Fin 16)].active) (BitVec.toNat (1 : BitVec 2) + 1) = true)) ∧
    (Issues (wh 0 1) none wit2 ∧ 31 < Fin.val (29 : Fin 32) + BitVec.toNat (3 : BitVec 2)) ∧
    (Issues (wh 0 1) none wit5 ∧ Fin.val (5 : Fin 32) % 4 ≠ 0) := by
  repeat' first | decide +kernel | rfl | constructor

/-- The premises of `Obligations.TuplesCreditsAndNoticesArrive` can be met. -/
theorem witness_TuplesCreditsAndNoticesArrive :
    ((takeFirst (fun t => t.sender == (0 : CoreId) && t.tenon == (4 : Fin 16)) sa0.hw.tuples = some (wit8, wit9)) ∧
     ((sa0.hw.core (Fin.val (0 : CoreId))).frozenAt = none ∨ (sa0.hw.core (Fin.val wit8.target)).frozenAt = none) ∧
     Lands { sa0.hw with tuples := wit9 : Hw } wit8.flit wit8.due wit10 ∧ wit8.addr = false ∧
     ((wit10.caughtUp wit8.target).core (Fin.val wit8.target)).held = false ∧
     ((wit10.caughtUp wit8.target).core (Fin.val wit8.target)).mortises[wit8.mort].length < 8) ∧
    ((takeFirst (fun t => t.sender == (0 : CoreId) && t.tenon == (4 : Fin 16)) sa1.hw.tuples = some (wit11, wit12)) ∧
     ((sa1.hw.core (Fin.val (0 : CoreId))).frozenAt = none ∨ (sa1.hw.core (Fin.val wit11.target)).frozenAt = none) ∧
     Lands { sa1.hw with tuples := wit12 : Hw } wit11.flit wit11.due wit13 ∧ wit11.addr = false ∧
     ((wit13.caughtUp wit11.target).core (Fin.val wit11.target)).held = false ∧
     8 ≤ ((wit13.caughtUp wit11.target).core (Fin.val wit11.target)).mortises[wit11.mort].length) ∧
    ((takeFirst (fun t => t.sender == (0 : CoreId) && t.tenon == (4 : Fin 16)) sa7.hw.tuples = some (wit20, wit21)) ∧
     ((sa7.hw.core (Fin.val (0 : CoreId))).frozenAt = none ∨ (sa7.hw.core (Fin.val wit20.target)).frozenAt = none) ∧
     Lands { sa7.hw with tuples := wit21 : Hw } wit20.flit wit20.due wit22 ∧ wit20.addr = false ∧
     ((wit22.caughtUp wit20.target).core (Fin.val wit20.target)).held = true) ∧
    ((takeFirst (fun t => t.sender == (0 : CoreId) && t.tenon == (4 : Fin 16)) sa0.hw.tuples = some (wit8, wit9)) ∧
     ((sa0.hw.core (Fin.val (0 : CoreId))).frozenAt = none ∨ (sa0.hw.core (Fin.val wit8.target)).frozenAt = none) ∧
     Lands { sa0.hw with tuples := wit9 : Hw } wit8.flit wit8.due wit10 ∧ wit8.flit = 0) ∧
    ((takeFirst (fun t => t.sender == (0 : CoreId) && t.tenon == (4 : Fin 16)) sa2.hw.tuples = some (wit14, wit15)) ∧
     ((sa2.hw.core (Fin.val (0 : CoreId))).frozenAt = none ∨ (sa2.hw.core (Fin.val wit14.target)).frozenAt = none) ∧
     Lands { sa2.hw with tuples := wit15 : Hw } wit14.flit wit14.due wit16 ∧ wit14.addr = true) ∧
    ((takeFirst (fun x => x.core == (0 : CoreId) && x.tenon == (4 : Fin 16)) sa4.hw.credits = some (wit23, wit24)) ∧
     ((sa4.hw.core (Fin.val (0 : CoreId))).frozenAt = none ∨ ∀ (d : CoreId), wit23.source = some d → (sa4.hw.core (Fin.val d)).frozenAt = none) ∧
     { sa4.hw with credits := wit24 : Hw }.land wit23.flit wit23.due = some (1500, wit25) ∧
     (((wit25.reach 1500).caughtUp (0 : CoreId)).core (Fin.val (0 : CoreId))).stream = none) ∧
    ((takeFirst (fun x => x.who == wh 0 1) sa4.hw.noticesIn = some (n1, [{ who := wh 0 2, due := 5, flit := 0 : Notice }])) ∧
     Lands { sa4.hw with noticesIn := [{ who := wh 0 2, due := 5, flit := 0 : Notice }] : Hw } n1.flit n1.due wit26) := by
  repeat' first | decide +kernel | rfl | (intro _; rfl) | constructor | unfold Lands

/-- The premises of `Obligations.RouteCommitFlushAndForce` can be met. -/
theorem witness_RouteCommitFlushAndForce :
    (Issues (wh 0 1) none wit35 ∧ ((slot (wh 0 1) wit35).thread (wh 0 1)).mode = true ∧ Alone (wh 0 1) wit35 ∧
     ((slot (wh 0 1) wit35).core (Fin.val (wh 0 1).core)).stream = none ∧
     BitVec.getLsbD (outValue (wh 0 1) (5 : Fin 32) wit35) 0 = true ∧
     MayCommit ((slot (wh 0 1) wit35).core (Fin.val (wh 0 1).core))) ∧
    (Issues (wh 0 1) none wit37 ∧ ((slot (wh 0 1) wit37).thread (wh 0 1)).mode = true ∧ Alone (wh 0 1) wit37 ∧
     ((slot (wh 0 1) wit37).core (Fin.val (wh 0 1).core)).stream = none ∧
     ((slot (wh 0 1) wit37).core (Fin.val (wh 0 1).core)).ncommitPending = true ∧
     MayCommit (forced (outValue (wh 0 1) (5 : Fin 32) wit37) (issueCycle (wh 0 1) wit37) ((slot (wh 0 1) wit37).core (Fin.val (wh 0 1).core)))) ∧
    (Issues (wh 0 1) none wit38 ∧ ((slot (wh 0 1) wit38).thread (wh 0 1)).mode = true ∧ Alone (wh 0 1) wit38 ∧
     ((slot (wh 0 1) wit38).core (Fin.val (wh 0 1).core)).stream = none ∧
     BitVec.getLsbD (outValue (wh 0 1) (5 : Fin 32) wit38) 0 = true ∧
     ¬MayCommit ((slot (wh 0 1) wit38).core (Fin.val (wh 0 1).core))) ∧
    (Issues (wh 0 1) none wit35 ∧ ((slot (wh 0 1) wit35).thread (wh 0 1)).mode = true ∧ Alone (wh 0 1) wit35 ∧
     ((slot (wh 0 1) wit35).core (Fin.val (wh 0 1).core)).stream = none ∧
     (((slot (wh 0 1) wit35).core (Fin.val (wh 0 1).core)).ncommitPending = false ∨ ¬MayCommit (forced (outValue (wh 0 1) (5 : Fin 32) wit35) (issueCycle (wh 0 1) wit35) ((slot (wh 0 1) wit35).core (Fin.val (wh 0 1).core))))) ∧
    (Issues (wh 0 1) none wit36 ∧ ((slot (wh 0 1) wit36).thread (wh 0 1)).mode = true ∧ Alone (wh 0 1) wit36 ∧
     BitVec.getLsbD (outValue (wh 0 1) (5 : Fin 32) wit36) 0 = false) ∧
    ((wit37.hw.core (Fin.val (0 : CoreId))).stream = none ∧
     (wit37.hw.core (Fin.val (0 : CoreId))).ncommitPending = true ∧
     (wit37.hw.core (Fin.val (0 : CoreId))).frozenAt = none ∧ MayCommit (wit37.hw.core (Fin.val (0 : CoreId)))) ∧
    ((wit35.hw.core (Fin.val (0 : CoreId))).stream = none ∧
     ((wit35.hw.core (Fin.val (0 : CoreId))).ncommitPending = false ∨ (wit35.hw.core (Fin.val (0 : CoreId))).frozenAt ≠ none ∨ ¬MayCommit (wit35.hw.core (Fin.val (0 : CoreId))))) := by
  repeat' first | decide +kernel | rfl | constructor | unfold Alone | unfold MayCommit

/-- The premises of `Obligations.RemoteTuplesStallsAndStillness` can be met. -/
theorem witness_RemoteTuplesStallsAndStillness :
    (Fin.val (40 : CoreId) = 44 * (Fin.val (0 : CoreId) / 44) + 40 ∧
     (s5.hw.core (Fin.val (0 : CoreId))).stillFrom = some 995 ∧
     BitVec.getLsbD (s5.hw.core (Fin.val (0 : CoreId))).stillCtl 31 = true ∧
     (s5.hw.core (Fin.val (0 : CoreId))).still = false ∧ (s5.hw.core (Fin.val (0 : CoreId))).frozenAt = none ∧
     (s5.hw.core (Fin.val (0 : CoreId))).held = false ∧
     s5.hw.coming (0 : CoreId) ((s5.hw.core (Fin.val (0 : CoreId))).cyc0 + (995 + max 1 (BitVec.toNat (s5.hw.core (Fin.val (0 : CoreId))).stillCtl % 2 ^ 20) - 1)) = false) ∧
    ((takeFirst (fun q => q.isFor (0 : CoreId) (4 : Fin 16)) ((s2.hw.plateTurn Plate.west (0 : CoreId) (4 : Fin 16)).recs Plate.west).flying = some (q2.1, q2.2)) ∧
     Lands (s2.hw.plateTurn Plate.west (0 : CoreId) (4 : Fin 16)) q2.1.flit ((s2.hw.plateTurn Plate.west (0 : CoreId) (4 : Fin 16)).fcyc0 + q2.1.stamp) wit40 ∧
     ((wit40.caughtUp (0 : CoreId)).core (Fin.val (0 : CoreId))).held = false ∧
     ((wit40.caughtUp (0 : CoreId)).core (Fin.val (0 : CoreId))).unitsBefore Plate.west q2.1.record = false ∧
     ((wit40.caughtUp (0 : CoreId)).core (Fin.val (0 : CoreId))).mortises[(4 : Fin 16)].length < 8) ∧
    ((s4.hw.core (Fin.val (0 : CoreId))).tenons[(4 : Fin 16)].stallStart = some 700 ∧
     (s4.hw.core (Fin.val (0 : CoreId))).stallLimit ≠ (0 : W32) ∧
     (s4.hw.core (Fin.val (0 : CoreId))).tenons[(4 : Fin 16)].stallReported = false ∧
     (s4.hw.core (Fin.val (0 : CoreId))).frozenAt = none ∧
     ((s4.hw.coreEvent (0 : CoreId) (700 + BitVec.toNat (s4.hw.core (Fin.val (0 : CoreId))).stallLimit - 1)).core (Fin.val (0 : CoreId))).tenons[(4 : Fin 16)].stallStart = some 700) ∧
    ((takeFirst (fun x => x.tup.sender == (0 : CoreId) && x.tup.tenon == (4 : Fin 16)) (s0.hw.bent (Fin.val (0 : CoreId) / 44)).egress = some (eg, [])) ∧
     (List.find? (fun f => f.serial == eg.tup.flit) s0.hw.flits = some wit39) ∧
     s0.hw.driveOut eg.tup.flit = some (dr.1, dr.2)) ∧
    ((takeFirst (fun x => x.core == (0 : CoreId) && x.lost == false) s3.hw.acksIn = some (wit41, wit42)) ∧
     Lands { s3.hw with acksIn := wit42 : Hw } wit41.flit s3.hw.clock wit43) ∧
    (wit47.stream = none ∧ wit47.isStill (995 + 1) = true) ∧
    (wit48.stream = none ∧ wit48.isStill (995 + 1) = false) := by
  repeat' first | decide +kernel | rfl | constructor | unfold Lands

end Sys2Proof.Tests.Channels

namespace Sys2Proof.Tests.Products

def tile (rows rb : Nat) (fmt : BitVec 4) (o : Fin 4 := 1) (seed := 1) : Tile := { rows := rows, rbytes := rb, fmt := fmt, owner := o, data := (List.range rows).flatMap (fun r => (List.range rb).map (fun n => (128*r+n, BitVec.ofNat 8 (((r*37+n*11+5)*seed) % 255 + 1)))) }
def metaT (rows rb : Nat) : Tile := { tile rows rb 0xD with data := (List.range rows).flatMap (fun r => (List.range rb).map (fun n => (128*r+n, [0x44#8, 0x94, 0xCE].getD ((r+n)%3) 0))) }
def grp (fa fb : BitVec 4) : Group := { opened := true, owner := 1, fa := fa, fb := fb, lse := 0x1F4 }
def eng (ts : List (Fin 8 × Tile)) (g : List (Fin 8 × Group)) (k : Core) : Core :=
  { k with tiles := ts.foldl (fun v p => v.set p.1 p.2) k.tiles, groups := g.foldl (fun v p => v.set p.1 p.2) k.groups, matSerial := 9 }
def A := tile 3 8 1
def B := tile 2 8 1 1 3
def g0 := eng [(1, A), (2, B)] [(3, grp 1 1)]
def sp0 := eng [(1, tile 3 16 4), (2, tile 2 8 4 1 7), (4, metaT 2 2)] [(3, grp 4 4)]
def job (st : MatStage) : MatJob := { serial := 5, thread := 1, g := 3, ta := 1, tb := 2, tm := none, neg := false, opA := A, opB := B, opM := none, stage := st }
def wit1 := run 0 1 id g0
def wit2 := run 0 1 id sp0
def wit3 := run 0 1 id ((fun k => {k with mat := [job (.accepted 7), job (.accepted 8), job (.accepted 8)]}) ∘ g0)
def wit4 := run 0 1 id ((fun k => {k with trelHeld := [6]}) ∘ g0)
def wit6 := run 33 1 id g0
def wit7 := run 0 0 id g0
def wit9 := run 0 1 id ((fun k => {k with mat := [job (.accepted 7), job (.accepted 8)]}) ∘ g0)
def mj (l : List MatJob) : State := run 0 1 id (fun k => {g0 k with mat := l, arrayFrom := 2000})
def wit11 := job (.accepted 1200)
def wit12 := mj [job (.accepted 1200)]
def wit15 := job (.loading 1200)
def wit16 := mj [job (.computing 1100), job (.loading 1200)]
def wit17 := job (.loaded 1200)
def wit18 := mj [job (.updating 1100), job (.loaded 1200)]
def wit21 := job (.computing 1200)
def wit22 := mj [job (.updating 1100), job (.computing 1200)]
def wit23 := job (.updating 1200)
def wit24 := mj [job (.updating 1200), {job (.computing 1200) with serial := 6}]
def T := tile 3 64 3
def gacc (g : Group) : Group := { g with acc := [(0, {w := 5}), (1, {w := BitVec.ofInt 96 (-(2^60))}), (33, {w := 2^70}), (34, {cls := .nan})], inx := true }
def noT : Option (Fin 8) := none
def wit31 := run 0 1 id (eng [(5, T)] [(3, gacc (grp 1 1))])
def wit33 := run 0 1 id (fun k => eng [(5, T)] [(3, {gacc (grp 1 1) with owner := 2})] k)
def wit34 := run 0 1 id (fun k => {eng [(5, T)] [(3, gacc (grp 1 1))] k with mat := [job (.computing 1200)]})
def wit35 := run 33 1 id (fun k => {eng [(5, T)] [(3, gacc (grp 1 1))] k with mat := [job (.computing 1200)]})

/-- The premises of `Obligations.MatrixInstructionsAreAccepted` can be met. -/
theorem witness_MatrixInstructionsAreAccepted :
    (Issues (wh 0 1) none wit2 ∧
     Computes (wh 0 1) (3 : Fin 8) (1 : Fin 8) (2 : Fin 8) ((slot (wh 0 1) wit2).core (Fin.val (wh 0 1).core)) ∧
     ((slot (wh 0 1) wit2).core (Fin.val (wh 0 1).core)).readWaits (1 : Fin 8) (issueCycle (wh 0 1) wit2) = false ∧
     ((slot (wh 0 1) wit2).core (Fin.val (wh 0 1).core)).trelNames (1 : Fin 8) = false ∧
     ((slot (wh 0 1) wit2).core (Fin.val (wh 0 1).core)).readWaits (2 : Fin 8) (issueCycle (wh 0 1) wit2) = false ∧
     ((slot (wh 0 1) wit2).core (Fin.val (wh 0 1).core)).trelNames (2 : Fin 8) = false ∧
     (List.filter MatJob.held ((slot (wh 0 1) wit2).core (Fin.val (wh 0 1).core)).mat).length < 3 ∧
     Owned (wh 0 1).thread ((slot (wh 0 1) wit2).core (Fin.val (wh 0 1).core)).tiles[(4 : Fin 8)] ∧
     ((slot (wh 0 1) wit2).core (Fin.val (wh 0 1).core)).tiles[(4 : Fin 8)].fmt = (13 : BitVec 4) ∧
     ((slot (wh 0 1) wit2).core (Fin.val (wh 0 1).core)).tiles[(1 : Fin 8)].fmt.toNat ∈ [1, 2, 4, 5, 6] ∧
     ((slot (wh 0 1) wit2).core (Fin.val (wh 0 1).core)).tiles[(1 : Fin 8)].elems = 2 * ((slot (wh 0 1) wit2).core (Fin.val (wh 0 1).core)).tiles[(2 : Fin 8)].elems ∧
     ((slot (wh 0 1) wit2).core (Fin.val (wh 0 1).core)).tiles[(1 : Fin 8)].elems % 8 = 0 ∧
     ((slot (wh 0 1) wit2).core (Fin.val (wh 0 1).core)).tiles[(4 : Fin 8)].rows = ((slot (wh 0 1) wit2).core (Fin.val (wh 0 1).core)).tiles[(2 : Fin 8)].rows ∧
     ((slot (wh 0 1) wit2).core (Fin.val (wh 0 1).core)).tiles[(4 : Fin 8)].rbytes = ((slot (wh 0 1) wit2).core (Fin.val (wh 0 1).core)).tiles[(1 : Fin 8)].elems / 8 ∧
     (4 : Fin 8) ≠ (1 : Fin 8) ∧ (4 : Fin 8) ≠ (2 : Fin 8) ∧
     ((slot (wh 0 1) wit2).core (Fin.val (wh 0 1).core)).readWaits (4 : Fin 8) (issueCycle (wh 0 1) wit2) = false ∧
     ((slot (wh 0 1) wit2).core (Fin.val (wh 0 1).core)).trelNames (4 : Fin 8) = false) ∧
    (Issues (wh 0 1) none wit1 ∧
     Computes (wh 0 1) (3 : Fin 8) (1 : Fin 8) (2 : Fin 8) ((slot (wh 0 1) wit1).core (Fin.val (wh 0 1).core)) ∧
     ((slot (wh 0 1) wit1).core (Fin.val (wh 0 1).core)).readWaits (1 : Fin 8) (issueCycle (wh 0 1) wit1) = false ∧
     ((slot (wh 0 1) wit1).core (Fin.val (wh 0 1).core)).trelNames (1 : Fin 8) = false ∧
     ((slot (wh 0 1) wit1).core (Fin.val (wh 0 1).core)).readWaits (2 : Fin 8) (issueCycle (wh 0 1) wit1) = false ∧
     ((slot (wh 0 1) wit1).core (Fin.val (wh 0 1).core)).trelNames (2 : Fin 8) = false ∧
     (List.filter MatJob.held ((slot (wh 0 1) wit1).core (Fin.val (wh 0 1).core)).mat).length < 3 ∧
     ((slot (wh 0 1) wit1).core (Fin.val (wh 0 1).core)).tiles[(1 : Fin 8)].elems = ((slot (wh 0 1) wit1).core (Fin.val (wh 0 1).core)).tiles[(2 : Fin 8)].elems) ∧
    (Issues (wh 0 1) none wit3 ∧
     Computes (wh 0 1) (3 : Fin 8) (1 : Fin 8) (2 : Fin 8) ((slot (wh 0 1) wit3).core (Fin.val (wh 0 1).core)) ∧
     ((slot (wh 0 1) wit3).core (Fin.val (wh 0 1).core)).tiles[(1 : Fin 8)].elems = ((slot (wh 0 1) wit3).core (Fin.val (wh 0 1).core)).tiles[(2 : Fin 8)].elems ∧
     ((slot (wh 0 1) wit3).core (Fin.val (wh 0 1).core)).readWaits (1 : Fin 8) (issueCycle (wh 0 1) wit3) = false ∧
     ((slot (wh 0 1) wit3).core (Fin.val (wh 0 1).core)).trelNames (1 : Fin 8) = false ∧
     ((slot (wh 0 1) wit3).core (Fin.val (wh 0 1).core)).readWaits (2 : Fin 8) (issueCycle (wh 0 1) wit3) = false ∧
     ((slot (wh 0 1) wit3).core (Fin.val (wh 0 1).core)).trelNames (2 : Fin 8) = false ∧
     ¬(List.filter MatJob.held ((slot (wh 0 1) wit3).core (Fin.val (wh 0 1).core)).mat).length < 3) ∧
    (Issues (wh 0 1) none wit1 ∧ Fin.val (2 : Fin 8) < 4 ∧
     Owned (wh 0 1).thread ((slot (wh 0 1) wit1).core (Fin.val (wh 0 1).core)).tiles[(1 : Fin 8)] ∧
     Owned (wh 0 1).thread ((slot (wh 0 1) wit1).core (Fin.val (wh 0 1).core)).tiles[(2 : Fin 8)] ∧
     ((slot (wh 0 1) wit1).core (Fin.val (wh 0 1).core)).groups[(2 : Fin 8)].opened = false) ∧
    (Issues (wh 0 0) none wit7 ∧ Fin.val (2 : Fin 8) < 4 ∧
     ((slot (wh 0 0) wit7).core (Fin.val (wh 0 0).core)).tiles[(1 : Fin 8)].rows ≠ 0 ∧
     ((slot (wh 0 0) wit7).core (Fin.val (wh 0 0).core)).tiles[(2 : Fin 8)].rows ≠ 0 ∧
     ((slot (wh 0 0) wit7).core (Fin.val (wh 0 0).core)).tiles[(1 : Fin 8)].owner ≠ (wh 0 0).thread) ∧
    (Issues (wh 0 1) none wit4 ∧
     Computes (wh 0 1) (3 : Fin 8) (1 : Fin 8) (2 : Fin 8) ((slot (wh 0 1) wit4).core (Fin.val (wh 0 1).core)) ∧
     ((slot (wh 0 1) wit4).core (Fin.val (wh 0 1).core)).tiles[(1 : Fin 8)].elems = ((slot (wh 0 1) wit4).core (Fin.val (wh 0 1).core)).tiles[(2 : Fin 8)].elems ∧
     ¬((((slot (wh 0 1) wit4).core (Fin.val (wh 0 1).core)).readWaits (1 : Fin 8) (issueCycle (wh 0 1) wit4) = false ∧
     ((slot (wh 0 1) wit4).core (Fin.val (wh 0 1).core)).trelNames (1 : Fin 8) = false) ∧
     ((slot (wh 0 1) wit4).core (Fin.val (wh 0 1).core)).readWaits (2 : Fin 8) (issueCycle (wh 0 1) wit4) = false ∧
     ((slot (wh 0 1) wit4).core (Fin.val (wh 0 1).core)).trelNames (2 : Fin 8) = false)) ∧
    (Issues (wh 33 1) none wit6 ∧ 4 ≤ Fin.val (4 : Fin 8) ∧ 32 ≤ Fin.val (wh 33 1).core % 44) ∧
    (Issues (wh 0 1) none wit1 ∧ Fin.val (2 : Fin 8) < 4 ∧
     (((slot (wh 0 1) wit1).core (Fin.val (wh 0 1).core)).tiles[(1 : Fin 8)].rows = 0 ∨ ((slot (wh 0 1) wit1).core (Fin.val (wh 0 1).core)).tiles[(5 : Fin 8)].rows = 0)) ∧
    (Issues (wh 0 1) none wit9 ∧
     (∃ j ∈ ((slot (wh 0 1) wit9).core (Fin.val (wh 0 1).core)).mat, j.serial ≤ ((slot (wh 0 1) wit9).core (Fin.val (wh 0 1).core)).matSerial) ∧
     ((slot (wh 0 1) wit9).thread (wh 0 1)).stopReq = false) ∧
    (Issues (wh 0 1) none wit1 ∧
     (∀ j ∈ ((slot (wh 0 1) wit1).core (Fin.val (wh 0 1).core)).mat, ((slot (wh 0 1) wit1).core (Fin.val (wh 0 1).core)).matSerial < j.serial)) := by
  repeat' first | decide +kernel | rfl | (intro _; rfl) | constructor | unfold Owned

/-- The premises of `Obligations.MatrixEngineStages` can be met. -/
theorem witness_MatrixEngineStages :
    ((wit12.hw.core (Fin.val (0 : CoreId))).frozenAt = none ∧
     (∀ (t : Fin 4), (wit12.hw.core (Fin.val (0 : CoreId))).trelWait[t] = none) ∧
     (List.find? (fun x => x.stage.isAccepted) (wit12.hw.core (Fin.val (0 : CoreId))).mat = some wit11) ∧
     wit11.stage = MatStage.accepted 1200 ∧
     ((List.filter (fun x => x.stage.isLoading || x.stage.isLoaded || x.stage.isComputing) (wit12.hw.core (Fin.val (0 : CoreId))).mat).length < 2) ∧
     (∀ x ∈ (wit12.hw.core (Fin.val (0 : CoreId))).mat, x.stage.isLoading = false)) ∧
    ((wit18.hw.core (Fin.val (0 : CoreId))).frozenAt = none ∧
     (∀ (t : Fin 4), (wit18.hw.core (Fin.val (0 : CoreId))).trelWait[t] = none) ∧
     (List.find? (fun x => x.stage.isLoaded) (wit18.hw.core (Fin.val (0 : CoreId))).mat = some wit17) ∧
     wit17.stage = MatStage.loaded 1200 ∧
     (∀ x ∈ (wit18.hw.core (Fin.val (0 : CoreId))).mat, x.stage.isComputing = false)) ∧
    ((wit16.hw.core (Fin.val (0 : CoreId))).frozenAt = none ∧
     (∀ (t : Fin 4), (wit16.hw.core (Fin.val (0 : CoreId))).trelWait[t] = none) ∧
     (List.find? (fun x => x.stage.isLoading) (wit16.hw.core (Fin.val (0 : CoreId))).mat = some wit15) ∧
     wit15.stage = MatStage.loading 1200) ∧
    ((wit22.hw.core (Fin.val (0 : CoreId))).frozenAt = none ∧
     (∀ (t : Fin 4), (wit22.hw.core (Fin.val (0 : CoreId))).trelWait[t] = none) ∧
     (List.find? (fun x => x.stage.isComputing) (wit22.hw.core (Fin.val (0 : CoreId))).mat = some wit21) ∧
     wit21.stage = MatStage.computing 1200) ∧
    ((wit24.hw.core (Fin.val (0 : CoreId))).frozenAt = none ∧
     (List.find? (fun x => x.stage.isUpdating) (wit24.hw.core (Fin.val (0 : CoreId))).mat = some wit23) ∧
     wit23.stage = MatStage.updating 1200 ∧ (∀ d ∈ (wit24.hw.core (Fin.val (0 : CoreId))).drains, d.g ≠ wit23.g)) := by
  and_intros <;> decide +kernel

/-- The premises of `Obligations.ProductsEnterTheirGroup` can be met. -/
theorem witness_ProductsEnterTheirGroup :
    ((wit24.hw.core (Fin.val (0 : CoreId))).frozenAt = none ∧
     (List.find? (fun x => x.stage.isUpdating) (wit24.hw.core (Fin.val (0 : CoreId))).mat = some wit23) ∧
     wit23.stage = MatStage.updating 1200 ∧ wit23.opB.rows ≤ side (0 : CoreId) ∧
     (∀ d ∈ (wit24.hw.core (Fin.val (0 : CoreId))).drains, d.g ≠ wit23.g)) := by
  and_intros <;> decide +kernel

/-- The premises of `Obligations.GroupsOpenCloseAndDrain` can be met. -/
theorem witness_GroupsOpenCloseAndDrain :
    (Issues (wh 0 1) none wit31 ∧ (Fin.val (3 : Fin 8) < if Fin.val (wh 0 1).core % 44 < 32 then 8 else 4) ∧
     ((slot (wh 0 1) wit31).core (Fin.val (wh 0 1).core)).groups[(3 : Fin 8)].opened = true ∧
     ((slot (wh 0 1) wit31).core (Fin.val (wh 0 1).core)).groups[(3 : Fin 8)].owner = (wh 0 1).thread ∧
     Owned (wh 0 1).thread ((slot (wh 0 1) wit31).core (Fin.val (wh 0 1).core)).tiles[(5 : Fin 8)] ∧
     ((slot (wh 0 1) wit31).core (Fin.val (wh 0 1).core)).tiles[(5 : Fin 8)].fmt ≠ (0 : BitVec 4) ∧
     ((slot (wh 0 1) wit31).core (Fin.val (wh 0 1).core)).tiles[(5 : Fin 8)].fmt ≠ (7 : BitVec 4) ∧
     ((slot (wh 0 1) wit31).core (Fin.val (wh 0 1).core)).tiles[(5 : Fin 8)].fmt.toNat < 13 ∧
     ((slot (wh 0 1) wit31).core (Fin.val (wh 0 1).core)).tiles[(5 : Fin 8)].rows ≤ side (wh 0 1).core ∧
     ((slot (wh 0 1) wit31).core (Fin.val (wh 0 1).core)).tiles[(5 : Fin 8)].elems ≤ side (wh 0 1).core ∧
     (8 ≤ ((slot (wh 0 1) wit31).core (Fin.val (wh 0 1).core)).tiles[(5 : Fin 8)].fmt.toNat → ((slot (wh 0 1) wit31).core (Fin.val (wh 0 1).core)).tiles[(5 : Fin 8)].elems = 32) ∧
     (∀ (u : Fin 8), noT = some u → Owned (wh 0 1).thread ((slot (wh 0 1) wit31).core (Fin.val (wh 0 1).core)).tiles[u] ∧
     ((slot (wh 0 1) wit31).core (Fin.val (wh 0 1).core)).tiles[u].fmt = (14 : BitVec 4) ∧
     ((slot (wh 0 1) wit31).core (Fin.val (wh 0 1).core)).tiles[u].rows = 1 ∧
     ((slot (wh 0 1) wit31).core (Fin.val (wh 0 1).core)).tiles[(5 : Fin 8)].elems ≤ ((slot (wh 0 1) wit31).core (Fin.val (wh 0 1).core)).tiles[u].rbytes ∧
     u ≠ (5 : Fin 8))) ∧
    (Issues (wh 0 1) none wit31 ∧ (Fin.val (3 : Fin 8) < if Fin.val (wh 0 1).core % 44 < 32 then 8 else 4) ∧
     (((slot (wh 0 1) wit31).core (Fin.val (wh 0 1).core)).groups[(3 : Fin 8)].opened = false ∨ ((slot (wh 0 1) wit31).core (Fin.val (wh 0 1).core)).groups[(3 : Fin 8)].owner = (wh 0 1).thread) ∧
     ((slot (wh 0 1) wit31).core (Fin.val (wh 0 1).core)).groupWaits (3 : Fin 8) (issueCycle (wh 0 1) wit31) = false ∧
     validPair (BitVec.toNat (1 : BitVec 4)) (BitVec.toNat (1 : BitVec 4)) = true) ∧
    (Issues (wh 0 1) none wit33 ∧ (Fin.val (3 : Fin 8) < if Fin.val (wh 0 1).core % 44 < 32 then 8 else 4) ∧
     ((slot (wh 0 1) wit33).core (Fin.val (wh 0 1).core)).groups[(3 : Fin 8)].opened = true ∧
     ((slot (wh 0 1) wit33).core (Fin.val (wh 0 1).core)).groups[(3 : Fin 8)].owner ≠ (wh 0 1).thread ∧
     validPair (BitVec.toNat (1 : BitVec 4)) (BitVec.toNat (1 : BitVec 4)) = true) ∧
    (Issues (wh 0 1) none wit34 ∧ (Fin.val (3 : Fin 8) < if Fin.val (wh 0 1).core % 44 < 32 then 8 else 4) ∧
     (((slot (wh 0 1) wit34).core (Fin.val (wh 0 1).core)).groups[(3 : Fin 8)].opened = false ∨ ((slot (wh 0 1) wit34).core (Fin.val (wh 0 1).core)).groups[(3 : Fin 8)].owner = (wh 0 1).thread) ∧
     ((slot (wh 0 1) wit34).core (Fin.val (wh 0 1).core)).groupWaits (3 : Fin 8) (issueCycle (wh 0 1) wit34) = true ∧
     validPair (BitVec.toNat (1 : BitVec 4)) (BitVec.toNat (1 : BitVec 4)) = true) ∧
    (Issues (wh 0 1) none wit31 ∧ (Fin.val (3 : Fin 8) < if Fin.val (wh 0 1).core % 44 < 32 then 8 else 4) ∧
     validPair (BitVec.toNat (1 : BitVec 4)) (BitVec.toNat (3 : BitVec 4)) = false) ∧
    (Issues (wh 33 1) none wit35 ∧ 4 ≤ Fin.val (4 : Fin 8) ∧ 32 ≤ Fin.val (wh 33 1).core % 44) := by
  repeat' first | decide +kernel | rfl | (intro _; rfl) | constructor | unfold Owned

end Sys2Proof.Tests.Products

namespace Sys2Proof.Tests.Drains

def tile (rows rb : Nat) (fmt : BitVec 4) (o : Fin 4 := 1) (seed := 1) : Tile := { rows := rows, rbytes := rb, fmt := fmt, owner := o, data := (List.range rows).flatMap (fun r => (List.range rb).map (fun n => (128*r+n, BitVec.ofNat 8 (((r*37+n*11+5)*seed) % 255 + 1)))) }
def grp (fa fb : BitVec 4) : Group := { opened := true, owner := 1, fa := fa, fb := fb, lse := 0x1F4 }
def eng (ts : List (Fin 8 × Tile)) (g : List (Fin 8 × Group)) (k : Core) : Core :=
  { k with tiles := ts.foldl (fun v p => v.set p.1 p.2) k.tiles, groups := g.foldl (fun v p => v.set p.1 p.2) k.groups, matSerial := 9 }
def A := tile 3 8 1
def B := tile 2 8 1 1 3
def g0 := eng [(1, A), (2, B)] [(3, grp 1 1)]
def dr (g td : Fin 8) (ts : Option (Fin 8)) (st rows : Nat) : DrainRun := { g := g, td := td, ts := ts, keep := false, shift := 0, rows := rows, start := st, lag := 6 }
def K0 : Core := (run 0 1 id g0).hw.core 0
def T := tile 3 64 3
def gacc (g : Group) : Group := { g with acc := [(0, {w := 5}), (1, {w := BitVec.ofInt 96 (-(2^60))}), (33, {w := 2^70}), (34, {cls := .nan})], inx := true }
def dw : DrainWait := { g := 3, td := 5, ts := none, keep := false, shift := 0xFE, issued := 77 }
def dws (f : Core → Core := id) := run 0 1 (fun th => {th with stall := some .drain}) (fun k => f {(eng [(5, T), (6, tile 1 64 0xE)] [(3, gacc (grp 1 1))] k) with drainWait := k.drainWait.set 1 (some dw)})
def kd (t : Tile) (keep := false) (ts : Option (Fin 8) := none) : Core := {K0 with tiles := (K0.tiles.set 5 t).set 6 (tile 1 64 0xE), groups := K0.groups.set 3 (gacc (grp 1 1)), drains := [{dr 3 5 ts 100 t.rows with keep := keep, shift := 0xFE}]}
def dd (t : Tile) (keep := false) (ts : Option (Fin 8) := none) : DrainRun := (kd t keep ts).drains.headD (dr 0 0 none 0 0)
def t8 : Tile := {tile 3 32 0x8 with scale := []}
def wit3 := kd T
def wit4 := dd T
def wit7 := kd t8 false (some 6)
def wit8 := dd t8 false (some 6)

/-- The premises of `Obligations.GroupsOpenCloseAndDrain` can be met. -/
theorem witness_GroupsOpenCloseAndDrain :
    (wit7.drains = [wit8] ∧ wit8.read = 0 ∧ wit8.written = 0 ∧ wit8.rowsIn = [] ∧ wit8.inx = false ∧ wit8.sat = false ∧
     wit8.rows = wit7.tiles[wit8.td].rows ∧ 0 < wit8.rows ∧ wit8.ts ≠ some wit8.td ∧
     wit7.tiles[wit8.td].elems ≤ side (0 : CoreId) ∧ wit8.start + wit8.lag + wit8.rows ≤ 400 ∧
     wit7.tiles[wit8.td].fmt ≠ (0 : BitVec 4) ∧ wit7.tiles[wit8.td].fmt ≠ (7 : BitVec 4) ∧
     wit7.tiles[wit8.td].fmt.toNat < 13 ∧ wit7.tiles[wit8.td].rbytes ≤ 128 ∧ 8 ≤ wit7.tiles[wit8.td].fmt.toNat) ∧
    (wit3.drains = [wit4] ∧ wit4.read = 0 ∧ wit4.written = 0 ∧ wit4.rowsIn = [] ∧ wit4.inx = false ∧ wit4.sat = false ∧
     wit4.rows = wit3.tiles[wit4.td].rows ∧ 0 < wit4.rows ∧ wit4.ts ≠ some wit4.td ∧
     wit3.tiles[wit4.td].elems ≤ side (0 : CoreId) ∧ wit4.start + wit4.lag + wit4.rows ≤ 400 ∧
     wit3.tiles[wit4.td].fmt ≠ (0 : BitVec 4) ∧ wit3.tiles[wit4.td].fmt ≠ (7 : BitVec 4) ∧
     wit3.tiles[wit4.td].fmt.toNat < 13 ∧ wit3.tiles[wit4.td].rbytes ≤ 128) ∧
    ((dws.hw.core (Fin.val (wh 0 1).core)).frozenAt = none ∧
     (dws.hw.core (Fin.val (wh 0 1).core)).drainWait[(wh 0 1).thread] = some dw ∧
     (∀ j ∈ (dws.hw.core (Fin.val (wh 0 1).core)).mat, j.g ≠ dw.g) ∧
     (dws.hw.core (Fin.val (wh 0 1).core)).matLocks dw.td = false ∧
     (¬((dws.hw.core (Fin.val (wh 0 1).core)).moveLocks dw.td = true ∨ (dws.hw.core (Fin.val (wh 0 1).core)).trelNames dw.td = true)) ∧
     (∀ (u : Fin 8), dw.ts = some u → ¬((dws.hw.core (Fin.val (wh 0 1).core)).moveLocks u = true ∨ (dws.hw.core (Fin.val (wh 0 1).core)).trelNames u = true))) ∧
    (wit3.drains = [wit4] ∧ wit4.read = 0 ∧ wit4.written = 0 ∧ wit4.rowsIn = [] ∧ wit4.start ≤ 105 ∧
     105 < wit4.start + wit4.lag + wit4.rows) ∧
    (wit4.read + 1 < wit4.rows ∧ 0 < 32) := by
  and_intros <;> decide +kernel

end Sys2Proof.Tests.Drains

namespace Sys2Proof.Tests.Streams

def grp (fa fb : BitVec 4) : Group := { opened := true, owner := 1, fa := fa, fb := fb, lse := 0x1F4 }
def eng (ts : List (Fin 8 × Tile)) (g : List (Fin 8 × Group)) (k : Core) : Core :=
  { k with tiles := ts.foldl (fun v p => v.set p.1 p.2) k.tiles, groups := g.foldl (fun v p => v.set p.1 p.2) k.groups, matSerial := 9 }
def gacc (g : Group) : Group := { g with acc := [(0, {w := 5}), (1, {w := BitVec.ofInt 96 (-(2^60))}), (33, {w := 2^70}), (34, {cls := .nan})], inx := true }
def act (n : Fin 16) (r : W32) (cr := 8) (k : Core) : Core := { k with tenons := k.tenons.set n { active := r, shadow := r, credits := cr, epoch := 2 } }
def rLoc : W32 := BitVec.ofNat 32 (2^31 + 1*2^11 + 5*2^5 + 9*2)
def nl : List Entry := []
def F : Option Fwd := none
def fw (n : Fin 16) : Option Fwd := some { tenon := n, tag := 9 }
def sA := run 0 1 id (act 4 rLoc ∘ eng [] [(3, gacc (grp 1 1))])
def am (e : List Entry) (r : W32) (cr := 8) := run 0 1 (fun th => {th with d := th.d.set 3 0x80000000}) (fun k => {(act 4 r cr (eng [] [(3, gacc (grp 1 1))] k)) with mortises := k.mortises.set 4 e})
def st (ws : List W64) : Entry := { words := ws, k := 3, tag := 3, stream := true, credit := .tenon 1 2 3 }
def en (ws : List W64) : Entry := { words := ws, k := 3, tag := 3, stream := false, credit := .tenon 1 2 3 }
def hd : Entry := st (streamHeader 0 3 (gacc (grp 1 1)))
def dt : Entry := st [1, 0x123456789ABCDEF0, 3, 0xF000000000000004]
def tl : Entry := st [0xACC2000000000003, 0,0,0]
def wit1 := fw 4
def wit2 : Fwd := {tenon := 4, tag := 9}
def wit3 := am [] rLoc 0
def wit4 := am [] 0
def wit5 := am [en [1]] 0
def tk : Taken := { due := 990, words := [1,2] }
def jb (n : Nat) (f : Option Fwd := none) (tks : List Taken := []) : StreamJob := { thread := 1, achain := true, g := 3, chan := 4, fwd := f, tag := 0, tuples := n, carry := 5, carryBits := 32, taken := tks, nextSend := 0 }
def sj (n : Nat) (e : Entry) (f : Option Fwd := none) (tks : List Taken := []) := run 0 1 (fun th => {th with stall := some .stream}) (fun k => {act 4 rLoc 8 (eng [] [(3, gacc (grp 1 1))] k) with mortises := k.mortises.set 4 [e], stream := some (jb n f tks)})
def wit8 := jb 0
def wit9 := sj 0 hd
def wit10 := sj 0 dt
def wit11 := jb 7
def wit12 := sj 7 dt
def wit13 := jb 7 none [tk]
def wit18 := jb 393
def wit20 := sj 393 tl
def wit23 := (sj 7 dt none [tk]).hw
def wit24 := jb 393 none [tk]
def wit25 := (sj 393 dt none [tk]).hw
def wit26 := jb 7 (fw 4) [tk]
def wit27 := (sj 7 dt (fw 4) [tk]).hw
def wit29 := jb 393 (fw 4) [tk]
def wit30 := (sj 393 dt (fw 4) [tk]).hw
def sSt : State := let s := sj 7 dt (fw 4) [tk]; { s with hw := s.hw.updCore 0 (fun k => { k with tenons := k.tenons.set 4 { k.tenons[4] with stallStart := some 700 } }) }

/-- The premises of `Obligations.StreamsPassAndChain` can be met. -/
theorem witness_StreamsPassAndChain :
    (Issues (wh 0 1) none sA ∧ (Fin.val (3 : Fin 8) < if Fin.val (wh 0 1).core % 44 < 32 then 8 else 4) ∧
     ((slot (wh 0 1) sA).core (Fin.val (wh 0 1).core)).groups[(3 : Fin 8)].opened = true ∧
     ((slot (wh 0 1) sA).core (Fin.val (wh 0 1).core)).groups[(3 : Fin 8)].owner = (wh 0 1).thread ∧
     ((slot (wh 0 1) sA).core (Fin.val (wh 0 1).core)).groupWaits (3 : Fin 8) (issueCycle (wh 0 1) sA) = false ∧
     ((slot (wh 0 1) sA).core (Fin.val (wh 0 1).core)).stream = none ∧
     ((slot (wh 0 1) sA).thread (wh 0 1)).stopReq = false ∧
     (Route.of ((slot (wh 0 1) sA).core (Fin.val (wh 0 1).core)).tenons[(4 : Fin 16)].active).en = true ∧
     (Route.of ((slot (wh 0 1) sA).core (Fin.val (wh 0 1).core)).tenons[(4 : Fin 16)].active).addr = false ∧
     routeBad (slot (wh 0 1) sA) (Fin.val (wh 0 1).core) (Route.of ((slot (wh 0 1) sA).core (Fin.val (wh 0 1).core)).tenons[(4 : Fin 16)].active) 4 = false ∧
     (((slot (wh 0 1) sA).thread (wh 0 1)).acur.tuples + ((slot (wh 0 1) sA).thread (wh 0 1)).acur.taken.length < 1 + if Fin.val (wh 0 1).core % 44 < 32 then 392 else if Fin.val (wh 0 1).core % 44 < 40 then 25 else 7) ∧
     (((slot (wh 0 1) sA).thread (wh 0 1)).acur.active = true → ((slot (wh 0 1) sA).thread (wh 0 1)).acur.achain = false ∧
     ((slot (wh 0 1) sA).thread (wh 0 1)).acur.g = (3 : Fin 8) ∧
     ((slot (wh 0 1) sA).thread (wh 0 1)).acur.chan = (4 : Fin 16)) ∧
     0 < ((slot (wh 0 1) sA).core (Fin.val (wh 0 1).core)).tenons[(4 : Fin 16)].credits ∧
     ((slot (wh 0 1) sA).core (Fin.val (wh 0 1).core)).commitHolds (4 : Fin 16) = false ∧
     (Route.of ((slot (wh 0 1) sA).core (Fin.val (wh 0 1).core)).tenons[(4 : Fin 16)].active).remote = false) ∧
    (Issues (wh 0 1) none wit3 ∧ (Fin.val (3 : Fin 8) < if Fin.val (wh 0 1).core % 44 < 32 then 8 else 4) ∧
     ((slot (wh 0 1) wit3).core (Fin.val (wh 0 1).core)).groups[(3 : Fin 8)].opened = true ∧
     ((slot (wh 0 1) wit3).core (Fin.val (wh 0 1).core)).groups[(3 : Fin 8)].owner = (wh 0 1).thread ∧
     ((slot (wh 0 1) wit3).core (Fin.val (wh 0 1).core)).groupWaits (3 : Fin 8) (issueCycle (wh 0 1) wit3) = false ∧
     ((slot (wh 0 1) wit3).core (Fin.val (wh 0 1).core)).stream = none ∧
     ((slot (wh 0 1) wit3).thread (wh 0 1)).stopReq = false ∧
     (Route.of ((slot (wh 0 1) wit3).core (Fin.val (wh 0 1).core)).tenons[(4 : Fin 16)].active).en = true ∧
     (Route.of ((slot (wh 0 1) wit3).core (Fin.val (wh 0 1).core)).tenons[(4 : Fin 16)].active).addr = false ∧
     routeBad (slot (wh 0 1) wit3) (Fin.val (wh 0 1).core) (Route.of ((slot (wh 0 1) wit3).core (Fin.val (wh 0 1).core)).tenons[(4 : Fin 16)].active) 4 = false ∧
     (((slot (wh 0 1) wit3).thread (wh 0 1)).acur.tuples + ((slot (wh 0 1) wit3).thread (wh 0 1)).acur.taken.length < 1 + if Fin.val (wh 0 1).core % 44 < 32 then 392 else if Fin.val (wh 0 1).core % 44 < 40 then 25 else 7) ∧
     (((slot (wh 0 1) wit3).thread (wh 0 1)).acur.active = true → ((slot (wh 0 1) wit3).thread (wh 0 1)).acur.achain = false ∧
     ((slot (wh 0 1) wit3).thread (wh 0 1)).acur.g = (3 : Fin 8) ∧
     ((slot (wh 0 1) wit3).thread (wh 0 1)).acur.chan = (4 : Fin 16)) ∧
     (((slot (wh 0 1) wit3).core (Fin.val (wh 0 1).core)).tenons[(4 : Fin 16)].credits = 0 ∨ ((slot (wh 0 1) wit3).core (Fin.val (wh 0 1).core)).commitHolds (4 : Fin 16) = true)) ∧
    (Issues (wh 0 1) none sA ∧ (Fin.val (3 : Fin 8) < if Fin.val (wh 0 1).core % 44 < 32 then 8 else 4) ∧
     ((slot (wh 0 1) sA).core (Fin.val (wh 0 1).core)).groups[(3 : Fin 8)].opened = true ∧
     ((slot (wh 0 1) sA).core (Fin.val (wh 0 1).core)).groups[(3 : Fin 8)].owner = (wh 0 1).thread ∧
     ((slot (wh 0 1) sA).core (Fin.val (wh 0 1).core)).groupWaits (3 : Fin 8) (issueCycle (wh 0 1) sA) = false ∧
     ((slot (wh 0 1) sA).core (Fin.val (wh 0 1).core)).stream = none ∧
     ((slot (wh 0 1) sA).thread (wh 0 1)).stopReq = false ∧ ((slot (wh 0 1) sA).thread (wh 0 1)).acur.active = false ∧
     ((slot (wh 0 1) sA).thread (wh 0 1)).acur.taken = [] ∧ ((slot (wh 0 1) sA).thread (wh 0 1)).acur.tuples = 0 ∧
     (∀ (f : Fwd), wit1 = some f → (Route.of ((slot (wh 0 1) sA).core (Fin.val (wh 0 1).core)).tenons[f.tenon].active).en = true ∧
     (Route.of ((slot (wh 0 1) sA).core (Fin.val (wh 0 1).core)).tenons[f.tenon].active).addr = false ∧
     routeBad (slot (wh 0 1) sA) (Fin.val (wh 0 1).core) (Route.of ((slot (wh 0 1) sA).core (Fin.val (wh 0 1).core)).tenons[f.tenon].active) 4 = false) ∧
     ((slot (wh 0 1) sA).core (Fin.val (wh 0 1).core)).headBad (wh 0 1).core (3 : Fin 8) (4 : Fin 16) 0 = false) ∧
    (Issues (wh 0 1) none wit5 ∧ (Fin.val (3 : Fin 8) < if Fin.val (wh 0 1).core % 44 < 32 then 8 else 4) ∧
     ((slot (wh 0 1) wit5).core (Fin.val (wh 0 1).core)).groups[(3 : Fin 8)].opened = true ∧
     ((slot (wh 0 1) wit5).core (Fin.val (wh 0 1).core)).groups[(3 : Fin 8)].owner = (wh 0 1).thread ∧
     ((slot (wh 0 1) wit5).core (Fin.val (wh 0 1).core)).groupWaits (3 : Fin 8) (issueCycle (wh 0 1) wit5) = false ∧
     ((slot (wh 0 1) wit5).core (Fin.val (wh 0 1).core)).stream = none ∧
     ((slot (wh 0 1) wit5).thread (wh 0 1)).stopReq = false ∧
     ((slot (wh 0 1) wit5).thread (wh 0 1)).acur.active = false ∧
     ((slot (wh 0 1) wit5).thread (wh 0 1)).acur.taken = [] ∧ ((slot (wh 0 1) wit5).thread (wh 0 1)).acur.tuples = 0 ∧
     (∀ (f : Fwd), F = some f → (Route.of ((slot (wh 0 1) wit5).core (Fin.val (wh 0 1).core)).tenons[f.tenon].active).en = true ∧
     (Route.of ((slot (wh 0 1) wit5).core (Fin.val (wh 0 1).core)).tenons[f.tenon].active).addr = false ∧
     routeBad (slot (wh 0 1) wit5) (Fin.val (wh 0 1).core) (Route.of ((slot (wh 0 1) wit5).core (Fin.val (wh 0 1).core)).tenons[f.tenon].active) 4 = false) ∧
     ((slot (wh 0 1) wit5).core (Fin.val (wh 0 1).core)).headBad (wh 0 1).core (3 : Fin 8) (4 : Fin 16) 0 = true) ∧
    (((wit9.hw.streamRoom (0 : CoreId)).core (Fin.val (0 : CoreId))).frozenAt = none ∧
     ((wit9.hw.streamRoom (0 : CoreId)).core (Fin.val (0 : CoreId))).stream = some wit8 ∧ wit8.achain = true ∧
     wit8.taken.length < 2 ∧
     (wit8.tuples + wit8.taken.length ≤ 1 + if Fin.val (0 : CoreId) % 44 < 32 then 392 else if Fin.val (0 : CoreId) % 44 < 40 then 25 else 7) ∧
     ((wit9.hw.streamRoom (0 : CoreId)).core (Fin.val (0 : CoreId))).mortises[wit8.chan] = hd :: nl ∧ hd.stream = true ∧
     wit8.tuples + wit8.taken.length = 0 ∧
     headerMatches (0 : CoreId) ((wit9.hw.streamRoom (0 : CoreId)).core (Fin.val (0 : CoreId))).groups[wit8.g] hd.words = true) ∧
    (((wit12.hw.streamRoom (0 : CoreId)).core (Fin.val (0 : CoreId))).frozenAt = none ∧
     ((wit12.hw.streamRoom (0 : CoreId)).core (Fin.val (0 : CoreId))).stream = some wit11 ∧ wit11.achain = true ∧
     wit11.taken.length < 2 ∧
     (wit11.tuples + wit11.taken.length ≤ 1 + if Fin.val (0 : CoreId) % 44 < 32 then 392 else if Fin.val (0 : CoreId) % 44 < 40 then 25 else 7) ∧
     ((wit12.hw.streamRoom (0 : CoreId)).core (Fin.val (0 : CoreId))).mortises[wit11.chan] = dt :: nl ∧
     dt.stream = true ∧ 0 < wit11.tuples + wit11.taken.length ∧
     (wit11.tuples + wit11.taken.length < 1 + if Fin.val (0 : CoreId) % 44 < 32 then 392 else if Fin.val (0 : CoreId) % 44 < 40 then 25 else 7)) ∧
    (((wit20.hw.streamRoom (0 : CoreId)).core (Fin.val (0 : CoreId))).frozenAt = none ∧
     ((wit20.hw.streamRoom (0 : CoreId)).core (Fin.val (0 : CoreId))).stream = some wit18 ∧ wit18.achain = true ∧
     wit18.taken.length < 2 ∧
     (wit18.tuples + wit18.taken.length ≤ 1 + if Fin.val (0 : CoreId) % 44 < 32 then 392 else if Fin.val (0 : CoreId) % 44 < 40 then 25 else 7) ∧
     ((wit20.hw.streamRoom (0 : CoreId)).core (Fin.val (0 : CoreId))).mortises[wit18.chan] = tl :: nl ∧
     tl.stream = true ∧
     (wit18.tuples + wit18.taken.length = 1 + if Fin.val (0 : CoreId) % 44 < 32 then 392 else if Fin.val (0 : CoreId) % 44 < 40 then 25 else 7) ∧
     trailerOk tl.words = true) ∧
    ((wit27.core (Fin.val (0 : CoreId))).frozenAt = none ∧ (wit27.core (Fin.val (0 : CoreId))).stream = some wit26 ∧
     wit26.achain = true ∧ wit26.taken = [tk] ∧ wit26.fwd = some wit2 ∧
     (wit27.core (Fin.val (0 : CoreId))).sendReady wit2.tenon = true ∧
     (Route.of (wit27.core (Fin.val (0 : CoreId))).tenons[wit2.tenon].active).remote = false ∧
     max tk.due wit26.nextSend ≤ 1000 ∧
     (wit26.tuples ≠ 1 + if Fin.val (0 : CoreId) % 44 < 32 then 392 else if Fin.val (0 : CoreId) % 44 < 40 then 25 else 7)) ∧
    ((wit30.core (Fin.val (0 : CoreId))).frozenAt = none ∧ (wit30.core (Fin.val (0 : CoreId))).stream = some wit29 ∧
     wit29.achain = true ∧ wit29.taken = [tk] ∧ wit29.fwd = some wit2 ∧
     (wit30.core (Fin.val (0 : CoreId))).sendReady wit2.tenon = true ∧
     (Route.of (wit30.core (Fin.val (0 : CoreId))).tenons[wit2.tenon].active).remote = false ∧
     max tk.due wit29.nextSend ≤ 1000 ∧
     (wit29.tuples = 1 + if Fin.val (0 : CoreId) % 44 < 32 then 392 else if Fin.val (0 : CoreId) % 44 < 40 then 25 else 7)) ∧
    (Issues (wh 0 1) none wit4 ∧ (Fin.val (3 : Fin 8) < if Fin.val (wh 0 1).core % 44 < 32 then 8 else 4) ∧
     ((slot (wh 0 1) wit4).core (Fin.val (wh 0 1).core)).groups[(3 : Fin 8)].opened = true ∧
     ((slot (wh 0 1) wit4).core (Fin.val (wh 0 1).core)).groups[(3 : Fin 8)].owner = (wh 0 1).thread ∧
     ((slot (wh 0 1) wit4).core (Fin.val (wh 0 1).core)).groupWaits (3 : Fin 8) (issueCycle (wh 0 1) wit4) = false ∧
     ((slot (wh 0 1) wit4).core (Fin.val (wh 0 1).core)).stream = none ∧
     ((slot (wh 0 1) wit4).thread (wh 0 1)).stopReq = false ∧
     ((Route.of ((slot (wh 0 1) wit4).core (Fin.val (wh 0 1).core)).tenons[(4 : Fin 16)].active).en = false ∨ (Route.of ((slot (wh 0 1) wit4).core (Fin.val (wh 0 1).core)).tenons[(4 : Fin 16)].active).addr = true)) ∧
    (((wit10.hw.streamRoom (0 : CoreId)).core (Fin.val (0 : CoreId))).frozenAt = none ∧
     ((wit10.hw.streamRoom (0 : CoreId)).core (Fin.val (0 : CoreId))).stream = some wit8 ∧ wit8.achain = true ∧
     wit8.taken.length < 2 ∧
     (wit8.tuples + wit8.taken.length ≤ 1 + if Fin.val (0 : CoreId) % 44 < 32 then 392 else if Fin.val (0 : CoreId) % 44 < 40 then 25 else 7) ∧
     ((wit10.hw.streamRoom (0 : CoreId)).core (Fin.val (0 : CoreId))).mortises[wit8.chan] = dt :: nl ∧
     (dt.stream = false ∨ wit8.tuples + wit8.taken.length = 0 ∧
     headerMatches (0 : CoreId) ((wit10.hw.streamRoom (0 : CoreId)).core (Fin.val (0 : CoreId))).groups[wit8.g] dt.words = false ∨ (wit8.tuples + wit8.taken.length = 1 + if Fin.val (0 : CoreId) % 44 < 32 then 392 else if Fin.val (0 : CoreId) % 44 < 40 then 25 else 7) ∧
     trailerOk dt.words = false)) ∧
    ((wit23.core (Fin.val (0 : CoreId))).frozenAt = none ∧ (wit23.core (Fin.val (0 : CoreId))).stream = some wit13 ∧
     wit13.achain = true ∧ wit13.taken = [tk] ∧ wit13.fwd = none ∧ tk.due ≤ 1000 ∧
     (wit13.tuples ≠ 1 + if Fin.val (0 : CoreId) % 44 < 32 then 392 else if Fin.val (0 : CoreId) % 44 < 40 then 25 else 7)) ∧
    ((wit25.core (Fin.val (0 : CoreId))).frozenAt = none ∧ (wit25.core (Fin.val (0 : CoreId))).stream = some wit24 ∧
     wit24.achain = true ∧ wit24.taken = [tk] ∧ wit24.fwd = none ∧ tk.due ≤ 1000 ∧
     (wit24.tuples = 1 + if Fin.val (0 : CoreId) % 44 < 32 then 392 else if Fin.val (0 : CoreId) % 44 < 40 then 25 else 7)) ∧
    ((wit25.core (Fin.val (0 : CoreId))).frozenAt = none ∧ (wit25.core (Fin.val (0 : CoreId))).stream = some wit24 ∧
     wit24.achain = true ∧ wit24.taken = [tk] ∧ wit24.fwd = none ∧ 980 < tk.due) ∧
    (Issues (wh 0 1) none sA ∧ Alone (wh 0 1) sA) := by
  repeat' first | decide +kernel | rfl | (intro _; rfl) | constructor | unfold Alone

/-- The premises of `Obligations.RemoteTuplesStallsAndStillness` can be met. -/
theorem witness_RemoteTuplesStallsAndStillness :
    ((sSt.hw.core (Fin.val (0 : CoreId))).tenons[(4 : Fin 16)].stallStart = some 700 ∧
     (sSt.hw.core (Fin.val (0 : CoreId))).stallLimit ≠ (0 : W32) ∧
     (sSt.hw.core (Fin.val (0 : CoreId))).tenons[(4 : Fin 16)].stallReported = false ∧
     (sSt.hw.core (Fin.val (0 : CoreId))).frozenAt = none ∧
     ((sSt.hw.coreEvent (0 : CoreId) (700 + BitVec.toNat (sSt.hw.core (Fin.val (0 : CoreId))).stallLimit - 1)).core (Fin.val (0 : CoreId))).tenons[(4 : Fin 16)].stallStart ≠ some 700) := by
  and_intros <;> decide +kernel

end Sys2Proof.Tests.Streams

namespace Sys2Proof.Tests.TileWork

def tile (rows rb : Nat) (fmt : BitVec 4) (o : Fin 4 := 1) (seed := 1) : Tile := { rows := rows, rbytes := rb, fmt := fmt, owner := o, data := (List.range rows).flatMap (fun r => (List.range rb).map (fun n => (128*r+n, BitVec.ofNat 8 (((r*37+n*11+5)*seed) % 255 + 1)))) }
def eng (ts : List (Fin 8 × Tile)) (g : List (Fin 8 × Group)) (k : Core) : Core :=
  { k with tiles := ts.foldl (fun v p => v.set p.1 p.2) k.tiles, groups := g.foldl (fun v p => v.set p.1 p.2) k.groups, matSerial := 9 }
def T := tile 3 64 3
def dr (g td : Fin 8) (ts : Option (Fin 8)) (st rows : Nat) : DrainRun := { g := g, td := td, ts := ts, keep := false, shift := 0, rows := rows, start := st, lag := 6 }
def sd (v : Nat) (f : Thread → Thread := id) (g : Core → Core := id) (h : Hw → Hw := id) (c := 0) := run c 1 (fun th => f { th with d := th.d.set 5 (BitVec.ofNat 64 v) }) g h
def wit1 := sd 2 id (eng [(5, T)] [])
def wit2 := sd 2 id (fun k => {eng [(5, T)] [] k with tileFree := k.tileFree.set 5 1002})
def wit3 := sd 2 id (eng [(5, T)] []) id 33
def wit4 := sd 2 id (eng [(5, {T with owner := 2})] [])
def ta (b st : Nat) (th : Thread) : Thread := {th with a := (th.a.set 2 (BitVec.ofNat 48 b)).set 9 (BitVec.ofNat 48 st)}
def busy (k : Core) : Core := {k with tileMove := some {thread := 1, t := 4, store := false, x := false, u := false, base := 0, stride := 0, row := 0, last := 0}}
def wit5 := sd 2 (ta 0x1000 64) (eng [(5, T)] [])
def wit8 := sd 2 (ta 0x1004 64) (eng [(5, T)] [])
def wit9 := sd 2 (ta 0x1000 64) (busy ∘ eng [(5, T)] [])
def wit10 := sd 2 (ta 0x1000 64) (eng [(5, {T with owner := 2})] [])
def wit11 := sd 2 (ta 0x1000 64) (eng [(5, {})] [])
def s1 := sd 2 (fun th => {th with v := th.v.set 6 0x1122334455667788}) (eng [(5, T)] [])
def wit15 := sd 3 id (eng [(5, T)] [])
def wit16 := sd 1 id (eng [(5, {T with owner := 0})] [])
def wit17 := sd 1 id ((fun k => {k with drains := [dr 3 5 none 990 32]}) ∘ eng [(5, T)] [])
def um (th : Thread) : Thread := {th with mode := true}
def r1 := sd 0x21 um (eng [(5, T)] [])
def wit20 := sd 0x31 um (fun k => busy (eng [(5, T)] [] k))
def wit21 := sd 0x80050082 um (eng [(5, T)] [])
def mv (s : Bool) (r : Nat) (base := 0x1000) : TileMove := {thread := 1, t := 5, store := s, x := false, u := false, base := BitVec.ofNat 48 base, stride := 0x40, row := r, last := 500}
def sm (m : TileMove) (c := 0) : State := run c 1 (fun th => {th with stall := some .tileMove}) (fun k => {(eng [(5,T)] [] k) with tileMove := some m}) id (memWriteN (locScratch c 0x1000) (toBytes 300 (2^2399 / 7)) [])
def wit23 := mv false 1
def wit24 := sm (mv false 1)
def wit25 := mv true 1
def wit26 := sm (mv true 1)
def wit33 := mv false 2 0x90000000
def wit34 := sm (mv false 2 0x90000000) 40
def wit37 := mv false 0
def wit38 := sm (mv false 0)
def sr : State := run 0 1 id (fun k => {(eng [(5,T), (4, T)] [] k) with trelHeld := [0x20, 7]})
def wit40 := sd 1 id (eng [(5, {T with rows := 0})] [])

/-- The premises of `Obligations.TileInstructions` can be met. -/
theorem witness_TileInstructions :
    (Issues (wh 0 1) none wit5 ∧
     Owned (wh 0 1).thread ((slot (wh 0 1) wit5).core (Fin.val (wh 0 1).core)).tiles[(5 : Fin 8)] ∧
     (false = false ∨ 8 ≤ ((slot (wh 0 1) wit5).core (Fin.val (wh 0 1).core)).tiles[(5 : Fin 8)].fmt.toNat ∧
     ((slot (wh 0 1) wit5).core (Fin.val (wh 0 1).core)).tiles[(5 : Fin 8)].fmt.toNat ≤ 12) ∧
     BitVec.toNat (((slot (wh 0 1) wit5).thread (wh 0 1)).getA (2 : Fin 16)) % 8 = 0 ∧
     BitVec.toNat (((slot (wh 0 1) wit5).thread (wh 0 1)).getA (9 : Fin 16)) % 8 = 0 ∧
     ((slot (wh 0 1) wit5).core (Fin.val (wh 0 1).core)).tileMove = none ∧
     (if (Instr.tld (wh 0 1) (5 : Fin 8) (2 : Fin 16) (9 : Fin 16) false true, false).2 = true then ((slot (wh 0 1) wit5).core (Fin.val (wh 0 1).core)).readWaits (5 : Fin 8) (issueCycle (wh 0 1) wit5) else ((slot (wh 0 1) wit5).core (Fin.val (wh 0 1).core)).writeWaits (5 : Fin 8) (issueCycle (wh 0 1) wit5)) = false ∧
     ((slot (wh 0 1) wit5).core (Fin.val (wh 0 1).core)).trelNames (5 : Fin 8) = false ∧
     ((slot (wh 0 1) wit5).thread (wh 0 1)).stopReq = false) ∧
    (Issues (wh 0 1) none wit21 ∧ Alone (wh 0 1) wit21 ∧ ((slot (wh 0 1) wit21).thread (wh 0 1)).mode = true ∧
     BitVec.getLsbD (outValue (wh 0 1) (5 : Fin 32) wit21) 31 = true ∧
     BitVec.toNat (outValue (wh 0 1) (5 : Fin 32) wit21) / 2 ^ 16 % 8 = Fin.val (5 : Fin 8) ∧
     ((slot (wh 0 1) wit21).core (Fin.val (wh 0 1).core)).tiles[(5 : Fin 8)].rows ≠ 0 ∧
     BitVec.toNat (outValue (wh 0 1) (5 : Fin 32) wit21) % 2 ^ 6 < ((slot (wh 0 1) wit21).core (Fin.val (wh 0 1).core)).tiles[(5 : Fin 8)].rows) ∧
    (Issues (wh 0 1) none wit1 ∧
     (((slot (wh 0 1) wit1).core (Fin.val (wh 0 1).core)).tiles[(5 : Fin 8)].rows = 0 ∨ ((slot (wh 0 1) wit1).core (Fin.val (wh 0 1).core)).tiles[(5 : Fin 8)].owner = (wh 0 1).thread) ∧
     (32 : BitVec 6) ≠ (0 : BitVec 6) ∧ (127 : BitVec 8) ≠ (0 : BitVec 8) ∧ (2 : BitVec 4) ≠ (0 : BitVec 4) ∧
     (2 : BitVec 4) ≠ (15 : BitVec 4) ∧ BitVec.toNat (32 : BitVec 6) ≤ side (wh 0 1).core ∧
     (¬(128 < BitVec.toNat (127 : BitVec 8) ∨ side (wh 0 1).core * 128 < BitVec.toNat (32 : BitVec 6) * BitVec.toNat (127 : BitVec 8))) ∧
     BitVec.toNat (127 : BitVec 8) % 2 ≠ 0) ∧
    (Issues (wh 0 1) none wit1 ∧
     (((slot (wh 0 1) wit1).core (Fin.val (wh 0 1).core)).tiles[(5 : Fin 8)].rows = 0 ∨ ((slot (wh 0 1) wit1).core (Fin.val (wh 0 1).core)).tiles[(5 : Fin 8)].owner = (wh 0 1).thread) ∧
     (32 : BitVec 6) ≠ (0 : BitVec 6) ∧ (129 : BitVec 8) ≠ (0 : BitVec 8) ∧ (1 : BitVec 4) ≠ (0 : BitVec 4) ∧
     (1 : BitVec 4) ≠ (15 : BitVec 4) ∧ BitVec.toNat (32 : BitVec 6) ≤ side (wh 0 1).core ∧
     (128 < BitVec.toNat (129 : BitVec 8) ∨ side (wh 0 1).core * 128 < BitVec.toNat (32 : BitVec 6) * BitVec.toNat (129 : BitVec 8))) ∧
    (Issues (wh 0 1) none wit9 ∧
     Owned (wh 0 1).thread ((slot (wh 0 1) wit9).core (Fin.val (wh 0 1).core)).tiles[(5 : Fin 8)] ∧
     (false = false ∨ 8 ≤ ((slot (wh 0 1) wit9).core (Fin.val (wh 0 1).core)).tiles[(5 : Fin 8)].fmt.toNat ∧
     ((slot (wh 0 1) wit9).core (Fin.val (wh 0 1).core)).tiles[(5 : Fin 8)].fmt.toNat ≤ 12) ∧
     BitVec.toNat (((slot (wh 0 1) wit9).thread (wh 0 1)).getA (2 : Fin 16)) % 8 = 0 ∧
     BitVec.toNat (((slot (wh 0 1) wit9).thread (wh 0 1)).getA (9 : Fin 16)) % 8 = 0 ∧
     (((slot (wh 0 1) wit9).core (Fin.val (wh 0 1).core)).tileMove ≠ none ∨ (if (Instr.tld (wh 0 1) (5 : Fin 8) (2 : Fin 16) (9 : Fin 16) false true, false).2 = true then ((slot (wh 0 1) wit9).core (Fin.val (wh 0 1).core)).readWaits (5 : Fin 8) (issueCycle (wh 0 1) wit9) else ((slot (wh 0 1) wit9).core (Fin.val (wh 0 1).core)).writeWaits (5 : Fin 8) (issueCycle (wh 0 1) wit9)) = true ∨ ((slot (wh 0 1) wit9).core (Fin.val (wh 0 1).core)).trelNames (5 : Fin 8) = true)) ∧
    (Issues (wh 0 1) none s1 ∧ (false = false ∨ 40 ≤ Fin.val (wh 0 1).core % 44) ∧
     Owned (wh 0 1).thread ((slot (wh 0 1) s1).core (Fin.val (wh 0 1).core)).tiles[(5 : Fin 8)] ∧
     BitVec.toNat (((slot (wh 0 1) s1).thread (wh 0 1)).getD (5 : Fin 32)) % 2 ^ 32 < ((slot (wh 0 1) s1).core (Fin.val (wh 0 1).core)).tiles[(5 : Fin 8)].rows ∧
     ((slot (wh 0 1) s1).core (Fin.val (wh 0 1).core)).readWaits (5 : Fin 8) (issueCycle (wh 0 1) s1) = false) ∧
    (Issues (wh 0 1) none s1 ∧ (false = false ∨ 40 ≤ Fin.val (wh 0 1).core % 44) ∧
     Owned (wh 0 1).thread ((slot (wh 0 1) s1).core (Fin.val (wh 0 1).core)).tiles[(5 : Fin 8)] ∧
     BitVec.toNat (((slot (wh 0 1) s1).thread (wh 0 1)).getD (5 : Fin 32)) % 2 ^ 32 < ((slot (wh 0 1) s1).core (Fin.val (wh 0 1).core)).tiles[(5 : Fin 8)].rows ∧
     ((slot (wh 0 1) s1).core (Fin.val (wh 0 1).core)).writeWaits (5 : Fin 8) (issueCycle (wh 0 1) s1) = false) ∧
    (Issues (wh 0 1) none wit17 ∧ (false = false ∨ 40 ≤ Fin.val (wh 0 1).core % 44) ∧
     Owned (wh 0 1).thread ((slot (wh 0 1) wit17).core (Fin.val (wh 0 1).core)).tiles[(5 : Fin 8)] ∧
     BitVec.toNat (((slot (wh 0 1) wit17).thread (wh 0 1)).getD (5 : Fin 32)) % 2 ^ 32 < ((slot (wh 0 1) wit17).core (Fin.val (wh 0 1).core)).tiles[(5 : Fin 8)].rows ∧
     ((slot (wh 0 1) wit17).core (Fin.val (wh 0 1).core)).readWaits (5 : Fin 8) (issueCycle (wh 0 1) wit17) = true) ∧
    (Issues (wh 0 1) none wit17 ∧ (false = false ∨ 40 ≤ Fin.val (wh 0 1).core % 44) ∧
     Owned (wh 0 1).thread ((slot (wh 0 1) wit17).core (Fin.val (wh 0 1).core)).tiles[(5 : Fin 8)] ∧
     BitVec.toNat (((slot (wh 0 1) wit17).thread (wh 0 1)).getD (5 : Fin 32)) % 2 ^ 32 < ((slot (wh 0 1) wit17).core (Fin.val (wh 0 1).core)).tiles[(5 : Fin 8)].rows ∧
     ((slot (wh 0 1) wit17).core (Fin.val (wh 0 1).core)).writeWaits (5 : Fin 8) (issueCycle (wh 0 1) wit17) = true) ∧
    (Issues (wh 0 1) none wit1 ∧
     (((slot (wh 0 1) wit1).core (Fin.val (wh 0 1).core)).tiles[(5 : Fin 8)].rows = 0 ∨ ((slot (wh 0 1) wit1).core (Fin.val (wh 0 1).core)).tiles[(5 : Fin 8)].owner = (wh 0 1).thread) ∧
     ((3 : BitVec 6) = (0 : BitVec 6) ∧ (100 : BitVec 8) = (0 : BitVec 8) ∧
     (1 : BitVec 4) = (0 : BitVec 4) ∨ ((3 : BitVec 6) ≠ (0 : BitVec 6) ∧ (100 : BitVec 8) ≠ (0 : BitVec 8) ∧
     (1 : BitVec 4) ≠ (0 : BitVec 4) ∧ (1 : BitVec 4) ≠ (15 : BitVec 4)) ∧
     BitVec.toNat (3 : BitVec 6) ≤ side (wh 0 1).core ∧
     ¬(128 < BitVec.toNat (100 : BitVec 8) ∨ side (wh 0 1).core * 128 < BitVec.toNat (3 : BitVec 6) * BitVec.toNat (100 : BitVec 8)) ∧
     BitVec.toNat (100 : BitVec 8) % 2 = 0) ∧
     ((slot (wh 0 1) wit1).core (Fin.val (wh 0 1).core)).writeWaits (5 : Fin 8) (issueCycle (wh 0 1) wit1) = false) ∧
    (Issues (wh 0 1) none wit2 ∧
     (((slot (wh 0 1) wit2).core (Fin.val (wh 0 1).core)).tiles[(5 : Fin 8)].rows = 0 ∨ ((slot (wh 0 1) wit2).core (Fin.val (wh 0 1).core)).tiles[(5 : Fin 8)].owner = (wh 0 1).thread) ∧
     ((3 : BitVec 6) = (0 : BitVec 6) ∧ (100 : BitVec 8) = (0 : BitVec 8) ∧
     (1 : BitVec 4) = (0 : BitVec 4) ∨ ((3 : BitVec 6) ≠ (0 : BitVec 6) ∧ (100 : BitVec 8) ≠ (0 : BitVec 8) ∧
     (1 : BitVec 4) ≠ (0 : BitVec 4) ∧ (1 : BitVec 4) ≠ (15 : BitVec 4)) ∧
     BitVec.toNat (3 : BitVec 6) ≤ side (wh 0 1).core ∧
     ¬(128 < BitVec.toNat (100 : BitVec 8) ∨ side (wh 0 1).core * 128 < BitVec.toNat (3 : BitVec 6) * BitVec.toNat (100 : BitVec 8)) ∧
     BitVec.toNat (100 : BitVec 8) % 2 = 0) ∧
     ((slot (wh 0 1) wit2).core (Fin.val (wh 0 1).core)).writeWaits (5 : Fin 8) (issueCycle (wh 0 1) wit2) = true) ∧
    (Issues (wh 33 1) none wit3 ∧
     (((slot (wh 33 1) wit3).core (Fin.val (wh 33 1).core)).tiles[(5 : Fin 8)].rows = 0 ∨ ((slot (wh 33 1) wit3).core (Fin.val (wh 33 1).core)).tiles[(5 : Fin 8)].owner = (wh 33 1).thread) ∧
     (9 : BitVec 6) ≠ (0 : BitVec 6) ∧ (100 : BitVec 8) ≠ (0 : BitVec 8) ∧ (1 : BitVec 4) ≠ (0 : BitVec 4) ∧
     (1 : BitVec 4) ≠ (15 : BitVec 4) ∧ side (wh 33 1).core < BitVec.toNat (9 : BitVec 6)) ∧
    (Issues (wh 0 1) none wit1 ∧
     (((slot (wh 0 1) wit1).core (Fin.val (wh 0 1).core)).tiles[(5 : Fin 8)].rows = 0 ∨ ((slot (wh 0 1) wit1).core (Fin.val (wh 0 1).core)).tiles[(5 : Fin 8)].owner = (wh 0 1).thread) ∧
     ¬((0 : BitVec 6) = (0 : BitVec 6) ∧ (100 : BitVec 8) = (0 : BitVec 8) ∧ (1 : BitVec 4) = (0 : BitVec 4)) ∧
     ¬((0 : BitVec 6) ≠ (0 : BitVec 6) ∧ (100 : BitVec 8) ≠ (0 : BitVec 8) ∧ (1 : BitVec 4) ≠ (0 : BitVec 4) ∧
     (1 : BitVec 4) ≠ (15 : BitVec 4))) ∧
    (Issues (wh 0 1) none wit8 ∧
     Owned (wh 0 1).thread ((slot (wh 0 1) wit8).core (Fin.val (wh 0 1).core)).tiles[(5 : Fin 8)] ∧
     (false = false ∨ 8 ≤ ((slot (wh 0 1) wit8).core (Fin.val (wh 0 1).core)).tiles[(5 : Fin 8)].fmt.toNat ∧
     ((slot (wh 0 1) wit8).core (Fin.val (wh 0 1).core)).tiles[(5 : Fin 8)].fmt.toNat ≤ 12) ∧
     ¬(BitVec.toNat (((slot (wh 0 1) wit8).thread (wh 0 1)).getA (2 : Fin 16)) % 8 = 0 ∧
     BitVec.toNat (((slot (wh 0 1) wit8).thread (wh 0 1)).getA (9 : Fin 16)) % 8 = 0)) ∧
    (Issues (wh 0 1) none wit15 ∧ (false = false ∨ 40 ≤ Fin.val (wh 0 1).core % 44) ∧
     Owned (wh 0 1).thread ((slot (wh 0 1) wit15).core (Fin.val (wh 0 1).core)).tiles[(5 : Fin 8)] ∧
     ((slot (wh 0 1) wit15).core (Fin.val (wh 0 1).core)).tiles[(5 : Fin 8)].rows ≤ BitVec.toNat (((slot (wh 0 1) wit15).thread (wh 0 1)).getD (5 : Fin 32)) % 2 ^ 32) ∧
    (Issues (wh 0 1) none wit16 ∧ (false = false ∨ 40 ≤ Fin.val (wh 0 1).core % 44) ∧
     ((slot (wh 0 1) wit16).core (Fin.val (wh 0 1).core)).tiles[(5 : Fin 8)].rows ≠ 0 ∧
     ((slot (wh 0 1) wit16).core (Fin.val (wh 0 1).core)).tiles[(5 : Fin 8)].owner ≠ (wh 0 1).thread) ∧
    (Issues (wh 0 1) none r1 ∧ Alone (wh 0 1) r1 ∧ ((slot (wh 0 1) r1).thread (wh 0 1)).mode = true ∧
     (∀ (t : Fin 8), BitVec.getLsbD (outValue (wh 0 1) (5 : Fin 32) r1) (Fin.val t) = true → ((slot (wh 0 1) r1).core (Fin.val (wh 0 1).core)).matLocks t = false ∧
     ((slot (wh 0 1) r1).core (Fin.val (wh 0 1).core)).moveLocks t = false)) ∧
    (Issues (wh 0 1) none r1 ∧ Alone (wh 0 1) r1 ∧ ((slot (wh 0 1) r1).thread (wh 0 1)).mode = true ∧
     (BitVec.getLsbD (outValue (wh 0 1) (5 : Fin 32) r1) 31 = false ∨ BitVec.toNat (outValue (wh 0 1) (5 : Fin 32) r1) / 2 ^ 16 % 8 = Fin.val (5 : Fin 8) ∧
     (((slot (wh 0 1) r1).core (Fin.val (wh 0 1).core)).tiles[(5 : Fin 8)].rows = 0 ∨ ((slot (wh 0 1) r1).core (Fin.val (wh 0 1).core)).tiles[(5 : Fin 8)].rows ≤ BitVec.toNat (outValue (wh 0 1) (5 : Fin 32) r1) % 2 ^ 6))) ∧
    (Issues (wh 0 1) none wit20 ∧ Alone (wh 0 1) wit20 ∧ ((slot (wh 0 1) wit20).thread (wh 0 1)).mode = true ∧
     (∃ t, BitVec.getLsbD (outValue (wh 0 1) (5 : Fin 32) wit20) (Fin.val t) = true ∧
     (((slot (wh 0 1) wit20).core (Fin.val (wh 0 1).core)).matLocks t = true ∨ ((slot (wh 0 1) wit20).core (Fin.val (wh 0 1).core)).moveLocks t = true))) ∧
    (Issues (wh 0 1) none wit5 ∧
     Owned (wh 0 1).thread ((slot (wh 0 1) wit5).core (Fin.val (wh 0 1).core)).tiles[(5 : Fin 8)] ∧
     (¬(true = false ∨ 8 ≤ ((slot (wh 0 1) wit5).core (Fin.val (wh 0 1).core)).tiles[(5 : Fin 8)].fmt.toNat ∧
     ((slot (wh 0 1) wit5).core (Fin.val (wh 0 1).core)).tiles[(5 : Fin 8)].fmt.toNat ≤ 12))) ∧
    (Issues (wh 0 1) none wit10 ∧ ((slot (wh 0 1) wit10).core (Fin.val (wh 0 1).core)).tiles[(5 : Fin 8)].rows ≠ 0 ∧
     ((slot (wh 0 1) wit10).core (Fin.val (wh 0 1).core)).tiles[(5 : Fin 8)].owner ≠ (wh 0 1).thread) ∧
    (Issues (wh 0 1) none s1 ∧ Fin.val (wh 0 1).core % 44 < 40 ∧ true = true) ∧
    (Issues (wh 0 1) none wit40 ∧ (false = false ∨ 40 ≤ Fin.val (wh 0 1).core % 44) ∧
     ((slot (wh 0 1) wit40).core (Fin.val (wh 0 1).core)).tiles[(5 : Fin 8)].rows = 0) ∧
    (Issues (wh 0 1) none wit4 ∧
     (¬(((slot (wh 0 1) wit4).core (Fin.val (wh 0 1).core)).tiles[(5 : Fin 8)].rows = 0 ∨ ((slot (wh 0 1) wit4).core (Fin.val (wh 0 1).core)).tiles[(5 : Fin 8)].owner = (wh 0 1).thread))) ∧
    (Issues (wh 0 1) none wit11 ∧
     ((slot (wh 0 1) wit11).core (Fin.val (wh 0 1).core)).tiles[(5 : Fin 8)].rows = 0) := by
  repeat' first | decide +kernel | rfl | (intro _; rfl) | constructor | unfold Owned | unfold Alone

/-- The premises of `Obligations.TileMovesRowByRow` can be met. -/
theorem witness_TileMovesRowByRow :
    (Fin.val (0 : CoreId) % 44 < 32 ∧ wit38.hw.later = [] ∧ (wit38.hw.core (Fin.val (0 : CoreId))).frozenAt = none ∧
     (wit38.hw.core (Fin.val (0 : CoreId))).tileMove = some wit37 ∧ wit37.x = false ∧
     (wit38.hw.core (Fin.val (0 : CoreId))).drains = [] ∧ (wit38.hw.core (Fin.val (0 : CoreId))).stream = none ∧
     (wit38.hw.core (Fin.val (0 : CoreId))).cinv = none ∧ wit38.hw.acted = false ∧
     ((wit38.hw.core (Fin.val (0 : CoreId))).thread wit37.thread).stopReq = false ∧ wit37.row % 2 = 0 ∧
     wit37.row + 2 < (wit38.hw.core (Fin.val (0 : CoreId))).tiles[wit37.t].rows ∧
     (BitVec.toNat wit37.base + BitVec.toNat wit37.stride * wit37.row) % 2 ^ 48 + (wit38.hw.core (Fin.val (0 : CoreId))).tiles[wit37.t].rbytes ≤ 0x180000 ∧
     (BitVec.toNat wit37.base + BitVec.toNat wit37.stride * (wit37.row + 1)) % 2 ^ 48 + (wit38.hw.core (Fin.val (0 : CoreId))).tiles[wit37.t].rbytes ≤ 0x180000) ∧
    ((wit26.hw.core (Fin.val (0 : CoreId))).frozenAt = none ∧
     (wit26.hw.core (Fin.val (0 : CoreId))).tileMove = some wit25 ∧
     (((wit26.hw.reachCycle (Fin.val (0 : CoreId)) (wit25.last + 1)).caughtUp (0 : CoreId)).core (Fin.val (0 : CoreId))).tiles[wit25.t] = ((((wit26.hw.reachCycle (Fin.val (0 : CoreId)) (wit25.last + 1)).caughtUp (0 : CoreId)).coreEvent (0 : CoreId) 0).core (Fin.val (0 : CoreId))).tiles[wit25.t] ∧
     ((((wit26.hw.reachCycle (Fin.val (0 : CoreId)) (wit25.last + 1)).caughtUp (0 : CoreId)).coreEvent (0 : CoreId) 0).core (Fin.val (0 : CoreId))).tileMove = some wit25 ∧
     wit25.x = false ∧
     ((((wit26.hw.reachCycle (Fin.val (0 : CoreId)) (wit25.last + 1)).caughtUp (0 : CoreId)).coreEvent (0 : CoreId) 0).core (Fin.val (0 : CoreId))).tiles[wit25.t].rbytes ≤ 128 ∧
     (32 ≤ Fin.val (0 : CoreId) % 44 ∨ wit25.row % 2 = 1) ∧
     ((((wit26.hw.reachCycle (Fin.val (0 : CoreId)) (wit25.last + 1)).caughtUp (0 : CoreId)).coreEvent (0 : CoreId) 0).thread { core := (0 : CoreId), thread := wit25.thread : Who }).stopReq = false ∧
     ((BitVec.toNat wit25.base + BitVec.toNat wit25.stride * wit25.row) % 2 ^ 48 + ((((wit26.hw.reachCycle (Fin.val (0 : CoreId)) (wit25.last + 1)).caughtUp (0 : CoreId)).coreEvent (0 : CoreId) 0).core (Fin.val (0 : CoreId))).tiles[wit25.t].rbytes ≤ if Fin.val (0 : CoreId) % 44 < 32 then 0x180000 else spadSize (Fin.val (0 : CoreId))) ∧
     wit25.store = true ∧
     (∀ f ∈ (((((wit26.hw.reachCycle (Fin.val (0 : CoreId)) (wit25.last + 1)).caughtUp (0 : CoreId)).coreEvent (0 : CoreId) 0).core (Fin.val (0 : CoreId))).frameLog ((((wit26.hw.reachCycle (Fin.val (0 : CoreId)) (wit25.last + 1)).caughtUp (0 : CoreId)).coreEvent (0 : CoreId) 0).cycle (Fin.val (0 : CoreId)))).acts, f.slot ≤ 1)) ∧
    ((wit34.hw.core (Fin.val (40 : CoreId))).frozenAt = none ∧
     (wit34.hw.core (Fin.val (40 : CoreId))).tileMove = some wit33 ∧
     (((wit34.hw.reachCycle (Fin.val (40 : CoreId)) (wit33.last + 1)).caughtUp (40 : CoreId)).core (Fin.val (40 : CoreId))).tiles[wit33.t] = ((((wit34.hw.reachCycle (Fin.val (40 : CoreId)) (wit33.last + 1)).caughtUp (40 : CoreId)).coreEvent (40 : CoreId) 0).core (Fin.val (40 : CoreId))).tiles[wit33.t] ∧
     ((((wit34.hw.reachCycle (Fin.val (40 : CoreId)) (wit33.last + 1)).caughtUp (40 : CoreId)).coreEvent (40 : CoreId) 0).core (Fin.val (40 : CoreId))).tileMove = some wit33 ∧
     wit33.x = false ∧
     ((((wit34.hw.reachCycle (Fin.val (40 : CoreId)) (wit33.last + 1)).caughtUp (40 : CoreId)).coreEvent (40 : CoreId) 0).core (Fin.val (40 : CoreId))).tiles[wit33.t].rbytes ≤ 128 ∧
     (32 ≤ Fin.val (40 : CoreId) % 44 ∨ wit33.row % 2 = 1) ∧
     ((((wit34.hw.reachCycle (Fin.val (40 : CoreId)) (wit33.last + 1)).caughtUp (40 : CoreId)).coreEvent (40 : CoreId) 0).thread { core := (40 : CoreId), thread := wit33.thread : Who }).stopReq = false ∧
     0 < ((((wit34.hw.reachCycle (Fin.val (40 : CoreId)) (wit33.last + 1)).caughtUp (40 : CoreId)).coreEvent (40 : CoreId) 0).core (Fin.val (40 : CoreId))).tiles[wit33.t].rbytes ∧
     0x80000000 ≤ (BitVec.toNat wit33.base + BitVec.toNat wit33.stride * wit33.row) % 2 ^ 48 ∧
     (BitVec.toNat wit33.base + BitVec.toNat wit33.stride * wit33.row) % 2 ^ 48 + ((((wit34.hw.reachCycle (Fin.val (40 : CoreId)) (wit33.last + 1)).caughtUp (40 : CoreId)).coreEvent (40 : CoreId) 0).core (Fin.val (40 : CoreId))).tiles[wit33.t].rbytes ≤ 0x1000000000) ∧
    ((wit24.hw.core (Fin.val (0 : CoreId))).frozenAt = none ∧
     (wit24.hw.core (Fin.val (0 : CoreId))).tileMove = some wit23 ∧
     (((wit24.hw.reachCycle (Fin.val (0 : CoreId)) (wit23.last + 1)).caughtUp (0 : CoreId)).core (Fin.val (0 : CoreId))).tiles[wit23.t] = ((((wit24.hw.reachCycle (Fin.val (0 : CoreId)) (wit23.last + 1)).caughtUp (0 : CoreId)).coreEvent (0 : CoreId) 0).core (Fin.val (0 : CoreId))).tiles[wit23.t] ∧
     ((((wit24.hw.reachCycle (Fin.val (0 : CoreId)) (wit23.last + 1)).caughtUp (0 : CoreId)).coreEvent (0 : CoreId) 0).core (Fin.val (0 : CoreId))).tileMove = some wit23 ∧
     wit23.x = false ∧
     ((((wit24.hw.reachCycle (Fin.val (0 : CoreId)) (wit23.last + 1)).caughtUp (0 : CoreId)).coreEvent (0 : CoreId) 0).core (Fin.val (0 : CoreId))).tiles[wit23.t].rbytes ≤ 128 ∧
     (32 ≤ Fin.val (0 : CoreId) % 44 ∨ wit23.row % 2 = 1) ∧
     ((((wit24.hw.reachCycle (Fin.val (0 : CoreId)) (wit23.last + 1)).caughtUp (0 : CoreId)).coreEvent (0 : CoreId) 0).thread { core := (0 : CoreId), thread := wit23.thread : Who }).stopReq = false ∧
     ((BitVec.toNat wit23.base + BitVec.toNat wit23.stride * wit23.row) % 2 ^ 48 + ((((wit24.hw.reachCycle (Fin.val (0 : CoreId)) (wit23.last + 1)).caughtUp (0 : CoreId)).coreEvent (0 : CoreId) 0).core (Fin.val (0 : CoreId))).tiles[wit23.t].rbytes ≤ if Fin.val (0 : CoreId) % 44 < 32 then 0x180000 else spadSize (Fin.val (0 : CoreId))) ∧
     wit23.store = false) ∧
    ((sr.hw.core (Fin.val (0 : CoreId))).trelNext (sr.hw.cycle (Fin.val (0 : CoreId))) = some ((32 : W32), 1000) ∧
     BitVec.getLsbD (32 : W32) (Fin.val (5 : Fin 8)) = true) := by
  and_intros <;> decide +kernel

end Sys2Proof.Tests.TileWork

namespace Sys2Proof.Tests.Housing

def sd (v : Nat) (f : Thread → Thread := id) (g : Core → Core := id) (h : Hw → Hw := id) (c := 0) (m : Mem := []) := run c 1 (fun th => f { th with d := th.d.set 5 (BitVec.ofNat 64 v) }) g h m
def win : Window := { base := 0x180000, limit := 0x181000, maskLo := 0x8, maskHi := 0x80000000 }
def u0 (src : Nat) (rem : Bool) (acc : Option Nat := none) (bad := false) (due := 60) : Unit3 := { src := src, off := 0x180100, data := toBytes 8 0x1122334455667788, remote := rem, bad := bad, origin := .tuple 46 2 3 7 37, injected := 55, due := due, accepted := acc }
def hk (us : List Unit3) (k : Core) : Core := { k with winActive := k.winActive.set 2 win, winShadow := k.winShadow.set 1 win, unitQ := us, unitFrom := 30 }
def wit1 := sd 1 id (hk [])
def wit2 := sd 0 id (hk [])
def ua (us : List Unit3) (f : Core → Core := id) := sd 1 id (fun k => f (hk us k))
def wit5 := u0 3 true
def wit6 := ua [u0 5 true, u0 3 true]
def wit7 := u0 4 true
def wit8 := ua [u0 5 true, u0 4 true]
def wit11 := ua [u0 5 true, u0 4 true] (fun k => {k with held := true})
def wit15 := (ua [u0 5 true, u0 3 true]).hw.core 0
def wit16 := u0 5 true
def iu : ImemUnit := { src := 3, addr := 0x100, data := toBytes 8 0x1122334455667788, origin := .tuple 46 2 3 7 37, injected := 55, due := 1100 }
def wit17 := u0 3 true (some 9)
def wit18 := ua [u0 5 true, u0 3 true (some 9)] (fun k => {k with imemQ := [iu]})
def wit20 := ua [u0 5 true, u0 3 true (some 1007)] (fun k => {k with imemQ := [iu], held := true})
def ut : State := ua [{u0 5 true with due := 1100}, {u0 3 true with due := 1200}]
def wit21 := ut.hw.core 0
def wit22 := {u0 5 true with due := 1100}

/-- The premises of `Obligations.HousingUnitsAreAcceptedAndWritten` can be met. -/
theorem witness_HousingUnitsAreAcceptedAndWritten :
    ((∀ v ∈ (wit8.hw.core (Fin.val (0 : CoreId))).unitQ, v.flit = 0) ∧
     (wit8.hw.core (Fin.val (0 : CoreId))).frozenAt = none ∧
     (wit8.hw.core (Fin.val (0 : CoreId))).unitNext (max (wit8.hw.core (Fin.val (0 : CoreId))).unitFrom wit8.hw.clock) = some (wit7, 1000) ∧
     (((wit8.hw.event 1000).caughtUp (0 : CoreId)).core (Fin.val (0 : CoreId))).held = false ∧ wit7.remote = true ∧
     (wit7.bad = true ∨ ¬Admitted (0 : CoreId) wit7.src wit7.off wit7.data.length (((wit8.hw.event 1000).caughtUp (0 : CoreId)).core (Fin.val (0 : CoreId))))) ∧
    ((List.find? (fun x => x.accepted.isSome) (wit18.hw.core (Fin.val (0 : CoreId))).unitQ = some wit17) ∧
     wit17.accepted = some 9 ∧ wit17.reads = 0 ∧ (wit18.hw.core (Fin.val (0 : CoreId))).frozenAt = none ∧
     (wit18.hw.core (Fin.val (0 : CoreId))).rowDue (0 : CoreId) (max (4 * ((9 / 4 : Nat) + 1) + 3) (wit18.hw.cycle (Fin.val (0 : CoreId)))) = false ∧
     (∀ f ∈ (((wit18.hw.coreEvent (0 : CoreId) (4 * ((9 / 4 : Nat) + 1) + 3)).core (Fin.val (0 : CoreId))).frameLog ((wit18.hw.coreEvent (0 : CoreId) (4 * ((9 / 4 : Nat) + 1) + 3)).cycle (Fin.val (0 : CoreId)))).acts, f.slot ≤ 3)) ∧
    ((∀ v ∈ (wit6.hw.core (Fin.val (0 : CoreId))).unitQ, v.flit = 0) ∧
     (wit6.hw.core (Fin.val (0 : CoreId))).frozenAt = none ∧
     (wit6.hw.core (Fin.val (0 : CoreId))).unitNext (max (wit6.hw.core (Fin.val (0 : CoreId))).unitFrom wit6.hw.clock) = some (wit5, 1000) ∧
     (((wit6.hw.event 1000).caughtUp (0 : CoreId)).core (Fin.val (0 : CoreId))).held = false ∧
     (wit5.remote = false ∨ wit5.bad = false ∧
     Admitted (0 : CoreId) wit5.src wit5.off wit5.data.length (((wit6.hw.event 1000).caughtUp (0 : CoreId)).core (Fin.val (0 : CoreId))))) ∧
    (Issues (wh 0 1) none wit1 ∧ Alone (wh 0 1) wit1 ∧ ((slot (wh 0 1) wit1).thread (wh 0 1)).mode = true ∧
     BitVec.getLsbD (outValue (wh 0 1) (5 : Fin 32) wit1) 0 = true) ∧
    (Issues (wh 0 1) none wit2 ∧ Alone (wh 0 1) wit2 ∧ ((slot (wh 0 1) wit2).thread (wh 0 1)).mode = true ∧
     BitVec.getLsbD (outValue (wh 0 1) (5 : Fin 32) wit2) 0 = false) ∧
    ((∀ v ∈ (wit11.hw.core (Fin.val (0 : CoreId))).unitQ, v.flit = 0) ∧
     (wit11.hw.core (Fin.val (0 : CoreId))).frozenAt = none ∧
     (wit11.hw.core (Fin.val (0 : CoreId))).unitNext (max (wit11.hw.core (Fin.val (0 : CoreId))).unitFrom wit11.hw.clock) = some (wit7, 1000) ∧
     (((wit11.hw.event 1000).caughtUp (0 : CoreId)).core (Fin.val (0 : CoreId))).held = true) ∧
    (wit15.unitNext 1000 = some (wit5, 1000) ∧ wit16 ∈ wit15.unitQ ∧ Waits wit16 ∧ wit16.due ≤ 1000) ∧
    (wit21.unitNext 1000 = some (wit22, 1100) ∧ 1000 < 1100 ∧ wit22 ∈ wit21.unitQ ∧ Waits wit22) ∧
    ((wit18.hw.core (Fin.val (0 : CoreId))).imemQ = [iu] ∧ iu.flit = 0 ∧
     ((wit18.hw.event (max (max (wit18.hw.core (Fin.val (0 : CoreId))).imemFrom wit18.hw.clock) iu.due)).core (Fin.val (0 : CoreId))).held = false) ∧
    ((wit20.hw.core (Fin.val (0 : CoreId))).imemQ = [iu] ∧ iu.flit = 0 ∧
     ((wit20.hw.event (max (max (wit20.hw.core (Fin.val (0 : CoreId))).imemFrom wit20.hw.clock) iu.due)).core (Fin.val (0 : CoreId))).held = true) := by
  repeat' first | decide +kernel | rfl | exact .inr (by unfold Admitted; decide +kernel) | exact .inr ⟨rfl, by unfold Admitted; decide +kernel⟩ | (intro _; rfl) | constructor | unfold Admitted | unfold Alone | unfold Waits

end Sys2Proof.Tests.Housing

namespace Sys2Proof.Tests.Transfers

def sd (v : Nat) (f : Thread → Thread := id) (g : Core → Core := id) (h : Hw → Hw := id) (c := 0) (m : Mem := []) := run c 1 (fun th => f { th with d := th.d.set 5 (BitVec.ofNat 64 v) }) g h m
def nilX : List XReq := []
def xs (src dst len ctl : Nat) (f : Thread → Thread := id) (q : List XReq := []) := sd 0 (fun th => f {th with xsrc := BitVec.ofNat 64 src, xdst := BitVec.ofNat 64 dst, xlen := BitVec.ofNat 32 len, xctl := BitVec.ofNat 32 ctl, xseq := 65535}) id (fun h => h.updBent 0 (fun b => {b with engines := b.engines.set 2 q}))
def r1 : XReq := { owner := .thread (wh 0 1), reqId := 4, home := 0, src := 0x180008, dst := 0x180020, len := 72, dspace := false, dcore := 0, even := true, evt := 5, seq := 9 }
def xr : XResult := { seq := 5, code := 2, eng := 1, bytes := 77 }
def w0 := wh 0 1
def c1 := xs 0x180000 0x180100 0x80 2
def wit2 := xs 0x180000 0x180100 0x80 0x8002 (fun th => {th with mode := false})
def wit3 := xs 0x180001 0x180100 0x80 0x102
def wit4 := xs 0x90000000 0x180100 0x80 2
def wit5 := xs 0x180000 0x180100 0x80 2 (fun th => {th with xallow := 0, xres := [xr]})
def wit6 := xs 0x180000 0x180100 0x80 2 id (List.replicate 16 r1)
def dm : Mem := memWriteN (locScratch 0 0x180000) (toBytes 128 (2^1023/7)) []
def xe (r : XReq) (f : Bent → Bent := id) (g : Core → Core := id) : State := sd 0 (fun th => {th with xoutstanding := 2}) g (fun h => h.updBent 0 (fun b => f {b with engines := b.engines.set 2 [r]})) 0 dm
def b0 : BentId := 0
def wit11 := xe r1
def rd : Unit3 := { src := 0, off := 0x180008, data := [], reads := 32, remote := false, origin := .transfer 0 2 4 0, injected := 55, due := 60, accepted := some 999 }
def pu : XUnit := { off := 0, n := 32, src := .scratch 0, dst := .scratch 0, pieces := 1 }
def r6 : XReq := {r1 with next := 32, open_ := [0], reading := [pu]}
def wit16 := xe r6 id (fun k => {k with unitQ := [rd]})
def pu2 : XUnit := { pu with dst := .cache [(locShared 0 0x1000, 32)] }
def r7 : XReq := {r6 with dst := 0x40001000, reading := [pu2]}
def wit17 := xe r7 id (fun k => {k with unitQ := [rd]})
def r3 : XReq := { r1 with next := 72 }
def wit18 := xe r3

/-- The premises of `Obligations.TransfersAreSubmittedAndCompleted` can be met. -/
theorem witness_TransfersAreSubmittedAndCompleted :
    ((List.find? (fun x => x.accepted.isSome) (wit17.hw.core (Fin.val (0 : CoreId))).unitQ = some rd) ∧
     rd.accepted = some 999 ∧ (wit17.hw.core (Fin.val (0 : CoreId))).frozenAt = none ∧
     (wit17.hw.core (Fin.val (0 : CoreId))).rowDue (0 : CoreId) (max (4 * ((999 / 4 : Nat) + 1) + 3) (wit17.hw.cycle (Fin.val (0 : CoreId)))) = false ∧
     Fin.val b0 = Fin.val (0 : CoreId) / 44 ∧ rd.origin = Origin.transfer b0 (2 : Fin 4) r7.reqId pu2.off ∧
     rd.reads = pu2.n ∧ 0 < pu2.n ∧ pu2.pieces = 1 ∧ pu2.got = [] ∧ pu2.err = false ∧ pu2.sent = false ∧
     (wit17.hw.bent (Fin.val b0)).engines[(2 : Fin 4)] = r7 :: nilX ∧ (∀ y ∈ nilX, y.reqId ≠ r7.reqId) ∧
     r7.reading = [pu2] ∧ r7.home = (0 : CoreId) ∧ r7.dspace = false ∧ pu2.off + pu2.n ≤ r7.len ∧
     r7.dst % 64 + pu2.off % 64 + pu2.n ≤ 64 ∧ (pu2.off % 64 = 0 ∨ r7.dst % 64 = 0) ∧ pu2.due = 0 ∧
     0x40000000 ≤ r7.dst ∧ r7.dst + r7.len ≤ 0x80000000 ∧
     pu2.dst = RowPath.cache [(locShared (Fin.val b0) (r7.dst + pu2.off - 0x40000000), pu2.n)] ∧
     ((wit17.hw.coreEvent (0 : CoreId) (4 * ((999 / 4 : Nat) + 1) + 3)).bent (Fin.val b0)).portHeld = [] ∧
     ((wit17.hw.coreEvent (0 : CoreId) (4 * ((999 / 4 : Nat) + 1) + 3)).bent (Fin.val b0)).slices = []) ∧
    ((List.find? (fun x => x.accepted.isSome) (wit16.hw.core (Fin.val (0 : CoreId))).unitQ = some rd) ∧
     rd.accepted = some 999 ∧ (wit16.hw.core (Fin.val (0 : CoreId))).frozenAt = none ∧
     (wit16.hw.core (Fin.val (0 : CoreId))).rowDue (0 : CoreId) (max (4 * ((999 / 4 : Nat) + 1) + 3) (wit16.hw.cycle (Fin.val (0 : CoreId)))) = false ∧
     Fin.val b0 = Fin.val (0 : CoreId) / 44 ∧ rd.origin = Origin.transfer b0 (2 : Fin 4) r6.reqId pu.off ∧
     rd.reads = pu.n ∧ 0 < pu.n ∧ pu.pieces = 1 ∧ pu.got = [] ∧ pu.err = false ∧ pu.sent = false ∧
     (wit16.hw.bent (Fin.val b0)).engines[(2 : Fin 4)] = r6 :: nilX ∧ (∀ y ∈ nilX, y.reqId ≠ r6.reqId) ∧
     r6.reading = [pu] ∧ r6.home = (0 : CoreId) ∧ r6.dspace = false ∧ pu.off + pu.n ≤ r6.len ∧
     r6.dst % 64 + pu.off % 64 + pu.n ≤ 64 ∧ (pu.off % 64 = 0 ∨ r6.dst % 64 = 0) ∧ pu.due = 0 ∧
     r6.dst + r6.len ≤ spadSize (Fin.val (0 : CoreId))) ∧
    (Issues w0 none wit4 ∧ Fin.val (2 : Fin 4) = BitVec.toNat ((slot w0 wit4).thread w0).xctl % 4 ∧ Alone w0 wit4 ∧
     ((slot w0 wit4).bent (Fin.val w0.core / 44)).stageQ = [] ∧
     (∀ y ∈ ((slot w0 wit4).bent (Fin.val w0.core / 44)).engines[(2 : Fin 4)], y.submitted < (slot w0 wit4).clock) ∧
     ((slot w0 wit4).thread w0).xallow ≠ 0 ∧
     ((slot w0 wit4).bent (Fin.val w0.core / 44)).engines[(2 : Fin 4)].length < 16 ∧
     BitVec.getLsbD ((slot w0 wit4).thread w0).xctl 15 = false ∧ BitVec.toNat ((slot w0 wit4).thread w0).xsrc % 8 = 0 ∧
     BitVec.toNat ((slot w0 wit4).thread w0).xdst % 8 = 0 ∧ BitVec.toNat ((slot w0 wit4).thread w0).xlen % 8 = 0 ∧
     ((slot w0 wit4).thread w0).xlen ≠ (0 : W32) ∧ 0x80000000 ≤ BitVec.toNat ((slot w0 wit4).thread w0).xsrc ∧
     BitVec.toNat ((slot w0 wit4).thread w0).xsrc + BitVec.toNat ((slot w0 wit4).thread w0).xlen ≤ 0x1000000000 ∧
     BitVec.toNat ((slot w0 wit4).thread w0).xdst + BitVec.toNat ((slot w0 wit4).thread w0).xlen ≤ spadSize (Fin.val w0.core)) ∧
    (Issues w0 none c1 ∧ Fin.val (2 : Fin 4) = BitVec.toNat ((slot w0 c1).thread w0).xctl % 4 ∧ Alone w0 c1 ∧
     ((slot w0 c1).bent (Fin.val w0.core / 44)).stageQ = [] ∧
     (∀ y ∈ ((slot w0 c1).bent (Fin.val w0.core / 44)).engines[(2 : Fin 4)], y.submitted < (slot w0 c1).clock) ∧
     ((slot w0 c1).thread w0).xallow ≠ 0 ∧ ((slot w0 c1).bent (Fin.val w0.core / 44)).engines[(2 : Fin 4)].length < 16 ∧
     BitVec.getLsbD ((slot w0 c1).thread w0).xctl 15 = false ∧ BitVec.toNat ((slot w0 c1).thread w0).xsrc % 8 = 0 ∧
     BitVec.toNat ((slot w0 c1).thread w0).xdst % 8 = 0 ∧ BitVec.toNat ((slot w0 c1).thread w0).xlen % 8 = 0 ∧
     ((slot w0 c1).thread w0).xlen ≠ (0 : W32) ∧
     BitVec.toNat ((slot w0 c1).thread w0).xsrc + BitVec.toNat ((slot w0 c1).thread w0).xlen ≤ spadSize (Fin.val w0.core) ∧
     BitVec.toNat ((slot w0 c1).thread w0).xdst + BitVec.toNat ((slot w0 c1).thread w0).xlen ≤ spadSize (Fin.val w0.core)) ∧
    (Issues w0 none wit3 ∧ Fin.val (2 : Fin 4) = BitVec.toNat ((slot w0 wit3).thread w0).xctl % 4 ∧ Alone w0 wit3 ∧
     ((slot w0 wit3).bent (Fin.val w0.core / 44)).stageQ = [] ∧
     (∀ y ∈ ((slot w0 wit3).bent (Fin.val w0.core / 44)).engines[(2 : Fin 4)], y.submitted < (slot w0 wit3).clock) ∧
     ((slot w0 wit3).thread w0).xallow ≠ 0 ∧
     ((slot w0 wit3).bent (Fin.val w0.core / 44)).engines[(2 : Fin 4)].length < 16 ∧
     BitVec.getLsbD ((slot w0 wit3).thread w0).xctl 15 = false ∧
     BitVec.toNat ((slot w0 wit3).thread w0).xsrc + BitVec.toNat ((slot w0 wit3).thread w0).xlen ≤ spadSize (Fin.val w0.core) ∧
     BitVec.toNat ((slot w0 wit3).thread w0).xdst + BitVec.toNat ((slot w0 wit3).thread w0).xlen ≤ spadSize (Fin.val w0.core) ∧
     ¬(BitVec.toNat ((slot w0 wit3).thread w0).xsrc % 8 = 0 ∧ BitVec.toNat ((slot w0 wit3).thread w0).xdst % 8 = 0 ∧
     BitVec.toNat ((slot w0 wit3).thread w0).xlen % 8 = 0 ∧ ((slot w0 wit3).thread w0).xlen ≠ (0 : W32))) ∧
    (Issues w0 none wit2 ∧ Fin.val (2 : Fin 4) = BitVec.toNat ((slot w0 wit2).thread w0).xctl % 4 ∧ Alone w0 wit2 ∧
     ((slot w0 wit2).bent (Fin.val w0.core / 44)).stageQ = [] ∧
     (∀ y ∈ ((slot w0 wit2).bent (Fin.val w0.core / 44)).engines[(2 : Fin 4)], y.submitted < (slot w0 wit2).clock) ∧
     ((slot w0 wit2).thread w0).xallow ≠ 0 ∧
     ((slot w0 wit2).bent (Fin.val w0.core / 44)).engines[(2 : Fin 4)].length < 16 ∧
     BitVec.getLsbD ((slot w0 wit2).thread w0).xctl 15 = true ∧ ((slot w0 wit2).thread w0).mode = false) ∧
    ((wit11.hw.bent (Fin.val b0)).stageQ = [] ∧ (wit11.hw.bent (Fin.val b0)).engines[(2 : Fin 4)] = r1 :: nilX ∧
     wit11.hw.devFrozen = false ∧ r1.failed = none ∧ r1.next < r1.len ∧ r1.dspace = false ∧
     r1.src + r1.len ≤ spadSize (Fin.val r1.home) ∧ readTurn r1.reading (max wit11.hw.clock r1.from_) = some 1000 ∧
     (r1.dst + r1.len ≤ spadSize (Fin.val r1.home) ∨ 0x40000000 ≤ r1.dst ∧ r1.dst + r1.len ≤ 0x80000000)) ∧
    (Issues w0 none wit6 ∧ Fin.val (2 : Fin 4) = BitVec.toNat ((slot w0 wit6).thread w0).xctl % 4 ∧ Alone w0 wit6 ∧
     ((slot w0 wit6).bent (Fin.val w0.core / 44)).stageQ = [] ∧
     (∀ y ∈ ((slot w0 wit6).bent (Fin.val w0.core / 44)).engines[(2 : Fin 4)], y.submitted < (slot w0 wit6).clock) ∧
     ((slot w0 wit6).thread w0).xallow ≠ 0 ∧
     16 ≤ ((slot w0 wit6).bent (Fin.val w0.core / 44)).engines[(2 : Fin 4)].length) ∧
    ((wit18.hw.bent (Fin.val b0)).stageQ = [] ∧ (wit18.hw.bent (Fin.val b0)).engines[(2 : Fin 4)] = r3 :: nilX ∧
     r3.owner = XOwner.thread w0 ∧ r3.open_ = [] ∧ r3.failed = none ∧ r3.len ≤ r3.next) ∧
    (Issues w0 none wit5 ∧ Fin.val (2 : Fin 4) = BitVec.toNat ((slot w0 wit5).thread w0).xctl % 4 ∧ Alone w0 wit5 ∧
     ((slot w0 wit5).bent (Fin.val w0.core / 44)).stageQ = [] ∧ ((slot w0 wit5).thread w0).xallow = 0) ∧
    (Issues w0 none c1 ∧ ((slot w0 c1).thread w0).xres = []) := by
  repeat' first | decide +kernel | rfl | (intro _; rfl) | constructor | unfold Alone

end Sys2Proof.Tests.Transfers

namespace Sys2Proof.Tests.Lines

def lh (s : State) (f d : Nat) : Hw := match s.hw.land f d with | some (a, y) => y.event a | none => s.hw
def ky := (0x001000000000 + 0x1000) / 64
def by64 := toBytes 64 (2^511/7)
def ms (rq : List MissReq) (e : Bool) : MissReg := { key := ky, reqs := rq, data := some by64, err := e, due := 1500 }
def bs8 := toBytes 8 0x1122334455667788
def so : MissReq := .store 5 bs8
def lo : LoadOp := { dest := .d 7 4 true, pieces := [(ky*64+34, 4)], got := [], uncached := false, words := 2 }
def sl (m : MissReg) := run 0 1 (fun th => {th with stall := some .load}) (fun k => {k with miss := k.miss.set 3 (some m), loads := k.loads.set 1 (some lo)})
def wit1 := ms [so] false
def wit2 := lh (sl (ms [so] false)) 0 1500
def wit3 := sl (ms [so] false)
def wit4 := ms [so] true
def wit5 := lh (sl (ms [so] true)) 0 1500
def wit6 := sl (ms [so] true)
def sl1 := sl (ms [.load 1] false)
def wit7 := ms [.load 1] false
def wit8 := lh sl1 0 1500
def ev : EvEntry := { key := ky, data := by64, mask := 0xF0F00000000000FF, serial := 7 }
def sev := run 0 1 id (fun k => {k with evb := [ev, {ev with serial := 8}], evSerial := 8, evDone := 6})
def rq (k : Nat) (w : Option (List (Nat × Byte))) (hm := 0) : MemReq := { port := 5, key := k, wr := w, owner := .miss 0 3, entered := 900, home := hm }
def me : MissReg := { key := ky, reqs := [.load 1] }
def dm : Mem := memWriteN (locScratch 0 0x180000) (toBytes 128 (2^1023/7)) (memWriteN (ky*64) by64 [])
def sls (q : MemReq) (kk : Nat := ky) := run 0 1 id (fun k => {k with miss := k.miss.set 3 (some {me with key := kk})}) (fun h => { h.updBent 0 (fun b => {b with slices := [(9, [q])]}) with xmEast := {queue := [q]}, poison := [99] }) dm
def east := Plate.east
def bb0 : BentId := 0
def s9 : Fin 64 := 9
def q1 := rq ky none
def wit9 := sls q1
def kx := 0x010000000000 / 64 + 99
def kx2 := 0x010000000000 / 64 + 98
def q3 := rq kx none
def wit11 := sls q3 kx
def q4 := rq kx2 none
def wit12 := sls q4 kx2

/-- The premises of `Obligations.LinesAreFilledWrittenBackAndServed` can be met. -/
theorem witness_LinesAreFilledWrittenBackAndServed :
    ((sev.hw.core (Fin.val (0 : CoreId))).evb = [ev, { key := ev.key, data := ev.data, mask := ev.mask, serial := 8, sent := ev.sent : EvEntry }] ∧
     (sev.hw.core (Fin.val (0 : CoreId))).cinv = none ∧ ev.sent = false ∧ ev.data.length = 64 ∧
     (∀ x ∈ [{ key := ev.key, data := ev.data, mask := ev.mask, serial := 8, sent := ev.sent : EvEntry }], x.serial ≠ ev.serial) ∧
     (0x1000000000 / 64 : Nat) + Fin.val (0 : CoreId) / 44 * 0x1000000 ≤ ev.key ∧
     ev.key < (0x1000000000 / 64 : Nat) + (Fin.val (0 : CoreId) / 44 + 1) * 0x1000000 ∧ sev.hw.later = [] ∧
     (sev.hw.bent (Fin.val (0 : CoreId) / 44)).sliceUe = [] ∧ (sev.hw.bent (Fin.val (0 : CoreId) / 44)).portHeld = [] ∧
     sgetD (ev.key % 64) [] (sev.hw.bent (Fin.val (0 : CoreId) / 44)).slices = []) ∧
    ((wit3.hw.core (Fin.val (0 : CoreId))).miss[(3 : Fin 8)] = some wit1 ∧ wit1.data = some by64 ∧ by64.length = 64 ∧
     (wit3.hw.core (Fin.val (0 : CoreId))).frozenAt = none ∧ Lands wit3.hw wit1.flit wit1.due wit2 ∧
     ((wit2.caughtUp (0 : CoreId)).core (Fin.val (0 : CoreId))).cinv = none ∧
     (∀ l ∈ ((wit2.caughtUp (0 : CoreId)).core (Fin.val (0 : CoreId))).cache, l.key % 128 ≠ wit1.key % 128) ∧
     wit1.reqs = [MissReq.store 5 bs8] ∧ 5 + bs8.length ≤ 64 ∧ wit1.err = false) ∧
    ((wit6.hw.core (Fin.val (0 : CoreId))).miss[(3 : Fin 8)] = some wit4 ∧ wit4.data = some by64 ∧ by64.length = 64 ∧
     (wit6.hw.core (Fin.val (0 : CoreId))).frozenAt = none ∧ Lands wit6.hw wit4.flit wit4.due wit5 ∧
     ((wit5.caughtUp (0 : CoreId)).core (Fin.val (0 : CoreId))).cinv = none ∧
     (∀ l ∈ ((wit5.caughtUp (0 : CoreId)).core (Fin.val (0 : CoreId))).cache, l.key % 128 ≠ wit4.key % 128) ∧
     wit4.reqs = [MissReq.store 5 bs8] ∧ 5 + bs8.length ≤ 64 ∧ wit4.err = true) ∧
    (q1.flit = 0 ∧ wit9.hw.later = [] ∧ sgetD (Fin.val s9) [] (wit9.hw.bent (Fin.val bb0)).slices = [q1] ∧
     (wit9.hw.bent (Fin.val bb0)).portHeld = [] ∧ q1.key < (0x10000000000 / 64 : Nat) ∧ q1.home = keyBent q1.key ∧
     (wit9.hw.bent (keyBent q1.key)).sliceUe = [] ∧ q1.wr = none ∧ q1.owner = ReqOwner.miss (0 : CoreId) (3 : Fin 8) ∧
     (wit9.hw.core (Fin.val (0 : CoreId))).miss[(3 : Fin 8)] = some me ∧ me.key = q1.key ∧ me.data = none) ∧
    ((sl1.hw.core (Fin.val (0 : CoreId))).miss[(3 : Fin 8)] = some wit7 ∧ wit7.data = some by64 ∧ by64.length = 64 ∧
     (sl1.hw.core (Fin.val (0 : CoreId))).frozenAt = none ∧ Lands sl1.hw wit7.flit wit7.due wit8 ∧
     ((wit8.caughtUp (0 : CoreId)).core (Fin.val (0 : CoreId))).cinv = none ∧
     (∀ l ∈ ((wit8.caughtUp (0 : CoreId)).core (Fin.val (0 : CoreId))).cache, l.key % 128 ≠ wit7.key % 128)) ∧
    (q3.flit = 0 ∧ wit11.hw.later = [] ∧ (wit11.hw.xm east).queue = [q3] ∧ (0x10000000000 / 64 : Nat) ≤ q3.key ∧
     q3.wr = none ∧ q3.owner = ReqOwner.miss (0 : CoreId) (3 : Fin 8) ∧
     (wit11.hw.core (Fin.val (0 : CoreId))).miss[(3 : Fin 8)] = some { key := kx, reqs := me.reqs, data := me.data, err := me.err, due := me.due, flit := me.flit : MissReg } ∧
     { key := kx, reqs := me.reqs, data := me.data, err := me.err, due := me.due, flit := me.flit : MissReg }.key = q3.key ∧
     { key := kx, reqs := me.reqs, data := me.data, err := me.err, due := me.due, flit := me.flit : MissReg }.data = none ∧
     wit11.hw.poison.contains (q3.key - (0x10000000000 / 64 : Nat)) = true) ∧
    (q4.flit = 0 ∧ wit12.hw.later = [] ∧ (wit12.hw.xm east).queue = [q4] ∧ (0x10000000000 / 64 : Nat) ≤ q4.key ∧
     q4.wr = none ∧ q4.owner = ReqOwner.miss (0 : CoreId) (3 : Fin 8) ∧
     (wit12.hw.core (Fin.val (0 : CoreId))).miss[(3 : Fin 8)] = some { key := kx2, reqs := me.reqs, data := me.data, err := me.err, due := me.due, flit := me.flit : MissReg } ∧
     { key := kx2, reqs := me.reqs, data := me.data, err := me.err, due := me.due, flit := me.flit : MissReg }.key = q4.key ∧
     { key := kx2, reqs := me.reqs, data := me.data, err := me.err, due := me.due, flit := me.flit : MissReg }.data = none ∧
     wit12.hw.poison.contains (q4.key - (0x10000000000 / 64 : Nat)) = false) ∧
    ({ locks := [], lockReqs := [], engines := Vector.replicate 4 [], xferSerial := 0, slices := [(9, [{ port := q1.port, key := q1.key, wr := q1.wr, owner := q1.owner, home := q1.home, entered := 901, flit := q1.flit : MemReq }, q1, { port := 4, key := q1.key, wr := q1.wr, owner := q1.owner, home := q1.home, entered := q1.entered, flit := q1.flit : MemReq }])], stageQ := [], sliceFrom := [], sliceUsed := [(9, [1000])], replyUsed := [], portUsed := [], portHeld := [], lockFrom := 0, pm := { entries := [], walks := [], bad := [] : PmCache }, pmhits := (0 : W32), pmmisses := (0 : W32), egress := [], lgen := 0, dbShadow := (0 : BitVec 44), dbActive := (0 : BitVec 44), dbPending := false, dbLast := Vector.replicate 2 (0, 0), lineTotal := (0 : W64), lineRestart := false, lineSent := 0, lineFrom := 0, trace := [], traceHead := 0, traceDrop := (0 : W32), traceQueue := (0, 0), trsel := (0 : W32), sliceUe := [], corrected := 0 : Bent }.sliceNext 9 1000 = some ({ port := 4, key := q1.key, wr := q1.wr, owner := q1.owner, home := q1.home, entered := q1.entered, flit := q1.flit : MemReq }, 1001) ∧
     q1 ∈ sgetD 9 [] { locks := [], lockReqs := [], engines := Vector.replicate 4 [], xferSerial := 0, slices := [(9, [{ port := q1.port, key := q1.key, wr := q1.wr, owner := q1.owner, home := q1.home, entered := 901, flit := q1.flit : MemReq }, q1, { port := 4, key := q1.key, wr := q1.wr, owner := q1.owner, home := q1.home, entered := q1.entered, flit := q1.flit : MemReq }])], stageQ := [], sliceFrom := [], sliceUsed := [(9, [1000])], replyUsed := [], portUsed := [], portHeld := [], lockFrom := 0, pm := { entries := [], walks := [], bad := [] : PmCache }, pmhits := (0 : W32), pmmisses := (0 : W32), egress := [], lgen := 0, dbShadow := (0 : BitVec 44), dbActive := (0 : BitVec 44), dbPending := false, dbLast := Vector.replicate 2 (0, 0), lineTotal := (0 : W64), lineRestart := false, lineSent := 0, lineFrom := 0, trace := [], traceHead := 0, traceDrop := (0 : W32), traceQueue := (0, 0), trsel := (0 : W32), sliceUe := [], corrected := 0 : Bent }.slices ∧
     q1.flit = 0) := by
  repeat' first | decide +kernel | rfl | (intro _; rfl) | constructor | unfold Lands

end Sys2Proof.Tests.Lines

namespace Sys2Proof.Tests.Patrols

def sd (v : Nat) (f : Thread → Thread := id) (g : Core → Core := id) (h : Hw → Hw := id) (c := 0) (m : Mem := []) := run c 1 (fun th => f { th with d := th.d.set 5 (BitVec.ofNat 64 v) }) g h m
def wit1 := run 0 1
def wk1 : Walk := { vpn := 1234, due := 1900 }
def pmS (f : Hw → Hw) : State := run 0 1 id id (fun h => f { h with xmWest := {pm := {walks := [wk1]}} , pmCommits := [{vpn := 1234, ent := 0x80000007, who := some (wh 0 1), arrives := 1400, src := 0}]}) (memWriteN (0x010000000000 + 0x7FFC000000 + 4*1234) (toBytes 4 0x80012345) [])
def wit2 := pmS id
def wit4 := sd 1 id (fun k => {k with pmvpn := 55, pment := 0x80800000})
def wit6 := sd 1 id (fun k => {k with pmvpn := 55, pment := 0x807FFBFF})
def pc1 : PmCommit := {vpn := 1234, ent := 0x80000007, who := some (wh 0 1), arrives := 1400, src := 0}
def wit8 := run 0 1 (fun th => {th with stall := some .port}) id (fun h => { h with xmWest := {pm := {entries := [(1234, 5), (7, 8)]}}, pmCommits := [pc1]})

/-- The premises of `Obligations.PatrolsWalksAndPageMapCommits` can be met. -/
theorem witness_PatrolsWalksAndPageMapCommits :
    (Issues (wh 0 1) none wit4 ∧ Alone (wh 0 1) wit4 ∧ ((slot (wh 0 1) wit4).thread (wh 0 1)).mode = true ∧
     BitVec.getLsbD (outValue (wh 0 1) (5 : Fin 32) wit4) 0 = true ∧
     (BitVec.toNat ((slot (wh 0 1) wit4).core (Fin.val (wh 0 1).core)).pment / 2 ^ 23 % 64 ≠ 0 ∨ BitVec.getLsbD ((slot (wh 0 1) wit4).core (Fin.val (wh 0 1).core)).pment 31 = true ∧
     0x7ffc00 ≤ BitVec.toNat ((slot (wh 0 1) wit4).core (Fin.val (wh 0 1).core)).pment % 2 ^ 23)) ∧
    (Issues (wh 0 1) none wit6 ∧ Alone (wh 0 1) wit6 ∧ ((slot (wh 0 1) wit6).thread (wh 0 1)).mode = true ∧
     BitVec.getLsbD (outValue (wh 0 1) (5 : Fin 32) wit6) 0 = true ∧
     (¬(BitVec.toNat ((slot (wh 0 1) wit6).core (Fin.val (wh 0 1).core)).pment / 2 ^ 23 % 64 ≠ 0 ∨ BitVec.getLsbD ((slot (wh 0 1) wit6).core (Fin.val (wh 0 1).core)).pment 31 = true ∧
     0x7ffc00 ≤ BitVec.toNat ((slot (wh 0 1) wit6).core (Fin.val (wh 0 1).core)).pment % 2 ^ 23))) ∧
    (wit8.hw.pmCommits = [pc1] ∧ pc1.who = some (wh 0 1) ∧
     ((wit8.hw.event pc1.arrives).thread (wh 0 1)).tstate = TState.running ∧
     ((wit8.hw.event pc1.arrives).core (Fin.val (wh 0 1).core)).frozenAt = none) ∧
    (77 < 2 ^ 33 ∧ (Plate.east = Plate.east ↔ Nat.testBit 77 6 = true) ∧ wit1.hw.poison.contains 77 = false) ∧
    ((List.find? (fun w => decide (w.vpn = BitVec.toNat (1234 : BitVec 24))) (wit2.hw.pmCache (Fin.val (48 : Fin 50))).walks = some wk1) ∧
     (wit2.hw.event wk1.due).poison.contains ((0x7ffc000000 + 4 * BitVec.toNat (1234 : BitVec 24)) / 64) = false ∧
     Ecc.ok ≠ Ecc.uncorrectable) ∧
    ((((wit1.hw.bent (Fin.val (5 : BentId))).sliceUe.any fun w => w / 8 == (0x1000000000 / 64 : Nat) + Fin.val (5 : BentId) * 0x1000000 + BitVec.toNat (77 : BitVec 18) * 64 + Fin.val (9 : Fin 64)) = false)) ∧
    (2 ^ 33 ≤ 2 ^ 33) := by
  repeat' first | decide +kernel | rfl | constructor | unfold Alone

end Sys2Proof.Tests.Patrols

namespace Sys2Proof.Tests.Routers

def base : State := { State.reset with hw := { State.reset.hw with clock := 1000 } }
def hs (f : Hw → Hw) (m : Mem := []) : State := { base with hw := f base.hw, mem := m, pending := [.endNotice] }
def fl : Flit := { serial := 3, vc := 1, src := 4, dst := 7, router := 5, inPort := 2, stamp := 8, waiting := false, hops := [(2, 6, 3), (1, 99, 0)] }
def fx (n : Nat) (vc : Fin 4) : Flit := { fl with serial := n, vc := vc, hops := [(2, 99, 0)], auto := true }
def wit1 := hs (fun h => {h with clock := 1026, flits := [fl]})
def wit2 := hs (fun h => {h with clock := 1022, flits := [fl]})
def full := (List.range 16).map (fun i => { fl with serial := 20+i, router := 6, inPort := 3, stamp := 2000, hops := [(1,99,0)]})
def wit7 := hs (fun h => {h with clock := 1026, flits := fl :: full})
def mix (a b c d : Nat) := ((List.range a).map (fun i => fx i 0) ++ (List.range b).map (fun i => fx (20+i) 1) ++ (List.range c).map (fun i => fx (40+i) 2) ++ (List.range d).map (fun i => fx (60+i) 3))
def wit8 := hs (fun h => {h with clock := 1026, flits := mix 3 9 4 5})
def wit11 := hs id
def pu (p : Nat) (k : PurlinKind) : Purlin := {core := 88, port := BitVec.ofNat 16 p, kind := k, due := 1500, serial := 4}
def pt (p : Nat) (k : PurlinKind) (f : Hw → Hw := id) := hs (fun h => f (h.updCore 88 (fun k => {k with stallLimit := 55}))  |> (fun h => {h with purlins := [pu p k]}))
def wit14 := pu 0x405 (.write 0x12345)
def wit15 := pt 0x405 (.write 0x12345)
def wit17 := pu 0x910 .read
def wit18 := pt 0x910 .read
def wit19 := pt 0x910 .read (fun h => h.updCore 88 (fun k => {k with held := true}))

/-- The premises of `Obligations.MeshAndPurlin` can be met. -/
theorem witness_MeshAndPurlin :
    (ReadyAt (Fin.val (5 : Fin 51)) (Fin.val (2 : Fin 7)) (outputCycle (Fin.val (5 : Fin 51)) (Fin.val (2 : Fin 7)) wit7) fl ∧
     fl.hops = [(Fin.val (2 : Fin 7), 6, 3), (1, 99, 0)] ∧
     fl ∈ (atOutput (Fin.val (5 : Fin 51)) (Fin.val (2 : Fin 7)) wit7).flits ∧
     (∀ g ∈ (atOutput (Fin.val (5 : Fin 51)) (Fin.val (2 : Fin 7)) wit7).flits, g.serial = fl.serial → g = fl) ∧
     (∀ g ∈ (atOutput (Fin.val (5 : Fin 51)) (Fin.val (2 : Fin 7)) wit7).flits, g.router = Fin.val (5 : Fin 51) → Option.map (fun x => x.1) g.hops.head? = some (Fin.val (2 : Fin 7)) → g.hops.head? = fl.hops.head?) ∧
     6 ≠ 99 ∧ flitBuffers fl.vc ≤ (atOutput (Fin.val (5 : Fin 51)) (Fin.val (2 : Fin 7)) wit7).buffered 6 3 fl.vc) ∧
    (wit19.hw.purlins = [wit17] ∧ wit17.port = (2320 : BitVec 16) ∧ wit17.kind = PurlinKind.read ∧
     (wit19.hw.reach wit17.due).sill.power ≠ Power.idleGated ∧
     ((wit19.hw.reach wit17.due).core (Fin.val wit17.core)).held = true ∧
     (wit19.hw.reach wit17.due).postMortem = false) ∧
    (wit18.hw.purlins = [wit17] ∧ wit17.port = (2320 : BitVec 16) ∧ wit17.kind = PurlinKind.read ∧
     (wit18.hw.reach wit17.due).sill.power ≠ Power.idleGated ∧
     ((wit18.hw.reach wit17.due).core (Fin.val wit17.core)).held = false) ∧
    (ReadyAt (Fin.val (5 : Fin 51)) (Fin.val (2 : Fin 7)) (outputCycle (Fin.val (5 : Fin 51)) (Fin.val (2 : Fin 7)) wit1) fl ∧
     fl.hops = [(Fin.val (2 : Fin 7), 6, 3), (1, 99, 0)] ∧
     outputCycle (Fin.val (5 : Fin 51)) (Fin.val (2 : Fin 7)) wit1 % 128 < 125 ∧
     (atOutput (Fin.val (5 : Fin 51)) (Fin.val (2 : Fin 7)) wit1).flits = [fl]) ∧
    (3 < 51 ∧ 40 < 51 ∧ 3 ≠ 40 ∧ 3 < 6) ∧
    (outputCycle (Fin.val (5 : Fin 51)) (Fin.val (2 : Fin 7)) wit8 % 128 < 125 ∧
     (∀ f ∈ (atOutput (Fin.val (5 : Fin 51)) (Fin.val (2 : Fin 7)) wit8).flits, ReadyAt (Fin.val (5 : Fin 51)) (Fin.val (2 : Fin 7)) (outputCycle (Fin.val (5 : Fin 51)) (Fin.val (2 : Fin 7)) wit8) f ∧
     f.hops = [(Fin.val (2 : Fin 7), 99, 0)] ∧ f.auto = true) ∧
     ((List.map (fun x => x.serial) (atOutput (Fin.val (5 : Fin 51)) (Fin.val (2 : Fin 7)) wit8).flits).Nodup)) ∧
    (wit15.hw.purlins = [wit14] ∧ wit14.port = (1029 : BitVec 16) ∧ wit14.kind = PurlinKind.write (0x12345 : W32)) ∧
    (some (1000 : W64) = some (1000 : W64) ∧ BitVec.toNat (1000 : W64) + wit11.hw.fcyc0 < rootTurn wit11.hw + 88) ∧
    (125 ≤ outputCycle (Fin.val (5 : Fin 51)) (Fin.val (2 : Fin 7)) wit2 % 128) ∧
    ((∀ (a : W64), none = some a → rootTurn wit11.hw + 88 ≤ BitVec.toNat a + wit11.hw.fcyc0)) := by
  and_intros <;> first | (intro a h; cases h; done) | decide +kernel | (unfold ReadyAt; decide +kernel)

end Sys2Proof.Tests.Routers

namespace Sys2Proof.Tests.Layouts

def base : State := { State.reset with hw := { State.reset.hw with clock := 1000 } }
def hs (f : Hw → Hw) (m : Mem := []) : State := { base with hw := f base.hw, mem := m, pending := [.endNotice] }
def le (f : Layout → Layout) (m : Mem := []) (g : Hw → Hw := id) := hs (fun h => g {h with le := f h.le}) m
def wit1 := le (fun l => {l with cutCount := 2, cutBase := 0x001000001000, cap := 100000})
def wit2 := le (fun l => {l with cutCount := 0, cutBase := 0x001000001000, cap := 100000})
def wit3 := le (fun l => {l with cutCount := 1048577, cutBase := 0x001000001000, cap := 100000, st := .running})
def D (w0 w1 w2 w4 w5 w6 w7 : Nat) : List Nat := [w0, w1, w2, (if w7 = 0 then 0 else 2^48), w4, w5, w6, w7, 0, 0,0,0,0,0,0,0]
def mem16 (ws : List Nat) (a : Nat) : Mem := memWriteN a (ws.flatMap (fun w => toBytes 8 w)) []
def ws1 := D (2^56 + 1*2^52 + 1*2^50) 10 0 0 0x1000 (2^16) (2^53)
def ldS (ws : List Nat) (f : Layout → Layout := id) := le (fun l => f {l with cutCount := 2, cutBase := 0x001000001000, cap := 100000, st := .loading, loaded := 1}) (mem16 ws 0x001000001080)
def wit4 := ldS ws1
def wit5 := ldS (D (2^57) 10 0 0 0 0 0)
def cutA : Cut := Cut.of 1 ws1 [0,0,0,0]
def cutB : Cut := { Cut.of 2 (D (2^56 + 15*2^52 + 1*2^50 + 2^20) 7 0 0 0 0 0) [0,0,0,0] with st := .wait }
def lay (cs : List (Nat × Cut)) (f : Layout → Layout := id) (m : Mem := []) (g : Hw → Hw := id) := le (fun l => f {l with cutCount := 5, cutBase := 0x001000001000, cap := 100000, st := .running, loaded := 5, cuts := cs, laid := 2, bal := 50000}) m g
def cutA1 : Cut := {cutA with succCount := 1, succPtr := 0x001000002000}
def wit7 := lay [(1, cutA)]
def wit8 := lay [(1, cutA1), (2, cutB)] id (memWriteN 0x001000002000 (toBytes 4 2) [])
def rp (w : Nat) := lay [(1, cutA)] (fun l => {l with replay := true, rplBase := 0x001000003000}) (memWriteN 0x001000003040 (toBytes 8 w) [])
def wit9 := rp (2^60 + 1*2^58 + 1*2^36 + 2*2^16)
def wit10 := rp (2*2^60 + 1*2^58 + 1*2^36 + 2*2^16)
def cutL : Cut := { cutA with st := .laid, done := 0, next := 4 }
def cutM : Cut := { cutL with kind := 15, next := 1 }
def heads (i : Nat) (l : Layout) : Layout := { l with heads := l.heads.set 4 (some i), tails := l.tails.set 4 (some 4) }
def L4 (c : Cut) := lay [(1, c)] (heads 1)
def cutK (k : Nat) : Cut := { cutL with kind := k, spec := [0x001000004008, 0x001000005030, 0x40, 0] }
def wit11 := L4 cutL
def wit12 := L4 cutM
def wit13 := L4 {cutL with energy := 101}
def wit14 := L4 {cutL with energy := 60}
def wit15 := cutK 2
def wit16 := L4 (cutK 2)
def runs (h : Hw) : Hw := h.updCore 33 (fun k => {k with runsCut := some 1})
def cutR : Cut := {cutL with st := .running}
def W (n : Nat) : W64 := BitVec.ofNat 64 n
def rm (w : Nat) : RidgeMsg := { num := 33, word := W w, who := wh 33 1, due := 1100, flit := 0 }
def en (w : Nat) (c : Cut := cutR) := lay [(1, c), (2, cutB)] id (memWriteN 0x001000002000 (toBytes 4 2) []) (fun h => { runs h with endNotices := [rm w, {rm 5 with num := 5, due := 1200}], flits := [] })
def enz (s : State) : Nat × List RidgeMsg × Hw := match s.hw.nextMsg s.hw.endNotices with | some (_, a, r, h) => (a, r, h) | none => (0, [], s.hw)
def wit21 := rm (2^63 + 1)
def wit22 := (enz (en (2^63 + 1))).1
def wit23 := (enz (en (2^63 + 1))).2.1
def wit24 := (enz (en (2^63 + 1))).2.2
def wit25 := en (2^63 + 1)
def wit26 := rm (2^63 + 2^20 + 1)
def wit27 := (enz (en (2^63 +2^20+ 1))).1
def wit28 := (enz (en (2^63 +2^20+ 1))).2.1
def wit29 := (enz (en (2^63 +2^20+ 1))).2.2
def wit30 := en (2^63+2^20+1)
def wit31 := rm 1
def wit32 := (enz (en 1)).1
def wit33 := (enz (en 1)).2.1
def wit34 := (enz (en 1)).2.2
def wit35 := en 1
def cutR1 : Cut := {cutR with succCount := 1, succPtr := 0x001000002000}
def wit40 := (enz (en (2^63 + 1) cutR1)).1
def wit41 := (enz (en (2^63 + 1) cutR1)).2.1
def wit42 := (enz (en (2^63 + 1) cutR1)).2.2
def wit43 := en (2^63 + 1) cutR1

/-- The premises of `Obligations.LayoutLoadsLaysOutAndLaunches` can be met. -/
theorem witness_LayoutLoadsLaysOutAndLaunches :
    (wit8.hw.le.st = EngineState.running ∧ wit8.hw.le.laid < wit8.hw.le.cutCount ∧ Working (layingTurn wit8) ∧
     CutAt 1 cutA1 (layingTurn wit8) ∧ cutA1.st = CutState.ready ∧ wit8.hw.le.replay = false ∧
     (∀ p ∈ (layingTurn wit8).le.cuts, p.2.st = CutState.ready → p = (1, cutA1)) ∧
     (1, cutA1) ∈ (layingTurn wit8).le.cuts ∧ (layingTurn wit8).le.lanePtr ≤ Fin.val cutA1.laneIx ∧
     cutA1.succCount = 1 ∧ Readable cutA1.succPtr 4 (layingTurn wit8) ∧ cutA1.succPtr % 4 = 0 ∧
     memNat cutA1.succPtr 4 wit8.mem = 2 ∧ 2 ≠ 1 ∧ 2 < (layingTurn wit8).le.cutCount ∧ CutAt 2 cutB (layingTurn wit8) ∧
     cutB.place = 1 ∧ (layingTurn wit8).le.tails[cutA1.laneIx] = none) ∧
    (wit9.hw.le.st = EngineState.running ∧ wit9.hw.le.laid < wit9.hw.le.cutCount ∧ Working (layingTurn wit9) ∧
     CutAt 1 cutA (layingTurn wit9) ∧ cutA.st = CutState.ready ∧ wit9.hw.le.replay = true ∧ cutA.succCount = 0 ∧
     wit9.hw.le.laid = (layingTurn wit9).le.laid ∧ wit9.hw.le.rplBase = (layingTurn wit9).le.rplBase ∧
     Readable (BitVec.toNat (layingTurn wit9).le.rplBase + 32 * (layingTurn wit9).le.laid) 32 (layingTurn wit9) ∧
     (BitVec.toNat (layingTurn wit9).le.rplBase + 32 * (layingTurn wit9).le.laid) % 32 = 0 ∧
     memNat (BitVec.toNat (layingTurn wit9).le.rplBase + 32 * (layingTurn wit9).le.laid) 8 wit9.mem / 2 ^ 36 % 2 ^ 20 = 1 ∧
     memNat (BitVec.toNat (layingTurn wit9).le.rplBase + 32 * (layingTurn wit9).le.laid) 8 wit9.mem / 2 ^ 60 = 1 ∧
     memNat (BitVec.toNat (layingTurn wit9).le.rplBase + 32 * (layingTurn wit9).le.laid) 8 wit9.mem / 2 ^ 16 % 2 ^ 20 = (layingTurn wit9).le.laid ∧
     memNat (BitVec.toNat (layingTurn wit9).le.rplBase + 32 * (layingTurn wit9).le.laid) 8 wit9.mem / 2 ^ 58 % 4 = cutA.lane ∧
     memNat (BitVec.toNat (layingTurn wit9).le.rplBase + 32 * (layingTurn wit9).le.laid) 8 wit9.mem / 2 ^ 56 % 4 = cutA.part) ∧
    (Working wit11.hw ∧ wit11.hw.le.heads[(4 : Fin 7)] = some 1 ∧
     (∀ (k : Fin 7), k ≠ (4 : Fin 7) → wit11.hw.le.heads[k] = none) ∧ CutAt 1 cutL wit11.hw ∧
     cutL.laneIx = (4 : Fin 7) ∧ (∀ p ∈ wit11.hw.le.cuts, p.2.st ≠ CutState.running) ∧ cutL.beat = false ∧
     cutL.ovl = false ∧ cutL.st = CutState.laid ∧ cutL.done = 0 ∧ 1000 * cutL.energy ≤ wit11.hw.le.cap ∧
     (1000 : ℤ) * ↑cutL.energy ≤ wit11.hw.le.bal ∧ cutL.kind ≤ 1 ∧ wit11.hw.le.launchAt ≠ wit11.hw.clock ∧
     (∀ e ∈ wit11.hw.purlins, e.core ∉ Cut.cores wit11.hw.le cutL)) ∧
    (Working wit12.hw ∧ wit12.hw.le.heads[(4 : Fin 7)] = some 1 ∧
     (∀ (k : Fin 7), k ≠ (4 : Fin 7) → wit12.hw.le.heads[k] = none) ∧ CutAt 1 cutM wit12.hw ∧
     cutM.laneIx = (4 : Fin 7) ∧ (∀ p ∈ wit12.hw.le.cuts, p.2.st ≠ CutState.running) ∧ cutM.beat = false ∧
     cutM.ovl = false ∧ cutM.st = CutState.laid ∧ cutM.done = 0 ∧ 1000 * cutM.energy ≤ wit12.hw.le.cap ∧
     (1000 : ℤ) * ↑cutM.energy ≤ wit12.hw.le.bal ∧ cutM.kind = 15 ∧ cutM.succCount = 0) ∧
    (wit43.hw.nextMsg wit43.hw.endNotices = some (wit21, wit40, wit41, wit42) ∧
     Working (({ (wit42.event wit40) with endNotices := wit41 : Hw }.updThread wit21.who Thread.noticed).event (wit40 + 1)) ∧
     BitVec.toNat wit21.word % 2 ^ 20 = 1 ∧
     CutAt 1 cutR1 (({ (wit42.event wit40) with endNotices := wit41 : Hw }.updThread wit21.who Thread.noticed).event (wit40 + 1)) ∧
     BitVec.getLsbD wit21.word 63 = true ∧ cutR1.st = CutState.running ∧
     ((({ (wit42.event wit40) with endNotices := wit41 : Hw }.updThread wit21.who Thread.noticed).event (wit40 + 1)).core wit21.num).runsCut = some 1 ∧
     BitVec.toNat wit21.word / 2 ^ 20 % 16 = 0 ∧
     (Option.map (fun x => Fin.val x) (Cut.cores (({ (wit42.event wit40) with endNotices := wit41 : Hw }.updThread wit21.who Thread.noticed).event (wit40 + 1)).le cutR1).head? = some wit21.num) ∧
     cutR1.succCount = 1 ∧
     Readable cutR1.succPtr 4 (({ (wit42.event wit40) with endNotices := wit41 : Hw }.updThread wit21.who Thread.noticed).event (wit40 + 1)) ∧
     cutR1.succPtr % 4 = 0 ∧ memNat cutR1.succPtr 4 wit43.mem = 2 ∧
     (({ (wit42.event wit40) with endNotices := wit41 : Hw }.updThread wit21.who Thread.noticed).event (wit40 + 1)).le.walkFrom ≤ 64 * (({ (wit42.event wit40) with endNotices := wit41 : Hw }.updThread wit21.who Thread.noticed).event (wit40 + 1)).clock) ∧
    (wit10.hw.le.st = EngineState.running ∧ wit10.hw.le.laid < wit10.hw.le.cutCount ∧ Working (layingTurn wit10) ∧
     CutAt 1 cutA (layingTurn wit10) ∧ cutA.st = CutState.ready ∧ wit10.hw.le.replay = true ∧ cutA.succCount = 0 ∧
     wit10.hw.le.laid = (layingTurn wit10).le.laid ∧ wit10.hw.le.rplBase = (layingTurn wit10).le.rplBase ∧
     Readable (BitVec.toNat (layingTurn wit10).le.rplBase + 32 * (layingTurn wit10).le.laid) 32 (layingTurn wit10) ∧
     (BitVec.toNat (layingTurn wit10).le.rplBase + 32 * (layingTurn wit10).le.laid) % 32 = 0 ∧
     memNat (BitVec.toNat (layingTurn wit10).le.rplBase + 32 * (layingTurn wit10).le.laid) 8 wit10.mem / 2 ^ 36 % 2 ^ 20 = 1 ∧
     memNat (BitVec.toNat (layingTurn wit10).le.rplBase + 32 * (layingTurn wit10).le.laid) 8 wit10.mem / 2 ^ 60 ≠ 1) ∧
    (Working wit16.hw ∧ wit16.hw.le.heads[(4 : Fin 7)] = some 1 ∧
     (∀ (k : Fin 7), k ≠ (4 : Fin 7) → wit16.hw.le.heads[k] = none) ∧ CutAt 1 wit15 wit16.hw ∧
     wit15.laneIx = (4 : Fin 7) ∧ (∀ p ∈ wit16.hw.le.cuts, p.2.st ≠ CutState.running) ∧ wit15.beat = false ∧
     wit15.ovl = false ∧ wit15.st = CutState.laid ∧ wit15.done = 0 ∧ 1000 * wit15.energy ≤ wit16.hw.le.cap ∧
     (1000 : ℤ) * ↑wit15.energy ≤ wit16.hw.le.bal ∧ (wit15.kind = 2 ∨ wit15.kind = 3 ∨ wit15.kind = 4)) ∧
    (Working wit14.hw ∧ wit14.hw.le.heads[(4 : Fin 7)] = some 1 ∧
     (∀ (k : Fin 7), k ≠ (4 : Fin 7) → wit14.hw.le.heads[k] = none) ∧
     CutAt 1 { cutL with energy := 60 : Cut } wit14.hw ∧ { cutL with energy := 60 : Cut }.laneIx = (4 : Fin 7) ∧
     (∀ p ∈ wit14.hw.le.cuts, p.2.st ≠ CutState.running) ∧ { cutL with energy := 60 : Cut }.beat = false ∧
     { cutL with energy := 60 : Cut }.ovl = false ∧ { cutL with energy := 60 : Cut }.st = CutState.laid ∧
     { cutL with energy := 60 : Cut }.done = 0 ∧ 1000 * { cutL with energy := 60 : Cut }.energy ≤ wit14.hw.le.cap ∧
     wit14.hw.le.bal < (1000 : ℤ) * ↑{ cutL with energy := 60 : Cut }.energy) ∧
    (Working wit13.hw ∧ wit13.hw.le.heads[(4 : Fin 7)] = some 1 ∧
     (∀ (k : Fin 7), k ≠ (4 : Fin 7) → wit13.hw.le.heads[k] = none) ∧
     CutAt 1 { cutL with energy := 101 : Cut } wit13.hw ∧ { cutL with energy := 101 : Cut }.laneIx = (4 : Fin 7) ∧
     (∀ p ∈ wit13.hw.le.cuts, p.2.st ≠ CutState.running) ∧ { cutL with energy := 101 : Cut }.beat = false ∧
     { cutL with energy := 101 : Cut }.ovl = false ∧ { cutL with energy := 101 : Cut }.st = CutState.laid ∧
     { cutL with energy := 101 : Cut }.done = 0 ∧ wit13.hw.le.cap < 1000 * { cutL with energy := 101 : Cut }.energy) ∧
    (wit7.hw.le.st = EngineState.running ∧ wit7.hw.le.laid < wit7.hw.le.cutCount ∧ Working (layingTurn wit7) ∧
     CutAt 1 cutA (layingTurn wit7) ∧ cutA.st = CutState.ready ∧ wit7.hw.le.replay = false ∧
     (∀ p ∈ (layingTurn wit7).le.cuts, p.2.st = CutState.ready → p = (1, cutA)) ∧
     (1, cutA) ∈ (layingTurn wit7).le.cuts ∧ (layingTurn wit7).le.lanePtr ≤ Fin.val cutA.laneIx ∧ cutA.succCount = 0) ∧
    (wit25.hw.nextMsg wit25.hw.endNotices = some (wit21, wit22, wit23, wit24) ∧
     Working (({ (wit24.event wit22) with endNotices := wit23 : Hw }.updThread wit21.who Thread.noticed).event (wit22 + 1)) ∧
     BitVec.toNat wit21.word % 2 ^ 20 = 1 ∧
     CutAt 1 cutR (({ (wit24.event wit22) with endNotices := wit23 : Hw }.updThread wit21.who Thread.noticed).event (wit22 + 1)) ∧
     BitVec.getLsbD wit21.word 63 = true ∧ cutR.st = CutState.running ∧
     ((({ (wit24.event wit22) with endNotices := wit23 : Hw }.updThread wit21.who Thread.noticed).event (wit22 + 1)).core wit21.num).runsCut = some 1 ∧
     BitVec.toNat wit21.word / 2 ^ 20 % 16 = 0 ∧
     (Option.map (fun x => Fin.val x) (Cut.cores (({ (wit24.event wit22) with endNotices := wit23 : Hw }.updThread wit21.who Thread.noticed).event (wit22 + 1)).le cutR).head? = some wit21.num) ∧
     cutR.succCount = 0) ∧
    (wit30.hw.nextMsg wit30.hw.endNotices = some (wit26, wit27, wit28, wit29) ∧
     Working (({ (wit29.event wit27) with endNotices := wit28 : Hw }.updThread wit26.who Thread.noticed).event (wit27 + 1)) ∧
     BitVec.toNat wit26.word % 2 ^ 20 = 1 ∧
     CutAt 1 cutR (({ (wit29.event wit27) with endNotices := wit28 : Hw }.updThread wit26.who Thread.noticed).event (wit27 + 1)) ∧
     BitVec.getLsbD wit26.word 63 = true ∧ cutR.st = CutState.running ∧
     ((({ (wit29.event wit27) with endNotices := wit28 : Hw }.updThread wit26.who Thread.noticed).event (wit27 + 1)).core wit26.num).runsCut = some 1 ∧
     BitVec.toNat wit26.word / 2 ^ 20 % 16 = 1) ∧
    ((BitVec.getLsbD (0x80000004 : W32) 31 = true ∧
     (wit1.hw.access.le.st = EngineState.idle ∨ wit1.hw.access.le.st = EngineState.done) ∧ wit1.hw.access.resets = [] ∧
     wit1.hw.access.postMortem = false) ∧ BitVec.getLsbD (0x80000004 : W32) 0 = false ∧
     BitVec.getLsbD (0x80000004 : W32) 1 = false ∧ 0 < wit1.hw.access.le.cutCount ∧
     wit1.hw.access.le.cutCount ≤ 0x100000 ∧ BitVec.toNat wit1.hw.access.le.cutBase % 128 = 0 ∧
     inOneBent (BitVec.toNat wit1.hw.access.le.cutBase) (128 * wit1.hw.access.le.cutCount) = true) ∧
    (wit4.hw.le.st = EngineState.loading ∧ (layingTurn wit4).le.st = EngineState.loading ∧
     (BitVec.toNat wit4.hw.le.cutBase + 128 * wit4.hw.le.loaded) % 64 = 0 ∧
     Readable (BitVec.toNat wit4.hw.le.cutBase + 128 * wit4.hw.le.loaded) 128 (layingTurn wit4) ∧
     ((Cut.of wit4.hw.le.loaded (desc wit4) []).kind = 2 ∨ (Cut.of wit4.hw.le.loaded (desc wit4) []).kind = 3 → (Cut.of wit4.hw.le.loaded (desc wit4) []).paramPtr % 32 = 0 ∧
     Readable (Cut.of wit4.hw.le.loaded (desc wit4) []).paramPtr 32 (layingTurn wit4)) ∧
     (loadFault wit4.hw.le (desc wit4) { (Cut.of wit4.hw.le.loaded (desc wit4) []) with spec := if (Cut.of wit4.hw.le.loaded (desc wit4) []).kind = 2 ∨ (Cut.of wit4.hw.le.loaded (desc wit4) []).kind = 3 then List.map (fun j => memNat ((Cut.of wit4.hw.le.loaded (desc wit4) []).paramPtr + 8 * j) 8 wit4.mem) (List.range 4) else [0, 0, 0, 0] : Cut } = none)) ∧
    (wit5.hw.le.st = EngineState.loading ∧ (layingTurn wit5).le.st = EngineState.loading ∧
     (BitVec.toNat wit5.hw.le.cutBase + 128 * wit5.hw.le.loaded) % 64 = 0 ∧
     Readable (BitVec.toNat wit5.hw.le.cutBase + 128 * wit5.hw.le.loaded) 128 (layingTurn wit5) ∧
     ((Cut.of wit5.hw.le.loaded (desc wit5) []).kind = 2 ∨ (Cut.of wit5.hw.le.loaded (desc wit5) []).kind = 3 → (Cut.of wit5.hw.le.loaded (desc wit5) []).paramPtr % 32 = 0 ∧
     Readable (Cut.of wit5.hw.le.loaded (desc wit5) []).paramPtr 32 (layingTurn wit5)) ∧
     (desc wit5).headD 0 / 2 ^ 56 ≠ 1) ∧
    (wit35.hw.nextMsg wit35.hw.endNotices = some (wit31, wit32, wit33, wit34) ∧
     Working (({ (wit34.event wit32) with endNotices := wit33 : Hw }.updThread wit31.who Thread.noticed).event (wit32 + 1)) ∧
     BitVec.toNat wit31.word % 2 ^ 20 = 1 ∧
     CutAt 1 cutR (({ (wit34.event wit32) with endNotices := wit33 : Hw }.updThread wit31.who Thread.noticed).event (wit32 + 1)) ∧
     (BitVec.getLsbD wit31.word 63 = false ∨ cutR.st ≠ CutState.running ∨ ((({ (wit34.event wit32) with endNotices := wit33 : Hw }.updThread wit31.who Thread.noticed).event (wit32 + 1)).core wit31.num).runsCut ≠ some 1)) ∧
    ((BitVec.getLsbD (0x80000004 : W32) 31 = true ∧
     (wit2.hw.access.le.st = EngineState.idle ∨ wit2.hw.access.le.st = EngineState.done) ∧ wit2.hw.access.resets = [] ∧
     wit2.hw.access.postMortem = false) ∧ BitVec.getLsbD (0x80000004 : W32) 0 = false ∧
     BitVec.getLsbD (0x80000004 : W32) 1 = false ∧ wit2.hw.access.le.cutCount = 0) ∧
    ((¬(BitVec.getLsbD (0x80000004 : W32) 31 = true ∧
     (wit3.hw.access.le.st = EngineState.idle ∨ wit3.hw.access.le.st = EngineState.done) ∧ wit3.hw.access.resets = [] ∧
     wit3.hw.access.postMortem = false))) ∧
    (CutAt 1 cutR wit24) := by
  repeat' first | decide +kernel | rfl | (intro h; exact absurd h (by decide +kernel)) | (intro _; rfl) | constructor | unfold Working | unfold CutAt | unfold Readable

end Sys2Proof.Tests.Layouts

namespace Sys2Proof.Tests.Overlays

def base : State := { State.reset with hw := { State.reset.hw with clock := 1000 } }
def hs (f : Hw → Hw) (m : Mem := []) : State := { base with hw := f base.hw, mem := m, pending := [.endNotice] }
def le (f : Layout → Layout) (m : Mem := []) (g : Hw → Hw := id) := hs (fun h => g {h with le := f h.le}) m
def D (w0 w1 w2 w4 w5 w6 w7 : Nat) : List Nat := [w0, w1, w2, (if w7 = 0 then 0 else 2^48), w4, w5, w6, w7, 0, 0,0,0,0,0,0,0]
def ws1 := D (2^56 + 1*2^52 + 1*2^50) 10 0 0 0x1000 (2^16) (2^53)
def cutA : Cut := Cut.of 1 ws1 [0,0,0,0]
def lay (cs : List (Nat × Cut)) (f : Layout → Layout := id) (m : Mem := []) (g : Hw → Hw := id) := le (fun l => f {l with cutCount := 5, cutBase := 0x001000001000, cap := 100000, st := .running, loaded := 5, cuts := cs, laid := 2, bal := 50000}) m g
def cutL : Cut := { cutA with st := .laid, done := 0, next := 4 }
def heads (i : Nat) (l : Layout) : Layout := { l with heads := l.heads.set 4 (some i), tails := l.tails.set 4 (some 4) }
def runs (h : Hw) : Hw := h.updCore 33 (fun k => {k with runsCut := some 1})
def cutR : Cut := {cutL with st := .running}
def W (n : Nat) : W64 := BitVec.ofNat 64 n
def rm (w : Nat) : RidgeMsg := { num := 33, word := W w, who := wh 33 1, due := 1100, flit := 0 }
def cO : Cut := { cutL with ovl := true, ovlSrc := 0x001000004000, ovlLen := 0x80, ovlDst := 0x100 }
def cS : Cut := { cO with staging := true, stageOpen := 0 }
def cSf : Cut := { cO with staging := true, stageOpen := 0, stageFail := some 3 }
def cC : Cut := { cutR with kind := 2, spec := [0x001000004008, 0x001000005030, 0x40, 0], unit := 0x10 }
def cD : Cut := { cutR with kind := 2, spec := [0x001000004008, 0x001000005030, 0x40, 0], unit := 0x40 }
def mm : Mem := memWriteN 0x001000004008 (toBytes 64 (2^511/7)) []
def l1 (c : Cut) := lay [(1, c)] (heads 1) mm runs
def cN : Cut := { cutR with kind := 4, user := 99 }
def sT := lay [] (fun l => {l with arrived := [5, 70], budget := 1000, cap := 50100, bal := 50000, meter := 7, lastTick := 8000, budgetSh := 4, capLoSh := 7, capHiSh := 1, splitSh := #v[0x80002F00, 5,0,0], logWr := 0x60, logSize := 0x80, paused := true}) [] (fun h => {h with sill := {h.sill with tcap := 600, warm := true}})
def sTf := lay [] (fun l => {l with st := .idle, splitSh := #v[0x80002F00, 0,0,0]}) [] (fun h => {h with devFrozen := true})
def sN' := lay [(1, cN)] (heads 1) mm (fun h => { runs h with stillReports := [rm 0, {rm 5 with num := 4, due := 1200}] })
def cR0 : Cut := { cutR with heldFor := 500 }
def sz (s : State) : Nat × List RidgeMsg × Hw := match s.hw.nextMsg s.hw.stillReports with | some (_, a, r, h) => (a, r, h) | none => (0, [], s.hw)
def wit1 := l1 cO
def wit2 := l1 cS
def wit3 := l1 cSf
def wit4 := l1 cC
def wit8 := l1 cD
def wit11 := l1 cR0
def wit12 := rm 0
def wit13 := (sz sN').1
def wit14 := (sz sN').2.1
def wit15 := (sz sN').2.2
def wit16 := lay [] (fun l => {l with runDrop := 5}) [] (fun h => {h with xmWest := {xce := 7}, xmEast := {xce := 9}, dom := {h.dom with dslips := 6}})
def wit17 := lay [] id [] (fun h => {h with sill := {h.sill with power := .off}})

/-- The premises of `Obligations.LayoutOverlaysCopiesAndLedger` can be met. -/
theorem witness_LayoutOverlaysCopiesAndLedger :
    (cC.kind = 2 ∧ cC.st = CutState.running ∧ cC.fault = none ∧ cC.reading = [] ∧
     CutAt (BitVec.toNat (1 : BitVec 20)) cC wit4.hw ∧ wit4.hw.devFrozen = false ∧
     CutAt (BitVec.toNat (1 : BitVec 20)) cC (wit4.hw.event (max wit4.hw.clock cC.from_)) ∧
     cC.unit < cC.spec.getD 2 0 % 2 ^ 32 ∧ inOneBent (cC.spec.getD 0 0 % 2 ^ 48) (cC.spec.getD 2 0 % 2 ^ 32) = true ∧
     (inOneBent (cC.spec.getD 1 0 % 2 ^ 48) (cC.spec.getD 2 0 % 2 ^ 32) = true ∨ (coreScratch (cC.spec.getD 1 0 % 2 ^ 48) (cC.spec.getD 2 0 % 2 ^ 32)).isSome = true)) ∧
    (CutAt 1 cO wit1.hw ∧ wit1.hw.le.st = EngineState.running ∧ wit1.hw.le.heads[(4 : Fin 7)] = some 1 ∧
     (∀ p ∈ wit1.hw.le.cuts, p.2.st ≠ CutState.running) ∧ cO.kind ≤ 1 ∧ cO.ovl = true ∧ cO.st = CutState.laid ∧
     cO.staging = false) ∧
    (cD.st = CutState.running ∧ cD.succCount = 0 ∧ cD.open_ = [] ∧ CutAt (BitVec.toNat (1 : BitVec 20)) cD wit8.hw ∧
     CutAt (BitVec.toNat (1 : BitVec 20)) cD (wit8.hw.event cD.doneAt) ∧ Working (wit8.hw.event cD.doneAt) ∧
     (cD.kind = 2 ∧ cD.spec.getD 2 0 % 2 ^ 32 ≤ cD.unit ∨ cD.kind = 3 ∧ cD.spec.getD 3 0 % 2 ^ 32 ≤ cD.unit) ∧
     cD.fault = none) ∧
    (CutAt (BitVec.toNat (1 : BitVec 20)) cSf wit3.hw ∧
     CutAt (BitVec.toNat (1 : BitVec 20)) cSf (wit3.hw.event cSf.doneAt) ∧ cSf.staging = true ∧ cSf.stageOpen = 0 ∧
     cSf.stageFail = some 3 ∧ (wit3.hw.event cSf.doneAt).le.st = EngineState.running) ∧
    (cC.st = CutState.running ∧ cC.succCount = 0 ∧ cC.open_ = [] ∧ CutAt (BitVec.toNat (1 : BitVec 20)) cC wit4.hw ∧
     CutAt (BitVec.toNat (1 : BitVec 20)) cC (wit4.hw.event cC.doneAt) ∧ Working (wit4.hw.event cC.doneAt)) ∧
    (CutAt (BitVec.toNat (1 : BitVec 20)) cR0 wit11.hw ∧
     (CutAt (BitVec.toNat (1 : BitVec 20)) cR0 (wit11.hw.event (wit11.hw.fcyc0 + ((cR0.launchedAt + cR0.heldFor + 3000 * if cR0.timeout = 0 then wit11.hw.le.defTimeout else cR0.timeout) / 3000 + 1) * 3000))) ∧
     cR0.st = CutState.running ∧ cR0.timedOut = false ∧ wit11.hw.devFrozen = false ∧
     (cR0.kind ≤ 1 → ∀ c ∈ (Cut.cores wit11.hw.le cR0).head?, (wit11.hw.core (Fin.val c)).frozenAt = none)) ∧
    (CutAt (BitVec.toNat (1 : BitVec 20)) cS wit2.hw ∧
     CutAt (BitVec.toNat (1 : BitVec 20)) cS (wit2.hw.event cS.doneAt) ∧ cS.staging = true ∧ cS.stageOpen = 0 ∧
     cS.stageFail = none) ∧
    (sN'.hw.nextMsg sN'.hw.stillReports = some (wit12, wit13, wit14, wit15) ∧
     CutAt 1 cN (({ (wit15.event wit13) with stillReports := wit14 : Hw }.updThread wit12.who Thread.noticed).event (wit13 + 1)) ∧
     ((({ (wit15.event wit13) with stillReports := wit14 : Hw }.updThread wit12.who Thread.noticed).event (wit13 + 1)).core wit12.num).runsCut = some 1 ∧
     cN.st = CutState.running) ∧
    (BitVec.getLsbD (1 : W32) 0 = true ∧ splitOk sTf.hw.access.le.splitSh.toList = true ∧
     (sTf.hw.access.le.st = EngineState.idle ∨ sTf.hw.access.le.st = EngineState.done ∨ sTf.hw.access.le.st = EngineState.error)) ∧
    (wit16.hw.board.held = false ∧ wit16.hw.firm.romHalted = false ∧
     (wit16.hw.sill.power = Power.idle ∨ wit16.hw.sill.power = Power.idleGated)) ∧
    (BitVec.getLsbD (1 : W32) 0 = true ∧
     (splitOk sT.hw.access.le.splitSh.toList = false ∨ sT.hw.access.le.st = EngineState.loading ∨ sT.hw.access.le.st = EngineState.running ∨ sT.hw.access.le.st = EngineState.draining)) ∧
    (sT.hw.devFrozen = false) ∧
    (sTf.hw.devFrozen = true) ∧
    ((wit17.hw.sill.power = Power.off ∨ wit17.hw.board.held = true)) := by
  repeat' first | decide +kernel | rfl | (intro _; rfl) | constructor | unfold CutAt | unfold Working

end Sys2Proof.Tests.Overlays

namespace Sys2Proof.Tests.Scarfs

def hs (f : Hw → Hw) (m : Mem := []) : State := { State.reset with hw := f { State.reset.hw with clock := 1000 }, mem := m, pending := [.endNotice] }
def lk (f : Link → Link) (g : Hw → Hw := id) : State := hs (fun h => g { h with links := h.links.set 2 (f {}) })
def rec0 : Rec := { kind := .tuple, dmod := 0, smod := 3, bent := 1, core := 5, mort := 4, k := 1, tag := 22, mark := true, words := [5, 6], sgcore := 50 }
def q0 : Queued := { record := rec0, vc := 1, port := 2, stamp := 7 }
def snt (n : Nat) : Sent := { seq := n, bt := 0, vc := 1, skind := 0, body := rec0.body, recs := [rec0] }
def up (x : Link) : Link := { x with state := .up, ctrl := 0x80000000, seq := 9, eseq := 5, acked := 4, credits := #v[7,7,7,7], replayBuf := [snt 7, snt 8], queues := x.queues.set 1 [q0], combine := true }
def wit1 := lk id
def wit2 := lk (fun x => {x with state := .train, since := 7})
def wit3 := lk (fun x => {x with state := .align})
def wit4 := lk up
def blk (bt vc seq sk : Nat) (body : List Byte) (x : Link := {}) : Block := { bytes := blockBytes x bt vc seq sk body, fecOk := true }
def al (n : Nat) := lk (fun x => {x with state := .align, idents := n}) (fun h => {h with dom := {h.dom with domId := 0x12345}})
def bI := blk 2 3 0 6 (toBytes 2 0x2345)
def bI2 := blk 2 3 0 6 (toBytes 2 0x2346)
def wit6 := al 1
def wit7 := al 2
def bD := blk 2 3 0 0 [] {acked := 7, freed := #v[1,2,3,63]}
def bBad : Block := { bytes := (blk 2 3 0 0 []).bytes.set 20 0x55, fecOk := false }
def bN := blk 2 3 0 1 (toBytes 2 8) {acked := 7}
def bF := blk 0 1 5 0 rec0.body {acked := 7}
def bF2 := blk 0 1 6 0 rec0.body {acked := 7}
def bE := blk 0 1 5 0 [] {acked := 7}
def wit8 := (Rec.of bF.bytes).getD rec0
def wit9 := (Rec.of bE.bytes).getD rec0
def wit10 := lk (fun x => {up x with invalidRun := 31})
def wit11 := lk (fun x => {up x with nakOpen := true, rxBlocks := x.rxBlocks.set 1 (3, 2), rxFlits := x.rxFlits.set 1 [(3, 4)]})
def tx (f : Link → Link := id) := lk (fun x => f { up x with replayBuf := [], queues := Vector.replicate 4 [] })
def wit13 := tx (fun x => {x with nakDue := true})
def wit14 := tx (fun x => {x with nakDue := true, naks := 7})
def wit15 := snt 8
def wit17 := tx (fun x => {x with resend := some 8, replayBuf := [snt 7, snt 8, snt 9]})
def wit18 := tx (fun x => {x with replayBuf := List.replicate 1024 (snt 9)})
def m1 : Nat × Nat × List Byte := (1000, 3, toBytes 8 77)
def wit19 := tx (fun x => {x with syncQ := [m1]})
def wit20 := tx
def wit22 := tx (fun x => {x with queues := x.queues.set 2 [{q0 with vc := 2}]})
def qi : Queued := { q0 with link := some 2 }
def fw (q : Queued) (f : Hw → Hw := id) := hs (fun h => f { h with recsWest := {inbox := [{q0 with stamp := 9}, q]}, dom := {h.dom with joined := true, rtAct := [(3, 0x80000002), (5, 0x8000000E)]}, links := h.links.set 2 (up {}) })
def q3 : Queued := { q0 with record := {rec0 with dmod := 3} }
def q4 : Queued := { q0 with record := {rec0 with dmod := 4} }
def q5 : Queued := { q0 with record := {rec0 with dmod := 5} }
def full := fw qi (fun h => h.updCore 49 (fun k => {k with mortises := k.mortises.set 4 (List.replicate 8 { words := [1], k := 0, tag := 0, stream := false, credit := .plate .west })}))
def wit25 := fw qi
def wit27 := fw q3
def wit30 := fw q4
def wit33 := fw q5

/-- The premises of `Obligations.ScarfLinks` can be met. -/
theorem witness_ScarfLinks :
    ((wit22.hw.event (boundary (2 : Fin 8) wit22 / 25)).link (2 : Fin 8) = wit22.hw.link (2 : Fin 8) ∧
     (wit22.hw.event (boundary (2 : Fin 8) wit22 / 25)).blocksOut = wit22.hw.blocksOut ∧
     (wit22.hw.link (2 : Fin 8)).state = LState.up ∧ (wit22.hw.link (2 : Fin 8)).nakDue = false ∧
     (wit22.hw.link (2 : Fin 8)).resend = none ∧ (wit22.hw.link (2 : Fin 8)).replayBuf.length < 1024 ∧
     ((wit22.hw.link (2 : Fin 8)).credits[3] = 0 ∨ ∀ m ∈ (wit22.hw.link (2 : Fin 8)).syncQ, (wit22.hw.event (boundary (2 : Fin 8) wit22 / 25)).clock < m.1) ∧
     (wit22.hw.link (2 : Fin 8)).flit = none ∧ (wit22.hw.link (2 : Fin 8)).flitReady (2 : Fin 4) ≠ [] ∧
     (wit22.hw.link (2 : Fin 8)).flits % 2 = 0) ∧
    ((wit19.hw.event (boundary (2 : Fin 8) wit19 / 25)).link (2 : Fin 8) = wit19.hw.link (2 : Fin 8) ∧
     (wit19.hw.event (boundary (2 : Fin 8) wit19 / 25)).blocksOut = wit19.hw.blocksOut ∧
     (wit19.hw.link (2 : Fin 8)).state = LState.up ∧ (wit19.hw.link (2 : Fin 8)).nakDue = false ∧
     (wit19.hw.link (2 : Fin 8)).resend = none ∧ (wit19.hw.link (2 : Fin 8)).replayBuf.length < 1024 ∧
     (wit19.hw.link (2 : Fin 8)).syncQ = [m1] ∧ m1.1 ≤ (wit19.hw.event (boundary (2 : Fin 8) wit19 / 25)).clock ∧
     0 < (wit19.hw.link (2 : Fin 8)).credits[3]) ∧
    ((wit20.hw.event (boundary (2 : Fin 8) wit20 / 25)).link (2 : Fin 8) = wit20.hw.link (2 : Fin 8) ∧
     (wit20.hw.event (boundary (2 : Fin 8) wit20 / 25)).blocksOut = wit20.hw.blocksOut ∧
     (wit20.hw.link (2 : Fin 8)).state = LState.up ∧ (wit20.hw.link (2 : Fin 8)).nakDue = false ∧
     (wit20.hw.link (2 : Fin 8)).resend = none ∧ (wit20.hw.link (2 : Fin 8)).replayBuf.length < 1024 ∧
     ((wit20.hw.link (2 : Fin 8)).credits[3] = 0 ∨ ∀ m ∈ (wit20.hw.link (2 : Fin 8)).syncQ, (wit20.hw.event (boundary (2 : Fin 8) wit20 / 25)).clock < m.1) ∧
     (wit20.hw.link (2 : Fin 8)).flit = none ∧ (∀ (vc : Fin 4), (wit20.hw.link (2 : Fin 8)).queues[vc] = [])) ∧
    ((∀ y ∈ (wit25.hw.recs Plate.west).inbox, y.flit = 0) ∧ (wit25.hw.recs Plate.west).next = some qi ∧
     qi.record.dmod = (wit25.hw.event (wit25.hw.fcyc0 + qi.stamp)).dom.num ∧ qi.link = some (2 : Fin 8) ∧
     qi.record.target = some (49 : CoreId) ∧ qi.record.kind = RKind.tuple ∧
     (∀ y ∈ ((wit25.hw.event (wit25.hw.fcyc0 + qi.stamp)).recs Plate.west).held, y.isFor (49 : CoreId) (Fin.ofNat 16 qi.record.mort) = false) ∧
     (wit25.hw.event (wit25.hw.fcyc0 + qi.stamp)).plateRoom Plate.west (49 : CoreId) (Fin.ofNat 16 qi.record.mort) = true) ∧
    ((∀ y ∈ (full.hw.recs Plate.west).inbox, y.flit = 0) ∧ (full.hw.recs Plate.west).next = some qi ∧
     qi.record.dmod = (full.hw.event (full.hw.fcyc0 + qi.stamp)).dom.num ∧ qi.link = some (2 : Fin 8) ∧
     qi.record.target = some (49 : CoreId) ∧ qi.record.kind = RKind.tuple ∧
     (∀ y ∈ ((full.hw.event (full.hw.fcyc0 + qi.stamp)).recs Plate.west).held, y.isFor (49 : CoreId) (Fin.ofNat 16 qi.record.mort) = false) ∧
     (full.hw.event (full.hw.fcyc0 + qi.stamp)).plateRoom Plate.west (49 : CoreId) (Fin.ofNat 16 qi.record.mort) = false) ∧
    ((wit17.hw.event (boundary (2 : Fin 8) wit17 / 25)).link (2 : Fin 8) = wit17.hw.link (2 : Fin 8) ∧
     (wit17.hw.event (boundary (2 : Fin 8) wit17 / 25)).blocksOut = wit17.hw.blocksOut ∧
     (wit17.hw.link (2 : Fin 8)).state = LState.up ∧ (wit17.hw.link (2 : Fin 8)).nakDue = false ∧
     (wit17.hw.link (2 : Fin 8)).resend = some 8 ∧
     (List.dropWhile (fun x => x.seq != 8) (wit17.hw.link (2 : Fin 8)).replayBuf = [wit15, snt 9])) ∧
    ((wit18.hw.event (boundary (2 : Fin 8) wit18 / 25)).link (2 : Fin 8) = wit18.hw.link (2 : Fin 8) ∧
     (wit18.hw.event (boundary (2 : Fin 8) wit18 / 25)).blocksOut = wit18.hw.blocksOut ∧
     (wit18.hw.link (2 : Fin 8)).state = LState.up ∧ (wit18.hw.link (2 : Fin 8)).nakDue = false ∧
     (wit18.hw.link (2 : Fin 8)).resend = none ∧ 1024 ≤ (wit18.hw.link (2 : Fin 8)).replayBuf.length) ∧
    ((∀ y ∈ (wit27.hw.recs Plate.west).inbox, y.flit = 0) ∧ (wit27.hw.recs Plate.west).next = some q3 ∧
     q3.record.dmod ≠ (wit27.hw.event (wit27.hw.fcyc0 + q3.stamp)).dom.num ∧
     (wit27.hw.event (wit27.hw.fcyc0 + q3.stamp)).dom.reaches q3.record.dmod = true ∧
     linkPlate (Fin.ofNat 8 (BitVec.toNat (sgetD q3.record.dmod (0 : W32) (wit27.hw.event (wit27.hw.fcyc0 + q3.stamp)).dom.rtAct) % 8)) = Plate.west ∧
     ((wit27.hw.event (wit27.hw.fcyc0 + q3.stamp)).link (Fin.ofNat 8 (BitVec.toNat (sgetD q3.record.dmod (0 : W32) (wit27.hw.event (wit27.hw.fcyc0 + q3.stamp)).dom.rtAct) % 8))).isUp = true) ∧
    ((∀ y ∈ (wit30.hw.recs Plate.west).inbox, y.flit = 0) ∧ (wit30.hw.recs Plate.west).next = some q4 ∧
     q4.record.dmod ≠ (wit30.hw.event (wit30.hw.fcyc0 + q4.stamp)).dom.num ∧
     ((wit30.hw.event (wit30.hw.fcyc0 + q4.stamp)).dom.reaches q4.record.dmod = false ∨ (wit30.hw.event (wit30.hw.fcyc0 + q4.stamp)).dom.reaches q4.record.dmod = true ∧
     linkPlate (Fin.ofNat 8 (BitVec.toNat (sgetD q4.record.dmod (0 : W32) (wit30.hw.event (wit30.hw.fcyc0 + q4.stamp)).dom.rtAct) % 8)) = Plate.west ∧
     ((wit30.hw.event (wit30.hw.fcyc0 + q4.stamp)).link (Fin.ofNat 8 (BitVec.toNat (sgetD q4.record.dmod (0 : W32) (wit30.hw.event (wit30.hw.fcyc0 + q4.stamp)).dom.rtAct) % 8))).isUp = false) ∧
     q4.link = none ∧ q4.record.counts = true) ∧
    ((wit4.hw.link (2 : Fin 8)).isUp = true ∧ blkValid bF2 = true ∧ (blkWord bF2).bt < 2 ∧
     (blkWord bF2).seq ≠ (wit4.hw.link (2 : Fin 8)).eseq ∧ (wit4.hw.link (2 : Fin 8)).nakOpen = false) ∧
    ((wit13.hw.event (boundary (2 : Fin 8) wit13 / 25)).link (2 : Fin 8) = wit13.hw.link (2 : Fin 8) ∧
     (wit13.hw.event (boundary (2 : Fin 8) wit13 / 25)).blocksOut = wit13.hw.blocksOut ∧
     (wit13.hw.link (2 : Fin 8)).state = LState.up ∧ (wit13.hw.link (2 : Fin 8)).nakDue = true ∧
     (wit13.hw.link (2 : Fin 8)).naks < 7) ∧
    ((wit14.hw.event (boundary (2 : Fin 8) wit14 / 25)).link (2 : Fin 8) = wit14.hw.link (2 : Fin 8) ∧
     (wit14.hw.event (boundary (2 : Fin 8) wit14 / 25)).blocksOut = wit14.hw.blocksOut ∧
     (wit14.hw.link (2 : Fin 8)).state = LState.up ∧ (wit14.hw.link (2 : Fin 8)).nakDue = true ∧
     7 ≤ (wit14.hw.link (2 : Fin 8)).naks) ∧
    ((∀ y ∈ (wit33.hw.recs Plate.west).inbox, y.flit = 0) ∧ (wit33.hw.recs Plate.west).next = some q5 ∧
     q5.record.dmod ≠ (wit33.hw.event (wit33.hw.fcyc0 + q5.stamp)).dom.num ∧
     (wit33.hw.event (wit33.hw.fcyc0 + q5.stamp)).dom.reaches q5.record.dmod = true ∧
     linkPlate (Fin.ofNat 8 (BitVec.toNat (sgetD q5.record.dmod (0 : W32) (wit33.hw.event (wit33.hw.fcyc0 + q5.stamp)).dom.rtAct) % 8)) ≠ Plate.west) ∧
    ((wit6.hw.link (2 : Fin 8)).state = LState.align ∧ Single bI 6 ∧
     numAt bI.bytes 8 2 = BitVec.toNat wit6.hw.dom.domId % 2 ^ 16 ∧ (wit6.hw.link (2 : Fin 8)).idents < 2) ∧
    ((wit7.hw.link (2 : Fin 8)).state = LState.align ∧ Single bI 6 ∧
     numAt bI.bytes 8 2 = BitVec.toNat wit7.hw.dom.domId % 2 ^ 16 ∧ (wit7.hw.link (2 : Fin 8)).idents = 2) ∧
    (InOrder (2 : Fin 8) bF wit4.hw ∧ (blkWord bF).bt < 2 ∧ Rec.of bF.bytes = some wit8 ∧ wit8.kind ≠ RKind.empty) ∧
    (InOrder (2 : Fin 8) bE wit4.hw ∧ (blkWord bE).bt < 2 ∧ Rec.of bE.bytes = some wit9 ∧ wit9.kind = RKind.empty) ∧
    ((wit6.hw.link (2 : Fin 8)).state = LState.align ∧ Single bI2 6 ∧
     numAt bI2.bytes 8 2 ≠ BitVec.toNat wit6.hw.dom.domId % 2 ^ 16) ∧
    ((wit11.hw.link (2 : Fin 8)).isUp = true ∧ (wit11.hw.link (2 : Fin 8)).nakOpen = true ∧
     (wit11.hw.link (2 : Fin 8)).nakDue = false) ∧
    ((wit4.hw.link (2 : Fin 8)).isUp = true ∧ crcOk bBad = false ∧ (wit4.hw.link (2 : Fin 8)).invalidRun < 31) ∧
    ((wit10.hw.link (2 : Fin 8)).isUp = true ∧ crcOk bBad = false ∧ (wit10.hw.link (2 : Fin 8)).invalidRun = 31) ∧
    ((wit3.hw.event (boundary (2 : Fin 8) wit3 / 25)).link (2 : Fin 8) = wit3.hw.link (2 : Fin 8) ∧
     (wit3.hw.event (boundary (2 : Fin 8) wit3 / 25)).blocksOut = wit3.hw.blocksOut ∧
     (wit3.hw.link (2 : Fin 8)).state = LState.align) ∧
    ({ inbox := [{ record := q0.record, vc := q0.vc, port := q0.port, link := q0.link, rx := q0.rx, flit := q0.flit, stamp := 9 : Queued }, qi], held := [], flying := [] : PlateRecs }.next = some qi ∧
     qi ∈ { inbox := [{ record := q0.record, vc := q0.vc, port := q0.port, link := q0.link, rx := q0.rx, flit := q0.flit, stamp := 9 : Queued }, qi], held := [], flying := [] : PlateRecs }.inbox ∧
     qi.flit = 0) ∧
    (BitVec.getLsbD (0xffffffff : W32) 31 = true ∧ (wit1.hw.access.link (2 : Fin 8)).state = LState.down) ∧
    (BitVec.getLsbD (0xffffffff : W32) 31 = true ∧ (wit2.hw.access.link (2 : Fin 8)).state ≠ LState.down) ∧
    (BitVec.getLsbD (0x7fffffff : W32) 31 = false ∧
     ((wit2.hw.access.link (2 : Fin 8)).state = LState.train ∨ (wit2.hw.access.link (2 : Fin 8)).state = LState.align)) ∧
    (BitVec.getLsbD (0x7fffffff : W32) 31 = false ∧ (wit4.hw.access.link (2 : Fin 8)).state = LState.up) ∧
    ((wit4.hw.link (2 : Fin 8)).isUp = true ∧ Single bD 0) ∧
    ((wit4.hw.link (2 : Fin 8)).isUp = true ∧ Single bN 1) ∧
    ((wit2.hw.link (2 : Fin 8)).state = LState.train) ∧
    (((wit2.hw.link (2 : Fin 8)).state = LState.train ∨ (wit2.hw.link (2 : Fin 8)).state = LState.align)) ∧
    ((wit4.hw.link (2 : Fin 8)).state = LState.up) := by
  repeat' first | decide +kernel | rfl | (intro _; rfl) | constructor | unfold Single | unfold InOrder

end Sys2Proof.Tests.Scarfs

namespace Sys2Proof.Tests.Beats

def hs (f : Hw → Hw) (m : Mem := []) : State := { State.reset with hw := f { State.reset.hw with clock := 1000 }, mem := m, pending := [.endNotice] }
def dm (f : Domain → Domain) (l : Link → Link := id) (g : Hw → Hw := id) : State := hs (fun h => g { h with dom := f {h.dom with joined := true, beat := 100, beatf := 5000, beatClk := 5000}, links := h.links.set 2 (l {}) })
def upc (x : Link) : Link := { x with state := .up, eseq := 5, combine := true, rxStep := 4, rxBeat := 77, rxDgen := 9 }
def wit1 := dm (fun d => {d with root := true, ownStep := 6, ownBeat := 90, ownDgen := 10}) upc
def blk (bt vc seq sk : Nat) (body : List Byte) (x : Link := {}) : Block := { bytes := blockBytes x bt vc seq sk body, fecOk := true }
def sB := dm (fun d => {d with ownStep := 6, ownBeat := 90, ownDgen := 10, dresetGen := 6}) upc
def sB2 := dm (fun d => {d with ownStep := 3, ownBeat := 90, ownDgen := 10, joined := false}) (fun x => {upc x with nakOpen := true})
def wit5 := blk 2 3 5 3 (toBytes 8 1234)
def wit6 := blk 2 3 5 2 (toBytes 4 5 ++ toBytes 4 88 ++ toBytes 2 8)
def wit7 := blk 2 3 5 5 []
def wit8 := blk 2 3 5 4 (toBytes 2 7)
def wit10 := dm (fun d => {d with snapBeat := 101, rt := [(3, 7)], snapDone := true})
def wit11 := dm (fun d => {d with snapBeat := 100, snapArm := true})
def wit12 := dm (fun d => {d with snapBeat := 102, snapArm := true, root := true}) id (fun h => {h with le := {h.le with st := .running}})
def wit13 := dm (fun d => {d with snapBeat := 101, snapArm := true})
def sd (v : Nat) (f : Thread → Thread := id) (g : Core → Core := id) (h : Hw → Hw := id) (c := 0) := run c 1 (fun th => f { th with d := th.d.set 5 (BitVec.ofNat 64 v) }) g h
def act0 (h : Hw) : Hw := h.updBent 0 (fun b => {b with dbActive := 0x3, dbShadow := 0x4})
def wit15 := sd 0x250 id id act0
def wit16 := sd 0x251
def wit17 := sd 0x253
def wit18 := sd 0x250 id (fun k => k.setPend 0 (some (5, 6))) act0
def pend (cs : List Nat) (sc : Fin 3) (h : Hw) : Hw := cs.foldl (fun h c => h.updCore c (·.setPend sc (some (21, 1005)))) h
def bp := hs (fun h => pend [0, 1] 0 (act0 h))
def bq := hs (fun h => (act0 h).updBent 0 (fun b => {b with dbPending := true}))
def cutA : Cut := { Cut.of 1 [2^56 + 1*2^52 + 1*2^50, 10, 0, 2^48, 0, 0x1000, 2^16 + 2^17, 2^53, 0, 0,0,0,0,0,0,0] [0,0,0,0] with st := .running }
def lay (c : Cut) (f : Layout → Layout := id) (g : Hw → Hw := id) := hs (fun h => g { h with le := f {h.le with cutCount := 5, cap := 100000, st := .running, loaded := 5, cuts := [(1, c)], laid := 2, bal := 50000} })
def runs (h : Hw) : Hw := (h.updCore 33 (fun k => {k with runsCut := some 1})).updCore 77 (fun k => {k with runsCut := some 1})
def dwait (n : Nat) := (lay cutA id (fun h => {pend [33, 77] 2 (runs h) with dom := {h.dom with joined := true, dgenWait := true, ownDgen := 4, cDgen := n, cDgenAt := 1500}}))
def wit23 := lay cutA id runs
def wit24 := lay cutA id (fun h => pend [33, 77] 1 (pend [33, 77] 2 (runs h)))
def wit25 := lay cutA id (fun h => {pend [33, 77] 1 (pend [33, 77] 2 (runs h)) with dom := {h.dom with joined := true}})
def wit26 := lay cutA id (fun h => {pend [33, 77] 1 (pend [33, 77] 2 (runs h)) with dom := {h.dom with joined := true, dgenWait := true, ownDgen := 4, cDgen := 3}})
def wit27 := (lay cutA id (fun h => pend [33, 77] 1 (runs h))).hw
def wit30 := dwait 4
def cB : Cut := { cutA with st := .laid, beat := true, done := 0 }
def hd (l : Layout) := { l with heads := l.heads.set 4 (some 1) }
def jn (h : Hw) : Hw := { h with dom := { h.dom with joined := true, beatLock := true, ownStep := 5, beat := 88, ownDgen := 3, cDgen := 2 }, links := h.links.set 2 (upc {}) }
def wit31 : Cut := {cB with energy := 60}
def wit32 := lay cB hd jn
def wit33 := lay {cB with energy := 60} hd jn
def am : Armed := { lane := 4, cut := 1, step := 6, at_ := 500 }
def st (f : Domain → Domain) := hs (fun h => {h with dom := f {h.dom with joined := true, armed := some am, beat := 100, beatf := 300, beatClk := 300, cStep := 6, cBeat := 102, param := 0x04000000}})
def wit34 := st id
def wit35 := st (fun d => {d with cStep := 5})
def wit37 := st (fun d => {d with cBeat := 90})

/-- The premises of `Obligations.BeatDomainBlocksAndSnapshots` can be met. -/
theorem witness_BeatDomainBlocksAndSnapshots :
    (BitVec.getLsbD (0x40000000 : W32) 31 = false ∧ BitVec.getLsbD (0x40000000 : W32) 30 = true ∧
     sB.hw.access.dom.joined = true ∧
     (sB.hw.access.le.st = EngineState.idle ∨ sB.hw.access.le.st = EngineState.done ∨ sB.hw.access.le.st = EngineState.error)) ∧
    (BitVec.getLsbD (0x40000000 : W32) 31 = false ∧ BitVec.getLsbD (0x40000000 : W32) 30 = true ∧
     wit12.hw.access.dom.joined = true ∧
     (wit12.hw.access.le.st = EngineState.loading ∨ wit12.hw.access.le.st = EngineState.running ∨ wit12.hw.access.le.st = EngineState.draining)) ∧
    ((wit1.hw.event (wit1.hw.dom.beatClk + ((3000 : ℤ) + wit1.hw.dom.adjust).toNat)).dom = wit1.hw.dom ∧
     (wit1.hw.event (wit1.hw.dom.beatClk + ((3000 : ℤ) + wit1.hw.dom.adjust).toNat)).links = wit1.hw.links ∧
     (wit1.hw.dom.joined = false ∨ wit1.hw.dom.root = true)) ∧
    (InOrder (2 : Fin 8) wit8 sB.hw ∧ Single wit8 4 ∧
     BitVec.ofNat 16 (numAt wit8.bytes 8 2) = sB.hw.dom.dresetGen + (1 : BitVec 16)) ∧
    (InOrder (2 : Fin 8) wit8 sB2.hw ∧ Single wit8 4 ∧
     BitVec.ofNat 16 (numAt wit8.bytes 8 2) ≠ sB2.hw.dom.dresetGen + (1 : BitVec 16)) ∧
    (InOrder (2 : Fin 8) wit5 sB.hw ∧ Single wit5 3) ∧
    (InOrder (2 : Fin 8) wit6 sB.hw ∧ Single wit6 2) ∧
    (InOrder (2 : Fin 8) wit7 sB.hw ∧ Single wit7 5) ∧
    (BitVec.getLsbD (0x80000001 : W32) 31 = true ∧
     near 32 sB.hw.access.dom.beat (BitVec.toNat sB.hw.access.dom.snapBeat) ≤ sB.hw.access.dom.beat) ∧
    (BitVec.getLsbD (0x80000001 : W32) 31 = true ∧ sB2.hw.access.dom.joined = false) ∧
    (BitVec.getLsbD (0x80000001 : W32) 31 = true ∧
     wit10.hw.access.dom.beat < near 32 wit10.hw.access.dom.beat (BitVec.toNat wit10.hw.access.dom.snapBeat)) ∧
    (wit11.hw.dom.snapArm = true ∧ near 32 wit11.hw.dom.beat (BitVec.toNat wit11.hw.dom.snapBeat) ≤ wit11.hw.dom.beat) ∧
    (BitVec.getLsbD (0x80000001 : W32) 0 = true) ∧
    (BitVec.getLsbD (0x40000000 : W32) 0 = false) ∧
    ((wit13.hw.dom.snapArm = false ∨ wit13.hw.dom.beat < near 32 wit13.hw.dom.beat (BitVec.toNat wit13.hw.dom.snapBeat))) := by
  repeat' first | decide +kernel | rfl | constructor | unfold InOrder | unfold Single

/-- The premises of `Obligations.DrawboresAndSteps` can be met. -/
theorem witness_DrawboresAndSteps :
    (wit32.hw.le.st = EngineState.running ∧ wit32.hw.devFrozen = false ∧ wit32.hw.le.heads[(4 : Fin 7)] = some 1 ∧
     (∀ (k : Fin 7), k ≠ (4 : Fin 7) → wit32.hw.le.heads[k] = none) ∧ CutAt 1 cB wit32.hw ∧
     (∀ p ∈ wit32.hw.le.cuts, p.2.st ≠ CutState.running) ∧ cB.beat = true ∧ cB.ovl = false ∧ cB.st = CutState.laid ∧
     cB.done = 0 ∧ wit32.hw.dom.joined = true ∧ wit32.hw.dom.beatLock = true ∧ wit32.hw.dom.armed = none ∧
     1000 * cB.energy ≤ wit32.hw.le.cap ∧ (1000 : ℤ) * ↑cB.energy ≤ wit32.hw.le.bal) ∧
    (wit33.hw.le.st = EngineState.running ∧ wit33.hw.devFrozen = false ∧ wit33.hw.le.heads[(4 : Fin 7)] = some 1 ∧
     (∀ (k : Fin 7), k ≠ (4 : Fin 7) → wit33.hw.le.heads[k] = none) ∧ CutAt 1 wit31 wit33.hw ∧
     (∀ p ∈ wit33.hw.le.cuts, p.2.st ≠ CutState.running) ∧ wit31.beat = true ∧ wit31.ovl = false ∧
     wit31.st = CutState.laid ∧ wit31.done = 0 ∧ wit33.hw.dom.joined = true ∧ wit33.hw.dom.beatLock = true ∧
     wit33.hw.dom.armed = none ∧ 1000 * wit31.energy ≤ wit33.hw.le.cap ∧ wit33.hw.le.bal < (1000 : ℤ) * ↑wit31.energy) ∧
    (wit25.hw.runningCuts = [(1, cutA)] ∧ wit25.hw.allArrived (2 : Fin 3) (wit25.hw.coresOf 1) = some 1005 ∧
     wit25.hw.dom.joined = true ∧ wit25.hw.dom.dgenWait = false ∧ (wit25.hw.event (1005 + 225)).dom = wit25.hw.dom ∧
     (∀ (k : Fin 8), ((wit25.hw.event (1005 + 225)).link k).combine = false) ∧
     (wit25.hw.event (1005 + 225)).dom.cDgen ≤ (wit25.hw.event (1005 + 225)).dom.ownDgen) ∧
    (wit24.hw.runningCuts = [(1, cutA)] ∧ (450 = 21 ∨ 450 = 450) ∧ (450 = 21 ↔ OneBent (wit24.hw.coresOf 1)) ∧
     wit24.hw.allArrived (2 : Fin 3) (wit24.hw.coresOf 1) = some 1005 ∧ wit24.hw.dom.joined = false ∧
     wit24.hw.dom.dgenWait = false) ∧
    (Issues (wh 0 1) none wit15 ∧ Alone (wh 0 1) wit15 ∧
     BitVec.toNat (outValue (wh 0 1) (5 : Fin 32) wit15) % 4 = Fin.val (0 : Fin 3) ∧
     ((slot (wh 0 1) wit15).core (Fin.val (wh 0 1).core)).dbPend[(0 : Fin 3)] = none ∧
     (slot (wh 0 1) wit15).orphan (wh 0 1).core (Fin.val (0 : Fin 3)) = false) ∧
    (Issues (wh 0 1) none wit16 ∧ Alone (wh 0 1) wit16 ∧
     BitVec.toNat (outValue (wh 0 1) (5 : Fin 32) wit16) % 4 = Fin.val (1 : Fin 3) ∧
     ((slot (wh 0 1) wit16).core (Fin.val (wh 0 1).core)).dbPend[(1 : Fin 3)] = none ∧
     (slot (wh 0 1) wit16).orphan (wh 0 1).core (Fin.val (1 : Fin 3)) = true) ∧
    (Issues (wh 0 1) none wit16 ∧ Alone (wh 0 1) wit16 ∧ ((slot (wh 0 1) wit16).thread (wh 0 1)).mode = true ∧
     BitVec.getLsbD (outValue (wh 0 1) (5 : Fin 32) wit16) 0 = true ∧
     (∀ (c : CoreId), Fin.val c / 44 = Fin.val (wh 0 1).core / 44 → ((slot (wh 0 1) wit16).core (Fin.val c)).dbPend[0] = none)) ∧
    (Issues (wh 0 1) none wit18 ∧ Alone (wh 0 1) wit18 ∧
     BitVec.toNat (outValue (wh 0 1) (5 : Fin 32) wit18) % 4 = Fin.val (0 : Fin 3) ∧
     ((slot (wh 0 1) wit18).core (Fin.val (wh 0 1).core)).dbPend[(0 : Fin 3)] ≠ none ∧
     (slot (wh 0 1) wit18).orphan (wh 0 1).core (Fin.val (0 : Fin 3)) = false) ∧
    (wit37.hw.dom.armed = some am ∧ am.launch = none ∧ am.step ≤ wit37.hw.dom.cStep ∧
     wit37.hw.dom.beatAt (wit37.hw.dom.cBeat + BitVec.toNat wit37.hw.dom.param / 2 ^ 24) < wit37.hw.clock + 96 ∧
     (-3 : ℤ) ≤ wit37.hw.dom.adjust) ∧
    (Issues (wh 0 1) none wit15 ∧ Alone (wh 0 1) wit15 ∧ ((slot (wh 0 1) wit15).thread (wh 0 1)).mode = true ∧
     BitVec.getLsbD (outValue (wh 0 1) (5 : Fin 32) wit15) 0 = false) ∧
    (wit24.hw.runningCuts = [(1, cutA)] ∧ (450 = 21 ∨ 450 = 450) ∧ (450 = 21 ↔ OneBent (wit24.hw.coresOf 1)) ∧
     wit24.hw.allArrived (1 : Fin 3) (wit24.hw.coresOf 1) = some 1005) ∧
    (wit34.hw.dom.armed = some am ∧ am.launch = none ∧ am.step ≤ wit34.hw.dom.cStep ∧
     wit34.hw.clock + 96 ≤ wit34.hw.dom.beatAt (wit34.hw.dom.cBeat + BitVec.toNat wit34.hw.dom.param / 2 ^ 24)) ∧
    (wit34.hw.dom.armed = some am ∧ am.launch = none ∧ am.reported = false ∧ wit34.hw.devFrozen = false) ∧
    (Issues (wh 0 1) none wit17 ∧ Alone (wh 0 1) wit17 ∧ BitVec.toNat (outValue (wh 0 1) (5 : Fin 32) wit17) % 4 = 3) ∧
    (wit23.hw.runningCuts = [(1, cutA)] ∧ (33 : CoreId) ∈ wit23.hw.coresOf 1 ∧
     (wit23.hw.core (Fin.val (33 : CoreId))).dbPend[1] = none) ∧
    (wit35.hw.dom.armed = some am ∧ am.launch = none ∧ wit35.hw.dom.cStep < am.step) ∧
    ((bq.hw.bent (Fin.val (0 : BentId))).dbPending = true ∧
     (∀ (c : CoreId), Fin.val c / 44 = Fin.val (0 : BentId) → (bq.hw.core (Fin.val c)).dbPend[0] = none)) ∧
    (wit26.hw.dom.dgenWait = true ∧ wit26.hw.dom.cDgen < wit26.hw.dom.ownDgen) ∧
    ([(33 : CoreId), (77 : CoreId)] ≠ [] ∧
     (∀ c ∈ [(33 : CoreId), (77 : CoreId)], (wit27.core (Fin.val c)).dbPend[(1 : Fin 3)] ≠ none)) ∧
    (wit30.hw.dom.dgenWait = true ∧ wit30.hw.dom.ownDgen ≤ wit30.hw.dom.cDgen) ∧
    ((bp.hw.allArrived (0 : Fin 3) (List.filter (fun c => decide (Fin.val c / 44 = Fin.val (0 : BentId) ∧
     (bp.hw.bent (Fin.val (0 : BentId))).dbActive.getLsbD (Fin.val c % 44) = true)) (List.finRange 2112)) = some 1005)) ∧
    (wit27.allArrived (1 : Fin 3) [(33 : CoreId), (77 : CoreId)] = some 1005) := by
  repeat' first | decide +kernel | rfl | exact waits_each (by decide +kernel) | (intro _; rfl) | constructor | unfold CutAt | unfold OneBent | unfold Alone

end Sys2Proof.Tests.Beats

namespace Sys2Proof.Tests.Interrupts

def m0 : Mem := memWriteN (locScratch 0 0) (toBytes 8 77) (memWriteN (locImem 0 4) (toBytes 4 88) (memWriteN (locExt 0) (toBytes 8 99) (memWriteN (locFlash 0x100) (toBytes 8 111) [])))
def hs (f : Hw → Hw) (m : Mem := m0) : State := { State.reset with hw := f { State.reset.hw with clock := 1000 }, mem := m, pending := [.endNotice] }
def iq (n : Nat) (cfg : Nat) (f : Irq → Irq := id) (g : Hw → Hw := id) := hs (fun h => g {h with irqPend := (1 <<< n) ||| (1 <<< 7), irq := f {h.irq with cfgAct := [(7, 0x81000001), (n, BitVec.ofNat 32 cfg)], vecAct := [(n, 0x12345678)], cprio := h.irq.cprio.set 3 4 }})
def wit2 := iq 50 0x85000003
def wit3 := iq 50 0x8500000A id (fun h => h.updCore (44*2+40) (fun k => (k.updThread 0 (fun th => {th with tstate := .running}))))
def wit4 := hs id
def ra : RidgeMsg := { num := 2, word := 0, who := wh (44*2+40) 0, due := 1100, flit := 0 }
def wa (s : State) : Nat × Hw := match s.hw.land 0 1100 with | some x => x | none => (0, s.hw)
def fy (f : Hw → Hw := id) := hs (fun h => f {h with irq := {h.irq with flying := [(2, 0x100, 5000), (3, 6, 7)], serv := [(10, 50)], cfg := [(3, 4)]}, wardenAcks := [ra, {ra with num := 4}]})
def wit5 := (wa (fy)).1
def wit6 := (wa fy).2
def wit7 := fy
def wit8 := fy (fun h => {h with irq := {h.irq with serv := []}})
def pw (p : Power) (f : Hw → Hw := id) := hs (fun h => f {h with sill := {h.sill with power := p, since := 50}})
def wit9 := pw .idle
def wit10 := pw .idleGated
def tm : Dgram := { port := 5, src := 7, srcPort := 9, dst := .allNodes, ce := false, payload := toBytes 8 (0x7A4D01 * 2^40 + 7 * 2^32) ++ List.replicate 40 0 }
def ws := pw .sillOnly (fun h => {h with net := {h.net with ports := h.net.ports.set 5 {state := .up}}, sill := {h.sill with power := .sillOnly, wakeEn := 0x1F, wakePorts := 0xF, temps := [101], cmp := 3}, pole := {h.pole with alarms := 4}, links := h.links.set 2 {ctrl := 0x80000000}})
def tl (x : Nat) := (List.replicate 50 90) ++ [x]
def wit13 := tl 91
def wit15 := tl 115
def wit16 := pw .idle (fun h => {h with sill := {h.sill with power := .idle, temps := List.replicate 51 50, twarn := 90}})
def wit18 := (wa (fy (fun h => {h with irq := {h.irq with serv := []}}))).2

/-- The premises of `Obligations.InterruptsAndPowerStates` can be met. -/
theorem witness_InterruptsAndPowerStates :
    (ws.hw.sill.power = Power.sillOnly ∧ ws.hw.board.held = false ∧ ws.hw.sill.railHeld = false ∧
     ws.hw.net.isUp (Fin.val (5 : Fin 8)) = true ∧ 4 ≤ Fin.val (5 : Fin 8) ∧
     ws.hw.sill.wakePorts.getLsbD (Fin.val (5 : Fin 8) - 4) = true ∧ wakeDatagram tm = true ∧
     ws.hw.sill.wakeEn.getLsbD 0 = true) ∧
    (Foremost 50 (8 + Fin.val (2 : BentId)) (wit3.hw.event (wit3.hw.clock + 1)) ∧
     ((wit3.hw.event (wit3.hw.clock + 1)).core (44 * Fin.val (2 : BentId) + 40)).wprio.toNat < prioOf 50 (wit3.hw.event (wit3.hw.clock + 1)) ∧
     (((wit3.hw.event (wit3.hw.clock + 1)).core (44 * Fin.val (2 : BentId) + 40)).thread (0 : Fin 4)).tstate = TState.running ∧
     ((wit3.hw.event (wit3.hw.clock + 1)).core (44 * Fin.val (2 : BentId) + 40)).coreHalt = false ∧
     ((wit3.hw.event (wit3.hw.clock + 1)).core (44 * Fin.val (2 : BentId) + 40)).held = false ∧
     (wit3.hw.event (wit3.hw.clock + 1)).sill.power = Power.idle) ∧
    (Serving wit9 ∧ wit9.hw.sill.power = Power.idle ∧
     (wit9.hw.le.st = EngineState.idle ∨ wit9.hw.le.st = EngineState.done ∨ wit9.hw.le.st = EngineState.error) ∧
     wit9.hw.firm.loaded = false ∧ wit9.hw.resets = [] ∧ wit9.hw.postMortem = false) ∧
    (wit7.hw.wardenAcks = [ra, { num := 4, word := ra.word, who := ra.who, due := ra.due, flit := ra.flit : RidgeMsg }] ∧
     ra.num = Fin.val (2 : BentId) ∧ wit7.hw.land ra.flit ra.due = some (wit5, wit6) ∧
     ra.who = { core := coreId (44 * Fin.val (2 : BentId) + 40), thread := (0 : Fin 4) : Who } ∧
     sget (8 + Fin.val (2 : BentId)) { (wit6.event wit5) with wardenAcks := [{ num := 4, word := ra.word, who := ra.who, due := ra.due, flit := ra.flit : RidgeMsg }] : Hw }.irq.serv = some 50) ∧
    (Serving wit10 ∧ wit10.hw.sill.power = Power.idleGated ∧ wit10.hw.net.sessions = [] ∧ wit10.hw.net.ubt = [] ∧
     wit10.hw.dom.joined = false) ∧
    (ws.hw.sill.power = Power.sillOnly ∧ ws.hw.board.held = false ∧ ws.hw.sill.railHeld = false ∧
     (ws.hw.link (2 : Fin 8)).en = true ∧ ws.hw.sill.wakeEn.getLsbD 1 = true) ∧
    (ws.hw.sill.power = Power.sillOnly ∧ ws.hw.board.held = false ∧ ws.hw.sill.railHeld = false ∧
     ws.hw.sill.twarn ≤ ws.hw.sill.tempMax.1 ∧ ws.hw.sill.wakeEn.getLsbD 2 = true) ∧
    (ws.hw.sill.power = Power.sillOnly ∧ ws.hw.board.held = false ∧ ws.hw.sill.railHeld = false ∧
     ws.hw.pole.alarms ≠ 0 ∧ ws.hw.sill.wakeEn.getLsbD 3 = true) ∧
    (ws.hw.sill.power = Power.sillOnly ∧ ws.hw.board.held = false ∧ ws.hw.sill.railHeld = false ∧
     BitVec.toNat ws.hw.sill.cmp ≤ ws.hw.sillTime ∧ ws.hw.sill.wakeEn.getLsbD 4 = true) ∧
    (wit15.length = 51 ∧ Serving wit16 ∧ (∃ x ∈ wit15, 115 ≤ x) ∧ wit16.hw.sill.railHeld = false) ∧
    (wit8.hw.wardenAcks = [ra, { num := 4, word := ra.word, who := ra.who, due := ra.due, flit := ra.flit : RidgeMsg }] ∧
     ra.num = Fin.val (2 : BentId) ∧ wit8.hw.land ra.flit ra.due = some (1100, wit18) ∧
     (ra.who ≠ { core := coreId (44 * Fin.val (2 : BentId) + 40), thread := (0 : Fin 4) : Who } ∨ sget (8 + Fin.val (2 : BentId)) { (wit18.event 1100) with wardenAcks := [{ num := 4, word := ra.word, who := ra.who, due := ra.due, flit := ra.flit : RidgeMsg }] : Hw }.irq.serv = none)) ∧
    (3 < 8 ∧ Foremost 50 3 (wit2.hw.event (wit2.hw.clock + 1)) ∧
     (wit2.hw.event (wit2.hw.clock + 1)).irq.cprio[Fin.ofNat 8 3].toNat < prioOf 50 (wit2.hw.event (wit2.hw.clock + 1))) ∧
    (Powered wit9 ∧
     (wit9.hw.event (wit9.hw.sill.time0 + 120 * BitVec.toNat wit9.hw.sill.cmp)).sill.power ≠ Power.sillOnly ∧
     wit9.hw.sill.stoppedAt = none) ∧
    (wit13.length = 51 ∧ Serving wit16 ∧ (∀ x ∈ wit13, x < 115)) ∧
    ((Fin.val (5 : Fin 288) ≤ 228 ∨ 232 ≤ Fin.val (5 : Fin 288) ∧
     Fin.val (5 : Fin 288) ≤ 238 ∨ 240 ≤ Fin.val (5 : Fin 288) ∧
     Fin.val (5 : Fin 288) ≤ 250 ∨ 252 ≤ Fin.val (5 : Fin 288) ∧ Fin.val (5 : Fin 288) ≤ 259)) ∧
    ((BitVec.toNat (517 : W32) % 512 ≤ 228 ∨ 232 ≤ BitVec.toNat (517 : W32) % 512 ∧
     BitVec.toNat (517 : W32) % 512 ≤ 238 ∨ 240 ≤ BitVec.toNat (517 : W32) % 512 ∧
     BitVec.toNat (517 : W32) % 512 ≤ 250 ∨ 252 ≤ BitVec.toNat (517 : W32) % 512 ∧
     BitVec.toNat (517 : W32) % 512 ≤ 259)) ∧
    ((¬(BitVec.toNat (229 : W32) % 512 ≤ 228 ∨ 232 ≤ BitVec.toNat (229 : W32) % 512 ∧
     BitVec.toNat (229 : W32) % 512 ≤ 238 ∨ 240 ≤ BitVec.toNat (229 : W32) % 512 ∧
     BitVec.toNat (229 : W32) % 512 ≤ 250 ∨ 252 ≤ BitVec.toNat (229 : W32) % 512 ∧
     BitVec.toNat (229 : W32) % 512 ≤ 259))) ∧
    ((¬(Fin.val (229 : Fin 288) ≤ 228 ∨ 232 ≤ Fin.val (229 : Fin 288) ∧
     Fin.val (229 : Fin 288) ≤ 238 ∨ 240 ≤ Fin.val (229 : Fin 288) ∧
     Fin.val (229 : Fin 288) ≤ 250 ∨ 252 ≤ Fin.val (229 : Fin 288) ∧ Fin.val (229 : Fin 288) ≤ 259))) ∧
    ((wit4.hw.event (wit4.hw.clock + 1)).irqPend = (0 : BitVec 288)) ∧
    (wit7.hw.irq.flying = [(Fin.val (2 : BentId), (256 : BitVec 20), 5000), (3, (6 : BitVec 20), 7)]) ∧
    ((wit9.hw.sill.power ≠ Power.idleGated ∨ wit9.hw.dom.joined = true)) ∧
    ((wit10.hw.sill.power ≠ Power.idle ∨ wit10.hw.firm.loaded = true)) ∧
    ((wit9.hw.sill.power ≠ Power.sillOnly ∨ wit9.hw.sill.wakeEn = (0 : BitVec 5))) := by
  repeat' first | decide +kernel | rfl | (refine foremost_rest ?_; decide +kernel) | (intro _; rfl) | constructor | unfold Foremost | unfold Serving | unfold Powered

end Sys2Proof.Tests.Interrupts

namespace Sys2Proof.Tests.BoardSignals

def fm : Mem := memWrite (locFlash 5) 7 (memWrite 0x1000 9 [])
def hs (f : Hw → Hw := id) (m : Mem := fm) : State := { State.reset with hw := f { State.reset.hw with clock := 1000 }, mem := m, pending := [.endNotice] }
def bd (f : Board → Board) (g : Hw → Hw := id) := hs (fun h => g { h with board := f h.board })
def off (h : Hw) : Hw := { h with sill := { h.sill with power := .off } }
def wit1 := hs
def wit2 := bd (fun b => {b with refLost := true, held := true}) (fun h => {h with sill := {h.sill with stoppedAt := some 900}})
def wit3 := bd (fun b => {b with refLost := true, resetN := false, held := true}) (fun h => {h with sill := {h.sill with stoppedAt := some 900}})
def wit4 := hs (fun h => {h with pole := {h.pole with increments := [7, 8]}})
def wit5 := bd (fun b => {b with inserted := false}) off
def wit6 := bd id off
def wit7 := bd (fun b => {b with disconnected := true}) off
def wit8 := bd (fun b => {b with held := true, resetN := false})
def wit10 := List.replicate 64 (5 : Byte)
def wit11 := bd (fun b => {b with resetN := false, held := true})
def wit12 := bd (fun b => { b with held := true}) (fun h => {h with tap := {h.tap with ir := h.tap.ir.set 0 0}})

/-- The premises of `Obligations.BoardSignalsAndTap` can be met. -/
theorem witness_BoardSignalsAndTap :
    (wit12.hw.sill.power ≠ Power.off ∧ wit12.hw.tap.ir[(0 : Fin 3)] = (0 : BitVec 6) ∧
     (∀ (e : Fin 3), e ≠ (0 : Fin 3) → wit12.hw.tap.ir[e] ≠ (0 : BitVec 6)) ∧ wit12.hw.board.held = true ∧
     wit12.hw.board.resetN = true ∧ wit12.hw.board.pwrgood = true ∧ wit12.hw.board.refLost = false) ∧
    (wit2.hw.board.refLost = true ∧ wit2.hw.sill.stoppedAt = some 900 ∧ 900 ≤ wit2.hw.clock ∧
     MayBoot { pending := wit2.pending, mem := wit2.mem, hw := { wit2.hw with board := { inputGood := wit2.hw.board.inputGood, disconnected := wit2.hw.board.disconnected, inserted := wit2.hw.board.inserted, resetN := wit2.hw.board.resetN, held := wit2.hw.board.held, pwrgood := wit2.hw.board.pwrgood, refLost := false : Board } : Hw } : State } ∧
     wit2.hw.board.held = true ∧ wit2.hw.board.resetN = true) ∧
    (wit6.hw.sill.power = Power.off ∧ wit6.hw.board.inserted = true ∧ wit6.hw.board.refLost = false ∧
     ((wit6.hw.tap.ir.all fun x => x != (0 : BitVec 6)) = true) ∧ wit6.hw.board.resetN = true ∧
     wit6.hw.board.disconnected = false) ∧
    (wit7.hw.sill.power = Power.off ∧ wit7.hw.board.inserted = true ∧ wit7.hw.board.refLost = false ∧
     ((wit7.hw.tap.ir.all fun x => x != (0 : BitVec 6)) = true) ∧ wit7.hw.board.resetN = true ∧
     wit7.hw.board.disconnected = true) ∧
    (wit11.hw.sill.power ≠ Power.off ∧ TapDie.ridge = TapDie.ridge ∧ wit11.hw.board.resetN = false ∧ 77 < 0x4000000 ∧
     wit10.length = 64) ∧
    (wit11.hw.sill.power ≠ Power.off ∧ TapDie.ridge = TapDie.ridge ∧ wit11.hw.board.resetN = false ∧ 77 < 0x4000000 ∧
     77 + 77 ≤ 0x4000000) ∧
    (wit3.hw.board.refLost = true ∧ wit3.hw.sill.stoppedAt = some 900 ∧ 900 ≤ wit3.hw.clock ∧
     wit3.hw.board.resetN = false) ∧
    (wit5.hw.board.inserted = false ∧ wit5.hw.sill.power = Power.off ∧ wit5.hw.board.disconnected = false) ∧
    (640 ≤ 640 ∧ 640 < 1280 ∧ wit1.hw.sill.power ≠ Power.off) ∧
    (wit1.hw.board.refLost = false ∧ wit1.hw.sill.power ≠ Power.off) ∧
    ((wit1.hw.sill.power = Power.idle ∨ wit1.hw.sill.power = Power.idleGated) ∧ wit1.hw.board.held = false) ∧
    (wit8.hw.board.held = true ∧ MayBoot wit8) ∧
    (1280 ≤ 1280 ∧ wit1.hw.sill.power ≠ Power.off) ∧
    (wit1.hw.sill.power ≠ Power.off ∧ wit1.hw.board.held = false) ∧
    (wit1.hw.sill.power ≠ Power.off ∧ (TapDie.ridge ≠ TapDie.ridge ∨ wit1.hw.board.resetN = true)) ∧
    (Powered wit1) ∧
    (wit4.hw.pole.increments = [7, 8]) ∧
    ((wit5.hw.sill.power = Power.sillOnly ∨ wit5.hw.sill.power = Power.off)) ∧
    (3 < 640) ∧
    ((wit1.hw.board.held = false ∨ wit1.hw.board.pwrgood = false)) := by
  repeat' first | decide +kernel | rfl | (intro _; rfl) | constructor | unfold MayBoot | unfold Powered

end Sys2Proof.Tests.BoardSignals

namespace Sys2Proof.Tests.TapScans

def fm : Mem := memWrite (locFlash 5) 7 (memWrite 0x1000 9 [])
def hs (f : Hw → Hw := id) (m : Mem := fm) : State := { State.reset with hw := f { State.reset.hw with clock := 1000 }, mem := m, pending := [.endNotice] }
def bd (f : Board → Board) (g : Hw → Hw := id) := hs (fun h => g { h with board := f h.board })
def wit1 := List.replicate 64 (5 : Byte)
def wit2 := hs
def wit3 := bd (fun b => {b with resetN := false, held := true})
def wit4 := bd (fun b => { b with held := true}) (fun h => {h with tap := {h.tap with ir := h.tap.ir.set 0 0}})

/-- The premises of `Obligations.BoardSignalsAndTap` can be met. -/
theorem witness_BoardSignalsAndTap :
    (wit4.hw.sill.power ≠ Power.off ∧ wit4.hw.tap.ir[(0 : Fin 3)] = (0 : BitVec 6) ∧
     (∀ (e : Fin 3), e ≠ (0 : Fin 3) → wit4.hw.tap.ir[e] ≠ (0 : BitVec 6)) ∧ wit4.hw.board.held = true ∧
     wit4.hw.board.resetN = true ∧ wit4.hw.board.pwrgood = true ∧ wit4.hw.board.refLost = false) ∧
    (wit3.hw.sill.power ≠ Power.off ∧ TapDie.ridge = TapDie.ridge ∧ wit3.hw.board.resetN = false ∧ 0x10044 < 0x4000000 ∧
     wit1.length = 64) ∧
    (wit3.hw.sill.power ≠ Power.off ∧ TapDie.ridge = TapDie.ridge ∧ wit3.hw.board.resetN = false ∧ 0x10044 < 0x4000000 ∧
     0x10044 + 0x10044 ≤ 0x4000000) ∧
    (wit2.hw.sill.power ≠ Power.off ∧ wit2.hw.board.held = false) ∧
    (wit2.hw.sill.power ≠ Power.off ∧ (TapDie.ridge ≠ TapDie.ridge ∨ wit2.hw.board.resetN = true)) := by
  and_intros <;> decide +kernel

end Sys2Proof.Tests.TapScans

namespace Sys2Proof.Tests.SessionStates

def upAll (h : Hw) : Hw := { h with net := { h.net with ports := h.net.ports.map (fun p => {p with state := .up}) } }
def hs (f : Hw → Hw := id) (m : Mem := []) : State := { State.reset with hw := f (upAll { State.reset.hw with clock := 100000000 }), mem := m, pending := [.endNotice] }
def ses0 : Session := { epoch := 5, control := true, openId := 3, addr := 0x1234, udp := 999, local_ := false, port := 5, idleMs := 2000, cmdLog := 13, cplLog := 13 }
def wses (s : Session) (n : Nat := 3) (f : Hw → Hw := id) (m : Mem := []) : State := hs (fun h => f { h with net := { h.net with sessions := [(n, s)] } }) m
def dg (b : List Byte) (p : Fin 8 := 5) : Dgram := { port := p, src := 0x1234, srcPort := 999, dst := .linkLocal, ce := false, payload := b }
def dgT (t s e d a st l r : Nat) (b : List Byte := []) : Dgram := dg (tmpHeader t s e d a st l r ++ b)
def tm (t s e d a st l r : Nat) : Tmp := {type := t, session := s, epoch := e, dseq := d, dack := a, start := st, len := l, rd := r}
def wit1 := dgT 7 0 0 0 0 0 0 0
def wit2 := tm 7 0 0 0 0 0 0 0
def wit3 := hs
def wit4 := hs (fun h => {h with net := {h.net with ports := h.net.ports.set 5 {state := .up, discovered := some (100000000-5)}}})
def op (w : Nat) (x : List Byte := List.replicate 24 0): Dgram := dgT 1 0 0 0 0 0 0 0 (toBytes 8 w ++ x)
def wit5 := op (2^32*77 + 14 * 2^11 + 13*2^6+1)
def wit7 := op (2^32*77 + 12 * 2^11 + 13*2^6)
def wit8 := tm 1 0 0 0 0 0 0 0
def s5 := ses0
def rj (h : Hw) : Hw := {h with resets := [{level := .job}]}
def wit10 := dgT 3 3 5 0 0 0 0 0
def wit11 := tm 3 3 5 0 0 0 0 0
def wit12 := wses s5
def wit13 := dgT 4 3 5 1 0 0 32 0 (List.replicate 32 1)
def wit14 := tm 4 3 5 1 0 0 32 0
def wit15 := wses s5 3 rj
def wit16 := dgT 4 3 5 2 0 0 32 0 (List.replicate 32 1)
def wit17 := tm 4 3 5 2 0 0 32 0
def s6 : Session := { s5 with dseqOut := 2, unacked := [(1, 0, [1]), (2, 32, [2,3])], cplWr := 64}
def s7 : Session := { s5 with dseqOut := 2, unacked := [(2, 32, [2,3])], cplWr := 64}
def wit18 := dgT 6 3 5 0 1 0 0 32
def wit19 := tm 6 3 5 0 1 0 0 32
def wit26 := wses s6
def wit27 := dgT 4 3 6 2 0 0 32 0 (List.replicate 32 1)
def wit28 := tm 4 3 6 2 0 0 32 0
def wit29 := wses s7

/-- The premises of `Obligations.TmpSessions` can be met. -/
theorem witness_TmpSessions :
    (Arrives 7 wit1 wit2 wit4 ∧ wit2.session = 0 ∧ wit2.epoch = 0 ∧ wit2.dseq = 0 ∧ wit2.dack = 0 ∧ wit2.start = 0 ∧
     wit2.len = 0 ∧ wit2.rd = 0 ∧ wit1.payload.length = 32 ∧ wordAt wit1.payload 0 % 2 ^ 10 = 0 ∧
     wordAt wit1.payload 3 = 0 ∧ (wit4.hw.net.port (Fin.val wit1.port)).discovered = some (0x5f5e100 - 5) ∧
     wit4.hw.clock < 0x5f5e100 - 5 + 0x2dc6c0) ∧
    (Arrives 7 wit1 wit2 wit3 ∧ wit2.session = 0 ∧ wit2.epoch = 0 ∧ wit2.dseq = 0 ∧ wit2.dack = 0 ∧ wit2.start = 0 ∧
     wit2.len = 0 ∧ wit2.rd = 0 ∧ wit1.payload.length = 32 ∧ wordAt wit1.payload 0 % 2 ^ 10 = 0 ∧
     wordAt wit1.payload 3 = 0 ∧ (¬∃ t, (wit3.hw.net.port (Fin.val wit1.port)).discovered = some t ∧
     wit3.hw.clock < t + 0x2dc6c0)) ∧
    (Arrives 1 wit5 wit8 wit3 ∧ 64 ≤ wit5.payload.length ∧ wit3.hw.net.opened = [] ∧ wit3.hw.net.sessions = [] ∧
     wit3.hw.net.events = [] ∧ wit3.hw.net.eventsLost = 0 ∧
     openBad (wordAt (List.drop 32 wit5.payload) 0) (bytesAt (List.drop 32 wit5.payload) 8 24) = false) ∧
    (Arrives 1 wit7 wit8 wit3 ∧ 64 ≤ wit7.payload.length ∧ wit3.hw.net.opened = [] ∧ wit3.hw.net.sessions = [] ∧
     wit3.hw.net.events = [] ∧ wit3.hw.net.eventsLost = 0 ∧
     openBad (wordAt (List.drop 32 wit7.payload) 0) (bytesAt (List.drop 32 wit7.payload) 8 24) = true) ∧
    (OfSession wit14 wit13 s5 wit15 ∧ Arrives 4 wit13 wit14 wit15 ∧ wit14.dseq = add32 s5.dseqIn 1 ∧
     wit14.start = s5.cmdWr ∧ wit14.len % 32 = 0 ∧ wit14.len ≤ 8192 ∧ wit13.payload.length - 32 = wit14.len ∧
     s5.cmds.length + wit14.len ≤ 2 ^ s5.cmdLog + s5.skip ∧
     wit15.hw.resets = [{ level := Level.job, hold := false, quiesced := false, due := 0 : ResetOp }] ∧ s5.skip = 0) ∧
    (Serving wit29 ∧ sget (Fin.val (3 : Fin 64)) wit29.hw.net.sessions = some s7 ∧
     s7.unacked = [(2, 32, [(2 : Byte), (3 : Byte)])] ∧ (∀ (p : Nat), (wit29.hw.net.port p).paused = (0 : BitVec 8)) ∧
     wit29.hw.net.isUp s7.port = true) ∧
    (OfSession wit14 wit13 s5 wit12 ∧ Arrives 4 wit13 wit14 wit12 ∧ wit14.dseq = add32 s5.dseqIn 1 ∧
     wit14.start = s5.cmdWr ∧ wit14.len % 32 = 0 ∧ wit14.len ≤ 8192 ∧ wit13.payload.length - 32 = wit14.len ∧
     s5.cmds.length + wit14.len ≤ 2 ^ s5.cmdLog + s5.skip) ∧
    (OfSession wit17 wit16 s5 wit12 ∧ Arrives 4 wit16 wit17 wit12 ∧ ¬(wit17.dseq = add32 s5.dseqIn 1 ∧
     wit17.start = s5.cmdWr ∧ wit17.len % 32 = 0 ∧ wit17.len ≤ 8192 ∧ wit16.payload.length - 32 = wit17.len ∧
     s5.cmds.length + wit17.len ≤ 2 ^ s5.cmdLog + s5.skip)) ∧
    (sget wit28.session wit12.hw.net.sessions = some s5 ∧ s5.epoch ≠ wit28.epoch ∧ Arrives 4 wit27 wit28 wit12) ∧
    (OfSession wit11 wit10 s5 wit12 ∧ Arrives 3 wit10 wit11 wit12) ∧
    (OfSession wit19 wit18 s6 wit26 ∧ Arrives 6 wit18 wit19 wit26) ∧
    (Serving wit12 ∧ sget (Fin.val (3 : Fin 64)) wit12.hw.net.sessions = some s5) := by
  repeat' first | decide +kernel | rfl | exact paused_all (by decide +kernel) | (intro _; rfl) | constructor | unfold Serving | unfold OfSession

end Sys2Proof.Tests.SessionStates

namespace Sys2Proof.Tests.HostWindow

def upAll (h : Hw) : Hw := { h with net := { h.net with ports := h.net.ports.map (fun p => {p with state := .up}) } }
def hs (f : Hw → Hw := id) (m : Mem := []) : State := { State.reset with hw := f (upAll { State.reset.hw with clock := 100000000 }), mem := m, pending := [.endNotice] }
def ses0 : Session := { epoch := 5, control := true, openId := 3, addr := 0x1234, udp := 999, local_ := false, port := 5, idleMs := 2000, cmdLog := 13, cplLog := 13 }
def wses (s : Session) (n : Nat := 3) (f : Hw → Hw := id) (m : Mem := []) : State := hs (fun h => f { h with net := { h.net with sessions := [(n, s)] } }) m
def ring (s : Session) (ws : List Nat) : Session := { s with cmds := wordsBytes ws, cmdWr := 8 * ws.length }
def hd (rt units tag : Nat) : Nat := rt * 2^56 + units * 2^32 + tag
def cm (rt : Nat) (rest : List Nat) (f : Hw → Hw := id) (s : Session := ses0) (m : Mem := []) : State := wses (ring s (hd rt ((rest.length+4)/4) 0x1234 :: rest)) 3 f m
def rg (rt : Nat) (rest : List Nat) (s : Session := ses0) : Session := ring s (hd rt ((rest.length+4)/4) 0x1234 :: rest)
def H (rt u : Nat) : Nat := hd rt u 0x1234
def noc : Session := { ses0 with control := false }
def pl (f : Pole → Pole) (h : Hw) : Hw := {h with pole := f h.pole}
def wit1 := rg 1 [1, 77, 0]
def wit2 := H 1 1
def wit3 := cm 1 [1, 77, 0]
def wit8 := rg 9 [0, 7, 1]
def wit9 := H 9 1
def wit10 := cm 9 [0, 7, 1]
def wit14 := cm 9 [0, 7, 1] (pl (fun p => {p with powered := true, secs := [(7, [1,2,3])]}))
def wit16 := rg 0xC [0, 0, 0]
def wit17 := H 0xC 1
def wit18 := cm 0xC [0, 0, 0]
def wit20 := rg 8 [0, 0, 0] noc
def wit21 := H 8 1
def wit22 := cm 8 [0, 0, 0] id noc
def wit24 := rg 8 [0, 70, 80]
def wit25 := cm 8 [0, 70, 80]
def wit27 := rg 6 [0, 0, 0]
def wit28 := H 6 1
def wit29 := cm 6 [0, 0, 0]
def wit31 := cm 6 [0, 0, 0] (fun h => {h with firm := {h.firm with loaded := true}, le := {h.le with cutCount := 3, cutBase := 0x001000000080, cap := 55}})
def wit33 := rg 7 [0, 0, 0]
def wit34 := H 7 1
def wit35 := cm 7 [0, 0, 0]
def wit37 := rg 7 [1, 0, 0]
def wit38 := cm 7 [1, 0, 0]
def wit40 := rg 2 [5, 10, 11, 12, 13,0,0]
def wit41 := H 2 2
def wit42 := cm 2 [5, 10, 11, 12, 13,0,0]
def wit46 := rg 2 [0, 1, 0,0,0,0,0]
def wit47 := cm 2 [0, 1, 0, 0,0,0,0]
def u0 : Ubt := { epoch := 7, net := 1, base := 0, length := 64, r := true, w := true, addr := 5, udp := 50711, rate := 1000 }
def wu (h : Hw) : Hw := { h with net := { h.net with ubt := [(2, u0)] } }
def wit51 := rg 4 [48, 0x001000000000, 128, 0, 0, 900, 0]
def wit52 := H 4 2
def wit53 := cm 4 [48, 0x001000000000, 128, 0, 0, 900, 0]
def wit55 := rg 4 [1 + 2^17, 0, 0, 0, 0, 0, 0]
def wit56 := cm 4 [1+2^17, 0, 0, 0, 0, 0, 0] wu
def wit58 := rg 4 [2 + 2^17, 0x1000, 640, 0, 0, 0, 0]
def wit59 := cm 4 [2+2^17, 0x1000, 640, 0, 0, 0, 0] wu
def wit61 := cm 2 [5, 10, 11, 12, 13,0,0] (fun h => {h with firm := {h.firm with identity := false}})

/-- The premises of `Obligations.HostCommands` can be met. -/
theorem witness_HostCommands :
    (Commanded (3 : Fin 64) 4 wit51 [wit52, 48, 0x1000000000, 128, 0, 0, 900, 0] wit53 ∧ 0 < 2 ^ 64 ∧ 900 < 2 ^ 16 ∧
     128 < 2 ^ 64 ∧ 48 < 64 ∧ 48 % 16 = 0 ∧ 0x1000000000 < 2 ^ 48 ∧ 0x1000000000 % 64 = 0 ∧ 128 % 64 = 0 ∧ 0 < 128 ∧
     copyRegion 0x1000000000 128 = true ∧ wit53.hw.net.ubt = [] ∧ 1 = sgetD 0 0 wit53.hw.ubtEpochs % 0xffff + 1) ∧
    (0 < 2 ^ 64 ∧ wit27.control = true ∧ Commanded (3 : Fin 64) 6 wit27 [wit28, 0, 0, 0] wit31 ∧
     wit31.hw.firm.loaded = true ∧
     (wit31.hw.access.le.st = EngineState.idle ∨ wit31.hw.access.le.st = EngineState.done) ∧
     0 < wit31.hw.access.le.cutCount ∧ wit31.hw.access.le.cutCount ≤ 0x100000 ∧
     BitVec.toNat wit31.hw.access.le.cutBase % 128 = 0 ∧
     inOneBent (BitVec.toNat wit31.hw.access.le.cutBase) (128 * wit31.hw.access.le.cutCount) = true ∧
     wit31.hw.access.le.replay = false ∧ wit31.hw.access.le.logEn = false) ∧
    (Commanded (3 : Fin 64) 4 wit58 [wit52, 2 + 2 ^ 17, 4096, 640, 0, 0, 0, 0] wit59 ∧ 0 < 2 ^ 64 ∧ 0 < 2 ^ 16 ∧
     640 < 2 ^ 64 ∧ 4096 < 2 ^ 48 ∧ 0 < 640 ∧ 2 + 2 ^ 17 = 2 + 2 ^ 16 * 2 ∧ 2 < 0x10000 ∧
     wit59.hw.net.ubt = [(2, u0)]) ∧
    (10 < 2 ^ 64 ∧ 11 < 2 ^ 64 ∧ 12 < 2 ^ 64 ∧ 13 < 2 ^ 64 ∧
     Commanded (3 : Fin 64) 2 wit40 [wit41, 5, 10, 11, 12, 13, 0, 0] wit42 ∧ 0 < 5 ∧ 5 < 2 ^ 16 ∧
     wit42.hw.firm.identity = true) ∧
    (10 < 2 ^ 64 ∧ 11 < 2 ^ 64 ∧ 12 < 2 ^ 64 ∧ 13 < 2 ^ 64 ∧
     Commanded (3 : Fin 64) 2 wit40 [wit41, 5, 10, 11, 12, 13, 0, 0] wit61 ∧ 0 < 5 ∧ 5 < 2 ^ 16 ∧
     wit61.hw.firm.identity = false) ∧
    (Commanded (3 : Fin 64) 4 wit55 [wit52, 1 + 2 ^ 17, 0, 0, 0, 0, 0, 0] wit56 ∧ 0 < 2 ^ 64 ∧ 0 < 2 ^ 16 ∧ 0 = 0 ∧
     1 + 2 ^ 17 = 1 + 2 ^ 16 * 2 ∧ 2 < 0x10000 ∧ wit56.hw.net.ubt = [(2, u0)]) ∧
    (7 < 2 ^ 64 ∧ 0 < 2 ^ 64 ∧ 7 < 2 ^ 63 ∧ Commanded (3 : Fin 64) 9 wit8 [wit9, 0, 7, 1] wit10 ∧
     wit10.hw.pole.powered = true ∧ sget 7 wit10.hw.pole.secs = none) ∧
    (7 < 2 ^ 64 ∧ 0 < 2 ^ 64 ∧ 7 < 2 ^ 63 ∧ Commanded (3 : Fin 64) 9 wit8 [wit9, 0, 7, 1] wit14 ∧
     wit14.hw.pole.powered = true ∧ sget 7 wit14.hw.pole.secs = some [(1 : Byte), (2 : Byte), (3 : Byte)]) ∧
    (0 < 2 ^ 64 ∧ 70 < 2 ^ 64 ∧ 80 < 2 ^ 64 ∧ wit24.control = true ∧ 70 < 2 ^ 32 ∧
     Commanded (3 : Fin 64) 8 wit24 [wit21, 0, 70, 80] wit25) ∧
    (1 < 2 ^ 64 ∧ 0 < 2 ^ 64 ∧ Commanded (3 : Fin 64) 2 wit46 [wit41, 0, 1, 0, 0, 0, 0, 0] wit47 ∧ 0 = 0 ∧ 1 = 1 ∧
     wit47.hw.pole.powered = true) ∧
    (77 < 2 ^ 64 ∧ 0 < 2 ^ 64 ∧ 1 ≤ 1 ∧ Commanded (3 : Fin 64) 1 wit1 [wit2, 1, 77, 0] wit3) ∧
    (0 < 2 ^ 64 ∧ wit27.control = true ∧ Commanded (3 : Fin 64) 6 wit27 [wit28, 0, 0, 0] wit29 ∧
     wit29.hw.firm.loaded = false) ∧
    (0 < 2 ^ 64 ∧ wit37.control = true ∧ wit38.hw.debug = false ∧
     Commanded (3 : Fin 64) 7 wit37 [wit34, 1, 0, 0] wit38) ∧
    (0 < 2 ^ 64 ∧ wit20.control = false ∧ Commanded (3 : Fin 64) 8 wit20 [wit21, 0, 0, 0] wit22) ∧
    (0 < 2 ^ 64 ∧ wit33.control = true ∧ Commanded (3 : Fin 64) 7 wit33 [wit34, 0, 0, 0] wit35) ∧
    (0 < 2 ^ 64 ∧ Commanded (3 : Fin 64) 12 wit16 [wit17, 0, 0, 0] wit18) := by
  repeat' first | decide +kernel | rfl | (intro _; rfl) | constructor | unfold Serving

end Sys2Proof.Tests.HostWindow

namespace Sys2Proof.Tests.HostGraphs

def upAll (h : Hw) : Hw := { h with net := { h.net with ports := h.net.ports.map (fun p => {p with state := .up}) } }
def hs (f : Hw → Hw := id) (m : Mem := []) : State := { State.reset with hw := f (upAll { State.reset.hw with clock := 100000000 }), mem := m, pending := [.endNotice] }
def ses0 : Session := { epoch := 5, control := true, openId := 3, addr := 0x1234, udp := 999, local_ := false, port := 5, idleMs := 2000, cmdLog := 13, cplLog := 13 }
def wses (s : Session) (n : Nat := 3) (f : Hw → Hw := id) (m : Mem := []) : State := hs (fun h => f { h with net := { h.net with sessions := [(n, s)] } }) m
def ring (s : Session) (ws : List Nat) : Session := { s with cmds := wordsBytes ws, cmdWr := 8 * ws.length }
def hd (rt units tag : Nat) : Nat := rt * 2^56 + units * 2^32 + tag
def cm (rt : Nat) (rest : List Nat) (f : Hw → Hw := id) (s : Session := ses0) (m : Mem := []) : State := wses (ring s (hd rt ((rest.length+4)/4) 0x1234 :: rest)) 3 f m
def rg (rt : Nat) (rest : List Nat) (s : Session := ses0) : Session := ring s (hd rt ((rest.length+4)/4) 0x1234 :: rest)
def H (rt u : Nat) : Nat := hd rt u 0x1234
def z (n : Nat) := List.replicate n 0
def wit1 := rg 3 ([0, 0] ++ z 13)
def wit2 := H 3 4
def wit3 := cm 3 ([0, 0] ++ z 13)
def wit5 := rg 3 ([1, 0] ++ z 13)
def wit6 := cm 3 ([1, 0] ++ z 13)
def wit8 := rg 3 ([2, 0] ++ z 13)
def wit9 := cm 3 ([2, 0] ++ z 13)
def wit11 := rg 3 ([3, 44] ++ z 13)
def wit12 := cm 3 ([3, 44] ++ z 13)
def wit14 := rg 3 ([3, 2112] ++ z 13)
def wit15 := cm 3 ([3, 2112] ++ z 13)
def gl (cuts count src len dst segs entry : Nat) : List Nat := [cuts, count, src, len * 2 ^ 32 + dst, segs * 2 ^ 32 + entry, 0, 0, 0, 0, 0x80002F00, 0, 0, 0, 0, 0]
def ds (h : Hw) : Hw := { h with debug := true }
def mm := memWrite 0x001000000041 7 (memWrite 0x001000000040 5 [])
def wit17 := rg 5 (gl 0x001000000080 4 0x001000000040 16 8 1 8)
def wit18 := H 5 4
def wit19 := cm 5 (gl 0x001000000080 4 0x001000000040 16 8 1 8) ds ses0 mm
def dj (op : Nat) := [op, 0x12345678, 9, 1, 0, 0, 0, 0, 0x001000000040] ++ z 6
def wit24 := rg 10 (dj 0)
def wit25 := H 10 4
def wit26 := cm 10 (dj 0) id ses0 mm
def wit28 := rg 10 (dj 1)
def wit29 := cm 10 (dj 1)
def wit31 := cm 10 (dj 1) (fun h => {h with dom := {h.dom with joined := true, root := true}})
def dbg (op x y : Nat) (f : Hw → Hw := id) := cm 11 [op, x, y, 0, 0, 0, 0] f
def dr (op x y : Nat) := rg 11 [op, x, y, 0, 0, 0, 0]
def wit33 := dr 0 5 0
def wit34 := H 11 2
def wit35 := dbg 0 5 0
def wit37 := dr 1 0x20 0
def wit38 := dbg 1 0x20 0
def wit40 := dr 2 0x10 0
def wit41 := dbg 2 0x10 0
def wit43 := dr 3 0x20 0
def wit44 := dbg 3 0x20 0
def sl (h : Hw) : Hw := { h.updCore 2111 (fun k => {k with stallLimit := 9}) with debug := true }
def wit46 := dr 3 (0x0910 * 2^16 + 2111) 0
def wit47 := dbg 3 (0x0910 * 2^16 + 2111) 0 sl
def wit49 := dr 4 (0x0910 * 2^16 + 2111) 70
def wit50 := dbg 4 (0x0910 * 2^16 + 2111) 70 sl
def wit52 := dr 5 0 0
def wit53 := dbg 5 0 0 sl
def wit55 := dr 6 0 0
def wit56 := dbg 6 0 0 sl
def th (f : Thread → Thread) (h : Hw) : Hw := { h.updCore 2111 (fun k => k.setThread 2 (f {})) with debug := true }
def wit58 := dr 8 (2 * 2^12 + 2111) 0
def wit59 := dbg 8 (2 * 2^12 + 2111) 0 (th (fun t => {t with tstate := .stopped}))
def wit61 := H 5 4 :: (gl 0x001000000080 4 0x001000000040 16 8 1 8)
def wit62 := cm 5 (gl 0x001000000080 4 0x001000000040 16 8 1 8) (fun h => {h with sill := {h.sill with power := .idleGated}}) 
def wit64 := dr 7 (2 * 2^12 + 2111) 0
def wit65 := dbg 7 (2 * 2^12 + 2111) 0 (th (fun t => {t with tstate := .waiting}))

/-- The premises of `Obligations.HostCommands` can be met. -/
theorem witness_HostCommands :
    (Commanded (3 : Fin 64) 5 wit17 [wit18, 0x1000000080, 4, 0x1000000040, 16 * 2 ^ 32 + 8, 1 * 2 ^ 32 + 8, 0, 0, 0, 0, 0x80002f00, 0, 0, 0, 0, 0] wit19 ∧
     wit17.control = true ∧ 0x1000000080 < 2 ^ 48 ∧ 4 < 2 ^ 21 ∧ 0x1000000040 < 2 ^ 48 ∧ 8 < 2 ^ 20 ∧ 1 < 2 ^ 16 ∧
     (wit19.hw.access.le.st = EngineState.idle ∨ wit19.hw.access.le.st = EngineState.done) ∧
     wit19.hw.xmWest.failed = (0 : BitVec 8) ∧ wit19.hw.xmEast.failed = (0 : BitVec 8) ∧
     Readable 0x1000000040 16 wit19.hw.access ∧ 0x1000000040 % 64 = 0 ∧ 16 < 2 ^ 20 ∧
     runnerFault 0x1000000040 16 8 1 = none) ∧
    (wit64.control = true ∧ wit65.hw.debug = true ∧ wit65.hw.purlins = [] ∧
     (wit65.hw.access.core (Fin.val (2111 : CoreId))).held = false ∧
     Commanded (3 : Fin 64) 11 wit64 [wit34, 7, 2 * 2 ^ 12 + 2111, 0, 0, 0, 0, 0] wit65 ∧ 0 = 0 ∧
     2 * 2 ^ 12 + 2111 = Fin.val (2 : Fin 4) * 2 ^ 12 + Fin.val (2111 : CoreId) ∧ wit65.hw.later = [] ∧
     (wit65.hw.access.core (Fin.val (2111 : CoreId))).frozenAt = none ∧
     ((wit65.hw.access.core (Fin.val (2111 : CoreId))).thread (2 : Fin 4)).tstate = TState.waiting ∧
     ((wit65.hw.access.core (Fin.val (2111 : CoreId))).thread (2 : Fin 4)).stopReq = false) ∧
    (Commanded (3 : Fin 64) 10 wit24 ([wit25, 0, 0x12345678, 9, 1, 0, 0, 0, 0, 0x1000000040] ++ List.replicate 6 0) wit26 ∧
     wit24.control = true ∧ 0x12345678 < 2 ^ 32 ∧ 9 < 2 ^ 32 ∧ 1 ≤ 1 ∧ 0x1000000040 < 2 ^ 48 ∧ 0 = 0 ∧
     wit26.hw.dom.joined = false ∧ Readable 0x1000000040 4096 wit26.hw.access ∧ 0x1000000040 % 64 = 0) ∧
    (Commanded (3 : Fin 64) 10 wit28 ([wit25, 1, 0x12345678, 9, 1, 0, 0, 0, 0, 0x1000000040] ++ List.replicate 6 0) wit31 ∧
     wit28.control = true ∧ 0x12345678 < 2 ^ 32 ∧ 9 < 2 ^ 32 ∧ 1 ≤ 1 ∧ 0x1000000040 < 2 ^ 48 ∧ 1 = 1 ∧
     wit31.hw.dom.joined = true ∧
     (wit31.hw.access.le.st = EngineState.idle ∨ wit31.hw.access.le.st = EngineState.done ∨ wit31.hw.access.le.st = EngineState.error)) ∧
    (wit58.control = true ∧ wit59.hw.debug = true ∧ wit59.hw.purlins = [] ∧
     (wit59.hw.access.core (Fin.val (2111 : CoreId))).held = false ∧
     Commanded (3 : Fin 64) 11 wit58 [wit34, 8, 2 * 2 ^ 12 + 2111, 0, 0, 0, 0, 0] wit59 ∧ 0 = 0 ∧
     2 * 2 ^ 12 + 2111 = Fin.val (2 : Fin 4) * 2 ^ 12 + Fin.val (2111 : CoreId) ∧
     (((wit59.hw.access.reach (rootTurn wit59.hw.access + wire (2111 : CoreId))).core (Fin.val (2111 : CoreId))).thread (2 : Fin 4)).tstate = TState.stopped ∧
     (((wit59.hw.access.reach (rootTurn wit59.hw.access + wire (2111 : CoreId))).core (Fin.val (2111 : CoreId))).thread (2 : Fin 4)).wasWaiting = false) ∧
    (Commanded (3 : Fin 64) 10 wit28 ([wit25, 1, 0x12345678, 9, 1, 0, 0, 0, 0, 0x1000000040] ++ List.replicate 6 0) wit29 ∧
     wit28.control = true ∧ 0x12345678 < 2 ^ 32 ∧ 9 < 2 ^ 32 ∧ 1 ≤ 1 ∧ 0x1000000040 < 2 ^ 48 ∧ 1 = 1 ∧
     wit29.hw.dom.joined = false) ∧
    (wit46.control = true ∧ wit47.hw.debug = true ∧ wit47.hw.purlins = [] ∧
     (wit47.hw.access.core (Fin.val (2111 : CoreId))).held = false ∧
     Commanded (3 : Fin 64) 11 wit46 [wit34, 3, 2320 * 2 ^ 16 + 2111, 0, 0, 0, 0, 0] wit47 ∧ 0 = 0 ∧
     2320 * 2 ^ 16 + 2111 = 2320 * 2 ^ 16 + Fin.val (2111 : CoreId)) ∧
    (wit49.control = true ∧ wit50.hw.debug = true ∧ wit50.hw.purlins = [] ∧
     (wit50.hw.access.core (Fin.val (2111 : CoreId))).held = false ∧
     Commanded (3 : Fin 64) 11 wit49 [wit34, 4, 2320 * 2 ^ 16 + 2111, 70, 0, 0, 0, 0] wit50 ∧ 70 < 2 ^ 32 ∧
     2320 * 2 ^ 16 + 2111 = 2320 * 2 ^ 16 + Fin.val (2111 : CoreId)) ∧
    (Commanded (3 : Fin 64) 11 wit43 [wit34, 3, 32, 0, 0, 0, 0, 0] wit44 ∧ wit43.control = true ∧
     wit44.hw.debug = false ∧ 3 = 3 ∧ 0 = 0 ∧ 32 < 4096) ∧
    (wit52.control = true ∧ wit53.hw.debug = true ∧ wit53.hw.purlins = [] ∧
     (wit53.hw.access.core (Fin.val (2111 : CoreId))).held = false ∧
     Commanded (3 : Fin 64) 11 wit52 [wit34, 5, 0, 0, 0, 0, 0, 0] wit53 ∧ 0 = 0) ∧
    (wit55.control = true ∧ wit56.hw.debug = true ∧ wit56.hw.purlins = [] ∧
     (wit56.hw.access.core (Fin.val (2111 : CoreId))).held = false ∧
     Commanded (3 : Fin 64) 11 wit55 [wit34, 6, 0, 0, 0, 0, 0, 0] wit56 ∧ 0 = 0) ∧
    (Commanded (3 : Fin 64) 3 wit14 ([wit2, 3, 2112] ++ List.replicate 13 0) wit15 ∧ wit14.control = true ∧ 3 = 3 ∧
     2112 ≤ 2112 ∧ 2112 < 4096) ∧
    (Commanded (3 : Fin 64) 11 wit33 [wit34, 0, 5, 0, 0, 0, 0, 0] wit35 ∧ wit33.control = true ∧ 0 = 0 ∧ 5 < 2 ^ 64 ∧
     sget 5 wit35.hw.access.le.cuts = none) ∧
    (Commanded (3 : Fin 64) 11 wit37 [wit34, 1, 32, 0, 0, 0, 0, 0] wit38 ∧ wit37.control = true ∧ 1 = 1 ∧ 0 = 0 ∧
     32 = 32) ∧
    (Commanded (3 : Fin 64) 11 wit40 [wit34, 2, 16, 0, 0, 0, 0, 0] wit41 ∧ wit40.control = true ∧ 2 = 2 ∧ 0 = 0 ∧
     16 = 16) ∧
    (Commanded (3 : Fin 64) 3 wit5 ([wit2, 1, 0] ++ List.replicate 13 0) wit6 ∧ wit5.control = true ∧ 1 = 1 ∧ 0 = 0) ∧
    (Commanded (3 : Fin 64) 3 wit8 ([wit2, 2, 0] ++ List.replicate 13 0) wit9 ∧ wit8.control = true ∧ 2 = 2 ∧ 0 = 0) ∧
    (Commanded (3 : Fin 64) 3 wit11 ([wit2, 3, 44] ++ List.replicate 13 0) wit12 ∧ wit11.control = true ∧ 3 = 3 ∧
     44 = Fin.val (44 : CoreId)) ∧
    (Commanded (3 : Fin 64) 3 wit1 ([wit2, 0, 0] ++ List.replicate 13 0) wit3 ∧ wit1.control = true ∧ 0 = 0) ∧
    (Commanded (3 : Fin 64) 5 wit17 wit61 { pending := wit62.pending, mem := wit62.mem, hw := { wit62.hw with sill := { wit62.hw.sill with power := Power.idle : Sill } : Hw } : State } ∧
     wit62.hw.sill.power = Power.idleGated) := by
  repeat' first | decide +kernel | rfl | (intro _; rfl) | constructor | unfold Serving | unfold Readable

end Sys2Proof.Tests.HostGraphs

namespace Sys2Proof.Tests.Network

def upAll (h : Hw) : Hw := { h with net := { h.net with ports := h.net.ports.map (fun p => {p with state := .up}) } }
def hs (f : Hw → Hw := id) (m : Mem := []) : State := { State.reset with hw := f (upAll { State.reset.hw with clock := 100000000 }), mem := m, pending := [.endNotice] }
def dg (b : List Byte) (p : Fin 8 := 5) : Dgram := { port := p, src := 0x1234, srcPort := 999, dst := .linkLocal, ce := false, payload := b }
def np (p : Nat) (f : Port → Port) (g : Hw → Hw := id) : State := hs (fun h => g { h with net := { h.net with ports := Vector.ofFn (fun i : Fin 8 => if i.val = p then f (h.net.ports[i]) else h.net.ports[i]) } })
def wit1 := hs
def wit2 := np 5 (fun q => {q with state := .down})
def wit3 := np 5 (fun q => {q with state := .down, active := 0x80000000})
def wit4 := np 5 (fun q => {q with state := .train, shadow := 0x80000000})
def hd5 : Port → Port := fun q => {q with held := [({port := 5, pcp := 3, addr := 1, udp := 2, payload := [3]} : Sending)], paused := 0x2C, active := 0x06A00007 }
def wit6 := np 5 hd5
def wit8 := (hs).hw.conf.linkLocal 5
def wit9 := hs (fun h => {h with conf := {h.conf with v4 := [none, some 0x0A000001]}})
def u0 : Ubt := { epoch := 7, net := 1, base := 0x001000000040, length := 640, r := true, w := true, addr := 5, udp := 50711, rate := 16000000000, port := some 5, psnIn := 10, doneIn := 10 }
def us (f : Ubt → Ubt) (g : Hw → Hw := id) : State := hs (fun h => g { h with net := { h.net with ubt := [(2, f u0)] } }) 
def pk (op psn apsn addr : Nat) (ece last : Bool) (err len : Nat) (b : List Byte := []) := dg (ubtHeader op 2 7 psn apsn addr ece last err len ++ b)
def hx (op psn apsn addr : Nat) (ece last : Bool) (err len : Nat) : UbtHdr := {op := op, session := 2, epoch := 7, psn := psn, apsn := apsn, addr := addr, ece := ece, last := last, err := err, len := len}
def b16 : List Byte := [1,2,3,4,5,6,7,8,9,10,11,12,13,14,15,16]
def unw : Ubt → Ubt := fun u => {u with w := false}
def wit11 := pk 1 10 0 8 false false 0 16 b16
def wit12 := hx 1 10 0 8 false false 0 16
def wit13 := us id
def wit14 := unw u0
def wit15 := us unw
def wit16 := pk 1 12 0 8 false false 0 16 b16
def wit17 := hx 1 12 0 8 false false 0 16
def wit18 := pk 1 9 0 8 false false 0 16 b16
def wit19 := hx 1 9 0 8 false false 0 16
def wit20 := pk 2 10 0 8 false false 0 16
def wit21 := hx 2 10 0 8 false false 0 16
def wit22 := pk 3 10 0 8 false true 0 16 b16
def wit23 := hx 3 10 0 8 false true 0 16
def cutU : Cut := { Cut.of 1 [0x001000000100, 10, 0, 2^48, 0, 0x1000, 2^16 + 2^17, 2^53, 0, 0,0,0,0,0,0,0] [0x001000000100,0,0,16] with st := .running }
def rd0 : UbtRead := {psn := 4, cut := 1, off := 8, len := 16}
def wr : Ubt → Ubt := fun u => {u with reads := [rd0]}
def wit24 := wr u0
def wit25 := us wr (fun h => {h with le := {h.le with st := .running, cuts := [(1, cutU)]}})
def pt : UbtPacket := {psn := 20, bytes := [1,2,3]}
def wp : Ubt → Ubt := fun u => {u with unacked := [pt], psnOut := 21}
def wit26 := pk 4 0 20 0 true false 0 0
def wit27 := hx 4 0 20 0 true false 0 0
def wit28 := wp u0
def wit29 := us wp
def wit32 := pk 5 0 20 0 false false 0 0
def wit33 := hx 5 0 20 0 false false 0 0
def wit34 := pk 5 0 20 0 false false 1 0
def wit35 := hx 5 0 20 0 false false 1 0
def wit36 := pk 5 0 20 0 false false 6 0
def wit37 := hx 5 0 20 0 false false 6 0
def wt : Ubt → Ubt := fun u => {wp u with timeouts := 15}
def wit38 := wt u0
def wit39 := us wt
def yin : UbtIn := {psn := 9, read := true, addr := 64, len := 24}
def wy : Ubt → Ubt := fun u => {u with inPkts := [yin]}
def wit41 := wy u0
def wit42 := us wy

/-- The premises of `Obligations.UbtAndEthernet` can be met. -/
theorem witness_UbtAndEthernet :
    (Packet 3 wit22 wit23 wit24 wit25 ∧ wit23.psn = wit24.psnIn ∧ wit24.reads = [rd0] ∧ wit24.inPkts = [] ∧
     rd0.got = 0 ∧ wit23.last = true ∧ wit23.len = rd0.len ∧ CutAt rd0.cut cutU wit25.hw ∧ cutU.fault = none ∧
     0 < wit23.len ∧ Readable (cutU.spec.headD 0 % 2 ^ 48 + rd0.off) wit23.len wit25.hw ∧
     (cutU.spec.headD 0 % 2 ^ 48 + rd0.off) % 64 + wit23.len ≤ 64) ∧
    (Packet 2 wit20 wit21 u0 wit13 ∧ wit21.psn = u0.psnIn ∧ wit21.addr % 8 = 0 ∧ wit21.len % 8 = 0 ∧
     wit21.addr + wit21.len ≤ u0.length ∧ 0 < wit21.len ∧ wit21.len ≤ 2 ^ 20 ∧ u0.r = true ∧ u0.inPkts = []) ∧
    (Packet 1 wit11 wit12 wit14 wit15 ∧ wit12.psn = wit14.psnIn ∧ wit12.addr % 8 = 0 ∧ wit12.len % 8 = 0 ∧
     wit12.addr + wit12.len ≤ wit14.length ∧ wit14.w = false ∧ wit14.inPkts = [] ∧ wit12.len ≤ 8192) ∧
    (Packet 1 wit11 wit12 u0 wit13 ∧ wit12.psn = u0.psnIn ∧ wit12.addr % 8 = 0 ∧ wit12.len % 8 = 0 ∧
     wit12.addr + wit12.len ≤ u0.length ∧ u0.w = true ∧ u0.inPkts = [] ∧
     Readable (u0.base + wit12.addr) wit12.len wit13.hw ∧ (u0.base + wit12.addr) % 64 + wit12.len ≤ 64 ∧
     0 < wit12.len) ∧
    (Serving wit29 ∧ sget (BitVec.toNat (2 : BitVec 16)) wit29.hw.net.ubt = some wit28 ∧
     wit28.port = some (Fin.val (5 : Fin 8)) ∧ wit29.hw.net.isUp (Fin.val (5 : Fin 8)) = true ∧
     (wit29.hw.net.port (Fin.val (5 : Fin 8))).paused = (0 : BitVec 8) ∧ wit28.unacked = [pt] ∧ wit28.timeouts < 15) ∧
    (Serving wit29 ∧ sget (BitVec.toNat (2 : BitVec 16)) wit29.hw.net.ubt = some wit28 ∧
     wit28.port = some (Fin.val (5 : Fin 8)) ∧ wit29.hw.net.isUp (Fin.val (5 : Fin 8)) = true ∧
     (wit29.hw.net.port (Fin.val (5 : Fin 8))).paused = (0 : BitVec 8) ∧ wit28.inPkts = [] ∧ wit28.host = none) ∧
    (Serving wit39 ∧ sget (BitVec.toNat (2 : BitVec 16)) wit39.hw.net.ubt = some wit38 ∧
     wit38.port = some (Fin.val (5 : Fin 8)) ∧ wit39.hw.net.isUp (Fin.val (5 : Fin 8)) = true ∧
     (wit39.hw.net.port (Fin.val (5 : Fin 8))).paused = (0 : BitVec 8) ∧ wit38.unacked = [pt] ∧ 15 ≤ wit38.timeouts) ∧
    (wit28.unacked = [pt] ∧ pt.psn = wit27.apsn ∧ pt.cut = none ∧ Packet 4 wit26 wit27 wit28 wit29 ∧
     wit28.psnOut = add32 wit27.apsn 1 ∧ wit27.apsn < 2 ^ 32) ∧
    (wit28.unacked = [pt] ∧ pt.psn = wit33.apsn ∧ pt.cut = none ∧ Packet 5 wit32 wit33 wit28 wit29 ∧ wit33.err = 0) ∧
    (wit28.unacked = [pt] ∧ pt.psn = wit35.apsn ∧ pt.cut = none ∧ Packet 5 wit34 wit35 wit28 wit29 ∧ wit35.err = 1) ∧
    (Serving wit42 ∧ sget (BitVec.toNat (2 : BitVec 16)) wit42.hw.net.ubt = some wit41 ∧
     wit41.port = some (Fin.val (5 : Fin 8)) ∧ wit42.hw.net.isUp (Fin.val (5 : Fin 8)) = true ∧
     (wit42.hw.net.port (Fin.val (5 : Fin 8))).paused = (0 : BitVec 8)) ∧
    ((wit3.hw.net.port (Fin.val (5 : Fin 8))).state = PortLink.down ∧
     BitVec.toNat (wit3.hw.net.port (Fin.val (5 : Fin 8))).active / 2 ^ 30 ≠ 0 ∧ wit3.hw.board.held = false ∧
     wit3.hw.firm.romHalted = false) ∧
    (Packet 1 wit16 wit17 u0 wit13 ∧ 0 < sub32 wit17.psn u0.psnIn ∧ sub32 wit17.psn u0.psnIn < 2 ^ 31 ∧
     (∀ (t : Nat), u0.nakAt = some t → t + 0xea60 ≤ wit13.hw.clock)) ∧
    (Packet 3 wit22 wit23 u0 wit13 ∧ wit23.psn = u0.psnIn ∧ u0.reads = [] ∧ u0.inPkts = []) ∧
    ((wit6.hw.net.port (Fin.val (5 : Fin 8))).state = PortLink.up ∧
     (Fin.val (3 : Fin 8) = BitVec.toNat (wit6.hw.net.port (Fin.val (5 : Fin 8))).active / 2 ^ 25 % 8 ∨ Fin.val (3 : Fin 8) = BitVec.toNat (wit6.hw.net.port (Fin.val (5 : Fin 8))).active / 2 ^ 22 % 8 ∧
     BitVec.getLsbD (wit6.hw.net.port (Fin.val (5 : Fin 8))).active 21 = true)) ∧
    (Fin.val (3 : Fin 8) ≠ BitVec.toNat (wit1.hw.net.port (Fin.val (5 : Fin 8))).active / 2 ^ 25 % 8 ∧
     (Fin.val (3 : Fin 8) ≠ BitVec.toNat (wit1.hw.net.port (Fin.val (5 : Fin 8))).active / 2 ^ 22 % 8 ∨ BitVec.getLsbD (wit1.hw.net.port (Fin.val (5 : Fin 8))).active 21 = false)) ∧
    (wit1.hw.net.isUp (Fin.val (5 : Fin 8)) = true ∧
     wit1.hw.conf.v4.getD (Fin.val (5 : Fin 8) / 4) none ≠ some (0xa000001 : W32)) ∧
    (wit1.hw.net.isUp (Fin.val (5 : Fin 8)) = true ∧ wit1.hw.conf.hasV6 (Fin.val (5 : Fin 8)) wit8 = true) ∧
    (wit9.hw.net.isUp (Fin.val (5 : Fin 8)) = true ∧
     wit9.hw.conf.v4.getD (Fin.val (5 : Fin 8) / 4) none = some (0xa000001 : W32)) ∧
    (wit1.hw.net.isUp (Fin.val (5 : Fin 8)) = true ∧
     wit1.hw.conf.hasV6 (Fin.val (5 : Fin 8)) (7 : BitVec 128) = false) ∧
    (Packet 1 wit18 wit19 u0 wit13 ∧ 2 ^ 31 ≤ sub32 wit19.psn u0.psnIn) ∧
    (Packet 5 wit36 wit37 wit28 wit29 ∧ wit37.err = 6) ∧
    ((wit1.hw.net.port (Fin.val (5 : Fin 8))).state ≠ PortLink.down) ∧
    (BitVec.getLsbD (1 : W32) 0 = true) ∧
    ((wit2.hw.net.port (Fin.val (5 : Fin 8))).state = PortLink.down) ∧
    ((wit4.hw.net.port (Fin.val (5 : Fin 8))).state = PortLink.train) ∧
    (BitVec.getLsbD (2 : W32) 0 = false) := by
  repeat' first | decide +kernel | rfl | (intro _; rfl) | constructor | unfold Serving | unfold CutAt | unfold Readable

end Sys2Proof.Tests.Network

namespace Sys2Proof.Tests.StoryPoles

def upAll (h : Hw) : Hw := { h with net := { h.net with ports := h.net.ports.map (fun p => {p with state := .up}) } }
def hs (f : Hw → Hw := id) (m : Mem := []) : State := { State.reset with hw := f (upAll { State.reset.hw with clock := 100000000 }), mem := m, pending := [.endNotice] }
def pl (f : Pole → Pole) (g : Hw → Hw := id) : State := hs (fun h => g { h with pole := f h.pole })
def v16 (n : Nat) := List.replicate 16 n
def wit1 := v16 48000000
def wit2 := v16 8000000
def wit3 := hs
def wit5 := pl (fun p => {p with powered := false})
def wit6 := (v16 48000000).set 3 64000001
def ln (l : Line) : Pole → Pole := fun p => {p with lines := [(7, l)], work := 3}
def wit11 := lineCrc 1000 false
def wit12 := pl (ln {signal := true, baseline := 900})
def wit13 := pl (ln {signal := true, baseline := 1001})
def wit15 := pl (ln {signal := true, baseline := 900, failing := some 80}) (fun h => h.updBent 7 (fun b => {b with lineSent := 15}))
def wit16 := ~~~(lineCrc 1000 false)
def r0 (j : Bool) : Machine.Ready := {job := j, flags := 1, first := 3, last := 9, energy := 7, work := 8, fwver := 1, audit := 2, cycle := 3, label := []}
def wit19 := r0 false
def wit20 := pl (fun p => {p with ready := [r0 false, r0 true]})
def oj (l : Option Nat) : OpenRec := {job := true, first := 4, last := l}
def wit24 := pl (fun p => {p with secs := [(9, [1,2])], jobRecs := [(9, [3])], jobs := [oj none]})
def wit25 := oj none
def wit26 := pl (fun p => {p with image := some 9})
def wit28 := AlarmKind.lineFault 3

/-- The premises of `Obligations.StoryPole` can be met. -/
theorem witness_StoryPole :
    (wit1.length = 16 ∧ wit2.length = 16 ∧ wit3.hw.pole.powered = true ∧ (∀ ch < 16, 0x2255100 ≤ wit1.getD ch 0 ∧
     wit1.getD ch 0 ≤ 0x3d09000 ∧ wit2.getD ch 0 ≤ 0x7a1200)) ∧
    (wit6.length = 16 ∧ wit2.length = 16 ∧ wit3.hw.pole.powered = true ∧
     ¬(0x2255100 ≤ wit6.getD (Fin.val (3 : Fin 16)) 0 ∧ wit6.getD (Fin.val (3 : Fin 16)) 0 ≤ 0x3d09000 ∧
     wit2.getD (Fin.val (3 : Fin 16)) 0 ≤ 0x7a1200)) ∧
    (wit12.hw.pole.powered = true ∧ wit11 = lineCrc (1000 : W64) false ∧
     (sgetD (Fin.val (7 : BentId)) { signal := false, baseline := 0, failing := none : Line } wit12.hw.pole.lines).signal = true ∧
     (BitVec.toNat (1000 : W64) + 2 ^ 64 - (sgetD (Fin.val (7 : BentId)) { signal := false, baseline := 0, failing := none : Line } wit12.hw.pole.lines).baseline) % 2 ^ 64 < 2 ^ 32) ∧
    (wit13.hw.pole.powered = true ∧ wit11 = lineCrc (1000 : W64) false ∧ false = false ∧
     2 ^ 32 ≤ (BitVec.toNat (1000 : W64) + 2 ^ 64 - (sgetD (Fin.val (7 : BentId)) { signal := false, baseline := 0, failing := none : Line } wit13.hw.pole.lines).baseline) % 2 ^ 64) ∧
    (wit3.hw.pole.powered = true ∧ wit3.hw.pole.jobs = [] ∧ wit3.hw.pole.ready = [] ∧ wit3.hw.pole.second.job = false) ∧
    (wit1.length = 16 ∧ wit2.length = 16 ∧ wit5.hw.pole.powered = false) ∧
    (wit12.hw.pole.powered = true ∧ wit16 ≠ lineCrc (1000 : W64) false ∧
     (sgetD (Fin.val (7 : BentId)) { signal := false, baseline := 0, failing := none : Line } wit12.hw.pole.lines).failing = none) ∧
    (wit24.hw.pole.powered = true ∧ wit24.hw.pole.jobs = [wit25] ∧ wit25.last = none) ∧
    (wit3.hw.pole.powered = true ∧ 1 ≤ BitVec.toNat (7 : BitVec 8) ∧ BitVec.toNat (7 : BitVec 8) ≤ 7) ∧
    (wit26.hw.pole.image = some 9 ∧ wit26.hw.pole.powered = true ∧ wit26.hw.pole.second.first = wit26.hw.pole.time) ∧
    (wit28 ∉ wit3.hw.pole.due ∧ wit28 ≠ AlarmKind.clockFault ∧ wit28 ≠ AlarmKind.nvmFault) ∧
    (wit15.hw.pole.powered = true ∧
     (sgetD (Fin.val (7 : BentId)) { signal := false, baseline := 0, failing := none : Line } wit15.hw.pole.lines).failing = some 80) ∧
    (wit20.hw.pole.powered = true ∧ wit20.hw.pole.ready = [wit19, r0 true]) ∧
    (wit3.hw.pole.powered = true ∧ ((0 : BitVec 8) = (0 : BitVec 8) ∨ 7 < BitVec.toNat (0 : BitVec 8))) ∧
    ((wit3.hw.pole.image = none ∨ wit3.hw.pole.second.first ≠ wit3.hw.pole.time)) ∧
    ((AlarmKind.clockFault ∈ wit3.hw.pole.due ∨ AlarmKind.clockFault = AlarmKind.clockFault ∨ AlarmKind.clockFault = AlarmKind.nvmFault)) := by
  repeat' first | decide +kernel | rfl | exact not_self _ | (intro _; rfl) | constructor

end Sys2Proof.Tests.StoryPoles

namespace Sys2Proof.Tests.ResetStates

def upAll (h : Hw) : Hw := { h with net := { h.net with ports := h.net.ports.map (fun p => {p with state := .up}) } }
def hs (f : Hw → Hw := id) (m : Mem := []) : State := { State.reset with hw := f (upAll { State.reset.hw with clock := 100000000 }), mem := m, pending := [.endNotice] }
def mm := memWrite (locImem 3 9) 4 (memWrite (locScratch 44 5) 6 (memWrite (locScratch 0 5) 6 (memWrite 0x001000000041 7 (memWrite 0x001000000040 5 (memWrite (locExt 70) 8 [])))))
def wit1 := hs
def rq (op : ResetOp) (f : Hw → Hw := id) : State := hs (fun h => f {h with resets := [op]}) mm
def oF : ResetOp := {level := .frame}
def oJ : ResetOp := {level := .job}
def oC (c : CoreId) : ResetOp := {level := .core c}
def oH : ResetOp := {level := .job, hold := true}
def wit3 := rq oF
def wit12 := rq oH
def oq (o : ResetOp) : ResetOp := {o with quiesced := true, due := 100000500}
def se (o : ResetOp) (f : Hw → Hw := id) := (rq (oq o) f)
def rr (h : Hw) : Hw := { (h.updCore 44 (fun k => {k with runsCut := some 3, held := true})) with firm := {h.firm with runner := (0x001000000040, 16, 8, 8)}, le := {h.le with runnerSegs := 3} }
def wit13 := oq (oC 44)
def wit14 := se (oC 44)
def wit16 := se (oC 44) rr
def wit17 := oq oJ
def wit18 := se oJ

/-- The premises of `Obligations.Resets` can be met. -/
theorem witness_Resets :
    (wit16.hw.resets = [wit13] ∧ wit13.quiesced = true ∧ wit16.hw.net.afterReset = [] ∧
     wit13.level = Level.core (44 : CoreId) ∧ (wit16.hw.core (Fin.val (44 : CoreId))).runsCut = some 3 ∧
     wit16.hw.firm.runner = (0x1000000040, 16, 8, 8) ∧ Readable 0x1000000040 16 (wit16.hw.event wit13.due) ∧
     0x1000000040 % 64 = 0 ∧ 8 + 16 ≤ imemSize (Fin.val (44 : CoreId)) ∧
     (((wit16.hw.event wit13.due).core (Fin.val (44 : CoreId))).thread (0 : Fin 4)).tstate = TState.halted ∧
     wit16.hw.postMortem = false) ∧
    (wit12.hw.resets = [oH] ∧ oH.quiesced = false ∧ MemoryStill wit12 ∧ oH.hold = true ∧ wit12.hw.net.afterReset = []) ∧
    (wit14.hw.resets = [wit13] ∧ wit13.quiesced = true ∧ wit14.hw.net.afterReset = [] ∧
     wit13.level = Level.core (44 : CoreId) ∧ (wit14.hw.core (Fin.val (44 : CoreId))).runsCut = none) ∧
    (wit3.hw.resets = [oF] ∧ oF.quiesced = false ∧ MemoryStill wit3 ∧ oF.hold = false) ∧
    (wit18.hw.resets = [wit17] ∧ wit17.quiesced = true ∧ wit18.hw.net.afterReset = [] ∧
     (wit17.level = Level.job ∨ wit17.level = Level.frame)) ∧
    (wit1.hw.resets = [] ∧ wit1.hw.postMortem = false) ∧
    (wit3.hw.resets = [{ level := Level.frame, hold := false, quiesced := false, due := 0 : ResetOp }]) := by
  repeat' first | decide +kernel | rfl | (intro _; rfl) | constructor | unfold Readable | unfold MemoryStill

end Sys2Proof.Tests.ResetStates

end
end

namespace Sys2Proof.Machine

/-! ### Memory stays canonical: folds, scratchpad frames and issue

Every write of the model goes through `memWrite` or a filter, whose laws stand in Laws/Memory. The lemmas below carry the canonical
form through each meaning that answers a memory, in the order of the definitions. -/

/-- A meaning answers a memory in its canonical form. -/
def MemWf (r : Mem × Hw) : Prop := Memory.wf r.1 = true

/-- The hardware beside a memory does not matter for its form. -/
theorem MemWf.withHw {r : Mem × Hw} (hr : MemWf r) (h : Hw) : MemWf (r.1, h) := hr

/-- A fold whose every step keeps a property of its state keeps it. -/
theorem foldl_keeps {α β : Type} {P : β → Prop} {f : β → α → β} (hf : ∀ b a, P b → P (f b a)) (xs : List α) {b : β} (hb : P b) :
    P (xs.foldl f b) := List.foldlRecOn xs f hb (fun b hb a _ => hf b a hb)

/-- Bytes put back keep the canonical form. -/
theorem wf_putBack (u : List (Nat × Byte)) {m : Mem} (hm : Memory.wf m = true) : Memory.wf (putBack u m) = true :=
  foldl_keeps (P := fun m => Memory.wf m = true) (fun _ p h => wf_memWrite p.1 p.2 h) u hm

/-- One access of a frame keeps the canonical form. -/
theorem wf_doAct (c : CoreId) (x : Mem × List (Nat × Byte) × Hw) (a : FrameAct) (hx : Memory.wf x.1 = true) :
    Memory.wf (doAct c x a).1 = true := by
  cases a with
  | write slot loc data => exact wf_memWriteN loc data hx
  | load t dest loc n => exact hx

section
variable {m : Mem} (hm : Memory.wf m = true)
include hm

/-- An access that takes its place in the slot order of its frame keeps the canonical form (R217). -/
theorem wf_frameAct (h : Hw) (c : CoreId) (a : FrameAct) : MemWf (h.frameAct c a m) := by
  unfold Hw.frameAct
  dsimp only
  split
  · exact wf_doAct c _ a hm
  · exact foldl_keeps (P := fun x : Mem × List (Nat × Byte) × Hw => Memory.wf x.1 = true) (wf_doAct c) _ (wf_putBack _ hm)

/-! ### Rows of a tile move (R107 to R110) -/

theorem wf_scratchRow (c : CoreId) (mv : TileMove) (loc n : Nat) (h : Hw) : MemWf (scratchRow c mv loc n m h) := by
  unfold scratchRow
  dsimp only
  split
  · exact wf_frameAct hm h c _
  · exact hm

theorem wf_moveRow (c : CoreId) (mv : TileMove) (h : Hw) : MemWf (moveRow c mv m h) := by
  unfold moveRow
  dsimp only
  split
  · exact hm
  · exact hm
  · exact wf_scratchRow hm c mv _ _ _
  · exact hm

theorem wf_pairRow (c : CoreId) (first : Nat) (h : Hw) : MemWf (pairRow c first m h) := by
  unfold pairRow
  split
  · split
    · split
      · exact wf_moveRow hm c _ h
      · exact hm
    · exact hm
  · exact hm

theorem wf_tileMoveRow (c : CoreId) (h : Hw) : MemWf (tileMoveRow c m h) := by
  unfold tileMoveRow
  dsimp only
  split
  · exact hm
  · split
    · exact hm
    · have hrow := wf_moveRow hm c
      split
      · exact wf_pairRow (hrow _ _) c _ _
      · exact hrow _ _

end

/-! ### Issued instructions -/

/-- What holds of the memory before an instruction, and of what its effect leaves, holds after its issue. -/
theorem runInstrM_keeps {P : Mem → Prop} {m : Mem} (hm : P m) (w : Who) (f : Form)
    {body : Option (BitVec 26) → Mem → Hw → Ctl × Mem × Hw} (hbody : ∀ p h, P (body p m h).2.1) (h : Hw) :
    P (runInstrM w f body m h).1 := by
  have hslot : ∀ x, P (inSlot w f body m x).2.1 := by
    intro x
    rcases inSlot_cases w f body m x with ⟨e, -, he⟩ | ⟨-, ⟨-, -, he⟩ | ⟨-, he⟩⟩
    · rw [he]; exact hm
    · rw [he]; exact hm
    · rw [he]; exact hbody _ x
  unfold runInstrM
  dsimp only
  split
  · exact hm
  · split
    · split
      · exact hm
      · exact hslot _
    · exact hslot _

section
variable {m : Mem} (hm : Memory.wf m = true)
include hm

theorem wf_doStore (w : Who) (addr align : Nat) (bs : List Byte) (isD : Bool) (h : Hw) :
    Memory.wf (doStore w addr align bs isD m h).2.1 = true := by
  unfold doStore
  split
  · exact hm
  · exact wf_frameAct hm _ _ _
  · exact wf_ridgeBytes _ bs hm
  · split
    · exact hm
    · split
      · exact hm
      · exact hm

theorem wf_scalarStore (w : Who) (f : Form) (b : Fin 16) (off : Offset) (n : Nat) (x : Thread → Nat) (legal : Bool) (h : Hw) :
    MemWf (scalarStore w f b off n x legal m h) := by
  refine runInstrM_keeps (P := fun m => Memory.wf m = true) hm w f (fun p h => ?_) h
  split
  · exact hm
  · split
    · exact hm
    · exact wf_doStore hm w _ _ _ _ h

/-! ### Transfers (R226 to R228) -/

theorem wf_xpass (b : BentId) (e : Fin 4) (r : XReq) (u : XUnit) (h : Hw) : MemWf (xpass b e r u m h) := by
  unfold xpass
  dsimp only
  split
  · exact hm
  · exact wf_xwrite _ _ _ _ _ _ _ _ _ _ hm

theorem wf_xfill (b : BentId) (e : Fin 4) (req unit piece : Nat) (bs : List Byte) (err : Bool) (due : Nat) (h : Hw) :
    MemWf (xfill b e req unit piece bs err due m h) := by
  unfold xfill
  dsimp only
  split
  · exact hm
  · split
    · split
      · exact wf_xpass hm b e _ _ _
      · exact hm
    · exact hm

theorem wf_xissue (b : BentId) (e : Fin 4) (r : XReq) (h : Hw) : MemWf (xissue b e r m h) := by
  unfold xissue
  extract_lets tr off now n src dst fail again s
  clear_value s
  split
  · exact hm
  · exact hm
  · dsimp only
    split
    · exact hm
    · exact hm
    · split
      · exact wf_xpass hm b e r _ _
      · exact hm

theorem wf_transferUnitIssue (b : BentId) (e : Fin 4) (h : Hw) : MemWf (transferUnitIssue b e m h) := by
  unfold transferUnitIssue
  dsimp only
  split
  · exact hm
  · split
    · exact hm
    · split
      · exact hm
      · exact wf_xissue hm b e _ _

theorem wf_slot3UnitWrite (c : CoreId) (h : Hw) : MemWf (slot3UnitWrite c m h) := by
  unfold slot3UnitWrite
  dsimp only
  split
  · exact hm
  · split
    · exact hm
    · split
      · exact wf_frameAct hm _ c _
      · split
        · exact wf_xfill hm _ _ _ _ _ _ _ _ _
        · exact hm

theorem wf_imemUnitWrite (c : CoreId) (h : Hw) : MemWf (imemUnitWrite c m h) := by
  unfold imemUnitWrite
  dsimp only
  split
  · exact hm
  · split
    · exact hm
    · exact wf_memWriteN _ _ hm

/-! ### Requests performed at slices and controllers (R268, R400, R411) -/

theorem wf_performWrite (key : Nat) (ws : List (Nat × Byte)) (h : Hw) : Memory.wf (performWrite key ws m h).2.1 = true := by
  rw [performWrite_mem]
  exact wf_writeOffs _ ws hm

theorem wf_answerUnit (b : BentId) (e : Fin 4) (req unit piece : Nat) (data : Option (List Byte)) (due : Nat) (h : Hw) :
    MemWf (answerUnit b e req unit piece data due m h) := by
  unfold answerUnit
  split
  · exact wf_xfill hm b e _ _ _ _ _ _ h
  · exact hm

theorem wf_plateWrite (p : Plate) (loc : XLoc) (path : RowPath) (o : Origin) (bs : List Byte) (now : Nat) (h : Hw) :
    MemWf (plateWrite p loc path o bs now m h) := wf_xwrite _ _ _ _ _ _ _ _ _ _ hm

theorem wf_copyPass (i : Nat) (x : Cut) (u : XUnit) (h : Hw) : MemWf (copyPass i x u m h) := by
  unfold copyPass
  dsimp only
  split
  · exact hm
  · exact wf_plateWrite hm _ _ _ _ _ _ _

theorem wf_answerCopy (i unit piece : Nat) (data : Option (List Byte)) (due : Nat) (h : Hw) :
    MemWf (answerCopy i unit piece data due m h) := by
  unfold answerCopy
  split
  · exact hm
  · dsimp only
    split
    · split
      · exact wf_copyPass hm i _ _ _
      · exact hm
    · exact hm

theorem wf_answerRead (q : MemReq) (data : Option (List Byte)) (start : Nat) (h : Hw) :
    MemWf (answerRead q data start m h) := by
  unfold answerRead
  dsimp only
  split
  · exact hm
  · exact hm
  · exact hm
  · exact wf_answerUnit hm _ _ _ _ _ _ _ _
  · exact wf_answerCopy hm _ _ _ _ _ _
  · exact hm
  · exact hm

theorem wf_performReq (q : MemReq) (start : Nat) (h : Hw) : MemWf (performReq q start m h) := by
  unfold performReq
  split
  · exact wf_answerRead hm q _ start _
  · exact wf_performWrite hm q.key _ h

theorem wf_sliceRequest (b : BentId) (sl : Fin 64) (h : Hw) : MemWf (sliceRequest b sl m h) := by
  unfold sliceRequest
  dsimp only
  split
  · exact hm
  · exact wf_performReq hm _ _ _

theorem wf_memoryTake (p : Plate) (rs : List MemReq) (h : Hw) : MemWf (memoryTake p rs m h) := by
  unfold memoryTake
  dsimp only
  split
  · exact hm
  · split
    · exact hm
    · exact wf_performReq hm _ _ _

theorem wf_memoryRequest (p : Plate) (h : Hw) : MemWf (memoryRequest p m h) := by
  unfold memoryRequest
  dsimp only
  split
  · exact hm
  · exact wf_memoryTake hm p _ _

end

/-- The work of slices and controllers on a write-back keeps the canonical form (R235). -/
theorem wf_driveEviction (c : CoreId) (key serial fuel : Nat) (x : Mem × Hw) (hx : MemWf x) :
    MemWf (driveEviction c key serial fuel x) := by
  induction fuel generalizing x with
  | zero => exact hx
  | succ fuel ih =>
    unfold driveEviction
    split
    · apply ih
      split
      · exact wf_memoryTake hx _ _ _
      · exact wf_sliceRequest hx _ _ _
    · exact hx

section
variable {m : Mem} (hm : Memory.wf m = true)
include hm

theorem wf_evictionWriteback (c : CoreId) (h : Hw) : MemWf (evictionWriteback c m h) := by
  unfold evictionWriteback
  split
  · exact hm
  · exact wf_driveEviction c _ _ _ _ hm

theorem wf_pageMapCommitEffect (h : Hw) : MemWf (pageMapCommitEffect m h) := by
  unfold pageMapCommitEffect
  split
  · exact hm
  · dsimp only
    split
    · exact wf_performWrite hm _ _ _
    · exact wf_performWrite hm _ _ _

end

end Sys2Proof.Machine

namespace Sys2Proof.Machine

/-- A copy agent's next unit is read, and its bytes are written later: memory is as it was. -/
@[simp] theorem copyIssue_mem (i : Nat) (x : Cut) (m : Mem) (h : Hw) : (copyIssue i x m h).1 = m := by
  unfold copyIssue
  dsimp only
  split
  · rfl
  · rfl
  · split
    · rfl
    · rfl
    · rfl

section
variable {m : Mem} (hm : Memory.wf m = true)
include hm

/-! ### The Layout engine (R312 to R322, R328, R395) -/

theorem wf_logWrite (ws : List Nat) (h : Hw) : MemWf (logWrite ws m h) := wf_performWrite hm _ _ _

theorem wf_runRecord (i : Nat) (x : Cut) (failed : Bool) (h : Hw) : MemWf (runRecord i x failed m h) := by
  unfold runRecord
  split
  · split
    · exact hm
    · exact wf_logWrite hm _ h
  · exact hm

theorem wf_layOut (i : Nat) (x : Cut) (h : Hw) : MemWf (layOut i x m h) := by
  unfold layOut
  dsimp only
  split
  · exact wf_logWrite hm _ h
  · exact hm

theorem wf_layoutCut (h : Hw) : MemWf (layoutCut m h) := by
  unfold layoutCut
  extract_lets l h' pick
  split
  · exact hm
  · split
    · exact hm
    · clear_value pick
      split
      · exact wf_layOut hm _ _ _
      · exact hm

theorem wf_layoutReplay (h : Hw) : MemWf (layoutReplay m h) := by
  unfold layoutReplay
  dsimp only
  split
  · exact hm
  · split
    · exact hm
    · split
      · exact hm
      · split
        · exact wf_layOut hm _ _ _
        · exact hm

theorem wf_completeCut (i : Nat) (h : Hw) : MemWf (completeCut i m h) := by
  unfold completeCut
  split
  · exact hm
  · exact wf_runRecord hm i _ _ _

theorem wf_failCut (i code info : Nat) (h : Hw) : MemWf (failCut i code info m h) := by
  unfold failCut
  split
  · exact hm
  · exact wf_runRecord hm i _ _ _

theorem wf_noticeEffect (g : Nat) (w : W64) (h : Hw) : MemWf (noticeEffect g w m h) := by
  unfold noticeEffect
  dsimp only
  split
  · exact hm
  · split
    · exact wf_failCut hm _ _ _ h
    · split
      · exact hm
      · exact wf_completeCut hm _ h

theorem wf_endNotice (h : Hw) : MemWf (endNotice m h) := by
  unfold endNotice
  split
  · exact hm
  · exact wf_noticeEffect hm _ _ _

theorem wf_launch (i : Nat) (x : Cut) (charge : Int) (h : Hw) : MemWf (launch i x charge m h) := by
  unfold launch
  extract_lets next h1
  split
  · exact hm
  · exact hm
  · exact wf_completeCut hm i h1
  · exact hm
  · exact hm

theorem wf_launchStep (a : Armed) (b i : Nat) (x : Cut) (h : Hw) : MemWf (launchStep a b i x m h) := by
  unfold launchStep
  split
  · exact wf_launch hm i x 0 _
  · exact hm

theorem wf_launchCut (lane : Fin 7) (h : Hw) : MemWf (launchCut lane m h) := by
  unfold launchCut
  extract_lets h'
  split
  · exact hm
  · split
    · exact hm
    · split
      · split
        · split
          · exact wf_launchStep hm _ _ _ _ _
          · exact hm
        · exact hm
      · split
        · exact hm
        · split
          · exact wf_launch hm _ _ _ _
          · exact hm

theorem wf_copyUnitIssue (i : Nat) (h : Hw) : MemWf (copyUnitIssue i m h) := by
  unfold copyUnitIssue
  split
  · exact hm
  · split
    · exact hm
    · split
      · exact hm
      · rw [MemWf, copyIssue_mem]
        exact hm

theorem wf_copyComplete (i : Nat) (h : Hw) : MemWf (copyComplete i m h) := by
  unfold copyComplete
  split
  · exact hm
  · split
    · exact wf_completeCut hm i _
    · exact hm

theorem wf_copyFail (i : Nat) (h : Hw) : MemWf (copyFail i m h) := by
  unfold copyFail
  split
  · exact hm
  · split
    · split
      · exact wf_failCut hm i _ _ _
      · exact hm
    · exact hm

theorem wf_noticeAccept (i : Nat) (h : Hw) : MemWf (noticeAccept i m h) := by
  unfold noticeAccept
  split
  · split
    · exact hm
    · dsimp only
      split
      · exact wf_completeCut hm i _
      · exact hm
  · exact hm

/-! ### Resets (R459 to R465, R362) -/

theorem wf_loadRunner (dst : Nat) (bs : List Byte) (cs : List CoreId) : Memory.wf (loadRunner dst bs cs m) = true :=
  foldl_keeps (P := fun m => Memory.wf m = true) (fun _ _ hm => wf_memWriteN _ bs hm) cs hm

theorem wf_stopUnits (c : CoreId) (h : Hw) : MemWf (stopUnits c m h) :=
  foldl_keeps (P := fun m => Memory.wf m = true) (fun _ _ hm => wf_memWriteN _ _ hm) _ hm

/-- The stop of the units of several cores keeps the canonical form. -/
theorem wf_stopAllUnits (cs : List CoreId) (h : Hw) :
    MemWf (cs.foldl (fun (x : Mem × Hw) (c : CoreId) => stopUnits c x.1 x.2) (m, h)) :=
  foldl_keeps (P := MemWf) (fun x c hx => wf_stopUnits hx c x.2) cs hm

theorem wf_resetStop (op : ResetOp) (mrs : Bool) (h : Hw) : MemWf (resetStop op mrs m h) := by
  unfold resetStop
  dsimp only
  split
  · exact hm
  · split
    · exact wf_stopAllUnits hm _ _
    · exact wf_stopAllUnits hm _ _

theorem wf_scrubEnd (h : Hw) : MemWf (scrubEnd m h) := by
  unfold scrubEnd
  split
  · exact hm
  · extract_lets h1 m1 h2
    have hm1 : Memory.wf m1 = true := wf_scrubMem _ h1 hm
    split
    · extract_lets h3
      split
      · split
        · exact wf_loadRunner hm1 _ _ _
        · exact hm1
      · exact hm1
    · exact hm1

theorem wf_endHold (h : Hw) : MemWf (endHold m h) := by
  unfold endHold
  split
  · exact wf_scrubMem _ _ hm
  · exact hm

theorem wf_firmReset (op : ResetOp) (h : Hw) : MemWf (firmReset op m h) := by
  unfold firmReset
  split
  · exact wf_resetStop hm op true h
  · exact wf_resetStop (wf_endHold hm h) op true _

theorem wf_dresetJob (h : Hw) : MemWf (dresetJob m h) := wf_resetStop hm _ true h

theorem wf_dresetStart (v : W32) (h : Hw) : MemWf (dresetStart v m h) := by
  unfold dresetStart
  split
  · exact wf_dresetJob hm _
  · exact hm

theorem wf_dreset (l : Fin 8) (b : Block) (h : Hw) : MemWf (dreset l b m h) := by
  unfold dreset
  split
  · exact hm
  · split
    · dsimp only
      split
      · exact wf_dresetJob hm _
      · exact hm
    · exact hm

/-! ### Power, boot and the board's signals (R421 to R426, R454, R480 to R488) -/

theorem wf_boot (h : Hw) : MemWf (boot m h) := by
  unfold boot
  extract_lets r firm conf first identity cause found
  clear_value r found
  split
  · exact hm
  · split
    · exact hm
    · exact wf_memWriteN _ _ hm

theorem wf_coldReset (h : Hw) : MemWf (coldReset m h) :=
  (wf_boot (wf_coldMem hm) _).withHw _

theorem wf_holdCold (h : Hw) : MemWf (holdCold m h) := wf_coldMem hm

theorem wf_coldProceed (delay : Nat) (h : Hw) : MemWf (coldProceed delay m h) := by
  unfold coldProceed
  split
  · exact wf_coldReset hm _
  · exact hm

theorem wf_gateCores (h : Hw) : MemWf (gateCores m h) := wf_filter _ (wf_stopAllUnits hm _ _)

theorem wf_idleGateEntry (h : Hw) : MemWf (idleGateEntry m h) := by
  unfold idleGateEntry
  split
  · exact (wf_gateCores hm _).withHw _
  · exact hm

theorem wf_powerSave (h : Hw) : MemWf (powerSave m h) := wf_sillMem hm

theorem wf_sillOnlyEntry (h : Hw) : MemWf (sillOnlyEntry m h) := by
  unfold sillOnlyEntry
  split
  · exact wf_powerSave hm _
  · exact hm

theorem wf_wakeExit (bit : Nat) (h : Hw) : MemWf (wakeExit bit m h) := wf_resetStop hm _ false _

theorem wf_wake (src : WakeSource) (h : Hw) : MemWf (wake src m h) := by
  unfold wake
  dsimp only
  split
  · exact wf_wakeExit hm _ h
  · exact hm

theorem wf_sillTimer (h : Hw) : MemWf (sillTimer m h) := by
  unfold sillTimer
  split
  · exact hm
  · dsimp only
    split
    · exact wf_wake hm _ _
    · exact hm

theorem wf_temperatureSample (temps : List Nat) (h : Hw) : MemWf (temperatureSample temps m h) := by
  unfold temperatureSample
  split
  · exact hm
  · extract_lets old h1 top warn h2 warm h3 h4
    split
    · exact (wf_powerSave hm h4).withHw _
    · exact hm

theorem wf_referenceClockLoss (h : Hw) : MemWf (referenceClockLoss m h) := by
  unfold referenceClockLoss
  split
  · exact hm
  · exact wf_holdCold hm _

theorem wf_referenceClockReturn (h : Hw) : MemWf (referenceClockReturn m h) := by
  unfold referenceClockReturn
  split
  · exact wf_coldProceed hm 0 _
  · exact hm

theorem wf_powerDown (b : Board) (h : Hw) : MemWf (powerDown b m h) := wf_filter _ hm

theorem wf_powerUp (h : Hw) : MemWf (powerUp m h) := by
  unfold powerUp
  split
  · exact wf_coldProceed hm _ _
  · exact hm

theorem wf_railFault (branch : Fin 16) (h : Hw) : MemWf (railFault branch m h) := by
  unfold railFault
  split
  · exact hm
  · exact (wf_powerSave hm h).withHw _

theorem wf_resetNAssert (ns : Nat) (h : Hw) : MemWf (resetNAssert ns m h) := by
  unfold resetNAssert
  generalize (if 640 ≤ ns ∧ ns < 1280 then h.free else (if 1280 ≤ ns then 0 else 1, h)) = r
  obtain ⟨x, h1⟩ := r
  dsimp only
  split
  · split
    · exact hm
    · exact (wf_holdCold hm _).withHw _
  · exact hm

theorem wf_resetNRelease (h : Hw) : MemWf (resetNRelease m h) := wf_coldProceed hm _ _

/-! ### Registers of the Ridge and the plates (R13) -/

theorem wf_regWrite (blk : RegBlock) (off : Nat) (v : W32) (h : Hw) : MemWf (regWrite blk off v m h) := by
  cases blk with
  | domain =>
    rw [regWrite]
    split
    · exact wf_dresetStart hm v h
    · exact hm
  | layout | net | irq | sill | plate _ => exact hm

end

end Sys2Proof.Machine

namespace Sys2Proof.Machine

/-! ### Commands of the firmware (R380 to R388) -/

/-- What holds of the memory before a command of a session, and of what its body leaves, holds after the command. -/
theorem cmdRow_keeps {P : Mem → Prop} {m : Mem} (hm : P m) {x : CmdSpec} {pick : List Nat → Bool} {n : Nat}
    {body : List Nat → Session → Mem → Hw → Done × Mem × Hw} (hbody : ∀ ws s h, P (body ws s m h).2.1) (h : Hw) :
    P (cmdRow x pick n body m h).1 := by
  unfold cmdRow
  split
  · exact hm
  · extract_lets h0
    split
    · exact hm
    · next s ws _ =>
      split
      · exact hm
      · extract_lets h1
        split
        · exact hm
        · have hb := hbody ws s (if x.cores ws then h1.ungate else h1)
          split
          all_goals
            rename_i he
            rw [he] at hb
            exact hb

/-- A command whose body leaves memory alone does so. -/
theorem cmdRow_mem {x : CmdSpec} {pick : List Nat → Bool} {n : Nat} {body : List Nat → Session → Mem → Hw → Done × Mem × Hw}
    (hbody : ∀ ws s m h, (body ws s m h).2.1 = m) (m : Mem) (h : Hw) : (cmdRow x pick n body m h).1 = m :=
  cmdRow_keeps (P := (· = m)) rfl (fun ws s h => hbody ws s m h) h

/-- A DEBUG OP that needs DEBUG = 1 leaves memory alone when what it does then leaves it alone. -/
theorem debugOn_mem {named : Bool} {ws : List Nat} {m : Mem} {h : Hw} {f : CoreId → Done × Mem × Hw} (hf : ∀ c, (f c).2.1 = m) :
    (debugOn named ws m h f).2.1 = m := by
  unfold debugOn
  split
  · rfl
  · split
    · rfl
    · exact hf _

section
variable (n : Nat) (m : Mem) (h : Hw)

@[simp] theorem identify_mem : (identify n m h).1 = m := cmdRow_mem (fun _ _ _ _ => rfl) m h

@[simp] theorem attest_mem : (attest n m h).1 = m := by
  refine cmdRow_mem (fun ws s m h => ?_) m h
  split <;> rfl

@[simp] theorem attestCert_mem : (attestCert n m h).1 = m := by
  refine cmdRow_mem (fun ws s m h => ?_) m h
  split <;> rfl

@[simp] theorem openWindow_mem : (openWindow n m h).1 = m := by
  refine cmdRow_mem (fun ws s m h => ?_) m h
  dsimp only
  repeat' split
  all_goals rfl

@[simp] theorem closeWindow_mem : (closeWindow n m h).1 = m := by
  refine cmdRow_mem (fun ws s m h => ?_) m h
  dsimp only
  split <;> rfl

@[simp] theorem hostWindow_mem : (hostWindow n m h).1 = m := by
  refine cmdRow_mem (fun ws s m h => ?_) m h
  dsimp only
  repeat' split
  all_goals rfl

@[simp] theorem runCmd_mem : (runCmd n m h).1 = m := by
  refine cmdRow_mem (fun ws s m h => ?_) m h
  split <;> rfl

@[simp] theorem budget_mem : (budget n m h).1 = m := cmdRow_mem (fun _ _ _ _ => rfl) m h

@[simp] theorem meterRead_mem : (meterRead n m h).1 = m := by
  refine cmdRow_mem (fun ws s m h => ?_) m h
  dsimp only
  repeat' split
  all_goals rfl

@[simp] theorem logCmd_mem : (logCmd n m h).1 = m := by
  refine cmdRow_mem (fun ws s m h => ?_) m h
  dsimp only
  split <;> rfl

@[simp] theorem domainLeave_mem : (domainLeave n m h).1 = m := by
  refine cmdRow_mem (fun ws s m h => ?_) m h
  split <;> rfl

/-- A DEBUG OP whose body leaves memory alone does so. -/
theorem debugCmd_mem {op : Nat} {body : List Nat → Mem → Hw → Done × Mem × Hw} (hbody : ∀ ws m h, (body ws m h).2.1 = m) :
    (debugCmd op n body m h).1 = m := cmdRow_mem (fun ws _ m h => hbody ws m h) m h

@[simp] theorem debugEntryRead_mem : (debugEntryRead n m h).1 = m := by
  refine debugCmd_mem n m h (fun ws m h => ?_)
  split <;> rfl

@[simp] theorem debugEngineRead_mem : (debugEngineRead n m h).1 = m := debugCmd_mem n m h (fun _ _ _ => rfl)

@[simp] theorem debugDomainRead_mem : (debugDomainRead n m h).1 = m := debugCmd_mem n m h (fun _ _ _ => rfl)

@[simp] theorem debugPortRead_mem : (debugPortRead n m h).1 = m := by
  refine debugCmd_mem n m h (fun ws m h => debugOn_mem (fun c => ?_))
  split <;> rfl

@[simp] theorem debugPortWrite_mem : (debugPortWrite n m h).1 = m :=
  debugCmd_mem n m h (fun _ _ _ => debugOn_mem (fun _ => rfl))

theorem freezeBody_mem (on : Bool) (ws : List Nat) : (freezeBody on ws m h).2.1 = m := by
  refine debugOn_mem (fun c => ?_)
  dsimp only
  repeat' split
  all_goals rfl

@[simp] theorem freezeCmd_mem : (freezeCmd n m h).1 = m := debugCmd_mem n m h (fun ws m h => freezeBody_mem m h true ws)

@[simp] theorem thawCmd_mem : (thawCmd n m h).1 = m := debugCmd_mem n m h (fun ws m h => freezeBody_mem m h false ws)

@[simp] theorem threadStop_mem : (threadStop n m h).1 = m := by
  refine debugCmd_mem n m h (fun ws m h => debugOn_mem (fun c => ?_))
  dsimp only
  generalize (if h.stopping _ then h else _ : Hw) = x
  split <;> rfl

@[simp] theorem threadGo_mem : (threadGo n m h).1 = m := debugCmd_mem n m h (fun _ _ _ => debugOn_mem (fun _ => rfl))

end

/-- DOMAIN_JOIN reads its routing table and leaves memory alone. -/
@[simp] theorem domainJoin_mem (n : Nat) (m : Mem) (h : Hw) : (domainJoin n m h).1 = m := by
  refine cmdRow_mem (fun ws _ m h => ?_) m h
  extract_lets src
  split
  · rfl
  · split
    · rfl
    · split
      · rfl
      · rfl
      · rfl
      · split
        · rfl
        · rfl

section
variable {m : Mem} (hm : Memory.wf m = true)
include hm

theorem wf_resetCmd (n : Nat) (h : Hw) : MemWf (resetCmd n m h) := by
  refine cmdRow_keeps (P := fun m => Memory.wf m = true) hm (fun ws s h => ?_) h
  dsimp only
  split
  · exact wf_coldReset hm h
  · exact wf_firmReset hm _ h
  · exact wf_firmReset hm _ h
  · split
    · exact hm
    · exact wf_firmReset hm _ h
  · exact hm
  · exact hm

theorem wf_abort (n : Nat) (h : Hw) : MemWf (abort n m h) := by
  refine cmdRow_keeps (P := fun m => Memory.wf m = true) hm (fun ws s h => ?_) h
  dsimp only
  split
  · exact hm
  · dsimp only
    split
    · exact hm
    · exact wf_firmReset hm _ h

theorem wf_graphLoad (n : Nat) (h : Hw) : MemWf (graphLoad n m h) := by
  refine cmdRow_keeps (P := fun m => Memory.wf m = true) hm (fun ws s h => ?_) h
  dsimp only
  split
  · exact hm
  · split
    · exact hm
    · split
      · exact hm
      · have he : Memory.wf (endHold m h).1 = true := wf_endHold hm h
        split
        · exact he
        · split
          · exact he
          · split
            · exact he
            · dsimp only
              exact wf_loadRunner he _ _ _

end

/-! ### UBT packets (R388 to R390) -/

/-- A packet keeps the canonical form when its handling in a session does. -/
theorem wf_ubtIn {m : Mem} (hm : Memory.wf m = true) {op : Nat} {dg : Dgram} {f : UbtHdr → Ubt → Mem → Hw → Mem × Hw}
    (hf : ∀ x u h, MemWf (f x u m h)) (h : Hw) : MemWf (ubtIn op dg f m h) := by
  unfold ubtIn
  extract_lets h'
  split
  · exact hm
  · split
    · exact hm
    · split
      · exact hm
      · split
        · exact hm
        · split
          · split
            · exact hm
            · split
              · exact hm
              · exact hf _ _ _
          · exact hm

/-- A packet in the order of its session keeps the canonical form when its processing does. -/
theorem wf_ubtSeq {m : Mem} (hm : Memory.wf m = true) {dg : Dgram} {x : UbtHdr} {u : Ubt} {f : Mem → Hw → Mem × Hw}
    (hf : ∀ h, MemWf (f m h)) (h : Hw) : MemWf (ubtSeq dg x u f m h) := by
  unfold ubtSeq
  extract_lets d
  split
  · exact hf _
  · split
    · split
      · exact hm
      · exact hm
    · exact hm

theorem wf_issueParts (p : Plate) (o : Nat → Origin) (go : Nat → Hw → Hw) (base : Nat) (bs : List Byte) (parts : List (Nat × Nat))
    {m : Mem} (hm : Memory.wf m = true) (h : Hw) : Memory.wf (issueParts p o go base bs parts m h).2.1 = true := by
  induction parts generalizing m h with
  | nil => exact hm
  | cons part rest ih =>
    obtain ⟨a, n⟩ := part
    unfold issueParts
    dsimp only
    split
    · exact hm
    · exact ih (wf_plateWrite hm _ _ _ _ _ _ _) _

section
variable {m : Mem} (hm : Memory.wf m = true)
include hm

theorem wf_ubtWrite (dg : Dgram) (x : UbtHdr) (u : Ubt) (h : Hw) : MemWf (ubtWrite dg x u m h) := by
  unfold ubtWrite
  extract_lets k bad
  clear_value bad
  split
  · exact hm
  · exact wf_issueParts _ _ _ _ _ _ hm _

theorem wf_ubtReadResp (dg : Dgram) (x : UbtHdr) (u : Ubt) (h : Hw) : MemWf (ubtReadResp dg x u m h) := by
  unfold ubtReadResp
  extract_lets k entered ended
  split
  · exact hm
  · exact wf_issueParts _ _ _ _ _ _ hm _

end

end Sys2Proof.Machine

namespace Sys2Proof.Machine

/-! ### Every command, and the step -/

/-- An outcome holds its memory in its canonical form. -/
def OutWf (o : Out) : Prop := ∀ t, o = .next t → Memory.wf t.mem = true

/-- A next state has a canonical memory or not, and a fault has none. -/
@[simp] theorem outWf_next {t : State} : OutWf (.next t) ↔ Memory.wf t.mem = true :=
  ⟨fun h => h t rfl, fun h _ ht => Host.Outcome.next.inj ht ▸ h⟩

@[simp] theorem outWf_fault (r : Fault) : OutWf (.fault r) := fun _ ht => nomatch ht

/-- A meaning that may write memory. -/
theorem outWf_onMem {f : Mem → Hw → Mem × Hw} {s : State} (hf : MemWf (f s.mem s.hw)) : OutWf (onMem f s) := outWf_next.mpr hf

section
variable {s : State} (hm : Memory.wf s.mem = true)
include hm

/-- A meaning that leaves memory as it stands. -/
theorem outWf_onHw {f : Mem → Hw → Hw} : OutWf (onHw f s) := outWf_next.mpr hm

/-- An outcome that differs from the state before in its hardware part alone. -/
theorem outWf_hw {o : Out} {h : Hw} (ho : o = .next { s with hw := h }) : OutWf o := by
  subst ho
  exact outWf_next.mpr hm

/-- A meaning that could write memory, and leaves it as it stands. -/
theorem outWf_onMem_same {f : Mem → Hw → Mem × Hw} (hf : ∀ m h, (f m h).1 = m) : OutWf (onMem f s) :=
  outWf_onMem ((congrArg (Memory.wf · = true) (hf s.mem s.hw)).mpr hm)

/-! ### Commands whose meaning is no single named operation -/

theorem outWf_execVst (w : Who) (v : Fin 32) (b : Fin 16) (off : BitVec 12) : OutWf (execVst w v b off s) := by
  refine outWf_onMem (runInstrM_keeps (P := fun m => Memory.wf m = true) hm w _ (fun p h => ?_) s.hw)
  dsimp only
  split
  · exact hm
  · exact wf_doStore hm w _ _ _ _ h

theorem outWf_execVstn (w : Who) (v : Fin 32) (b : Fin 16) (dn : Fin 32) : OutWf (execVstn w v b dn s) := by
  refine outWf_onMem (runInstrM_keeps (P := fun m => Memory.wf m = true) hm w _ (fun p h => ?_) s.hw)
  dsimp only
  split
  · exact hm
  · exact wf_doStore hm w _ _ _ _ h

theorem outWf_execIst (w : Who) (b : Fin 16) (sr : Fin 32) : OutWf (execIst w b sr s) := by
  refine outWf_onMem (runInstrM_keeps (P := fun m => Memory.wf m = true) hm w _ (fun p h => ?_) s.hw)
  dsimp only
  split
  · exact hm
  · exact wf_memWriteN _ _ hm

theorem outWf_execColdReset : OutWf (execColdReset s) := by
  refine outWf_onMem ?_
  split
  · exact wf_coldReset hm s.hw
  · exact hm

theorem outWf_execOvervoltageRelease : OutWf (execOvervoltageRelease s) := by
  refine outWf_onMem ?_
  split
  · exact wf_powerUp hm _
  · exact hm

theorem outWf_execModuleInsertion (inserted : Bool) : OutWf (execModuleInsertion inserted s) := by
  refine outWf_onMem ?_
  split
  · split
    · exact hm
    · exact wf_powerUp hm _
  · exact wf_powerDown hm _ s.hw

theorem outWf_execExtest (die : TapDie) (enter : Bool) : OutWf (execExtest die enter s) := by
  refine outWf_onMem ?_
  split
  · exact hm
  · split
    · dsimp only
      split
      · exact hm
      · exact wf_holdCold hm _
    · split
      · exact wf_coldProceed hm 0 _
      · exact hm

theorem outWf_execFlashProg (die : TapDie) (off : Nat) (page : Option (List Byte)) : OutWf (execFlashProg die off page s) := by
  unfold execFlashProg
  split
  · exact outWf_next.mpr hm
  · split
    · exact outWf_onHw hm
    · split
      · exact outWf_fault _
      · cases page with
        | some bs => exact outWf_onMem (wf_memWriteN _ _ hm)
        | none => exact outWf_onMem (wf_memForget _ _ hm)

theorem outWf_execFlashRead (die : TapDie) (off len : Nat) : OutWf (execFlashRead die off len s) := by
  unfold execFlashRead
  split
  · exact outWf_next.mpr hm
  · split
    · exact outWf_onHw hm
    · split
      · exact outWf_fault _
      · exact outWf_onHw hm

theorem outWf_execPatrolRead (p : Plate) (line : Nat) (ecc : Ecc) : OutWf (execPatrolRead p line ecc s) := by
  unfold execPatrolRead
  split
  · exact outWf_onHw hm
  · exact outWf_fault _

theorem outWf_execRegisterWrite (blk : RegBlock) (off : BitVec 16) (v : BitVec 32) : OutWf (execRegisterWrite blk off v s) := by
  refine outWf_onMem ?_
  split
  · exact wf_regWrite hm blk _ v _
  · exact hm

theorem outWf_execUbtWrite (dg : Dgram) : OutWf (execUbtWrite dg s) :=
  outWf_onMem (wf_ubtIn hm (fun x u h => wf_ubtSeq hm (wf_ubtWrite hm dg x u) h) s.hw)

theorem outWf_execReadReq (dg : Dgram) : OutWf (execReadReq dg s) :=
  outWf_onMem (wf_ubtIn hm (fun x u h => wf_ubtSeq hm (f := ubtReadReq x u) (fun _ => hm) h) s.hw)

theorem outWf_execReadResp (dg : Dgram) : OutWf (execReadResp dg s) :=
  outWf_onMem (wf_ubtIn hm (fun x u h => wf_ubtSeq hm (wf_ubtReadResp hm dg x u) h) s.hw)

theorem outWf_execUbtAck (dg : Dgram) : OutWf (execUbtAck dg s) :=
  outWf_onMem (wf_ubtIn hm (f := fun x u m h => (m, ubtAckIn dg x u h)) (fun _ _ _ => hm) s.hw)

theorem outWf_execUbtNak (dg : Dgram) : OutWf (execUbtNak dg s) :=
  outWf_onMem (wf_ubtIn hm (f := fun x u m h => (m, ubtNakIn dg x u h)) (fun _ _ _ => hm) s.hw)

theorem outWf_execDreset (l : Fin 8) (blk : Block) : OutWf (execDreset l blk s) := by
  refine outWf_onMem ?_
  exact wf_dreset hm l blk _

theorem outWf_execDresetStart (v : BitVec 32) : OutWf (execDresetStart v s) := by
  refine outWf_onMem ?_
  exact wf_dresetStart hm v _

/-- Every command keeps the canonical form: those that can write memory by their own lemma, all others because they leave
memory as it stands. -/
theorem exec_keeps_wf (i : Instr) : OutWf (exec i s) := by
  cases i
  -- stores, rows and units
  case tileMoveRow c => exact outWf_onMem (wf_tileMoveRow hm c s.hw)
  case st w d sz b off u => exact outWf_onMem (wf_scalarStore hm w _ b off _ _ _ s.hw)
  case sta w d sz b off u => exact outWf_onMem (wf_scalarStore hm w _ b off _ _ _ s.hw)
  case vst w v b off => exact outWf_execVst hm w v b off
  case vstn w v b dn => exact outWf_execVstn hm w v b dn
  case ist w b sr => exact outWf_execIst hm w b sr
  case slot3UnitWrite c => exact outWf_onMem (wf_slot3UnitWrite hm c s.hw)
  case transferUnitIssue b e => exact outWf_onMem (wf_transferUnitIssue hm b e s.hw)
  case imemUnitWrite c => exact outWf_onMem (wf_imemUnitWrite hm c s.hw)
  -- requests performed
  case evictionWriteback c => exact outWf_onMem (wf_evictionWriteback hm c s.hw)
  case sliceRequest b sl => exact outWf_onMem (wf_sliceRequest hm b sl s.hw)
  case memoryRequest p => exact outWf_onMem (wf_memoryRequest hm p s.hw)
  case pageMapCommitEffect => exact outWf_onMem (wf_pageMapCommitEffect hm s.hw)
  case patrolRead p line ecc => exact outWf_execPatrolRead hm p line ecc
  -- the Layout engine
  case layoutCut => exact outWf_onMem (wf_layoutCut hm s.hw)
  case layoutReplayRecord => exact outWf_onMem (wf_layoutReplay hm s.hw)
  case launchCut lane => exact outWf_onMem (wf_launchCut hm lane s.hw)
  case endNotice => exact outWf_onMem (wf_endNotice hm s.hw)
  case copyUnitIssue cut => exact outWf_onMem (wf_copyUnitIssue hm _ s.hw)
  case copyComplete cut => exact outWf_onMem (wf_copyComplete hm _ s.hw)
  case copyFail cut => exact outWf_onMem (wf_copyFail hm _ s.hw)
  case noticeAccept cut => exact outWf_onMem (wf_noticeAccept hm _ s.hw)
  case registerWrite blk off v => exact outWf_execRegisterWrite hm blk off v
  -- UBT packets
  case ubtWrite dg => exact outWf_execUbtWrite hm dg
  case readReq dg => exact outWf_execReadReq hm dg
  case readResp dg => exact outWf_execReadResp hm dg
  case ubtAck dg => exact outWf_execUbtAck hm dg
  case ubtNak dg => exact outWf_execUbtNak hm dg
  -- resets
  case dreset l blk => exact outWf_execDreset hm l blk
  case dresetStart v => exact outWf_execDresetStart hm v
  case coldReset => exact outWf_execColdReset hm
  case frameReset => exact outWf_onMem (wf_firmReset hm _ s.hw)
  case jobReset => exact outWf_onMem (wf_firmReset hm _ s.hw)
  case coreReset c => exact outWf_onMem (wf_firmReset hm _ s.hw)
  case scrubEnd => exact outWf_onMem (wf_scrubEnd hm s.hw)
  -- power, the board's signals and the test connector
  case idleGateEntry => exact outWf_onMem (wf_idleGateEntry hm s.hw)
  case sillOnlyEntry => exact outWf_onMem (wf_sillOnlyEntry hm s.hw)
  case wake src => exact outWf_onMem (wf_wake hm src s.hw)
  case sillTimer => exact outWf_onMem (wf_sillTimer hm s.hw)
  case temperatureSample temps => exact outWf_onMem (wf_temperatureSample hm temps s.hw)
  case referenceClockLoss => exact outWf_onMem (wf_referenceClockLoss hm s.hw)
  case referenceClockReturn => exact outWf_onMem (wf_referenceClockReturn hm s.hw)
  case inputUndervoltage => exact outWf_onMem (wf_powerDown hm _ s.hw)
  case inputOvervoltage => exact outWf_onMem (wf_powerDown hm _ s.hw)
  case overvoltageRelease => exact outWf_execOvervoltageRelease hm
  case powerUp => exact outWf_onMem (wf_powerUp hm s.hw)
  case railFault branch => exact outWf_onMem (wf_railFault hm branch s.hw)
  case resetNAssert ns => exact outWf_onMem (wf_resetNAssert hm ns s.hw)
  case resetNRelease => exact outWf_onMem (wf_resetNRelease hm s.hw)
  case moduleInsertion inserted => exact outWf_execModuleInsertion hm inserted
  case extest die enter => exact outWf_execExtest hm die enter
  case flashProg die off page => exact outWf_execFlashProg hm die off page
  case flashRead die off len => exact outWf_execFlashRead hm die off len
  -- commands of the firmware
  case identify n => exact outWf_onMem_same hm (identify_mem n)
  case attest n => exact outWf_onMem_same hm (attest_mem n)
  case attestCert n => exact outWf_onMem_same hm (attestCert_mem n)
  case reset n => exact outWf_onMem (wf_resetCmd hm n s.hw)
  case openWindow n => exact outWf_onMem_same hm (openWindow_mem n)
  case closeWindow n => exact outWf_onMem_same hm (closeWindow_mem n)
  case hostWindow n => exact outWf_onMem_same hm (hostWindow_mem n)
  case graphLoad n => exact outWf_onMem (wf_graphLoad hm n s.hw)
  case run n => exact outWf_onMem_same hm (runCmd_mem n)
  case abort n => exact outWf_onMem (wf_abort hm n s.hw)
  case budget n => exact outWf_onMem_same hm (budget_mem n)
  case meterRead n => exact outWf_onMem_same hm (meterRead_mem n)
  case domainJoin n => exact outWf_onMem_same hm (domainJoin_mem n)
  case domainLeave n => exact outWf_onMem_same hm (domainLeave_mem n)
  case debugEntryRead n => exact outWf_onMem_same hm (debugEntryRead_mem n)
  case debugEngineRead n => exact outWf_onMem_same hm (debugEngineRead_mem n)
  case debugDomainRead n => exact outWf_onMem_same hm (debugDomainRead_mem n)
  case debugPortRead n => exact outWf_onMem_same hm (debugPortRead_mem n)
  case debugPortWrite n => exact outWf_onMem_same hm (debugPortWrite_mem n)
  case freeze n => exact outWf_onMem_same hm (freezeCmd_mem n)
  case thaw n => exact outWf_onMem_same hm (thawCmd_mem n)
  case threadStop n => exact outWf_onMem_same hm (threadStop_mem n)
  case threadGo n => exact outWf_onMem_same hm (threadGo_mem n)
  case log n => exact outWf_onMem_same hm (logCmd_mem n)
  all_goals exact outWf_hw hm rfl

end

/-- A step on an empty queue is an idle cycle (log entry 1). -/
theorem step_idle {s : State} (hs : s.pending = []) : step s = .next (idle s) := by
  unfold step
  rw [hs]

/-- A step on a queue runs its front command on the queue's rest. -/
theorem step_front {s : State} {c : Instr} {rest : List Instr} (hs : s.pending = c :: rest) :
    step s = exec c { s with pending := rest } := by
  unfold step
  rw [hs]

/-- Settles O59: an idle cycle leaves memory as it stands, and every command keeps its canonical form. -/
theorem everyStepKeepsMemoryCanonical : Obligations.EveryStepKeepsMemoryCanonical := by
  intro s t hm ht
  cases hs : s.pending with
  | nil =>
    rw [step_idle hs] at ht
    exact (outWf_next (t := idle s)).mpr hm t ht
  | cons c rest =>
    rw [step_front hs] at ht
    exact exec_keeps_wf (s := { s with pending := rest }) hm c t ht

/-- Settles O57: its two parts are what a step does on a queue and on an empty one. -/
theorem stepRunsTheFrontCommand : Obligations.StepRunsTheFrontCommand :=
  ⟨fun _ _ _ => step_front rfl, fun _ hs => step_idle hs⟩

end Sys2Proof.Machine

namespace Sys2Proof.Machine

/-! ### Settling -/

/-- No stop waits for a thread that is in no stall. -/
theorem Core.stopStalled_unstalled {k : Core} {t : Fin 4} (hr : (k.thread t).stall = none) : k.stopStalled t = k := by
  simp [Core.stopStalled, hr]

/-- Where no SEND was stalled and the thread ends in no stall, settling settles the thread of the instruction, and of its core only
what the stillness detector notes. -/
theorem Hw.core_settle_unstalled {h : Hw} {w : Who} (hs : (h.thread w).stall ≠ some .credit) {f : Form} {m : Mem} {c : Ctl}
    (hr : ((h.traceCtl w c).settled w f m c).stall = none) :
    ∃ n, (h.settle w f m c).core w.core =
      ((h.core w.core).updThread w.thread (fun _ => (h.traceCtl w c).settled w f m c)).noted n := by
  have ho : ((h.core w.core).thread w.thread).sendOn = none := if_neg hs
  have hk : (((h.core w.core).updThread w.thread (fun _ => (h.traceCtl w c).settled w f m c)).thread w.thread).stall = none := by
    rw [Core.thread_updThread_self]
    exact hr
  simp only [Hw.settle, Hw.noted, Hw.core_updCore_self, Hw.core_traceCtl, ho, Core.sendEnds, Core.stopStalled_unstalled hk]
  exact ⟨_, rfl⟩

end Sys2Proof.Machine

namespace Sys2Proof.Claims

open Sys2Proof.Machine

/-! ### An instruction in its slot

What the premises `Ready` and `Issues` of the obligations say of the model: the instruction's body runs in `slot`, and its thread
settles there. -/

section
variable {w : Who} {p : Option (BitVec 26)} {s : State}

/-- The slot of a thread that is ready is its next one. -/
theorem Ready.nextSlot (hi : Ready w p s) : s.hw.nextSlot w = some (slot w s) := by
  obtain ⟨x, hx⟩ := Option.isSome_iff_exists.mp hi.issues
  rw [slot, hx, Option.getD_some]

/-- The word of a thread that is ready is fetched. -/
theorem Ready.fetchFault (hi : Ready w p s) :
    fetchFault w.core ((slot w s).core w.core) ((slot w s).thread w).pc ((slot w s).thread w).fetchPc = none :=
  fetchFault_none hi.inside hi.execute

/-- A thread is RUNNING in its slot. -/
theorem Ready.tstate (hi : Ready w p s) : ((slot w s).thread w).tstate = .running := by
  have hc := Hw.canIssue_of_nextSlot hi.nextSlot
  simp only [Hw.canIssue, Bool.and_eq_true, beq_iff_eq] at hc
  obtain ⟨⟨⟨⟨-, ht⟩, -⟩, -⟩, -⟩ := hc
  exact ht

/-- An instruction that takes the prefix in force runs its body in its slot, and its thread settles. -/
theorem Ready.runInstrM (hi : Ready w p s) {f : Form} (ht : p = none ∨ f.takesPfx = true)
    (body : Option (BitVec 26) → Mem → Hw → Ctl × Mem × Hw) :
    Machine.runInstrM w f body s.mem s.hw =
      ((body p s.mem (slot w s)).2.1, (body p s.mem (slot w s)).2.2.settle w f s.mem (body p s.mem (slot w s)).1) := by
  rw [runInstrM_slot (Hw.pairs_closed hi.alone f) hi.nextSlot,
    inSlot_body hi.fetchFault (by rwa [hi.pfx]), hi.pfx]

/-- As `Ready.runInstrM`, for an instruction that writes no memory. -/
theorem Ready.runInstr (hi : Ready w p s) {f : Form} (ht : p = none ∨ f.takesPfx = true)
    (body : Option (BitVec 26) → Hw → Ctl × Hw) :
    Machine.runInstr w f body s.mem s.hw = (body p (slot w s)).2.settle w f s.mem (body p (slot w s)).1 := by
  rw [Machine.runInstr, hi.runInstrM ht]

end

/-- A core of which one thread has changed is otherwise the same. -/
theorem sameCore_updThread_noted (k : Core) (t : Fin 4) (f : Thread → Thread) (n : Nat) :
    SameCore ((k.updThread t f).noted n) k := by
  simp only [SameCore, Core.noted]
  split <;> rfl

/-- An instruction that finds an exception leaves its thread with it, and nothing else changes (R196). -/
theorem Issues.left_fault {w : Who} {p : Option (BitVec 26)} {s : State} (hi : Issues w p s) (f : Form) (e : Exc) :
    Left w (found w s e) s { s with hw := (slot w s).settle w f s.mem (.fault e) } := by
  obtain ⟨n, hcore⟩ := Hw.core_settle_unstalled (f := f) (m := s.mem) (c := .fault e) hi.unsent rfl
  refine { thread := ?_, threads := fun u hu => ?_, core := ?_, cores := fun c hc => ?_, clock := ?_, mem := rfl, pending := rfl }
  · rw [Hw.thread, hcore, Core.thread_noted, Core.thread_updThread_self]
    rfl
  · rw [hcore, Core.thread_noted, Core.thread_updThread_ne _ hu]
  · rw [hcore]
    exact sameCore_updThread_noted _ _ _ n
  · exact Hw.core_settle_ne _ w (fun hv => hc (Fin.ext hv)) f s.mem _
  · exact Hw.clock_settle _ w f s.mem _

section
variable {w : Who} {p : Option (BitVec 26)} {s : State}

/-- An instruction whose body faults leaves its thread with the exception found. -/
theorem Issues.yields_fault (hi : Issues w p s) {i : Instr} {f : Form} (ht : p = none ∨ f.takesPfx = true) {e : Exc}
    {body : Option (BitVec 26) → Hw → Ctl × Hw} (he : exec i s = onHw (runInstr w f body) s)
    (hb : body p (slot w s) = (.fault e, slot w s)) : Yields i s (Left w (found w s e) s) := by
  refine ⟨_, he, ?_⟩
  rw [hi.runInstr ht, hb]
  exact hi.left_fault f e

/-- As `Issues.yields_fault`, for an instruction that may write memory. -/
theorem Issues.yields_faultM (hi : Issues w p s) {i : Instr} {f : Form} (ht : p = none ∨ f.takesPfx = true) {e : Exc}
    {body : Option (BitVec 26) → Mem → Hw → Ctl × Mem × Hw} (he : exec i s = onMem (runInstrM w f body) s)
    (hb : body p s.mem (slot w s) = (.fault e, s.mem, slot w s)) : Yields i s (Left w (found w s e) s) := by
  refine ⟨_, he, ?_⟩
  rw [hi.runInstrM ht, hb]
  exact hi.left_fault f e

end

/-! ### Addresses (R136, R146) -/

/-- A value that the sign-extended immediate is, is the one the model reads. -/
theorem immS_of_signedImm {n : Nat} (hn : n ≤ 64) {p : Option (BitVec 26)} {f : BitVec n} {y : W64} (hy : SignedImm p f y) :
    immS p f = some y := by
  cases p with
  | none =>
    have hf : (f.signExtend 64).toInt = f.toInt := BitVec.toInt_signExtend_of_le hn
    exact congrArg some (BitVec.eq_of_toInt_eq (hf.trans hy.symm))
  | some hi =>
    obtain ⟨hlt, hy⟩ := hy
    have hbits : BitVec.ofNat 32 (hi.toNat * 64 + f.toNat) = pairBits hi f := by
      rw [pairBits, Nat.mod_eq_of_lt hlt, Nat.mul_comm]
    have hf : ((pairBits hi f).signExtend 64).toInt = (pairBits hi f).toInt := BitVec.toInt_signExtend_of_le (by decide)
    simp only [immS, imm32, if_pos hlt, Option.map_some, hbits]
    exact congrArg some (BitVec.eq_of_toInt_eq (hf.trans hy.symm))

/-- A base plus an offset, modulo 2^48, from the signed value of the offset. -/
theorem toNat_add_setWidth (x : W48) (y : W64) (a : Nat) (ha : (a : Int) = (x.toNat + y.toInt) % 2 ^ 48) :
    (x + y.setWidth 48).toNat = a := by
  have hx := x.isLt
  have hy := y.isLt
  rw [BitVec.toInt_eq_toNat_cond] at ha
  rw [BitVec.toNat_add, BitVec.toNat_setWidth]
  split at ha <;> omega

/-- The model computes the address of R146. -/
theorem dataAddr_of_addresses {th : Thread} {b : Fin 16} {p : Option (BitVec 26)} {off : Offset} {a : Nat}
    (ha : Addresses th b p off a) : dataAddr th b p off = some a := by
  cases off with
  | off o =>
    obtain ⟨y, hy, ha⟩ := ha
    simp only [dataAddr, immS_of_signedImm (by decide) hy, Option.map_some, toNat_add_setWidth _ y a ha]
  | idx d sh =>
    obtain ⟨rfl, rfl⟩ := ha
    simp [dataAddr, BitVec.toNat_add, BitVec.toNat_shiftLeft, BitVec.toNat_setWidth, Nat.shiftLeft_eq, Nat.add_mod, Nat.mul_mod]

/-- A load or store that a prefix extends, or that has none, computes that address. -/
theorem withAddr_of_addresses {w : Who} {b : Fin 16} {p : Option (BitVec 26)} {off : Offset} {a : Nat} {h : Hw}
    (ha : Addresses (h.thread w) b p off a) : withAddr w b off p h = .inl a := by
  simp only [withAddr, dataAddr_of_addresses ha]

/-! ### Data access checks (R147, R156, R216) -/

/-- The checks of an access end the instruction with an exception at its address. -/
def Refused (w : Who) (a n align code : Nat) (h : Hw) : Prop :=
  ∀ acc, accessCheck w a n align acc h = (.end_ (faultAt (h.thread w) code a), h)

section
variable {w : Who} {a n align : Nat} {h : Hw}

/-- An address that is no multiple of the size raises ALIGN. -/
theorem refused_align (ha : a % align ≠ 0) : Refused w a n align excAlign h := by
  intro acc
  rw [accessCheck, if_pos ha]

/-- An aligned access outside every region raises DATA_REGION. -/
theorem refused_region (ha : a % align = 0) (hl : locate w.core a n = .bad) : Refused w a n align excDataRegion h := by
  intro acc
  simp [accessCheck, ha, hl]

/-- An aligned access of Ridge SRAM in user mode raises PRIV. -/
theorem refused_priv (ha : a % align = 0) {off : Nat} (hl : locate w.core a n = .ridge off) (hu : (h.thread w).mode = false) :
    Refused w a n align excPriv h := by
  intro acc
  simp [accessCheck, ha, hl, hu]

/-- An aligned access of the scratchpad that the scalar port does not reach raises PORT_REACH. -/
theorem refused_reach (ha : a % align = 0) {off : Nat} (hl : locate w.core a n = .scratch off)
    (hr : scalarReaches w.core off = false) : Refused w a n align excPortReach h := by
  intro acc
  simp [accessCheck, ha, hl, hr]

end

/-- A refused load faults and does not happen. -/
theorem doLoad_refused {w : Who} {a n align code : Nat} {h : Hw} (hr : Refused w a n align code h) (u : Bool) (dest : LoadDest)
    (words hitSlots : Nat) (m : Mem) : doLoad w a n align u dest words hitSlots m h = (faultAt (h.thread w) code a, h) := by
  rw [doLoad, hr]

/-- A refused store faults and does not happen. -/
theorem doStore_refused {w : Who} {a align code : Nat} {bs : List Byte} {h : Hw} (hr : Refused w a bs.length align code h)
    (isD : Bool) (m : Mem) : doStore w a align bs isD m h = (faultAt (h.thread w) code a, m, h) := by
  rw [doStore, hr]

/-- No scratchpad holds more than 2 MiB (R24). -/
theorem spadSize_le (c : Nat) : spadSize c ≤ 0x200000 := by
  unfold spadSize byKind
  split
  · decide
  · split <;> decide

/-- Between the own bent's shared memory and that of the bents there is no region (R9). -/
theorem locate_gap {c : CoreId} {a n : Nat} (hn : 0 < n) (hlo : 0x80000000 ≤ a) (hhi : a < 0x001000000000) :
    locate c a n = .bad := by
  have hs := spadSize_le c
  unfold locate
  rw [if_neg (by omega), if_neg (by simp; omega), if_neg (by simp; omega), if_neg (by simp; omega), if_neg (by simp; omega)]

/-- The region of Ridge SRAM (R9). -/
theorem locate_ridge {c : CoreId} {a n : Nat} (hlo : 0x004000000000 ≤ a) (hhi : a + n ≤ 0x004001000000) :
    locate c a n = .ridge (a - 0x004000000000) := by
  have hs := spadSize_le c
  unfold locate
  rw [if_neg (by omega), if_neg (by simp; omega), if_neg (by simp; omega), if_pos (by simp; omega)]

/-- A joist core's scratchpad below the banks of its scalar port (R216). -/
theorem locate_joist {c : CoreId} (hj : isJoist c = true) {a n : Nat} (ha : a + n ≤ 0x200000) : locate c a n = .scratch a := by
  have hs : spadSize c = 0x200000 := by simp [spadSize, byKind, hj]
  unfold locate
  rw [if_pos (by omega)]

/-! ### Scalar accesses of 8 bytes that are refused -/

section
variable {w : Who} {p : Option (BitVec 26)} {s : State} {b : Fin 16} {off : Offset} {a code : Nat}

/-- The scalar loads and stores of 8 bytes at an address that the checks refuse. -/
theorem scalar_refused (hi : Issues w p s) (ha : Addresses ((slot w s).thread w) b p off a)
    (hr : Refused w a 8 8 code (slot w s)) (d : Fin 32) (u : Bool) :
    ∀ i ∈ [Instr.ld w d 6 b off u, Instr.lda w 0 6 b off u, Instr.st w d 6 b off false, Instr.sta w 0 6 b off false],
      Yields i s (Left w (found w s { code := code, epc := ((slot w s).thread w).pc, eaddr := BitVec.ofNat 48 a }) s) := by
  have hw := withAddr_of_addresses ha
  intro i hmem
  simp only [List.mem_cons, List.not_mem_nil, or_false] at hmem
  rcases hmem with rfl | rfl | rfl | rfl
  · refine hi.yields_fault (.inr rfl) (he := rfl) ?_
    rw [if_neg (by decide), hw]
    exact doLoad_refused hr u _ _ _ _
  · refine hi.yields_fault (.inr rfl) (he := rfl) ?_
    rw [if_neg (by decide), hw]
    exact doLoad_refused hr u _ _ _ _
  · refine hi.yields_faultM (.inr rfl) (he := rfl) ?_
    rw [if_neg (by decide), hw]
    exact doStore_refused hr _ _
  · refine hi.yields_faultM (.inr rfl) (he := rfl) ?_
    rw [if_neg (by decide), hw]
    exact doStore_refused hr _ _

end

/-- Settles O11: in each of the four cases the checks of R147 refuse the access, whatever it is for. -/
theorem dataAccessFaultsArePrecise : Obligations.DataAccessFaultsArePrecise := by
  intro w p d b off u a s hi ha fails
  have hfails : ∀ {code : Nat}, Refused w a 8 8 code (slot w s) → fails code := fun hr => scalar_refused hi ha hr d u
  refine ⟨fun h => hfails (refused_align h), fun h hlo hhi => hfails (refused_region h (locate_gap (by decide) hlo hhi)),
    fun h hlo hhi hu => hfails (refused_priv h (locate_ridge hlo hhi) hu), fun h hj hlo => ?_⟩
  have hjoist : isJoist w.core = true := decide_eq_true hj
  refine hfails (refused_reach h (locate_joist hjoist (by omega)) ?_)
  rw [scalarReaches, hjoist, decide_eq_false (by omega)]
  rfl

end Sys2Proof.Claims

namespace Sys2Proof.Machine

/-! ### The stillness detector (R261, R262) -/

/-- A core in which the detector neither has found stillness nor counts towards it. -/
def Core.astir (k : Core) : Core := { k with still := false, stillFrom := none }

/-- The detector concerns no thread. -/
@[simp] theorem Core.thread_astir (k : Core) (t : Fin 4) : k.astir.thread t = k.thread t := rfl

/-- A change of a thread does not concern the detector. -/
theorem Core.astir_updThread (k : Core) (t : Fin 4) (f : Thread → Thread) : (k.updThread t f).astir = k.astir.updThread t f := rfl

/-- The detector's note changes what it has counted and nothing else. -/
theorem Core.astir_noted (k : Core) (n : Nat) : (k.noted n).astir = k.astir := by
  unfold Core.noted
  dsimp only
  split <;> rfl

/-- A thread that runs or is stopped, and is in no stall, does not count as waiting. -/
theorem Core.not_threadWaits {k : Core} {t : Fin 4} (ht : (k.thread t).tstate = .running ∨ (k.thread t).tstate = .stopped)
    (hs : (k.thread t).stall = none) (n : Nat) : k.threadWaits t n = false := by
  rcases ht with ht | ht <;> simp [Core.threadWaits, ht, hs]

/-- A core with a thread that does not wait is astir. -/
theorem Core.noted_astir {k : Core} {t : Fin 4} (hw : ∀ n, k.threadWaits t n = false) (n : Nat) : k.noted n = k.astir := by
  have hstill : ∀ m, k.isStill m = false := fun m => by
    have hall : (List.finRange 4).all
        (fun t => k.threadWaits t m && (k.thread t).timer.isNone && (k.thread t).xoutstanding == 0) = false :=
      List.all_eq_false.mpr ⟨t, List.mem_finRange t, by simp [hw m]⟩
    simp [Core.isStill, hall]
  simp [Core.noted, hstill, Core.astir]

/-- A change of a thread that changes nothing leaves the core as it is. -/
theorem Core.updThread_id (t : Fin 4) : (fun k : Core => k.updThread t id) = id := by
  funext k
  simp [Core.updThread, Core.setThread, Core.thread]

/-- The same change of a thread may be written as a function of what the thread was. -/
theorem Core.updThread_const {k : Core} {t : Fin 4} {f : Thread → Thread} {x : Thread} (hx : x = f (k.thread t)) :
    k.updThread t (fun _ => x) = k.updThread t f := by
  rw [Core.updThread, Core.updThread, hx]

/-! ### The end of an instruction (R137, R473) -/

/-- A thread whose instruction has completed is in no stall. -/
theorem Thread.stall_finish (th : Thread) (words next : Nat) : (th.finish words next).stall = none := by
  unfold Thread.finish Thread.boundary
  split <;> rfl

/-- A RUNNING thread whose instruction has completed is RUNNING or STOPPED. -/
theorem Thread.tstate_finish {th : Thread} (ht : th.tstate = .running) (words next : Nat) :
    (th.finish words next).tstate = .running ∨ (th.finish words next).tstate = .stopped := by
  unfold Thread.finish Thread.boundary
  split
  · exact .inr rfl
  · exact .inl ht

end Sys2Proof.Machine

namespace Sys2Proof.Claims

open Sys2Proof.Machine

/-! ### An instruction that completes in one slot

The body changes no more than registers of its own thread; its thread then ends the instruction, and its core is astir. -/

/-- A change of a thread that leaves what the end of its instruction reads. -/
structure KeepsIssue (u : Thread → Thread) : Prop where
  pc : ∀ th, (u th).pc = th.pc := by intro _; rfl
  pfx : ∀ th, (u th).pfx = th.pfx := by intro _; rfl
  pair : ∀ th, (u th).pair = th.pair := by intro _; rfl
  stall : ∀ th, (u th).stall = th.stall := by intro _; rfl
  tstate : ∀ th, (u th).tstate = th.tstate := by intro _; rfl

/-- Of the cores and the clock of `h`, `x` has changed thread `w` by `u`, and nothing else but what the stillness detector notes. -/
structure Wrote (w : Who) (u : Thread → Thread) (h x : Hw) : Prop where
  core : (x.core w.core).astir = ((h.core w.core).updThread w.thread u).astir
  cores : ∀ c : CoreId, c ≠ w.core → x.core c = h.core c
  clock : x.clock = h.clock

section
variable {w : Who} {u : Thread → Thread} {h x : Hw}

/-- The change made to the thread. -/
theorem Wrote.thread (hx : Wrote w u h x) : x.thread w = u (h.thread w) := by
  have ht := congrArg (fun k : Core => k.thread w.thread) hx.core
  rwa [Core.thread_astir, Core.thread_astir, Core.thread_updThread_self] at ht

/-- CYCLE is as it was. -/
theorem Wrote.cycle (hx : Wrote w u h x) : x.cycle w.core = h.cycle w.core := by
  have hf : (x.core w.core).frozenAt = (h.core w.core).frozenAt := (congrArg Core.frozenAt hx.core :)
  have hc : (x.core w.core).cyc0 = (h.core w.core).cyc0 := (congrArg Core.cyc0 hx.core :)
  simp only [Hw.cycle, hf, hc, hx.clock]

/-- A second word pairs with the instruction or not, as it would have before the change. -/
theorem Wrote.isFirst (hx : Wrote w u h x) (hu : KeepsIssue u) (f : Form) (m : Mem) : x.isFirst w f m = h.isFirst w f m := by
  have hseg : (x.core w.core).isegx = (h.core w.core).isegx := (congrArg Core.isegx hx.core :)
  simp only [Hw.isFirst, Hw.secondWord, fetchFault, hseg, hx.thread, hx.cycle, hu.pfx, hu.pair, hu.pc]

end

section
variable {w : Who} {u : Thread → Thread} {s : State} {x : Hw}

/-- The thread as the instruction leaves it after one slot. -/
theorem Issues.settled_done (hi : Issues w none s) (hu : KeepsIssue u) (hx : Wrote w u (slot w s) x) (f : Form) :
    x.settled w f s.mem (.done 1) = ended w f none 1 s (u ((slot w s).thread w)) := by
  have hpfx : (u ((slot w s).thread w)).pfx = none := (hu.pfx _).trans hi.pfx
  simp [Hw.settled, ended, Thread.settle, Thread.words, issueCycle, hx.isFirst hu, hx.thread, hx.cycle, hpfx]

/-- It is in no stall. -/
theorem stall_ended (f : Form) (th : Thread) : (ended w f none 1 s th).stall = none := by
  unfold ended
  split
  · rfl
  · exact Thread.stall_finish _ _ _

/-- It is RUNNING, or a stop that waited has taken hold. -/
theorem tstate_ended {th : Thread} (ht : th.tstate = .running) (f : Form) :
    (ended w f none 1 s th).tstate = .running ∨ (ended w f none 1 s th).tstate = .stopped := by
  unfold ended
  split
  · exact .inl ht
  · exact Thread.tstate_finish ht _ _

/-- An instruction that has changed its thread completes in one slot, and nothing else changes. -/
theorem Issues.changed_settle (hi : Issues w none s) (hu : KeepsIssue u) (hx : Wrote w u (slot w s) x) (f : Form) :
    Changed w (fun k => k.updThread w.thread u) s f { s with hw := x.settle w f s.mem (.done 1) } := by
  set th := (slot w s).thread w
  have hunsent : (x.thread w).stall ≠ some .credit := by
    rw [hx.thread, hu.stall]
    exact hi.unsent
  have hend : (x.traceCtl w (.done 1)).settled w f s.mem (.done 1) = ended w f none 1 s (u th) := hi.settled_done hu hx f
  have hrun : (u th).tstate = .running := (hu.tstate th).trans hi.tstate
  obtain ⟨n, hcore⟩ := Hw.core_settle_unstalled (f := f) (m := s.mem) (c := .done 1) hunsent
    ((congrArg Thread.stall hend).trans (stall_ended f _))
  rw [hend] at hcore
  have hwaits : ∀ m, ((x.core w.core).updThread w.thread (fun _ => ended w f none 1 s (u th))).threadWaits w.thread m = false := by
    apply Core.not_threadWaits
    · rw [Core.thread_updThread_self]
      exact tstate_ended hrun f
    · rw [Core.thread_updThread_self]
      exact stall_ended f _
  have hself : ended w f none 1 s (u th) = ended w f none 1 s ((((slot w s).core w.core).updThread w.thread u).thread w.thread) := by
    rw [Core.thread_updThread_self, ← Hw.thread]
  have hastir : (x.settle w f s.mem (.done 1)).core w.core =
      ((((slot w s).core w.core).updThread w.thread u).updThread w.thread (ended w f none 1 s)).astir := by
    rw [hcore, Core.noted_astir hwaits, Core.astir_updThread, hx.core, ← Core.astir_updThread, Core.updThread_const hself]
  refine { core := hastir, cores := fun c hc => ?_, clock := ?_, mem := rfl, pending := rfl }
  · exact (Hw.core_settle_ne _ w (fun hv => hc (Fin.ext hv)) f s.mem _).trans (hx.cores c hc)
  · exact (Hw.clock_settle _ w f s.mem _).trans hx.clock

/-- As `Issues.changed_settle`, of the command. -/
theorem Issues.runs_changed (hi : Issues w none s) {i : Instr} {body : Option (BitVec 26) → Hw → Ctl × Hw}
    (he : exec i s = onHw (runInstr w (formOf i) body) s) (hb : body none (slot w s) = (.done 1, x)) (hu : KeepsIssue u)
    (hx : Wrote w u (slot w s) x) : Runs i s (Changed w (fun k => k.updThread w.thread u) s) := by
  refine ⟨_, he, ?_⟩
  rw [hi.runInstr (.inl rfl), hb]
  exact hi.changed_settle hu hx _

end

/-- The end of an instruction reads no data register. -/
theorem keepsIssue_setD (d : Fin 32) (v : W64) : KeepsIssue (·.setD d v) := {}

/-- No change. -/
theorem keepsIssue_id : KeepsIssue id := {}

/-- Nothing has changed. -/
theorem wrote_id (w : Who) (h : Hw) : Wrote w id h h where
  core := congrArg Core.astir (congrFun (Core.updThread_id w.thread) _).symm
  cores _ _ := rfl
  clock := rfl

/-- A change of the thread. -/
theorem wrote_updThread (w : Who) (u : Thread → Thread) (h : Hw) : Wrote w u h (h.updThread w u) where
  core := congrArg Core.astir (Hw.core_updCore_self ..)
  cores _ hc := Hw.core_updCore_ne _ (fun hv => hc (Fin.ext hv)) _
  clock := rfl

/-- A change of the thread of which the stillness detector takes note. -/
theorem Wrote.noted {w : Who} {u : Thread → Thread} {h x : Hw} (hx : Wrote w u h x) : Wrote w u h (x.noted w.core) where
  core := by rw [Hw.noted, Hw.core_updCore_self, Core.astir_noted, hx.core]
  cores c hc := (Hw.core_updCore_ne _ (fun hv => hc (Fin.ext hv)) _).trans (hx.cores c hc)
  clock := hx.clock

/-! ### IN and OUT (R132, R155, R213) -/

/-- What user mode may access, or where the thread is in supervisor mode, is not denied. -/
theorem portDenied_false {th : Thread} {p : Nat} (hp : portClass p ≠ some false ∨ th.mode = true) : portDenied th p = false := by
  rcases hp with hp | hp <;> simp [portDenied, hp]

section
variable {w : Who} {p : Nat} {h : Hw}

/-- A port of the supervisor in user mode (R14, R213). -/
theorem portDenied_user {th : Thread} (hp : portClass p = some false) (hm : th.mode = false) : portDenied th p = true := by
  simp [portDenied, hp, hm]

/-- A reserved port is not BLK. -/
theorem ne_blk_of_reserved (hp : portClass p = none) : p ≠ 0x531 := by
  rintro rfl
  exact absurd hp (by decide)

/-- A reserved port reads 0 (R14). -/
theorem portRead_reserved (hp : portClass p = none) (ag : Agent) (c : CoreId) (h : Hw) : portRead ag c p h = (0, h) := by
  simp only [portRead, hp]

/-- A reserved port takes no write (R14). -/
theorem portWrite_reserved (hp : portClass p = none) (ag : Agent) (c : CoreId) (v : W32) (h : Hw) :
    portWrite ag c p v h = (.done 1, h) := by
  simp only [portWrite, hp]

/-- A denied IN faults. -/
theorem inPort_denied (hp : portDenied (h.thread w) p = true) (d : Fin 32) :
    inPort w d p h = (faultAt (h.thread w) excPriv p, h) := by
  rw [inPort, if_pos hp]

/-- A denied OUT faults. -/
theorem outPort_denied (hp : portDenied (h.thread w) p = true) (v : W32) :
    outPort w p v h = (faultAt (h.thread w) excPriv p, h) := by
  rw [outPort, if_pos hp]

/-- An IN from a port whose read changes nothing. -/
theorem inPort_read (hp : portDenied (h.thread w) p = false) (hb : p ≠ 0x531) {r : W32}
    (hr : portRead (.thread w.thread) w.core p h = (r, h)) (d : Fin 32) :
    inPort w d p h = (.done 1, h.updThread w (·.setD d (r.setWidth 64))) := by
  simp [inPort, hp, hb, hr]

/-- With no purlin transaction due, an OUT is the write of its port (R28). -/
theorem outPort_alone (hp : portDenied (h.thread w) p = false) (ha : ∀ x ∈ h.purlins, x.core = w.core → h.clock < x.due) (v : W32) :
    outPort w p v h = portWrite (.thread w.thread) w.core p v h := by
  have hnone : ∀ x ∈ h.purlins, (x.core == w.core && x.port.toNat == p && decide (x.due ≤ h.clock)) = false := by
    intro x hx
    by_cases hc : x.core = w.core
    · simp [Nat.not_le.mpr (ha x hx hc)]
    · simp [hc]
  have hfirst : h.purlinFirst w.core p = h := by
    have hdue : h.purlins.filter (fun x => x.core == w.core && x.port.toNat == p && decide (x.due ≤ h.clock)) = [] :=
      List.filter_eq_nil_iff.mpr (fun x hx => by simp only [hnone x hx, Bool.false_eq_true, not_false_iff])
    have hwait : h.purlins.filter (fun x => !(x.core == w.core && x.port.toNat == p && decide (x.due ≤ h.clock))) = h.purlins :=
      List.filter_eq_self.mpr (fun x hx => by simp only [hnone x hx, Bool.not_false])
    unfold Hw.purlinFirst
    dsimp only
    rw [hdue, hwait]
    rfl
  rw [outPort, if_neg (by simp [hp]), hfirst]

end

/-- A value of 32 bits keeps them in a data register. -/
theorem setWidth_w32 {x : Nat} (hx : x < 2 ^ 32) : (w32 x).setWidth 64 = BitVec.ofNat 64 x := by
  apply BitVec.eq_of_toNat_eq
  simp only [w32, BitVec.toNat_setWidth, BitVec.toNat_ofNat, Nat.mod_eq_of_lt hx]

/-- A register of at most 32 bits is read with its value. -/
theorem setWidth_setWidth_ofNat {n : Nat} (hn : n ≤ 32) (x : BitVec n) :
    (x.setWidth 32).setWidth 64 = BitVec.ofNat 64 x.toNat := by
  have hx : x.toNat < 2 ^ 32 := Nat.lt_of_lt_of_le x.isLt (Nat.pow_le_pow_right (by decide) hn)
  rw [← setWidth_w32 hx]
  exact congrArg _ (BitVec.eq_of_toNat_eq (by simp [w32]))

/-- The number of a kind of core (R24). -/
theorem byKind_number (c : Nat) : byKind c 0 1 2 = if c % 44 < 32 then 0 else if c % 44 < 40 then 1 else 2 := by
  by_cases hj : c % 44 < 32
  · simp [byKind, isJoist, coreIn, hj]
  · by_cases hb : c % 44 < 40
    · simp [byKind, isJoist, isBrace, coreIn, hj, hb, Nat.le_of_not_lt hj]
    · simp [byKind, isJoist, isBrace, coreIn, hj, hb]

/-- The bits of the identity register (R30). -/
theorem idRead_core (c : CoreId) : (idRead c 0x0002).setWidth 64 =
    BitVec.ofNat 64 ((if c.val % 44 < 32 then 0 else if c.val % 44 < 40 then 1 else 2) * 2 ^ 30 +
      (if c.val % 44 = 40 then 1 else 0) * 2 ^ 29 + c.val * 4096 + c.val / 44 * 64 + c.val % 44) := by
  have hc := c.isLt
  have hwarden : b2n (isWarden c) = if c.val % 44 = 40 then 1 else 0 := by simp [b2n, isWarden, coreIn]
  have hkind : byKind c.val 0 1 2 ≤ 2 := by
    rw [byKind_number]
    split_ifs <;> decide
  have hflag : b2n (isWarden c) ≤ 1 := by
    rw [hwarden]
    split_ifs <;> decide
  rw [← byKind_number, ← hwarden]
  exact setWidth_w32 (by rw [bentOf, coreIn]; omega)

/-- Bits 19:8 of a value (R214). -/
theorem bits_19_8 (v : W32) : v.setWidth 20 &&& 0xFFF00#20 = BitVec.ofNat 20 (v.toNat % 2 ^ 20 / 2 ^ 8 * 2 ^ 8) := by
  have hmask : ∀ i < 20, (0xFFF00#20).getLsbD i = decide (8 ≤ i) := by decide
  have hshift : v.setWidth 20 &&& 0xFFF00#20 = (v.setWidth 20 >>> 8) <<< 8 := by
    apply BitVec.eq_of_getLsbD_eq
    intro i hi
    rw [BitVec.getLsbD_and, hmask i hi, BitVec.getLsbD_shiftLeft, BitVec.getLsbD_ushiftRight]
    by_cases h8 : 8 ≤ i
    · simp [hi, h8]
    · simp [hi, h8]
  rw [hshift]
  apply BitVec.eq_of_toNat_eq
  simp [BitVec.toNat_shiftLeft, BitVec.toNat_ushiftRight, Nat.shiftLeft_eq, Nat.shiftRight_eq_div_pow]

/-! ### The four forms of a port access -/

section
variable {w : Who} {d a sr : Fin 32} {p : BitVec 16} {s : State}

/-- The instruction is an IN from the port. -/
def ReadsPort (i : Instr) (w : Who) (d : Fin 32) (p : Nat) (s : State) : Prop :=
  ∃ body, exec i s = onHw (runInstr w (formOf i) body) s ∧ body none (slot w s) = inPort w d p (slot w s)

/-- The instruction is an OUT to the port. -/
def WritesPort (o : Instr) (w : Who) (sr : Fin 32) (p : Nat) (s : State) : Prop :=
  ∃ body, exec o s = onHw (runInstr w (formOf o) body) s ∧ body none (slot w s) = outPort w p (outValue w sr s) (slot w s)

/-- IN and INR. -/
theorem readsPort (hp : (((slot w s).thread w).getD a).toNat % 2 ^ 16 = p.toNat) :
    ∀ i ∈ [Instr.inp w d p, Instr.inr w d a], ReadsPort i w d p.toNat s := by
  intro i hi
  simp only [List.mem_cons, List.not_mem_nil, or_false] at hi
  rcases hi with rfl | rfl
  · exact ⟨_, rfl, rfl⟩
  · exact ⟨_, rfl, by rw [Thread.port, hp]⟩

/-- OUT and OUTR. -/
theorem writesPort (hp : (((slot w s).thread w).getD a).toNat % 2 ^ 16 = p.toNat) :
    ∀ o ∈ [Instr.out w p sr, Instr.outr w a sr], WritesPort o w sr p.toNat s := by
  intro o ho
  simp only [List.mem_cons, List.not_mem_nil, or_false] at ho
  rcases ho with rfl | rfl
  · exact ⟨_, rfl, rfl⟩
  · exact ⟨_, rfl, by rw [Thread.port, hp]; rfl⟩

end

section
variable {w : Who} {d sr : Fin 32} {p : Nat} {s : State} {i o : Instr}

/-- A denied access raises PRIV with the port as EADDR. -/
theorem ReadsPort.denied (hr : ReadsPort i w d p s) (hi : Issues w none s) (hp : portDenied ((slot w s).thread w) p = true) :
    Yields i s (Left w (found w s { code := 0x02, epc := ((slot w s).thread w).pc, eaddr := BitVec.ofNat 48 p }) s) := by
  obtain ⟨body, he, hb⟩ := hr
  exact hi.yields_fault (.inl rfl) he (hb.trans (inPort_denied hp d))

/-- As `ReadsPort.denied`, of an OUT. -/
theorem WritesPort.denied (ho : WritesPort o w sr p s) (hi : Issues w none s) (hp : portDenied ((slot w s).thread w) p = true) :
    Yields o s (Left w (found w s { code := 0x02, epc := ((slot w s).thread w).pc, eaddr := BitVec.ofNat 48 p }) s) := by
  obtain ⟨body, he, hb⟩ := ho
  exact hi.yields_fault (.inl rfl) he (hb.trans (outPort_denied hp _))

/-- An IN from a port whose read changes nothing leaves the value read in its register. -/
theorem ReadsPort.runs (hr : ReadsPort i w d p s) (hi : Issues w none s) (hp : portDenied ((slot w s).thread w) p = false)
    (hblk : p ≠ 0x531) {r : W32} (hport : portRead (.thread w.thread) w.core p (slot w s) = (r, slot w s)) {n : Nat}
    (hn : r.setWidth 64 = BitVec.ofNat 64 n) : Runs i s (reads w d n s) := by
  obtain ⟨body, he, hb⟩ := hr
  rw [inPort_read hp hblk hport d, hn] at hb
  exact hi.runs_changed he hb (keepsIssue_setD d _) (wrote_updThread w _ _)

/-- An OUT to a port whose write changes no more than its thread. -/
theorem WritesPort.runs (ho : WritesPort o w sr p s) (hi : Issues w none s) (hp : portDenied ((slot w s).thread w) p = false)
    (ha : Alone w s) {x : Hw} (hport : portWrite (.thread w.thread) w.core p (outValue w sr s) (slot w s) = (.done 1, x))
    {u : Thread → Thread} (hu : KeepsIssue u) (hx : Wrote w u (slot w s) x) :
    Runs o s (Changed w (fun k => k.updThread w.thread u) s) := by
  obtain ⟨body, he, hb⟩ := ho
  exact hi.runs_changed he (hb.trans ((outPort_alone hp ha _).trans hport)) hu hx

/-- An OUT to a port that takes no write. -/
theorem WritesPort.runs_id (ho : WritesPort o w sr p s) (hi : Issues w none s) (hp : portDenied ((slot w s).thread w) p = false)
    (ha : Alone w s) (hport : portWrite (.thread w.thread) w.core p (outValue w sr s) (slot w s) = (.done 1, slot w s)) :
    Runs o s (Changed w id s) := by
  rw [← Core.updThread_id w.thread]
  exact ho.runs hi hp ha hport keepsIssue_id (wrote_id w _)

/-- An OUT to a register of the thread's own block. -/
theorem WritesPort.runs_threadReg (ho : WritesPort o w sr p s) (hi : Issues w none s)
    (hp : portDenied ((slot w s).thread w) p = false) (ha : Alone w s) {off : Nat}
    (hport : portWrite (.thread w.thread) w.core p (outValue w sr s) (slot w s) =
      (.done 1, (slot w s).threadRegWrite w.core w.thread off (outValue w sr s)))
    {u : Thread → Thread} (hu : KeepsIssue u) (hreg : ∀ th free next, Thread.regWrite th off (outValue w sr s) free next = u th) :
    Runs o s (Changed w (fun k => k.updThread w.thread u) s) := by
  refine ho.runs hi hp ha hport hu ?_
  have hx : (slot w s).threadRegWrite w.core w.thread off (outValue w sr s) = ((slot w s).updThread w u).noted w.core := by
    simp only [Hw.threadRegWrite, hreg]
    rfl
  rw [hx]
  exact (wrote_updThread w u _).noted

end

/-- Settles O24: IN and OUT go through `portRead` and `portWrite`, which change no more than a register of the thread. -/
theorem portInstructions : Obligations.PortInstructions := by
  intro w d a sr p s hi hport th v i hin o hout
  have hread := readsPort hport i hin
  have hwrite := writesPort hport o hout
  refine ⟨fun hnone => ?_, ?_, fun hclass hmode x hx => ?_, ?_, ?_⟩
  · have hp : portDenied th p.toNat = false := portDenied_false (.inl (by simp [hnone]))
    exact ⟨hread.runs hi hp (ne_blk_of_reserved hnone) (portRead_reserved hnone _ _ _) rfl,
      fun ha => hwrite.runs_id hi hp ha (portWrite_reserved hnone _ _ _ _)⟩
  · rintro rfl
    exact hread.runs hi (portDenied_false (.inl (by decide))) (by decide) rfl (idRead_core w.core)
  · have hp : portDenied th p.toNat = true := portDenied_user hclass hmode
    simp only [List.mem_cons, List.not_mem_nil, or_false] at hx
    rcases hx with rfl | rfl
    · exact hread.denied hi hp
    · exact hwrite.denied hi hp
  · rintro rfl
    have hp : portDenied th 0x407 = false := portDenied_false (.inl (by decide))
    exact ⟨hread.runs hi hp (by decide) rfl (setWidth_setWidth_ofNat (by decide) _),
      fun ha => hwrite.runs_threadReg hi hp ha (off := 7) rfl {} (fun _ _ _ => rfl)⟩
  · rintro rfl hmode
    have hp : portDenied th 0x405 = false := portDenied_false (.inr hmode)
    refine ⟨hread.runs hi hp (by decide) rfl (setWidth_setWidth_ofNat (by decide) _),
      fun ha => hwrite.runs_threadReg hi hp ha (off := 5) rfl {} (fun th _ _ => ?_)⟩
    exact congrArg (fun b => { th with vbase := b }) (bits_19_8 v)

end Sys2Proof.Claims

namespace Sys2Proof.Claims

open Sys2Proof.Machine

/-! ### Bits of bytes in memory (R11) -/

/-- Bit `j` of a little-endian number is bit `j % 8` of its byte `j / 8`. -/
theorem testBit_ofBytes (bs : List Byte) (j : Nat) : (ofBytes bs).testBit j = (bs.getD (j / 8) 0).getLsbD (j % 8) := by
  induction bs generalizing j with
  | nil => simp [ofBytes]
  | cons b bs ih =>
    have hsplit : ofBytes (b :: bs) = 2 ^ 8 * ofBytes bs + b.toNat := Nat.add_comm _ _
    rw [hsplit, Nat.testBit_two_pow_mul_add _ b.isLt]
    split
    case isTrue hj =>
      rw [Nat.div_eq_of_lt hj, Nat.mod_eq_of_lt hj]
      rfl
    case isFalse hj =>
      have hdiv : j / 8 = (j - 8) / 8 + 1 := by omega
      have hmod : j % 8 = (j - 8) % 8 := by omega
      rw [ih, hdiv, hmod, List.getD_cons_succ]

/-- The bits of a number in memory are those of its bytes. -/
theorem testBit_memNat (loc n j : Nat) (m : Mem) : (memNat loc n m).testBit j = (decide (j < 8 * n) && memBit loc j m) := by
  rw [memNat, testBit_ofBytes, memReadN]
  by_cases hj : j / 8 < n
  · have h8 : j < 8 * n := by omega
    simp [hj, h8, memBit]
  · have h8 : ¬j < 8 * n := by omega
    simp [hj, h8]

/-- The bits of a number's bytes are its own. -/
theorem getLsbD_toBytes {n j : Nat} (hj : j < 8 * n) (x : Nat) : ((toBytes n x).getD (j / 8) 0).getLsbD (j % 8) = x.testBit j := by
  have hpow : 256 ^ n = 2 ^ (8 * n) := by rw [Nat.pow_mul]
  rw [← testBit_ofBytes, ofBytes_toBytes, hpow, Nat.testBit_mod_two_pow, decide_eq_true hj, Bool.true_and]

/-- The bytes of a number, once written, hold its bits, and every other byte is as it was. -/
theorem stored_memWriteN (loc n x : Nat) (m : Mem) : Stored loc n x.testBit m (memWriteN loc (toBytes n x) m) := by
  constructor
  · intro j hj
    rw [memBit, memRead_memWriteN_in _ _ (by rw [toBytes_length]; omega), getLsbD_toBytes hj]
  · intro a ha
    exact memRead_memWriteN_out _ _ (by rwa [toBytes_length])

/-! ### What a completed or faulting instruction leaves, in the terms of `Ran`, `Accessed` and `Left` -/

/-- A core that differs in one thread, and in what the stillness detector notes, is otherwise the same. -/
theorem sameCore_of_astir {k l : Core} {t : Fin 4} {f : Thread → Thread} (hk : k.astir = (l.updThread t f).astir) : SameCore k l :=
  (congrArg (fun x : Core => { x with threads := l.threads, still := l.still, stillFrom := l.stillFrom }) hk :)

/-- Two changes of a thread leave the rest of a core the same. -/
theorem sameCore_updThread_updThread (k : Core) (t : Fin 4) (f g : Thread → Thread) :
    SameCore ((k.updThread t f).updThread t g).astir k := rfl

/-- A core that is the same is so with the other's mortises. -/
theorem SameCore.withMortises {k l : Core} (hk : SameCore k l) : SameCore { k with mortises := l.mortises } l :=
  congrArg (fun x : Core => ({ x with mortises := l.mortises } : Core)) hk

/-- A core that is the same is so with the other's frame. -/
theorem SameCore.withFrame {k l : Core} (hk : SameCore k l) : SameCore { k with frame := l.frame } l :=
  congrArg (fun x : Core => ({ x with frame := l.frame } : Core)) hk

/-- What an exception found leaves of the thread. -/
theorem settled_fault (h : Hw) (w : Who) (f : Form) (m : Mem) (e : Exc) :
    (h.traceCtl w (.fault e)).settled w f m (.fault e) = (h.thread w).settle (h.cycle w.core) (.fault e) := rfl

section
variable {w : Who} {u : Thread → Thread} {s t : State} {f : Form}

/-- The core of an instruction that has completed is astir. -/
theorem Changed.astir {g : Core → Core} (ht : Changed w g s f t) :
    t.hw.core w.core = ((g ((slot w s).core w.core)).updThread w.thread (ended w f none 1 s)).astir := ht.core

/-- The thread of an instruction that has changed no more than its thread. -/
theorem Changed.thread (ht : Changed w (fun k => k.updThread w.thread u) s f t) :
    t.hw.thread w = ended w f none 1 s (u ((slot w s).thread w)) := by
  rw [Hw.thread, ht.astir, Core.thread_astir, Core.thread_updThread_self, Core.thread_updThread_self, ← Hw.thread]

/-- The other threads of its core. -/
theorem Changed.threads (ht : Changed w (fun k => k.updThread w.thread u) s f t) (v : Fin 4) (hv : v ≠ w.thread) :
    (t.hw.core w.core).thread v = ((slot w s).core w.core).thread v := by
  rw [ht.astir, Core.thread_astir, Core.thread_updThread_ne _ hv, Core.thread_updThread_ne _ hv]

/-- The rest of its core. -/
theorem Changed.sameCore (ht : Changed w (fun k => k.updThread w.thread u) s f t) :
    SameCore (t.hw.core w.core) ((slot w s).core w.core) := by
  rw [ht.astir]
  exact sameCore_updThread_updThread ..

/-- An instruction that has changed no more than its thread has run. -/
theorem Changed.ran (ht : Changed w (fun k => k.updThread w.thread u) s f t) : Ran w none 1 u s f t where
  thread := ht.thread
  threads := ht.threads
  core := ht.sameCore.withMortises
  cores := ht.cores
  clock := ht.clock
  mem := ht.mem
  pending := ht.pending

/-- As `Changed.ran`, where the instruction has left other bytes in memory. -/
theorem Changed.accessed (ht : Changed w (fun k => k.updThread w.thread u) s f t) (m : Mem) :
    Accessed w none u s f { t with mem := m } where
  thread := ht.thread
  threads := ht.threads
  core := ht.sameCore.withFrame
  cores := ht.cores
  clock := ht.clock
  pending := ht.pending

/-- An instruction that finds an exception, and has changed nothing but what the stillness detector notes, leaves its thread with
the exception (R196). -/
theorem Issues.wrote_fault (hi : Issues w none s) {x : Hw} (hx : Wrote w id (slot w s) x) (f : Form) (e : Exc) :
    Left w (found w s e) s { s with hw := x.settle w f s.mem (.fault e) } := by
  have hunsent : (x.thread w).stall ≠ some .credit := by
    rw [hx.thread, id_eq]
    exact hi.unsent
  obtain ⟨n, hcore⟩ := Hw.core_settle_unstalled (f := f) (m := s.mem) (c := .fault e) hunsent rfl
  have hfound : (x.traceCtl w (.fault e)).settled w f s.mem (.fault e) = found w s e ((slot w s).thread w) := by
    rw [settled_fault, hx.thread, hx.cycle, id_eq]
    rfl
  have hkeep : (x.core w.core).astir = ((slot w s).core w.core).astir := by
    rw [hx.core, congrFun (Core.updThread_id w.thread)]
    rfl
  refine { thread := ?_, threads := fun v hv => ?_, core := ?_, cores := fun c hc => ?_, clock := ?_, mem := rfl, pending := rfl }
  · rw [Hw.thread, hcore, Core.thread_noted, Core.thread_updThread_self, hfound]
  · rw [hcore, Core.thread_noted, Core.thread_updThread_ne _ hv, ← Core.thread_astir, hkeep, Core.thread_astir]
  · refine sameCore_of_astir (t := w.thread) (f := fun _ => found w s e ((slot w s).thread w)) ?_
    rw [hcore, Core.astir_noted, Core.astir_updThread, hkeep, ← Core.astir_updThread, hfound]
  · exact (Hw.core_settle_ne _ w (fun hv => hc (Fin.ext hv)) f s.mem _).trans (hx.cores c hc)
  · exact (Hw.clock_settle _ w f s.mem _).trans hx.clock

end

section
variable {w : Who} {s : State} {i : Instr} {g : Thread → Ctl × Thread}

/-- An effect on its own thread alone, in the terms of the change that it makes there. -/
theorem onThread_eq {h : Hw} {c : Ctl} {u : Thread → Thread} (hg : g (h.thread w) = (c, u (h.thread w))) :
    onThread w g h = (c, h.updThread w u) := by
  simp only [onThread, hg]
  rfl

/-- An instruction whose effect is on its own thread alone, and that completes in one slot. -/
theorem Issues.onThread_runs (hi : Issues w none s) (he : exec i s = onHw (runInstr w (formOf i) (fun _ => onThread w g)) s)
    {u : Thread → Thread} (hu : KeepsIssue u) (hg : g ((slot w s).thread w) = (.done 1, u ((slot w s).thread w))) :
    Runs i s (Changed w (fun k => k.updThread w.thread u) s) :=
  hi.runs_changed he (onThread_eq hg) hu (wrote_updThread w u _)

/-- As `Issues.onThread_runs`, of one that finds an exception. -/
theorem Issues.onThread_fault (hi : Issues w none s) {f : Form} (he : exec i s = onHw (runInstr w f (fun _ => onThread w g)) s)
    {e : Exc} (hg : g ((slot w s).thread w) = (.fault e, (slot w s).thread w)) : Yields i s (Left w (found w s e) s) := by
  refine ⟨_, he, ?_⟩
  rw [hi.runInstr (.inl rfl), onThread_eq (u := id) hg]
  exact hi.wrote_fault (wrote_updThread w id _) f e

/-- An instruction that writes memory and nothing else, and completes in one slot. -/
theorem Issues.runs_accessed (hi : Issues w none s) {body : Option (BitVec 26) → Mem → Hw → Ctl × Mem × Hw}
    (he : exec i s = onMem (runInstrM w (formOf i) body) s) {m : Mem} (hb : body none s.mem (slot w s) = (.done 1, m, slot w s)) :
    Runs i s (fun f t => Accessed w none id s f t ∧ t.mem = m) := by
  refine ⟨_, he, ?_⟩
  rw [hi.runInstrM (.inl rfl), hb]
  exact ⟨(hi.changed_settle keepsIssue_id (wrote_id w _) _).accessed m, rfl⟩

end

/-! ### ILD and IST (R129, R155) -/

section
variable {c : Nat} {th : Thread} {a : W48}

/-- In user mode ILD and IST are refused. -/
theorem imemCheck_user (hm : th.mode = false) : imemCheck c th a = some (faultAt th excPriv) := by
  simp [imemCheck, userFault, hm]

/-- An address that is not that of a word is refused. -/
theorem imemCheck_misaligned (hm : th.mode = true) (ha : a.toNat % 4 ≠ 0) : imemCheck c th a = some (faultAt th excAlign a.toNat) := by
  simp [imemCheck, userFault, hm, ha]

/-- An address beyond the memory is refused. -/
theorem imemCheck_beyond (hm : th.mode = true) (ha : a.toNat % 4 = 0) (hc : imemSize c ≤ a.toNat) :
    imemCheck c th a = some (faultAt th excImemRange a.toNat) := by
  simp [imemCheck, userFault, hm, ha, hc]

/-- In supervisor mode the address of a word of the memory is not. -/
theorem imemCheck_inside (hm : th.mode = true) (ha : a.toNat % 4 = 0) (hc : a.toNat < imemSize c) : imemCheck c th a = none := by
  simp [imemCheck, userFault, hm, ha, hc]

end

section
variable {w : Who} {d sr : Fin 32} {b : Fin 16} {s : State}

/-- A refused ILD or IST leaves its thread with the exception. -/
theorem imem_refused (hi : Issues w none s) {e : Exc}
    (hc : imemCheck w.core ((slot w s).thread w) (((slot w s).thread w).getA b) = some (.fault e)) :
    ∀ i ∈ [Instr.ild w d b, Instr.ist w b sr], Yields i s (Left w (found w s e) s) := by
  intro i hmem
  simp only [List.mem_cons, List.not_mem_nil, or_false] at hmem
  rcases hmem with rfl | rfl
  · refine hi.onThread_fault (he := rfl) ?_
    simp only [hc]
  · refine hi.yields_faultM (.inl rfl) (he := rfl) ?_
    simp only [hc]

/-- ILD reads its word. -/
theorem ild_runs (hi : Issues w none s)
    (hc : imemCheck w.core ((slot w s).thread w) (((slot w s).thread w).getA b) = none) :
    Runs (.ild w d b) s (Ran w none 1
      (fun th => th.setD d (BitVec.ofNat 64 (memNat (locImem w.core (((slot w s).thread w).getA b).toNat) 4 s.mem))) s) := by
  obtain ⟨t, he, ht⟩ := hi.onThread_runs (i := .ild w d b) (he := rfl)
    (keepsIssue_setD d (BitVec.ofNat 64 (memNat (locImem w.core (((slot w s).thread w).getA b).toNat) 4 s.mem))) (by simp only [hc])
  exact ⟨t, he, ht.ran⟩

/-- IST writes its word. -/
theorem ist_runs (hi : Issues w none s)
    (hc : imemCheck w.core ((slot w s).thread w) (((slot w s).thread w).getA b) = none) :
    Runs (.ist w b sr) s (fun f t => Accessed w none id s f t ∧
      t.mem = memWriteN (locImem w.core (((slot w s).thread w).getA b).toNat) (toBytes 4 (((slot w s).thread w).getD sr).toNat) s.mem) := by
  refine hi.runs_accessed (he := rfl) ?_
  simp only [hc]

end

/-- Settles O16: one check decides between the accesses and the three exceptions. -/
theorem instructionMemoryAccess : Obligations.InstructionMemoryAccess := by
  intro w d sr b s hi th a loc
  constructor
  · intro hm ha hr
    have hc : imemCheck w.core th (th.getA b) = none := imemCheck_inside hm ha hr
    refine ⟨⟨BitVec.ofNat 64 (memNat loc 4 s.mem), fun j hj => ?_, ild_runs hi hc⟩, ?_⟩
    · rw [BitVec.getLsbD_ofNat, testBit_memNat, decide_eq_true hj, Bool.true_and]
    · obtain ⟨t, he, ht, hmem⟩ := ist_runs (sr := sr) hi hc
      exact ⟨t, he, ht, hmem ▸ stored_memWriteN loc 4 _ s.mem⟩
  · intro i hmem
    exact ⟨fun hm => imem_refused hi (imemCheck_user hm) i hmem,
      fun hm ha => imem_refused hi (imemCheck_misaligned hm ha) i hmem,
      fun hm ha hr => imem_refused hi (imemCheck_beyond hm ha hr) i hmem⟩

end Sys2Proof.Claims

namespace Sys2Proof.Machine

/-! ### Route commits (R242, R264) -/

/-- The test of a commit, in the terms of the statements. -/
theorem all_mayCommit (k : Core) :
    (List.finRange 16).all (fun n => k.tenons[n].shadow == k.tenons[n].active || k.tenons[n].credits == 8) = true ↔
      Claims.MayCommit k := by
  simp [Claims.MayCommit]

/-- A pending commit that may be applied is. -/
theorem Core.applyRoutes_may {k : Core} (hp : k.ncommitPending = true) (hf : k.frozenAt = none) (hm : Claims.MayCommit k) :
    k.applyRoutes = Claims.committed k := by
  rw [Core.applyRoutes, if_pos (by rw [hp, hf, (all_mayCommit k).mpr hm]; rfl)]
  rfl

/-- Without a commit to apply, the routes stay. -/
theorem Core.applyRoutes_not {k : Core} (hn : k.ncommitPending = false ∨ k.frozenAt ≠ none ∨ ¬Claims.MayCommit k) :
    k.applyRoutes = k := by
  rw [Core.applyRoutes, if_neg]
  intro hall
  simp only [Bool.and_eq_true, all_mayCommit, Option.isNone_iff_eq_none] at hall
  obtain ⟨⟨hp, hf⟩, hm⟩ := hall
  rcases hn with hn | hn | hn
  · exact Bool.false_ne_true (hn.symm.trans hp)
  · exact hn hf
  · exact hn hm

/-- The application of routes starts and ends no stream. -/
theorem Core.stream_applyRoutes (k : Core) : k.applyRoutes.stream = k.stream := by
  unfold Core.applyRoutes
  split <;> rfl

/-- Where the stream unit is idle, only the routes may change. -/
theorem Hw.routesMayApply_idle {h : Hw} {c : CoreId} (hs : (h.core c).stream = none) :
    h.routesMayApply c = h.updCore c Core.applyRoutes := by
  have hidle : ((h.updCore c Core.applyRoutes).core c).stream.isNone = true := by
    rw [Hw.core_updCore_self, Core.stream_applyRoutes, hs]
    rfl
  rw [Hw.routesMayApply, Hw.unblocked, if_pos hidle]

/-- The core then has its routes applied. -/
theorem Hw.core_routesMayApply_idle {h : Hw} {c : CoreId} (hs : (h.core c).stream = none) :
    (h.routesMayApply c).core c = (h.core c).applyRoutes := by
  rw [Hw.routesMayApply_idle hs, Hw.core_updCore_self]

/-! ### NFORCE (R258, R260) -/

/-- A tenon as NFORCE leaves it (R258, R260). -/
def Core.forcedTenon (k : Core) (cyc : Nat) (n : Fin 16) (t : Tenon) : Tenon :=
  { t with
    credits := 8, epoch := t.epoch + 1, stallReported := false
    stallStart := if ∃ t : Fin 4, (k.thread t).stall = some .credit ∧ (k.thread t).stallOn = n.val then some (cyc + 1) else none }

/-- A core with some of its tenons as NFORCE leaves them. -/
def Core.forceTenons (k : Core) (cyc : Nat) (sel : Fin 16 → Bool) : Core :=
  { k with tenons := Vector.ofFn (fun n => if sel n then k.forcedTenon cyc n k.tenons[n] else k.tenons[n]) }

/-- NFORCE in the terms of the statements. -/
theorem Core.forceTenons_mask (k : Core) (v : W32) (cyc : Nat) :
    k.forceTenons cyc (fun n => v.getLsbD n.val) = Claims.forced v cyc k := rfl

/-- Where the stream unit is idle, only threads have stalled sends. -/
theorem Core.sendStalled_idle {k : Core} (hs : k.stream = none) (n : Fin 16) :
    k.sendStalled n = true ↔ ∃ t : Fin 4, (k.thread t).stall = some .credit ∧ (k.thread t).stallOn = n.val := by
  simp [Core.sendStalled, Core.streamBlocked, hs]

/-- Two changes of a tenon in one. -/
theorem Core.updTenon_updTenon (k : Core) (n : Fin 16) (f g : Tenon → Tenon) :
    (k.updTenon n f).updTenon n g = k.updTenon n (fun t => g (f t)) := by
  simp [Core.updTenon]

/-- The steps of NFORCE on one tenon. -/
theorem Core.clearCount_forced {k : Core} (hs : k.stream = none) (n : Fin 16) (cyc : Nat) :
    (k.updTenon n (fun t => { t with credits := 8, epoch := t.epoch + 1 })).clearCount n cyc = k.updTenon n (k.forcedTenon cyc n) := by
  have hidle : (k.updTenon n (fun t => { t with credits := 8, epoch := t.epoch + 1 })).stream = none := hs
  rw [Core.clearCount, if_congr (Core.sendStalled_idle hidle n) rfl rfl, Core.updTenon_updTenon]
  rfl

/-- A tenon forced, and then others. -/
theorem Core.forceTenons_updTenon (k : Core) (cyc : Nat) {n : Fin 16} {sel : Fin 16 → Bool} (hn : sel n = false) :
    (k.updTenon n (k.forcedTenon cyc n)).forceTenons cyc sel = k.forceTenons cyc (fun m => m == n || sel m) := by
  have hforced : (k.updTenon n (k.forcedTenon cyc n)).forcedTenon = k.forcedTenon := rfl
  refine congrArg (fun ts : Vector Tenon 16 => ({ k with tenons := ts } : Core)) (Vector.ext fun i hi => ?_)
  by_cases hin : i = n.val
  · subst hin
    simp [hn, Core.updTenon]
  · have hne : (⟨i, hi⟩ : Fin 16) ≠ n := fun h => hin (congrArg Fin.val h)
    have hkept : (k.updTenon n (k.forcedTenon cyc n)).tenons[i] = k.tenons[i] := Vector.getElem_set_ne n.isLt hi (Ne.symm hin)
    simp [hforced, hkept, hne]

/-- NFORCE forces the tenons of its mask, one after the other. -/
theorem Core.foldl_nforce (v : W32) (cyc : Nat) {l : List (Fin 16)} (hl : l.Nodup) {k : Core} (hs : k.stream = none) :
    l.foldl (fun k n => if v.getLsbD n.val then
        (k.updTenon n (fun t => { t with credits := 8, epoch := t.epoch + 1 })).clearCount n cyc else k) k =
      k.forceTenons cyc (fun n => l.contains n && v.getLsbD n.val) := by
  induction l generalizing k with
  | nil => simp [Core.forceTenons]
  | cons n l ih =>
    obtain ⟨hn, hl⟩ := List.nodup_cons.mp hl
    rw [List.foldl_cons]
    split
    case isTrue hv =>
      have hidle : (k.updTenon n (k.forcedTenon cyc n)).stream = none := hs
      rw [Core.clearCount_forced hs, ih hl hidle, Core.forceTenons_updTenon _ _ (by simp [hn])]
      congr 1
      funext m
      by_cases hm : m = n <;> simp [hm, hv]
    case isFalse hv =>
      rw [ih hl hs]
      congr 1
      funext m
      by_cases hm : m = n <;> simp [hm, hv]

/-- Where the stream unit is idle, NFORCE forces the tenons of its mask. -/
theorem Core.nforce_idle {k : Core} (hs : k.stream = none) (v : W32) (cyc : Nat) : k.nforce v cyc = Claims.forced v cyc k := by
  rw [Core.nforce, Core.foldl_nforce v cyc (List.nodup_finRange 16) hs, ← Core.forceTenons_mask]
  simp

/-! ### MFLUSH (R252) -/

/-- What travels for a credit returned stays, and no time passes. -/
structure KeepsCredits (h x : Hw) : Prop where
  credits : h.credits ⊆ x.credits
  plateCredits : h.plateCredits ⊆ x.plateCredits
  clock : x.clock = h.clock

/-- It does where nothing happens. -/
theorem KeepsCredits.refl (h : Hw) : KeepsCredits h h := ⟨List.Subset.refl _, List.Subset.refl _, rfl⟩

/-- It does from step to step. -/
theorem KeepsCredits.trans {h x y : Hw} (hx : KeepsCredits h x) (hy : KeepsCredits x y) : KeepsCredits h y :=
  ⟨List.Subset.trans hx.credits hy.credits, List.Subset.trans hx.plateCredits hy.plateCredits, hy.clock.trans hx.clock⟩

/-- A core's change leaves what travels. -/
theorem KeepsCredits.updCore (h : Hw) (c : Nat) (f : Core → Core) : KeepsCredits h (h.updCore c f) :=
  ⟨List.Subset.refl _, List.Subset.refl _, rfl⟩

/-- The credit of an entry of mortise `m` of core `c` is on its way to who is owed it. -/
def Returning (c : CoreId) (m : Fin 16) (owed : CreditTo) (h : Hw) : Prop :=
  match owed with
  | .tenon d n ep => ∃ x ∈ h.credits, x.core = d ∧ x.tenon = n ∧ x.epoch = ep ∧
      x.due = h.clock + tupleLatency c d ∧ x.source = some c
  | .plate p => ∃ x ∈ h.plateCredits, x.plate = p ∧ x.core = c ∧ x.mort = m

/-- It stays on its way. -/
theorem Returning.keeps {c : CoreId} {m : Fin 16} {owed : CreditTo} {h x : Hw} (hr : Returning c m owed h) (hx : KeepsCredits h x) :
    Returning c m owed x := by
  cases owed with
  | tenon d n ep =>
    obtain ⟨y, hy, hcore, hten, hep, hdue, hsrc⟩ := hr
    exact ⟨y, hx.credits hy, hcore, hten, hep, by rw [hdue, hx.clock], hsrc⟩
  | plate p =>
    obtain ⟨y, hy, hrest⟩ := hr
    exact ⟨y, hx.plateCredits hy, hrest⟩

/-- A core's number names it. -/
@[simp] theorem coreId_val (c : CoreId) : coreId c.val = c := Fin.ext (Nat.mod_eq_of_lt c.isLt)

/-- A transaction is posted among the flits, and nothing else changes. -/
theorem Hw.post_eq (h : Hw) (src dst : Nat) (vc : Fin 4) (start : Nat) :
    ∃ n fs, (h.post src dst vc start).2 = { h with flitSerial := n, flits := fs } := by
  unfold Hw.post Hw.postRow
  split
  · exact ⟨_, _, rfl⟩
  · exact ⟨_, _, rfl⟩

/-- A returned credit travels back to who is owed it, with a flit or none, and nothing else changes. -/
theorem Hw.returnCredit_spec (h : Hw) (c : CoreId) (m : Fin 16) (owed : CreditTo) :
    Claims.CreditBack c m owed h (h.returnCredit c m owed) ∧
      ∃ n fs cs ps, h.returnCredit c m owed = { h with flitSerial := n, flits := fs, credits := cs, plateCredits := ps } ∧
        h.credits ⊆ cs ∧ h.plateCredits ⊆ ps := by
  cases owed with
  | tenon e n ep =>
    obtain ⟨i, fs, hp⟩ := h.post_eq (bentOf c) (bentOf e) 1 (h.clock + 8)
    simp only [Hw.returnCredit, Hw.returnCreditAt, hp, coreId_val]
    exact ⟨⟨_, rfl⟩, i, fs, _, _, rfl, List.subset_append_left .., List.Subset.refl _⟩
  | plate p =>
    obtain ⟨i, fs, hp⟩ := h.post_eq (bentOf c) (plateRouter p) 1 (h.clock + 8)
    simp only [Hw.returnCredit, Hw.returnCreditAt, hp, coreId_val]
    exact ⟨⟨_, rfl⟩, i, fs, _, _, rfl, List.Subset.refl _, List.subset_append_left ..⟩

/-- A returned credit changes no core. -/
@[simp] theorem Hw.core_returnCredit (h : Hw) (c : CoreId) (m : Fin 16) (owed : CreditTo) (d : Nat) :
    (h.returnCredit c m owed).core d = h.core d := by
  obtain ⟨-, n, fs, cs, ps, heq, -⟩ := h.returnCredit_spec c m owed
  rw [heq]
  rfl

/-- A returned credit joins those that travel. -/
theorem KeepsCredits.returnCredit (h : Hw) (c : CoreId) (m : Fin 16) (owed : CreditTo) :
    KeepsCredits h (h.returnCredit c m owed) := by
  obtain ⟨-, n, fs, cs, ps, heq, hcs, hps⟩ := h.returnCredit_spec c m owed
  rw [heq]
  exact ⟨hcs, hps, rfl⟩

/-- A returned credit is on its way. -/
theorem Returning.returnCredit (h : Hw) (c : CoreId) (m : Fin 16) (owed : CreditTo) :
    Returning c m owed (h.returnCredit c m owed) := by
  obtain ⟨hback, -⟩ := h.returnCredit_spec c m owed
  have hclock := (KeepsCredits.returnCredit h c m owed).clock
  cases owed with
  | tenon e n ep =>
    obtain ⟨fl, hcredits⟩ := hback
    refine ⟨_, hcredits ▸ List.mem_append_right _ (List.mem_singleton_self _), rfl, rfl, rfl, ?_, rfl⟩
    rw [hclock]
  | plate p =>
    obtain ⟨fl, hcredits⟩ := hback
    exact ⟨_, hcredits ▸ List.mem_append_right _ (List.mem_singleton_self _), rfl, rfl, rfl⟩

/-- The credits of a mortise's entries return. -/
def Hw.returnAll (h : Hw) (c : CoreId) (m : Fin 16) (q : List Entry) : Hw := q.foldl (fun h e => h.returnCredit c m e.credit) h

/-- They change no core. -/
theorem Hw.core_returnAll (c : CoreId) (m : Fin 16) (q : List Entry) (h : Hw) (d : Nat) : (h.returnAll c m q).core d = h.core d := by
  induction q generalizing h with
  | nil => rfl
  | cons e q ih => exact (ih _).trans (Hw.core_returnCredit ..)

/-- They join those that travel. -/
theorem KeepsCredits.returnAll (c : CoreId) (m : Fin 16) (q : List Entry) (h : Hw) : KeepsCredits h (h.returnAll c m q) := by
  induction q generalizing h with
  | nil => exact .refl h
  | cons e q ih => exact (KeepsCredits.returnCredit h c m e.credit).trans (ih _)

/-- Each of them is on its way. -/
theorem Returning.returnAll (c : CoreId) (m : Fin 16) {q : List Entry} {e : Entry} (he : e ∈ q) (h : Hw) :
    Returning c m e.credit (h.returnAll c m q) := by
  induction q generalizing h with
  | nil => exact absurd he List.not_mem_nil
  | cons a q ih =>
    rcases List.mem_cons.mp he with rfl | he
    · exact (Returning.returnCredit h c m e.credit).keeps (KeepsCredits.returnAll c m q _)
    · exact ih he _

/-- From `h` to `x` the mortises of a core that satisfy `S` have been flushed: they are empty and their entries' credits return. -/
structure Flushed (c : CoreId) (S : Fin 16 → Prop) (h x : Hw) : Prop extends KeepsCredits h x where
  threads : (x.core c).threads = (h.core c).threads
  emptied : ∀ m, S m → (x.core c).mortises[m] = []
  kept : ∀ m, ¬S m → (x.core c).mortises[m] = (h.core c).mortises[m]
  returning : ∀ m, S m → ∀ e ∈ (h.core c).mortises[m], Returning c m e.credit x

/-- None has been flushed. -/
theorem Flushed.none (c : CoreId) (h : Hw) : Flushed c (fun _ => False) h h where
  toKeepsCredits := .refl h
  threads := rfl
  emptied _ hm := hm.elim
  kept _ _ := rfl
  returning _ hm := hm.elim

/-- Some have been flushed and then others. -/
theorem Flushed.trans {c : CoreId} {S T : Fin 16 → Prop} {h x y : Hw} (hx : Flushed c S h x) (hy : Flushed c T x y) :
    Flushed c (fun m => S m ∨ T m) h y where
  toKeepsCredits := hx.toKeepsCredits.trans hy.toKeepsCredits
  threads := hy.threads.trans hx.threads
  emptied m hm := by
    by_cases ht : T m
    · exact hy.emptied m ht
    · rw [hy.kept m ht, hx.emptied m (hm.resolve_right ht)]
  kept m hm := by
    obtain ⟨hs, ht⟩ := not_or.mp hm
    rw [hy.kept m ht, hx.kept m hs]
  returning m hm e he := by
    by_cases hs : S m
    · exact (hx.returning m hs e he).keeps hy.toKeepsCredits
    · exact hy.returning m (hm.resolve_left hs) e (hx.kept m hs ▸ he)

/-- The note of the stillness detector leaves the mortises. -/
@[simp] theorem Core.mortises_noted (k : Core) (n : Nat) : (k.noted n).mortises = k.mortises := by
  unfold Core.noted
  dsimp only
  split <;> rfl

/-- The flush of one mortise. -/
theorem flushed_flushMortise (c : CoreId) (m : Fin 16) (h : Hw) : Flushed c (· = m) h (h.flushMortise c m) := by
  set h1 := h.updCore c (fun k => { k with mortises := k.mortises.set m [] }) with hh1
  set h2 := h1.returnAll c m (h.core c).mortises[m]
  have hflush : h.flushMortise c m = h2.noted c := rfl
  have hkeep : KeepsCredits h h2 := (KeepsCredits.updCore ..).trans (KeepsCredits.returnAll ..)
  have hnoted : KeepsCredits h2 (h2.noted c) := KeepsCredits.updCore ..
  have hcore : ∃ n, (h2.noted c).core c = Core.noted { h.core c with mortises := (h.core c).mortises.set m [] } n := by
    rw [Hw.noted, Hw.core_updCore_self, Hw.core_returnAll, hh1, Hw.core_updCore_self]
    exact ⟨_, rfl⟩
  obtain ⟨n, hcore⟩ := hcore
  rw [hflush]
  refine { toKeepsCredits := hkeep.trans hnoted, threads := ?_, emptied := ?_, kept := fun j hj => ?_, returning := ?_ }
  · rw [hcore, Core.threads_noted]
  · rintro j rfl
    rw [hcore, Core.mortises_noted]
    simp
  · rw [hcore, Core.mortises_noted]
    exact Vector.getElem_set_ne m.isLt j.isLt (fun hv => hj (Fin.ext hv.symm))
  · rintro j rfl e he
    exact (Returning.returnAll c j he h1).keeps hnoted

/-- MFLUSH flushes the mortises of its mask, one after the other. -/
theorem flushed_foldl (c : CoreId) (v : W32) (l : List (Fin 16)) (h : Hw) :
    Flushed c (fun m => m ∈ l ∧ v.getLsbD m.val = true) h
      (l.foldl (fun h m => if v.getLsbD m.val then h.flushMortise c m else h) h) := by
  induction l generalizing h with
  | nil => simpa using Flushed.none c h
  | cons a l ih =>
    rw [List.foldl_cons]
    split
    case isTrue hv =>
      have hset : (fun m => m ∈ a :: l ∧ v.getLsbD m.val = true) = fun m => m = a ∨ m ∈ l ∧ v.getLsbD m.val = true := by
        funext m
        by_cases hm : m = a <;> simp [hm, hv]
      rw [hset]
      exact (flushed_flushMortise c a h).trans (ih _)
    case isFalse hv =>
      have hset : (fun m => m ∈ a :: l ∧ v.getLsbD m.val = true) = fun m => m ∈ l ∧ v.getLsbD m.val = true := by
        funext m
        by_cases hm : m = a <;> simp [hm, hv]
      rw [hset]
      exact ih h

/-- MFLUSH flushes the mortises of its mask. -/
theorem flushed_mflush (c : CoreId) (v : W32) (h : Hw) : Flushed c (fun m => v.getLsbD m.val = true) h (h.mflush c v) := by
  rw [Hw.mflush]
  simpa using flushed_foldl c v (List.finRange 16) h

/-! ### STALL_LIMIT (R258) -/

section
variable (k : Core) (t : Fin 4)

/-- The end of a stalled send leaves STALL_LIMIT. -/
theorem Core.stallLimit_unstall (n : Fin 16) : (k.unstall n).stallLimit = k.stallLimit := by
  unfold Core.unstall
  split <;> rfl

theorem Core.stallLimit_sendEnds (o : Option (Fin 16)) : (k.sendEnds o).stallLimit = k.stallLimit := by
  cases o with
  | some n => exact k.stallLimit_unstall n
  | none => rfl

theorem Core.stallLimit_clearStall : (k.clearStall t).stallLimit = k.stallLimit := by
  unfold Core.clearStall
  dsimp only
  split
  · exact Core.stallLimit_unstall ..
  · rfl

theorem Core.stallLimit_stopTileMove : (k.stopTileMove t).stallLimit = k.stallLimit := by
  unfold Core.stopTileMove
  split
  · split <;> rfl
  · rfl

theorem Core.stallLimit_stopStream : (k.stopStream t).stallLimit = k.stallLimit := by
  unfold Core.stopStream
  split
  · next j _ =>
    split
    · dsimp only
      cases j.tenon with
      | some n => exact Core.stallLimit_unstall ..
      | none => rfl
    · rfl
  · rfl

/-- A thread's work that stops leaves STALL_LIMIT. -/
theorem Core.stallLimit_stopWork : (k.stopWork t).stallLimit = k.stallLimit := by
  rw [Core.stopWork, Core.stallLimit_stopStream, Core.stallLimit_stopTileMove, Core.stallLimit_clearStall]

theorem Core.stallLimit_stopStalled : (k.stopStalled t).stallLimit = k.stallLimit := by
  unfold Core.stopStalled
  dsimp only
  split
  · exact Core.stallLimit_stopWork ..
  · rfl

theorem Core.stallLimit_noted (n : Nat) : (k.noted n).stallLimit = k.stallLimit := by
  unfold Core.noted
  dsimp only
  split <;> rfl

end

/-- The end of an instruction leaves STALL_LIMIT. -/
theorem Hw.stallLimit_settle (h : Hw) (w : Who) (f : Form) (m : Mem) (c : Ctl) :
    ((h.settle w f m c).core w.core).stallLimit = (h.core w.core).stallLimit := by
  simp only [Hw.settle, Hw.noted, Hw.core_updCore_self, Hw.core_traceCtl, Core.stallLimit_noted, Core.stallLimit_stopStalled,
    Core.stallLimit_sendEnds, Core.updThread_stallLimit]

end Sys2Proof.Machine

namespace Sys2Proof.Claims

open Sys2Proof.Machine

/-! ### An OUT that changes its core

As for `Wrote`, where the instruction changes more of its core than its thread. -/

/-- A change of a core that leaves what the end of an instruction reads. -/
structure KeepsFetch (g : Core → Core) : Prop where
  threads : ∀ k, (g k).threads = k.threads := by intro _; rfl
  isegx : ∀ k, (g k).isegx = k.isegx := by intro _; rfl
  frozenAt : ∀ k, (g k).frozenAt = k.frozenAt := by intro _; rfl
  cyc0 : ∀ k, (g k).cyc0 = k.cyc0 := by intro _; rfl

/-- Active routes are not read by the end of an instruction. -/
theorem keepsFetch_committed : KeepsFetch committed := {}

/-- Credits and epochs are not read by it. -/
theorem keepsFetch_forced (v : W32) (cyc : Nat) : KeepsFetch (forced v cyc) := {}

/-- Whether a commit is pending is not read by it. -/
theorem keepsFetch_pending : KeepsFetch (fun k => { k with ncommitPending := true }) := {}

/-- STALL_LIMIT is not read by it. -/
theorem keepsFetch_stallLimit (v : W32) : KeepsFetch (fun k => { k with stallLimit := v }) := {}

/-- Where nothing changes, what it reads stays. -/
theorem keepsFetch_id : KeepsFetch id := {}

/-- Two changes that leave what it reads, one after the other. -/
theorem KeepsFetch.comp {f g : Core → Core} (hg : KeepsFetch g) (hf : KeepsFetch f) : KeepsFetch (fun k => g (f k)) where
  threads k := (hg.threads _).trans (hf.threads k)
  isegx k := (hg.isegx _).trans (hf.isegx k)
  frozenAt k := (hg.frozenAt _).trans (hf.frozenAt k)
  cyc0 k := (hg.cyc0 _).trans (hf.cyc0 k)

/-- Of the cores and the clock of `h`, `x` has changed the core of thread `w` by `g`, and nothing else. -/
structure Rewrote (w : Who) (g : Core → Core) (h x : Hw) : Prop where
  core : x.core w.core = g (h.core w.core)
  cores : ∀ c : CoreId, c ≠ w.core → x.core c = h.core c
  clock : x.clock = h.clock

section
variable {w : Who} {g : Core → Core} {h x : Hw}

/-- Nothing has changed. -/
theorem rewrote_id (w : Who) (h : Hw) : Rewrote w id h h := ⟨rfl, fun _ _ => rfl, rfl⟩

/-- A change of the core. -/
theorem rewrote_updCore (w : Who) (h : Hw) (g : Core → Core) : Rewrote w g h (h.updCore w.core g) where
  core := Hw.core_updCore_self ..
  cores _ hc := Hw.core_updCore_ne _ (fun hv => hc (Fin.ext hv)) _
  clock := rfl

/-- A change of the core in two steps. -/
theorem Rewrote.updCore (hx : Rewrote w g h x) (f : Core → Core) : Rewrote w (fun k => f (g k)) h (x.updCore w.core f) where
  core := by rw [Hw.core_updCore_self, hx.core]
  cores c hc := ((rewrote_updCore w x f).cores c hc).trans (hx.cores c hc)
  clock := hx.clock

/-- The change may be given by any function that agrees on the core as it was. -/
theorem Rewrote.congr (hx : Rewrote w g h x) {f : Core → Core} (hf : g (h.core w.core) = f (h.core w.core)) : Rewrote w f h x :=
  ⟨hx.core.trans hf, hx.cores, hx.clock⟩

/-- The thread is as it was. -/
theorem Rewrote.thread (hx : Rewrote w g h x) (hg : KeepsFetch g) : x.thread w = h.thread w := by
  rw [Hw.thread, hx.core, Core.thread, hg.threads]
  rfl

/-- CYCLE is as it was. -/
theorem Rewrote.cycle (hx : Rewrote w g h x) (hg : KeepsFetch g) : x.cycle w.core = h.cycle w.core := by
  simp only [Hw.cycle, hx.core, hg.frozenAt, hg.cyc0, hx.clock]

/-- A second word pairs with the instruction or not, as it would have before the change. -/
theorem Rewrote.isFirst (hx : Rewrote w g h x) (hg : KeepsFetch g) (f : Form) (m : Mem) : x.isFirst w f m = h.isFirst w f m := by
  simp only [Hw.isFirst, Hw.secondWord, fetchFault, hx.thread hg, hx.cycle hg, hx.core, hg.isegx]

end

section
variable {w : Who} {g : Core → Core} {s : State} {x : Hw}

/-- The thread as the instruction leaves it after one slot. -/
theorem Issues.rewrote_settled (hi : Issues w none s) (hg : KeepsFetch g) (hx : Rewrote w g (slot w s) x) (f : Form) :
    x.settled w f s.mem (.done 1) = ended w f none 1 s ((slot w s).thread w) := by
  simp [Hw.settled, ended, Thread.settle, Thread.words, issueCycle, hx.isFirst hg, hx.thread hg, hx.cycle hg, hi.pfx]

/-- An instruction that has changed its core completes in one slot, and nothing else changes. -/
theorem Issues.rewrote_settle (hi : Issues w none s) (hg : KeepsFetch g) (hx : Rewrote w g (slot w s) x) (f : Form) :
    Changed w g s f { s with hw := x.settle w f s.mem (.done 1) } := by
  have hunsent : (x.thread w).stall ≠ some .credit := by
    rw [hx.thread hg]
    exact hi.unsent
  have hend : (x.traceCtl w (.done 1)).settled w f s.mem (.done 1) = ended w f none 1 s ((slot w s).thread w) :=
    hi.rewrote_settled hg hx f
  obtain ⟨n, hcore⟩ := Hw.core_settle_unstalled (f := f) (m := s.mem) (c := .done 1) hunsent
    ((congrArg Thread.stall hend).trans (stall_ended f _))
  rw [hend, hx.core] at hcore
  have hwaits : ∀ m, ((g ((slot w s).core w.core)).updThread w.thread
      (fun _ => ended w f none 1 s ((slot w s).thread w))).threadWaits w.thread m = false := by
    apply Core.not_threadWaits
    · rw [Core.thread_updThread_self]
      exact tstate_ended hi.tstate f
    · rw [Core.thread_updThread_self]
      exact stall_ended f _
  have hself : ended w f none 1 s ((slot w s).thread w) =
      ended w f none 1 s ((g ((slot w s).core w.core)).thread w.thread) := by
    rw [← hx.thread hg, Hw.thread, hx.core]
  refine { core := ?_, cores := fun c hc => ?_, clock := ?_, mem := rfl, pending := rfl }
  · exact hcore.trans ((Core.noted_astir hwaits n).trans (congrArg Core.astir (Core.updThread_const hself)))
  · exact (Hw.core_settle_ne _ w (fun hv => hc (Fin.ext hv)) f s.mem _).trans (hx.cores c hc)
  · exact (Hw.clock_settle _ w f s.mem _).trans hx.clock

end

/-! ### OUT in supervisor mode -/

section
variable {w : Who} {sr : Fin 32} {p : BitVec 16} {s : State} {i : Instr}

/-- In supervisor mode, with no purlin transaction due, an OUT is the write of its port. -/
theorem outPort_supervisor (hm : ((slot w s).thread w).mode = true) (ha : Alone w s) (p : Nat) (v : W32) :
    outPort w p v (slot w s) = portWrite (.thread w.thread) w.core p v (slot w s) :=
  outPort_alone (portDenied_false (.inr hm)) ha v

/-- An OUT in supervisor mode whose port write changes its core. -/
theorem Issues.outs_rewrote (hi : Issues w none s) (hm : ((slot w s).thread w).mode = true) (ha : Alone w s)
    (he : exec i s = doOut w p.toNat sr s) {x : Hw}
    (hport : portWrite (.thread w.thread) w.core p.toNat (outValue w sr s) (slot w s) = (.done 1, x))
    {g : Core → Core} (hg : KeepsFetch g) (hx : Rewrote w g (slot w s) x) : Outs i w p sr s (Changed w g s) := by
  refine ⟨_, he, ?_⟩
  rw [hi.runInstr (.inl rfl), ← outValue, outPort_supervisor hm ha, hport]
  exact hi.rewrote_settle hg hx _

end

end Sys2Proof.Claims

namespace Sys2Proof.Machine

/-! ### The thread of a completed instruction -/

/-- PC stands behind the words of a completed instruction. -/
theorem Thread.pc_finish (th : Thread) (words next : Nat) : (th.finish words next).pc = th.pc + BitVec.ofNat 20 (4 * words) := by
  unfold Thread.finish Thread.boundary
  split <;> rfl

/-- An instruction of one word has completed: PC stands behind it, and the thread is in no stall. -/
theorem Hw.settled_done {h : Hw} {w : Who} (hp : (h.thread w).pfx = none) (f : Form) (m : Mem) :
    (h.settled w f m (.done 1)).pc = (h.thread w).pc + 4 ∧ (h.settled w f m (.done 1)).stall = none := by
  unfold Hw.settled
  dsimp only
  split
  · exact ⟨rfl, rfl⟩
  · refine ⟨?_, Thread.stall_finish ..⟩
    rw [Thread.settle, Thread.pc_finish, Thread.words, hp]
    rfl

end Sys2Proof.Machine

namespace Sys2Proof.Claims

open Sys2Proof.Machine

/-! ### The writes of the channel ports (R242, R258, R260) -/

section
variable {w : Who} {h : Hw}

/-- An OUT to STALL_LIMIT, after the purlin writes of the cycle. -/
theorem outPort_stallLimit (hp : portDenied (h.thread w) 0x910 = false) (v : W32) :
    outPort w 0x910 v h = (.done 1, (h.purlinFirst w.core 0x910).updCore w.core (fun k => { k with stallLimit := v })) := by
  rw [outPort, hp]
  rfl

/-- The write of STALL_LIMIT. -/
theorem portWrite_stallLimit (ag : Agent) (c : CoreId) (v : W32) (h : Hw) :
    portWrite ag c (0x0910 : BitVec 16).toNat v h = (.done 1, h.updCore c (fun k => { k with stallLimit := v })) := rfl

/-- The write of NCOMMIT with bit 0 set. -/
theorem portWrite_ncommit (ag : Agent) (c : CoreId) {v : W32} (hv : v.getLsbD 0 = true) (h : Hw) :
    portWrite ag c (0x0120 : BitVec 16).toNat v h =
      (.done 1, (h.updCore c (fun k => { k with ncommitPending := true })).routesMayApply c) := congrArg (Prod.mk _) (if_pos hv)

/-- The write of NCOMMIT with bit 0 clear. -/
theorem portWrite_ncommit_clear (ag : Agent) (c : CoreId) {v : W32} (hv : v.getLsbD 0 = false) (h : Hw) :
    portWrite ag c (0x0120 : BitVec 16).toNat v h = (.done 1, h) := congrArg (Prod.mk _) (if_neg (Bool.eq_false_iff.mp hv))

/-- The write of NFORCE. -/
theorem portWrite_nforce (ag : Agent) (c : CoreId) (v : W32) (h : Hw) :
    portWrite ag c (0x0121 : BitVec 16).toNat v h = (.done 1, (h.updCore c (·.nforce v (h.cycle c))).routesMayApply c) := rfl

/-- The write of MFLUSH. -/
theorem portWrite_mflush (ag : Agent) (c : CoreId) (v : W32) (h : Hw) :
    portWrite ag c (0x0211 : BitVec 16).toNat v h = (.done 1, h.mflush c v) := rfl

/-- A commit that is set pending is applied when it may be. -/
theorem applyRoutes_pending {k : Core} (hf : k.frozenAt = none) (hm : MayCommit k) :
    ({ k with ncommitPending := true } : Core).applyRoutes = committed k := Core.applyRoutes_may rfl hf hm

/-- Otherwise it stays pending. -/
theorem applyRoutes_pending_not {k : Core} (hm : ¬MayCommit k) :
    ({ k with ncommitPending := true } : Core).applyRoutes = { k with ncommitPending := true } :=
  Core.applyRoutes_not (.inr (.inr hm))

/-- A pending commit is applied when the forced tenons allow it. -/
theorem applyRoutes_forced {k : Core} (hp : k.ncommitPending = true) (hf : k.frozenAt = none) {v : W32} {cyc : Nat}
    (hm : MayCommit (forced v cyc k)) : (forced v cyc k).applyRoutes = committed (forced v cyc k) := Core.applyRoutes_may hp hf hm

/-- Otherwise NFORCE changes no route. -/
theorem applyRoutes_forced_not {k : Core} {v : W32} {cyc : Nat} (hn : k.ncommitPending = false ∨ ¬MayCommit (forced v cyc k)) :
    (forced v cyc k).applyRoutes = forced v cyc k := Core.applyRoutes_not (hn.imp_right .inr)

/-- A change of the core in which the stream unit stays idle, and the commit that it allows. -/
theorem rewrote_routesMayApply {g : Core → Core} (hs : (g (h.core w.core)).stream = none) :
    Rewrote w (fun k => (g k).applyRoutes) h ((h.updCore w.core g).routesMayApply w.core) := by
  have hidle : ((h.updCore w.core g).core w.core).stream = none := by rw [Hw.core_updCore_self, hs]
  rw [Hw.routesMayApply_idle hidle]
  exact (rewrote_updCore w h g).updCore _

/-- NCOMMIT's change of the core. -/
theorem rewrote_ncommit (hs : (h.core w.core).stream = none) :
    Rewrote w (fun k => ({ k with ncommitPending := true } : Core).applyRoutes) h
      ((h.updCore w.core (fun k => { k with ncommitPending := true })).routesMayApply w.core) :=
  rewrote_routesMayApply hs

/-- NFORCE's change of the core. -/
theorem rewrote_nforce (hs : (h.core w.core).stream = none) (v : W32) (cyc : Nat) :
    Rewrote w (fun k => (forced v cyc k).applyRoutes) h ((h.updCore w.core (·.nforce v cyc)).routesMayApply w.core) := by
  have hforce : (h.core w.core).nforce v cyc = forced v cyc (h.core w.core) := Core.nforce_idle hs v cyc
  have hidle : ((h.core w.core).nforce v cyc).stream = none := by
    rw [hforce]
    exact hs
  exact (rewrote_routesMayApply (g := (·.nforce v cyc)) hidle).congr (congrArg Core.applyRoutes hforce)

end

/-! ### The commands (R242, R252, R258, R260) -/

section
variable {w : Who} {sr : Fin 32} {s : State}

/-- A core in which a thread issues is not frozen. -/
theorem Ready.frozenAt {p : Option (BitVec 26)} (hi : Ready w p s) : ((slot w s).core w.core).frozenAt = none := by
  have hc := Hw.canIssue_of_nextSlot hi.nextSlot
  simp only [Hw.canIssue, Core.runs, Bool.and_eq_true, Option.isNone_iff_eq_none] at hc
  obtain ⟨⟨⟨⟨⟨⟨-, hf⟩, -⟩, -⟩, -⟩, -⟩, -⟩ := hc
  exact hf

/-- STALL_LIMIT is written last, whatever purlin writes of the cycle come before. -/
theorem stallLimitWrite_writes (hi : Issues w none s) (hm : ((slot w s).thread w).mode = true) :
    Yields (.stallLimitWrite w sr) s (fun t => (t.hw.core w.core).stallLimit = outValue w sr s) := by
  refine ⟨_, rfl, ?_⟩
  rw [hi.runInstr (.inl rfl), ← outValue, outPort_stallLimit (portDenied_false (.inr hm))]
  refine (Hw.stallLimit_settle ..).trans ?_
  rw [Hw.core_updCore_self]

/-- NCOMMIT with bit 0 of its value sets the commit pending, and applies it when it may. -/
theorem ncommit_outs (hi : Issues w none s) (hm : ((slot w s).thread w).mode = true) (ha : Alone w s)
    (hs : ((slot w s).core w.core).stream = none) (hv : (outValue w sr s).getLsbD 0 = true) {g : Core → Core} (hg : KeepsFetch g)
    (hk : ({ (slot w s).core w.core with ncommitPending := true } : Core).applyRoutes = g ((slot w s).core w.core)) :
    Outs (.ncommit w sr) w 0x0120 sr s (Changed w g s) :=
  hi.outs_rewrote hm ha rfl (portWrite_ncommit _ _ hv _) hg ((rewrote_ncommit hs).congr hk)

/-- NFORCE forces the tenons of its mask, and applies a pending commit that may then be applied. -/
theorem nforce_outs (hi : Issues w none s) (hm : ((slot w s).thread w).mode = true) (ha : Alone w s)
    (hs : ((slot w s).core w.core).stream = none) {g : Core → Core} (hg : KeepsFetch g)
    (hk : (forced (outValue w sr s) (issueCycle w s) ((slot w s).core w.core)).applyRoutes = g ((slot w s).core w.core)) :
    Outs (.nforce w sr) w 0x0121 sr s (Changed w g s) :=
  hi.outs_rewrote hm ha rfl (portWrite_nforce ..) hg ((rewrote_nforce hs _ _).congr hk)

/-- The end of an instruction that has completed leaves what travels. -/
theorem keepsCredits_settle (x : Hw) (w : Who) (f : Form) (m : Mem) : KeepsCredits x (x.settle w f m (.done 1)) :=
  ⟨List.Subset.refl _, List.Subset.refl _, Hw.clock_settle ..⟩

/-- MFLUSH empties the mortises of its mask, and their entries' credits return. -/
theorem mflush_acts (hi : Issues w none s) (hm : ((slot w s).thread w).mode = true) (ha : Alone w s) :
    Acts (.mflush w sr) s (fun h => (h.thread w).pc = ((slot w s).thread w).pc + 4 ∧
      ∀ m : Fin 16, (h.core w.core).mortises[m] =
          (if (outValue w sr s).getLsbD m.val then [] else ((slot w s).core w.core).mortises[m]) ∧
        ((outValue w sr s).getLsbD m.val = true → ∀ e ∈ ((slot w s).core w.core).mortises[m], Returning w.core m e.credit h)) := by
  refine ⟨_, rfl, ?_⟩
  have hport : outPort w 0x211 (outValue w sr s) (slot w s) = (.done 1, (slot w s).mflush w.core (outValue w sr s)) :=
    (outPort_supervisor hm ha _ _).trans (portWrite_mflush ..)
  rw [hi.runInstr (.inl rfl), ← outValue, hport]
  have hx := flushed_mflush w.core (outValue w sr s) (slot w s)
  generalize (slot w s).mflush w.core (outValue w sr s) = x at hx
  have hthread : x.thread w = (slot w s).thread w := congrArg (fun ts : Vector Thread 4 => ts[w.thread]) hx.threads
  obtain ⟨hpc, hstall⟩ := Hw.settled_done (h := x) (w := w) (by rw [hthread, hi.pfx]) (outForm w sr (some 0x211) []) s.mem
  obtain ⟨n, hcore⟩ := Hw.core_settle_unstalled (h := x) (by rw [hthread]; exact hi.unsent) (c := .done 1) hstall
  refine ⟨?_, fun m => ⟨?_, fun hv e he => ?_⟩⟩
  · rw [Hw.thread, hcore, Core.thread_noted, Core.thread_updThread_self, ← hthread]
    exact hpc
  · rw [hcore, Core.mortises_noted, Core.updThread_mortises]
    split
    case isTrue hv => exact hx.emptied m hv
    case isFalse hv => exact hx.kept m hv
  · exact (hx.returning m hv e he).keeps (keepsCredits_settle ..)

end

/-- Settles O31: each of the ports' writes is a change of the core, and the routes' application decides whether they become active. -/
theorem routeCommitFlushAndForce : Obligations.RouteCommitFlushAndForce := by
  refine ⟨?_, fun c s hs => ⟨fun hp hf hmay => ?_, fun hn => ?_⟩⟩
  · intro w sr s hi hm v k
    refine ⟨stallLimitWrite_writes hi hm, fun ha => ?_, fun ha hv => ?_, fun ha hs => ⟨fun hv hmay => ?_, fun hv hmay => ?_, ?_⟩,
      mflush_acts hi hm⟩
    · exact hi.outs_rewrote hm ha rfl (portWrite_stallLimit ..) (keepsFetch_stallLimit _) (rewrote_updCore w _ _)
    · exact hi.outs_rewrote hm ha rfl (portWrite_ncommit_clear _ _ hv _) keepsFetch_id (rewrote_id w _)
    · exact ncommit_outs hi hm ha hs hv keepsFetch_committed (applyRoutes_pending hi.frozenAt hmay)
    · exact ncommit_outs hi hm ha hs hv keepsFetch_pending (applyRoutes_pending_not hmay)
    · refine ⟨fun hp hmay => ?_, fun hn => ?_⟩
      · exact nforce_outs hi hm ha hs (keepsFetch_committed.comp (keepsFetch_forced _ _)) (applyRoutes_forced hp hi.frozenAt hmay)
      · exact nforce_outs hi hm ha hs (keepsFetch_forced _ _) (applyRoutes_forced_not hn)
  · exact ⟨_, rfl, (Hw.core_routesMayApply_idle hs).trans (Core.applyRoutes_may hp hf hmay)⟩
  · exact ⟨_, rfl, (Hw.core_routesMayApply_idle hs).trans (Core.applyRoutes_not hn)⟩

end Sys2Proof.Claims

namespace Sys2Proof.Machine

/-! ### Rounding a number that its format holds (R36, R80, R164) -/

/-- The exponent field of an encoding. -/
def Fmt.expField (f : Fmt) (x : Nat) : Nat := field x f.mb f.eb
/-- The mantissa field of an encoding. -/
def Fmt.mantField (f : Fmt) (x : Nat) : Nat := field x 0 f.mb
/-- The significand of a finite encoding. -/
def Fmt.signif (f : Fmt) (x : Nat) : Nat := if f.expField x = 0 then f.mantField x else 2 ^ f.mb + f.mantField x
/-- The power of two of its last place. -/
def Fmt.scale (f : Fmt) (x : Nat) : Int := (max (f.expField x) 1 : Nat) - (f.bias : Int) - f.mb
/-- The bits below the sign. -/
def Fmt.mag (f : Fmt) (x : Nat) : Nat := f.expField x * 2 ^ f.mb + f.mantField x

section
variable {f : Fmt} {x : Nat}

/-- The mantissa field has the format's mantissa bits. -/
theorem Fmt.mantField_lt (f : Fmt) (x : Nat) : f.mantField x < 2 ^ f.mb := Nat.mod_lt _ (Nat.two_pow_pos _)

/-- The exponent field has the format's exponent bits. -/
theorem Fmt.expField_lt (f : Fmt) (x : Nat) : f.expField x < 2 ^ f.eb := Nat.mod_lt _ (Nat.two_pow_pos _)

/-- The fields of an encoding make up its bits below the sign. -/
theorem Fmt.mag_eq_mod (f : Fmt) (x : Nat) : f.mag x = x % 2 ^ (f.eb + f.mb) := by
  rw [Fmt.mag, Fmt.expField, Fmt.mantField, field, field, pow_zero, Nat.div_one, Nat.add_comm f.eb, pow_add, Nat.mod_mul]
  ring

/-- The sign and the bits below it make up an encoding. -/
theorem Fmt.signed_mag (hx : x < 2 ^ f.bits) : f.signed (bitAt x (f.eb + f.mb)) (f.mag x) = x := by
  have hbit : b2n (bitAt x (f.eb + f.mb)) = x / 2 ^ (f.eb + f.mb) := by
    have hlt : x / 2 ^ (f.eb + f.mb) < 2 := by
      rw [Nat.div_lt_iff_lt_mul (Nat.two_pow_pos _), ← pow_succ']
      rwa [Fmt.bits, Nat.add_assoc, Nat.add_comm] at hx
    rw [b2n, bitAt, Nat.testBit_eq_decide_div_mod_eq, Nat.mod_eq_of_lt hlt]
    generalize x / 2 ^ (f.eb + f.mb) = q at hlt
    interval_cases q <;> rfl
  rw [Fmt.signed, hbit, Fmt.mag_eq_mod, Nat.mul_comm]
  exact Nat.mod_add_div _ _

/-- A significand in its place rounds to itself: the last place of a number of a format is that to which it rounds. -/
theorem Fmt.roundMag_held (f : Fmt) (x : Nat) : f.roundMag (f.signif x) (f.scale x) = f.mag x := by
  have hmant := f.mantField_lt x
  by_cases hex : f.expField x = 0
  · have hm : f.signif x = f.mantField x := if_pos hex
    have hmag : f.mag x = f.mantField x := by rw [Fmt.mag, hex, Nat.zero_mul, Nat.zero_add]
    rw [hm, hmag, Fmt.roundMag]
    split
    case isTrue hz => exact hz.symm
    case isFalse hz =>
      have hlog : Nat.log2 (f.mantField x) < f.mb := (Nat.log2_lt hz).mpr hmant
      have hscale : f.scale x = 1 - (f.bias : Int) - f.mb := by rw [Fmt.scale, hex]; rfl
      have hplace : max (ilog2 (f.mantField x) (f.scale x)) (1 - (f.bias : Int)) - f.mb = f.scale x := by
        rw [ilog2, hscale]
        omega
      simp only [hplace, sub_self, rneScale, le_refl, if_true, Int.toNat_zero, pow_zero, Nat.mul_one, hmant]
  · have hm : f.signif x = 2 ^ f.mb + f.mantField x := if_neg hex
    have hlog : Nat.log2 (2 ^ f.mb + f.mantField x) = f.mb := by
      rw [Nat.log2_eq_iff (by positivity), pow_succ]
      omega
    have hscale : f.scale x = (f.expField x : Int) - f.bias - f.mb := by
      rw [Fmt.scale, Nat.max_eq_left (Nat.one_le_iff_ne_zero.mpr hex)]
    have hplace : max (ilog2 (2 ^ f.mb + f.mantField x) (f.scale x)) (1 - (f.bias : Int)) - f.mb = f.scale x := by
      rw [ilog2, hlog, hscale]
      omega
    have hfield : (f.scale x + f.mb + f.bias).toNat = f.expField x := by
      rw [hscale]
      omega
    obtain ⟨e, he⟩ := Nat.exists_eq_succ_of_ne_zero hex
    have hpos : 2 ^ f.mb + f.mantField x ≠ 0 := by positivity
    have hbig : ¬2 ^ f.mb + f.mantField x < 2 ^ f.mb := by omega
    simp only [hm, Fmt.roundMag, hpos, if_false, hplace, sub_self, rneScale, le_refl, if_true, Int.toNat_zero, pow_zero,
      Nat.mul_one, hbig, hfield, Fmt.mag, he, Nat.succ_eq_add_one, Nat.add_sub_cancel]
    ring

/-- A finite number whose bits are at most the largest finite ones is encoded by its own bits. -/
theorem Fmt.encode_held (hx : x < 2 ^ f.bits) (hmax : f.mag x ≤ f.maxFinite) :
    f.encode (.fin (bitAt x (f.eb + f.mb)) (f.signif x) (f.scale x)) = x := by
  have hfits : f.overflows (f.signif x) (f.scale x) = false := by
    rw [Fmt.overflows, Fmt.roundMag_held, decide_eq_false_iff_not]
    omega
  rw [Fmt.encode, hfits, if_neg Bool.false_ne_true, Fmt.roundMag_held, Fmt.signed_mag hx]

/-- What an encoding holds, by its fields: a finite number, an infinity or NaN. -/
theorem Fmt.decode_eq (f : Fmt) (x : Nat) : f.decode x =
    if f.expField x = 2 ^ f.eb - 1 ∧ f.sp = .ieee then
      if f.mantField x = 0 then .inf (bitAt x (f.eb + f.mb)) else .nan
    else if f.expField x = 2 ^ f.eb - 1 ∧ f.sp = .e4m3 ∧ f.mantField x = 2 ^ f.mb - 1 then .nan
    else .fin (bitAt x (f.eb + f.mb)) (f.signif x) (f.scale x) := by
  rw [Fmt.decode]
  change (if f.expField x = 2 ^ f.eb - 1 then _ else _) = _
  by_cases hex : f.expField x = 2 ^ f.eb - 1
  · rw [if_pos hex]
    cases hsp : f.sp <;> simp only [hex, true_and, reduceCtorEq, false_and, if_true, if_false] <;> rfl
  · simp only [hex, if_false, false_and]
    rfl

/-- The bits of a number of a format, other than its infinities, are at most the largest finite ones. -/
theorem Fmt.mag_le_maxFinite (h : ¬(f.expField x = 2 ^ f.eb - 1 ∧ f.sp = .ieee))
    (h' : ¬(f.expField x = 2 ^ f.eb - 1 ∧ f.sp = .e4m3 ∧ f.mantField x = 2 ^ f.mb - 1)) : f.mag x ≤ f.maxFinite := by
  have hmant := f.mantField_lt x
  have hexp := f.expField_lt x
  have hrow : f.expField x + 1 < 2 ^ f.eb → f.mag x + 1 ≤ (2 ^ f.eb - 1) * 2 ^ f.mb := fun hlt => by
    have hle := Nat.mul_le_mul_right (2 ^ f.mb) (show f.expField x + 1 ≤ 2 ^ f.eb - 1 by omega)
    rw [Nat.add_mul, Nat.one_mul] at hle
    rw [Fmt.mag]
    omega
  have hsum : (2 ^ f.eb - 1) * 2 ^ f.mb + 2 ^ f.mb = 2 ^ (f.eb + f.mb) := by
    rw [← Nat.succ_mul, Nat.succ_eq_add_one, Nat.sub_add_cancel Nat.one_le_two_pow, pow_add]
  have hall : f.mag x < 2 ^ (f.eb + f.mb) := f.mag_eq_mod x ▸ Nat.mod_lt _ (Nat.two_pow_pos _)
  rw [Fmt.maxFinite]
  cases hsp : f.sp with
  | ieee =>
    have hlast : f.expField x ≠ 2 ^ f.eb - 1 := fun hex => h ⟨hex, hsp⟩
    have := hrow (by omega)
    simp only
    omega
  | e4m3 =>
    by_cases hex : f.expField x = 2 ^ f.eb - 1
    · have hnan : f.mantField x ≠ 2 ^ f.mb - 1 := fun hm => h' ⟨hex, hsp, hm⟩
      have hmag : f.mag x = (2 ^ f.eb - 1) * 2 ^ f.mb + f.mantField x := by rw [Fmt.mag, hex]
      simp only
      omega
    · have hle := hrow (by omega)
      have hpos := Nat.two_pow_pos f.mb
      simp only
      omega
  | none_ =>
    simp only
    omega

/-- Rounding gives back the bits of every number that a format holds (R36, R80, R164). -/
theorem Fmt.encode_decode (hx : x < 2 ^ f.bits) (hnum : f.decode x ≠ .nan) : f.encode (f.decode x) = x := by
  rw [Fmt.decode_eq] at hnum ⊢
  split at hnum
  case isTrue hspecial =>
    obtain ⟨hex, hsp⟩ := hspecial
    split at hnum
    case isTrue hm =>
      have hmag : f.mag x = (2 ^ f.eb - 1) * 2 ^ f.mb := by rw [Fmt.mag, hex, hm, Nat.add_zero]
      rw [if_pos ⟨hex, hsp⟩, if_pos hm, Fmt.encode, Fmt.infBits, hsp]
      exact hmag ▸ Fmt.signed_mag hx
    case isFalse => exact absurd rfl hnum
  case isFalse hfin =>
    rw [if_neg hfin]
    split at hnum
    case isTrue => exact absurd rfl hnum
    case isFalse hfin' =>
      rw [if_neg hfin']
      exact Fmt.encode_held hx (Fmt.mag_le_maxFinite hfin hfin')

end

end Sys2Proof.Machine

namespace Sys2Proof.Claims

open Sys2Proof.Machine

/-- Settles O23: in every format a number is encoded by its own bits. -/
theorem roundingKeepsRepresentedNumbers : Obligations.RoundingKeepsRepresentedNumbers :=
  fun _ _ _ hx hnum => Fmt.encode_decode hx hnum

end Sys2Proof.Claims

namespace Sys2Proof.Claims

open Sys2Proof.Machine

/-! ### An instruction that changes its core, other threads among it

As for `Rewrote` and `KeepsFetch`, where what the change leaves is known of the core as it stands, and not of every core. -/

/-- Core `l` holds what the end of an instruction of thread `t` reads as core `k` holds it. -/
structure SameFetch (t : Fin 4) (k l : Core) : Prop where
  thread : l.thread t = k.thread t
  isegx : l.isegx = k.isegx
  frozenAt : l.frozenAt = k.frozenAt
  cyc0 : l.cyc0 = k.cyc0

section
variable {w : Who} {g : Core → Core} {s : State} {x : Hw}

/-- The thread as the instruction leaves it after one slot. -/
theorem Issues.sameFetch_settled (hi : Issues w none s) (hg : SameFetch w.thread ((slot w s).core w.core) (x.core w.core))
    (hclock : x.clock = (slot w s).clock) (f : Form) : x.settled w f s.mem (.done 1) = ended w f none 1 s ((slot w s).thread w) := by
  have hthread : x.thread w = (slot w s).thread w := hg.thread
  have hcycle : x.cycle w.core = (slot w s).cycle w.core := by simp only [Hw.cycle, hg.frozenAt, hg.cyc0, hclock]
  have hfirst : x.isFirst w f s.mem = (slot w s).isFirst w f s.mem := by
    simp only [Hw.isFirst, Hw.secondWord, fetchFault, hthread, hcycle, hg.isegx]
  simp [Hw.settled, ended, Thread.settle, Thread.words, issueCycle, hfirst, hthread, hcycle, hi.pfx]

/-- An instruction that has changed its core completes in one slot, and nothing else changes. -/
theorem Issues.sameFetch_settle (hi : Issues w none s) (hx : Rewrote w g (slot w s) x)
    (hg : SameFetch w.thread ((slot w s).core w.core) (g ((slot w s).core w.core))) (f : Form) :
    Changed w g s f { s with hw := x.settle w f s.mem (.done 1) } := by
  rw [← hx.core] at hg
  have hunsent : (x.thread w).stall ≠ some .credit := by
    rw [Hw.thread, hg.thread]
    exact hi.unsent
  have hend : (x.traceCtl w (.done 1)).settled w f s.mem (.done 1) = ended w f none 1 s ((slot w s).thread w) :=
    hi.sameFetch_settled hg hx.clock f
  obtain ⟨n, hcore⟩ := Hw.core_settle_unstalled (f := f) (m := s.mem) (c := .done 1) hunsent
    ((congrArg Thread.stall hend).trans (stall_ended f _))
  have hself : (x.traceCtl w (.done 1)).settled w f s.mem (.done 1) = ended w f none 1 s ((x.core w.core).thread w.thread) := by
    rw [hend, hg.thread, ← Hw.thread]
  rw [Core.updThread_const hself, hx.core] at hcore
  rw [hx.core] at hg
  refine { core := hcore.trans (Core.noted_astir (t := w.thread) (Core.not_threadWaits ?_ ?_) n), cores := fun c hc => ?_, clock := ?_,
           mem := rfl, pending := rfl }
  · rw [Core.thread_updThread_self, hg.thread]
    exact tstate_ended hi.tstate f
  · rw [Core.thread_updThread_self]
    exact stall_ended f _
  · exact (Hw.core_settle_ne _ w (fun hv => hc (Fin.ext hv)) f s.mem _).trans (hx.cores c hc)
  · exact (Hw.clock_settle _ w f s.mem _).trans hx.clock

end

/-- What leaves it in every core does so in one. -/
theorem KeepsFetch.sameFetch {g : Core → Core} (hg : KeepsFetch g) (t : Fin 4) (k : Core) : SameFetch t k (g k) where
  thread := congrArg (fun ts : Vector Thread 4 => ts[t]) (hg.threads k)
  isegx := hg.isegx k
  frozenAt := hg.frozenAt k
  cyc0 := hg.cyc0 k

/-- A change of another thread leaves what the end of the instruction reads. -/
theorem sameFetch_updThread {t u : Fin 4} (hu : u ≠ t) (k : Core) (f : Thread → Thread) : SameFetch t k (k.updThread u f) where
  thread := Core.thread_updThread_ne _ hu.symm _
  isegx := rfl
  frozenAt := rfl
  cyc0 := rfl

/-- Two changes of a thread are one. -/
theorem updThread_updThread (k : Core) (t : Fin 4) (f g : Thread → Thread) :
    (k.updThread t f).updThread t g = k.updThread t (fun th => g (f th)) := by
  simp [Core.updThread, Core.setThread, Core.thread]

/-! ### IN and OUT of the latching and the debug ports (R61, R95, R215, R475, R476) -/

/-- A further change of the thread. -/
theorem Wrote.updThread {w : Who} {u : Thread → Thread} {h x : Hw} (hx : Wrote w u h x) (f : Thread → Thread) :
    Wrote w (fun th => f (u th)) h (x.updThread w f) where
  core := by
    rw [Hw.updThread, Hw.core_updCore_self, Core.astir_updThread, hx.core, ← Core.astir_updThread, updThread_updThread]
  cores c hc := (Hw.core_updCore_ne _ (fun hv => hc (Fin.ext hv)) _).trans (hx.cores c hc)
  clock := hx.clock

/-- The end of an instruction reads neither a data register nor what `u` changes. -/
theorem KeepsIssue.setD {u : Thread → Thread} (hu : KeepsIssue u) (d : Fin 32) (v : W64) : KeepsIssue (fun th => (u th).setD d v) where
  pc := hu.pc
  pfx := hu.pfx
  pair := hu.pair
  stall := hu.stall
  tstate := hu.tstate

section
variable {w : Who} {d sr : Fin 32} {p : BitVec 16} {s : State} {i : Instr}

/-- An IN from a port whose read latches no more than registers of its own thread. -/
theorem Issues.ins_latched (hi : Issues w none s) (hp : portDenied ((slot w s).thread w) p.toNat = false) (hblk : p.toNat ≠ 0x531)
    (he : exec i s = doIn w d p.toNat s) {r : W32} {x : Hw} (hport : portRead (.thread w.thread) w.core p.toNat (slot w s) = (r, x))
    {u : Thread → Thread} (hu : KeepsIssue u) (hx : Wrote w u (slot w s) x) {n : Nat} (hn : r.setWidth 64 = BitVec.ofNat 64 n) :
    Ins i w p d s (Changed w (fun k => k.updThread w.thread (fun th => (u th).setD d (BitVec.ofNat 64 n))) s) := by
  refine ⟨_, he, ?_⟩
  have hin : inPort w d p.toNat (slot w s) = (.done 1, x.updThread w (·.setD d (BitVec.ofNat 64 n))) := by
    simp [inPort, hp, hblk, hport, hn]
  rw [hi.runInstr (.inl rfl), hin]
  exact hi.changed_settle (hu.setD d _) (hx.updThread (·.setD d _)) _

/-- An OUT in supervisor mode whose port write changes its core, and of its threads others than that of the OUT. -/
theorem Issues.outs_sameFetch (hi : Issues w none s) (hm : ((slot w s).thread w).mode = true) (ha : Alone w s)
    (he : exec i s = doOut w p.toNat sr s) {x : Hw}
    (hport : portWrite (.thread w.thread) w.core p.toNat (outValue w sr s) (slot w s) = (.done 1, x)) {g : Core → Core}
    (hx : Rewrote w g (slot w s) x) (hg : SameFetch w.thread ((slot w s).core w.core) (g ((slot w s).core w.core))) :
    Outs i w p sr s (Changed w g s) := by
  refine ⟨_, he, ?_⟩
  rw [hi.runInstr (.inl rfl), ← outValue, outPort_supervisor hm ha, hport]
  exact hi.sameFetch_settle hx hg _

end

section
variable {w : Who} {d sr : Fin 32} {s : State} {h : Hw}

/-- The low 32 bits of a number, read into a data register. -/
theorem setWidth_low (x : Nat) : (BitVec.ofNat 32 x).setWidth 64 = BitVec.ofNat 64 (x % 2 ^ 32) := by
  apply BitVec.eq_of_toNat_eq
  simp

/-- The low 32 bits of a register, read into a data register. -/
theorem setWidth_setWidth_low {n : Nat} (x : BitVec n) : (x.setWidth 32).setWidth 64 = BitVec.ofNat 64 (x.toNat % 2 ^ 32) := by
  apply BitVec.eq_of_toNat_eq
  simp

/-- The high 32 bits of a register. -/
theorem setWidth_high {n : Nat} (x : BitVec n) : (x >>> 32).setWidth 32 = BitVec.ofNat 32 (x.toNat / 2 ^ 32) := by
  apply BitVec.eq_of_toNat_eq
  simp [Nat.shiftRight_eq_div_pow]

/-- The latch of a read of CYCLE_LO (R215). -/
def latchCycle (n : Nat) (th : Thread) : Thread := { th with cycleHi := BitVec.ofNat 32 (n / 2 ^ 32) }
/-- The latch of a read of MWORK_LO (R61). -/
def latchMwork (n : Nat) (th : Thread) : Thread := { th with mworkHi := BitVec.ofNat 32 (n / 2 ^ 32) }
/-- The latch of a read of ADBG_W0 (R95). -/
def latchAdbg (a : Accum) (th : Thread) : Thread := { th with adbgW := a.w, adbgCls := BitVec.ofNat 2 a.cls.code }
/-- The latch of a read of TRDATA0 (R476). -/
def latchTrace (e : BitVec 128) (th : Thread) : Thread := { th with trLatch := e }

/-- A read of CYCLE_LO. -/
theorem portRead_cycleLo (w : Who) (h : Hw) : portRead (.thread w.thread) w.core (0x0905 : BitVec 16).toNat h =
    (BitVec.ofNat 32 (h.cycle w.core), h.updThread w (latchCycle (h.cycle w.core))) := rfl

/-- A read of MWORK_LO. -/
theorem portRead_mworkLo (w : Who) (h : Hw) : portRead (.thread w.thread) w.core (0x0601 : BitVec 16).toNat h =
    ((h.core w.core).mwork.setWidth 32, h.updThread w (latchMwork (h.core w.core).mwork.toNat)) := by
  unfold latchMwork
  rw [← setWidth_high]
  rfl

/-- A read of ADBG_W0 in a job loaded with debug. -/
theorem portRead_adbgW0 (w : Who) (hd : h.debug = true) : portRead (.thread w.thread) w.core (0x0F21 : BitVec 16).toNat h =
    (((h.core w.core).adbg w.core).w.setWidth 32, h.updThread w (latchAdbg ((h.core w.core).adbg w.core))) :=
  if_neg (by simp [hd])

/-- A read of ADBG_W0 in a job loaded without debug. -/
theorem portRead_adbgW0_off (w : Who) (hd : h.debug = false) :
    portRead (.thread w.thread) w.core (0x0F21 : BitVec 16).toNat h = (0, h) := if_pos (by simp [hd])

/-- A read of TRDATA0 in a job loaded with debug. -/
theorem portRead_trdata0 (w : Who) (hd : h.debug = true) : portRead (.thread w.thread) w.core (0x0F32 : BitVec 16).toNat h =
    ((h.bent (w.core.val / 44)).traceEntry.setWidth 32, h.updThread w (latchTrace (h.bent (w.core.val / 44)).traceEntry)) :=
  if_pos hd

/-- A read of TRDATA0 in a job loaded without debug. -/
theorem portRead_trdata0_off (w : Who) (hd : h.debug = false) :
    portRead (.thread w.thread) w.core (0x0F32 : BitVec 16).toNat h = (0, h) := if_neg (by simp [hd])

/-- A write of DREGSEL in a job loaded with debug. -/
theorem portWrite_dregsel (ag : Agent) (c : CoreId) (v : W32) (hd : h.debug = true) :
    portWrite ag c (0x0F10 : BitVec 16).toNat v h =
      (.done 1, h.updCore c (fun k => { k with dregsel := v &&& 0xF80003FF, dregErr := false })) := congrArg (Prod.mk _) (if_pos hd)

/-- A write of DRCMD in a job loaded with debug. -/
theorem portWrite_drcmd (ag : Agent) (c : CoreId) (v : W32) (hd : h.debug = true) :
    portWrite ag c (0x0F11 : BitVec 16).toNat v h = (.done 1, h.updCore c (·.drcmd c v)) := congrArg (Prod.mk _) (if_pos hd)

end

/-- The latches of counters, of the selected accumulator and of the selected trace entry. -/
theorem latchingReads : LatchingReads := by
  intro w d s hi k latch cyc a e
  refine ⟨?_, ?_, fun hm hd => ⟨?_, ?_⟩, fun hm hd => ⟨?_, ?_⟩⟩
  · exact hi.ins_latched (portDenied_false (.inl (by decide))) (by decide) rfl (portRead_cycleLo ..) (u := latchCycle cyc) {}
      (wrote_updThread ..) (setWidth_low _)
  · exact hi.ins_latched (portDenied_false (.inl (by decide))) (by decide) rfl (portRead_mworkLo ..) (u := latchMwork k.mwork.toNat) {}
      (wrote_updThread ..) (setWidth_setWidth_low _)
  · exact hi.ins_latched (portDenied_false (.inr hm)) (by decide) rfl (portRead_adbgW0 w hd) (u := latchAdbg a) {}
      (wrote_updThread ..) (setWidth_setWidth_low _)
  · exact hi.ins_latched (portDenied_false (.inr hm)) (by decide) rfl (portRead_trdata0 w hd) (u := latchTrace e) {}
      (wrote_updThread ..) (setWidth_setWidth_low _)
  · exact hi.ins_latched (portDenied_false (.inr hm)) (by decide) rfl (portRead_adbgW0_off w hd) keepsIssue_id (wrote_id w _) rfl
  · exact hi.ins_latched (portDenied_false (.inr hm)) (by decide) rfl (portRead_trdata0_off w hd) keepsIssue_id (wrote_id w _) rfl

/-! ### DRCMD (R475) -/

section
variable {k : Core} {c : CoreId} {v : W32} {t : Fin 4}

/-- The item that a selection of a data register names. -/
theorem ditem_d {sel : W32} {r : Fin 32} (hs : sel.toNat = t.val * 2 ^ 30 + 1 * 2 ^ 27 + r.val) :
    ditem c sel = some (.d r) ∧ fin 4 (fld sel 30 2) = t := by
  have hr := r.isLt
  have ht := t.isLt
  have hkind : fld sel 27 3 = 1 := by rw [fld, field, hs]; omega
  have hitem : fld sel 0 10 = r.val := by rw [fld, field, hs]; omega
  have hthread : fld sel 30 2 = t.val := by rw [fld, field, hs]; omega
  constructor
  · simp [ditem, hkind, hitem, hr, fin]
  · simp [hthread, fin]

/-- DRCMD reads a data register of a thread that is STOPPED or HALTED. -/
theorem drcmd_read {r : Fin 32} (hit : ditem c k.dregsel = some (.d r)) (ht : fin 4 (fld k.dregsel 30 2) = t)
    (hs : (k.thread t).tstate = .stopped ∨ (k.thread t).tstate = .halted) (h0 : v.getLsbD 0 = true) (h1 : v.getLsbD 1 = false) :
    k.drcmd c v = { k with dreg := (k.thread t).getD r } := by
  rcases hs with hs | hs <;> simp [Core.drcmd, Thread.ditemRead, hit, ht, hs, h0, h1, -BitVec.getLsbD_eq_getElem]

/-- DRCMD writes a data register of a thread that is STOPPED or HALTED. -/
theorem drcmd_write {r : Fin 32} (hit : ditem c k.dregsel = some (.d r)) (ht : fin 4 (fld k.dregsel 30 2) = t)
    (hs : (k.thread t).tstate = .stopped ∨ (k.thread t).tstate = .halted) (h0 : v.getLsbD 0 = false) (h1 : v.getLsbD 1 = true) :
    k.drcmd c v = k.updThread t (·.setD r k.dreg) := by
  rcases hs with hs | hs <;> simp [Core.drcmd, Thread.ditemWrite, hit, ht, hs, h0, h1, -BitVec.getLsbD_eq_getElem]

/-- DRCMD on a thread that runs sets ERR. -/
theorem drcmd_runs {i : DItem} (hit : ditem c k.dregsel = some i) (ht : fin 4 (fld k.dregsel 30 2) = t)
    (hs : (k.thread t).tstate = .running ∨ (k.thread t).tstate = .waiting) (hv : v.getLsbD 0 = true ∨ v.getLsbD 1 = true) :
    k.drcmd c v = { k with dregErr := true } := by
  rcases hs with hs | hs <;> rcases hv with hv | hv <;> simp [Core.drcmd, hit, ht, hs, hv, -BitVec.getLsbD_eq_getElem]

/-- DRCMD on an item that does not exist sets ERR. -/
theorem drcmd_none (hit : ditem c k.dregsel = none) (hv : v.getLsbD 0 = true ∨ v.getLsbD 1 = true) :
    k.drcmd c v = { k with dregErr := true } := by
  rcases hv with hv | hv <;> simp [Core.drcmd, hit, hv, -BitVec.getLsbD_eq_getElem]

/-- Kind 5 names no item. -/
theorem ditem_kind5 {sel : W32} (hs : sel.toNat / 2 ^ 27 % 8 = 5) : ditem c sel = none := by
  have hkind : fld sel 27 3 = 5 := hs
  simp [ditem, hkind]

end

/-- DREG is not read by the end of an instruction. -/
theorem keepsFetch_dreg (x : W64) : KeepsFetch (fun k => { k with dreg := x }) := {}

/-- ERR is not read by it. -/
theorem keepsFetch_dregErr : KeepsFetch (fun k => { k with dregErr := true }) := {}

/-- DREGSEL and DRCMD. -/
theorem debugRegisterAccess : DebugRegisterAccess := by
  intro w sr s hi ha hm hd v k cmd
  have hcmd : ∀ i ∈ [Instr.drcmdRead w sr, Instr.drcmdWrite w sr], ∀ g : Core → Core, k.drcmd w.core v = g k →
      SameFetch w.thread k (g k) → cmd i g := by
    intro i hmem g hg hfetch
    have he : exec i s = doOut w (0x0F11 : BitVec 16).toNat sr s := by
      simp only [List.mem_cons, List.not_mem_nil, or_false] at hmem
      rcases hmem with rfl | rfl <;> rfl
    exact hi.outs_sameFetch hm ha he (portWrite_drcmd _ _ _ hd) ((rewrote_updCore w _ _).congr hg) hfetch
  refine ⟨?_, fun t r hsel => ⟨fun hs => ⟨fun h0 h1 => ?_, fun h0 h1 => ?_⟩, fun hs hv i hmem => ?_⟩, fun hsel hv i hmem => ?_⟩
  · exact hi.outs_rewrote hm ha rfl (portWrite_dregsel _ _ _ hd) {} (rewrote_updCore w _ _)
  · obtain ⟨hit, ht⟩ := ditem_d (c := w.core) hsel
    exact hcmd _ (by simp) _ (drcmd_read hit ht hs h0 h1) ((keepsFetch_dreg _).sameFetch _ _)
  · obtain ⟨hit, ht⟩ := ditem_d (c := w.core) hsel
    have hother : t ≠ w.thread := by
      rintro rfl
      have hrun : (k.thread w.thread).tstate = .running := hi.tstate
      simp [hrun] at hs
    exact hcmd _ (by simp) _ (drcmd_write hit ht hs h0 h1) (sameFetch_updThread hother _ _)
  · obtain ⟨hit, ht⟩ := ditem_d (c := w.core) hsel
    exact hcmd i hmem _ (drcmd_runs hit ht hs hv) (keepsFetch_dregErr.sameFetch _ _)
  · exact hcmd i hmem _ (drcmd_none (ditem_kind5 hsel) hv) (keepsFetch_dregErr.sameFetch _ _)

/-- Settles O27: each latching read changes a latch of its reader, and DRCMD the item, its copy in DREG, or ERR. -/
theorem latchingReadsAndDebugRegisters : Obligations.LatchingReadsAndDebugRegisters := ⟨latchingReads, debugRegisterAccess⟩

end Sys2Proof.Claims

namespace Sys2Proof.Machine

/-! ### The interlocks of tiles and groups (R54, R75, R83, R111, R126) -/

/-- A count that depends on the kind of core (R24). -/
theorem byKind_eq {α : Type} (c : Nat) (joist brace peg : α) :
    byKind c joist brace peg = if c % 44 < 32 then joist else if c % 44 < 40 then brace else peg := by
  by_cases hj : c % 44 < 32
  · simp [byKind, isJoist, coreIn, hj]
  · by_cases hb : c % 44 < 40
    · simp [byKind, isJoist, isBrace, coreIn, hj, hb, Nat.le_of_not_lt hj]
    · simp [byKind, isJoist, isBrace, coreIn, hj, hb]

/-- The stationary load has not finished in the first two stages. -/
theorem MatJob.loadingOrWaiting_iff (j : MatJob) :
    j.loadingOrWaiting = true ↔ j.stage.isAccepted = true ∨ j.stage.isLoading = true := by
  unfold MatJob.loadingOrWaiting MatStage.isAccepted MatStage.isLoading
  cases j.stage <;> simp

section
variable (k : Core) (t g : Fin 8) (cyc : Nat)

/-- What keeps a tile of an accepted matrix instruction from being written. -/
theorem Core.matLocks_iff : k.matLocks t = true ↔ ∃ j ∈ k.mat, (j.ta = t ∧ j.held = true) ∨
    ((j.tb = t ∨ j.tm = some t) ∧ (j.stage.isAccepted = true ∨ j.stage.isLoading = true)) := by
  simp [Core.matLocks, MatJob.loadingOrWaiting_iff]

/-- A drain that still writes a tile, or has it as its scale row. -/
theorem Core.drainLocks_iff : k.drainLocks t cyc = true ↔
    ∃ d ∈ k.drains, (d.td = t ∨ d.ts = some t) ∧ cyc ≤ d.start + d.lag + d.rows - 1 := by
  simp only [Core.drainLocks, List.any_eq_true, Bool.and_eq_true, decide_eq_true_eq, DrainRun.names, Bool.or_eq_true, beq_iff_eq]
  rfl

/-- The tile move in progress is on the tile. -/
theorem Core.moveLocks_iff : k.moveLocks t = true ↔ k.tileMove.map (·.t) = some t := by
  unfold Core.moveLocks
  cases k.tileMove <;> simp

/-- What keeps a tile from being written. -/
theorem Core.writeWaits_iff : k.writeWaits t cyc = true ↔
    k.matLocks t = true ∨ k.drainLocks t cyc = true ∨ k.moveLocks t = true ∨ cyc < k.tileFree[t] := by
  simp [Core.writeWaits, Core.tileHeld, or_assoc]

/-- What keeps a group from being used. -/
theorem Core.groupWaits_iff : k.groupWaits g cyc = true ↔
    (∃ j ∈ k.mat, j.g = g) ∨ (∃ d ∈ k.drains, d.g = g ∧ cyc ≤ d.start + d.rows - 1) ∨ cyc < k.groupFree[g] := by
  simp only [Core.groupWaits, List.any_eq_true, Bool.and_eq_true, Bool.or_eq_true, decide_eq_true_eq, beq_iff_eq, or_assoc]
  rfl

end

end Sys2Proof.Machine

namespace Sys2Proof.Claims

open Sys2Proof.Machine

/-! ### The checks of a matrix instruction (R51) -/

/-- The tile is the streaming, the stationary or the metadata tile of a matrix instruction. -/
def Operand (ta tb : Fin 8) (o : Option (Fin 8)) (t : Fin 8) : Prop := t = ta ∨ t = tb ∨ o = some t

section
variable {w : Who} {k : Core} {g ta tb tm : Fin 8} {o : Option (Fin 8)}

/-- What holds of each operand. -/
theorem forall_operand {P : Fin 8 → Prop} (ha : P ta) (hb : P tb) (ho : ∀ t, o = some t → P t) : ∀ t, Operand ta tb o t → P t := by
  rintro t (rfl | rfl | ht)
  · exact ha
  · exact hb
  · exact ho t ht

/-- A check that no operand meets. -/
theorem noOperand {p : Tile → Bool} (hp : ∀ t, Operand ta tb o t → p k.tiles[t] = false) :
    ¬(p k.tiles[ta] || p k.tiles[tb] || ((o.map (fun t => k.tiles[t])).map p).getD false) = true := by
  have hm : ((o.map (fun t => k.tiles[t])).map p).getD false = false := by
    cases o with
    | none => rfl
    | some t => exact hp t (.inr (.inr rfl))
  rw [hp ta (.inl rfl), hp tb (.inr (.inl rfl)), hm]
  exact Bool.false_ne_true

/-- A group of its kind of core. -/
theorem group_exists {c : CoreId} (hg : g.val < if c.val % 44 < 32 then 8 else 4) : ¬groupCount c ≤ g.val := by
  rw [groupCount, byKind_eq, ite_self]
  exact Nat.not_le.mpr hg

/-- Every kind of core has four groups. -/
theorem group_exists_of_lt {c : CoreId} (hg : g.val < 4) : ¬groupCount c ≤ g.val :=
  group_exists (by split_ifs <;> omega)

/-- The group is not one of its kind of core. -/
theorem matCheck_groupInvalid (hg : 4 ≤ g.val) (hc : 32 ≤ w.core.val % 44) : matCheck w k g ta tb o = some excGroupInvalid := by
  have hcount : groupCount w.core ≤ g.val := by
    rw [groupCount, byKind_eq, if_neg (Nat.not_lt.mpr hc), ite_self]
    exact hg
  exact if_pos hcount

/-- The streaming or the stationary tile is empty. -/
theorem matCheck_tileEmpty (hg : ¬groupCount w.core ≤ g.val) (ht : k.tiles[ta].rows = 0 ∨ k.tiles[tb].rows = 0) :
    matCheck w k g ta tb o = some excTileEmpty := by
  have hempty : (k.tiles[ta].empty || k.tiles[tb].empty) = true := by
    rcases ht with ht | ht <;> simp only [Tile.empty, ht, beq_self_eq_true, Bool.true_or, Bool.or_true]
  unfold matCheck
  dsimp only
  rw [if_neg hg, if_pos (by rw [hempty, Bool.true_or])]

/-- No operand is empty, and another thread owns the streaming tile. -/
theorem matCheck_tileOwned (hg : ¬groupCount w.core ≤ g.val) (hrows : ∀ t, Operand ta tb o t → k.tiles[t].rows ≠ 0)
    (howner : k.tiles[ta].owner ≠ w.thread) : matCheck w k g ta tb o = some excTileOwned := by
  have hother : k.tiles[ta].othersOwn w.thread = true := by
    simp only [Tile.othersOwn, Tile.empty, beq_eq_false_iff_ne.mpr (hrows ta (.inl rfl)), bne_iff_ne.mpr howner]
    rfl
  unfold matCheck
  dsimp only
  rw [if_neg hg, if_neg (noOperand (p := Tile.empty) fun t ht => beq_eq_false_iff_ne.mpr (hrows t ht)),
    if_pos (by rw [hother, Bool.true_or, Bool.true_or])]

/-- A tile that the thread owns is not empty, nor another's. -/
theorem Owned.checks {x : Tile} {t : Fin 4} (hx : Owned t x) : x.empty = false ∧ x.othersOwn t = false := by
  obtain ⟨hrows, howner⟩ := hx
  have hempty : x.empty = false := beq_eq_false_iff_ne.mpr hrows
  exact ⟨hempty, by rw [Tile.othersOwn, hempty, howner, bne_self_eq_false]; rfl⟩

/-- Where the thread owns the operands, the first three checks of R51 find nothing. -/
theorem matCheck_owned (hg : ¬groupCount w.core ≤ g.val) (hown : ∀ t, Operand ta tb o t → Owned w.thread k.tiles[t]) :
    ¬groupCount w.core ≤ g.val ∧
    ¬(k.tiles[ta].empty || k.tiles[tb].empty || ((o.map (fun t => k.tiles[t])).map Tile.empty).getD false) = true ∧
    ¬(k.tiles[ta].othersOwn w.thread || k.tiles[tb].othersOwn w.thread ||
      ((o.map (fun t => k.tiles[t])).map (·.othersOwn w.thread)).getD false) = true :=
  ⟨hg, noOperand (p := Tile.empty) fun t ht => (hown t ht).checks.1,
    noOperand (p := (·.othersOwn w.thread)) fun t ht => (hown t ht).checks.2⟩

/-- The thread owns the operands, and the group is closed. -/
theorem matCheck_groupClosed (hg : ¬groupCount w.core ≤ g.val) (hown : ∀ t, Operand ta tb o t → Owned w.thread k.tiles[t])
    (hclosed : k.groups[g].opened = false) : matCheck w k g ta tb o = some excGroupClosed := by
  obtain ⟨h1, h2, h3⟩ := matCheck_owned hg hown
  unfold matCheck
  dsimp only
  rw [if_neg h1, if_neg h2, if_neg h3, if_pos (by rw [hclosed]; rfl)]

/-- A format that an operand may have is not that of metadata, nor RAW (R51). -/
theorem input_code {x : Tile} (hx : x.fmt.toNat < 0xD) : (x.code == 0xD || x.code == 0xE) = false := by
  have h : x.code < 0xD := hx
  simp only [Bool.or_eq_false_iff, beq_eq_false_iff_ne]
  omega

/-- A dense instruction that meets none of the conditions of R51. -/
theorem Computes.matCheck_dense (hc : Computes w g ta tb k) (hshape : k.tiles[ta].elems = k.tiles[tb].elems) :
    matCheck w k g ta tb none = none := by
  obtain ⟨hg, ⟨hopened, howner⟩, ⟨ha, hb⟩, ⟨hfa, hfb⟩, hia, hib⟩ := hc
  obtain ⟨h1, h2, h3⟩ := matCheck_owned (o := none) (group_exists hg) (forall_operand ha hb (fun _ ht => nomatch ht))
  unfold matCheck
  dsimp only
  rw [if_neg h1, if_neg h2, if_neg h3, if_neg (by rw [hopened]; exact Bool.false_ne_true), if_neg (not_not.mpr howner),
    if_neg (by rw [input_code hia, input_code hib]; exact Bool.false_ne_true), if_neg (by simp [hfa, hfb, -Fin.getElem_fin]),
    if_neg (by simp [hshape, -Fin.getElem_fin])]

/-- A sparse instruction that meets none of the conditions of R51. -/
theorem Computes.matCheck_sparse (hc : Computes w g ta tb k) (hm : Owned w.thread k.tiles[tm]) (hmeta : k.tiles[tm].fmt = 0xD)
    (hset : k.tiles[ta].fmt.toNat ∈ [1, 2, 4, 5, 6]) (helems : k.tiles[ta].elems = 2 * k.tiles[tb].elems)
    (hdiv : k.tiles[ta].elems % 8 = 0) (hrows : k.tiles[tm].rows = k.tiles[tb].rows)
    (hrbytes : k.tiles[tm].rbytes = k.tiles[ta].elems / 8) (hma : tm ≠ ta) (hmb : tm ≠ tb) :
    matCheck w k g ta tb (some tm) = none := by
  obtain ⟨hg, ⟨hopened, howner⟩, ⟨ha, hb⟩, ⟨hfa, hfb⟩, hia, hib⟩ := hc
  obtain ⟨h1, h2, h3⟩ := matCheck_owned (o := some tm) (group_exists hg) (forall_operand ha hb (fun _ ht => Option.some.inj ht ▸ hm))
  have hsparse : inSparseSet k.tiles[ta].code = true := by
    simp only [List.mem_cons, List.not_mem_nil, or_false] at hset
    rcases hset with h | h | h | h | h <;> rw [Tile.code, h] <;> rfl
  have hmetaCode : k.tiles[tm].code = 0xD := congrArg BitVec.toNat hmeta
  unfold matCheck
  dsimp only
  rw [if_neg h1, if_neg h2, if_neg h3, if_neg (by rw [hopened]; exact Bool.false_ne_true), if_neg (not_not.mpr howner),
    if_neg (by rw [input_code hia, input_code hib]; simp [hmetaCode, hsparse, -Fin.getElem_fin]),
    if_neg (by simp [hfa, hfb, -Fin.getElem_fin]),
    if_neg (by simp [← helems, hdiv, hrows, hrbytes, hma, hmb, -Fin.getElem_fin])]

end

/-! ### An instruction that stalls (R157, R158) -/

/-- A stop waits for an instruction that stalls otherwise than R158 says. -/
theorem stopStalled_uninterruptible {k : Core} {t : Fin 4} {r : Stall} (hr : (k.thread t).stall = some r)
    (hn : r.interruptible = false) : k.stopStalled t = k := by
  have hb : k.atBoundary t = false := by
    rw [Core.atBoundary, hr]
    split
    case h_1 h => nomatch h
    case h_2 h => rw [Option.some.inj h] at hn; nomatch hn
    case h_3 h => rw [← Option.some.inj h, hn]
  simp only [Core.stopStalled, hb, Bool.and_false, Bool.false_eq_true, if_false]

/-- Where no SEND was stalled, settling an instruction that stalls settles its thread, and of its core only what the stillness
detector notes, unless a stop takes hold in the stall. -/
theorem core_settle_stall {h : Hw} {w : Who} (hs : (h.thread w).stall ≠ some .credit) (f : Form) (m : Mem) {r : Stall} (on : Nat)
    (hr : r.interruptible = false ∨ (h.thread w).stopReq = false) :
    ∃ n, (h.settle w f m (.stall r on)).core w.core =
      ((h.core w.core).updThread w.thread (fun _ => (h.thread w).settle (h.cycle w.core) (.stall r on))).noted n := by
  have hsend : ((h.core w.core).thread w.thread).sendOn = none := if_neg hs
  have hstop : ((h.core w.core).updThread w.thread (fun _ => (h.thread w).settle (h.cycle w.core) (.stall r on))).stopStalled w.thread =
      (h.core w.core).updThread w.thread (fun _ => (h.thread w).settle (h.cycle w.core) (.stall r on)) := by
    rcases hr with hr | hr
    · exact stopStalled_uninterruptible (r := r) (by rw [Core.thread_updThread_self]; rfl) hr
    · exact Core.stopStalled_none (by rw [Core.thread_updThread_self]; exact hr)
  simp only [Hw.settle, Hw.noted, Hw.core_updCore_self, Hw.core_traceCtl, hsend, Core.sendEnds]
  exact ⟨_, congrArg (Core.noted · _) hstop⟩

/-- An instruction that stalls leaves its thread in the stall, where no stop takes hold of it there, and nothing else changes. -/
theorem Issues.left_stall {w : Who} {p : Option (BitVec 26)} {s : State} (hi : Issues w p s) (f : Form) {r : Stall} (on : Nat)
    (hr : r.interruptible = false ∨ ((slot w s).thread w).stopReq = false) :
    Left w (stalled w s r on) s { s with hw := (slot w s).settle w f s.mem (.stall r on) } := by
  obtain ⟨n, hcore⟩ := core_settle_stall hi.unsent f s.mem on hr
  refine { thread := ?_, threads := fun u hu => ?_, core := ?_, cores := fun c hc => ?_, clock := ?_, mem := rfl, pending := rfl }
  · rw [Hw.thread, hcore, Core.thread_noted, Core.thread_updThread_self]
    rfl
  · rw [hcore, Core.thread_noted, Core.thread_updThread_ne _ hu]
  · rw [hcore]
    exact sameCore_updThread_noted _ _ _ n
  · exact Hw.core_settle_ne _ w (fun hv => hc (Fin.ext hv)) f s.mem _
  · exact Hw.clock_settle _ w f s.mem _

/-- An instruction whose body stalls. -/
theorem Issues.yields_stall {w : Who} {p : Option (BitVec 26)} {s : State} (hi : Issues w p s) {i : Instr} {f : Form}
    (ht : p = none ∨ f.takesPfx = true) {r : Stall} {on : Nat} {body : Option (BitVec 26) → Hw → Ctl × Hw}
    (he : exec i s = onHw (runInstr w f body) s) (hb : body p (slot w s) = (.stall r on, slot w s))
    (hr : r.interruptible = false ∨ ((slot w s).thread w).stopReq = false) : Yields i s (Left w (stalled w s r on) s) := by
  refine ⟨_, he, ?_⟩
  rw [hi.runInstr ht, hb]
  exact hi.left_stall f on hr

/-! ### The issue of a matrix instruction (R45 to R52) -/

section
variable {w : Who} {g ta tb : Fin 8} {o : Option (Fin 8)} {neg : Bool} {s : State} {i : Instr}

/-- The job that an accepted instruction becomes: it holds the contents of its operands. -/
def acceptedJob (w : Who) (g ta tb : Fin 8) (o : Option (Fin 8)) (neg : Bool) (k : Core) (cyc : Nat) : MatJob :=
  { serial := k.matSerial + 1, thread := w.thread, g := g, ta := ta, tb := tb, tm := o, neg := neg, opA := k.tiles[ta],
    opB := k.tiles[tb], opM := o.map (fun t => k.tiles[t]), stage := .accepted cyc }

/-- A core that has accepted a job. -/
def accept (j : MatJob) (k : Core) : Core := { k with mat := k.mat ++ [j], matSerial := k.matSerial + 1 }

/-- The end of an instruction does not read the matrix engine. -/
theorem keepsFetch_accept (j : MatJob) : KeepsFetch (accept j) := {}

/-- Acceptance leaves the tiles and the groups. -/
theorem accept_astir {j : MatJob} {k l : Core} {t : Fin 4} {f : Thread → Thread} (hl : l = ((accept j k).updThread t f).astir) :
    l.mat = k.mat ++ [j] ∧ l.tiles = k.tiles ∧ l.groups = k.groups ∧ l.thread t = f (k.thread t) := by
  subst hl
  exact ⟨rfl, rfl, rfl, (Core.thread_astir ..).trans (Core.thread_updThread_self ..)⟩

/-- A drain still writes an operand, or a held release names it (R83, R126). -/
def operandWaits (k : Core) (cyc : Nat) (ta tb : Fin 8) (o : Option (Fin 8)) : Bool :=
  let waits := fun t => k.readWaits t cyc || k.trelNames t
  waits ta || waits tb || (o.map waits).getD false

/-- The hardware as an accepted instruction leaves it, but for the end of its thread's slot. -/
def accepted (w : Who) (g ta tb : Fin 8) (o : Option (Fin 8)) (neg : Bool) (h : Hw) : Hw :=
  (h.traceEv w 4 (h.thread w).pc g).updCore w.core (accept (acceptedJob w g ta tb o neg (h.core w.core) (h.cycle w.core)))

/-- Of the cores, acceptance changes its own. -/
theorem rewrote_accepted (w : Who) (g ta tb : Fin 8) (o : Option (Fin 8)) (neg : Bool) (h : Hw) :
    Rewrote w (accept (acceptedJob w g ta tb o neg (h.core w.core) (h.cycle w.core))) h (accepted w g ta tb o neg h) where
  core := by rw [accepted, Hw.core_updCore_self, Hw.core_traceEv]
  cores c hne := (Hw.core_updCore_ne _ (fun hv => hne (Fin.ext hv)) _).trans (Hw.core_traceEv ..)
  clock := Hw.clock_traceEv ..

/-- What a matrix instruction does in its slot: it fails its first check, stalls for an operand, stalls for room, or is accepted. -/
structure MatBody (w : Who) (g ta tb : Fin 8) (o : Option (Fin 8)) (neg : Bool) (body : Option (BitVec 26) → Hw → Ctl × Hw) (h : Hw) :
    Prop where
  fails : ∀ code, matCheck w (h.core w.core) g ta tb o = some code → body none h = (faultAt (h.thread w) code, h)
  waits : matCheck w (h.core w.core) g ta tb o = none → operandWaits (h.core w.core) (h.cycle w.core) ta tb o = true →
    body none h = (.stall .interlock 0, h)
  full : matCheck w (h.core w.core) g ta tb o = none → operandWaits (h.core w.core) (h.cycle w.core) ta tb o = false →
    3 ≤ ((h.core w.core).mat.filter MatJob.held).length → body none h = (.stall .engine 0, h)
  accepts : matCheck w (h.core w.core) g ta tb o = none → operandWaits (h.core w.core) (h.cycle w.core) ta tb o = false →
    ((h.core w.core).mat.filter MatJob.held).length < 3 → body none h = (.done 1, accepted w g ta tb o neg h)

/-- The body that the model runs. -/
theorem matIssue_body (w : Who) (g ta tb : Fin 8) (o : Option (Fin 8)) (neg : Bool) :
    ∃ body, matIssue w g ta tb o neg = runInstr w {} body ∧ ∀ h, MatBody w g ta tb o neg body h := by
  refine ⟨_, rfl, fun h => ⟨fun code hc => ?_, fun hc hw => ?_, fun hc hw hf => ?_, fun hc hw hf => ?_⟩⟩
  · simp only [hc]
  · simp only [hc]
    exact if_pos hw
  · simp only [hc]
    exact (if_neg (Bool.eq_false_iff.mp hw)).trans (if_pos hf)
  · simp only [hc]
    exact (if_neg (Bool.eq_false_iff.mp hw)).trans (if_neg (Nat.not_le.mpr hf))

/-- An instruction that fails one of its checks (R51). -/
theorem Issues.mat_fails (hi : Issues w none s) (he : exec i s = onHw (matIssue w g ta tb o neg) s) {code : Nat}
    (hc : matCheck w ((slot w s).core w.core) g ta tb o = some code) :
    Yields i s (Left w (found w s { code := code, epc := ((slot w s).thread w).pc }) s) := by
  obtain ⟨body, hm, hb⟩ := matIssue_body w g ta tb o neg
  exact hi.yields_fault (.inl rfl) (hm ▸ he) ((hb _).fails code hc)

/-- An instruction with an operand that is not to be read yet (R83, R126). -/
theorem Issues.mat_interlock (hi : Issues w none s) (he : exec i s = onHw (matIssue w g ta tb o neg) s)
    (hc : matCheck w ((slot w s).core w.core) g ta tb o = none)
    (hw : operandWaits ((slot w s).core w.core) (issueCycle w s) ta tb o = true) :
    Yields i s (Left w (stalled w s .interlock 0) s) := by
  obtain ⟨body, hm, hb⟩ := matIssue_body w g ta tb o neg
  exact hi.yields_stall (.inl rfl) (hm ▸ he) ((hb _).waits hc hw) (.inl rfl)

/-- An instruction that finds the engine full (R52). -/
theorem Issues.mat_full (hi : Issues w none s) (he : exec i s = onHw (matIssue w g ta tb o neg) s)
    (hc : matCheck w ((slot w s).core w.core) g ta tb o = none)
    (hw : operandWaits ((slot w s).core w.core) (issueCycle w s) ta tb o = false)
    (hfull : 3 ≤ (((slot w s).core w.core).mat.filter MatJob.held).length) : Yields i s (Left w (stalled w s .engine 0) s) := by
  obtain ⟨body, hm, hb⟩ := matIssue_body w g ta tb o neg
  exact hi.yields_stall (.inl rfl) (hm ▸ he) ((hb _).full hc hw hfull) (.inl rfl)

/-- An instruction that is accepted (R52, R54). -/
theorem Issues.mat_accepted (hi : Issues w none s) (he : exec i s = onHw (matIssue w g ta tb o neg) s)
    (hc : matCheck w ((slot w s).core w.core) g ta tb o = none)
    (hw : operandWaits ((slot w s).core w.core) (issueCycle w s) ta tb o = false)
    (hroom : (((slot w s).core w.core).mat.filter MatJob.held).length < 3) : Accepted w g ta tb o neg i s := by
  obtain ⟨body, hm, hb⟩ := matIssue_body w g ta tb o neg
  refine ⟨_, by rw [he, onHw_eq, hm, hi.runInstr (.inl rfl), (hb _).accepts hc hw hroom], ?_⟩
  obtain ⟨hmat, htiles, hgroups, hthread⟩ :=
    accept_astir (hi.rewrote_settle (keepsFetch_accept _) (rewrote_accepted w g ta tb o neg _) {}).astir
  exact ⟨_, hmat, rfl, rfl, rfl, rfl, rfl, rfl, rfl, rfl, rfl, rfl, rfl, htiles, hgroups, hthread⟩

end

/-! ### The obligation -/

/-- What keeps a tile from being written or read, and a group from being used. -/
theorem interlocksHold : InterlocksHold := by
  intro k t g cyc drained
  refine ⟨?_, k.drainLocks_iff t cyc, k.groupWaits_iff g cyc⟩
  rw [Core.writeWaits_iff, Core.matLocks_iff, Core.drainLocks_iff, Core.moveLocks_iff]

/-- An operand that is free is not waited for. -/
theorem operandWaits_free {k : Core} {cyc : Nat} {ta tb : Fin 8} {o : Option (Fin 8)}
    (hfree : ∀ t, Operand ta tb o t → k.readWaits t cyc = false ∧ k.trelNames t = false) : operandWaits k cyc ta tb o = false := by
  have hone : ∀ t, Operand ta tb o t → (k.readWaits t cyc || k.trelNames t) = false := fun t ht => by
    obtain ⟨hr, hn⟩ := hfree t ht
    rw [hr, hn, Bool.or_false]
  have ho : (o.map (fun t => k.readWaits t cyc || k.trelNames t)).getD false = false := by
    cases o with
    | none => rfl
    | some t => exact hone t (.inr (.inr rfl))
  simp only [operandWaits, hone ta (.inl rfl), hone tb (.inr (.inl rfl)), ho, Bool.or_false]

/-- An operand that is not free is waited for. -/
theorem operandWaits_held {k : Core} {cyc : Nat} {ta tb : Fin 8} {o : Option (Fin 8)}
    (hheld : ¬((k.readWaits ta cyc = false ∧ k.trelNames ta = false) ∧ k.readWaits tb cyc = false ∧ k.trelNames tb = false)) :
    operandWaits k cyc ta tb o = true := by
  have hone : ((k.readWaits ta cyc || k.trelNames ta) || (k.readWaits tb cyc || k.trelNames tb)) = true := by
    refine Bool.not_eq_false _ |>.mp fun hno => hheld ?_
    simpa only [Bool.or_eq_false_iff] using hno
  simp only [operandWaits, hone, Bool.true_or]

/-- Each of the three instructions is an issue of the engine. -/
theorem exec_matIssue {w : Who} {g ta tb tm : Fin 8} {i : Instr}
    (hi : i ∈ [Instr.tmma w g ta tb, Instr.tmman w g ta tb, Instr.tmmas w g ta tb tm]) (s : State) :
    ∃ o neg, (∀ t, o = some t → t = tm) ∧ exec i s = onHw (matIssue w g ta tb o neg) s := by
  simp only [List.mem_cons, List.not_mem_nil, or_false] at hi
  rcases hi with rfl | rfl | rfl
  · exact ⟨none, false, by simp, rfl⟩
  · exact ⟨none, true, by simp, rfl⟩
  · exact ⟨some tm, false, by simp, rfl⟩

/-- TMMA and TMMAN take no metadata tile. -/
theorem exec_dense {w : Who} {g ta tb : Fin 8} {i : Instr} (hi : i ∈ [Instr.tmma w g ta tb, Instr.tmman w g ta tb]) (s : State) :
    ∃ neg, exec i s = onHw (matIssue w g ta tb none neg) s := by
  simp only [List.mem_cons, List.not_mem_nil, or_false] at hi
  rcases hi with rfl | rfl
  · exact ⟨false, rfl⟩
  · exact ⟨true, rfl⟩

/-- TMMA, TMMAN and TMMAS. -/
theorem matrixInstructionsIssue : MatrixInstructionsIssue := by
  intro w g ta tb tm s hi k th a b m dense sparse free room
  refine ⟨fun hc ha hb hr => ⟨fun hd => ?_, fun hsp hm => ?_⟩, fun hc hd i hmem => ?_, fun i hmem => ?_⟩
  · have hfree := operandWaits_free (o := none) (forall_operand ha hb (fun _ h => nomatch h))
    exact ⟨hi.mat_accepted rfl (hc.matCheck_dense hd) hfree hr, hi.mat_accepted rfl (hc.matCheck_dense hd) hfree hr⟩
  · obtain ⟨hown, hmeta, hset, helems, hdiv, hrows, hrbytes, hma, hmb⟩ := hsp
    exact hi.mat_accepted rfl (hc.matCheck_sparse hown hmeta hset helems hdiv hrows hrbytes hma hmb)
      (operandWaits_free (forall_operand ha hb (fun _ h => Option.some.inj h ▸ hm))) hr
  · obtain ⟨neg, he⟩ := exec_dense hmem s
    refine ⟨fun ha hb hr => ?_, fun hn => hi.mat_interlock he (hc.matCheck_dense hd) (operandWaits_held hn)⟩
    exact hi.mat_full he (hc.matCheck_dense hd) (operandWaits_free (forall_operand ha hb (fun _ h => nomatch h))) (Nat.not_lt.mp hr)
  · obtain ⟨o, neg, ho, he⟩ := exec_matIssue hmem s
    refine ⟨fun hg hk => ?_, fun hg ht => ?_, fun hg ha hb hm hown => ?_, fun hg ha hb hm hclosed => ?_⟩
    · exact hi.mat_fails he (matCheck_groupInvalid hg hk)
    · exact hi.mat_fails he (matCheck_tileEmpty (group_exists_of_lt hg) ht)
    · exact hi.mat_fails he (matCheck_tileOwned (group_exists_of_lt hg) (forall_operand ha hb (fun t h => ho t h ▸ hm)) hown)
    · exact hi.mat_fails he (matCheck_groupClosed (group_exists_of_lt hg) (forall_operand ha hb (fun t h => ho t h ▸ hm)) hclosed)

/-- Whether an accepted instruction up to a serial number is still to update its group (R48). -/
theorem matPends_iff (k : Core) (n : Nat) : k.matPends n = true ↔ ∃ j ∈ k.mat, j.serial ≤ n := by
  simp only [Core.matPends, List.any_eq_true, decide_eq_true_eq]

/-- MSYNC. -/
theorem msyncWaitsForUpdates : MsyncWaitsForUpdates := by
  intro w s hi k
  refine ⟨fun hall => ?_, fun hex hstop => ?_⟩
  · have hno : k.matPends k.matSerial = false := Bool.eq_false_iff.mpr fun hp => by
      obtain ⟨j, hj, hle⟩ := (matPends_iff k _).mp hp
      exact Nat.not_lt.mpr hle (hall j hj)
    obtain ⟨t, he, ht⟩ := hi.runs_changed (i := .msync w) rfl (if_neg (Bool.eq_false_iff.mp hno)) keepsIssue_id (wrote_id w _)
    exact ⟨t, he, ht.ran⟩
  · exact hi.yields_stall (.inl rfl) (i := .msync w) rfl (if_pos ((matPends_iff k _).mpr hex)) (.inr hstop)

/-- Settles O33: the interlocks as the core's queries give them, the body of a matrix instruction by its checks, and MSYNC by what
pends. -/
theorem matrixInstructionsAreAccepted : Obligations.MatrixInstructionsAreAccepted :=
  ⟨interlocksHold, matrixInstructionsIssue, msyncWaitsForUpdates⟩

end Sys2Proof.Claims

namespace Sys2Proof.Machine

/-! ### What passing time leaves of the matrix engine

The effects that take hold as time passes, and the engines that catch up, leave the accepted matrix instructions of every core and the
stalled OUTs to TREL. -/

/-- The accepted matrix instructions of a core, and the releases that its stalled OUTs to TREL wait to make. -/
def Core.engine (k : Core) : List MatJob × Vector (Option (BitVec 8)) 4 := (k.mat, k.trelWait)

/-- A core that holds the same instructions and releases. -/
theorem Core.engine_congr {k l : Core} (hm : l.mat = k.mat) (ht : l.trelWait = k.trelWait) : l.engine = k.engine :=
  Prod.ext hm ht

section
variable (k : Core) (t : Fin 4)

/-- The stillness count. -/
theorem Core.engine_noted (n : Nat) : (k.noted n).engine = k.engine := by
  unfold Core.noted
  dsimp only
  split <;> rfl

/-- A tenon's stall counter. -/
theorem Core.engine_unstall (n : Fin 16) : (k.unstall n).engine = k.engine := by
  unfold Core.unstall
  split <;> rfl

/-- A stalled SEND. -/
theorem Core.engine_clearStall : (k.clearStall t).engine = k.engine := by
  unfold Core.clearStall
  dsimp only
  split
  · exact Core.engine_unstall ..
  · rfl

/-- A tile move. -/
theorem Core.engine_stopTileMove : (k.stopTileMove t).engine = k.engine := by
  unfold Core.stopTileMove
  split
  · split <;> rfl
  · rfl

/-- A stream instruction. -/
theorem Core.engine_stopStream : (k.stopStream t).engine = k.engine := by
  unfold Core.stopStream
  split
  · next j _ =>
    split
    · dsimp only
      cases j.tenon with
      | some n => exact Core.engine_unstall ..
      | none => rfl
    · rfl
  · rfl

/-- What a thread is in the middle of stops. -/
theorem Core.engine_stopWork : (k.stopWork t).engine = k.engine := by
  rw [Core.stopWork, Core.engine_stopStream, Core.engine_stopTileMove, Core.engine_clearStall]

/-- A thread stops. -/
theorem Core.engine_stopThread : (k.stopThread t).engine = k.engine := by
  have hrun : (if k.atBoundary t && (k.thread t).found.isNone then (k.stopWork t).updThread t Thread.stopNow
      else k.updThread t (fun th => { th with stopReq := true })).engine = k.engine := by
    split
    · exact Core.engine_stopWork ..
    · rfl
  unfold Core.stopThread
  dsimp only
  split
  case h_4 => exact hrun
  all_goals rfl

/-- Registers of a mask are released. -/
theorem Core.engine_trel (v : BitVec 8) (cyc : Nat) : (k.trel v cyc).engine = k.engine := by
  unfold Core.trel
  induction List.finRange 8 generalizing k with
  | nil => rfl
  | cons t ts ih =>
    rw [List.foldl_cons, ih]
    split <;> rfl

/-- A frozen core goes on. -/
theorem Core.engine_thaw (n : Nat) : (k.thaw n).engine = k.engine := by
  unfold Core.thaw
  split <;> rfl

end

/-- Every core of `x` holds the engine that it holds in `h`. -/
structure KeepsEngine (h x : Hw) : Prop where
  core : ∀ c, (x.core c).engine = (h.core c).engine

section
variable {h x y : Hw}

/-- No step. -/
theorem KeepsEngine.refl (h : Hw) : KeepsEngine h h := ⟨fun _ => rfl⟩

/-- Two steps. -/
theorem KeepsEngine.trans (hx : KeepsEngine h x) (hy : KeepsEngine x y) : KeepsEngine h y :=
  ⟨fun c => (hy.core c).trans (hx.core c)⟩

/-- A core's change that leaves its engine. -/
theorem KeepsEngine.updCore (hx : KeepsEngine h x) (c : Nat) {f : Core → Core} (hf : ∀ k, (f k).engine = k.engine) :
    KeepsEngine h (x.updCore c f) := by
  refine ⟨fun d => ?_⟩
  by_cases hd : d = c
  · rw [hd, Hw.core_updCore_self, hf]
    exact hx.core c
  · rw [Hw.core_updCore_ne _ hd]
    exact hx.core d

/-- A change of every core that leaves its engine. -/
theorem KeepsEngine.updAllCores (hx : KeepsEngine h x) {f : Core → Core} (hf : ∀ k, (f k).engine = k.engine) :
    KeepsEngine h (x.updAllCores f) := by
  refine ⟨fun d => ?_⟩
  rw [Hw.core_updAllCores, hf]
  exact hx.core d

/-- A thread's change. -/
theorem KeepsEngine.updThread (hx : KeepsEngine h x) (w : Who) (f : Thread → Thread) : KeepsEngine h (x.updThread w f) :=
  hx.updCore w.core (by intro _; rfl)

/-- A cause of interrupt. -/
theorem KeepsEngine.raiseIpend (hx : KeepsEngine h x) (c : CoreId) (t : Fin 4) (bit : Nat) : KeepsEngine h (x.raiseIpend c t bit) :=
  hx.updThread ..

/-- The stillness count of a core. -/
theorem KeepsEngine.noted (hx : KeepsEngine h x) (c : Nat) : KeepsEngine h (x.noted c) :=
  hx.updCore c (fun k => k.engine_noted _)

/-- A stalled instruction completes. -/
theorem KeepsEngine.release (hx : KeepsEngine h x) (w : Who) (n : Nat) : KeepsEngine h (x.release w n) :=
  (hx.updThread w _).noted _

/-- A change of something other than cores. -/
theorem KeepsEngine.cores (hx : KeepsEngine h x) (hc : y.cores = x.cores) (hd : y.coreDef = x.coreDef) : KeepsEngine h y := by
  refine ⟨fun c => ?_⟩
  rw [Hw.core_congr hc hd]
  exact hx.core c

/-- Steps one after the other. -/
theorem KeepsEngine.foldl {α : Type} {f : Hw → α → Hw} (hf : ∀ h a, KeepsEngine h (f h a)) (l : List α) (h : Hw) :
    KeepsEngine h (l.foldl f h) := by
  induction l generalizing h with
  | nil => exact .refl h
  | cons a l ih => exact (hf h a).trans (ih _)

/-- The thaw of a core holds back the timeout of a cut. -/
theorem keepsEngine_heldCut (c : CoreId) (n : Nat) (h : Hw) : KeepsEngine h (h.heldCut c n) := by
  have hrefl := KeepsEngine.refl h
  unfold Hw.heldCut
  dsimp only
  split
  · split <;> exact hrefl.cores rfl rfl
  · exact hrefl

/-- A freeze takes hold. -/
theorem keepsEngine_freezeFrom (n : Nat) (c : Option CoreId) (h : Hw) : KeepsEngine h (h.freezeFrom n c) := by
  cases c with
  | none => exact ((KeepsEngine.refl h).updAllCores (f := (·.freeze n)) (fun _ => rfl)).cores rfl rfl
  | some c => exact (KeepsEngine.refl h).updCore c (f := (·.freeze n)) (fun _ => rfl)

/-- Held traffic and the held Layout engine are no cores. -/
theorem keepsEngine_heldTraffic (thaws : CoreId → Bool) (n : Nat) (h : Hw) : KeepsEngine h (h.heldTraffic thaws n) :=
  (KeepsEngine.refl h).cores rfl rfl

/-- As `keepsEngine_heldTraffic`, of the Layout engine. -/
theorem keepsEngine_heldEngine (n : Nat) (h : Hw) : KeepsEngine h (h.heldEngine n) := (KeepsEngine.refl h).cores rfl rfl

/-- A thaw takes hold. -/
theorem keepsEngine_thawFrom (n : Nat) (c : Option CoreId) (h : Hw) : KeepsEngine h (h.thawFrom n c) := by
  cases c with
  | none =>
    exact (((keepsEngine_heldTraffic ..).trans (keepsEngine_heldEngine ..)).updAllCores (fun k => k.engine_thaw n)).cores rfl rfl
  | some c => exact ((keepsEngine_heldTraffic ..).trans (keepsEngine_heldCut ..)).updCore c (fun k => k.engine_thaw n)

/-- An effect of a later cycle takes hold. -/
theorem keepsEngine_applyLater (e : Later) (h : Hw) : KeepsEngine h (h.applyLater e) := by
  have hrefl := KeepsEngine.refl h
  cases e <;> simp only [Hw.applyLater]
  case events w mask => exact hrefl.updThread ..
  case cause w bit => exact hrefl.raiseIpend ..
  case halted wd bit =>
    refine KeepsEngine.raiseIpend (hrefl.updCore wd fun k => ?_) ..
    rfl
  case stilled wd bit =>
    refine KeepsEngine.raiseIpend (hrefl.updCore wd fun k => ?_) ..
    rfl
  case dropIn c src off =>
    refine KeepsEngine.raiseIpend (hrefl.updCore c fun k => ?_) ..
    split <;> exact Core.engine_congr rfl rfl
  case dropOut c addr =>
    refine KeepsEngine.raiseIpend (hrefl.updCore c fun k => ?_) ..
    split <;> exact Core.engine_congr rfl rfl
  case xresult w r ev =>
    have hres := (hrefl.updThread w (fun th => { th with xres := th.xres ++ [r], xoutstanding := th.xoutstanding - 1 })).noted w.core
    cases ev with
    | none => exact hres
    | some k => exact hres.updThread ..
  case lockFree c l => exact hrefl.updCore c (f := (·.lockNotice l)) (fun _ => rfl)
  case trel c v => exact hrefl.updCore c (fun k => k.engine_trel _ _)
  case windows c ws => exact hrefl.updCore c (f := fun k => { k with winActive := ws }) (fun _ => rfl)
  case purlinRead v => exact hrefl.cores rfl rfl
  case extClear w => exact (hrefl.updThread w _).cores rfl rfl
  case source n => exact hrefl.cores rfl rfl
  case performed w => exact hrefl.updThread ..
  case freeze c => exact keepsEngine_freezeFrom ..
  case thaw c => exact keepsEngine_thawFrom ..
  case edge i => split <;> exact hrefl.cores rfl rfl
  case stop w =>
    split_ifs
    · exact hrefl.cores rfl rfl
    · exact (hrefl.updCore _ (fun k => k.engine_stopThread _)).noted _
    · exact hrefl.cores rfl rfl
  case load w bs =>
    split
    · split
      · exact hrefl.cores rfl rfl
      · refine KeepsEngine.release (KeepsEngine.updCore (hrefl.updThread ..) _ fun k => ?_) ..
        rfl
    · exact hrefl

/-- The effects of the cycles before a clock value take hold. -/
theorem keepsEngine_settleTo (t : Nat) (h : Hw) : KeepsEngine h (h.settleTo t) := by
  refine KeepsEngine.trans (x := { h with later := h.later.drop (h.later.takeWhile (fun e => decide (e.1 < t))).length }) ?_ ?_
  · exact (KeepsEngine.refl h).cores rfl rfl
  · refine KeepsEngine.foldl (fun h e => ?_) _ _
    exact KeepsEngine.trans (x := { h with clock := max h.clock e.1 }) ((KeepsEngine.refl h).cores rfl rfl) (keepsEngine_applyLater ..)

/-- Time runs on. -/
theorem keepsEngine_reach (t : Nat) (h : Hw) : KeepsEngine h (h.reach t) := by
  unfold Hw.reach
  split
  · exact .refl h
  · exact ((keepsEngine_settleTo t h).trans (keepsEngine_settleTo t _)).cores rfl rfl

end

/-! ### What the engines that catch up leave of it -/

section
variable (k : Core)

/-- A line leaves the cache. -/
theorem Core.engine_evict (key : Nat) (data : List Byte) (mask : BitVec 64) : (k.evict key data mask).engine = k.engine := rfl

/-- A set of a CINV walk. -/
theorem Core.engine_cinvSet (v : Cinv) : (k.cinvSet v).engine = k.engine := by
  have hfold : ∀ (l : List CLine) (k : Core), (l.foldl (fun k l => k.evict l.key l.data l.mask) k).engine = k.engine := by
    intro l
    induction l with
    | nil => exact fun _ => rfl
    | cons a l ih => exact fun k => ih _
  unfold Core.cinvSet
  dsimp only
  split <;> exact hfold _ k

/-- A list of steps that leave the engine. -/
theorem Core.engine_foldl {α β : Type} (core : β → Core) {f : β → α → β} (hf : ∀ b a, (core (f b a)).engine = (core b).engine) (l : List α)
    (b : β) : (core (l.foldl f b)).engine = (core b).engine := by
  induction l generalizing b with
  | nil => rfl
  | cons a l ih => exact (ih _).trans (hf b a)

/-- A CINV walk. -/
theorem Core.engine_cinvTo (cyc : Nat) : (k.cinvTo cyc).engine = k.engine := by
  refine Core.engine_foldl id (fun k _ => ?_) _ k
  dsimp only [id]
  split
  · split
    · exact Core.engine_cinvSet ..
    · rfl
  · rfl

/-- A row that a drain writes. -/
theorem Core.engine_drainWrite (d : DrainRun) : (k.drainWrite d).1.engine = k.engine := by
  unfold Core.drainWrite
  split <;> rfl

/-- The rows of a drain. -/
theorem Core.engine_drainOne (side cyc : Nat) (d : DrainRun) : (k.drainOne side cyc d).1.engine = k.engine := by
  unfold Core.drainOne
  refine (Core.engine_foldl (β := Core × DrainRun) Prod.fst (fun x _ => Core.engine_drainWrite ..) _ _).trans ?_
  exact Core.engine_foldl (β := Core × DrainRun) Prod.fst (f := fun x _ => x.1.drainRead side x.2) (fun _ _ => rfl) _ _

/-- The drains of a core. -/
theorem Core.engine_drainTo (side cyc : Nat) : (k.drainTo side cyc).engine = k.engine := by
  refine Core.engine_foldl id (fun k d => ?_) k.drains { k with drains := [] }
  dsimp only [id]
  split <;> exact Core.engine_drainOne ..

/-- The stall counter of a stream's tenon. -/
theorem Core.engine_streamStalls : k.streamStalls.engine = k.engine := by
  unfold Core.streamStalls
  split
  · rfl
  · split
    · rfl
    · exact Core.engine_unstall ..

end

section
variable {h x : Hw}

/-- A posted flit changes no core. -/
theorem KeepsEngine.post (hx : KeepsEngine h x) (src dst : Nat) (vc : Fin 4) (n : Nat) : KeepsEngine h (x.post src dst vc n).2 := by
  obtain ⟨i, fs, heq⟩ := x.post_eq src dst vc n
  rw [heq]
  exact hx.cores rfl rfl

/-- A tuple is sent. -/
theorem keepsEngine_sendTuple (c : CoreId) (t : Fin 4) (n : Fin 16) (words : List W64) (tag : BitVec 6) (stream : Bool) (now : Nat)
    (h : Hw) : KeepsEngine h (h.sendTuple c t n words tag stream now) := by
  have hten : KeepsEngine h (h.updCore c (·.updTenon n (fun x => { x with credits := x.credits - 1 }))) :=
    (KeepsEngine.refl h).updCore c (fun _ => rfl)
  unfold Hw.sendTuple
  dsimp only
  split
  · refine KeepsEngine.cores (KeepsEngine.post (KeepsEngine.updThread (hten.updCore c fun k => ?_) _ _) _ _ _ _) rfl rfl
    rfl
  · exact ((hten.updThread _ _).post _ _ _ _).cores rfl rfl

/-- A tuple of the stream is complete. -/
theorem keepsEngine_streamStep (c : CoreId) (cyc : Nat) (h : Hw) : KeepsEngine h (h.streamStep c cyc) := by
  unfold Hw.streamStep
  split
  · exact .refl h
  · split
    · exact ((KeepsEngine.updCore (.refl h) c (f := fun k => { k with stream := none }) (fun _ => rfl)).updThread _ _).noted _
    · exact KeepsEngine.updCore (.refl h) c (fun _ => rfl)

/-- What the stream unit does next. -/
theorem keepsEngine_streamNext {c : CoreId} {cyc : Nat} (hx : streamNext c cyc h = some x) : KeepsEngine h x := by
  have hstep : ∀ (f : StreamJob → StreamJob) n, KeepsEngine h ((h.updCore c (·.updStream f)).streamStep c n) := fun f n =>
    ((KeepsEngine.refl h).updCore c (f := (·.updStream f)) (fun _ => rfl)).trans (keepsEngine_streamStep ..)
  have hsend : ∀ (f : StreamJob → StreamJob) t n words tag now at_,
      KeepsEngine h (((h.updCore c (·.updStream f)).sendTuple c t n words tag true now).streamStep c at_) := fun f t n words tag now at_ =>
    (((KeepsEngine.refl h).updCore c (f := (·.updStream f)) (fun _ => rfl)).trans (keepsEngine_sendTuple ..)).trans
      (keepsEngine_streamStep ..)
  unfold streamNext at hx
  dsimp only at hx
  split at hx
  · nomatch hx
  · split at hx
    · split at hx
      · nomatch hx
      · split at hx
        · split at hx
          · nomatch hx
          · exact Option.some.inj hx ▸ hsend ..
        · exact Option.some.inj hx ▸ hsend ..
    · split at hx
      · nomatch hx
      · split at hx
        · nomatch hx
        · exact Option.some.inj hx ▸ hstep ..

/-- All that it does. -/
theorem keepsEngine_streamRun (c : CoreId) (cyc fuel : Nat) (h : Hw) : KeepsEngine h (streamRun c cyc fuel h) := by
  induction fuel generalizing h with
  | zero => exact .refl h
  | succ fuel ih =>
    rw [streamRun]
    split
    case h_1 x hx => exact (keepsEngine_streamNext hx).trans (ih x)
    case h_2 => exact .refl h

/-- The stream unit runs to a CYCLE value. -/
theorem keepsEngine_stream (c : CoreId) (cyc : Nat) (h : Hw) : KeepsEngine h (h.stream c cyc) := by
  unfold Hw.stream
  split
  · exact .refl h
  · exact ((keepsEngine_streamRun ..).updCore _ Core.engine_streamStalls).noted _

/-- The engines of a core catch up. -/
theorem keepsEngine_caughtUp (c : CoreId) (h : Hw) : KeepsEngine h (h.caughtUp c) := by
  have hcinv : KeepsEngine h (if (h.core c).cinv.isNone then h else h.updCore c (·.cinvTo (h.cycle c - 1))) := by
    split
    · exact .refl h
    · exact (KeepsEngine.refl h).updCore c (fun k => k.engine_cinvTo _)
  have hdrain : ∀ x, KeepsEngine h x →
      KeepsEngine h (if (h.core c).drains.isEmpty then x else x.updCore c (·.drainTo (arraySide c) (h.cycle c))) := fun x hx => by
    split
    · exact hx
    · exact hx.updCore c (fun k => k.engine_drainTo _ _)
  unfold Hw.caughtUp
  dsimp only
  split
  · exact hdrain _ hcinv
  · exact (hdrain _ hcinv).trans (keepsEngine_stream ..)

/-- An event of a core's hardware finds the engines as they stood. -/
theorem keepsEngine_coreEvent (c : CoreId) (cyc : Nat) (h : Hw) : KeepsEngine h (h.coreEvent c cyc) :=
  ((keepsEngine_reach _ h).cores (y := h.eventCycle c cyc) rfl rfl).trans (keepsEngine_caughtUp ..)

end

end Sys2Proof.Machine

namespace Sys2Proof.Machine

/-! ### The first element that satisfies a test -/

section
variable {α : Type} {p : α → Bool} {f : α → α} {a : α}

/-- Its replacement leaves the number of elements. -/
theorem length_updFirst (p : α → Bool) (f : α → α) (l : List α) : (updFirst p f l).length = l.length := by
  induction l with
  | nil => rfl
  | cons x xs ih =>
    rw [updFirst]
    split
    · rfl
    · rw [List.length_cons, List.length_cons, ih]

/-- What replaces it is an element. -/
theorem mem_updFirst {l : List α} (ha : l.find? p = some a) : f a ∈ updFirst p f l := by
  induction l with
  | nil => nomatch ha
  | cons x xs ih =>
    rw [updFirst]
    rw [List.find?_cons] at ha
    split at ha
    case h_1 hx =>
      rw [hx, if_pos rfl, Option.some.inj ha]
      exact List.mem_cons_self
    case h_2 hx =>
      rw [hx, if_neg Bool.false_ne_true]
      exact List.mem_cons_of_mem _ (ih ha)

end

/-- The greatest of a list is no less than any of its elements. -/
theorem le_foldl_max {l : List Nat} {n x : Nat} (hx : x ∈ l ∨ x ≤ n) : x ≤ l.foldl max n := by
  induction l generalizing n with
  | nil => simpa using hx
  | cons y ys ih =>
    refine ih ?_
    simp only [List.mem_cons] at hx
    rcases hx with (rfl | hx) | hx
    · exact .inr (Nat.le_max_right ..)
    · exact .inl hx
    · exact .inr (Nat.le_trans hx (Nat.le_max_left ..))

/-! ### Releases where none waits (R126) -/

/-- Where no OUT to TREL is stalled, none completes. -/
theorem Hw.trelRun_idle {h : Hw} {c : CoreId} (hn : ∀ t : Fin 4, (h.core c).trelWait[t] = none) : h.trelRun c = h := by
  unfold Hw.trelRun
  induction List.finRange 4 with
  | nil => rfl
  | cons t ts ih => simpa only [List.foldl_cons, hn t] using ih

/-- A freed tile of a core. -/
theorem Core.lt_tileFree_freeTile (k : Core) (t : Fin 8) (cyc : Nat) : cyc < (k.freeTile t cyc).tileFree[t] := by
  simp [Core.freeTile]

/-- Freeing a tile brings no other forward. -/
theorem Core.tileFree_le_freeTile (k : Core) (t u : Fin 8) (cyc : Nat) : k.tileFree[u] ≤ (k.freeTile t cyc).tileFree[u] := by
  by_cases hu : u = t
  · simp [Core.freeTile, hu]
  · have hne : t.val ≠ u.val := fun h => hu (Fin.ext h.symm)
    simp [Core.freeTile, Vector.getElem_set_ne, hne]

/-- The stillness count frees no tile. -/
theorem Core.tileFree_noted (k : Core) (n : Nat) : (k.noted n).tileFree = k.tileFree := by
  unfold Core.noted
  dsimp only
  split <;> rfl

/-- The stillness count leaves the array. -/
theorem Core.arrayFrom_noted (k : Core) (n : Nat) : (k.noted n).arrayFrom = k.arrayFrom := by
  unfold Core.noted
  dsimp only
  split <;> rfl

/-! ### The stages (R52 to R60) -/

/-- Of core `k`, `l` has moved the oldest instruction of a stage to another, and has changed nothing else but what a stage frees. -/
structure Staged (p : MatStage → Bool) (st : MatStage) (k l : Core) : Prop where
  mat : l.mat = (k.stageJob p st).mat
  rest : { l with mat := k.mat, arrayFrom := k.arrayFrom, tileFree := k.tileFree, still := k.still, stillFrom := k.stillFrom } = k

section
variable {p : MatStage → Bool} {st : MatStage} {k l : Core}

/-- The stage's move alone. -/
theorem staged_stageJob (p : MatStage → Bool) (st : MatStage) (k : Core) : Staged p st k (k.stageJob p st) := ⟨rfl, rfl⟩

/-- A tile is freed. -/
theorem Staged.freeTile (hl : Staged p st k l) (t : Fin 8) (cyc : Nat) : Staged p st k (l.freeTile t cyc) := ⟨hl.mat, hl.rest⟩

/-- The array is freed. -/
theorem Staged.arrayFrom (hl : Staged p st k l) (n : Nat) : Staged p st k { l with arrayFrom := n } := ⟨hl.mat, hl.rest⟩

/-- The stillness count is noted. -/
theorem Staged.noted (hl : Staged p st k l) (n : Nat) : Staged p st k (l.noted n) := by
  unfold Core.noted
  dsimp only
  split
  · exact ⟨hl.mat, hl.rest⟩
  · exact ⟨hl.mat, hl.rest⟩

end

/-- An engine event of a core that is not frozen. -/
theorem unfrozen_eq {c : CoreId} {h : Hw} (hf : (h.core c).frozenAt = none) (f : Core → Hw → Hw) : unfrozen c f h = f (h.core c) h := by
  rw [unfrozen, hf]
  rfl

/-- CYCLE in which the stationary load of an instruction begins at the earliest: after its acceptance and the load before it, and with
both buffers in use once the array is free. -/
def loadFrom (k : Core) (j : MatJob) : Nat :=
  max (max (j.stage.time + 1) (((k.mat.filter (·.stage.isLoaded)).map (fun j => j.stage.time + 1)).foldl max 0))
    (if (k.mat.filter (fun j => j.stage.isLoading || j.stage.isLoaded || j.stage.isComputing)).length = 1 then k.arrayFrom else 0)

section
variable {c : CoreId} {h : Hw} {j : MatJob}

/-- The start of a stationary load (R59). -/
theorem stationaryLoadStart_eq (hf : (h.core c).frozenAt = none) (hj : (h.core c).jobAt MatStage.isAccepted = some j)
    (hroom : ((h.core c).mat.filter (fun j => j.stage.isLoading || j.stage.isLoaded || j.stage.isComputing)).length < 2)
    (hnone : (h.core c).jobAt MatStage.isLoading = none) :
    stationaryLoadStart c h = (h.reachCycle c (loadFrom (h.core c) j)).updCore c (·.stageJob MatStage.isAccepted
      (.loading ((h.reachCycle c (loadFrom (h.core c) j)).cycle c + j.loadCycles - 1))) := by
  rw [stationaryLoadStart, unfrozen_eq hf]
  simp only [hj, hnone, Option.isNone_none, and_true, if_pos hroom]
  rfl

/-- The tiles that the end of a stationary load frees. -/
def Core.freeLoaded (k : Core) (j : MatJob) (cyc : Nat) : Core :=
  (j.tm.map (fun t => (k.freeTile j.tb cyc).freeTile t cyc)).getD (k.freeTile j.tb cyc)

/-- The end of a stationary load (R54, R59). -/
theorem stationaryLoadEnd_eq (hf : (h.core c).frozenAt = none) (hj : (h.core c).jobAt MatStage.isLoading = some j) :
    stationaryLoadEnd c h = ((h.coreEvent c j.stage.time).updCore c (fun k =>
      (k.stageJob MatStage.isLoading (.loaded ((h.coreEvent c j.stage.time).cycle c))).freeLoaded j
        ((h.coreEvent c j.stage.time).cycle c))).trelRun c := by
  rw [stationaryLoadEnd, unfrozen_eq hf]
  simp only [hj]
  rfl

/-- The start of a computation (R60). -/
theorem matrixComputeStart_eq (hf : (h.core c).frozenAt = none) (hj : (h.core c).jobAt MatStage.isLoaded = some j)
    (hnone : (h.core c).jobAt MatStage.isComputing = none) :
    matrixComputeStart c h = (h.reachCycle c (max (j.stage.time + 1) (h.core c).arrayFrom)).updCore c (·.stageJob MatStage.isLoaded
      (.computing ((h.reachCycle c (max (j.stage.time + 1) (h.core c).arrayFrom)).cycle c + j.cycles - 1))) := by
  rw [matrixComputeStart, unfrozen_eq hf]
  simp only [hj, hnone, Option.isNone_none, if_true]

/-- The end of a computation (R54, R60). -/
theorem matrixComputeEnd_eq (hf : (h.core c).frozenAt = none) (hj : (h.core c).jobAt MatStage.isComputing = some j) :
    matrixComputeEnd c h = (((h.coreEvent c j.stage.time).updCore c (fun k =>
      { ((k.stageJob MatStage.isComputing (.updating ((h.coreEvent c j.stage.time).cycle c + byKind c 14 10 8))).freeTile j.ta
          ((h.coreEvent c j.stage.time).cycle c)) with arrayFrom := (h.coreEvent c j.stage.time).cycle c + 1 })).trelRun c).noted c := by
  rw [matrixComputeEnd, unfrozen_eq hf]
  simp only [hj]

end

section
variable {p : MatStage → Bool} {st : MatStage} {k l : Core} {j : MatJob} {cyc : Nat}

/-- The tiles of a stationary load are freed. -/
theorem Staged.freeLoaded (hl : Staged p st k l) (j : MatJob) (cyc : Nat) : Staged p st k (l.freeLoaded j cyc) := by
  unfold Core.freeLoaded
  cases j.tm with
  | none => exact hl.freeTile ..
  | some t => exact (hl.freeTile ..).freeTile ..

/-- The stationary and the metadata tile may be written from the next cycle (R54). -/
theorem Core.lt_tileFree_freeLoaded {t : Fin 8} (ht : t = j.tb ∨ j.tm = some t) : cyc < (k.freeLoaded j cyc).tileFree[t] := by
  unfold Core.freeLoaded
  cases htm : j.tm with
  | none =>
    obtain rfl : t = j.tb := ht.resolve_right (by simp [htm])
    exact k.lt_tileFree_freeTile ..
  | some u =>
    rcases ht with rfl | ht
    · exact Nat.lt_of_lt_of_le (k.lt_tileFree_freeTile ..) (Core.tileFree_le_freeTile ..)
    · obtain rfl : u = t := Option.some.inj (htm ▸ ht)
      exact Core.lt_tileFree_freeTile ..

/-- Nothing that a stage does releases the stalled OUTs to TREL. -/
theorem Staged.trelWait (hl : Staged p st k l) : l.trelWait = k.trelWait := (congrArg Core.trelWait hl.rest :)

end

/-- Cycles of the stationary load (R59). -/
theorem MatJob.loadCycles_eq (j : MatJob) : j.loadCycles =
    (j.opB.rows * j.opB.rbytes + 255) / 256 + (j.opM.map (fun t => (t.rows * t.rbytes + 255) / 256)).getD 0 := rfl

/-- Streaming elements a cycle of a format, and of a sparse instruction (R58). -/
theorem computeCycles_eq (code n : Nat) (sparse : Bool) : computeCycles code n sparse =
    (let rate := (match code with | 1 => 1 | 2 => 1 | 7 => 4 | 0xC => 4 | _ => 2) * (if sparse then 2 else 1)
     if code = 3 then 4 * n else (n + rate - 1) / rate) := by
  unfold computeCycles
  dsimp only
  by_cases h3 : code = 3
  · rw [if_pos h3, if_pos h3]
  · rw [if_neg h3, if_neg h3]
    cases sparse <;> simp only [Bool.false_eq_true, if_true, if_false, Nat.mul_one, Nat.mul_comm 2] <;> rfl

/-- Cycles of computation (R58). -/
theorem MatJob.cycles_eq (j : MatJob) : j.cycles =
    (let rate := (match j.opA.fmt.toNat with | 1 => 1 | 2 => 1 | 7 => 4 | 0xC => 4 | _ => 2) * (if j.tm.isSome then 2 else 1)
     if j.opA.fmt = 3 then 4 * j.opA.elems else (j.opA.elems + rate - 1) / rate) := by
  have hfp32 : (j.opA.code = 3) = (j.opA.fmt = 3) :=
    propext ⟨fun h => BitVec.eq_of_toNat_eq h, fun h => congrArg BitVec.toNat h⟩
  rw [MatJob.cycles, computeCycles_eq]
  simp only [hfp32]
  rfl

end Sys2Proof.Machine

namespace Sys2Proof.Claims

open Sys2Proof.Machine

/-! ### The stages of an accepted instruction -/

section
variable {c : CoreId} {i : Instr} {s : State} {x y : Hw} {j : MatJob} {p : MatStage → Bool} {st : MatStage} {f : Hw → Hw}

/-- A job of the engine is there still when time has passed. -/
theorem jobAt_keeps {h x : Hw} (hx : KeepsEngine h x) (c : Nat) (p : MatStage → Bool) : (x.core c).jobAt p = (h.core c).jobAt p :=
  congrArg (List.find? fun j : MatJob => p j.stage) (congrArg Prod.fst (hx.core c) : (x.core c).mat = (h.core c).mat)

/-- No OUT to TREL has been stalled since. -/
theorem trelWait_keeps {h x : Hw} (hx : KeepsEngine h x) (c : Nat) : (x.core c).trelWait = (h.core c).trelWait :=
  congrArg Prod.snd (hx.core c)

/-- A command after which the core has moved a job to another stage. -/
theorem stageMoves_of (he : exec i s = onHw (fun _ => f) s) (hy : f s.hw = y) (hkeep : KeepsEngine s.hw x)
    (hj : (s.hw.core c).jobAt p = some j) (hclock : y.clock = x.clock) (hst : Staged p st (x.core c) (y.core c)) :
    StageMoves c i s x j st := by
  refine ⟨y, by rw [he, onHw_eq, hy], ?_, ?_, hclock, hst.rest⟩
  · rw [hst.mat]
    exact length_updFirst ..
  · rw [hst.mat]
    exact mem_updFirst (f := fun j => { j with stage := st }) ((jobAt_keeps hkeep c p).trans hj)

/-- What a command does to the core of a stage alone. -/
theorem acts_of (he : exec i s = onHw (fun _ => f) s) (hy : f s.hw = y) {P : Hw → Prop} (hp : P y) : Acts i s P :=
  ⟨y, by rw [he, onHw_eq, hy], hp⟩

end

/-- A stage that no job is in. -/
theorem jobAt_none {k : Core} {p : MatStage → Bool} (hn : ∀ x ∈ k.mat, p x.stage = false) : k.jobAt p = none :=
  List.find?_eq_none.mpr fun x hx => by simp [hn x hx]

section
variable {c : CoreId} {s : State} {j : MatJob} {at_ : Nat}

/-- A load begins after the acceptance of its instruction, and after the loads before it. -/
theorem lt_loadFrom (k : Core) (j : MatJob) : j.stage.time < loadFrom k j ∧
    ∀ y ∈ k.mat, y.stage.isLoaded = true → y.stage.time < loadFrom k j := by
  constructor
  · exact Nat.lt_of_lt_of_le (Nat.lt_succ_self _) (Nat.le_trans (Nat.le_max_left ..) (Nat.le_max_left ..))
  · intro y hy hl
    have hmem : y.stage.time + 1 ∈ (k.mat.filter (·.stage.isLoaded)).map (fun j => j.stage.time + 1) :=
      List.mem_map_of_mem (f := fun j : MatJob => j.stage.time + 1) (List.mem_filter.mpr ⟨hy, hl⟩)
    exact Nat.lt_of_lt_of_le (Nat.lt_succ_self _)
      (Nat.le_trans (le_foldl_max (.inl hmem)) (Nat.le_trans (Nat.le_max_right ..) (Nat.le_max_left ..)))

/-- STATIONARY_LOAD_START. -/
theorem loadStart_moves (hf : (s.hw.core c).frozenAt = none) (hj : (s.hw.core c).jobAt MatStage.isAccepted = some j)
    (hroom : ((s.hw.core c).mat.filter (fun j => j.stage.isLoading || j.stage.isLoaded || j.stage.isComputing)).length < 2)
    (hnone : (s.hw.core c).jobAt MatStage.isLoading = none) :
    StageMoves c (.stationaryLoadStart c) s (s.hw.reachCycle c (loadFrom (s.hw.core c) j)) j
      (.loading ((s.hw.reachCycle c (loadFrom (s.hw.core c) j)).cycle c + j.loadCycles - 1)) := by
  refine stageMoves_of (p := MatStage.isAccepted) rfl (stationaryLoadStart_eq hf hj hroom hnone) (keepsEngine_reach _ _) hj rfl ?_
  rw [Hw.core_updCore_self]
  exact staged_stageJob ..

/-- STATIONARY_LOAD_END. -/
theorem loadEnd_moves (hf : (s.hw.core c).frozenAt = none) (htrel : ∀ t : Fin 4, (s.hw.core c).trelWait[t] = none)
    (hj : (s.hw.core c).jobAt MatStage.isLoading = some j) :
    let x := s.hw.coreEvent c j.stage.time
    StageMoves c (.stationaryLoadEnd c) s x j (.loaded (x.cycle c)) ∧
    Acts (.stationaryLoadEnd c) s (fun h => ∀ t, t = j.tb ∨ j.tm = some t → x.cycle c < (h.core c).tileFree[t]) := by
  intro x
  have hkeep : KeepsEngine s.hw x := keepsEngine_coreEvent ..
  have hst : Staged MatStage.isLoading (.loaded (x.cycle c)) (x.core c)
      (((x.core c).stageJob MatStage.isLoading (.loaded (x.cycle c))).freeLoaded j (x.cycle c)) := (staged_stageJob ..).freeLoaded ..
  have heq := stationaryLoadEnd_eq hf hj
  rw [Hw.trelRun_idle fun t => by rw [Hw.core_updCore_self, hst.trelWait, trelWait_keeps hkeep]; exact htrel t] at heq
  refine ⟨stageMoves_of rfl heq hkeep hj rfl ?_, acts_of rfl heq fun t ht => ?_⟩
  · rw [Hw.core_updCore_self]
    exact hst
  · rw [Hw.core_updCore_self]
    exact Core.lt_tileFree_freeLoaded ht

/-- MATRIX_COMPUTE_START. -/
theorem computeStart_moves (hf : (s.hw.core c).frozenAt = none) (hj : (s.hw.core c).jobAt MatStage.isLoaded = some j)
    (hnone : (s.hw.core c).jobAt MatStage.isComputing = none) :
    let x := s.hw.reachCycle c (max (j.stage.time + 1) (s.hw.core c).arrayFrom)
    StageMoves c (.matrixComputeStart c) s x j (.computing (x.cycle c + j.cycles - 1)) := by
  intro x
  refine stageMoves_of (p := MatStage.isLoaded) rfl (matrixComputeStart_eq hf hj hnone) (keepsEngine_reach _ _) hj rfl ?_
  rw [Hw.core_updCore_self]
  exact staged_stageJob ..

/-- MATRIX_COMPUTE_END. -/
theorem computeEnd_moves (hf : (s.hw.core c).frozenAt = none) (htrel : ∀ t : Fin 4, (s.hw.core c).trelWait[t] = none)
    (hj : (s.hw.core c).jobAt MatStage.isComputing = some j) :
    let x := s.hw.coreEvent c j.stage.time
    StageMoves c (.matrixComputeEnd c) s x j (.updating (x.cycle c + byKind c 14 10 8)) ∧
    Acts (.matrixComputeEnd c) s (fun h => x.cycle c < (h.core c).tileFree[j.ta] ∧ (h.core c).arrayFrom = x.cycle c + 1) := by
  intro x
  have hkeep : KeepsEngine s.hw x := keepsEngine_coreEvent ..
  have hst := ((staged_stageJob MatStage.isComputing (.updating (x.cycle c + byKind c 14 10 8)) (x.core c)).freeTile j.ta
    (x.cycle c)).arrayFrom (x.cycle c + 1)
  have heq := matrixComputeEnd_eq hf hj
  rw [Hw.trelRun_idle fun t => by rw [Hw.core_updCore_self, hst.trelWait, trelWait_keeps hkeep]; exact htrel t] at heq
  refine ⟨stageMoves_of rfl heq hkeep hj rfl ?_, acts_of rfl heq ?_⟩
  · rw [Hw.noted, Hw.core_updCore_self, Hw.core_updCore_self]
    exact hst.noted _
  · rw [Hw.noted, Hw.core_updCore_self, Hw.core_updCore_self]
    rw [Core.tileFree_noted, Core.arrayFrom_noted]
    exact ⟨Core.lt_tileFree_freeTile .., rfl⟩

end

/-- The four stages. -/
theorem stagesFollow : StagesFollow := by
  intro c j at_ s k lines buffers rate takes hf htrel
  refine ⟨fun hj hst hroom hload => ?_, fun hj hst => ?_, fun hj hst hcomp => ?_, fun hj hst => ?_⟩
  all_goals have htime : j.stage.time = at_ := by rw [hst]; rfl
  · obtain ⟨hafter, hloads⟩ := lt_loadFrom k j
    refine ⟨loadFrom k j, htime ▸ hafter, hloads, fun hone => ?_, loadStart_moves hf hj hroom (jobAt_none hload)⟩
    exact Nat.le_trans (Nat.le_of_eq (if_pos hone).symm) (Nat.le_max_right ..)
  · rw [← htime]
    exact loadEnd_moves hf htrel hj
  · rw [← htime]
    have := computeStart_moves hf hj (jobAt_none hcomp)
    rwa [j.cycles_eq] at this
  · have := computeEnd_moves hf htrel hj
    rwa [byKind_eq, htime] at this

end Sys2Proof.Claims

namespace Sys2Proof.Machine

/-! ### The MSYNCs that an update ends (R48) -/

/-- A core with the threads and the stillness count of another. -/
def Core.withThreadsOf (l k : Core) : Core := { l with threads := k.threads, still := k.still, stillFrom := k.stillFrom }

/-- Of `h`, `x` has changed the threads of core `c`, and of the rest at most its stillness count. -/
structure Synced (c : CoreId) (h x : Hw) : Prop where
  rest : (x.core c).withThreadsOf (h.core c) = h.core c
  clock : x.clock = h.clock
  bent : ∀ b, x.bent b = h.bent b

/-- The thread whose stalled MSYNC completes in a cycle (R48, R157, R205). -/
def Thread.synced (th : Thread) (cyc : Nat) : Thread :=
  if th.tstate = .halted then { th with pc := th.pc + 4, stall := none } else th.finish 1 (max th.nextIssue (cyc + 1))

/-- The MSYNC of a thread that is in one and waits for no instruction completes; `Hw.syncs` does this for each thread. -/
def Hw.syncOne (c : CoreId) (h : Hw) (t : Fin 4) : Hw :=
  if ((h.core c).thread t).stall = some .msync ∧ !(h.core c).matPends ((h.core c).thread t).stallOn then h.release ⟨c, t⟩ 1 else h

/-- The threads are gone through in their order. -/
theorem Hw.syncs_eq (h : Hw) (c : CoreId) : h.syncs c = (List.finRange 4).foldl (Hw.syncOne c) h := rfl

section
variable {c : CoreId} {h x y : Hw} {t u : Fin 4}

/-- No MSYNC has completed. -/
theorem Synced.refl (c : CoreId) (h : Hw) : Synced c h h := ⟨rfl, rfl, fun _ => rfl⟩

/-- One after the other. -/
theorem Synced.trans (hx : Synced c h x) (hy : Synced c x y) : Synced c h y := by
  refine ⟨?_, hy.clock.trans hx.clock, fun b => (hy.bent b).trans (hx.bent b)⟩
  exact (congrArg (·.withThreadsOf (h.core c)) hy.rest :).trans hx.rest

/-- The engine keeps its instructions. -/
theorem Synced.mat (hx : Synced c h x) : (x.core c).mat = (h.core c).mat := (congrArg Core.mat hx.rest :)

/-- No cycle passes. -/
theorem Synced.cycle (hx : Synced c h x) : x.cycle c = h.cycle c := by
  have hfrozen : (x.core c).frozenAt = (h.core c).frozenAt := (congrArg Core.frozenAt hx.rest :)
  have hcyc0 : (x.core c).cyc0 = (h.core c).cyc0 := (congrArg Core.cyc0 hx.rest :)
  rw [Hw.cycle, Hw.cycle, hfrozen, hcyc0, hx.clock]

/-- The stillness count is noted. -/
theorem Core.rest_noted (k : Core) (n : Nat) : { k.noted n with still := k.still, stillFrom := k.stillFrom } = k := by
  unfold Core.noted
  dsimp only
  split <;> rfl

/-- A stalled instruction of a thread of the core completes. -/
theorem synced_release (c : CoreId) (t : Fin 4) (n : Nat) (h : Hw) : Synced c h (h.release ⟨c, t⟩ n) := by
  refine ⟨?_, rfl, fun _ => rfl⟩
  rw [Hw.release, Hw.noted, Hw.core_updCore_self, Hw.updThread, Hw.core_updCore_self]
  exact (congrArg (·.withThreadsOf (h.core c)) (Core.rest_noted ..) :)

/-- Its thread, where it had one word. -/
theorem Hw.thread_release_self (c : CoreId) (t : Fin 4) (h : Hw) :
    ((h.release ⟨c, t⟩ 1).core c).thread t = ((h.core c).thread t).synced (h.cycle c) := by
  rw [Hw.release, Hw.noted, Hw.core_updCore_self, Core.thread_noted, Hw.updThread, Hw.core_updCore_self, Core.thread_updThread_self]
  rfl

/-- Another thread. -/
theorem Hw.thread_release_ne (hu : u ≠ t) (n : Nat) (h : Hw) :
    ((h.release ⟨c, t⟩ n).core c).thread u = (h.core c).thread u := by
  rw [Hw.release, Hw.noted, Hw.core_updCore_self, Core.thread_noted, Hw.updThread, Hw.core_updCore_self, Core.thread_updThread_ne _ hu]

/-- The MSYNC of one thread. -/
theorem synced_syncOne (c : CoreId) (h : Hw) (t : Fin 4) : Synced c h (h.syncOne c t) := by
  unfold Hw.syncOne
  split
  · exact synced_release ..
  · exact .refl ..

/-- The MSYNC of one thread leaves the others. -/
theorem Hw.thread_syncOne_ne (hu : u ≠ t) (h : Hw) : ((h.syncOne c t).core c).thread u = (h.core c).thread u := by
  unfold Hw.syncOne
  split
  · exact Hw.thread_release_ne hu ..
  · rfl

/-- The MSYNCs of several threads. -/
theorem synced_foldl (c : CoreId) (l : List (Fin 4)) (h : Hw) : Synced c h (l.foldl (Hw.syncOne c) h) := by
  induction l generalizing h with
  | nil => exact .refl ..
  | cons t l ih => exact (synced_syncOne ..).trans (ih _)

/-- The completed MSYNCs leave all else. -/
theorem synced_syncs (c : CoreId) (h : Hw) : Synced c h (h.syncs c) := synced_foldl ..

/-- The threads not gone through stand as they stood. -/
theorem Hw.thread_foldl_syncOne_of_not_mem {l : List (Fin 4)} (ht : t ∉ l) (h : Hw) :
    ((l.foldl (Hw.syncOne c) h).core c).thread t = (h.core c).thread t := by
  induction l generalizing h with
  | nil => rfl
  | cons u l ih =>
    rw [List.mem_cons, not_or] at ht
    rw [List.foldl_cons, ih ht.2, Hw.thread_syncOne_ne ht.1]

/-- The thread in an MSYNC, after all were gone through. -/
theorem Hw.thread_syncs (hs : ((h.core c).thread t).stall = some .msync) : ((h.syncs c).core c).thread t =
    if (h.core c).matPends ((h.core c).thread t).stallOn then (h.core c).thread t else ((h.core c).thread t).synced (h.cycle c) := by
  obtain ⟨l, r, hl⟩ := List.append_of_mem (List.mem_finRange t)
  have hnd := hl ▸ List.nodup_finRange 4
  have hlt : t ∉ l := fun hm => (List.nodup_append.mp hnd).2.2 t hm t List.mem_cons_self rfl
  have hrt : t ∉ r := (List.nodup_cons.mp (List.nodup_append.mp hnd).2.1).1
  have hkept := synced_foldl c l h
  have hth := Hw.thread_foldl_syncOne_of_not_mem (c := c) hlt h
  have hpend : ∀ n, ((l.foldl (Hw.syncOne c) h).core c).matPends n = (h.core c).matPends n := fun n => by
    rw [Core.matPends, Core.matPends, hkept.mat]
  rw [Hw.syncs_eq, hl, List.foldl_append, List.foldl_cons, Hw.thread_foldl_syncOne_of_not_mem hrt, Hw.syncOne, hth, hpend]
  cases hp : (h.core c).matPends ((h.core c).thread t).stallOn with
  | true => rw [if_neg (by simp), if_pos rfl, hth]
  | false => rw [if_pos ⟨hs, rfl⟩, if_neg (by decide), Hw.thread_release_self, hth, hkept.cycle]

end

/-- An MSYNC of a running thread has completed: the thread is in no stall, PC stands behind it, and it issues from the next cycle. -/
theorem Thread.synced_running {th : Thread} (hr : th.tstate = .running) (cyc : Nat) :
    (th.synced cyc).stall = none ∧ (th.synced cyc).pc = th.pc + 4 ∧ cyc < (th.synced cyc).nextIssue := by
  rw [Thread.synced, if_neg (by rw [hr]; decide)]
  refine ⟨Thread.stall_finish .., Thread.pc_finish .., ?_⟩
  have hnext : (th.finish 1 (max th.nextIssue (cyc + 1))).nextIssue = max th.nextIssue (cyc + 1) := by
    unfold Thread.finish Thread.boundary
    split <;> rfl
  rw [hnext]
  exact Nat.lt_of_lt_of_le (Nat.lt_succ_self _) (Nat.le_max_right ..)

/-! ### The update (R34, R48, R60, R63) -/

/-- An instruction's products are in its group, and its work units are counted. -/
def Core.updated (k : Core) (side : Nat) (j : MatJob) (cyc : Nat) : Core :=
  { k.freeGroup j.g cyc with
      mat := k.mat.filter (fun x => x.serial != j.serial)
      mwork := k.mwork + BitVec.ofNat 64 j.work
      groups := k.groups.set j.g (j.update side k.groups[j.g]) }

/-- The bent's line has counted them too. -/
def Hw.updated (h : Hw) (c : CoreId) (j : MatJob) : Hw :=
  (h.updCore c (fun k => k.updated (arraySide c) j (h.cycle c))).updBent (bentOf c)
    (fun b => { b with lineTotal := b.lineTotal + BitVec.ofNat 64 j.work })

/-- A freed group may be used from the next cycle. -/
theorem Core.lt_groupFree_freeGroup (k : Core) (g : Fin 8) (cyc : Nat) : cyc < (k.freeGroup g cyc).groupFree[g] := by
  simp [Core.freeGroup]

/-- What a core with these threads or others holds after the update. -/
theorem Core.fields_updated {k l : Core} {side cyc : Nat} {j : MatJob}
    (hl : l.withThreadsOf (k.updated side j cyc) = k.updated side j cyc) :
    l.mat = k.mat.filter (fun x => x.serial != j.serial) ∧ l.mwork = k.mwork + BitVec.ofNat 64 j.work ∧
    l.groups = k.groups.set j.g (j.update side k.groups[j.g]) ∧ l.tiles = k.tiles ∧
    l.groupFree = (k.freeGroup j.g cyc).groupFree :=
  ⟨(congrArg Core.mat hl :), (congrArg Core.mwork hl :), (congrArg Core.groups hl :), (congrArg Core.tiles hl :),
    (congrArg Core.groupFree hl :)⟩

section
variable {c : CoreId} {h : Hw} {j : MatJob}

/-- The core of an update. -/
theorem Hw.core_updated (h : Hw) (c : CoreId) (j : MatJob) :
    (h.updated c j).core c = (h.core c).updated (arraySide c) j (h.cycle c) := by
  rw [Hw.updated, Hw.core_updBent, Hw.core_updCore_self]

/-- The update passes no cycle. -/
theorem Hw.cycle_updated (h : Hw) (c : CoreId) (j : MatJob) : (h.updated c j).cycle c = h.cycle c := by
  rw [Hw.cycle, Hw.core_updated]
  rfl

/-- The update of an instruction whose group no drain reads. -/
theorem matrixUpdateComplete_eq (hf : (h.core c).frozenAt = none) (hj : (h.core c).jobAt MatStage.isUpdating = some j)
    (hd : ∀ d ∈ (h.core c).drains, d.g ≠ j.g) :
    matrixUpdateComplete c h = ((h.coreEvent c j.stage.time).updated c j).syncs c := by
  have hnone : (h.core c).drains.filter (·.g == j.g) = [] := List.filter_eq_nil_iff.mpr fun d hm => by simp [hd d hm]
  rw [matrixUpdateComplete, unfrozen_eq hf]
  simp only [hj, hnone, List.foldl_nil, Nat.max_zero]
  rfl

end

end Sys2Proof.Machine

namespace Sys2Proof.Claims

open Sys2Proof.Machine

/-- The update of the oldest instruction computed, as a command. -/
theorem acts_update {c : CoreId} {s : State} {j : MatJob} {P : Hw → Prop} (hf : (s.hw.core c).frozenAt = none)
    (hj : (s.hw.core c).jobAt MatStage.isUpdating = some j) (hd : ∀ d ∈ (s.hw.core c).drains, d.g ≠ j.g)
    (hp : P (((s.hw.coreEvent c j.stage.time).updated c j).syncs c)) : Acts (.matrixUpdateComplete c) s P :=
  acts_of rfl (matrixUpdateComplete_eq hf hj hd) hp

/-- Whether an instruction other than the updated one is still to update its group. -/
theorem matPends_updated_iff (k : Core) (side : Nat) (j : MatJob) (cyc n : Nat) :
    (k.updated side j cyc).matPends n = true ↔ ∃ z ∈ k.mat, z.serial ≠ j.serial ∧ z.serial ≤ n := by
  rw [matPends_iff]
  simp [Core.updated, and_assoc]

/-- What the update leaves, `x` being the state in which it takes place. -/
theorem updated_counts (x : Hw) (c : CoreId) (j : MatJob) :
    let h := (x.updated c j).syncs c
    let y := x.core c
    (∀ z, z ∈ (h.core c).mat ↔ z ∈ y.mat ∧ z.serial ≠ j.serial) ∧ (h.core c).mwork = y.mwork + BitVec.ofNat 64 j.work ∧
    (h.bent (bentOf c)).lineTotal = (x.bent (bentOf c)).lineTotal + BitVec.ofNat 64 j.work ∧
    (∀ g, g ≠ j.g → (h.core c).groups[g] = y.groups[g]) ∧ (h.core c).tiles = y.tiles ∧ h.clock = x.clock ∧
    x.cycle c < (h.core c).groupFree[j.g] ∧
    ∀ t, (y.thread t).stall = some .msync → (y.thread t).tstate = .running →
      if ∃ z ∈ y.mat, z.serial ≠ j.serial ∧ z.serial ≤ (y.thread t).stallOn then (h.core c).thread t = y.thread t
      else ((h.core c).thread t).stall = none ∧ ((h.core c).thread t).pc = (y.thread t).pc + 4 ∧
        x.cycle c < ((h.core c).thread t).nextIssue := by
  intro h y
  have hcore := x.core_updated c j
  obtain ⟨hrest, hclock, hbent⟩ := synced_syncs c (x.updated c j)
  rw [hcore] at hrest
  obtain ⟨hmat, hmwork, hgroups, htiles, hfree⟩ := Core.fields_updated hrest
  refine ⟨fun z => by rw [hmat, List.mem_filter, bne_iff_ne], hmwork, ?_, fun g hg => ?_, htiles, hclock, ?_, fun t hs hr => ?_⟩
  · rw [hbent]
    exact congrArg Bent.lineTotal (Hw.bent_updBent_self ..)
  · have hne : j.g.val ≠ g.val := fun h => hg (Fin.ext h.symm)
    rw [hgroups]
    exact Vector.getElem_set_ne _ _ hne
  · rw [hfree]
    exact Core.lt_groupFree_freeGroup ..
  · have hsame : ((x.updated c j).core c).thread t = y.thread t := by
      rw [hcore]
      rfl
    have hth := Hw.thread_syncs (hsame.symm ▸ hs)
    rw [hsame, hcore, x.cycle_updated] at hth
    rw [hth]
    split
    case isTrue hp => rw [if_pos ((matPends_updated_iff ..).mpr hp)]
    case isFalse hp =>
      rw [if_neg (fun h => hp ((matPends_updated_iff ..).mp h))]
      exact Thread.synced_running hr _

/-- The update of an instruction. -/
theorem updatesCount : UpdatesCount := by
  intro c j at_ s k hf hj hst hd
  have htime : j.stage.time = at_ := by rw [hst]; rfl
  exact acts_update hf hj hd (htime ▸ updated_counts (s.hw.coreEvent c j.stage.time) c j)

/-- Settles O34: each stage is one move of the oldest instruction in it, and the update lets go the MSYNCs that wait for no other. -/
theorem matrixEngineStages : Obligations.MatrixEngineStages := ⟨stagesFollow, updatesCount⟩

end Sys2Proof.Claims

namespace Sys2Proof.Machine

/-! ### Products entering a group (R34, R69, R70) -/

/-- A rounded product, its class and its inexactness enter accumulator `a`. -/
def Group.enter (g : Group) (a : Nat) (d : Int × Cls × Bool) : Group :=
  { g.put a ((g.at_ a).add d.1 d.2.1).1 with inx := g.inx || d.2.2, sat := g.sat || ((g.at_ a).add d.1 d.2.1).2 }

/-- What row `p.1` of ta and row `p.2` of tb give in a window of exponent LSE. -/
def MatJob.product (j : MatJob) (lse : Int) (p : Nat × Nat) : Int × Cls × Bool :=
  dot lse j.neg (factors (j.opA.nums p.1) (j.opB.nums p.2) (j.opM.map (fun m => ofBytes (m.row_ p.2))))

/-- The pairs of a row of ta and a row of tb. -/
def MatJob.rowPairs (j : MatJob) : List (Nat × Nat) := (List.range j.opA.rows).product (List.range j.opB.rows)

/-- The rows in use. -/
theorem MatJob.mem_rowPairs {j : MatJob} {i l : Nat} : (i, l) ∈ j.rowPairs ↔ i < j.opA.rows ∧ l < j.opB.rows := by
  rw [rowPairs, List.pair_mem_product, List.mem_range, List.mem_range]

/-- Each pair once. -/
theorem MatJob.nodup_rowPairs (j : MatJob) : j.rowPairs.Nodup := List.nodup_range.product List.nodup_range

/-- A numbered list of what a function gives. -/
theorem zip_range_map {α : Type} (f : Nat → α) (n : Nat) :
    (List.range ((List.range n).map f).length).zip ((List.range n).map f) = (List.range n).map (fun i => (i, f i)) := by
  rw [List.length_map, List.length_range]
  simpa using List.zip_map' (f := id) (g := f) (l := List.range n)

/-- The update, row pair by row pair. -/
theorem MatJob.update_eq (j : MatJob) (side : Nat) (gr : Group) :
    j.update side gr = j.rowPairs.foldl (fun g p => g.enter (side * p.1 + p.2) (j.product g.exp p)) gr := by
  rw [MatJob.update]
  simp only [zip_range_map, rowPairs, List.product, List.foldl_flatMap, List.foldl_map, List.flatMap_map]
  rfl

section
variable (g : Group) (a : Nat) (d : Int × Cls × Bool)

/-- The window stands. -/
theorem Group.exp_enter : (g.enter a d).exp = g.exp := rfl

/-- The accumulator written. -/
theorem Group.at_put_self (x : Accum) : (g.put a x).at_ a = x := by
  unfold Group.at_ Group.put
  dsimp only
  split
  case isTrue hx => rw [sgetD, sget_sdel_self, hx, Option.getD_none]
  case isFalse => rw [sgetD_sset_self]

/-- Another accumulator. -/
theorem Group.at_put_ne {b : Nat} (hb : b ≠ a) (x : Accum) : (g.put a x).at_ b = g.at_ b := by
  unfold Group.at_ Group.put
  dsimp only
  split
  · rw [sgetD, sgetD, sget_sdel_ne hb]
  · rw [sgetD_sset_ne hb]

/-- The accumulator entered. -/
theorem Group.at_enter_self : (g.enter a d).at_ a = ((g.at_ a).add d.1 d.2.1).1 := g.at_put_self a _

/-- An accumulator beside it. -/
theorem Group.at_enter_ne {b : Nat} (hb : b ≠ a) : (g.enter a d).at_ b = g.at_ b := g.at_put_ne a hb _

end

/-! ### All products of an instruction -/

section
variable {α : Type} (f : α → Nat) (d : α → Int × Cls × Bool)

/-- Products enter a group one after the other. -/
def Group.enterAll (g : Group) (ps : List α) : Group := ps.foldl (fun g p => g.enter (f p) (d p)) g

variable {f d}

/-- An accumulator that none of them enters. -/
theorem Group.at_enterAll_of_ne {ps : List α} {a : Nat} (ha : ∀ p ∈ ps, a ≠ f p) (g : Group) : (g.enterAll f d ps).at_ a = g.at_ a := by
  induction ps generalizing g with
  | nil => rfl
  | cons p ps ih =>
    rw [List.forall_mem_cons] at ha
    exact (ih ha.2 _).trans (g.at_enter_ne _ _ ha.1)

/-- An accumulator that one of them enters. -/
theorem Group.at_enterAll {ps : List α} {p : α} (hnd : ps.Nodup) (hf : ∀ q ∈ ps, f p = f q → p = q) (hp : p ∈ ps) (g : Group) :
    (g.enterAll f d ps).at_ (f p) = ((g.at_ (f p)).add (d p).1 (d p).2.1).1 := by
  induction ps generalizing g with
  | nil => nomatch hp
  | cons q ps ih =>
    obtain ⟨hq, hnd⟩ := List.nodup_cons.mp hnd
    rw [List.forall_mem_cons] at hf
    rcases List.mem_cons.mp hp with rfl | hp
    · have hrest : ∀ r ∈ ps, f p ≠ f r := fun r hr h => hq (hf.2 r hr h ▸ hr)
      exact (Group.at_enterAll_of_ne hrest _).trans (g.at_enter_self ..)
    · have hne : f p ≠ f q := fun h => hq (hf.1 h ▸ hp)
      refine (ih hnd hf.2 hp _).trans ?_
      rw [g.at_enter_ne _ _ hne]

/-- A group is inexact when it was, or when one of the products was rounded (R70). -/
theorem Group.inx_enterAll (ps : List α) (g : Group) :
    (g.enterAll f d ps).inx = true ↔ g.inx = true ∨ ∃ p ∈ ps, (d p).2.2 = true := by
  induction ps generalizing g with
  | nil => simp [Group.enterAll]
  | cons p ps ih =>
    refine (ih _).trans ?_
    simp [Group.enter, or_assoc]

/-- A saturated group stays so (R70). -/
theorem Group.sat_enterAll (ps : List α) {g : Group} (hg : g.sat = true) : (g.enterAll f d ps).sat = true := by
  induction ps generalizing g with
  | nil => exact hg
  | cons p ps ih => exact ih (Bool.or_eq_true_iff.mpr (.inl hg))

/-- The window stands. -/
theorem Group.window_enterAll (ps : List α) (g : Group) :
    { g.enterAll f d ps with acc := g.acc, inx := g.inx, sat := g.sat } = g := by
  induction ps generalizing g with
  | nil => rfl
  | cons p ps ih =>
    exact (congrArg (fun x : Group => { x with acc := g.acc, inx := g.inx, sat := g.sat }) (ih (g.enter (f p) (d p))) :)

end

/-- The update: every row pair's products enter the window that the group has. -/
theorem MatJob.update_eq_enterAll (j : MatJob) (side : Nat) (gr : Group) :
    j.update side gr = gr.enterAll (fun p => side * p.1 + p.2) (j.product gr.exp) j.rowPairs := by
  have hfold : ∀ (ps : List (Nat × Nat)) (g : Group), g.exp = gr.exp →
      ps.foldl (fun g p => g.enter (side * p.1 + p.2) (j.product g.exp p)) g =
        g.enterAll (fun p => side * p.1 + p.2) (j.product gr.exp) ps := by
    intro ps
    induction ps with
    | nil => exact fun _ _ => rfl
    | cons p ps ih =>
      intro g hg
      rw [List.foldl_cons, ih _ ((g.exp_enter ..).trans hg), hg]
      rfl
  rw [j.update_eq, hfold _ _ rfl]

/-- Row pairs whose second row is below `side` have different accumulators. -/
theorem accumulator_inj {side : Nat} {p q : Nat × Nat} (hp : p.2 < side) (hq : q.2 < side)
    (h : side * p.1 + p.2 = side * q.1 + q.2) : p = q := by
  have hpos : 0 < side := Nat.lt_of_le_of_lt (Nat.zero_le _) hp
  have hdiv := congrArg (· / side) h
  have hmod := congrArg (· % side) h
  simp only [Nat.mul_add_div hpos, Nat.div_eq_of_lt hp, Nat.div_eq_of_lt hq, Nat.add_zero] at hdiv
  simp only [Nat.mul_add_mod, Nat.mod_eq_of_lt hp, Nat.mod_eq_of_lt hq] at hmod
  exact Prod.ext hdiv hmod

end Sys2Proof.Machine

namespace Sys2Proof.Claims

open Sys2Proof.Machine

/-- Rows and columns of the matrix array (R33). -/
theorem arraySide_eq (c : CoreId) : arraySide c = side c := byKind_eq ..

/-- What the update leaves in a group. -/
theorem update_products (j : MatJob) {n : Nat} (hrows : j.opB.rows ≤ n) (g : Group) :
    let g' := j.update n g
    (∀ i l, i < j.opA.rows → l < j.opB.rows → g'.at_ (n * i + l) =
      ((g.at_ (n * i + l)).add (j.product g.exp (i, l)).1 (j.product g.exp (i, l)).2.1).1) ∧
    (∀ a, (∀ i l, i < j.opA.rows → l < j.opB.rows → a ≠ n * i + l) → g'.at_ a = g.at_ a) ∧
    (g'.inx = true ↔ g.inx = true ∨ ∃ i l, i < j.opA.rows ∧ l < j.opB.rows ∧ (j.product g.exp (i, l)).2.2 = true) ∧
    (g.sat = true → g'.sat = true) ∧ { g' with acc := g.acc, inx := g.inx, sat := g.sat } = g := by
  intro g'
  have hlt : ∀ p ∈ j.rowPairs, p.2 < n := fun p hp => Nat.lt_of_lt_of_le (MatJob.mem_rowPairs.mp hp).2 hrows
  have hg' : g' = g.enterAll (fun p => n * p.1 + p.2) (j.product g.exp) j.rowPairs := j.update_eq_enterAll n g
  rw [hg']
  refine ⟨fun i l hi hl => ?_, fun a ha => ?_, ?_, Group.sat_enterAll _, Group.window_enterAll _ _⟩
  · have hmem : (i, l) ∈ j.rowPairs := MatJob.mem_rowPairs.mpr ⟨hi, hl⟩
    exact Group.at_enterAll (f := fun p : Nat × Nat => n * p.1 + p.2) j.nodup_rowPairs
      (fun q hq h => accumulator_inj (hlt _ hmem) (hlt q hq) h) hmem g
  · refine Group.at_enterAll_of_ne (fun p hp => ?_) g
    obtain ⟨hi, hl⟩ := MatJob.mem_rowPairs.mp hp
    exact ha p.1 p.2 hi hl
  · rw [Group.inx_enterAll]
    simp only [Prod.exists, MatJob.mem_rowPairs, and_assoc]

/-- The group of an updated instruction. -/
theorem group_updated (x : Hw) (c : CoreId) (j : MatJob) :
    (((x.updated c j).syncs c).core c).groups[j.g] = j.update (side c) (x.core c).groups[j.g] := by
  have hrest := (synced_syncs c (x.updated c j)).rest
  rw [x.core_updated] at hrest
  obtain ⟨-, -, hgroups, -, -⟩ := Core.fields_updated hrest
  rw [hgroups, arraySide_eq]
  exact Vector.getElem_set_self _

/-- Settles O35: row pair by row pair, no two of which have one accumulator. -/
theorem productsEnterTheirGroup : Obligations.ProductsEnterTheirGroup := by
  intro c j at_ s k hf hj hst hrows hd
  have htime : j.stage.time = at_ := by rw [hst]; rfl
  refine acts_update hf hj hd ?_
  rw [htime, group_updated]
  exact update_products j hrows _

end Sys2Proof.Claims

namespace Sys2Proof.Machine

/-! ### Second sources (R141, R145, R150, R151) -/

/-- Tracing leaves the credits that travel to tenons. -/
@[simp] theorem Hw.credits_traceEv (h : Hw) (w : Who) (k : Nat) (pc : BitVec 20) (d : Nat) : (h.traceEv w k pc d).credits = h.credits := by
  simp only [Hw.traceEv]
  split <;> rfl

/-- As `Hw.credits_traceEv`, of those that travel to plates. -/
@[simp] theorem Hw.plateCredits_traceEv (h : Hw) (w : Who) (k : Nat) (pc : BitVec 20) (d : Nat) :
    (h.traceEv w k pc d).plateCredits = h.plateCredits := by
  simp only [Hw.traceEv]
  split <;> rfl

/-- The credit of an entry that came through a plate returns to no tenon. -/
theorem Hw.credits_returnCredit_plate (h : Hw) (c : CoreId) (m : Fin 16) (p : Plate) :
    (h.returnCredit c m (.plate p)).credits = h.credits := by
  obtain ⟨n, fs, hp⟩ := h.post_eq (bentOf c) (plateRouter p) 1 (h.clock + 8)
  simp only [Hw.returnCredit, Hw.returnCreditAt, hp]

/-- A mortise that is not empty loses its head entry, whose credit returns (R150). -/
theorem Hw.popMortise_cons {h : Hw} {c : CoreId} {m : Fin 16} {e : Entry} {rest : List Entry} (he : (h.core c).mortises[m] = e :: rest) :
    h.popMortise c m = (h.updCore c (fun k => { k with mortises := k.mortises.set m rest })).returnCredit c m e.credit := by
  unfold Hw.popMortise
  rw [he]

section
variable {w : Who} {m : Fin 32} {k : Fin 16} {e : Entry} {rest : List Entry} {h : Hw} (hk : k.val = m.val)
  (he : (h.core w.core).mortises[k] = e :: rest)
include hk he

/-- The head entry of a mortise as second source is word 0 of it, unless it is a stream entry. -/
theorem operand_head (hs : e.stream = false) : operand w h (.mort m) = .val (e.words.headD 0) (some k) := by
  have hm : m.val < 16 := hk ▸ k.isLt
  have hkm : (⟨m.val, hm⟩ : Fin 16) = k := Fin.ext hk.symm
  simp [operand, headOperand, hm, hkm, he, hs]

/-- A stream entry as second source raises STREAM_ENTRY (R89, R151). -/
theorem withOperand_stream (hs : e.stream = true) (g : Thread → W64 → Ctl × Thread) (p : Option (BitVec 26)) :
    withOperand w (.mort m) g p h = (faultAt (h.thread w) excStreamEntry, h) := by
  have hm : m.val < 16 := hk ▸ k.isLt
  have hkm : (⟨m.val, hm⟩ : Fin 16) = k := Fin.ext hk.symm
  simp [withOperand, operand, headOperand, hm, hkm, he, hs]

end

section
variable {w : Who} {b : Src} {h : Hw} {g : Thread → W64 → Ctl × Thread} (p : Option (BitVec 26))

/-- A fault of the instruction's own pops nothing (R151). -/
theorem withOperand_faults {y : W64} {pop : Option (Fin 16)} (hb : operand w h b = .val y pop) {e : Exc}
    (hg : (g (h.thread w) y).1 = .fault e) : withOperand w b g p h = (.fault e, h) := by
  simp only [withOperand, hb, hg]

/-- An instruction that completes changes its thread and pops the mortise of its source. -/
theorem withOperand_pops {y : W64} {k : Fin 16} (hb : operand w h b = .val y (some k)) {n : Nat} {u : Thread → Thread}
    (hg : g (h.thread w) y = (.done n, u (h.thread w))) :
    withOperand w b g p h = (.done n, ((h.updThread w u).traceEv w 3 (h.thread w).pc k).popMortise w.core k) := by
  simp only [withOperand, hb, hg]
  rfl

end

end Sys2Proof.Machine

namespace Sys2Proof.Claims

open Sys2Proof.Machine

/-- A source that has a value is one of the model's values. -/
theorem SourceValue.operand {w : Who} {s : State} {y : W64} {b : Src} (hy : SourceValue w s y b) :
    ∃ pop, operand w (slot w s) b = .val y pop := by
  cases b with
  | reg r => exact ⟨none, congrArg (Opd.val · none) (Eq.symm hy)⟩
  | mort m =>
    obtain ⟨k, hk, e, rest, he, hs, rfl⟩ := hy
    exact ⟨some k, operand_head hk he hs⟩

/-! ### The entry that an operand pops (R150, R244, R249) -/

/-- From `h` to `x` an instruction of thread `w` has taken the head entry of mortise `k`: its credit travels back, and of the thread
the end of the instruction finds what it found before. -/
structure Popped (w : Who) (k : Fin 16) (e : Entry) (rest : List Entry) (h x : Hw) : Prop where
  mortises : (x.core w.core).mortises = (h.core w.core).mortises.set k rest
  credit : CreditBack w.core k e.credit h x
  plate : ∀ p, e.credit = .plate p → x.credits = h.credits
  pfx : (x.thread w).pfx = (h.thread w).pfx
  stall : (x.thread w).stall = (h.thread w).stall
  clock : x.clock = h.clock

/-- The state that the credit is added to may be given by any other with the same credits on their way and the same clock. -/
theorem CreditBack.congr {c : CoreId} {m : Fin 16} {owed : CreditTo} {y z h : Hw} (hb : CreditBack c m owed y h)
    (hc : y.credits = z.credits) (hp : y.plateCredits = z.plateCredits) (ht : y.clock = z.clock) : CreditBack c m owed z h := by
  cases owed <;> simpa only [CreditBack, hc, hp, ht] using hb

/-- What an operand that completes leaves. -/
theorem popped_popMortise {w : Who} {k : Fin 16} {e : Entry} {rest : List Entry} {h : Hw} {u : Thread → Thread} (hu : KeepsIssue u)
    (he : (h.core w.core).mortises[k] = e :: rest) (pc : BitVec 20) :
    Popped w k e rest h (((h.updThread w u).traceEv w 3 pc k).popMortise w.core k) := by
  set y := (h.updThread w u).traceEv w 3 pc k with hy
  have hcore : y.core w.core = (h.core w.core).updThread w.thread u := by
    rw [hy, Hw.core_traceEv, Hw.updThread, Hw.core_updCore_self]
  have hmort : (y.core w.core).mortises = (h.core w.core).mortises := by rw [hcore, Core.updThread_mortises]
  rw [Hw.popMortise_cons (by rw [hmort]; exact he)]
  set z := y.updCore w.core (fun k' => { k' with mortises := k'.mortises.set k rest }) with hz
  have hcredits : z.credits = h.credits := by simp [hz, hy, Hw.updThread]
  have hplates : z.plateCredits = h.plateCredits := by simp [hz, hy, Hw.updThread]
  have hclock : z.clock = h.clock := by simp [hz, hy, Hw.updThread]
  have hthread : (z.returnCredit w.core k e.credit).thread w = u (h.thread w) := by
    rw [Hw.thread, Hw.core_returnCredit, hz, Hw.core_updCore_self, hcore]
    exact Core.thread_updThread_self ..
  refine { mortises := ?_, credit := ?_, plate := fun p hp => ?_, pfx := ?_, stall := ?_, clock := ?_ }
  · rw [Hw.core_returnCredit, hz, Hw.core_updCore_self, hmort]
  · exact (z.returnCredit_spec w.core k e.credit).1.congr hcredits hplates hclock
  · rw [hp, Hw.credits_returnCredit_plate, hcredits]
  · rw [hthread, hu.pfx]
  · rw [hthread, hu.stall]
  · rw [(KeepsCredits.returnCredit z w.core k e.credit).clock, hclock]

/-- The end of the instruction leaves the mortises. -/
theorem Popped.mortises_settle {w : Who} {k : Fin 16} {e : Entry} {rest : List Entry} {s : State} {x : Hw}
    (hx : Popped w k e rest (slot w s) x) (hi : Issues w none s) (f : Form) :
    ((x.settle w f s.mem (.done 1)).core w.core).mortises = ((slot w s).core w.core).mortises.set k rest := by
  have hpfx : (x.thread w).pfx = none := hx.pfx.trans hi.pfx
  have hunsent : (x.thread w).stall ≠ some .credit := by
    rw [hx.stall]
    exact hi.unsent
  obtain ⟨n, hcore⟩ := Hw.core_settle_unstalled (c := .done 1) hunsent (Hw.settled_done hpfx f s.mem).2
  rw [hcore, Core.mortises_noted, Core.updThread_mortises, hx.mortises]

/-- The instruction reads source `b`, and completes in one slot with a change of registers. -/
def CompletesWith (i : Instr) (w : Who) (b : Src) (s : State) : Prop :=
  ∃ g : Thread → W64 → Ctl × Thread, exec i s = onHw (runInstr w (formOf i) (withOperand w b g)) s ∧
    ∀ th y, ∃ u, KeepsIssue u ∧ g th y = (.done 1, u th)

/-- ADD, MUL and MOV. -/
theorem completesWith_of_mem {w : Who} {d a : Fin 32} {b : Src} {i : Instr} (hi : i ∈ [Instr.add w d a b, Instr.mul w d a b, Instr.mov w d b])
    (s : State) : CompletesWith i w b s := by
  have hresult : ∀ r fl, KeepsIssue (fun th => (th.setD d r).setFlags fl) := fun r fl => {}
  simp only [List.mem_cons, List.not_mem_nil, or_false] at hi
  rcases hi with rfl | rfl | rfl
  · exact ⟨_, rfl, fun th y => ⟨_, hresult (th.getD a + y) (addFlags (th.getD a) y false), rfl⟩⟩
  · exact ⟨_, rfl, fun th y => ⟨_, hresult (th.getD a * y) (znvFlags th.flags (th.getD a * y) (outside 64 _)), rfl⟩⟩
  · exact ⟨_, rfl, fun th y => ⟨_, keepsIssue_setD d y, rfl⟩⟩

/-- An instruction that completes with the head entry of a mortise pops it. -/
theorem CompletesWith.acts_pop {i : Instr} {w : Who} {m : Fin 32} {k : Fin 16} {e : Entry} {rest : List Entry} {s : State}
    (hc : CompletesWith i w (.mort m) s) (hi : Issues w none s) (hk : k.val = m.val)
    (he : ((slot w s).core w.core).mortises[k] = e :: rest) (hs : e.stream = false) :
    ∃ x, Popped w k e rest (slot w s) x ∧ exec i s = .next { s with hw := x.settle w (formOf i) s.mem (.done 1) } := by
  obtain ⟨g, hexec, hg⟩ := hc
  obtain ⟨u, hu, hg⟩ := hg ((slot w s).thread w) (e.words.headD 0)
  refine ⟨_, popped_popMortise hu he ((slot w s).thread w).pc, ?_⟩
  rw [hexec, onHw_eq, hi.runInstr (.inl rfl), withOperand_pops none (operand_head hk he hs) hg]

/-- ADD, MUL and MOV from a mortise. -/
theorem mortiseOperandsPopTheirEntry : MortiseOperandsPopTheirEntry := by
  intro w d a m k e rest s hi hk he hs i hmem
  obtain ⟨x, hx, hexec⟩ := (completesWith_of_mem hmem s).acts_pop hi hk he hs
  refine ⟨_, hexec, hx.mortises_settle hi _, fun c n ep howed => ?_, fun p howed => ⟨hx.plate p howed, ?_⟩⟩
  · rw [Hw.clock_settle, hx.clock]
    exact (howed ▸ hx.credit : CreditBack w.core k (.tenon c n ep) _ _)
  · rw [Hw.clock_settle, hx.clock]
    exact (howed ▸ hx.credit : CreditBack w.core k (.plate p) _ _)

/-! ### An operand with which the instruction does not complete (R89, R138, R142, R151, R156) -/

/-- The instruction does nothing but what `withOperand` does with source `b`. -/
def ReadsSource (i : Instr) (w : Who) (b : Src) (s : State) : Prop :=
  ∃ f body g, exec i s = onHw (runInstr w f body) s ∧ ∀ h, body none h = withOperand w b g none h

/-- The instructions with a second source. -/
theorem readsSource_of_mem {w : Who} {d a : Fin 32} {acc : Fin 4} {b : Src} {i : Instr} (hi : i ∈ withSource w d a acc b) (s : State) :
    ReadsSource i w b s := by
  simp only [withSource, List.mem_cons, List.not_mem_nil, or_false] at hi
  rcases hi with rfl | rfl | rfl | rfl | rfl | rfl | rfl | rfl | rfl | rfl | rfl | rfl | rfl | rfl | rfl | rfl | rfl | rfl | rfl | rfl |
    rfl | rfl | rfl | rfl | rfl | rfl | rfl | rfl | rfl | rfl | rfl
  -- SEL first checks its condition, which 0xE passes
  on_goal 27 => exact ⟨_, _, _, rfl, fun _ => if_neg (by decide)⟩
  all_goals exact ⟨_, _, _, rfl, fun _ => rfl⟩

section
variable {i : Instr} {w : Who} {m : Fin 32} {s : State}

/-- An operand that raises an exception leaves its thread with it. -/
theorem ReadsSource.yields_fault {b : Src} (hr : ReadsSource i w b s) (hi : Issues w none s) {e : Exc}
    (hb : ∀ g, withOperand w b g none (slot w s) = (.fault e, slot w s)) : Yields i s (Left w (found w s e) s) := by
  obtain ⟨f, body, g, hexec, hbody⟩ := hr
  exact hi.yields_fault (.inl rfl) hexec ((hbody _).trans (hb g))

/-- An empty mortise stalls the thread. -/
theorem ReadsSource.yields_stall (hr : ReadsSource i w (.mort m) s) (hi : Issues w none s) {k : Fin 16} (hk : k.val = m.val)
    (he : ((slot w s).core w.core).mortises[k] = []) (hstop : ((slot w s).thread w).stopReq = false) :
    Yields i s (Left w (stalled w s .mortise k) s) := by
  obtain ⟨f, body, g, hexec, hbody⟩ := hr
  have hempty : ((slot w s).core w.core).mortises[k.val] = [] := he
  simp only [hk] at hempty
  rw [hk]
  exact hi.yields_stall (.inl rfl) hexec ((hbody _).trans (withOperand_empty (hk ▸ k.isLt) hempty _ _)) (.inr hstop)

end

/-- An empty mortise, a stream entry and a reserved number. -/
theorem mortiseOperandsThatDoNotComplete : MortiseOperandsThatDoNotComplete := by
  intro w d a acc m s hi i hmem
  have hr := readsSource_of_mem hmem s
  refine ⟨fun k hk he hstop => hr.yields_stall hi hk he hstop, fun k e rest hk he hs => ?_, fun hm => ?_⟩
  · exact hr.yields_fault hi (fun g => withOperand_stream hk he hs g none)
  · exact hr.yields_fault hi (fun g => withOperand_bad hm g none _)

/-- The divisions are their operand's, and fault where it is 0. -/
theorem exec_division {w : Who} {d a : Fin 32} {b : Src} {i : Instr}
    (hi : i ∈ [Instr.div w d a b, Instr.divu w d a b, Instr.rem w d a b, Instr.remu w d a b]) (s : State) :
    ∃ f g, exec i s = onHw (runInstr w f (withOperand w b g)) s ∧ ∀ th, g th 0 = (faultAt th excDivZero, th) := by
  simp only [List.mem_cons, List.not_mem_nil, or_false] at hi
  rcases hi with rfl | rfl | rfl | rfl
  all_goals exact ⟨_, _, rfl, fun _ => if_pos rfl⟩

/-- A divisor of 0. -/
theorem zeroDivisorRaisesDivZero : ZeroDivisorRaisesDivZero := by
  intro w d a b s hi hy i hmem
  obtain ⟨f, g, hexec, hg⟩ := exec_division hmem s
  obtain ⟨pop, hb⟩ := hy.operand
  exact hi.yields_fault (.inl rfl) hexec (withOperand_faults none hb (congrArg Prod.fst (hg _)))

/-- Settles O6: the value of the operand decides, before the instruction has changed anything, whether it completes; if it does, the
mortise is popped after the thread has changed. -/
theorem mortiseOperandsAndZeroDivisors : Obligations.MortiseOperandsAndZeroDivisors :=
  ⟨mortiseOperandsPopTheirEntry, mortiseOperandsThatDoNotComplete, zeroDivisorRaisesDivZero⟩

end Sys2Proof.Claims

namespace Sys2Proof.Claims

open Sys2Proof.Machine

/-! ### A faulting APASS while a CINV walk goes on (R74, R236)

The rows of drains and the sets of a CINV walk catch up in the slot of an instruction, and once more behind an APASS. The second time
finds nothing left to do, unless the walk meets a line whose key another line of the cache has too: such a line may cost the walk a step
more than the 128 that `Core.cinvTo` makes at a time. No premise excludes that cache. -/

/-- A dirty line of set 0, in one of its ways. -/
def dirtyLine (way : Nat) : CLine := { key := 0, data := [], mask := 1, way := way, stamp := 0 }

/-- A core with a CINV walk due from set 0 on, two dirty lines of one key there, and room for one of them in its eviction buffer. The walk
pauses at the second, which has left the cache with the first. -/
def doubledCore (k : Core) : Core :=
  { k.updThread 1 (fun th => { th with tstate := .running }) with
    isegx := 0xFFFF, groups := k.groups.set 0 { opened := true, owner := 1 }
    cinv := some { thread := 0, scope := .core, at_ := 0 }, cache := [dirtyLine 0, dirtyLine 1]
    evb := List.replicate 7 { key := 1, data := [], mask := 1, serial := 0 } }

/-- The module after reset with that core, in cycle 1000. -/
def doubledState : State :=
  { pending := [], mem := [], hw := ({ State.reset.hw with clock := 1000 } : Hw).updCore 0 doubledCore }

/-- The thread that issues there. -/
def doubledThread : Who := { core := 0, thread := 1 }

/-- It issues. -/
theorem issues_doubled : Issues doubledThread none doubledState where
  issues := by decide +kernel
  alone := by decide +kernel
  pfx := by decide +kernel
  inside := by decide +kernel
  execute := by decide +kernel
  unsent := by decide +kernel

/-- In the slot the walk has made 128 steps, and is one set short of its end. -/
theorem walk_slot_doubled : ((slot doubledThread doubledState).core doubledThread.core).cinv.map Cinv.set = some 127 := by
  decide +kernel

/-- After the APASS it has come to its end. -/
theorem walk_apass_doubled :
    ((apass doubledThread 0 0 0 doubledState.mem doubledState.hw).core doubledThread.core).cinv.map Cinv.set = some 128 := by
  decide +kernel

/-- An APASS that leaves no more than its thread changed leaves the walk as its slot finds it. -/
theorem cinv_apass_of_left {w : Who} {g : Fin 8} {n : Fin 16} {tag : BitVec 6} {u : Thread → Thread} {s : State}
    (hl : Yields (.apass w g n tag) s (Left w u s)) :
    ((apass w g n tag s.mem s.hw).core w.core).cinv = ((slot w s).core w.core).cinv := by
  obtain ⟨t, he, ht⟩ := hl
  rw [← Host.Outcome.next.inj he] at ht
  exact (congrArg Core.cinv ht.core :)

/-- Refutes O37: an APASS without a route faults with STREAM_ROUTE, and the CINV walk of its core, which its slot finds at set 127, ends
with it, so that more than its thread has changed. -/
theorem not_streamsPassAndChain : ¬ Obligations.StreamsPassAndChain := by
  rintro ⟨hstart, -, -⟩
  obtain ⟨-, hstreams⟩ := hstart doubledThread 0 0 0 none 0 doubledState issues_doubled
  obtain ⟨-, hfault, -⟩ := hstreams (by decide +kernel) (by decide +kernel) (by decide +kernel) (by decide +kernel) (by decide +kernel)
    (by decide +kernel)
  have hwalk := cinv_apass_of_left (hfault (.inl (by decide +kernel)))
  exact absurd (walk_apass_doubled.symm.trans ((congrArg (Option.map Cinv.set) hwalk).trans walk_slot_doubled)) (by decide)

end Sys2Proof.Claims

namespace Sys2Proof.Machine

/-- A cycle in which a tile is free of drains lies behind the last row of each drain that names it (R83). -/
theorem Core.writeEnd_lt_of_drainLocks {k : Core} {t : Fin 8} {n : Nat} (hn : k.drainLocks t n = false) {d : DrainRun}
    (hd : d ∈ k.drains) (ht : d.names t = true) : d.writeEnd < n := by
  have hfree := List.any_eq_false.mp hn d hd
  simpa [ht] using hfree

end Sys2Proof.Machine

namespace Sys2Proof.Claims

open Sys2Proof.Machine

/-! ### An OUT to TREL that is the first word of a pair (R83, R126, R159)

An OUT to TREL that finds its registers named by drains alone completes in its slot, and holds its thread until the drains have come to
their end. The first word of a pair ends otherwise: `Thread.settleFirst` sets the thread's next issue anew, one slot on, and the hold is
lost. The thread then issues before the release, where R126 has it stall until the registers are free. -/

/-- Thread 1 of peg core 41. -/
def releaser : Who := { core := 41, thread := 1 }

/-- A core whose thread 1 is to release tile 5 by its d0, with a drain into the tile that began in cycle 1000: it reads its four rows from
then on, and writes the last in cycle 1006. -/
def drainingCore (k : Core) : Core :=
  { k.updThread 1 (fun th => { th with tstate := .running, mode := true, d := th.d.set 0 0x20 }) with
    isegx := 0xFFFF, tiles := k.tiles.set 5 { rows := 4, rbytes := 4, fmt := 6, owner := 1 }
    groups := k.groups.set 0 { opened := true, owner := 1, fa := 6, fb := 6 }
    drains := [{ g := 0, td := 5, ts := none, keep := false, shift := 0, start := 1000, rows := 4, lag := 3 }] }

/-- The module after reset with that core, in cycle 1001, a slot of thread 1. Its PC is 0, and the word behind it is LI d2, 0, which pairs
with an OUT. -/
def drainingState : State :=
  { pending := [], mem := memWriteN (locImem 41 4) (toBytes 4 0x28400000) []
    hw := ({ State.reset.hw with clock := 1001 } : Hw).updCore 41 drainingCore }

/-- The thread issues there. -/
theorem issues_draining : Issues releaser none drainingState where
  issues := by decide +kernel
  alone := by decide +kernel
  pfx := by decide +kernel
  inside := by decide +kernel
  execute := by decide +kernel
  unsent := by decide +kernel

/-- No purlin transaction is due. -/
theorem alone_draining : Alone releaser drainingState := by
  unfold Alone
  decide +kernel

/-- The OUT names tile 5. -/
theorem outValue_draining : outValue releaser 0 drainingState = 0x20 := by decide +kernel

/-- No matrix instruction and no tile move names a register. -/
theorem unlocked_draining (t : Fin 8) : ((slot releaser drainingState).core releaser.core).matLocks t = false ∧
    ((slot releaser drainingState).core releaser.core).moveLocks t = false := by
  revert t
  decide +kernel

/-- The drain is in progress in the slot. -/
theorem drains_draining : ∃ d ∈ ((slot releaser drainingState).core releaser.core).drains, d.names 5 = true ∧ d.writeEnd = 1006 := by
  decide +kernel

/-- The hardware that an OUT to TREL leaves. -/
theorem hw_of_trel {w : Who} {sr : Fin 32} {s t : State} (ht : exec (.trel w sr) s = .next t) :
    t.hw = runInstr w (outForm w sr (some 0x648) []) (fun _ h => outPort w 0x648 (((h.thread w).getD sr).setWidth 32) h) s.mem s.hw :=
  (congrArg State.hw (Host.Outcome.next.inj ht)).symm

/-- The OUT leaves its thread to issue from the next slot on. -/
theorem nextIssue_trel_draining {t : State} (ht : exec (.trel releaser 0) drainingState = .next t) :
    (t.hw.thread releaser).nextIssue = 1005 := by
  rw [hw_of_trel ht]
  decide +kernel

/-- Refutes O38: a thread of a peg core whose OUT to TREL forms a pair issues again from the next slot on, in cycle 1005, while a drain
holds the register that the OUT names until cycle 1006. -/
theorem not_tileInstructions : ¬ Obligations.TileInstructions := by
  rintro ⟨-, -, -, hrelease, -⟩
  obtain ⟨hdone, -⟩ := hrelease releaser 5 0 drainingState issues_draining alone_draining (by decide +kernel)
  obtain ⟨t, he, -, -, -, -, n, -, hafter, hissue, -⟩ := hdone (fun t _ => unlocked_draining t)
  obtain ⟨hfree, -⟩ := hafter 5 (by rw [outValue_draining]; decide)
  obtain ⟨d, hd, hnames, hend⟩ := drains_draining
  have hlt : d.writeEnd < n := Core.writeEnd_lt_of_drainLocks hfree hd hnames
  rw [nextIssue_trel_draining he] at hissue
  omega

/-! ### The last row of a move of a thread that an OUT to TREL stalls too (R111, R126)

The last row of a move completes the TLD or TST, and then every stalled OUT to TREL whose registers have come free with the move's end. A
thread that waits for both at once has two instructions completed, and its PC moves past two words. `StagesFollow`
has a premise that no OUT to TREL is stalled; here no premise excludes it. -/

/-- A move of the one row of tile 5, from the scratchpad, that is due in cycle 1000. -/
def lastRow : TileMove :=
  { thread := 1, t := 5, store := false, x := false, u := false, base := 0x1000, stride := 8, row := 0, last := 999 }

/-- A core with that move in progress, and an OUT to TREL of tile 5 stalled, both of thread 1. -/
def twiceStalledCore (k : Core) : Core :=
  { k.updThread 1 (fun th => { th with tstate := .running, stall := some .tileMove }) with
    tiles := k.tiles.set 5 { rows := 1, rbytes := 8, fmt := 6, owner := 1 }
    tileMove := some lastRow, trelWait := k.trelWait.set 1 (some 0x20) }

/-- The module after reset with that core, in cycle 1000. -/
def twiceStalledState : State :=
  { pending := [], mem := [], hw := ({ State.reset.hw with clock := 1000 } : Hw).updCore 41 twiceStalledCore }

/-- The hardware in which the row moves. -/
def twiceStalledRow : Hw :=
  ((twiceStalledState.hw.reachCycle (41 : CoreId) (lastRow.last + 1)).caughtUp 41).coreEvent 41 0

/-- The hardware that TILE_MOVE_ROW leaves. -/
theorem hw_of_tileMoveRow {c : CoreId} {s t : State} (ht : exec (.tileMoveRow c) s = .next t) :
    t.hw = (tileMoveRow c s.mem s.hw).2 := (congrArg State.hw (Host.Outcome.next.inj ht)).symm

/-- PC stands at the TLD. -/
theorem pc_before_row : (twiceStalledRow.thread ⟨41, 1⟩).pc = 0 := by decide +kernel

/-- The row takes it past two words. -/
theorem pc_after_row {t : State} (ht : exec (.tileMoveRow 41) twiceStalledState = .next t) : (t.hw.thread ⟨41, 1⟩).pc = 8 := by
  rw [hw_of_tileMoveRow ht]
  decide +kernel

/-- Refutes O39: the last row of a move completes an OUT to TREL of the same thread with the move, so that PC moves by 8. -/
theorem not_tileMovesRowByRow : ¬ Obligations.TileMovesRowByRow := by
  rintro ⟨hrows, -, -⟩
  obtain ⟨hmove, -⟩ := hrows 41 lastRow twiceStalledState (by decide +kernel) (by decide +kernel) (by decide +kernel) (by decide +kernel)
    rfl (by decide +kernel) (by decide +kernel) (by decide +kernel)
  obtain ⟨hload, -⟩ := hmove (by decide +kernel)
  obtain ⟨t, he, ⟨-, -, hlast⟩, -⟩ := hload rfl
  obtain ⟨-, -, hpc, -⟩ := hlast (by decide +kernel)
  have hone : (t.hw.thread ⟨41, 1⟩).pc = (twiceStalledRow.thread ⟨41, 1⟩).pc + 4 := hpc
  rw [pc_after_row he, pc_before_row] at hone
  exact absurd hone (by decide)

end Sys2Proof.Claims

namespace Sys2Proof.Claims

open Sys2Proof.Machine

/-! ### An instruction that completes with a change of its thread, and may pop a mortise

As for `Wrote` and `Changed`, for any number of slots and with or without a prefix: the premise and the conclusion of `Ran`. -/

section
variable {w : Who} {p : Option (BitVec 26)} {u : Thread → Thread} {s : State} {h x : Hw}

/-- Of the cores and the clock of `h`, `x` has changed thread `w` by `u`, and else no more than what the stillness detector notes and
the mortises of its core. -/
structure Effected (w : Who) (u : Thread → Thread) (h x : Hw) : Prop where
  thread : x.thread w = u (h.thread w)
  threads : ∀ v, v ≠ w.thread → (x.core w.core).thread v = (h.core w.core).thread v
  core : SameCore { x.core w.core with mortises := (h.core w.core).mortises } (h.core w.core)
  cores : ∀ c : CoreId, c ≠ w.core → x.core c = h.core c
  clock : x.clock = h.clock

/-- A change of the thread alone. -/
theorem effected_updThread (w : Who) (u : Thread → Thread) (h : Hw) : Effected w u h (h.updThread w u) where
  thread := Hw.thread_updThread_self ..
  threads _ hv := Hw.thread_updThread_other _ _ hv _
  core := by rw [Hw.updThread, Hw.core_updCore_self]; rfl
  cores _ hc := Hw.core_updThread_ne _ _ (fun hv => hc (Fin.ext hv)) _
  clock := rfl

/-- No change. -/
theorem effected_id (w : Who) (h : Hw) : Effected w id h h where
  thread := rfl
  threads _ _ := rfl
  core := rfl
  cores _ _ := rfl
  clock := rfl

/-- A head entry of a mortise that is taken besides, and whose credit returns. -/
theorem Effected.popMortise {k : Fin 16} {e : Entry} {rest : List Entry} (hx : Effected w u h x)
    (he : (x.core w.core).mortises[k] = e :: rest) : Effected w u h (x.popMortise w.core k) := by
  rw [Hw.popMortise_cons he]
  set y := x.updCore w.core (fun l => { l with mortises := l.mortises.set k rest }) with hy
  have hself : (y.returnCredit w.core k e.credit).core w.core =
      { x.core w.core with mortises := (x.core w.core).mortises.set k rest } := by
    rw [Hw.core_returnCredit, hy, Hw.core_updCore_self]
  refine { thread := ?_, threads := fun v hv => ?_, core := ?_, cores := fun c hc => ?_, clock := ?_ }
  · rw [← hx.thread, Hw.thread, hself]
    rfl
  · rw [← hx.threads v hv, hself]
    rfl
  · rw [hself]
    exact hx.core
  · rw [Hw.core_returnCredit, hy, Hw.core_updCore_ne _ (fun hv => hc (Fin.ext hv)), hx.cores c hc]
  · rw [(KeepsCredits.returnCredit y w.core k e.credit).clock]
    exact hx.clock

/-- Tracing besides. -/
theorem Effected.traceEv (hx : Effected w u h x) (k : Nat) (pc : BitVec 20) (d : Nat) : Effected w u h (x.traceEv w k pc d) where
  thread := (Hw.thread_traceEv ..).trans hx.thread
  threads v hv := by rw [Hw.core_traceEv, hx.threads v hv]
  core := by rw [Hw.core_traceEv]; exact hx.core
  cores c hc := (Hw.core_traceEv ..).trans (hx.cores c hc)
  clock := (Hw.clock_traceEv ..).trans hx.clock

/-- CYCLE is as it was. -/
theorem Effected.cycle (hx : Effected w u h x) : x.cycle w.core = h.cycle w.core := by
  have hf : (x.core w.core).frozenAt = (h.core w.core).frozenAt := (congrArg Core.frozenAt hx.core :)
  have hc : (x.core w.core).cyc0 = (h.core w.core).cyc0 := (congrArg Core.cyc0 hx.core :)
  simp only [Hw.cycle, hf, hc, hx.clock]

/-- A second word pairs with the instruction or not, as it would have before the change. -/
theorem Effected.isFirst (hx : Effected w u h x) (hu : KeepsIssue u) (f : Form) (m : Mem) : x.isFirst w f m = h.isFirst w f m := by
  have hseg : (x.core w.core).isegx = (h.core w.core).isegx := (congrArg Core.isegx hx.core :)
  simp only [Hw.isFirst, Hw.secondWord, fetchFault, hseg, hx.thread, hx.cycle, hu.pfx, hu.pair, hu.pc]

/-- The end of an instruction is that of a thread in no stall. -/
theorem stall_ended_slots (f : Form) (n : Nat) (th : Thread) : (ended w f p n s th).stall = none := by
  unfold ended
  split
  · rfl
  · exact Thread.stall_finish _ _ _

/-- The thread as the instruction leaves it after `n` slots. -/
theorem Issues.settled_slots (hi : Issues w p s) (hu : KeepsIssue u) (hx : Effected w u (slot w s) x) (f : Form) (n : Nat) :
    x.settled w f s.mem (.done n) = ended w f p n s (u ((slot w s).thread w)) := by
  have hpfx : (u ((slot w s).thread w)).pfx = p := (hu.pfx _).trans hi.pfx
  simp [Hw.settled, ended, Thread.settle, Thread.words, issueCycle, hx.isFirst hu, hx.thread, hx.cycle, hpfx]

/-- What of a core is the same, a thread and the detector's notes apart, stays so with another thread and further notes. -/
theorem SameCore.updThread_noted {k l : Core} {ms : Vector (List Entry) 16} (hk : SameCore { k with mortises := ms } l) (t : Fin 4)
    (f : Thread → Thread) (n : Nat) : SameCore { (k.updThread t f).noted n with mortises := ms } l := by
  have hrest : ({ (k.updThread t f).noted n with
      mortises := ms, threads := l.threads, still := l.still, stillFrom := l.stillFrom } : Core) =
      { k with mortises := ms, threads := l.threads, still := l.still, stillFrom := l.stillFrom } := by
    unfold Core.noted
    dsimp only
    split <;> rfl
  exact hrest.trans hk

/-- An instruction with such an effect has run. -/
theorem Issues.ran_settle (hi : Issues w p s) (hu : KeepsIssue u) (hx : Effected w u (slot w s) x) (f : Form) (n : Nat) :
    Ran w p n u s f { s with hw := x.settle w f s.mem (.done n) } := by
  have hunsent : (x.thread w).stall ≠ some .credit := by
    rw [hx.thread, hu.stall]
    exact hi.unsent
  have hend : (x.traceCtl w (.done n)).settled w f s.mem (.done n) = ended w f p n s (u ((slot w s).thread w)) :=
    hi.settled_slots hu hx f n
  obtain ⟨m, hcore⟩ := Hw.core_settle_unstalled (f := f) (m := s.mem) (c := .done n) hunsent
    ((congrArg Thread.stall hend).trans (stall_ended_slots f n _))
  refine { thread := ?_, threads := fun v hv => ?_, core := ?_, cores := fun c hc => ?_, clock := ?_, mem := rfl, pending := rfl }
  · rw [Hw.thread, hcore, Core.thread_noted, Core.thread_updThread_self, hend]
  · rw [hcore, Core.thread_noted, Core.thread_updThread_ne _ hv, hx.threads v hv]
  · rw [hcore]
    exact hx.core.updThread_noted ..
  · exact (Hw.core_settle_ne _ w (fun hv => hc (Fin.ext hv)) f s.mem _).trans (hx.cores c hc)
  · exact (Hw.clock_settle _ w f s.mem _).trans hx.clock

variable {i : Instr} {n : Nat}

/-- As `Issues.ran_settle`, of the command. -/
theorem Issues.runs_ran (hi : Issues w p s) (ht : p = none ∨ (formOf i).takesPfx = true) {body : Option (BitVec 26) → Hw → Ctl × Hw}
    (he : exec i s = onHw (runInstr w (formOf i) body) s) (hb : body p (slot w s) = (.done n, x)) (hu : KeepsIssue u)
    (hx : Effected w u (slot w s) x) : Runs i s (Ran w p n u s) := by
  refine ⟨_, he, ?_⟩
  rw [hi.runInstr ht, hb]
  exact hi.ran_settle hu hx _ n

/-- An instruction whose effect is on its own thread alone. -/
theorem Issues.thread_runs (hi : Issues w none s) {g : Thread → Ctl × Thread}
    (he : exec i s = onHw (runInstr w (formOf i) (fun _ => onThread w g)) s) (hu : KeepsIssue u)
    (hg : g ((slot w s).thread w) = (.done n, u ((slot w s).thread w))) : Runs i s (Ran w none n u s) :=
  hi.runs_ran (.inl rfl) he (onThread_eq hg) hu (effected_updThread w u _)

/-- An instruction with an immediate that it can have. -/
theorem Issues.imm_runs (hi : Issues w p s) (ht : (formOf i).takesPfx = true) {imm : Option (BitVec 26) → Option W64} {y : W64}
    (hy : imm p = some y) {g : Thread → W64 → Ctl × Thread} (he : exec i s = onHw (runInstr w (formOf i) (withImm w imm g)) s)
    (hu : KeepsIssue u) (hg : g ((slot w s).thread w) y = (.done n, u ((slot w s).thread w))) : Runs i s (Ran w p n u s) := by
  refine hi.runs_ran (.inr ht) he ?_ hu (effected_updThread w u _)
  simp only [withImm, hy]
  exact onThread_eq hg

/-- A change of the thread that is traced, and pops a mortise. -/
theorem effected_pop {k : Fin 16} {e : Entry} {rest : List Entry} (he : (h.core w.core).mortises[k] = e :: rest) (pc : BitVec 20) :
    Effected w u h (((h.updThread w u).traceEv w 3 pc k).popMortise w.core k) := by
  refine ((effected_updThread w u h).traceEv ..).popMortise (e := e) (rest := rest) ?_
  rwa [Hw.core_traceEv, Hw.updThread, Hw.core_updCore_self, Core.updThread_mortises]

/-- An instruction that completes with a second source that pops nothing changes its thread. -/
theorem withOperand_reads {b : Src} {y : W64} (hb : operand w h b = .val y none) {g : Thread → W64 → Ctl × Thread}
    (hg : g (h.thread w) y = (.done n, u (h.thread w))) : withOperand w b g p h = (.done n, h.updThread w u) := by
  simp only [withOperand, hb, hg]
  rfl

/-- An instruction whose second source has a value: a register is read, an entry popped. -/
theorem Issues.operand_runs {b : Src} {y : W64} (hi : Issues w none s) (hy : SourceValue w s y b) {g : Thread → W64 → Ctl × Thread}
    {body : Option (BitVec 26) → Hw → Ctl × Hw} (he : exec i s = onHw (runInstr w (formOf i) body) s)
    (hb : body none (slot w s) = withOperand w b g none (slot w s)) (hu : KeepsIssue u)
    (hg : g ((slot w s).thread w) y = (.done n, u ((slot w s).thread w))) : Runs i s (Ran w none n u s) := by
  cases b with
  | reg r =>
    have hval : operand w (slot w s) (.reg r) = .val y none := congrArg (Opd.val · none) (Eq.symm hy)
    exact hi.runs_ran (.inl rfl) he (hb.trans (withOperand_reads hval hg)) hu (effected_updThread w u _)
  | mort m =>
    obtain ⟨k, hk, e, rest, hm, hs, rfl⟩ := hy
    exact hi.runs_ran (.inl rfl) he (hb.trans (withOperand_pops none (operand_head hk hm hs) hg)) hu (effected_pop hm _)

end

/-! ### The shapes of the scalar instructions (R141, R142, R143) -/

/-- The end of an instruction reads neither data registers nor flags. -/
theorem keepsIssue_leaves (d : Fin 32) (r : W64) (f : Flags) : KeepsIssue (leaves d r f) := {}

/-- As `keepsIssue_leaves`, of flags alone. -/
theorem keepsIssue_setFlags (f : Flags) : KeepsIssue (·.setFlags f) := {}

/-- As `keepsIssue_leaves`, of an address register. -/
theorem keepsIssue_setA (r : Fin 16) (x : W48) : KeepsIssue (·.setA r x) := {}

section
variable {w : Who} {p : Option (BitVec 26)} {s : State} {i : Instr} {d a : Fin 32} {b : Src} {y r : W64} {fl : Flags}

/-- Two sources, a destination and flags. -/
theorem Issues.aluD_runs (hi : Issues w none s) (hy : SourceValue w s y b) {f : Flags → W64 → W64 → W64 × Flags}
    (he : exec i s = onHw (aluD w (formOf i) d a b f) s)
    (hf : f ((slot w s).thread w).flags (((slot w s).thread w).getD a) y = (r, fl)) : Runs i s (Ran w none 1 (leaves d r fl) s) :=
  hi.operand_runs hy he rfl (keepsIssue_leaves d r fl) (by simp only [hf]; rfl)

/-- Two sources and flags. -/
theorem Issues.aluCmp_runs (hi : Issues w none s) (hy : SourceValue w s y b) {f : Flags → W64 → W64 → Flags}
    (he : exec i s = onHw (aluCmp w (formOf i) a b f) s)
    (hf : f ((slot w s).thread w).flags (((slot w s).thread w).getD a) y = fl) : Runs i s (Ran w none 1 (·.setFlags fl) s) :=
  hi.operand_runs hy he rfl (keepsIssue_setFlags fl) (by simp only [hf])

/-- One source, a destination and flags. -/
theorem Issues.aluUnary_runs (hi : Issues w none s) {f : Flags → W64 → W64 × Flags}
    (he : exec i s = onHw (aluUnary w (formOf i) d a f) s)
    (hf : f ((slot w s).thread w).flags (((slot w s).thread w).getD a) = (r, fl)) : Runs i s (Ran w none 1 (leaves d r fl) s) :=
  hi.thread_runs he (keepsIssue_leaves d r fl) (by simp only [hf]; rfl)

/-- A source and an immediate, a destination and flags. -/
theorem Issues.immD_runs (hi : Issues w p s) (ht : (formOf i).takesPfx = true) {imm : Option (BitVec 26) → Option W64}
    (hy : imm p = some y) {f : Flags → W64 → W64 → W64 × Flags} (he : exec i s = onHw (immD w (formOf i) d a imm f) s)
    (hf : f ((slot w s).thread w).flags (((slot w s).thread w).getD a) y = (r, fl)) : Runs i s (Ran w p 1 (leaves d r fl) s) :=
  hi.imm_runs ht hy he (keepsIssue_leaves d r fl) (by simp only [hf]; rfl)

end

end Sys2Proof.Claims

namespace Sys2Proof.Claims

open Sys2Proof.Machine

/-! ### Values and flags (R139, R142) -/

/-- The negation of a sign-extended value is that of the value. -/
theorem ofInt_sub (n : Nat) (i j : Int) : BitVec.ofInt n (i - j) = BitVec.ofInt n i - BitVec.ofInt n j := by
  rw [Int.sub_eq_add_neg, BitVec.ofInt_add, BitVec.ofInt_neg, BitVec.sub_eq_add_neg]

/-- A sum with carry is the exact sum, kept in its width. -/
theorem add_carry_eq {n : Nat} (x y : BitVec n) (c : Nat) : x + y + BitVec.ofNat n c = BitVec.ofInt n (x.toInt + y.toInt + c) := by
  simp only [BitVec.ofInt_add, BitVec.ofInt_toInt, BitVec.ofInt_natCast]

/-- A difference with borrow is the exact difference, kept in its width. -/
theorem sub_borrow_eq {n : Nat} (x y : BitVec n) (c : Nat) : x - y - BitVec.ofNat n c = BitVec.ofInt n (x.toInt - y.toInt - c) := by
  simp only [ofInt_sub, BitVec.ofInt_toInt, BitVec.ofInt_natCast]

/-- As `add_carry_eq`, without a carry. -/
theorem add_eq_ofInt {n : Nat} (x y : BitVec n) : x + y = BitVec.ofInt n (x.toInt + y.toInt) := by
  simp only [BitVec.ofInt_add, BitVec.ofInt_toInt]

/-- As `sub_borrow_eq`, without a borrow. -/
theorem sub_eq_ofInt {n : Nat} (x y : BitVec n) : x - y = BitVec.ofInt n (x.toInt - y.toInt) := by
  simp only [ofInt_sub, BitVec.ofInt_toInt]

/-- A value fits a width when its bits of that width keep it. -/
theorem outside_eq {n : Nat} (hn : 0 < n) (v : Int) : outside n v = decide ((BitVec.ofInt n v).toInt ≠ v) := by
  have hlo := (BitVec.ofInt n v).le_toInt
  have hhi : (BitVec.ofInt n v).toInt < 2 ^ (n - 1) := BitVec.toInt_lt
  rw [outside, Bool.eq_iff_iff]
  simp only [Bool.or_eq_true, decide_eq_true_eq]
  constructor
  · rintro hout heq
    omega
  · intro hne
    by_contra hin
    exact hne (BitVec.toInt_ofInt_eq_self hn (by omega) (by omega))

/-- A result is 0 when its number is. -/
theorem zero_flag {n : Nat} (r : BitVec n) : (r == 0) = decide (r.toNat = 0) := by
  rw [Bool.eq_iff_iff, beq_iff_eq, decide_eq_true_eq]
  exact BitVec.toNat_inj.symm

/-- The flags of a sum are those of its rule. -/
theorem addFlags_eq {n : Nat} (hn : 0 < n) (x y : BitVec n) (c : Bool) {r : BitVec n} (hr : x + y + BitVec.ofNat n (b2n c) = r) :
    addFlags x y c = sumFlags x y r (b2n c) := by
  subst hr
  simp only [addFlags, sumFlags, zero_flag, BitVec.msb_eq_getLsbD_last, outside_eq hn, ← add_carry_eq, ne_comm]

/-- The flags of a difference are those of its rule. -/
theorem subFlags_eq {n : Nat} (hn : 0 < n) (x y : BitVec n) (c : Bool) {r : BitVec n} (hr : x - y - BitVec.ofNat n (b2n c) = r) :
    subFlags x y c = diffFlags x y r (b2n c) := by
  subst hr
  simp only [subFlags, diffFlags, zero_flag, BitVec.msb_eq_getLsbD_last, outside_eq hn, ← sub_borrow_eq, ne_comm]

/-- As `addFlags_eq`, without a carry. -/
theorem addFlags_false {n : Nat} (hn : 0 < n) (x y : BitVec n) : addFlags x y false = sumFlags x y (x + y) 0 :=
  addFlags_eq hn x y false (BitVec.add_zero _)

/-- As `subFlags_eq`, without a borrow. -/
theorem subFlags_false {n : Nat} (hn : 0 < n) (x y : BitVec n) : subFlags x y false = diffFlags x y (x - y) 0 :=
  subFlags_eq hn x y false (BitVec.sub_zero _)

/-- Z and N of a result. -/
theorem znFlags_eq {n : Nat} (f : Flags) (r : BitVec n) : znFlags f r = resultFlags f r := by
  simp only [znFlags, resultFlags, zero_flag, BitVec.msb_eq_getLsbD_last]

/-- Z and N of a result, and its carry. -/
theorem zncFlags_eq {n : Nat} (f : Flags) (r : BitVec n) (c : Bool) : zncFlags f r c = { resultFlags f r with c := c } := by
  simp only [zncFlags, resultFlags, zero_flag, BitVec.msb_eq_getLsbD_last]

/-- Z and N of a result, and its overflow. -/
theorem znvFlags_eq {n : Nat} (f : Flags) (r : BitVec n) (v : Bool) : znvFlags f r v = { resultFlags f r with v := v } := by
  simp only [znvFlags, resultFlags, zero_flag, BitVec.msb_eq_getLsbD_last]

/-- A result with Z and N. -/
theorem zn_eq (f : W64 → W64 → W64) (fl : Flags) (x y : W64) : zn f fl x y = (f x y, resultFlags fl (f x y)) := by
  rw [zn, znFlags_eq]

/-! ### Sums and differences (R141) -/

/-- The carry of a thread's flags. -/
theorem b2n_carry (th : Thread) : b2n th.flags.c = carry th := rfl

/-- The borrow of a thread's flags. -/
theorem b2n_borrow (th : Thread) : b2n (!th.flags.c) = 1 - carry th := by
  unfold b2n carry Thread.flags
  cases th.fc <;> rfl

/-- The borrow, as an integer. -/
theorem cast_borrow (th : Thread) : ((1 - carry th : Nat) : Int) = 1 - carry th := by
  unfold carry
  split <;> rfl

section
variable (th : Thread) (x y : W64)

/-- ADD. -/
theorem add_result : (x + y, addFlags x y false) =
    (BitVec.ofInt 64 (x.toInt + y.toInt), sumFlags x y (BitVec.ofInt 64 (x.toInt + y.toInt)) 0) := by
  rw [addFlags_false (by decide), add_eq_ofInt]

/-- ADC. -/
theorem adc_result : (x + y + BitVec.ofNat 64 (b2n th.flags.c), addFlags x y th.flags.c) =
    (BitVec.ofInt 64 (x.toInt + y.toInt + carry th), sumFlags x y (BitVec.ofInt 64 (x.toInt + y.toInt + carry th)) (carry th)) := by
  rw [addFlags_eq (by decide) x y _ rfl, add_carry_eq, b2n_carry]

/-- CMP. -/
theorem cmp_result : subFlags x y false = diffFlags x y (BitVec.ofInt 64 (x.toInt - y.toInt)) 0 := by
  rw [subFlags_false (by decide), sub_eq_ofInt]

/-- SUB. -/
theorem sub_result : (x - y, subFlags x y false) =
    (BitVec.ofInt 64 (x.toInt - y.toInt), diffFlags x y (BitVec.ofInt 64 (x.toInt - y.toInt)) 0) := by
  rw [cmp_result, sub_eq_ofInt]

/-- SBC. -/
theorem sbc_result : (x - y - BitVec.ofNat 64 (b2n !th.flags.c), subFlags x y !th.flags.c) =
    (BitVec.ofInt 64 (x.toInt - y.toInt - (1 - carry th)),
      diffFlags x y (BitVec.ofInt 64 (x.toInt - y.toInt - (1 - carry th))) (1 - carry th)) := by
  rw [subFlags_eq (by decide) x y _ rfl, sub_borrow_eq, b2n_borrow, cast_borrow]

/-- NEG. -/
theorem neg_result : (0 - x, subFlags 0 x false) = (BitVec.ofInt 64 (-x.toInt), diffFlags 0 x (BitVec.ofInt 64 (-x.toInt)) 0) := by
  rw [subFlags_false (by decide), BitVec.ofInt_neg, BitVec.ofInt_toInt, zero_sub]

end

/-- Settles O1: each result is the exact sum or difference, kept in 64 bits, and V says that it was not. -/
theorem sumsAndDifferences : Obligations.SumsAndDifferences := by
  intro w d a b y s hi hy x c r
  exact ⟨hi.aluD_runs hy rfl (add_result x y), hi.aluD_runs hy rfl (adc_result _ x y), hi.aluD_runs hy rfl (sub_result x y),
    hi.aluD_runs hy rfl (sbc_result _ x y), hi.aluCmp_runs hy rfl (cmp_result x y), hi.aluUnary_runs rfl (neg_result x)⟩

end Sys2Proof.Claims

namespace Sys2Proof.Claims

open Sys2Proof.Machine

/-! ### Bitwise instructions, moves and SEL (R140, R141) -/

section
variable {w : Who} {s : State} {i : Instr} {d a : Fin 32} {b : Src} {y r : W64}

/-- Two sources, a destination, Z and N. -/
theorem Issues.zn_runs (hi : Issues w none s) (hy : SourceValue w s y b) {f : W64 → W64 → W64}
    (he : exec i s = onHw (aluD w (formOf i) d a b (zn f)) s) (hf : f (((slot w s).thread w).getD a) y = r) :
    Runs i s (Ran w none 1 (leaves d r (resultFlags ((slot w s).thread w).flags r)) s) :=
  hi.aluD_runs hy he (hf ▸ zn_eq ..)

end

/-- Settles O2: each bit of a result is that of its rule, and Z and N are those of the result. -/
theorem logicMovesAndSelect : Obligations.LogicMovesAndSelect := by
  intro w d a b cond y s hi hy x f keep
  refine ⟨⟨x &&& y, fun k _ => BitVec.getLsbD_and, hi.zn_runs hy rfl rfl⟩, ⟨x ||| y, fun k _ => BitVec.getLsbD_or, hi.zn_runs hy rfl rfl⟩,
    ⟨x ^^^ y, fun k _ => BitVec.getLsbD_xor, hi.zn_runs hy rfl rfl⟩, ⟨x &&& ~~~y, fun k hk => ?_, hi.zn_runs hy rfl rfl⟩,
    ⟨~~~x, fun k hk => ?_, hi.aluUnary_runs rfl (congrArg (Prod.mk _) (znFlags_eq f _))⟩, hi.aluCmp_runs hy rfl (znFlags_eq f _),
    hi.operand_runs hy rfl rfl (keepsIssue_setD d y) rfl, fun hcond => ?_⟩
  · simp [hk]
  · simp [hk]
  · exact hi.operand_runs hy rfl (if_neg hcond) (keepsIssue_setD d _) rfl

/-! ### Shifts and rotates (R142) -/

section
variable (f : Flags) (x : W64) (n : Nat)

/-- SHL. -/
theorem shlRes_eq : shlRes f x n = (x <<< n, { resultFlags f (x <<< n) with c := if n = 0 then f.c else x.getLsbD (64 - n) }) := by
  by_cases hn : n = 0
  · subst hn
    simp [shlRes, znFlags_eq, resultFlags]
  · simp [shlRes, zncFlags_eq, hn]

/-- SHR. -/
theorem shrRes_eq : shrRes f x n = (x >>> n, { resultFlags f (x >>> n) with c := if n = 0 then f.c else x.getLsbD (n - 1) }) := by
  by_cases hn : n = 0
  · subst hn
    simp [shrRes, znFlags_eq, resultFlags]
  · simp [shrRes, zncFlags_eq, hn]

/-- SAR. -/
theorem sarRes_eq : sarRes f x n =
    (x.sshiftRight n, { resultFlags f (x.sshiftRight n) with c := if n = 0 then f.c else x.getLsbD (n - 1) }) := by
  by_cases hn : n = 0
  · subst hn
    simp [sarRes, znFlags_eq, resultFlags]
  · simp [sarRes, zncFlags_eq, hn]

/-- A rotation moves each bit down by the amount, modulo 64. -/
theorem getLsbD_ror {n k : Nat} (hn : n < 64) (hk : k < 64) : (x.rotateRight n).getLsbD k = x.getLsbD ((k + n) % 64) := by
  rw [BitVec.getLsbD_rotateRight, Nat.mod_eq_of_lt hn]
  by_cases h : k < 64 - n
  · rw [decide_eq_true h, cond_true, Nat.mod_eq_of_lt (by omega), Nat.add_comm]
  · have hwrap : (k + n) % 64 = k - (64 - n) := by omega
    rw [decide_eq_false h, cond_false, decide_eq_true hk, Bool.true_and, hwrap]

/-- A rotation by 0 moves none. -/
theorem rotateRight_zero : x.rotateRight 0 = x :=
  BitVec.eq_of_getLsbD_eq fun k hk => by rw [getLsbD_ror x (by decide) hk, Nat.add_zero, Nat.mod_eq_of_lt hk]

/-- ROR. -/
theorem rorRes_eq : rorRes f x n =
    (x.rotateRight n, { resultFlags f (x.rotateRight n) with c := if n = 0 then f.c else (x.rotateRight n).getLsbD 63 }) := by
  by_cases hn : n = 0
  · subst hn
    simp [rorRes, znFlags_eq, resultFlags, rotateRight_zero]
  · simp [rorRes, zncFlags_eq, hn, BitVec.msb_eq_getLsbD_last]

end

/-- Settles O3: the amounts of both forms are below 64, and each function of the model is that of its rule. -/
theorem shiftsAndRotates : Obligations.ShiftsAndRotates := by
  intro w d a b amt y s hi hy x f out shl shr sar ror
  have hreg : y.toNat % 64 < 64 := Nat.mod_lt _ (by decide)
  exact ⟨hi.aluD_runs hy rfl (shlRes_eq f x _), hi.aluD_runs hy rfl (shrRes_eq f x _), hi.aluD_runs hy rfl (sarRes_eq f x _),
    ⟨_, fun k hk => getLsbD_ror x hreg hk, hi.aluD_runs hy rfl (rorRes_eq f x _)⟩,
    hi.aluUnary_runs rfl (shlRes_eq f x _), hi.aluUnary_runs rfl (shrRes_eq f x _), hi.aluUnary_runs rfl (sarRes_eq f x _),
    ⟨_, fun k hk => getLsbD_ror x amt.isLt hk, hi.aluUnary_runs rfl (rorRes_eq f x _)⟩⟩

/-! ### Products, quotients and remainders (R142, R157) -/

/-- The slots of a divide, by the core's number in its bent. -/
theorem divSlots_eq (c : CoreId) : divSlots c = if 40 ≤ c.val % 44 then 3 else 17 :=
  if_congr decide_eq_true_iff rfl rfl

section
variable {w : Who} {s : State} {i : Instr} {d a : Fin 32} {b : Src} {y r : W64} {fl : Flags}

/-- A divide by another divisor than 0. -/
theorem Issues.aluDiv_runs (hi : Issues w none s) (hy : SourceValue w s y b) (hne : y ≠ 0) {f : Flags → W64 → W64 → W64 × Flags}
    (he : exec i s = onHw (aluDiv w (formOf i) d a b f) s)
    (hf : f ((slot w s).thread w).flags (((slot w s).thread w).getD a) y = (r, fl)) :
    Runs i s (Ran w none (if 40 ≤ w.core.val % 44 then 3 else 17) (leaves d r fl) s) := by
  refine hi.operand_runs hy he rfl (keepsIssue_leaves d r fl) ?_
  simp only [if_neg hne, hf, divSlots_eq]
  rfl

end

section
variable (f : Flags) (x y : W64)

/-- MUL. -/
theorem mul_result : (x * y, znvFlags f (x * y) (outside 64 (x.toInt * y.toInt))) =
    (BitVec.ofInt 64 (x.toInt * y.toInt), { resultFlags f (BitVec.ofInt 64 (x.toInt * y.toInt)) with
      v := decide ((BitVec.ofInt 64 (x.toInt * y.toInt)).toInt ≠ x.toInt * y.toInt) }) := by
  have hmul : x * y = BitVec.ofInt 64 (x.toInt * y.toInt) := by simp only [BitVec.ofInt_mul, BitVec.ofInt_toInt]
  rw [hmul, znvFlags_eq, outside_eq (by decide)]

/-- DIV and REM, whose overflow is that of -2^63 by -1. -/
theorem div_result (q : W64) : (q, znvFlags f q (x.toInt == -(2 ^ 63) && y.toInt == -1)) =
    (q, { resultFlags f q with v := decide (x.toInt = -(2 ^ 63) ∧ y.toInt = -1) }) := by
  rw [znvFlags_eq, Bool.decide_and]
  rfl

/-- The unsigned quotient. -/
theorem udiv_eq_ofNat : x / y = BitVec.ofNat 64 (x.toNat / y.toNat) := by
  apply BitVec.eq_of_toNat_eq
  have hlt : x.toNat / y.toNat < 2 ^ 64 := Nat.lt_of_le_of_lt (Nat.div_le_self ..) x.isLt
  rw [BitVec.toNat_udiv, BitVec.toNat_ofNat, Nat.mod_eq_of_lt hlt]

/-- The unsigned remainder. -/
theorem umod_eq_ofNat : x % y = BitVec.ofNat 64 (x.toNat % y.toNat) := by
  apply BitVec.eq_of_toNat_eq
  have hlt : x.toNat % y.toNat < 2 ^ 64 := Nat.lt_of_le_of_lt (Nat.mod_le ..) x.isLt
  rw [BitVec.toNat_umod, BitVec.toNat_ofNat, Nat.mod_eq_of_lt hlt]

end

/-- Settles O4: the products are taken exactly; a divisor other than 0 is divided by, in the slots of its kind of core. -/
theorem productsAndQuotients : Obligations.ProductsAndQuotients := by
  intro w d a b y s hi hy x f n r tooBig p
  refine ⟨hi.aluD_runs hy rfl (mul_result f x y), hi.zn_runs hy rfl rfl, hi.zn_runs hy rfl rfl, fun hne => ?_⟩
  exact ⟨hi.aluDiv_runs hy hne rfl (div_result f x y _), hi.aluDiv_runs hy hne rfl (div_result f x y _),
    hi.aluDiv_runs hy hne rfl ((zn_eq ..).trans (by rw [udiv_eq_ofNat])),
    hi.aluDiv_runs hy hne rfl ((zn_eq ..).trans (by rw [umod_eq_ofNat]))⟩

end Sys2Proof.Claims

namespace Sys2Proof.Claims

open Sys2Proof.Machine

/-! ### Minima, maxima, bit counts and extensions (R141) -/

section
variable (x y : W64)

/-- MIN. -/
theorem toInt_min : (if x.toInt ≤ y.toInt then x else y).toInt = Min.min x.toInt y.toInt := by
  rw [apply_ite BitVec.toInt, min_def]

/-- MAX. -/
theorem toInt_max : (if y.toInt ≤ x.toInt then x else y).toInt = Max.max x.toInt y.toInt := by
  rw [apply_ite BitVec.toInt, max_comm, max_def]

/-- MINU. -/
theorem toNat_min : (if x.toNat ≤ y.toNat then x else y).toNat = Min.min x.toNat y.toNat := by
  rw [apply_ite BitVec.toNat, min_def]

/-- MAXU. -/
theorem toNat_max : (if y.toNat ≤ x.toNat then x else y).toNat = Max.max x.toNat y.toNat := by
  rw [apply_ite BitVec.toNat, max_comm, max_def]

/-- A count of at most 64 keeps its value in a register. -/
theorem toNat_count {n : Nat} (hn : n ≤ 64) : (BitVec.ofNat 64 n).toNat = n := by
  rw [BitVec.toNat_ofNat, Nat.mod_eq_of_lt (by omega)]

/-- The leading zeros of 0 are all its bits, and those of another value lie above its highest 1. -/
theorem clz64_spec : clz64 x ≤ 64 ∧ (∀ k < clz64 x, x.getLsbD (63 - k) = false) ∧ (clz64 x < 64 → x.getLsbD (63 - clz64 x) = true) := by
  by_cases hx : x = 0
  · subst hx
    exact ⟨by decide, fun k _ => BitVec.getLsbD_zero, fun h => absurd h (by decide)⟩
  · have hne : x.toNat ≠ 0 := fun h => hx (BitVec.eq_of_toNat_eq h)
    have hlog : x.toNat.log2 < 64 := (Nat.log2_lt hne).mpr x.isLt
    have hclz : clz64 x = 63 - x.toNat.log2 := by
      rw [clz64, if_neg hx]
      omega
    refine ⟨by omega, fun k hk => ?_, fun _ => ?_⟩
    · have hbelow : x.toNat < 2 ^ (63 - k) := (Nat.log2_lt hne).mp (by omega)
      exact Nat.testBit_lt_two_pow hbelow
    · have hbit : 63 - clz64 x = x.toNat.log2 := by omega
      rw [hbit]
      exact Nat.testBit_log2 hne

/-- CLZ. -/
theorem clz_result : (BitVec.ofNat 64 (clz64 x)).toNat ≤ 64 ∧
    (∀ k < (BitVec.ofNat 64 (clz64 x)).toNat, x.getLsbD (63 - k) = false) ∧
    ((BitVec.ofNat 64 (clz64 x)).toNat < 64 → x.getLsbD (63 - (BitVec.ofNat 64 (clz64 x)).toNat) = true) := by
  rw [toNat_count (clz64_spec x).1]
  exact clz64_spec x

/-- The trailing zeros end at the first 1. -/
theorem ctz64_eq : ctz64 x = (List.range 64).findIdx (fun k => x.getLsbD k) := by
  have hle : (List.range 64).findIdx (fun k => x.getLsbD k) ≤ 64 := List.findIdx_le_length.trans_eq List.length_range
  simp only [ctz64, List.takeWhile_eq_take_findIdx_not, Bool.not_not, List.length_take, List.length_range, Nat.min_eq_left hle]

/-- The trailing zeros are 0, and the bit above them, if there is one, is 1. -/
theorem ctz64_spec : ctz64 x ≤ 64 ∧ (∀ k < ctz64 x, x.getLsbD k = false) ∧ (ctz64 x < 64 → x.getLsbD (ctz64 x) = true) := by
  rw [ctz64_eq]
  refine ⟨List.findIdx_le_length.trans_eq List.length_range, fun k hk => ?_, fun h => ?_⟩
  · have hzero := List.not_of_lt_findIdx hk
    rwa [List.getElem_range] at hzero
  · have hone := List.findIdx_getElem (p := fun k => x.getLsbD k) (w := h.trans_eq List.length_range.symm)
    rwa [List.getElem_range] at hone

/-- CTZ. -/
theorem ctz_result : (BitVec.ofNat 64 (ctz64 x)).toNat ≤ 64 ∧
    (∀ k < (BitVec.ofNat 64 (ctz64 x)).toNat, x.getLsbD k = false) ∧
    ((BitVec.ofNat 64 (ctz64 x)).toNat < 64 → x.getLsbD (BitVec.ofNat 64 (ctz64 x)).toNat = true) := by
  rw [toNat_count (ctz64_spec x).1]
  exact ctz64_spec x

/-- POPC. -/
theorem popc_result : (BitVec.ofNat 64 (popc64 x)).toNat = ((List.range 64).filter (fun k => x.getLsbD k)).length := by
  have hle : popc64 x ≤ 64 := List.countP_le_length.trans_eq List.length_range
  rw [toNat_count hle]
  exact List.countP_eq_length_filter

/-- The low bits of a value as a signed number. -/
theorem signed_eq {n : Nat} (hn : 0 < n) (v : Nat) : signed n v = (BitVec.ofNat n v).toInt := by
  obtain ⟨m, rfl⟩ := Nat.exists_eq_add_one_of_ne_zero (Nat.pos_iff_ne_zero.mp hn)
  have hpow : 2 ^ (m + 1) = 2 * 2 ^ m := Nat.pow_succ'
  have hcast : ((2 : Int) ^ (m + 1)) = ((2 ^ (m + 1) : Nat) : Int) := by norm_cast
  rw [signed, BitVec.toInt_eq_toNat_cond, BitVec.toNat_ofNat, Nat.add_sub_cancel, hcast]
  split <;> split <;> omega

/-- SEXT copies the highest bit of the byte, half or word. -/
theorem getLsbD_sext {n k : Nat} (hn : 0 < n) (hk : k < 64) :
    (BitVec.ofInt 64 (signed n x.toNat)).getLsbD k = x.getLsbD (Min.min k (n - 1)) := by
  have hext : BitVec.ofInt 64 (signed n x.toNat) = (x.setWidth n).signExtend 64 := by
    rw [signed_eq hn, BitVec.ofNat_toNat, BitVec.signExtend]
  rw [hext, BitVec.getLsbD_signExtend, decide_eq_true hk, Bool.true_and]
  split
  case isTrue h => rw [Nat.min_eq_left (by omega), BitVec.getLsbD_setWidth, decide_eq_true h, Bool.true_and]
  case isFalse h =>
    rw [Nat.min_eq_right (by omega), BitVec.msb_eq_getLsbD_last, BitVec.getLsbD_setWidth, decide_eq_true (by omega), Bool.true_and]

/-- ZEXT keeps the byte, half or word. -/
theorem getLsbD_zext {n k : Nat} (hk : k < 64) :
    (BitVec.ofNat 64 (x.toNat % 2 ^ n)).getLsbD k = (decide (k < n) && x.getLsbD k) := by
  rw [BitVec.getLsbD_ofNat, Nat.testBit_mod_two_pow, decide_eq_true hk, Bool.true_and]
  rfl

end

section
variable {w : Who} {s : State} {i : Instr} {d a : Fin 32} {r : W64}

/-- One source, a destination, Z and N. -/
theorem Issues.znUnary_runs (hi : Issues w none s) {f : Flags → W64 → W64 × Flags}
    (he : exec i s = onHw (aluUnary w (formOf i) d a f) s)
    (hf : f ((slot w s).thread w).flags (((slot w s).thread w).getD a) = (r, znFlags ((slot w s).thread w).flags r)) :
    Runs i s (Ran w none 1 (leaves d r (resultFlags ((slot w s).thread w).flags r)) s) := by
  rw [znFlags_eq] at hf
  exact hi.aluUnary_runs he hf

/-- An extension of a size that there is. -/
theorem Issues.aluExt_runs (hi : Issues w none s) {size : BitVec 4} (hsize : size.toNat ≤ 2) {f : Nat → W64 → W64}
    (he : exec i s = onHw (aluExt w (formOf i) d a size f) s) (hf : f (8 * 2 ^ size.toNat) (((slot w s).thread w).getD a) = r) :
    Runs i s (Ran w none 1 (leaves d r (resultFlags ((slot w s).thread w).flags r)) s) := by
  refine hi.thread_runs he (keepsIssue_leaves ..) ?_
  simp only [if_neg (Nat.not_lt.mpr hsize), hf, znFlags_eq]
  rfl

end

/-- Settles O5: each function of the model has the property of its rule. -/
theorem extremaCountsAndExtensions : Obligations.ExtremaCountsAndExtensions := by
  intro w d a b size y s hi hy x f gives
  refine ⟨⟨_, toInt_min x y, hi.zn_runs hy rfl rfl⟩, ⟨_, toInt_max x y, hi.zn_runs hy rfl rfl⟩, ⟨_, toNat_min x y, hi.zn_runs hy rfl rfl⟩,
    ⟨_, toNat_max x y, hi.zn_runs hy rfl rfl⟩, ⟨_, clz_result x, hi.znUnary_runs rfl rfl⟩, ⟨_, ctz_result x, hi.znUnary_runs rfl rfl⟩,
    ⟨_, popc_result x, hi.znUnary_runs rfl rfl⟩, fun hsize => ?_⟩
  have hpos : 0 < 8 * 2 ^ size.toNat := Nat.mul_pos (by decide) (Nat.two_pow_pos _)
  exact ⟨⟨_, fun k hk => getLsbD_sext x hpos hk, hi.aluExt_runs hsize rfl rfl⟩,
    ⟨_, fun k hk => getLsbD_zext x hk, hi.aluExt_runs hsize rfl rfl⟩⟩

end Sys2Proof.Claims

namespace Sys2Proof.Claims

open Sys2Proof.Machine

/-! ### Immediate instructions (R136, R143) -/

/-- A value that the zero-extended immediate is, is the one the model reads. -/
theorem immZ_of_unsignedImm {n : Nat} (hn : n ≤ 64) {p : Option (BitVec 26)} {f : BitVec n} {y : W64} (hy : UnsignedImm p f y) :
    immZ p f = some y := by
  cases p with
  | none =>
    refine congrArg some (BitVec.eq_of_toNat_eq ?_)
    rw [BitVec.toNat_setWidth, Nat.mod_eq_of_lt (Nat.lt_of_lt_of_le f.isLt (Nat.pow_le_pow_right (by decide) hn))]
    exact Eq.symm hy
  | some hi =>
    obtain ⟨hlt, hy⟩ := hy
    have hbits : BitVec.ofNat 32 (hi.toNat * 64 + f.toNat) = pairBits hi f := by
      rw [pairBits, Nat.mod_eq_of_lt hlt, Nat.mul_comm]
    simp only [immZ, imm32, if_pos hlt, Option.map_some, hbits]
    refine congrArg some (BitVec.eq_of_toNat_eq ?_)
    rw [BitVec.toNat_setWidth, Nat.mod_eq_of_lt (Nat.lt_of_lt_of_le (pairBits hi f).isLt (by decide))]
    exact hy.symm

/-- LIH puts the low half of its immediate above the low half of the register. -/
theorem lih_result (x y : W64) : y.setWidth 32 ++ x.setWidth 32 = BitVec.ofNat 64 (x.toNat % 2 ^ 32 + y.toNat % 2 ^ 32 * 2 ^ 32) := by
  apply BitVec.eq_of_toNat_eq
  rw [BitVec.toNat_append, BitVec.toNat_setWidth, BitVec.toNat_setWidth, ← Nat.shiftLeft_add_eq_or_of_lt (Nat.mod_lt _ (by decide)),
    BitVec.toNat_ofNat, Nat.shiftLeft_eq]
  omega

section
variable (x y : W64)

/-- ADDI. -/
theorem addi_result : (x + y, addFlags x y false) = (x + y, sumFlags x y (x + y) 0) := by
  rw [addFlags_false (by decide)]

end

/-- Settles O7: the immediate that its field can be is the one that the model reads. -/
theorem immediateInstructions : Obligations.ImmediateInstructions := by
  intro w p d a imm y z s hi hy hz x f
  have hs : immS p imm = some y := immS_of_signedImm (by decide) hy
  have hu : immZ p imm = some z := immZ_of_unsignedImm (by decide) hz
  refine ⟨hi.immD_runs rfl hs rfl (addi_result x y), hi.imm_runs rfl hs rfl (keepsIssue_setFlags _) ?_, hi.immD_runs rfl hu rfl (zn_eq ..),
    hi.immD_runs rfl hu rfl (zn_eq ..), hi.immD_runs rfl hu rfl (zn_eq ..), hi.imm_runs rfl hs rfl (keepsIssue_setD d y) rfl, ?_⟩
  · rw [← subFlags_false (by decide)]
  · exact hi.imm_runs (u := fun th => th.setD d (BitVec.ofNat 64 ((th.getD d).toNat % 2 ^ 32 + y.toNat % 2 ^ 32 * 2 ^ 32))) rfl hs rfl {}
      (congrArg (fun v => (_, ((slot w s).thread w).setD d v)) (lih_result ..))

/-! ### Address registers (R144) -/

section
variable (x y : W48) (v : W64)

/-- ADDA. -/
theorem adda_result : x + v.setWidth 48 = BitVec.ofInt 48 (x.toNat + v.toInt) := by
  have hv : BitVec.ofInt 48 v.toInt = v.setWidth 48 := by
    rw [← BitVec.signExtend, BitVec.signExtend_eq_setWidth_of_le _ (by decide)]
  rw [BitVec.ofInt_add, BitVec.ofInt_natCast, BitVec.ofNat_toNat, BitVec.setWidth_eq, hv]

/-- ADDAR. -/
theorem addar_result (n : Nat) : x + (v.setWidth 48 <<< n) = BitVec.ofNat 48 (x.toNat + v.toNat * 2 ^ n) := by
  apply BitVec.eq_of_toNat_eq
  simp [BitVec.toNat_add, BitVec.toNat_shiftLeft, BitVec.toNat_setWidth, Nat.shiftLeft_eq, Nat.add_mod, Nat.mul_mod]

/-- A register's low 48 bits. -/
theorem setWidth_48 : v.setWidth 48 = BitVec.ofNat 48 v.toNat := (BitVec.ofNat_toNat ..).symm

/-- An address as a data value. -/
theorem setWidth_64 : x.setWidth 64 = BitVec.ofNat 64 x.toNat := (BitVec.ofNat_toNat ..).symm

/-- SUBA gives its difference with its sign. -/
theorem suba_result : x.signExtend 64 = BitVec.ofInt 64 x.toInt := rfl

/-- LIAH puts its immediate above the low 32 bits of the register. -/
theorem liah_result (imm : BitVec 16) : imm ++ x.setWidth 32 = BitVec.ofNat 48 (x.toNat % 2 ^ 32 + imm.toNat * 2 ^ 32) := by
  apply BitVec.eq_of_toNat_eq
  have himm := imm.isLt
  rw [BitVec.toNat_append, BitVec.toNat_setWidth, ← Nat.shiftLeft_add_eq_or_of_lt (Nat.mod_lt _ (by decide)),
    BitVec.toNat_ofNat, Nat.shiftLeft_eq]
  omega

end

/-- The address register instructions. -/
theorem addressRegisterInstructions : AddressRegisterInstructions := by
  intro w p e a b d imm sh y z s hy hz th0
  have hs : immS p imm = some y := immS_of_signedImm (by decide) hy
  have hu : immZ p imm = some z := immZ_of_unsignedImm (by decide) hz
  refine ⟨fun hi => ⟨?_, ?_⟩, fun hi => ⟨?_, ?_, ?_, ?_, ?_, ?_⟩⟩
  · exact hi.imm_runs rfl hs rfl (keepsIssue_setA e _) (by rw [adda_result])
  · exact hi.imm_runs rfl hu rfl (keepsIssue_setA e _) (by rw [setWidth_48])
  · exact hi.thread_runs rfl (keepsIssue_setA e _) (by rw [addar_result])
  · exact hi.thread_runs rfl (keepsIssue_setD d _) (by rw [suba_result])
  · exact hi.thread_runs rfl (keepsIssue_setA e _) (by rw [setWidth_48])
  · exact hi.thread_runs rfl (keepsIssue_setD d _) (by rw [setWidth_64])
  · exact hi.thread_runs rfl (keepsIssue_setA e _) (by rw [liah_result])
  · exact hi.thread_runs rfl (keepsIssue_setFlags _) (by rw [subFlags_false (by decide)])

/-! ### Accumulators (R145) -/

/-- The end of an instruction reads neither accumulators nor flags. -/
theorem keepsIssue_setAcc (r : Fin 4) (x : BitVec 72) : KeepsIssue (·.setAcc r x) := {}

/-- As `keepsIssue_setAcc`, with flags. -/
theorem keepsIssue_setAcc_setFlags (r : Fin 4) (x : BitVec 72) (f : Flags) : KeepsIssue (fun th => (th.setAcc r x).setFlags f) := {}

/-- A value lies outside a width where it is below or above its range. -/
theorem outside_eq_not (n : Nat) (v : Int) : outside n v = !decide (-(2 ^ (n - 1)) ≤ v ∧ v < 2 ^ (n - 1)) := by
  rw [outside, Bool.eq_iff_iff]
  simp only [Bool.or_eq_true, Bool.not_eq_true', decide_eq_true_eq, decide_eq_false_iff_not]
  omega

/-- A clamped value. -/
theorem clampTo_eq (n : Nat) (v : Int) : clampTo n v = Max.max (-(2 ^ (n - 1))) (Min.min (2 ^ (n - 1) - 1) v) := by
  have hpow : (0 : Int) < 2 ^ (n - 1) := by positivity
  unfold clampTo
  split_ifs <;> omega

/-- The product of the low halves. -/
theorem macProduct_eq (x y : W64) : macProduct x y = (BitVec.ofNat 32 x.toNat).toInt * (BitVec.ofNat 32 y.toNat).toInt := by
  rw [macProduct, BitVec.ofNat_toNat, BitVec.ofNat_toNat]

/-- A right shift divides, rounding down. -/
theorem toInt_sshiftRight_eq {n : Nat} (x : BitVec n) (k : Nat) : (x.sshiftRight k).toInt = x.toInt / 2 ^ k := by
  rw [BitVec.toInt_sshiftRight, Int.shiftRight_eq_div_pow]
  norm_cast

/-- The low bits of a wider value are those of its number. -/
theorem setWidth_eq_ofInt {n m : Nat} (hn : m ≤ n) (x : BitVec n) : x.setWidth m = BitVec.ofInt m x.toInt := by
  rw [← BitVec.signExtend, BitVec.signExtend_eq_setWidth_of_le _ hn]

section
variable {w : Who} {s : State} {i : Instr} {r : Fin 4} {a : Fin 32} {b : Src} {y : W64}

/-- A multiply-accumulate of an exact value. -/
theorem Issues.accMac_runs (hi : Issues w none s) (hy : SourceValue w s y b) {sub sat : Bool}
    (he : exec i s = onHw (accMac w (formOf i) r a b sub sat) s) {v : Int}
    (hv : (((slot w s).thread w).getAcc r).toInt + (if sub then -macProduct (((slot w s).thread w).getD a) y
      else macProduct (((slot w s).thread w).getD a) y) = v) :
    Runs i s (Ran w none 1 (fun th => (th.setAcc r (BitVec.ofInt 72 (if sat then clampTo 72 v else v))).setFlags
      { resultFlags ((slot w s).thread w).flags (BitVec.ofInt 72 (if sat then clampTo 72 v else v)) with v := outside 72 v }) s) := by
  refine hi.operand_runs hy he rfl (keepsIssue_setAcc_setFlags r _ _) ?_
  simp only [hv, znvFlags_eq]

end

/-- The accumulator instructions. -/
theorem accumulatorInstructions : AccumulatorInstructions := by
  intro w r a b sh y s hi hy th0 f p fits clamp acc old
  have hp : macProduct (th0.getD a) y = p := macProduct_eq ..
  have hmac : ∀ {i : Instr} {sub sat : Bool} {v : Int}, exec i s = onHw (accMac w (formOf i) r a b sub sat) s →
      old + (if sub then -p else p) = v → acc i v sat := by
    intro i sub sat v he hv
    refine ⟨_, rfl, ?_⟩
    have hrun := hi.accMac_runs hy he (v := v) (by rw [hp]; exact hv)
    rwa [clampTo_eq, outside_eq_not] at hrun
  refine ⟨hmac rfl rfl, hmac rfl rfl, hmac rfl (Int.sub_eq_add_neg ..).symm, hmac rfl (Int.sub_eq_add_neg ..).symm,
    hi.thread_runs rfl (keepsIssue_setAcc r 0) rfl, hi.thread_runs rfl (keepsIssue_setAcc r _) rfl, ?_, ?_⟩
  · refine hi.thread_runs rfl (keepsIssue_leaves ..) ?_
    simp only [setWidth_eq_ofInt (show 64 ≤ 72 by decide), toInt_sshiftRight_eq, znFlags_eq]
    rfl
  · refine hi.thread_runs rfl (keepsIssue_leaves ..) ?_
    simp only [toInt_sshiftRight_eq, clampTo_eq, znvFlags_eq, outside_eq_not]
    rfl

/-- Settles O8: sums are taken modulo 2^48, and accumulators hold the exact value, wrapped or clamped. -/
theorem addressAndAccumulatorInstructions : Obligations.AddressAndAccumulatorInstructions :=
  ⟨addressRegisterInstructions, accumulatorInstructions⟩

end Sys2Proof.Claims

namespace Sys2Proof.Claims

open Sys2Proof.Machine

/-! ### Instructions that leave their thread without completing (R189, R197, R198, R199) -/

/-- A core of which one thread has changed twice is otherwise the same. -/
theorem sameCore_updThread_updThread_noted (k : Core) (t : Fin 4) (u v : Thread → Thread) (n : Nat) :
    SameCore (((k.updThread t u).updThread t v).noted n) k := by
  simp only [SameCore, Core.noted]
  split <;> rfl

/-- What an instruction that does not complete leaves of its thread. -/
theorem settled_of_not_done {c : Ctl} (hc : ∀ n, c ≠ .done n) (h : Hw) (w : Who) (f : Form) (m : Mem) :
    (h.traceCtl w c).settled w f m c = ((h.thread w).settle (h.cycle w.core) c) := by
  have hsettle : (h.traceCtl w c).settled w f m c = ((h.traceCtl w c).thread w).settle ((h.traceCtl w c).cycle w.core) c := by
    cases c with
    | done n => exact absurd rfl (hc n)
    | _ => rfl
  rw [hsettle, Hw.thread_traceCtl]
  simp only [Hw.cycle, Hw.core_traceCtl, Hw.clock_traceCtl]

section
variable {w : Who} {s : State} {i : Instr} {f : Form} {u : Thread → Thread} {g : Thread → Ctl × Thread} {c : Ctl}

/-- Such an instruction leaves its thread as its control answer settles it, and nothing else changes. -/
theorem Issues.onThread_leaves (hi : Issues w none s) (he : exec i s = onHw (runInstr w f (fun _ => onThread w g)) s)
    (hg : g ((slot w s).thread w) = (c, u ((slot w s).thread w))) (hc : ∀ n, c ≠ .done n)
    (hu : ∀ th, th.stall ≠ some .credit → (u th).stall ≠ some .credit) (hr : ∀ th n, (Thread.settle th n c).stall = none) :
    Yields i s (Left w (fun th => (u th).settle (issueCycle w s) c) s) := by
  refine ⟨_, he, ?_⟩
  rw [hi.runInstr (.inl rfl), onThread_eq hg]
  have hx := effected_updThread w u (slot w s)
  set x := (slot w s).updThread w u
  have hself : x.core w.core = ((slot w s).core w.core).updThread w.thread u := Hw.core_updCore_self ..
  have hunsent : (x.thread w).stall ≠ some .credit := by
    rw [hx.thread]
    exact hu _ hi.unsent
  have hend : (x.traceCtl w c).settled w f s.mem c = (u ((slot w s).thread w)).settle (issueCycle w s) c := by
    rw [settled_of_not_done hc, hx.thread, hx.cycle]
    rfl
  obtain ⟨m, hcore⟩ := Hw.core_settle_unstalled (f := f) (m := s.mem) (c := c) hunsent (by rw [hend]; exact hr _ _)
  refine { thread := ?_, threads := fun v hv => ?_, core := ?_, cores := fun c' hc' => ?_, clock := ?_, mem := rfl, pending := rfl }
  · rw [Hw.thread, hcore, Core.thread_noted, Core.thread_updThread_self, hend]
  · rw [hcore, Core.thread_noted, Core.thread_updThread_ne _ hv, hx.threads v hv]
  · rw [hcore, hself]
    exact sameCore_updThread_updThread_noted ..
  · exact (Hw.core_settle_ne _ w (fun hv => hc' (Fin.ext hv)) f s.mem _).trans (hx.cores c' hc')
  · exact (Hw.clock_settle _ w f s.mem _).trans hx.clock

end

/-! ### WAIT and its end (R188, R189) -/

/-- A WAIT completes with an event of its mask or an interrupt cause. -/
theorem Thread.wakes_iff (th : Thread) (mask : BitVec 16) : th.wakes mask = true ↔ th.evpend &&& mask ≠ 0 ∨ th.ipend ≠ 0 := by
  simp [Machine.Thread.wakes]

/-- What a thread that WAIT leaves WAITING waits for. -/
def waitsFor (mask : BitVec 16) (th : Thread) : Thread := { th with tstate := .waiting, waitMask := mask }

/-- A woken thread in the slot of its wake. -/
def woken (n : Nat) (th : Thread) : Thread := ({ th with tstate := .running }).finish 1 n

/-- A waiting thread completes its WAIT in the first of its slots in which it may. -/
theorem waitWake_some {w : Who} {h x : Hw} (hx : h.slotWhere w (·.wakes w) = some x) :
    waitWake w h = (x.updThread w (woken (x.cycle w.core + 4))).noted w.core := by
  unfold waitWake
  split
  next y hy =>
    obtain rfl : y = x := Option.some.inj (hy.symm.trans hx)
    rfl
  next hy => exact absurd (hy.symm.trans hx) nofun

/-- A thread waits, or does not. -/
theorem waitEndsWithAnEventOfItsMask : WaitEndsWithAnEventOfItsMask := by
  intro w mask s th
  refine ⟨fun hi => ⟨fun hw => ?_, fun he hp => ?_⟩, fun x hx => ?_, fun h hhalt hfrozen hfound hstate htake => ?_⟩
  · refine hi.thread_runs (i := .wait w mask) rfl keepsIssue_id ?_
    rw [if_pos ((Thread.wakes_iff _ _).2 hw), id_eq]
  · refine hi.onThread_leaves (i := .wait w mask) (u := waitsFor mask) (c := .stay) rfl ?_ nofun (fun _ hs => hs) (fun _ _ => rfl)
    rw [if_neg (fun hw => ((Thread.wakes_iff _ _).1 hw).elim (· he) (· hp)), waitsFor]
  · have hwake := (wrote_updThread w (woken (x.cycle w.core + 4)) x).noted
    rw [← waitWake_some hx] at hwake
    exact ⟨_, rfl, hwake.thread, hwake.clock, hwake.cores⟩
  · simp only [Hw.wakes, Core.runs, hhalt, hfrozen, hfound, hstate, htake, ← Thread.wakes_iff]
    simp

/-! ### TRAP, BRK and ERET (R155, R156, R197 to R199) -/

section
variable {th : Thread}

/-- TRAP. -/
theorem trap_fault (th : Thread) (code : BitVec 16) : Ctl.fault { code := excTrap, epc := th.pc + 4, eaddr := code.setWidth 48 } =
    .fault { code := 0x0B, epc := th.pc + 4, eaddr := BitVec.ofNat 48 code.toNat } := by
  rw [← BitVec.ofNat_toNat]
  rfl

/-- BRK. -/
theorem brk_fault (th : Thread) : faultAt th excBrk = .fault { code := 0x0C, epc := th.pc } := rfl

/-- An instruction of a user-mode thread that supervisor mode alone may issue. -/
theorem userFault_user (hm : th.mode = false) : userFault th = some (.fault { code := 0x02, epc := th.pc }) := by
  rw [userFault, hm]
  rfl

/-- Supervisor mode may issue it. -/
theorem userFault_supervisor (hm : th.mode = true) : userFault th = none := by
  rw [userFault, hm]
  rfl

/-- A thread that stops is STOPPED at its instruction. -/
theorem settle_stopNow (th : Thread) (n : Nat) : (th.stopNow.settle n .stay).tstate = .stopped ∧ (th.stopNow.settle n .stay).pc = th.pc :=
  ⟨rfl, rfl⟩

/-- A thread that returns is in no stall. -/
theorem stall_settle_ret (th : Thread) (n : Nat) (pc : BitVec 20) : (th.settle n (.ret pc)).stall = none := by
  rw [Thread.settle, Thread.boundary]
  split <;> rfl

end

/-- TRAP, BRK and ERET. -/
theorem trapBreakAndReturn : TrapBreakAndReturn := by
  intro w code s hi th
  refine ⟨hi.onThread_fault rfl (by rw [trap_fault]), fun hb => ?_, fun hb => ?_, fun hm => ?_, fun hm => ?_⟩
  · refine hi.onThread_fault (i := .brk w) rfl ?_
    rw [if_neg (by rw [hb]; decide), brk_fault]
  · obtain ⟨t, ht, hleft⟩ := hi.onThread_leaves (i := .brk w) (u := Thread.stopNow) (c := .stay) rfl (by rw [if_pos hb]) nofun
      (fun _ _ => nofun) (fun _ _ => rfl)
    have hstop := settle_stopNow ((slot w s).thread w) (issueCycle w s)
    exact ⟨t, ht, (congrArg Thread.tstate hleft.thread).trans hstop.1, (congrArg Thread.pc hleft.thread).trans hstop.2⟩
  · obtain ⟨t, ht, hleft⟩ := hi.onThread_leaves (i := .eret w) (u := Thread.eret) (c := .ret th.epc) rfl
      (by rw [userFault_supervisor hm]) nofun (fun _ hs => hs) (fun _ _ => stall_settle_ret ..)
    exact ⟨t, ht, hleft.mem, hleft.thread⟩
  · exact hi.onThread_fault (i := .eret w) rfl (by rw [userFault_user hm])

/-- Settles O15: an instruction that does not complete leaves its thread as its control answer says. -/
theorem waitTrapBreakAndReturn : Obligations.WaitTrapBreakAndReturn := ⟨waitEndsWithAnEventOfItsMask, trapBreakAndReturn⟩

end Sys2Proof.Claims

namespace Sys2Proof.Claims

open Sys2Proof.Machine

/-! ### Fences (R292, R294, R295) -/

section
variable {w : Who} {s : State}

/-- An instruction that stalls without interrupt (R158), and has changed its thread before. -/
theorem Issues.left_stall_updThread (hi : Issues w none s) {u : Thread → Thread}
    (hu : ∀ th, th.stall ≠ some .credit → (u th).stall ≠ some .credit) (f : Form) {r : Stall} (on : Nat) (hr : r.interruptible = false) :
    Left w (fun th => stalled w s r on (u th)) s { s with hw := ((slot w s).updThread w u).settle w f s.mem (.stall r on) } := by
  have hx := effected_updThread w u (slot w s)
  have hself : ((slot w s).updThread w u).core w.core = ((slot w s).core w.core).updThread w.thread u := Hw.core_updCore_self ..
  have hunsent : (((slot w s).updThread w u).thread w).stall ≠ some .credit := by
    rw [hx.thread]
    exact hu _ hi.unsent
  obtain ⟨n, hcore⟩ := core_settle_stall hunsent f s.mem on (.inl hr)
  refine { thread := ?_, threads := fun v hv => ?_, core := ?_, cores := fun c hc => ?_, clock := ?_, mem := rfl, pending := rfl }
  · rw [Hw.thread, hcore, Core.thread_noted, Core.thread_updThread_self, hx.thread, hx.cycle]
    rfl
  · rw [hcore, Core.thread_noted, Core.thread_updThread_ne _ hv, hx.threads v hv]
  · rw [hcore, hself]
    exact sameCore_updThread_updThread_noted ..
  · exact (Hw.core_settle_ne _ w (fun hv => hc (Fin.ext hv)) f s.mem _).trans (hx.cores c hc)
  · exact (Hw.clock_settle _ w f s.mem _).trans hx.clock

/-- What a thread that stalls in a fence waits for. -/
def fencedAt (n : Nat) (th : Thread) : Thread := { th with fence := some n }

variable {i : Instr} {sc : Scope}

/-- A fence of a thread that is in no fence issues. -/
theorem fence_issues (hs : (s.hw.thread w).stall ≠ some .fence) (sc : Scope) : onHw (fence w sc) s = onHw (fenceIssue w sc) s := by
  simp only [onHw, fence, if_neg hs]

/-- Where the condition of its scope holds, it completes. -/
theorem Issues.fence_done (hi : Issues w none s) (hs : (s.hw.thread w).stall ≠ some .fence) (he : exec i s = onHw (fence w sc) s)
    (hf : formOf i = {}) (hm : fenceMet (slot w s) w sc ((slot w s).core w.core).evSerial = true) : Runs i s (Ran w none 1 id s) := by
  rw [fence_issues hs, fenceIssue, ← hf] at he
  exact hi.runs_ran (.inl rfl) he (by rw [if_pos hm]) keepsIssue_id (effected_id w _)

/-- Else its thread stalls in it. -/
theorem Issues.fence_waits (hi : Issues w none s) (hs : (s.hw.thread w).stall ≠ some .fence) (he : exec i s = onHw (fence w sc) s)
    (hm : fenceMet (slot w s) w sc ((slot w s).core w.core).evSerial = false) :
    Yields i s (Left w (fun th => stalled w s .fence 0 (fencedAt ((slot w s).core w.core).evSerial th)) s) := by
  refine ⟨_, he.trans (fence_issues hs sc), ?_⟩
  rw [fenceIssue, hi.runInstr (.inl rfl), if_neg (by rw [hm]; decide)]
  exact hi.left_stall_updThread (u := fencedAt _) (fun _ h => h) {} 0 rfl

variable {x : Hw}

/-- The conditions of the scopes. -/
theorem fenceMet_frame_iff (n : Nat) : fenceMet x w .frame n = true ↔ n ≤ (x.core w.core).evDone ∧ (x.thread w).notices = 0 := by
  simp [fenceMet]

/-- As `fenceMet_frame_iff`. -/
theorem fenceMet_system_iff (n : Nat) :
    fenceMet x w .system n = true ↔ (n ≤ (x.core w.core).evDone ∧ (x.thread w).notices = 0) ∧ (x.thread w).remoteTo = [] := by
  simp [fenceMet, remoteDone]

/-- A thread that has left its fence. -/
def unfenced (th : Thread) : Thread := { th with fence := none }

/-- A fence that its thread waits in ends in the first slot in which its condition holds. -/
theorem fence_ends (hs : (s.hw.thread w).stall = some .fence) (hrun : (s.hw.thread w).tstate = .running)
    (hx : s.hw.slotWhere w (fun y => y.canIssue w && y.fenceOver w sc) = some x) (m : Mem) :
    fence w sc m s.hw = (x.updThread w unfenced).settle w {} m (.done 0) := by
  unfold fence
  rw [if_pos hs]
  unfold fenceEnd
  rw [if_neg (by rw [hrun]; decide)]
  split
  next y hy =>
    obtain rfl : y = x := Option.some.inj (hy.symm.trans hx)
    rfl
  next hy => exact absurd (hy.symm.trans hx) nofun

/-- A fence is no first word of a pair. -/
theorem isFirst_empty (h : Hw) (w : Who) (m : Mem) : h.isFirst w {} m = false := by
  simp [Hw.isFirst]

/-- A fence that ends in a slot leaves its thread to issue there. -/
theorem settled_fence (h : Hw) (w : Who) (m : Mem) : (h.traceCtl w (.done 0)).settled w {} m (.done 0) =
    (h.thread w).finish (h.thread w).words (Max.max (h.thread w).nextIssue (h.cycle w.core)) := by
  simp [Hw.settled, isFirst_empty, Thread.settle, Hw.cycle]

/-- Its thread goes on behind it, and no other core changes. -/
theorem fence_settle (hs : (x.thread w).stall = some .fence) (m : Mem) {h : Hw} (hh : h = (x.updThread w unfenced).settle w {} m (.done 0)) :
    h.thread w = (unfenced (x.thread w)).finish (x.thread w).words (Max.max (x.thread w).nextIssue (x.cycle w.core)) ∧
    h.clock = x.clock ∧ ∀ c : CoreId, c ≠ w.core → h.core c = x.core c := by
  have hy := effected_updThread w unfenced x
  set y := x.updThread w unfenced
  have hend : (y.traceCtl w (.done 0)).settled w {} m (.done 0) =
      (unfenced (x.thread w)).finish (x.thread w).words (Max.max (x.thread w).nextIssue (x.cycle w.core)) := by
    rw [settled_fence, hy.thread, hy.cycle]
    rfl
  have hunsent : (y.thread w).stall ≠ some .credit := by
    rw [hy.thread, show (unfenced (x.thread w)).stall = some .fence from hs]
    decide
  obtain ⟨n, hcore⟩ := Hw.core_settle_unstalled (f := {}) (m := m) (c := .done 0) hunsent (by rw [hend]; exact Thread.stall_finish ..)
  subst hh
  refine ⟨?_, (Hw.clock_settle ..).trans hy.clock, fun c hc => ?_⟩
  · rw [Hw.thread, hcore, Core.thread_noted, Core.thread_updThread_self, hend]
  · exact (Hw.core_settle_ne _ w (fun hv => hc (Fin.ext hv)) {} m _).trans (hy.cores c hc)

/-- The fences. -/
theorem fencesCompleteWhenTheirConditionHolds : FencesCompleteWhenTheirConditionHolds := by
  refine ⟨fun w s hi hs => ?_, fun w x s hs hrun q hq hx hxs => ?_⟩
  · intro th k done waits
    refine ⟨?_, fun he hn => ?_, fun he hn hr => ?_, fun hn => ⟨?_, ?_⟩, fun hr => ?_⟩
    · exact hi.fence_done hs (sc := .core) rfl rfl rfl
    · exact hi.fence_done hs (sc := .frame) rfl rfl ((fenceMet_frame_iff _).2 ⟨he, hn⟩)
    · exact hi.fence_done hs (sc := .system) rfl rfl ((fenceMet_system_iff _).2 ⟨⟨he, hn⟩, hr⟩)
    · refine hi.fence_waits hs (sc := .frame) rfl (Bool.eq_false_iff.2 fun hm => ?_)
      obtain ⟨he, h0⟩ := (fenceMet_frame_iff _).1 hm
      exact hn.elim (Nat.not_lt.2 he) (· h0)
    · refine hi.fence_waits hs (sc := .system) rfl (Bool.eq_false_iff.2 fun hm => ?_)
      obtain ⟨⟨he, h0⟩, -⟩ := (fenceMet_system_iff _).1 hm
      exact hn.elim (Nat.not_lt.2 he) (· h0)
    · refine hi.fence_waits hs (sc := .system) rfl (Bool.eq_false_iff.2 fun hm => hr ?_)
      exact ((fenceMet_system_iff _).1 hm).2
  · have hends := fence_settle hxs s.mem (fence_ends hs hrun hx s.mem)
    have he : exec q.1 s = onHw (fence w q.2) s := by
      simp only [List.mem_cons, List.not_mem_nil, or_false] at hq
      rcases hq with rfl | rfl | rfl <;> rfl
    exact ⟨_, he, hends⟩

end

/-! ### CINV (R236, R237) -/

/-- The start of a CINV walk, or its end. -/
def withCinv (v : Option Cinv) (k : Core) : Core := { k with cinv := v }

/-- A walk that has begun, and holds its thread at the CINV. -/
structure CinvBegun (w : Who) (v : Cinv) (h x : Hw) : Prop where
  cinv : (x.core w.core).cinv = some v
  cache : (x.core w.core).cache = (h.core w.core).cache
  stall : (x.thread w).stall = some .cinv
  pc : (x.thread w).pc = (h.thread w).pc

/-- Settling keeps the walk. -/
theorem cinvBegun_settle {h : Hw} {w : Who} (hs : (h.thread w).stall ≠ some .credit) (v : Cinv) (m : Mem) :
    CinvBegun w v h ((h.updCore w.core (withCinv (some v))).settle w {} m (.stall .cinv 0)) := by
  have hself : (h.updCore w.core (withCinv (some v))).core w.core = withCinv (some v) (h.core w.core) := Hw.core_updCore_self ..
  have hthread : (h.updCore w.core (withCinv (some v))).thread w = h.thread w := by
    rw [Hw.thread, hself]
    rfl
  obtain ⟨n, hcore⟩ := core_settle_stall (w := w) (by rwa [hthread]) {} m (r := .cinv) 0 (.inl rfl)
  have hsame : SameCore (((h.updCore w.core (withCinv (some v))).settle w {} m (.stall .cinv 0)).core w.core) (withCinv (some v) (h.core w.core)) := by
    rw [hcore, hself]
    exact sameCore_updThread_noted ..
  have hend : ((h.updCore w.core (withCinv (some v))).settle w {} m (.stall .cinv 0)).thread w =
      (h.thread w).settle ((h.updCore w.core (withCinv (some v))).cycle w.core) (.stall .cinv 0) := by
    rw [Hw.thread, hcore, Core.thread_noted, Core.thread_updThread_self, hthread]
  exact { cinv := (congrArg Core.cinv hsame :), cache := (congrArg Core.cache hsame :), stall := congrArg Thread.stall hend,
          pc := (congrArg Thread.pc hend :) }

/-- A CINV that no other holds up begins its walk in the next cycle, and holds its thread. -/
theorem Issues.cinv_begins {w : Who} {s : State} (hi : Issues w none s) (hk : ((slot w s).core w.core).cinv = none) {i : Instr} {sc : Scope}
    (he : exec i s = onHw (cinv w sc) s) :
    Acts i s (CinvBegun w { thread := w.thread, scope := sc, at_ := issueCycle w s + 1 } (slot w s)) := by
  refine ⟨_, he, ?_⟩
  rw [cinv, hi.runInstr (.inl rfl), hk]
  exact cinvBegun_settle hi.unsent _ _

end Sys2Proof.Claims

namespace Sys2Proof.Machine

/-- What each of the steps of an iteration takes on holds after them. -/
theorem iter_induction {α : Type} {P : Nat → α → Prop} {f : Nat → α → α} {x : α} (n : Nat) (h0 : P 0 x)
    (hstep : ∀ i < n, ∀ y, P i y → P (i + 1) (f i y)) : P n (iter n f x) := by
  induction n with
  | zero => exact h0
  | succ n ih =>
    rw [iter, List.range_succ, List.foldl_append]
    exact hstep n (Nat.lt_succ_self n) _ (ih fun i hi => hstep i (Nat.lt_succ_of_lt hi))

/-- What the lines `ls` that have moved to the eviction buffer one after another leave of the core. -/
structure Evicted (ls : List CLine) (k l : Core) : Prop where
  cache : l.cache = k.cache
  miss : l.miss = k.miss
  length : l.evb.length = k.evb.length + ls.length
  kept : ∀ e ∈ k.evb, e ∈ l.evb
  moved : ∀ x ∈ ls, ∃ e ∈ l.evb, e.key = x.key ∧ e.data = x.data ∧ e.mask = x.mask

/-- Each line moves. -/
theorem evicted_foldl (ls : List CLine) (k : Core) : Evicted ls k (ls.foldl (fun k l => k.evict l.key l.data l.mask) k) := by
  induction ls generalizing k with
  | nil => exact ⟨rfl, rfl, rfl, fun _ he => he, nofun⟩
  | cons x xs ih =>
    obtain ⟨hcache, hmiss, hlength, hkept, hmoved⟩ := ih (k.evict x.key x.data x.mask)
    refine ⟨hcache, hmiss, ?_, fun e he => hkept e (List.mem_append_left _ he), fun y hy => ?_⟩
    · rw [List.foldl_cons, hlength, Core.evict, List.length_append, List.length_singleton, List.length_cons]
      omega
    · rcases List.mem_cons.1 hy with rfl | hy
      · exact ⟨_, hkept _ (List.mem_append_right _ (List.mem_singleton.2 rfl)), rfl, rfl, rfl⟩
      · exact hmoved y hy

/-- The dirty lines of a set of a CINV walk. -/
def Core.dirtyIn (k : Core) (n : Nat) : List CLine := inOrder wayOrder (k.cache.filter (fun l => l.key % 128 == n && l.mask != 0))

/-- They are the lines of the set with a byte to write. -/
theorem Core.mem_dirtyIn {k : Core} {n : Nat} {l : CLine} : l ∈ k.dirtyIn n ↔ l ∈ k.cache ∧ l.key % 128 = n ∧ l.mask ≠ 0 := by
  rw [Core.dirtyIn, inOrder, List.mem_insertionSort, List.mem_filter]
  simp

/-- The dirty lines of a cache are those of the set and those of the others. -/
theorem Core.length_dirtyIn_add (k : Core) (n : Nat) : (k.dirtyIn n).length +
    ((k.cache.filter (fun l => l.key % 128 != n)).filter (·.mask != 0)).length = (k.cache.filter (·.mask != 0)).length := by
  rw [List.length_eq_length_filter_add (l := k.cache.filter (·.mask != 0)) (fun l => l.key % 128 == n), Core.dirtyIn, inOrder,
    List.length_insertionSort, List.filter_filter, List.filter_filter, List.filter_filter]
  simp only [bne, Bool.and_comm]

/-- A set of a CINV walk is done: its lines leave the cache, and the walk goes on to the next. -/
def Core.nextSet (k : Core) (v : Cinv) : Core :=
  { k with cache := k.cache.filter (fun l => l.key % 128 != v.set)
           cinv := some { v with set := v.set + 1, at_ := v.at_ + 1, serial := k.evSerial } }

/-- With room for the dirty lines of its set, a step of a CINV walk moves them and goes on to the next set. -/
theorem Core.cinvSet_room {k : Core} {v : Cinv} (hroom : (k.dirtyIn v.set).length + k.evb.length ≤ 8) :
    ∃ l, Evicted (k.dirtyIn v.set) k l ∧ k.cinvSet v = l.nextSet v := by
  have htake : (k.dirtyIn v.set).take (8 - k.evb.length) = k.dirtyIn v.set := List.take_of_length_le (by omega)
  refine ⟨_, evicted_foldl _ k, ?_⟩
  rw [Core.dirtyIn] at htake ⊢
  simp only [Core.cinvSet, htake, if_pos]
  rfl

/-- A CINV walk that has reached set `i`: the lines of the sets before have left the cache, the dirty ones for the eviction buffer, which
has room for the rest. -/
structure Walked (k : Core) (v : Cinv) (i : Nat) (l : Core) : Prop where
  cinv : ∃ n, l.cinv = some { v with set := i, at_ := v.at_ + i, serial := n }
  miss : l.miss = k.miss
  cache : l.cache = k.cache.filter (fun x => decide (i ≤ x.key % 128))
  room : (l.cache.filter (·.mask != 0)).length + l.evb.length ≤ 8
  moved : ∀ x ∈ k.cache, x.mask ≠ 0 → x.key % 128 < i → ∃ e ∈ l.evb, e.key = x.key ∧ e.data = x.data ∧ e.mask = x.mask

/-- A walk goes on to the next set. -/
theorem Walked.cinvSet {k l : Core} {v : Cinv} {i n : Nat} (hl : Walked k v i l) :
    Walked k v (i + 1) (l.cinvSet { v with set := i, at_ := v.at_ + i, serial := n }) := by
  have hsplit := l.length_dirtyIn_add i
  have hroom := hl.room
  obtain ⟨m, ⟨hcache, hmiss, hlength, hkept, hmoved⟩, hset⟩ :=
    Core.cinvSet_room (k := l) (v := { v with set := i, at_ := v.at_ + i, serial := n }) (by dsimp only; omega)
  rw [hset]
  refine ⟨⟨m.evSerial, rfl⟩, hmiss.trans hl.miss, ?_, ?_, fun x hx hm hi => ?_⟩
  · rw [Core.nextSet, hcache, hl.cache, List.filter_filter]
    refine List.filter_congr fun x _ => ?_
    rw [Bool.eq_iff_iff]
    simp
    omega
  · dsimp only [Core.nextSet] at hlength ⊢
    rw [hcache]
    omega
  · rcases Nat.lt_succ_iff_lt_or_eq.1 hi with hi | hi
    · obtain ⟨e, he, heq⟩ := hl.moved x hx hm hi
      exact ⟨e, hkept e he, heq⟩
    · refine hmoved x (Core.mem_dirtyIn.2 ⟨?_, hi, hm⟩)
      rw [hl.cache]
      exact List.mem_filter.2 ⟨hx, decide_eq_true hi.ge⟩

/-- A CINV walk that has its sets due, no line on its way and room for the dirty lines comes to its end. -/
theorem Core.walked_cinvTo {k : Core} {v : Cinv} {cyc : Nat} (hk : k.cinv = some v) (h0 : v.set = 0) (hcyc : v.at_ + 127 ≤ cyc)
    (hmiss : ∀ r : Fin 8, k.miss[r] = none) (hroom : (k.cache.filter (·.mask != 0)).length + k.evb.length ≤ 8) :
    Walked k v 128 (k.cinvTo cyc) := by
  have hstart : Walked k v 0 k := by
    refine ⟨⟨v.serial, by rw [hk, Nat.add_zero, ← h0]⟩, rfl, by simp, hroom, nofun⟩
  refine iter_induction 128 hstart fun i hi l hl => ?_
  obtain ⟨n, hn⟩ := hl.cinv
  have hfilled : l.miss.all Option.isNone = true := by
    rw [hl.miss, Vector.all_eq_true]
    intro r hr
    rw [show k.miss[r] = none from hmiss ⟨r, hr⟩]
    rfl
  simp only [hn]
  rw [if_pos ⟨by omega, hi, hfilled⟩]
  exact hl.cinvSet

end Sys2Proof.Machine

namespace Sys2Proof.Claims

open Sys2Proof.Machine

/-- CINV_COMPLETE, of a walk that has come to its end and whose scope's condition holds. -/
theorem cinvComplete_ends {c : CoreId} {v v1 : Cinv} {h h1 : Hw} (hv : (h.core c).cinv = some v)
    (h1eq : (h.coreEvent c (v.at_ + 127 - v.set)).updCore c (·.cinvTo (Max.max (v.at_ + 127 - v.set) (h.cycle c))) = h1)
    (hv1 : (h1.core c).cinv = some v1) (hset : v1.set = 128) (hf : (h.core c).frozenAt = none)
    (hm : fenceMet h1 ⟨c, v.thread⟩ v1.scope v1.serial = true) :
    cinvComplete c h = (h1.updCore c (withCinv none)).release ⟨c, v.thread⟩ 1 := by
  subst h1eq
  simp only [cinvComplete, hv, hv1]
  rw [if_pos ⟨hset, by rw [hf]; rfl, hm⟩]
  rfl

/-- The walk has ended, and its thread goes on. -/
theorem release_cinv {c : CoreId} {t : Fin 4} {h x : Hw} (hx : x = (h.updCore c (withCinv none)).release ⟨c, t⟩ 1) :
    (x.core c).cinv = none ∧ x.clock = h.clock ∧
    ((h.thread ⟨c, t⟩).tstate = .running → (x.thread ⟨c, t⟩).pc = (h.thread ⟨c, t⟩).pc + 4 ∧ (x.thread ⟨c, t⟩).stall = none) := by
  have hself : (h.updCore c (withCinv none)).core c = withCinv none (h.core c) := Hw.core_updCore_self ..
  obtain ⟨hrest, hclock, -⟩ := synced_release c t 1 (h.updCore c (withCinv none))
  have hthread := Hw.thread_release_self c t (h.updCore c (withCinv none))
  rw [← hx] at hrest hclock hthread
  rw [hself] at hrest hthread
  refine ⟨(congrArg Core.cinv hrest :), hclock, fun hrun => ?_⟩
  obtain ⟨hstall, hpc, -⟩ := Thread.synced_running (th := (withCinv none (h.core c)).thread t) hrun ((h.updCore c (withCinv none)).cycle c)
  rw [← hthread] at hstall hpc
  exact ⟨hpc, hstall⟩

/-- CINV begins, walks its sets, and ends. -/
theorem cacheInvalidationEmptiesTheCache : CacheInvalidationEmptiesTheCache := by
  refine ⟨fun w s hi hk x hx => ?_, fun k v cyc hk h0 hcyc hmiss hroom => ?_, fun c v v1 s hv => ?_⟩
  · have he : exec x.1 s = onHw (cinv w x.2) s := by
      simp only [List.mem_cons, List.not_mem_nil, or_false] at hx
      rcases hx with rfl | rfl | rfl <;> rfl
    obtain ⟨h, hnext, hcinv, hcache, hstall, hpc⟩ := hi.cinv_begins hk he
    exact ⟨h, hnext, hcinv, hcache, hstall, hpc⟩
  · obtain ⟨⟨n, hn⟩, -, hcache, -, hmoved⟩ := Core.walked_cinvTo hk h0 hcyc hmiss hroom
    refine ⟨?_, by rw [hn]; rfl, fun l hl hm => hmoved l hl hm (Nat.mod_lt _ (by decide))⟩
    rw [hcache, List.filter_eq_nil_iff]
    intro l _
    rw [decide_eq_true_eq]
    exact Nat.not_le.2 (Nat.mod_lt _ (by decide))
  · intro last h1 hv1 hset hf hm
    obtain ⟨hcinv, hclock, hgo⟩ := release_cinv (cinvComplete_ends hv rfl hv1 hset hf hm)
    exact ⟨_, rfl, hcinv, hclock, fun hrun _ _ => hgo hrun⟩

/-- Settles O13: a fence ends with its condition, and a walk by induction on its sets. -/
theorem fencesAndCacheInvalidation : Obligations.FencesAndCacheInvalidation :=
  ⟨fencesCompleteWhenTheirConditionHolds, cacheInvalidationEmptiesTheCache⟩

end Sys2Proof.Claims

namespace Sys2Proof.Machine

/-! ### The end of an instruction of one slot (R137, R157, R258) -/

section
variable {h : Hw} {w : Who}

/-- It leaves the data registers, the notices awaited and the modules sent to. -/
theorem Hw.settled_done_kept (h : Hw) (w : Who) (f : Form) (m : Mem) :
    (h.settled w f m (.done 1)).d = (h.thread w).d ∧ (h.settled w f m (.done 1)).notices = (h.thread w).notices ∧
    (h.settled w f m (.done 1)).remoteTo = (h.thread w).remoteTo := by
  unfold Hw.settled
  dsimp only
  split
  · exact ⟨rfl, rfl, rfl⟩
  · unfold Thread.settle Thread.finish Thread.boundary
    dsimp only
    split <;> exact ⟨rfl, rfl, rfl⟩

/-- The end of a stalled send changes no thread. -/
theorem Core.thread_sendEnds (k : Core) (o : Option (Fin 16)) (t : Fin 4) : (k.sendEnds o).thread t = k.thread t := by
  cases o with
  | none => rfl
  | some n =>
    unfold Core.sendEnds Core.unstall
    dsimp only
    split <;> rfl

/-- It changes no count of the stores and sends of a module. -/
theorem Core.remoteOut_sendEnds (k : Core) (o : Option (Fin 16)) : (k.sendEnds o).remoteOut = k.remoteOut := by
  cases o with
  | none => rfl
  | some n =>
    unfold Core.sendEnds Core.unstall
    dsimp only
    split <;> rfl

/-- It uses no credit. -/
theorem Core.credits_sendEnds (k : Core) (o : Option (Fin 16)) (n : Fin 16) : (k.sendEnds o).tenons[n].credits = k.tenons[n].credits := by
  cases o with
  | none => rfl
  | some m =>
    unfold Core.sendEnds Core.unstall
    dsimp only
    split
    · rfl
    · by_cases hn : m = n
      · simp [Core.updTenon, hn]
      · simp [Core.updTenon, Fin.val_inj, hn]

/-- Nor does the detector's note. -/
theorem Core.tenons_noted (k : Core) (n : Nat) : (k.noted n).tenons = k.tenons := by
  unfold Core.noted
  dsimp only
  split <;> rfl

/-- As `Core.tenons_noted`. -/
theorem Core.remoteOut_noted (k : Core) (n : Nat) : (k.noted n).remoteOut = k.remoteOut := by
  unfold Core.noted
  dsimp only
  split <;> rfl

/-- The core, where no prefix waited: a stalled send may have ended. -/
theorem Hw.core_settle_done (hp : (h.thread w).pfx = none) (f : Form) (m : Mem) : ∃ n o, (h.settle w f m (.done 1)).core w.core =
    (((h.core w.core).updThread w.thread (fun _ => h.settled w f m (.done 1))).sendEnds o).noted n := by
  have hstall : (((((h.core w.core).updThread w.thread (fun _ => h.settled w f m (.done 1))).sendEnds
      ((h.core w.core).thread w.thread).sendOn).thread w.thread).stall) = none := by
    rw [Core.thread_sendEnds, Core.thread_updThread_self]
    exact (Hw.settled_done hp f m).2
  simp only [Hw.settle, Hw.noted, Hw.core_updCore_self, Hw.core_traceCtl]
  exact ⟨_, _, congrArg (Core.noted · _) (Core.stopStalled_unstalled hstall)⟩

/-- Its thread. -/
theorem Hw.thread_settle_done (hp : (h.thread w).pfx = none) (f : Form) (m : Mem) :
    (h.settle w f m (.done 1)).thread w = h.settled w f m (.done 1) := by
  obtain ⟨n, o, hcore⟩ := Hw.core_settle_done hp f m
  rw [Hw.thread, hcore, Core.thread_noted, Core.thread_sendEnds, Core.thread_updThread_self]

end

end Sys2Proof.Machine

namespace Sys2Proof.Claims

open Sys2Proof.Machine

/-! ### RECV and CREDIT (R150, R151, R155, R247) -/

/-- The words of an entry in four registers. -/
def received (d : Fin 32) (e : Entry) (th : Thread) : Thread :=
  [0, 1, 2, 3].foldl (fun (th : Thread) (j : Nat) => th.setD (fin 32 (d.val + j)) (e.words.getD j 0)) th

/-- Absent words are 0. -/
theorem getD_received {d : Fin 32} (hd : d.val % 4 = 0) (e : Entry) (th : Thread) (q : Fin 32) :
    (received d e th).d[q] = if d.val ≤ q.val ∧ q.val < d.val + 4 then e.words.getD (q.val - d.val) 0 else th.d[q] := by
  have hlast : d.val + 3 < 32 := by omega
  have hreg : ∀ j < 4, (fin 32 (d.val + j)).val = d.val + j := fun j hj => Nat.mod_eq_of_lt (by omega)
  simp only [received, List.foldl_cons, List.foldl_nil, Thread.setD, Fin.getElem_fin, Vector.getElem_set,
    hreg 0 (by decide), hreg 1 (by decide), hreg 2 (by decide), hreg 3 (by decide)]
  by_cases hq : d.val ≤ q.val ∧ q.val < d.val + 4
  · rw [if_pos hq]
    split_ifs
    iterate 4 exact congrArg (e.words.getD · 0) (by omega)
    omega
  · rw [if_neg hq, if_neg (by omega), if_neg (by omega), if_neg (by omega), if_neg (by omega)]

/-- What RECV does. -/
def recvBody (w : Who) (d : Fin 32) (m : Fin 16) (h : Hw) : Ctl × Hw :=
  let th := h.thread w
  if d.val % 4 ≠ 0 then (faultAt th excIllegal, h)
  else
    match headOperand th (h.core w.core) m with
    | .inr c => (c, h)
    | .inl e => (.done 1, ((h.updThread w (received d e)).traceEv w 3 th.pc m).popMortise w.core m)

/-- RECV. -/
theorem exec_recv (w : Who) (d : Fin 32) (m : Fin 16) (s : State) : exec (.recv w d m) s = onHw (runInstr w {} (fun _ => recvBody w d m)) s :=
  rfl

section
variable {w : Who} {d : Fin 32} {m : Fin 16} {h : Hw} {e : Entry} {rest : List Entry}

/-- The first register is no multiple of 4. -/
theorem recvBody_misaligned (hd : d.val % 4 ≠ 0) : recvBody w d m h = (.fault { code := 0x01, epc := (h.thread w).pc }, h) := if_pos hd

/-- The mortise is empty. -/
theorem recvBody_empty (hd : d.val % 4 = 0) (hm : (h.core w.core).mortises[m] = []) : recvBody w d m h = (.stall .mortise m, h) := by
  simp only [recvBody, headOperand, hd, hm, ne_eq, not_true_eq_false, if_false]

/-- A stream entry stands first. -/
theorem recvBody_stream (hd : d.val % 4 = 0) (hm : (h.core w.core).mortises[m] = e :: rest) (he : e.stream = true) :
    recvBody w d m h = (.fault { code := 0x22, epc := (h.thread w).pc }, h) := by
  simp only [recvBody, headOperand, hd, hm, he, ne_eq, not_true_eq_false, if_false, if_true]
  rfl

/-- Another entry stands first. -/
theorem recvBody_head (hd : d.val % 4 = 0) (hm : (h.core w.core).mortises[m] = e :: rest) (he : e.stream = false) :
    recvBody w d m h = (.done 1, ((h.updThread w (received d e)).traceEv w 3 (h.thread w).pc m).popMortise w.core m) := by
  simp only [recvBody, headOperand, hd, hm, he, ne_eq, not_true_eq_false, if_false, Bool.false_eq_true]

/-- The end of an instruction reads no data register. -/
theorem keepsIssue_received (d : Fin 32) (e : Entry) : KeepsIssue (received d e) := {}

end

/-- What CREDIT writes. -/
def credited (d : Fin 32) (n : Nat) (th : Thread) : Thread :=
  { (th.setD d (BitVec.ofNat 64 n)) with fz := decide (n = 0), fn := false, fc := false, fv := false }

/-- The end of an instruction reads none of it. -/
theorem keepsIssue_credited (d : Fin 32) (n : Nat) : KeepsIssue (credited d n) := {}

/-- The end of the instruction leaves the credit on its way. -/
theorem CreditBack.settle {c : CoreId} {m : Fin 16} {owed : CreditTo} {y x : Hw} (hb : CreditBack c m owed y x) {w : Who} {f : Form}
    {mem : Mem} : CreditBack c m owed y (x.settle w f mem (.done 1)) := by
  cases owed <;> exact hb

/-- CREDIT and RECV. -/
theorem receivesTakeTheHeadEntry : ReceivesTakeTheHeadEntry := by
  intro w n m d s hi x th c
  refine ⟨?_, fun e rest hd hm he => ?_, fun hd => ?_, fun hd hm hstop => ?_, fun e rest hd hm he => ?_⟩
  · refine hi.runs_ran (i := .credit w d n) (.inl rfl) rfl rfl (keepsIssue_credited d _) (effected_updThread w _ _)
  · have hpop := popped_popMortise (keepsIssue_received d e) hm th.pc
    have hx := effected_pop (u := received d e) hm th.pc
    set y := ((x.updThread w (received d e)).traceEv w 3 th.pc m).popMortise w.core m
    have hnext : exec (.recv w d m) s = .next { s with hw := y.settle w {} s.mem (.done 1) } := by
      rw [exec_recv, onHw_eq, hi.runInstr (.inl rfl), recvBody_head hd hm he]
    have hpfx : (y.thread w).pfx = none := hpop.pfx.trans hi.pfx
    have hthread := Hw.thread_settle_done hpfx {} s.mem
    obtain ⟨hregs, -⟩ := y.settled_done_kept w {} s.mem
    refine ⟨_, hnext, fun q => ?_, ?_, hpop.mortises_settle hi {}, hpop.credit.settle⟩
    · rw [Thread.getD, hthread, hregs, hx.thread]
      exact getD_received hd e _ q
    · rw [hthread, (Hw.settled_done hpfx {} s.mem).1, hx.thread, (keepsIssue_received d e).pc]
  · exact hi.yields_fault (.inl rfl) (exec_recv w d m s) (recvBody_misaligned hd)
  · exact hi.yields_stall (.inl rfl) (exec_recv w d m s) (recvBody_empty hd hm) (.inr hstop)
  · exact hi.yields_fault (.inl rfl) (exec_recv w d m s) (recvBody_stream hd hm he)

end Sys2Proof.Claims

namespace Sys2Proof.Machine

/-! ### A tuple is sent (R244, R245, R249, R256, R295) -/

/-- Tracing leaves the tuples in flight. -/
theorem Hw.tuples_traceEv (h : Hw) (w : Who) (k : Nat) (pc : BitVec 20) (d : Nat) : (h.traceEv w k pc d).tuples = h.tuples := by
  unfold Hw.traceEv
  dsimp only
  split <;> rfl

/-- An entry of the trace leaves the egress entries. -/
theorem Bent.egress_traceAdd (b : Bent) (now : Nat) (e : BitVec 128) : (b.traceAdd now e).egress = b.egress := by
  unfold Bent.traceAdd
  dsimp only
  split <;> rfl

/-- So does tracing. -/
theorem Hw.egress_traceEv (h : Hw) (w : Who) (k : Nat) (pc : BitVec 20) (d : Nat) (b : Nat) :
    ((h.traceEv w k pc d).bent b).egress = (h.bent b).egress := by
  unfold Hw.traceEv
  dsimp only
  split
  · by_cases hb : b = bentOf w.core
    · subst hb
      rw [Hw.bent_updBent_self, Bent.egress_traceAdd]
    · rw [Hw.bent_updBent_ne _ hb]
  · rfl

/-- A credit is used. -/
def spend (x : Tenon) : Tenon := { x with credits := x.credits - 1 }

/-- A notice is awaited for a tuple (R294). -/
def notified (th : Thread) : Thread := { th with notices := th.notices + 1 }

/-- A tuple has gone to a module (R295). -/
def sentTo (m : Nat) (th : Thread) : Thread :=
  { th with remoteTo := if th.remoteTo.contains m then th.remoteTo else m :: th.remoteTo }

/-- A core counts a tuple to a module. -/
def countOut (m : Nat) (k : Core) : Core := { k with remoteOut := sset m (sgetD m 0 k.remoteOut + 1) k.remoteOut }

/-- The tuple that a send makes of its words. -/
def Hw.tupleOf (h : Hw) (c : CoreId) (t : Fin 4) (n : Fin 16) (words : List W64) (tag : BitVec 6) (stream : Bool) (now : Nat) : Tuple :=
  let ten := (h.core c).tenons[n]
  let r := Route.of ten.active
  { sender := c, thread := t, tenon := n, epoch := ten.epoch, target := coreId r.target, mort := r.mort, addr := r.addr,
    words := words, k := BitVec.ofNat 2 (words.length - 1), tag := tag, stream := stream, due := now, flit := 0 }

/-- Tracing is not read by it. -/
theorem Hw.tupleOf_traceEv (h : Hw) (w : Who) (i : Nat) (pc : BitVec 20) (d : Nat) (c : CoreId) (t : Fin 4) (n : Fin 16) (words : List W64)
    (tag : BitVec 6) (stream : Bool) (now : Nat) :
    (h.traceEv w i pc d).tupleOf c t n words tag stream now = h.tupleOf c t n words tag stream now := by
  simp only [Hw.tupleOf, Hw.core_traceEv]

section
variable {h : Hw} {c : CoreId} {t : Fin 4} {n : Fin 16} {words : List W64} {tag : BitVec 6} {stream : Bool} {now : Nat}

/-- The send of a tuple to a core of the module. -/
theorem Hw.sendTuple_of_local (hr : (Route.of (h.core c).tenons[n].active).remote = false) : h.sendTuple c t n words tag stream now =
    let r := Route.of (h.core c).tenons[n].active
    let p := ((h.updCore c (·.updTenon n spend)).updThread ⟨c, t⟩ notified).post (bentOf c) r.bent (fin 4 r.vc) (now + 8)
    { p.2 with tuples := p.2.tuples ++ [{ h.tupleOf c t n words tag stream now with due := now + tupleLatency c r.target, flit := p.1 }] } := by
  unfold Hw.sendTuple
  exact if_neg (by rw [hr]; decide)

/-- The send of a tuple to another module. -/
theorem Hw.sendTuple_of_remote (hr : (Route.of (h.core c).tenons[n].active).remote = true) : h.sendTuple c t n words tag stream now =
    let r := Route.of (h.core c).tenons[n].active
    let p := (((h.updCore c (·.updTenon n spend)).updCore c (countOut r.module)).updThread ⟨c, t⟩ (sentTo r.module)).post (bentOf c)
      (plateRouter (h.dom.exitPlate r.module)) (fin 4 r.vc) now
    p.2.updBent (bentOf c) (fun b => { b with
      egress := b.egress ++ [{ tup := { h.tupleOf c t n words tag stream now with flit := p.1 }, dmod := r.module, vc := fin 4 r.vc }] }) := by
  unfold Hw.sendTuple
  exact if_pos hr

/-- Such a tuple is in flight. -/
theorem Hw.sendTuple_local (hr : (Route.of (h.core c).tenons[n].active).remote = false) :
    (h.sendTuple c t n words tag stream now).core c = ((h.core c).updTenon n spend).updThread t notified ∧
    (h.sendTuple c t n words tag stream now).clock = h.clock ∧
    ∃ fl, (h.sendTuple c t n words tag stream now).tuples = h.tuples ++ [{ h.tupleOf c t n words tag stream now with
      due := now + tupleLatency c (Route.of (h.core c).tenons[n].active).target, flit := fl }] := by
  rw [Hw.sendTuple_of_local hr]
  obtain ⟨i, fs, hp⟩ := ((h.updCore c (·.updTenon n spend)).updThread ⟨c, t⟩ notified).post_eq (bentOf c)
    (Route.of (h.core c).tenons[n].active).bent (fin 4 (Route.of (h.core c).tenons[n].active).vc) (now + 8)
  dsimp only
  rw [hp]
  refine ⟨?_, rfl, _, rfl⟩
  change ((h.updCore c (·.updTenon n spend)).updThread ⟨c, t⟩ notified).core c = _
  rw [Hw.updThread, Hw.core_updCore_self, Hw.core_updCore_self]

/-- A tuple to another module stands in an egress entry. -/
theorem Hw.sendTuple_remote (hr : (Route.of (h.core c).tenons[n].active).remote = true) :
    let m := (Route.of (h.core c).tenons[n].active).module
    (h.sendTuple c t n words tag stream now).core c = (countOut m ((h.core c).updTenon n spend)).updThread t (sentTo m) ∧
    ∃ fl vc, ((h.sendTuple c t n words tag stream now).bent (bentOf c)).egress = (h.bent (bentOf c)).egress ++
      [{ tup := { h.tupleOf c t n words tag stream now with flit := fl }, dmod := m, vc := vc }] := by
  intro m
  rw [Hw.sendTuple_of_remote hr]
  obtain ⟨i, fs, hp⟩ := (((h.updCore c (·.updTenon n spend)).updCore c (countOut m)).updThread ⟨c, t⟩ (sentTo m)).post_eq (bentOf c)
    (plateRouter (h.dom.exitPlate m)) (fin 4 (Route.of (h.core c).tenons[n].active).vc) now
  dsimp only
  rw [hp, Hw.core_updBent, Hw.bent_updBent_self]
  refine ⟨?_, _, _, rfl⟩
  change (((h.updCore c (·.updTenon n spend)).updCore c (countOut m)).updThread ⟨c, t⟩ (sentTo m)).core c = _
  rw [Hw.updThread, Hw.core_updCore_self, Hw.core_updCore_self, Hw.core_updCore_self]

end

end Sys2Proof.Machine

namespace Sys2Proof.Claims

open Sys2Proof.Machine

/-! ### SEND (R243, R245) -/

/-- What SEND does. -/
def sendBody (w : Who) (n : Fin 16) (sr : Fin 32) (k : BitVec 2) (tag : BitVec 6) (h : Hw) : Ctl × Hw :=
  let th := h.thread w
  let r := Route.of (h.core w.core).tenons[n].active
  if 31 < sr.val + k.toNat then (faultAt th excIllegal, h)
  else if !r.en || routeBad h w.core r (k.toNat + 1) then (faultAt th excChanRoute, h)
  else if (h.core w.core).sendReady n then
    let words := (List.range (k.toNat + 1)).map (fun j => th.getD (fin 32 (sr.val + j)))
    (.done 1, (h.traceEv w 3 th.pc n).sendTuple w.core w.thread n words tag false h.clock)
  else (.stall .credit n, h.updCore w.core (·.stallTenon n (h.cycle w.core)))

/-- SEND. -/
theorem exec_send (w : Who) (n : Fin 16) (sr : Fin 32) (k : BitVec 2) (tag : BitVec 6) (s : State) :
    exec (.send w n sr k tag) s = onHw (runInstr w {} (fun _ => sendBody w n sr k tag)) s := rfl

section
variable {w : Who} {n : Fin 16} {sr : Fin 32} {k : BitVec 2} {tag : BitVec 6} {h : Hw}

/-- Its words lie beyond the registers. -/
theorem sendBody_beyond (hk : 31 < sr.val + k.toNat) : sendBody w n sr k tag h = (.fault { code := 0x01, epc := (h.thread w).pc }, h) :=
  if_pos hk

/-- Its route is bad. -/
theorem sendBody_bad (hk : sr.val + k.toNat ≤ 31) (hr : (Route.of (h.core w.core).tenons[n].active).en = false ∨
    routeBad h w.core (Route.of (h.core w.core).tenons[n].active) (k.toNat + 1) = true) :
    sendBody w n sr k tag h = (.fault { code := 0x28, epc := (h.thread w).pc }, h) := by
  rw [sendBody, if_neg (Nat.not_lt.2 hk), if_pos (by simpa using hr)]
  rfl

section
variable (hk : sr.val + k.toNat ≤ 31) (hen : (Route.of (h.core w.core).tenons[n].active).en = true)
  (hr : routeBad h w.core (Route.of (h.core w.core).tenons[n].active) (k.toNat + 1) = false)
include hk hen hr

/-- Its tenon is not ready. -/
theorem sendBody_stall (hc : (h.core w.core).sendReady n = false) :
    sendBody w n sr k tag h = (.stall .credit n, h.updCore w.core (·.stallTenon n (h.cycle w.core))) := by
  rw [sendBody, if_neg (Nat.not_lt.2 hk), if_neg (by rw [hen, hr]; decide), if_neg (by rw [hc]; decide)]

/-- Its tenon is ready. -/
theorem sendBody_ready (hc : (h.core w.core).sendReady n = true) :
    sendBody w n sr k tag h = (.done 1, (h.traceEv w 3 (h.thread w).pc n).sendTuple w.core w.thread n
      (((h.thread w).d.toList.drop sr.val).take (k.toNat + 1)) tag false h.clock) := by
  have hwords : (List.range (k.toNat + 1)).map (fun j => (h.thread w).getD (fin 32 (sr.val + j))) =
      ((h.thread w).d.toList.drop sr.val).take (k.toNat + 1) := by
    refine List.ext_getElem (by simp; omega) fun j hj _ => ?_
    rw [List.length_map, List.length_range] at hj
    have hreg : (fin 32 (sr.val + j)).val = sr.val + j := Nat.mod_eq_of_lt (by omega)
    simp [Thread.getD, hreg]
  rw [sendBody, if_neg (Nat.not_lt.2 hk), if_neg (by rw [hen, hr]; decide), if_pos hc, hwords]

end

/-- A tenon is not ready without a credit, or while a commit holds it. -/
theorem sendReady_iff (l : Core) (n : Fin 16) : l.sendReady n = true ↔ 0 < l.tenons[n].credits ∧ l.commitHolds n = false := by
  simp [Core.sendReady]

/-- A tenon that is not ready. -/
theorem sendReady_eq_false {l : Core} (hc : l.tenons[n].credits = 0 ∨ l.commitHolds n = true) : l.sendReady n = false := by
  refine Bool.eq_false_iff.2 fun hready => ?_
  obtain ⟨hpos, hfree⟩ := (sendReady_iff l n).1 hready
  rcases hc with hc | hc
  · omega
  · rw [hfree] at hc
    exact absurd hc (by decide)

/-- A bad route apart, the target is a core of the module. -/
theorem target_of_routeBad {x : Hw} {c j : Nat} {r : Route} (hr : routeBad x c r j = false) : (coreId r.target).val = 44 * r.bent + r.core := by
  simp only [routeBad, Bool.or_eq_false_iff, decide_eq_false_iff_not] at hr
  obtain ⟨⟨-, ⟨⟨hbent, hcore⟩, -⟩, -⟩, -⟩ := hr
  exact Nat.mod_eq_of_lt (by rw [Route.target]; omega)

/-- What the end of a SEND leaves of its thread and its core, which the send has changed by `u` and to `l`. -/
structure SentEnds (w : Who) (n : Fin 16) (u : Thread → Thread) (l : Core) (z : Hw) : Prop where
  credits : (z.core w.core).tenons[n].credits = l.tenons[n].credits
  remoteOut : (z.core w.core).remoteOut = l.remoteOut
  pc : (z.thread w).pc = (l.thread w.thread).pc + 4
  regs : (z.thread w).d = (u (l.thread w.thread)).d
  notices : (z.thread w).notices = (u (l.thread w.thread)).notices
  remoteTo : (z.thread w).remoteTo = (u (l.thread w.thread)).remoteTo

/-- A SEND ends in its slot. -/
theorem sentEnds_settle {u : Thread → Thread} {l : Core} {y : Hw} (hu : KeepsIssue u) (hl : y.core w.core = l.updThread w.thread u)
    (hp : (l.thread w.thread).pfx = none) (n : Fin 16) (m : Mem) : SentEnds w n u l (y.settle w {} m (.done 1)) := by
  have hthread : y.thread w = u (l.thread w.thread) := by rw [Hw.thread, hl, Core.thread_updThread_self]
  have hpfx : (y.thread w).pfx = none := by rw [hthread, hu.pfx, hp]
  obtain ⟨i, o, hcore⟩ := Hw.core_settle_done hpfx {} m
  have hend := Hw.thread_settle_done hpfx {} m
  obtain ⟨hregs, hnotices, hremote⟩ := y.settled_done_kept w {} m
  rw [← hend, hthread] at hregs hnotices hremote
  refine { credits := ?_, remoteOut := ?_, pc := ?_, regs := hregs, notices := hnotices, remoteTo := hremote }
  · rw [hcore, Core.tenons_noted, Core.credits_sendEnds, hl]
    rfl
  · rw [hcore, Core.remoteOut_noted, Core.remoteOut_sendEnds, hl]
    rfl
  · rw [hend, (Hw.settled_done hpfx {} m).1, hthread, hu.pc]

/-- The end of an instruction reads no notices awaited. -/
theorem keepsIssue_notified : KeepsIssue notified := {}

/-- Nor the modules sent to. -/
theorem keepsIssue_sentTo (m : Nat) : KeepsIssue (sentTo m) := {}

/-- A module that a tuple has gone to. -/
theorem mem_sentTo (m : Nat) (th : Thread) : m ∈ (sentTo m th).remoteTo := by
  unfold sentTo
  dsimp only
  split
  case isTrue hm => exact List.contains_iff_mem.1 hm
  case isFalse => exact List.mem_cons_self

/-- A tenon that holds a credit has one less. -/
theorem credits_spend {l : Core} (hpos : 0 < l.tenons[n].credits) : (l.updTenon n spend).tenons[n].credits + 1 = l.tenons[n].credits := by
  simp only [Core.updTenon, Fin.getElem_fin, Vector.getElem_set_self, spend]
  exact Nat.sub_add_cancel hpos

/-- A SEND that finds no credit stalls its thread, and the tenon's stall counter runs (R258). -/
theorem settle_stallTenon (hs : (h.thread w).stall ≠ some .credit) (hstop : (h.thread w).stopReq = false) (n : Fin 16) (m : Mem) {x : Hw}
    (hx : x = (h.updCore w.core (·.stallTenon n (h.cycle w.core))).settle w {} m (.stall .credit n)) :
    x.thread w = (h.thread w).settle (h.cycle w.core) (.stall .credit n) ∧
    (x.core w.core).tenons[n] = { (h.core w.core).tenons[n] with
      stallStart := some ((h.core w.core).tenons[n].stallStart.getD (h.cycle w.core)) } := by
  set y := h.updCore w.core (·.stallTenon n (h.cycle w.core)) with hy
  have hself : y.core w.core = (h.core w.core).stallTenon n (h.cycle w.core) := Hw.core_updCore_self ..
  have hthread : y.thread w = h.thread w := by
    rw [Hw.thread, hself]
    rfl
  have hcycle : y.cycle w.core = h.cycle w.core := by
    simp only [Hw.cycle, hself]
    rfl
  obtain ⟨i, hcore⟩ := core_settle_stall (by rwa [hthread]) {} m (r := .credit) n (.inr (by rwa [hthread]))
  subst hx
  constructor
  · rw [Hw.thread, hcore, Core.thread_noted, Core.thread_updThread_self, hthread, hcycle]
  · rw [hcore, Core.tenons_noted, hself]
    simp [Core.stallTenon, Core.updTenon]

/-- What a SEND of `words` leaves in `z` of the slot `x` in which it completes. -/
structure SendDone (w : Who) (n : Fin 16) (words : List W64) (tag : BitVec 6) (r : Route) (x z : Hw) : Prop where
  credits : (z.core w.core).tenons[n].credits + 1 = (x.core w.core).tenons[n].credits
  pc : (z.thread w).pc = (x.thread w).pc + 4
  regs : (z.thread w).d = (x.thread w).d
  near : r.remote = false → (z.thread w).notices = (x.thread w).notices + 1 ∧ ∃ t, z.tuples = x.tuples ++ [t] ∧
    t.words = words ∧ t.target.val = 44 * r.bent + r.core ∧ t.mort = r.mort ∧ t.addr = r.addr ∧ t.tag = tag ∧
    t.stream = false ∧ t.epoch = (x.core w.core).tenons[n].epoch ∧ t.due = x.clock + tupleLatency w.core t.target
  far : r.remote = true → r.module ∈ (z.thread w).remoteTo ∧
    sgetD r.module 0 (z.core w.core).remoteOut = sgetD r.module 0 (x.core w.core).remoteOut + 1 ∧
    ∃ e, (z.bent (w.core.val / 44)).egress = (x.bent (w.core.val / 44)).egress ++ [e] ∧
      e.tup.words = words ∧ e.tup.tag = tag ∧ e.dmod = r.module

section
variable {words : List W64} {r : Route} (hr : Route.of (h.core w.core).tenons[n].active = r) (hp : (h.thread w).pfx = none)
  (hpos : 0 < (h.core w.core).tenons[n].credits) (pc : BitVec 20) (m : Mem)
include hr hp hpos

/-- A SEND to a core of the module. -/
theorem sendDone_local (hlocal : r.remote = false) {c : Nat} {j : Nat} (hbad : routeBad h c r j = false) : SendDone w n words tag r h
    (((h.traceEv w 3 pc n).sendTuple w.core w.thread n words tag false h.clock).settle w {} m (.done 1)) := by
  subst hr
  have htarget := target_of_routeBad hbad
  obtain ⟨hl, -, fl, htuples⟩ := Hw.sendTuple_local (h := h.traceEv w 3 pc n) (t := w.thread) (words := words) (tag := tag) (stream := false)
    (now := h.clock) (by rw [Hw.core_traceEv, hlocal])
  rw [Hw.core_traceEv] at hl
  rw [Hw.core_traceEv, Hw.tuples_traceEv, Hw.tupleOf_traceEv] at htuples
  have hend := sentEnds_settle keepsIssue_notified hl hp n m
  refine { credits := ?_, pc := hend.pc, regs := hend.regs, near := fun _ => ?_, far := fun hfar => ?_ }
  · rw [hend.credits, credits_spend hpos]
  · refine ⟨hend.notices, _, htuples, rfl, htarget, rfl, rfl, rfl, rfl, rfl, ?_⟩
    exact congrArg (h.clock + tupleLatency w.core ·) htarget.symm
  · rw [hlocal] at hfar
    exact absurd hfar (by decide)

/-- A SEND to another module. -/
theorem sendDone_remote (hremote : r.remote = true) : SendDone w n words tag r h
    (((h.traceEv w 3 pc n).sendTuple w.core w.thread n words tag false h.clock).settle w {} m (.done 1)) := by
  subst hr
  obtain ⟨hl, fl, vc, hegress⟩ := Hw.sendTuple_remote (h := h.traceEv w 3 pc n) (t := w.thread) (words := words) (tag := tag) (stream := false)
    (now := h.clock) (by rw [Hw.core_traceEv, hremote])
  rw [Hw.core_traceEv] at hl
  rw [Hw.core_traceEv, Hw.egress_traceEv, Hw.tupleOf_traceEv] at hegress
  have hend := sentEnds_settle (keepsIssue_sentTo _) hl hp n m
  refine { credits := ?_, pc := hend.pc, regs := hend.regs, near := fun hnear => ?_, far := fun _ => ?_ }
  · rw [hend.credits]
    exact credits_spend hpos
  · rw [hremote] at hnear
    exact absurd hnear (by decide)
  · refine ⟨?_, ?_, _, hegress, rfl, rfl, rfl⟩
    · rw [hend.remoteTo]
      exact mem_sentTo ..
    · rw [hend.remoteOut]
      exact sgetD_sset_self ..

/-- A SEND that completes. -/
theorem sendDone {c j : Nat} (hbad : routeBad h c r j = false) : SendDone w n words tag r h
    (((h.traceEv w 3 pc n).sendTuple w.core w.thread n words tag false h.clock).settle w {} m (.done 1)) := by
  cases hremote : r.remote with
  | false => exact sendDone_local hr hp hpos pc m hremote hbad
  | true => exact sendDone_remote hr hp hpos pc m hremote

end

end

/-- SEND. -/
theorem sendUsesACredit : SendUsesACredit := by
  intro w n sr k tag s x th ten r words
  refine ⟨fun hi hk hen hbad hpos hfree => ?_, fun hi => ⟨fun hk => ?_, fun hk hbad => ?_, fun hk hen hbad hstop hc => ?_⟩⟩
  · have hready := (sendReady_iff (x.core w.core) n).2 ⟨hpos, hfree⟩
    have hnext : exec (.send w n sr k tag) s = .next { s with hw :=
        ((x.traceEv w 3 th.pc n).sendTuple w.core w.thread n words tag false x.clock).settle w {} s.mem (.done 1) } := by
      rw [exec_send, onHw_eq, hi.runInstr (.inl rfl), sendBody_ready hk hen hbad hready]
    obtain ⟨hcredits, hpc, hregs, hnear, hfar⟩ := sendDone (words := words) (tag := tag) rfl hi.pfx hpos th.pc s.mem hbad
    exact ⟨_, hnext, hcredits, hpc, hregs, hnear, hfar⟩
  · exact hi.yields_fault (.inl rfl) (exec_send ..) (sendBody_beyond hk)
  · exact hi.yields_fault (.inl rfl) (exec_send ..) (sendBody_bad hk hbad)
  · have hnext : exec (.send w n sr k tag) s = .next { s with hw :=
        (x.updCore w.core (·.stallTenon n (x.cycle w.core))).settle w {} s.mem (.stall .credit n) } := by
      rw [exec_send, onHw_eq, hi.runInstr (.inl rfl), sendBody_stall hk hen hbad (sendReady_eq_false hc)]
    exact ⟨_, hnext, settle_stallTenon hi.unsent hstop n s.mem rfl⟩

/-- Settles O29: the body of each instruction decides in its slot between a fault, a stall and a transfer. -/
theorem sendCreditAndReceive : Obligations.SendCreditAndReceive := ⟨sendUsesACredit, receivesTakeTheHeadEntry⟩

end Sys2Proof.Claims

namespace Sys2Proof.Claims

open Sys2Proof.Machine

/-! ### An event that takes hold before the slot of a PFX (R137, R157, R188)

PFX issues in the next slot of its thread as every instruction does, and time runs to that slot: what is on its way to the thread takes
hold. The thread then differs from what it was before the PFX in more than the waiting prefix. -/

/-- Thread 1 of core 0. -/
def prefixer : Who := { core := 0, thread := 1 }

/-- A core whose thread 1 runs, in an instruction memory that may be executed. -/
def runningCore (k : Core) : Core :=
  { k.updThread 1 (fun th => { th with tstate := .running, mode := true }) with isegx := 0xFFFF }

/-- The module after reset with that core, in cycle 1000, a slot of thread 0; event 0 of thread 1 is raised at its end. -/
def eventState : State :=
  { pending := [], mem := []
    hw := { ({ State.reset.hw with clock := 1000 } : Hw).updCore 0 runningCore with later := [(1000, .events prefixer 1)] } }

/-- The thread issues there. -/
theorem issues_event : Issues prefixer none eventState where
  issues := by decide +kernel
  alone := by decide +kernel
  pfx := by decide +kernel
  inside := by decide +kernel
  execute := by decide +kernel
  unsent := by decide +kernel

/-- The hardware that PFX leaves. -/
theorem hw_of_pfx {w : Who} {imm : BitVec 26} {s t : State} (ht : exec (.pfx w imm) s = .next t) : t.hw = pfx w imm s.mem s.hw :=
  (congrArg State.hw (Host.Outcome.next.inj ht)).symm

/-- The event is pending behind the PFX, and was not before. -/
theorem evpend_event : ((pfx prefixer 0 eventState.mem eventState.hw).thread prefixer).evpend = 1 ∧
    (eventState.hw.thread prefixer).evpend = 0 := by
  decide +kernel

/-- Refutes O14: an event that is on its way when a PFX issues has reached the thread behind it, which `PrefixPairsAdvanceTheirPc` has
differ in its prefix alone from the thread before the slot. -/
theorem not_controlTransfersAndPrefixPairs : ¬ Obligations.ControlTransfersAndPrefixPairs := by
  rintro ⟨-, -, ⟨hprefix, -⟩, -⟩
  obtain ⟨h, he, hthread, -⟩ := hprefix prefixer 0 eventState issues_event
  obtain ⟨hafter, hbefore⟩ := evpend_event
  rw [← hw_of_pfx he] at hafter
  have hsame : (h.thread prefixer).evpend = (eventState.hw.thread prefixer).evpend :=
    (congrArg Thread.evpend hthread :)
  rw [hbefore] at hsame
  exact absurd (hafter.symm.trans hsame) (by decide)

end Sys2Proof.Claims

namespace Sys2Proof.Claims

open Sys2Proof.Machine

/-! ### A flit that bears the number of the next (R271, R279)

The mesh knows a flit by its number. A reply of the Ridge, and a store on its way there, is given the number behind the latest one, and
its arrival is that of the first flit of that number. Where the mesh holds one of that number already, which has reached its destination,
the load or store is over at its issue. No premise excludes such a flit. -/

/-- A flit between two bents that has reached its destination in cycle 0. -/
def arrivedFlit (n : Nat) : Flit :=
  { serial := n, vc := 0, src := 0, dst := 1, router := 1, inPort := 0, stamp := 0, waiting := false, hops := [], exit := some 0 }

/-- A core whose thread 1 runs in supervisor mode, with the first address of Ridge SRAM in its a0. -/
def ridgeCore (k : Core) : Core :=
  { k.updThread 1 (fun th => { th with tstate := .running, mode := true, a := th.a.set 0 0x4000000000 }) with isegx := 0xFFFF }

/-- The module after reset with that core and a flit of number `n`, in cycle 1000. -/
def arrivedState (n : Nat) : State :=
  { pending := [], mem := []
    hw := { ({ State.reset.hw with clock := 1000 } : Hw).updCore 0 ridgeCore with flits := [arrivedFlit n] } }

/-- The thread of that core. -/
def accessor : Who := { core := 0, thread := 1 }

/-- It issues with the flit of the number that a store is given. -/
theorem issues_arrived_one : Issues accessor none (arrivedState 1) where
  issues := by decide +kernel
  alone := by decide +kernel
  pfx := by decide +kernel
  inside := by decide +kernel
  execute := by decide +kernel
  unsent := by decide +kernel

/-- It issues with the flit of the number that the reply to a load is given. -/
theorem issues_arrived_two : Issues accessor none (arrivedState 2) where
  issues := by decide +kernel
  alone := by decide +kernel
  pfx := by decide +kernel
  inside := by decide +kernel
  execute := by decide +kernel
  unsent := by decide +kernel

/-- Its address. -/
theorem addresses_arrived {n : Nat} (ha : ((slot accessor (arrivedState n)).thread accessor).getA 0 = 0x4000000000) :
    Addresses ((slot accessor (arrivedState n)).thread accessor) 0 none (.off 0) 0x4000000000 :=
  ⟨0, rfl, by rw [ha]; decide⟩

/-- What an answer leaves of the hardware, where there is a next state. -/
def hwOf : Out → Option Hw
  | .next t => some t.hw
  | _ => none

/-- The load is over at its issue. -/
theorem loads_ld_arrived : (hwOf (exec (.ld accessor 0 6 0 (.off 0) false) (arrivedState 2))).map (fun h => (h.core 0).loads[1]) = some none := by
  decide +kernel

/-- Refutes O9: a load from Ridge SRAM whose reply is given the number of a flit that has arrived is over at its issue, and its thread
waits for no bytes. -/
theorem not_directLoadsReadTheirBytes : ¬ Obligations.DirectLoadsReadTheirBytes := by
  rintro ⟨-, hasked, -⟩
  obtain ⟨hload, -⟩ := hasked accessor none 0 0 0 6 (.off 0) 0 false 0x4000000000 8 (arrivedState 2) issues_arrived_two (by decide +kernel)
    ⟨by decide, by decide, by decide +kernel⟩
  obtain ⟨t, ht, hwaits⟩ := hload (by decide) (by decide) (by decide) (addresses_arrived (by decide +kernel))
  have hover := loads_ld_arrived
  rw [ht] at hover
  exact absurd (hwaits.load.symm.trans (Option.some.inj hover)) nofun

/-- The store is performed at its issue. -/
theorem notices_st_arrived : (hwOf (exec (.st accessor 0 6 0 (.off 0) false) (arrivedState 1))).map (fun h => (h.thread accessor).notices) =
    some 0 := by
  decide +kernel

/-- No notice is awaited before. -/
theorem notices_slot_arrived : ((slot accessor (arrivedState 1)).thread accessor).notices = 0 := by decide +kernel

/-- The end of an instruction leaves the notices awaited. -/
theorem notices_ended (w : Who) (f : Form) (p : Option (BitVec 26)) (n : Nat) (s : State) (th : Thread) :
    (ended w f p n s th).notices = th.notices := by
  unfold ended Thread.finish Thread.boundary
  split
  · rfl
  · dsimp only
    split <;> rfl

/-- Refutes O10: a store to Ridge SRAM that is given the number of a flit that has arrived is performed at its issue, and its thread has
no store more whose performance it does not know. -/
theorem not_directStoresWriteTheirBytes : ¬ Obligations.DirectStoresWriteTheirBytes := by
  intro hstores
  obtain ⟨hstore, -⟩ := hstores accessor none 0 0 0 6 (.off 0) 0 0 0 0x4000000000 8 0x4000000000 (arrivedState 1) issues_arrived_one
    (.inr ⟨⟨by decide, by decide, by decide +kernel⟩, rfl, by decide⟩)
  obtain ⟨t, ht, hquiet, -⟩ := hstore (by decide) (by decide) (by decide) (addresses_arrived (by decide +kernel))
  have hover := notices_st_arrived
  rw [ht] at hover
  have hmore := congrArg Thread.notices hquiet.thread
  rw [notices_ended, if_pos (by decide)] at hmore
  have hone : (t.hw.thread accessor).notices = ((slot accessor (arrivedState 1)).thread accessor).notices + 1 := hmore
  rw [notices_slot_arrived, show (t.hw.thread accessor).notices = 0 from Option.some.inj hover] at hone
  exact absurd hone (by decide)

end Sys2Proof.Claims

namespace Sys2Proof.Machine

/-! ### Lanes of a register (R160) -/

/-- The number that lanes of a width make up, lane 0 lowest. -/
def packed (w : Nat) (xs : List Nat) : Nat := xs.foldr (fun x acc => acc * 2 ^ w + x % 2 ^ w) 0

/-- It has no more bits than the lanes. -/
theorem packed_lt (w : Nat) (xs : List Nat) : packed w xs < 2 ^ (w * xs.length) := by
  induction xs with
  | nil => exact Nat.one_pos
  | cons x xs ih =>
    have hx := Nat.mod_lt x (Nat.two_pow_pos w)
    calc packed w (x :: xs) < (packed w xs + 1) * 2 ^ w := by rw [packed, List.foldr_cons, ← packed, Nat.add_one_mul]; omega
      _ ≤ 2 ^ (w * xs.length) * 2 ^ w := Nat.mul_le_mul_right _ ih
      _ = 2 ^ (w * (x :: xs).length) := by rw [← pow_add, List.length_cons, Nat.mul_succ]

/-- Nor has it more than a register that they fit. -/
theorem packed_lt_of_le {w n : Nat} {xs : List Nat} (hfit : w * xs.length ≤ n) : packed w xs < 2 ^ n :=
  (packed_lt w xs).trans_le (Nat.pow_le_pow_right Nat.two_pos hfit)

/-- Its lanes are those that make it up, and 0 above them. -/
theorem field_packed (w : Nat) (xs : List Nat) (k : Nat) : field (packed w xs) (w * k) w = xs.getD k 0 % 2 ^ w := by
  induction xs generalizing k with
  | nil => simp [packed, field]
  | cons x xs ih =>
    have hcons : packed w (x :: xs) = packed w xs * 2 ^ w + x % 2 ^ w := rfl
    have hx := Nat.mod_lt x (Nat.two_pow_pos w)
    cases k with
    | zero => rw [field, Nat.mul_zero, pow_zero, Nat.div_one, hcons, Nat.mul_add_mod_self_right, Nat.mod_mod, List.getD_cons_zero]
    | succ k =>
      have hdiv : packed w (x :: xs) / 2 ^ w = packed w xs := by
        rw [hcons, Nat.add_comm, Nat.add_mul_div_right _ _ (Nat.two_pow_pos w), Nat.div_eq_of_lt hx, Nat.zero_add]
      rw [field, Nat.mul_succ, Nat.add_comm, pow_add, ← Nat.div_div_eq_div_mul, hdiv, List.getD_cons_succ, ← ih, field]

/-- A word that they fit keeps it. -/
theorem toNat_packed {w n : Nat} {xs : List Nat} (hfit : w * xs.length ≤ n) : (BitVec.ofNat n (packed w xs)).toNat = packed w xs :=
  (BitVec.toNat_ofNat ..).trans (Nat.mod_eq_of_lt (packed_lt_of_le hfit))

/-- A register made of lanes that fit. -/
theorem toNat_ofLanes {w : Nat} {xs : List Nat} (hfit : w * xs.length ≤ 2048) : (ofLanes w xs).toNat = packed w xs :=
  toNat_packed hfit

/-- A register of lanes that fit its width. -/
theorem field_ofLanes {bits w : Nat} {xs : List Nat} (hbits : bits ≤ 2048) (hlen : xs.length ≤ bits / w) (k : Nat) :
    field (ofLanes w xs).toNat (w * k) w = xs.getD k 0 % 2 ^ w := by
  have hfit : w * xs.length ≤ 2048 := (Nat.mul_le_mul_left w hlen).trans ((Nat.mul_div_le ..).trans hbits)
  rw [toNat_ofLanes hfit, field_packed]

/-- The number of lanes of a register. -/
@[simp] theorem length_lanesOf (bits w : Nat) (x : BitVec 2048) : (lanesOf bits w x).length = bits / w := by
  simp [lanesOf]

/-- One of them. -/
theorem getElem_lanesOf {bits w k : Nat} {x : BitVec 2048} (hk : k < (lanesOf bits w x).length) :
    (lanesOf bits w x)[k] = field x.toNat (w * k) w := by
  simp [lanesOf]

/-- One of them, or 0 beyond them. -/
theorem getD_lanesOf (bits w k : Nat) (x : BitVec 2048) :
    (lanesOf bits w x).getD k 0 = if k < bits / w then field x.toNat (w * k) w else 0 := by
  split
  case isTrue hk => rw [List.getD_eq_getElem _ _ (by rwa [length_lanesOf]), getElem_lanesOf]
  case isFalse hk => exact List.getD_eq_default _ _ (by rw [length_lanesOf]; omega)

end Sys2Proof.Machine

namespace Sys2Proof.Claims

open Sys2Proof.Machine

/-! ### Vector instructions on lanes (R160, R163) -/

/-- The width of a lane is that of the element type. -/
theorem etBits_eq : ∀ {et : BitVec 3}, et.toNat ≤ 6 → etBits et.toNat = laneBits et := by decide

/-- The width of a lane is a power of two. -/
theorem laneBits_eq (et : BitVec 3) : ∃ c, 3 ≤ c ∧ c ≤ 6 ∧ laneBits et = 2 ^ c := by
  unfold laneBits
  split_ifs
  · exact ⟨5, by decide⟩
  · exact ⟨3, by decide⟩
  · exact ⟨6, by decide⟩
  · exact ⟨4, by decide⟩

/-- The width of a register is a power of two (R24). -/
theorem vecBits_eq (c : Nat) : ∃ b, 9 ≤ b ∧ b ≤ 11 ∧ vecBits c = 2 ^ b := by
  unfold vecBits byKind
  split
  · exact ⟨10, by decide⟩
  · split
    · exact ⟨11, by decide⟩
    · exact ⟨9, by decide⟩

/-- A register is no wider than 2048 bits. -/
theorem vecBits_le (c : Nat) : vecBits c ≤ 2048 := by
  obtain ⟨b, -, hb, hvec⟩ := vecBits_eq c
  exact hvec ▸ Nat.pow_le_pow_right (by decide) hb

/-- A lane has a bit or more. -/
theorem laneBits_pos (et : BitVec 3) : 0 < laneBits et := by
  obtain ⟨c, -, -, hc⟩ := laneBits_eq et
  exact hc ▸ Nat.two_pow_pos c

/-- A lane is below the power of two of its width. -/
theorem lane_lt (et : BitVec 3) (x : BitVec 2048) (k : Nat) : lane et x k < 2 ^ laneBits et := Nat.mod_lt _ (Nat.two_pow_pos _)

/-- A register has 8 to 256 lanes, a power of two, which fill it. -/
theorem laneCount_eq (w : Who) (et : BitVec 3) :
    ∃ a, 3 ≤ a ∧ a ≤ 8 ∧ laneCount w et = 2 ^ a ∧ laneBits et * laneCount w et = vecBits w.core := by
  obtain ⟨c, hc, hc', hbits⟩ := laneBits_eq et
  obtain ⟨b, hb, hb', hvec⟩ := vecBits_eq w.core
  have hcount : laneCount w et = 2 ^ (b - c) := by rw [laneCount, hbits, hvec, Nat.pow_div (by omega) (by decide)]
  refine ⟨b - c, by omega, by omega, hcount, ?_⟩
  rw [hcount, hbits, hvec, ← pow_add, Nat.add_sub_cancel' (by omega)]

/-- The end of an instruction reads no vector register. -/
theorem keepsIssue_setV (vd : Fin 32) (x : BitVec 2048) : KeepsIssue (·.setV vd x) := {}

section
variable {w : Who} {s : State} {i : Instr} {et : BitVec 3} {vd va vb : Fin 32} {ok : Bool} {n : Nat} {f : Nat → Nat}

/-- A vector instruction of an element type that it has, with a change of its thread. -/
theorem Issues.vecOp_runs (hi : Issues w none s) (hform : formOf i = {}) (hok : ok = true) {F u : Thread → Thread}
    (he : exec i s = onHw (vecOp w ok n F) s) (hu : KeepsIssue u) (hF : F ((slot w s).thread w) = u ((slot w s).thread w)) :
    Runs i s (Ran w none n u s) := by
  refine hi.thread_runs (g := fun th => if ok then (.done n, F th) else (faultAt th excIllegal, th)) ?_ hu ?_
  · rw [hform]
    exact he
  · rw [if_pos hok, hF]

/-- As `Issues.vecOp_runs`, of a vector register written. -/
theorem Issues.setV_runs (hi : Issues w none s) (hform : formOf i = {}) (hok : ok = true) {F : Thread → BitVec 2048}
    (he : exec i s = onHw (vecOp w ok n (fun th => th.setV vd (F th))) s) {x : BitVec 2048} (hF : F ((slot w s).thread w) = x) :
    Runs i s (Ran w none n (fun th => { th with v := th.v.set vd x }) s) :=
  hi.vecOp_runs hform hok he (keepsIssue_setV vd x) (congrArg (((slot w s).thread w).setV vd) hF)

/-- A register of lanes. -/
theorem lane_ofLanes {xs : List Nat} (hlen : xs.length ≤ laneCount w et) :
    (ofLanes (laneBits et) xs).toNat < 2 ^ vecBits w.core ∧
    ∀ k, lane et (ofLanes (laneBits et) xs) k = xs.getD k 0 % 2 ^ laneBits et := by
  obtain ⟨-, -, -, -, hfill⟩ := laneCount_eq w et
  have hfits : laneBits et * xs.length ≤ vecBits w.core := hfill ▸ Nat.mul_le_mul_left _ hlen
  refine ⟨?_, field_ofLanes (vecBits_le w.core) hlen⟩
  rw [toNat_ofLanes (hfits.trans (vecBits_le w.core))]
  exact packed_lt_of_le hfits

/-- A vector instruction that makes a register of lanes. -/
theorem Issues.lanes_give (hi : Issues w none s) (hform : formOf i = {}) (het : et.toNat ≤ 6) (hok : ok = true) {F : Thread → List Nat}
    (he : exec i s = onHw (vecOp w ok n (fun th => th.setV vd (ofLanes (etBits et.toNat) (F th)))) s)
    {xs : List Nat} (hF : F ((slot w s).thread w) = xs) (hlen : xs.length ≤ laneCount w et)
    (hf : ∀ k < laneCount w et, xs.getD k 0 % 2 ^ laneBits et = f k % 2 ^ laneBits et) : GivesLanes i w et vd n f s := by
  obtain ⟨hlt, hlanes⟩ := lane_ofLanes (w := w) (et := et) hlen
  refine ⟨_, hlt, fun k hk => (hlanes k).trans (hf k hk), hi.setV_runs hform hok he ?_⟩
  rw [hF, etBits_eq het]

end

/-- The lanes that the model takes from a register. -/
theorem getD_lanes {w : Who} {et : BitVec 3} (het : et.toNat ≤ 6) (x : BitVec 2048) (k : Nat) :
    (lanesOf (vecBits w.core) (etBits et.toNat) x).getD k 0 = if k < laneCount w et then lane et x k else 0 := by
  rw [etBits_eq het]
  exact getD_lanesOf ..

/-- They are as many as the register has. -/
theorem length_lanes {w : Who} {et : BitVec 3} (het : et.toNat ≤ 6) (x : BitVec 2048) :
    (lanesOf (vecBits w.core) (etBits et.toNat) x).length = laneCount w et := by
  rw [length_lanesOf, etBits_eq het, laneCount]

/-- They are the lanes, lane 0 first. -/
theorem lanes_eq {w : Who} {et : BitVec 3} (het : et.toNat ≤ 6) (x : BitVec 2048) :
    lanesOf (vecBits w.core) (etBits et.toNat) x = (List.range (laneCount w et)).map (lane et x) := by
  rw [etBits_eq het]
  rfl

/-- A lane of lanes that are given by their numbers. -/
theorem getD_map_range {n k : Nat} (f : Nat → Nat) (hk : k < n) : ((List.range n).map f).getD k 0 = f k := by
  rw [List.getD_eq_getElem _ _ (by simpa using hk), List.getElem_map, List.getElem_range]

section
variable {w : Who} {s : State} {i : Instr} {et : BitVec 3} {vd va vb : Fin 32} {ok : Bool} {n : Nat} {f : Nat → Nat}

/-- As `Issues.lanes_give`, of as many lanes as the register has. -/
theorem Issues.map_gives (hi : Issues w none s) (hform : formOf i = {}) (het : et.toNat ≤ 6) (hok : ok = true) {F : Thread → List Nat}
    (he : exec i s = onHw (vecOp w ok n (fun th => th.setV vd (ofLanes (etBits et.toNat) (F th)))) s) {g : Nat → Nat}
    (hF : F ((slot w s).thread w) = (List.range (laneCount w et)).map g)
    (hf : ∀ k < laneCount w et, g k % 2 ^ laneBits et = f k % 2 ^ laneBits et) : GivesLanes i w et vd n f s :=
  hi.lanes_give hform het hok he hF (by simp) (fun k hk => by rw [getD_map_range g hk, hf k hk])

/-- As `Issues.map_gives`, of the lanes themselves. -/
theorem Issues.range_gives (hi : Issues w none s) (hform : formOf i = {}) (het : et.toNat ≤ 6) (hok : ok = true) {F : Thread → List Nat}
    (he : exec i s = onHw (vecOp w ok n (fun th => th.setV vd (ofLanes (etBits et.toNat) (F th)))) s)
    (hF : F ((slot w s).thread w) = (List.range (laneCount w et)).map f) : GivesLanes i w et vd n f s :=
  hi.map_gives hform het hok he hF (fun _ _ => rfl)

/-- Lane for lane from one register. -/
theorem Issues.vMap1_gives (hi : Issues w none s) (hform : formOf i = {}) (het : et.toNat ≤ 6) (hok : ok = true) {g : Nat → Nat}
    (he : exec i s = onHw (vMap1 w ok et vd va g) s)
    (hf : ∀ k, g (lane et ((slot w s).thread w).v[va] k) % 2 ^ laneBits et = f k % 2 ^ laneBits et) : GivesLanes i w et vd 1 f s := by
  refine hi.map_gives hform het hok he (g := fun k => g (lane et ((slot w s).thread w).v[va] k)) ?_ (fun k _ => hf k)
  rw [lanes_eq het, List.map_map]
  rfl

/-- Lane for lane from two registers. -/
theorem Issues.vMap2_gives (hi : Issues w none s) (hform : formOf i = {}) (het : et.toNat ≤ 6) (hok : ok = true) {g : Nat → Nat → Nat}
    (he : exec i s = onHw (vMap2 w ok et vd va vb g) s)
    (hf : ∀ k, g (lane et ((slot w s).thread w).v[va] k) (lane et ((slot w s).thread w).v[vb] k) % 2 ^ laneBits et =
      f k % 2 ^ laneBits et) : GivesLanes i w et vd 1 f s := by
  refine hi.map_gives hform het hok he
    (g := fun k => g (lane et ((slot w s).thread w).v[va] k) (lane et ((slot w s).thread w).v[vb] k)) ?_ (fun k _ => hf k)
  rw [lanes_eq het, lanes_eq het, List.zipWith_map, List.zipWith_self]
  rfl

/-- Lane for lane from three registers. -/
theorem Issues.vMap3_gives (hi : Issues w none s) (hform : formOf i = {}) (het : et.toNat ≤ 6) (hok : ok = true)
    {g : Nat → Nat → Nat → Nat} (he : exec i s = onHw (vMap3 w ok et vd va vb g) s)
    (hf : ∀ k, g (lane et ((slot w s).thread w).v[va] k) (lane et ((slot w s).thread w).v[vb] k)
      (lane et ((slot w s).thread w).v[vd] k) % 2 ^ laneBits et = f k % 2 ^ laneBits et) : GivesLanes i w et vd 1 f s := by
  refine hi.map_gives hform het hok he (g := fun k => g (lane et ((slot w s).thread w).v[va] k)
    (lane et ((slot w s).thread w).v[vb] k) (lane et ((slot w s).thread w).v[vd] k)) ?_ (fun k _ => hf k)
  rw [lanes_eq het, lanes_eq het, lanes_eq het, List.zip_map', List.zipWith_map, List.zipWith_self]
  rfl

end

end Sys2Proof.Claims

namespace Sys2Proof.Claims

open Sys2Proof.Machine

/-! ### Floating-point lanes (R164, R165) -/

/-- The format of a lane is that of the element type. -/
theorem etFmt_eq (et : BitVec 3) : etFmt et.toNat = laneFmt et := rfl

/-- A group of element types of floating point. -/
theorem etFloat_true {et : BitVec 3} (het : et.toNat ≤ 2) : etFloat et = true := decide_eq_true het

/-- The group of integers. -/
theorem etInt_true {et : BitVec 3} (hlo : 3 ≤ et.toNat) (hhi : et.toNat ≤ 6) : etInt et = true := by
  rw [etInt, decide_eq_true hlo, decide_eq_true hhi]
  rfl

/-- The group of both. -/
theorem etAny_true {et : BitVec 3} (het : et.toNat ≤ 6) : etAny et = true := decide_eq_true het

/-- The smaller of two lanes, or the canonical NaN. -/
theorem pick_smaller (f : Fmt) (x y : Nat) :
    f.pick false x y = if f.isNan x || f.isNan y then f.canonNan else if f.key x ≤ f.key y then x else y := by
  simp only [Fmt.pick, Bool.false_eq_true, if_false, ← not_le, ite_not]

/-- The larger of two lanes, or the canonical NaN. -/
theorem pick_larger (f : Fmt) (x y : Nat) :
    f.pick true x y = if f.isNan x || f.isNan y then f.canonNan else if f.key y ≤ f.key x then x else y := by
  simp only [Fmt.pick, if_true, ← not_le, ite_not]

/-- A bit above a number is set. -/
theorem xor_two_pow {n x : Nat} (hx : x < 2 ^ n) : x ^^^ 2 ^ n = x + 2 ^ n := by
  apply Nat.eq_of_testBit_eq
  intro j
  have hsum : x + 2 ^ n = 2 ^ n * 2 ^ 0 + x := by omega
  rw [hsum, Nat.testBit_two_pow_mul_add _ hx, Nat.testBit_xor, Nat.testBit_two_pow, Nat.testBit_two_pow]
  split
  case isTrue hj => rw [decide_eq_false (by omega), Bool.xor_false]
  case isFalse hj =>
    have hzero : x.testBit j = false := Nat.testBit_lt_two_pow (hx.trans_le (Nat.pow_le_pow_right Nat.two_pos (by omega)))
    rw [hzero, Bool.false_xor, decide_eq_decide]
    omega

/-- The highest bit of a number is inverted. -/
theorem xor_top {n x : Nat} (hn : 0 < n) (hx : x < 2 ^ n) :
    x ^^^ 2 ^ (n - 1) = if x < 2 ^ (n - 1) then x + 2 ^ (n - 1) else x - 2 ^ (n - 1) := by
  split
  case isTrue hlow => exact xor_two_pow hlow
  case isFalse hhigh =>
    have hpow : 2 ^ n = 2 ^ (n - 1) + 2 ^ (n - 1) := by rw [← Nat.two_mul, ← Nat.pow_succ', Nat.succ_eq_add_one, Nat.sub_add_cancel hn]
    have hset : x = (x - 2 ^ (n - 1)) ^^^ 2 ^ (n - 1) := by rw [xor_two_pow (by omega), Nat.sub_add_cancel (by omega)]
    conv_lhs => rw [hset, Nat.xor_assoc, Nat.xor_self, Nat.xor_zero]

/-- Settles O17: each instruction is a function of its lanes, which the model computes as its rule says. -/
theorem vectorFloatArithmetic : Obligations.VectorFloatArithmetic := by
  intro w et vd va vb s hi het th f x y z top
  have hany : et.toNat ≤ 6 := by omega
  have hfl := etFloat_true het
  refine ⟨hi.vMap2_gives rfl hany hfl rfl fun _ => rfl, hi.vMap2_gives rfl hany hfl rfl fun _ => rfl,
    hi.vMap2_gives rfl hany hfl rfl fun _ => rfl, hi.vMap3_gives rfl hany hfl rfl fun _ => rfl,
    hi.vMap3_gives rfl hany hfl rfl fun _ => rfl, hi.vMap2_gives rfl hany hfl rfl fun k => ?_,
    hi.vMap2_gives rfl hany hfl rfl fun k => ?_, hi.vMap1_gives rfl hany hfl rfl fun k => ?_,
    hi.vMap1_gives rfl hany hfl rfl fun k => ?_⟩
  · rw [pick_smaller]
    rfl
  · rw [pick_larger]
    rfl
  · rw [etBits_eq hany]
  · rw [etBits_eq hany, xor_top (laneBits_pos et) (lane_lt ..)]

end Sys2Proof.Claims

namespace Sys2Proof.Claims

open Sys2Proof.Machine

/-! ### Integer lanes (R162) -/

section
variable {et : BitVec 3}

/-- The signed value of a lane. -/
theorem signed_lane {x : Nat} (hx : x < 2 ^ laneBits et) : signed (laneBits et) x = sLane et x := by
  have hne : laneBits et ≠ 0 := (laneBits_pos et).ne'
  rw [signed, sLane, Nat.mod_eq_of_lt hx]
  by_cases hlow : x < 2 ^ (laneBits et - 1)
  · rw [if_pos hlow, if_neg (fun h => absurd hlow (Nat.not_lt.mpr h.2))]
  · rw [if_neg hlow, if_pos ⟨hne, Nat.not_lt.mp hlow⟩]

/-- A result kept in a lane. -/
theorem wrap_eq (et : BitVec 3) (v : Int) : wrap (laneBits et) v = toLane et v := rfl

/-- A natural number kept in a lane. -/
theorem toLane_natCast (et : BitVec 3) (x : Nat) : toLane et x = x % 2 ^ laneBits et := by
  rw [toLane, ← Int.toNat_natCast (x % 2 ^ laneBits et), Int.natCast_mod, Int.natCast_pow]
  rfl

/-- As `toLane_natCast`, of a number that is given as an integer. -/
theorem mod_eq_toLane {x : Nat} {v : Int} (hv : v = x) : x % 2 ^ laneBits et = toLane et v % 2 ^ laneBits et := by
  rw [hv, toLane_natCast, Nat.mod_mod]

/-- An operation on signed lanes. -/
theorem iop2_eq (het : et.toNat ≤ 6) (g : Int → Int → Int) {x y : Nat} (hx : x < 2 ^ laneBits et) (hy : y < 2 ^ laneBits et) :
    iop2 et g x y = toLane et (g (sLane et x) (sLane et y)) := by
  rw [← signed_lane hx, ← signed_lane hy, iop2, etBits_eq het, wrap_eq]

end

/-- A value clamped to the signed range of a width. -/
theorem clampS_eq (n : Nat) (v : Int) : clampS n v = Max.max (-(2 ^ (n - 1) - 1) - 1) (Min.min (2 ^ (n - 1) - 1) v) := by
  have hpos : (0 : Int) < 2 ^ (n - 1) := by positivity
  unfold clampS
  split_ifs <;> omega

section
variable {w : Who} {s : State} {i : Instr} {et : BitVec 3} {vd va vb : Fin 32} {f : Int → Int → Int}

/-- A vector instruction on signed lanes. -/
theorem Issues.iop2_gives (hi : Issues w none s) (hform : formOf i = {}) (hlo : 3 ≤ et.toNat) (hhi : et.toNat ≤ 6)
    {g : Int → Int → Int} (he : exec i s = onHw (vMap2 w (etInt et) et vd va vb (iop2 et g)) s) (hg : ∀ x y, g x y = f x y) :
    GivesLanes i w et vd 1 (fun k => toLane et (f (sLane et (lane et ((slot w s).thread w).v[va] k))
      (sLane et (lane et ((slot w s).thread w).v[vb] k)))) s :=
  hi.vMap2_gives hform hhi (etInt_true hlo hhi) he (fun k => by rw [iop2_eq hhi g (lane_lt ..) (lane_lt ..), hg])

end

/-- Settles O18: each instruction is a function of signed or unsigned lanes, kept in the lane. -/
theorem vectorIntegerArithmetic : Obligations.VectorIntegerArithmetic := by
  intro w et vd va vb s hi hlo hhi th u v x y top clamp g
  have hok := etInt_true hlo hhi
  refine ⟨hi.iop2_gives rfl hlo hhi rfl fun _ _ => rfl, hi.iop2_gives rfl hlo hhi rfl fun _ _ => rfl,
    hi.iop2_gives rfl hlo hhi rfl fun _ _ => rfl,
    hi.iop2_gives (f := fun x y => clamp (x + y)) rfl hlo hhi rfl fun x y => ?_,
    hi.iop2_gives (f := fun x y => clamp (x - y)) rfl hlo hhi rfl fun x y => ?_,
    hi.iop2_gives rfl hlo hhi rfl fun _ _ => rfl, hi.iop2_gives rfl hlo hhi rfl fun _ _ => rfl,
    hi.vMap2_gives rfl hhi hok rfl fun k => ?_, hi.vMap2_gives rfl hhi hok rfl fun k => ?_,
    hi.vMap2_gives rfl hhi hok rfl fun k => ?_, hi.vMap2_gives rfl hhi hok rfl fun k => ?_,
    hi.vMap2_gives rfl hhi hok rfl fun k => ?_⟩
  · rw [etBits_eq hhi, clampS_eq]
  · rw [etBits_eq hhi, clampS_eq]
  · exact mod_eq_toLane (Nat.cast_min ..).symm
  · exact mod_eq_toLane (Nat.cast_max ..).symm
  · rw [etBits_eq hhi]
    exact mod_eq_toLane (by push_cast; rfl)
  · rw [etBits_eq hhi]
    exact mod_eq_toLane (by push_cast; rfl)
  · rw [etBits_eq hhi]
    dsimp only
    rw [signed_lane (lane_lt ..), wrap_eq]

end Sys2Proof.Claims

namespace Sys2Proof.Claims

open Sys2Proof.Machine

/-! ### Bits, compares and classes (R162, R166, R167) -/

/-- The bits of a register below its width. -/
theorem getLsbD_masked {n k : Nat} (hk : k < n) (y : BitVec 2048) : (y &&& BitVec.ofNat 2048 (2 ^ n - 1)).getLsbD k = y.getLsbD k := by
  by_cases hwide : k < 2048
  · rw [BitVec.getLsbD_and, BitVec.getLsbD_ofNat, Nat.testBit_two_pow_sub_one, decide_eq_true hwide, decide_eq_true hk,
      Bool.and_self, Bool.and_true]
  · rw [BitVec.getLsbD_of_ge _ _ (Nat.not_lt.mp hwide), BitVec.getLsbD_of_ge _ _ (Nat.not_lt.mp hwide)]

/-- The inverted bits of a register. -/
theorem getLsbD_inverted {w : Who} {k : Nat} (hk : k < vecBits w.core) (y : BitVec 2048) : (~~~y).getLsbD k = !y.getLsbD k := by
  have hwide := vecBits_le w.core
  rw [BitVec.getLsbD_not, decide_eq_true (by omega), Bool.true_and]

/-- Each bit of one register where a third has 1, of the other where it has 0. -/
theorem getLsbD_select {w : Who} {k : Nat} (hk : k < vecBits w.core) (x y m : BitVec 2048) :
    ((x &&& m) ||| (y &&& ~~~m)).getLsbD k = if m.getLsbD k then x.getLsbD k else y.getLsbD k := by
  rw [BitVec.getLsbD_or, BitVec.getLsbD_and, BitVec.getLsbD_and, getLsbD_inverted hk]
  cases m.getLsbD k <;> simp

/-- The order of two lanes; none where one is NaN (R166). -/
def laneOrder (et : BitVec 3) (x y : Nat) : Option Ordering :=
  if et.toNat ≤ 2 then ((laneFmt et).decode x).cmp ((laneFmt et).decode y) else some (compare (sLane et x) (sLane et y))

section
variable {w : Who} {s : State} {i : Instr} {et : BitVec 3} {vd va vb : Fin 32}

/-- A bitwise instruction on two registers. -/
theorem Issues.vBits_runs (hi : Issues w none s) (hform : formOf i = {}) {F : BitVec 2048 → BitVec 2048 → BitVec 2048}
    (he : exec i s = onHw (vBits w 0 vd va vb F) s) (f : Bool → Bool → Bool)
    (hF : ∀ (x y : BitVec 2048), ∀ k < vecBits w.core, (F x y).getLsbD k = f (x.getLsbD k) (y.getLsbD k)) :
    ∃ x : BitVec 2048,
      (∀ k < vecBits w.core, x.getLsbD k =
        f (((slot w s).thread w).v[va].getLsbD k) (((slot w s).thread w).v[vb].getLsbD k)) ∧
      Runs i s (Ran w none 1 (fun th => { th with v := th.v.set vd x }) s) :=
  ⟨_, fun k hk => (getLsbD_masked hk _).trans (hF _ _ k hk), hi.setV_runs hform rfl he rfl⟩

/-- A compare of two registers. -/
theorem Issues.vCmp_gives (hi : Issues w none s) (hform : formOf i = {}) (het : et.toNat ≤ 6) {o : Ordering → Bool} {onNan : Bool}
    (he : exec i s = onHw (vCmp w et vd va vb o onNan) s) (p : Option Ordering → Bool) (hsome : ∀ r, o r = p (some r))
    (hnone : onNan = p none) :
    GivesLanes i w et vd 1 (fun k => if p (laneOrder et (lane et ((slot w s).thread w).v[va] k) (lane et ((slot w s).thread w).v[vb] k))
      then 2 ^ laneBits et - 1 else 0) s := by
  refine hi.vMap2_gives hform het (etAny_true het) he fun k => ?_
  set x := lane et ((slot w s).thread w).v[va] k with hx
  set y := lane et ((slot w s).thread w).v[vb] k with hy
  have hord : (if etFloat et then ((etFmt et.toNat).decode x).cmp ((etFmt et.toNat).decode y)
      else some (compare (signed (laneBits et) x) (signed (laneBits et) y))) = laneOrder et x y := by
    rw [signed_lane (hx ▸ lane_lt ..), signed_lane (hy ▸ lane_lt ..), laneOrder, etFloat]
    simp only [decide_eq_true_eq]
    rfl
  rw [etBits_eq het]
  dsimp only
  rw [hord]
  cases laneOrder et x y with
  | none => rw [hnone]
  | some r => rw [← hsome r]

end

/-- Settles O19: bit for bit, lane for lane by the order of two lanes, and lane for lane by class. -/
theorem vectorBitsComparesAndClasses : Obligations.VectorBitsComparesAndClasses := by
  intro w et vd va vb s hi th n bits
  refine ⟨hi.vBits_runs rfl rfl (· && ·) fun _ _ _ _ => BitVec.getLsbD_and,
    hi.vBits_runs rfl rfl (· || ·) fun _ _ _ _ => BitVec.getLsbD_or,
    hi.vBits_runs rfl rfl (· != ·) fun _ _ _ _ => BitVec.getLsbD_xor,
    hi.vBits_runs rfl rfl (fun p q => p && !q) fun x y k hk => ?_,
    hi.vBits_runs rfl rfl (fun p _ => !p) fun x _ k hk => getLsbD_inverted hk x,
    ⟨_, fun _ hk => getLsbD_select hk th.v[va] th.v[vb] th.v[vd],
      hi.setV_runs (F := fun th => (th.getV va &&& th.getV vd) ||| (th.getV vb &&& ~~~th.getV vd)) rfl rfl rfl rfl⟩,
    ⟨th.v[va], fun _ _ => rfl, hi.setV_runs (F := (·.getV va)) rfl rfl rfl rfl⟩, fun het => ?_, fun hlo hhi => ?_, fun het => ?_⟩
  · rw [BitVec.getLsbD_and, getLsbD_inverted hk]
  · exact ⟨hi.vCmp_gives rfl het rfl (· == some .eq) (fun r => by cases r <;> rfl) rfl,
      hi.vCmp_gives rfl het rfl (· != some .eq) (fun r => by cases r <;> rfl) rfl,
      hi.vCmp_gives rfl het rfl (· == some .lt) (fun r => by cases r <;> rfl) rfl,
      hi.vCmp_gives rfl het rfl (· == some .gt) (fun r => by cases r <;> rfl) rfl,
      hi.vCmp_gives rfl het rfl (fun o => o == some .lt || o == some .eq) (fun r => by cases r <;> rfl) rfl,
      hi.vCmp_gives rfl het rfl (fun o => o == some .gt || o == some .eq) (fun r => by cases r <;> rfl) rfl⟩
  · have hok := etInt_true hlo hhi
    exact ⟨hi.vMap2_gives rfl hhi hok rfl fun k => by rw [etBits_eq hhi], hi.vMap2_gives rfl hhi hok rfl fun k => by rw [etBits_eq hhi]⟩
  · exact hi.vMap1_gives rfl (by omega) (etFloat_true het) rfl fun _ => rfl

end Sys2Proof.Claims

namespace Sys2Proof.Claims

open Sys2Proof.Machine

/-! ### Permutations and moves of single lanes (R169, R180) -/

/-- The lane of a register that an integer names, 0 outside the lanes. -/
def laneAt (w : Who) (et : BitVec 3) (x : BitVec 2048) (j : Int) : Nat :=
  if 0 ≤ j ∧ j < laneCount w et then lane et x j.toNat else 0

section
variable {w : Who} {et : BitVec 3}

/-- A lane that the model takes by its number. -/
theorem getD_lanes_eq_laneAt (het : et.toNat ≤ 6) (x : BitVec 2048) (k : Nat) :
    (lanesOf (vecBits w.core) (etBits et.toNat) x).getD k 0 = laneAt w et x k := by
  rw [getD_lanes het, laneAt, Int.toNat_natCast]
  simp only [Int.natCast_nonneg, true_and, Nat.cast_lt]

/-- A lane that it takes by an integer. -/
theorem ite_getD_lanes_eq_laneAt (het : et.toNat ≤ 6) (x : BitVec 2048) (j : Int) :
    (if j < 0 then 0 else (lanesOf (vecBits w.core) (etBits et.toNat) x).getD j.toNat 0) = laneAt w et x j := by
  split
  case isTrue hneg => rw [laneAt, if_neg (fun h => absurd hneg (Int.not_lt.mpr h.1))]
  case isFalse hpos => rw [getD_lanes_eq_laneAt het, Int.toNat_of_nonneg (Int.not_lt.mp hpos)]

/-- It is below the power of two of its width. -/
theorem laneAt_lt (x : BitVec 2048) (j : Int) : laneAt w et x j < 2 ^ laneBits et := by
  unfold laneAt
  split
  · exact lane_lt ..
  · exact Nat.two_pow_pos _

/-- One number in every lane. -/
theorem replicate_eq_map_range (n a : Nat) : List.replicate n a = (List.range n).map (fun _ => a) := by
  rw [List.map_const', List.length_range]

/-- One lane replaced, if there is such a one. -/
theorem set_map_range (n : Nat) (f : Nat → Nat) (k a : Nat) :
    ((List.range n).map f).set k a = (List.range n).map (fun i => if i = k then a else f i) := by
  apply List.ext_getElem (by simp)
  intro i _ _
  simp only [List.getElem_set, List.getElem_map, List.getElem_range, eq_comm]

variable {vd va vb d da db : Fin 32} {s : State}

/-- VPERM. -/
theorem vperm_gives (hi : Issues w none s) (het : et.toNat ≤ 6) : GivesLanes (.vperm w et vd va vb) w et vd 1
    (fun i => laneAt w et ((slot w s).thread w).v[va] (lane et ((slot w s).thread w).v[vb] i)) s := by
  refine hi.range_gives rfl het (etAny_true het) rfl ?_
  rw [lanes_eq het (((slot w s).thread w).getV vb), List.map_map]
  simp only [Function.comp_def, getD_lanes_eq_laneAt het]
  rfl

/-- VSLIDE. -/
theorem vslide_gives (hi : Issues w none s) (het : et.toNat ≤ 6) : GivesLanes (.vslide w et vd va db) w et vd 1
    (fun i => laneAt w et ((slot w s).thread w).v[va] (i + (((slot w s).thread w).getD db).toInt)) s := by
  refine hi.range_gives rfl het (etAny_true het) rfl ?_
  simp only [length_lanes het, ite_getD_lanes_eq_laneAt het]
  rfl

/-- VBCL. -/
theorem vbcl_gives (hi : Issues w none s) (het : et.toNat ≤ 6) : GivesLanes (.vbcl w et vd va db) w et vd 1
    (fun _ => laneAt w et ((slot w s).thread w).v[va] (((slot w s).thread w).getD db).toNat) s := by
  refine hi.range_gives rfl het (etAny_true het) rfl ?_
  simp only [length_lanes het, getD_lanes_eq_laneAt het, replicate_eq_map_range]
  rfl

/-- VSPLAT. -/
theorem vsplat_gives (hi : Issues w none s) (het : et.toNat ≤ 6) : GivesLanes (.vsplat w et vd da) w et vd 1
    (fun _ => (((slot w s).thread w).getD da).toNat) s := by
  refine hi.range_gives rfl het (etAny_true het) rfl ?_
  rw [etBits_eq het, replicate_eq_map_range]
  rfl

/-- VINS. -/
theorem vins_gives (hi : Issues w none s) (het : et.toNat ≤ 6) : GivesLanes (.vins w et vd da db) w et vd 1
    (fun i => if i = (((slot w s).thread w).getD db).toNat then (((slot w s).thread w).getD da).toNat
      else lane et ((slot w s).thread w).v[vd] i) s := by
  refine hi.range_gives rfl het (etAny_true het) rfl ?_
  rw [lanes_eq het, set_map_range]
  rfl

/-- VEXT. -/
theorem vext_runs (hi : Issues w none s) (het : et.toNat ≤ 6) : Runs (.vext w et d va db) s (Ran w none 1 (fun th => th.setD d
    (BitVec.ofNat 64 (laneAt w et ((slot w s).thread w).v[va] (((slot w s).thread w).getD db).toNat))) s) := by
  refine hi.vecOp_runs rfl (etAny_true het) rfl (keepsIssue_setD d _) ?_
  simp only [getD_lanes_eq_laneAt het]
  rfl

/-- VEXTS. -/
theorem vexts_runs (hi : Issues w none s) (het : et.toNat ≤ 6) : Runs (.vexts w et d va db) s (Ran w none 1 (fun th => th.setD d
    (BitVec.ofInt 64 (sLane et (laneAt w et ((slot w s).thread w).v[va] (((slot w s).thread w).getD db).toNat)))) s) := by
  refine hi.vecOp_runs rfl (etAny_true het) rfl (keepsIssue_setD d _) ?_
  simp only [getD_lanes_eq_laneAt het]
  rw [etBits_eq het, signed_lane (laneAt_lt ..)]
  rfl

end

end Sys2Proof.Claims

namespace Sys2Proof.Claims

open Sys2Proof.Machine

/-! ### The fixed tree of reductions (R168) -/

section
variable (op : Nat → Nat → Nat) (u : Nat → Nat)

/-- A level of the tree. -/
theorem treeLevel_map_range (m : Nat) :
    treeLevel op ((List.range (2 * m)).map u) = (List.range m).map (fun i => op (u (2 * i)) (u (2 * i + 1))) := by
  induction m generalizing u with
  | zero => rfl
  | succ m ih =>
    rw [Nat.mul_succ, List.range_succ_eq_map, List.range_succ_eq_map, List.range_succ_eq_map]
    simp only [List.map_cons, List.map_map, treeLevel]
    exact congrArg (_ :: ·) (ih (fun i => u (i + 2)))

/-- The tree over what a level leaves is the rest of the tree. -/
theorem inTree_level (n i : Nat) : inTree op (fun i => op (u (2 * i)) (u (2 * i + 1))) n i = inTree op u (n + 1) i := by
  induction n generalizing i with
  | zero => rfl
  | succ n ih => exact congrArg₂ op (ih (2 * i)) (ih (2 * i + 1))

/-- The model's reduction has the value of the tree; levels over one lane leave it. -/
theorem treeReduce_map_range {n k : Nat} (hn : n ≤ k) : treeReduce op k ((List.range (2 ^ n)).map u) = [inTree op u n 0] := by
  induction k generalizing n u with
  | zero =>
    obtain rfl := Nat.le_zero.mp hn
    rfl
  | succ k ih =>
    cases n with
    | zero => exact ih u (Nat.zero_le k)
    | succ n => rw [treeReduce, Nat.pow_succ', treeLevel_map_range, ih _ (Nat.le_of_succ_le_succ hn), inTree_level]

end

/-- Of two values of which `D` holds, an operation gives the one with the greater key. -/
def Selects (D : Nat → Prop) (key : Nat → Int) (op : Nat → Nat → Nat) : Prop :=
  ∀ x y, D x → D y → (op x y = x ∧ key y ≤ key x) ∨ (op x y = y ∧ key x ≤ key y)

section
variable {op : Nat → Nat → Nat} {u : Nat → Nat}

/-- The tree of such an operation gives a lane with the greatest key of its lanes. -/
theorem inTree_selects {D : Nat → Prop} {key : Nat → Int} (hop : Selects D key op) (n i : Nat)
    (hD : ∀ j < 2 ^ n, D (u (2 ^ n * i + j))) :
    ∃ j < 2 ^ n, inTree op u n i = u (2 ^ n * i + j) ∧ ∀ k < 2 ^ n, key (u (2 ^ n * i + k)) ≤ key (u (2 ^ n * i + j)) := by
  induction n generalizing i with
  | zero =>
    refine ⟨0, Nat.one_pos, by simp [inTree], fun k hk => ?_⟩
    obtain rfl := Nat.lt_one_iff.mp hk
    exact le_rfl
  | succ n ih =>
    have hleft : ∀ j, 2 ^ n * (2 * i) + j = 2 ^ (n + 1) * i + j := fun j => by ring
    have hright : ∀ j, 2 ^ n * (2 * i + 1) + j = 2 ^ (n + 1) * i + (2 ^ n + j) := fun j => by ring
    have hsize : 2 ^ (n + 1) = 2 ^ n + 2 ^ n := by ring
    obtain ⟨a, ha, hxa, hmaxa⟩ := ih (2 * i) (fun j hj => by rw [hleft]; exact hD j (by omega))
    obtain ⟨b, hb, hxb, hmaxb⟩ := ih (2 * i + 1) (fun j hj => by rw [hright]; exact hD _ (by omega))
    simp only [hleft, hright] at hxa hxb hmaxa hmaxb
    have hkeys : ∀ t, key (u (2 ^ (n + 1) * i + a)) ≤ t → key (u (2 ^ (n + 1) * i + (2 ^ n + b))) ≤ t →
        ∀ k < 2 ^ (n + 1), key (u (2 ^ (n + 1) * i + k)) ≤ t := fun t hat hbt k hk => by
      by_cases hlow : k < 2 ^ n
      · exact (hmaxa k hlow).trans hat
      · have hk' := hmaxb (k - 2 ^ n) (by omega)
        rw [Nat.add_sub_cancel' (Nat.not_lt.mp hlow)] at hk'
        exact hk'.trans hbt
    rcases hop _ _ (hD a (by omega)) (hD (2 ^ n + b) (by omega)) with ⟨hsel, hle⟩ | ⟨hsel, hle⟩
    · exact ⟨a, by omega, by rw [inTree, hxa, hxb, hsel], hkeys _ le_rfl hle⟩
    · exact ⟨2 ^ n + b, by omega, by rw [inTree, hxa, hxb, hsel], hkeys _ hle le_rfl⟩

/-- It is the value of a first lane. -/
theorem inTree_selects_first {D : Nat → Prop} {key : Nat → Int} (hop : Selects D key op) (n : Nat) (hD : ∀ j < 2 ^ n, D (u j)) :
    ∃ j < 2 ^ n, inTree op u n 0 = u j ∧ (∀ i < j, u i ≠ u j) ∧ ∀ i < 2 ^ n, key (u i) ≤ key (u j) := by
  obtain ⟨a, ha, hx, hmax⟩ := inTree_selects hop n 0 (fun j hj => by rw [Nat.mul_zero, Nat.zero_add]; exact hD j hj)
  simp only [Nat.mul_zero, Nat.zero_add] at hx hmax
  have hex : ∃ j, u j = u a := ⟨a, rfl⟩
  have hfirst : u (Nat.find hex) = u a := Nat.find_spec hex
  refine ⟨Nat.find hex, (Nat.find_min' hex rfl).trans_lt ha, hx.trans hfirst.symm, fun i hlt heq => ?_, fun i hi => ?_⟩
  · exact Nat.find_min hex hlt (heq.trans hfirst)
  · rw [hfirst]
    exact hmax i hi

/-- Where an operation answers `c` as soon as `p` holds of an operand, and `p` holds of `c`, the tree answers it. -/
theorem inTree_absorbs {p : Nat → Bool} {c : Nat} (hc : p c = true) (hop : ∀ x y, p x = true ∨ p y = true → op x y = c) (n i : Nat)
    {j : Nat} (hj : j < 2 ^ n) (hp : p (u (2 ^ n * i + j)) = true) :
    p (inTree op u n i) = true ∧ (0 < n → inTree op u n i = c) := by
  induction n generalizing i j with
  | zero =>
    obtain rfl := Nat.lt_one_iff.mp hj
    rw [pow_zero, Nat.one_mul] at hp
    exact ⟨hp, fun h => absurd h (Nat.lt_irrefl 0)⟩
  | succ n ih =>
    have hsize : 2 ^ (n + 1) = 2 ^ n + 2 ^ n := by ring
    have hhalf : p (inTree op u n (2 * i)) = true ∨ p (inTree op u n (2 * i + 1)) = true := by
      by_cases hlow : j < 2 ^ n
      · have hindex : 2 ^ n * (2 * i) + j = 2 ^ (n + 1) * i + j := by ring
        exact .inl (ih (2 * i) hlow (by rwa [hindex])).1
      · obtain ⟨k, rfl⟩ := Nat.exists_eq_add_of_le (Nat.not_lt.mp hlow)
        have hindex : 2 ^ n * (2 * i + 1) + k = 2 ^ (n + 1) * i + (2 ^ n + k) := by ring
        exact .inr (ih (j := k) (2 * i + 1) (by omega) (by rwa [hindex])).1
    have hval : inTree op u (n + 1) i = c := hop _ _ hhalf
    exact ⟨hval ▸ hc, fun _ => hval⟩

/-- Where an operation adds up to a modulus, the tree gives the sum up to it. -/
theorem inTree_sum {m : Int} {v : Nat → Int} (hop : ∀ x y, (op x y : Int) ≡ x + y [ZMOD m]) (hu : ∀ j, (u j : Int) ≡ v j [ZMOD m])
    (n i : Nat) : (inTree op u n i : Int) ≡ ((List.range (2 ^ n)).map (fun j => v (2 ^ n * i + j))).sum [ZMOD m] := by
  induction n generalizing i with
  | zero => simpa [inTree, List.range_one] using hu i
  | succ n ih =>
    have hleft : ∀ j, 2 ^ (n + 1) * i + j = 2 ^ n * (2 * i) + j := fun j => by ring
    have hright : ∀ j, 2 ^ (n + 1) * i + (2 ^ n + j) = 2 ^ n * (2 * i + 1) + j := fun j => by ring
    have hrange : List.range (2 ^ (n + 1)) = List.range (2 ^ n) ++ (List.range (2 ^ n)).map (2 ^ n + ·) := by
      rw [pow_succ, Nat.mul_two, List.range_add]
    rw [hrange, List.map_append, List.sum_append, List.map_map]
    simp only [Function.comp_def, hright]
    simp only [hleft]
    exact (hop _ _).trans ((ih (2 * i)).add (ih (2 * i + 1)))

end

end Sys2Proof.Claims

namespace Sys2Proof.Claims

open Sys2Proof.Machine

/-! ### Reductions of integer and floating-point lanes (R162, R165, R168) -/

section
variable {et : BitVec 3}

/-- The signed value of a lane is the lane modulo its width. -/
theorem sLane_modEq (et : BitVec 3) (x : Nat) : (x : Int) ≡ sLane et x [ZMOD 2 ^ laneBits et] := by
  unfold sLane
  split
  · exact Int.ModEq.refl _
  · exact (Int.sub_emod_right ..).symm

/-- What is kept in a lane is the value modulo the lane. -/
theorem toLane_modEq (et : BitVec 3) (v : Int) : (toLane et v : Int) ≡ v [ZMOD 2 ^ laneBits et] := by
  have hpos : (0 : Int) < 2 ^ laneBits et := by positivity
  rw [toLane, Int.toNat_of_nonneg (Int.emod_nonneg _ hpos.ne')]
  exact Int.mod_modEq _ _

/-- A number that is a value modulo the lane is the value kept in a lane. -/
theorem mod_eq_of_modEq {x : Nat} {v : Int} (hv : (x : Int) ≡ v [ZMOD 2 ^ laneBits et]) :
    x % 2 ^ laneBits et = toLane et v % 2 ^ laneBits et := by
  have hlane : toLane et v = toLane et x := congrArg Int.toNat hv.symm
  rw [hlane, toLane_natCast, Nat.mod_mod]

/-- A lane is the lane of its signed value. -/
theorem toLane_sLane {x : Nat} (hx : x < 2 ^ laneBits et) : toLane et (sLane et x) = x := by
  have hlane : toLane et (sLane et x) = toLane et x := congrArg Int.toNat (sLane_modEq et x).symm
  rw [hlane, toLane_natCast, Nat.mod_eq_of_lt hx]

/-- The signed value of the low bits of a number is the number modulo the lane. -/
theorem signed_modEq (et : BitVec 3) (x : Nat) : signed (laneBits et) x ≡ x [ZMOD 2 ^ laneBits et] := by
  have hlow : signed (laneBits et) x = sLane et (x % 2 ^ laneBits et) := by
    rw [← signed_lane (Nat.mod_lt _ (Nat.two_pow_pos _)), signed, signed, Nat.mod_mod]
  have hmod : ((x % 2 ^ laneBits et : Nat) : Int) ≡ x [ZMOD 2 ^ laneBits et] := by
    rw [Int.natCast_mod, Int.natCast_pow]
    exact Int.mod_modEq _ _
  rw [hlow]
  exact (sLane_modEq et _).symm.trans hmod

/-- An integer sum wraps. -/
theorem iop2_add_modEq (het : et.toNat ≤ 6) (x y : Nat) : (iop2 et (· + ·) x y : Int) ≡ x + y [ZMOD 2 ^ laneBits et] := by
  rw [iop2, etBits_eq het, wrap_eq]
  exact (toLane_modEq et _).trans ((signed_modEq et x).add (signed_modEq et y))

/-- The signed maximum. -/
theorem selects_max (het : et.toNat ≤ 6) : Selects (· < 2 ^ laneBits et) (sLane et) (iop2 et max) := by
  intro x y hx hy
  rw [iop2_eq het _ hx hy]
  rcases le_total (sLane et x) (sLane et y) with hle | hle
  · exact .inr ⟨by rw [max_eq_right hle, toLane_sLane hy], hle⟩
  · exact .inl ⟨by rw [max_eq_left hle, toLane_sLane hx], hle⟩

/-- The signed minimum. -/
theorem selects_min (het : et.toNat ≤ 6) : Selects (· < 2 ^ laneBits et) (fun x => -sLane et x) (iop2 et min) := by
  intro x y hx hy
  rw [iop2_eq het _ hx hy]
  rcases le_total (sLane et x) (sLane et y) with hle | hle
  · exact .inl ⟨by rw [min_eq_left hle, toLane_sLane hx], neg_le_neg hle⟩
  · exact .inr ⟨by rw [min_eq_right hle, toLane_sLane hy], neg_le_neg hle⟩

end

section
variable {f : Fmt}

/-- The larger of two numbers. -/
theorem selects_larger : Selects (f.isNan · = false) f.key (f.pick true) := by
  intro x y hx hy
  rw [pick_larger, hx, hy, Bool.or_self, if_neg Bool.false_ne_true]
  split
  case isTrue hle => exact .inl ⟨rfl, hle⟩
  case isFalse hlt => exact .inr ⟨rfl, (Int.not_le.mp hlt).le⟩

/-- The smaller of two numbers. -/
theorem selects_smaller : Selects (f.isNan · = false) (fun x => -f.key x) (f.pick false) := by
  intro x y hx hy
  rw [pick_smaller, hx, hy, Bool.or_self, if_neg Bool.false_ne_true]
  split
  case isTrue hle => exact .inl ⟨rfl, neg_le_neg hle⟩
  case isFalse hlt => exact .inr ⟨rfl, neg_le_neg (Int.not_le.mp hlt).le⟩

/-- NaN is neither smaller nor larger. -/
theorem pick_nan (larger : Bool) {x y : Nat} (h : f.isNan x = true ∨ f.isNan y = true) : f.pick larger x y = f.canonNan := by
  rw [Fmt.pick, if_pos (by simpa using h)]

/-- The canonical NaN is one. -/
theorem isNan_canonNan : ∀ et : BitVec 3, (laneFmt et).isNan (laneFmt et).canonNan = true := by decide

end

section
variable {w : Who} {s : State} {i : Instr} {et : BitVec 3} {vd va : Fin 32} {op g : Nat → Nat → Nat}

/-- The number of levels of the tree. -/
theorem log2_laneCount (w : Who) (et : BitVec 3) :
    0 < Nat.log2 (laneCount w et) ∧ Nat.log2 (laneCount w et) ≤ 8 ∧ 2 ^ Nat.log2 (laneCount w et) = laneCount w et := by
  obtain ⟨a, hlo, hhi, hcount, -⟩ := laneCount_eq w et
  rw [hcount, Nat.log2_two_pow]
  exact ⟨by omega, hhi, rfl⟩

/-- The model's reduction of a register. -/
theorem treeReduce_lanes (het : et.toNat ≤ 6) (op : Nat → Nat → Nat) (x : BitVec 2048) :
    treeReduce op 8 (lanesOf (vecBits w.core) (etBits et.toNat) x) = [inTree op (lane et x) (Nat.log2 (laneCount w et)) 0] := by
  obtain ⟨-, hle, hcount⟩ := log2_laneCount w et
  rw [lanes_eq het, ← hcount, treeReduce_map_range op _ hle, hcount]

/-- A reduction puts the value of its tree into lane 0. -/
theorem Issues.vReduce_gives (hi : Issues w none s) (hform : formOf i = {}) (het : et.toNat ≤ 6)
    (he : exec i s = onHw (vReduce w et vd va op) s) (hop : op = g) {v : Nat}
    (hv : inTree g (lane et ((slot w s).thread w).v[va]) (Nat.log2 (laneCount w et)) 0 % 2 ^ laneBits et = v % 2 ^ laneBits et) :
    GivesLanes i w et vd 2 (fun k => if k = 0 then v else 0) s := by
  subst hop
  have hcount : 1 ≤ laneCount w et := by
    obtain ⟨-, -, h⟩ := log2_laneCount w et
    exact h ▸ Nat.two_pow_pos _
  refine hi.lanes_give hform het (etAny_true het) he
    (xs := [inTree op (lane et ((slot w s).thread w).v[va]) (Nat.log2 (laneCount w et)) 0]) ?_ hcount (fun k _ => ?_)
  · rw [treeReduce_lanes het]
    rfl
  · cases k with
    | zero => exact hv
    | succ k => rfl

end

end Sys2Proof.Claims

namespace Sys2Proof.Claims

open Sys2Proof.Machine

/-! ### The index of the maximum (R168, R169) -/

/-- The two lanes that VRARGMAX makes of a register's. -/
def argmaxOf (et : BitVec 3) (xs : List Nat) : List Nat :=
  let nan := fun x => etFloat et && (etFmt et.toNat).isNan x
  let top := if xs.any nan then (etFmt et.toNat).canonNan
    else (treeReduce (if etFloat et then (etFmt et.toNat).pick true else iop2 et max) 8 xs).headD 0
  [top, if xs.any nan then xs.findIdx nan else xs.findIdx (· == top)]

/-- VRARGMAX. -/
theorem exec_vrargmax (w : Who) (et : BitVec 3) (vd va : Fin 32) (s : State) : exec (.vrargmax w et vd va) s =
    onHw (vecOp w (etAny et) 2 (fun th =>
      th.setV vd (ofLanes (etBits et.toNat) (argmaxOf et (lanesOf (vecBits w.core) (etBits et.toNat) (th.getV va)))))) s := rfl

/-- The first lane that satisfies a test. -/
theorem findIdx_map_range {n j : Nat} {u : Nat → Nat} {p : Nat → Bool} (hj : j < n) (hp : p (u j) = true)
    (hfirst : ∀ i < j, p (u i) = false) : ((List.range n).map u).findIdx p = j := by
  rw [List.findIdx_eq (by simpa using hj)]
  simpa using ⟨hp, hfirst⟩

section
variable {w : Who} {s : State} {et : BitVec 3} {vd va : Fin 32}

/-- VRARGMAX puts its two lanes into lanes 0 and 1. -/
theorem vrargmax_gives (hi : Issues w none s) (het : et.toNat ≤ 6) {top ix : Nat}
    (htop : argmaxOf et (lanesOf (vecBits w.core) (etBits et.toNat) (((slot w s).thread w).getV va)) = [top, ix]) :
    GivesLanes (.vrargmax w et vd va) w et vd 2 (fun k => if k = 0 then top else if k = 1 then ix else 0) s := by
  have hcount : 2 ≤ laneCount w et := by
    obtain ⟨hpos, -, h⟩ := log2_laneCount w et
    exact h ▸ Nat.pow_le_pow_right Nat.two_pos hpos
  refine hi.lanes_give rfl het (etAny_true het) (exec_vrargmax ..) htop hcount (fun k _ => ?_)
  rcases k with _ | _ | k <;> rfl

variable {x : BitVec 2048} {j : Nat}

/-- Where no lane is NaN, the lanes are the maximum and the first index of it. -/
theorem argmaxOf_number (het : et.toNat ≤ 6) (hnum : ∀ k < laneCount w et, (etFloat et && (laneFmt et).isNan (lane et x k)) = false)
    (hj : j < laneCount w et)
    (htop : inTree (if etFloat et then (laneFmt et).pick true else iop2 et max) (lane et x) (Nat.log2 (laneCount w et)) 0 = lane et x j)
    (hfirst : ∀ i < j, lane et x i ≠ lane et x j) :
    argmaxOf et (lanesOf (vecBits w.core) (etBits et.toNat) x) = [lane et x j, j] := by
  have hany : (lanesOf (vecBits w.core) (etBits et.toNat) x).any (fun x => etFloat et && (laneFmt et).isNan x) = false := by
    rw [lanes_eq het, List.any_map, List.any_eq_false]
    intro k hk
    exact Bool.eq_false_iff.mp (hnum k (List.mem_range.mp hk))
  have hindex : (lanesOf (vecBits w.core) (etBits et.toNat) x).findIdx (· == lane et x j) = j := by
    rw [lanes_eq het]
    exact findIdx_map_range hj (beq_self_eq_true _) (fun i hi => beq_false_of_ne (hfirst i hi))
  simp only [argmaxOf, hany, Bool.false_eq_true, if_false, etFmt_eq, treeReduce_lanes het, htop, List.headD_cons, hindex]

/-- A NaN lane, the first of them, wins. -/
theorem argmaxOf_nan (het : et.toNat ≤ 2) (hj : j < laneCount w et) (hnan : (laneFmt et).isNan (lane et x j) = true)
    (hfirst : ∀ i < j, (laneFmt et).isNan (lane et x i) = false) :
    argmaxOf et (lanesOf (vecBits w.core) (etBits et.toNat) x) = [(laneFmt et).canonNan, j] := by
  have hindex : (lanesOf (vecBits w.core) (etBits et.toNat) x).findIdx (laneFmt et).isNan = j := by
    rw [lanes_eq (by omega)]
    exact findIdx_map_range hj hnan hfirst
  have hany : (lanesOf (vecBits w.core) (etBits et.toNat) x).any (laneFmt et).isNan = true := by
    rw [lanes_eq (by omega), List.any_map, List.any_eq_true]
    exact ⟨j, List.mem_range.mpr hj, hnan⟩
  simp only [argmaxOf, etFloat_true het, Bool.true_and, etFmt_eq, hany, if_true, hindex]

end

/-! ### The reductions by group of element types -/

section
variable {w : Who} {s : State} {et : BitVec 3} {vd va : Fin 32}

/-- Integer types are not of floating point. -/
theorem etFloat_false {et : BitVec 3} (het : 3 ≤ et.toNat) : etFloat et = false := decide_eq_false (by omega)

/-- The reductions of integers: the sum that wraps, and the greatest and least lanes. -/
theorem integers_reduce (hi : Issues w none s) (hlo : 3 ≤ et.toNat) (hhi : et.toNat ≤ 6) :
    let n := laneCount w et
    let u := fun k => lane et ((slot w s).thread w).v[va] k
    GivesLanes (.vrsum w et vd va) w et vd 2
      (fun i => if i = 0 then toLane et (((List.range n).map (fun j => sLane et (u j))).sum) else 0) s ∧
    (∃ x, GivesLanes (.vrmax w et vd va) w et vd 2 (fun i => if i = 0 then x else 0) s ∧
      (∃ j < n, x = u j) ∧ ∀ j < n, sLane et (u j) ≤ sLane et x) ∧
    (∃ x, GivesLanes (.vrmin w et vd va) w et vd 2 (fun i => if i = 0 then x else 0) s ∧
      (∃ j < n, x = u j) ∧ ∀ j < n, sLane et x ≤ sLane et (u j)) ∧
    (∃ j < n, GivesLanes (.vrargmax w et vd va) w et vd 2 (fun i => if i = 0 then u j else if i = 1 then j else 0) s ∧
      (∀ i < n, sLane et (u i) ≤ sLane et (u j)) ∧ ∀ i < j, u i ≠ u j) := by
  intro n u
  obtain ⟨-, -, hcount⟩ := log2_laneCount w et
  have hint := etFloat_false hlo
  have hu : ∀ j, u j < 2 ^ laneBits et := fun j => lane_lt ..
  obtain ⟨j, hj, htop, hfirst, hmax⟩ := inTree_selects_first (u := u) (selects_max hhi) (Nat.log2 n) (fun j _ => hu j)
  obtain ⟨k, hk, hlow, -, hmin⟩ := inTree_selects_first (u := u) (selects_min hhi) (Nat.log2 n) (fun j _ => hu j)
  rw [hcount] at hj hmax hk hmin
  refine ⟨hi.vReduce_gives rfl hhi rfl (if_neg (by simp [hint])) ?_, ⟨u j, ?_, ⟨j, hj, rfl⟩, hmax⟩,
    ⟨u k, ?_, ⟨k, hk, rfl⟩, fun i hlt => neg_le_neg_iff.mp (hmin i hlt)⟩, j, hj, ?_, hmax, hfirst⟩
  · have hsum := inTree_sum (u := u) (iop2_add_modEq hhi) (fun j => sLane_modEq et (u j)) (Nat.log2 n) 0
    rw [hcount] at hsum
    simp only [Nat.mul_zero, Nat.zero_add] at hsum
    exact mod_eq_of_modEq hsum
  · exact hi.vReduce_gives rfl hhi rfl (if_neg (by simp [hint])) (congrArg (· % _) htop)
  · exact hi.vReduce_gives rfl hhi rfl (if_neg (by simp [hint])) (congrArg (· % _) hlow)
  · refine vrargmax_gives hi hhi (argmaxOf_number hhi (fun _ _ => by rw [hint, Bool.false_and]) hj ?_ hfirst)
    rw [hint]
    exact htop

/-- The reductions of floating point where a lane is NaN: the canonical NaN, and the first index of one. -/
theorem numbers_reduce_nan (hi : Issues w none s) (het : et.toNat ≤ 2) {j : Nat} (hj : j < laneCount w et)
    (hnan : (laneFmt et).isNan (lane et ((slot w s).thread w).v[va] j) = true)
    (hfirst : ∀ i < j, (laneFmt et).isNan (lane et ((slot w s).thread w).v[va] i) = false) :
    GivesLanes (.vrmax w et vd va) w et vd 2 (fun i => if i = 0 then (laneFmt et).canonNan else 0) s ∧
    GivesLanes (.vrmin w et vd va) w et vd 2 (fun i => if i = 0 then (laneFmt et).canonNan else 0) s ∧
    GivesLanes (.vrargmax w et vd va) w et vd 2 (fun i => if i = 0 then (laneFmt et).canonNan else if i = 1 then j else 0) s := by
  have hany : et.toNat ≤ 6 := by omega
  obtain ⟨hpos, -, hcount⟩ := log2_laneCount w et
  have htree : ∀ larger, inTree ((laneFmt et).pick larger) (lane et ((slot w s).thread w).v[va]) (Nat.log2 (laneCount w et)) 0 =
      (laneFmt et).canonNan := fun larger =>
    (inTree_absorbs (isNan_canonNan et) (fun _ _ => pick_nan larger) _ 0 (j := j) (by rwa [hcount])
      (by rwa [Nat.mul_zero, Nat.zero_add])).2 hpos
  exact ⟨hi.vReduce_gives rfl hany rfl (if_pos (etFloat_true het)) (congrArg (· % _) (htree true)),
    hi.vReduce_gives rfl hany rfl (if_pos (etFloat_true het)) (congrArg (· % _) (htree false)),
    vrargmax_gives hi hany (argmaxOf_nan het hj hnan hfirst)⟩

/-- Those where none is NaN: the greatest and least lanes. -/
theorem numbers_reduce (hi : Issues w none s) (het : et.toNat ≤ 2) :
    let n := laneCount w et
    let f := laneFmt et
    let u := fun k => lane et ((slot w s).thread w).v[va] k
    (∀ j < n, f.isNan (u j) = false) →
      (∃ j < n, (∀ i < n, f.key (u i) ≤ f.key (u j)) ∧ (∀ i < j, u i ≠ u j) ∧
        GivesLanes (.vrmax w et vd va) w et vd 2 (fun i => if i = 0 then u j else 0) s ∧
        GivesLanes (.vrargmax w et vd va) w et vd 2 (fun i => if i = 0 then u j else if i = 1 then j else 0) s) ∧
      (∃ j < n, (∀ i < n, f.key (u j) ≤ f.key (u i)) ∧
        GivesLanes (.vrmin w et vd va) w et vd 2 (fun i => if i = 0 then u j else 0) s) := by
  intro n f u hnum
  have hany : et.toNat ≤ 6 := by omega
  have hfloat := etFloat_true het
  obtain ⟨-, -, hcount⟩ := log2_laneCount w et
  have hnum' : ∀ j < 2 ^ Nat.log2 n, f.isNan (u j) = false := fun j hj => hnum j (hj.trans_eq hcount)
  obtain ⟨j, hj, htop, hfirst, hmax⟩ := inTree_selects_first selects_larger (Nat.log2 n) hnum'
  obtain ⟨k, hk, hlow, -, hmin⟩ := inTree_selects_first selects_smaller (Nat.log2 n) hnum'
  rw [hcount] at hj hmax hk hmin
  refine ⟨⟨j, hj, hmax, hfirst, ?_, ?_⟩, k, hk, fun i hlt => neg_le_neg_iff.mp (hmin i hlt), ?_⟩
  · exact hi.vReduce_gives rfl hany rfl (if_pos hfloat) (congrArg (· % _) htop)
  · have hnone : ∀ i < laneCount w et, (etFloat et && (laneFmt et).isNan (lane et ((slot w s).thread w).v[va] i)) = false :=
      fun i hlt => (congrArg (etFloat et && ·) (hnum i hlt)).trans (Bool.and_false _)
    refine vrargmax_gives hi hany (argmaxOf_number hany hnone hj ?_ hfirst)
    rw [hfloat]
    exact htop
  · exact hi.vReduce_gives rfl hany rfl (if_pos hfloat) (congrArg (· % _) hlow)

end

/-- Settles O20: the permutations and moves by the lane that a number names, the reductions by what holds of their tree. -/
theorem vectorLanesMoved : Obligations.VectorLanesMoved := by
  intro w et vd va vb d da db s hi het th n u at_ k
  refine ⟨vperm_gives hi het, vslide_gives hi het, vbcl_gives hi het, vsplat_gives hi het, vins_gives hi het, vext_runs hi het,
    vexts_runs hi het, fun hlo => integers_reduce hi hlo het, fun hfloat => ⟨?_, fun j hj hnan hfirst => ?_, numbers_reduce hi hfloat⟩⟩
  · exact hi.vReduce_gives rfl het rfl (if_pos (etFloat_true hfloat)) rfl
  · exact numbers_reduce_nan hi hfloat hj hnan hfirst

end Sys2Proof.Claims

namespace Sys2Proof.Claims

open Sys2Proof.Machine

/-! ### Conversions (R170, R171) -/

/-- An element of a conversion has a bit or more. -/
theorem cvBits_pos (t : Nat) : 0 < cvBits t := by
  unfold cvBits
  split <;> decide

/-- A list of which a part is replaced. -/
theorem getD_splice {old new : List Nat} {p : Nat} (hp : p + new.length ≤ old.length) (j : Nat) :
    (old.take p ++ new ++ old.drop (p + new.length)).getD j 0 =
      if p ≤ j ∧ j < p + new.length then new.getD (j - p) 0 else old.getD j 0 := by
  have htake : (old.take p).length = p := by rw [List.length_take]; omega
  rw [List.append_assoc]
  by_cases hlow : j < p
  · rw [List.getD_append _ _ _ _ (by omega), if_neg (by omega), List.getD_eq_getElem?_getD, List.getElem?_take_of_lt hlow,
      List.getD_eq_getElem?_getD]
  · rw [List.getD_append_right _ _ _ _ (by omega), htake]
    by_cases hmid : j < p + new.length
    · rw [List.getD_append _ _ _ _ (by omega), if_pos (by omega)]
    · rw [List.getD_append_right _ _ _ _ (by omega), if_neg (by omega), List.getD_eq_getElem?_getD, List.getElem?_drop,
        List.getD_eq_getElem?_getD]
      congr 2
      omega

/-- A portion of the lanes of a register. -/
theorem getD_portion {bits ws p n j : Nat} (hj : j < n) (hn : p + n ≤ bits / ws) (f : Nat → Nat) (x : BitVec 2048) :
    ((((lanesOf bits ws x).drop p).take n).map f).getD j 0 = f (field x.toNat (ws * (p + j)) ws) := by
  have hlen : (((lanesOf bits ws x).drop p).take n).length = n := by
    rw [List.length_take, List.length_drop, length_lanesOf]
    omega
  rw [List.getD_eq_getElem _ _ (by rw [List.length_map]; omega), List.getElem_map, List.getElem_take, List.getElem_drop, getElem_lanesOf]

/-- The portions of the narrower register that a conversion has are within it. -/
theorem portion_le {bits a b part : Nat} (hb : 0 < b) (hpart : part < a / b) : part * (bits / a) + bits / a ≤ bits / b := by
  have hratio : (part + 1) * b ≤ a := (Nat.le_div_iff_mul_le hb).mp hpart
  rw [← Nat.add_one_mul, Nat.le_div_iff_mul_le hb]
  calc (part + 1) * (bits / a) * b = (part + 1) * b * (bits / a) := by ring
    _ ≤ a * (bits / a) := Nat.mul_le_mul_right _ hratio
    _ ≤ bits := Nat.mul_div_le ..

section
variable {bits dst fr part j : Nat} {va vd : BitVec 2048}

/-- A conversion to narrower elements replaces a portion of the destination. -/
theorem field_cvReg_narrower (hbits : bits ≤ 2048) (hw : cvBits dst < cvBits fr) (hpart : part < cvBits fr / cvBits dst)
    (hj : j < bits / cvBits dst) : field (cvReg bits dst fr part va vd).toNat (cvBits dst * j) (cvBits dst) =
      if part * (bits / cvBits fr) ≤ j ∧ j < (part + 1) * (bits / cvBits fr) then
        cvElem dst fr (field va.toNat (cvBits fr * (j - part * (bits / cvBits fr))) (cvBits fr)) % 2 ^ cvBits dst
      else field vd.toNat (cvBits dst * j) (cvBits dst) := by
  set n := bits / cvBits fr with hn
  set new := (lanesOf bits (cvBits fr) va).map (cvElem dst fr) with hnew
  have hlen : new.length = n := by rw [hnew, List.length_map, length_lanesOf]
  have hfits : part * n + n ≤ bits / cvBits dst := portion_le (cvBits_pos dst) hpart
  have hreg : cvReg bits dst fr part va vd = ofLanes (cvBits dst) ((lanesOf bits (cvBits dst) vd).take (part * n) ++ new ++
      (lanesOf bits (cvBits dst) vd).drop (part * n + new.length)) := by
    rw [hlen, ← Nat.add_one_mul, cvReg]
    simp only [hw, if_true, ← hnew, hlen]
  have htotal : ((lanesOf bits (cvBits dst) vd).take (part * n) ++ new ++
      (lanesOf bits (cvBits dst) vd).drop (part * n + new.length)).length ≤ bits / cvBits dst := by
    simp only [List.length_append, List.length_take, List.length_drop, length_lanesOf, hlen]
    omega
  rw [hreg, field_ofLanes hbits htotal, getD_splice (by rw [length_lanesOf, hlen]; exact hfits), hlen, Nat.add_one_mul]
  split
  case isTrue hin =>
    rw [hnew, lanesOf, List.map_map, getD_map_range _ (by omega)]
    rfl
  case isFalse => rw [getD_lanesOf, if_pos hj, field, Nat.mod_mod]

/-- A conversion to elements that are no narrower takes a portion of its source. -/
theorem field_cvReg_wider (hbits : bits ≤ 2048) (hw : ¬cvBits dst < cvBits fr) (hpart : part < cvBits dst / cvBits fr)
    (hj : j < bits / cvBits dst) : field (cvReg bits dst fr part va vd).toNat (cvBits dst * j) (cvBits dst) =
      cvElem dst fr (field va.toNat (cvBits fr * (part * (bits / cvBits dst) + j)) (cvBits fr)) % 2 ^ cvBits dst := by
  have hfits := portion_le (bits := bits) (cvBits_pos fr) hpart
  have hreg : cvReg bits dst fr part va vd = ofLanes (cvBits dst)
      ((((lanesOf bits (cvBits fr) va).drop (part * (bits / cvBits dst))).take (bits / cvBits dst)).map (cvElem dst fr)) := if_neg hw
  rw [hreg, field_ofLanes hbits (by rw [List.length_map]; exact List.length_take_le ..), getD_portion hj hfits]

end

/-- The codes that a conversion takes. -/
theorem cvOk_true {dst fr : BitVec 4} {part : BitVec 2} (hd : dst.toNat ≤ 8) (hf : fr.toNat ≤ 8) (hne : dst ≠ fr)
    (hpart : part.toNat < Max.max (cvBits dst.toNat) (cvBits fr.toNat) / Min.min (cvBits dst.toNat) (cvBits fr.toNat))
    (hratio : Max.max (cvBits dst.toNat) (cvBits fr.toNat) ≤ 4 * Min.min (cvBits dst.toNat) (cvBits fr.toNat)) :
    cvOk dst.toNat fr.toNat part.toNat = true := by
  have hcodes : dst.toNat ≠ fr.toNat := fun h => hne (BitVec.eq_of_toNat_eq h)
  have hfour := Nat.div_le_of_le_mul (hratio.trans_eq (Nat.mul_comm ..))
  simp [cvOk, hd, hf, hcodes, hfour, hpart]

/-- Settles O21: a conversion is that of each of its lanes, placed by the portion. -/
theorem vectorConversions : Obligations.VectorConversions := by
  intro w vd va dst fr part s hi wd ws th src old n hd hf hne hpart hratio
  refine ⟨_, hi.setV_runs rfl (cvOk_true hd hf hne hpart hratio) rfl rfl, fun j hj => ?_⟩
  split
  case isTrue hw =>
    have hmax : Max.max wd ws = ws := Nat.max_eq_right hw.le
    have hmin : Min.min wd ws = wd := Nat.min_eq_left hw.le
    rw [hmax, hmin] at hpart
    have hn : n = vecBits w.core / ws := congrArg (vecBits w.core / ·) hmax
    rw [hn]
    exact field_cvReg_narrower (vecBits_le _) hw hpart hj
  case isFalse hw =>
    have hmax : Max.max wd ws = wd := Nat.max_eq_left (Nat.not_lt.mp hw)
    have hmin : Min.min wd ws = ws := Nat.min_eq_right (Nat.not_lt.mp hw)
    rw [hmax, hmin] at hpart
    have hn : n = vecBits w.core / wd := congrArg (vecBits w.core / ·) hmax
    rw [hn]
    exact field_cvReg_wider (vecBits_le _) hw hpart hj

end Sys2Proof.Claims

namespace Sys2Proof.Machine

/-! ### Powers of two in a format (R36, R164) -/

/-- An exact quotient is not rounded. -/
theorem rne_mul {d : Nat} (hd : 0 < d) (q : Nat) : rne (q * d) d = q := by
  rw [rne]
  simp only [Nat.mul_div_cancel _ hd, Nat.mul_mod_left, Nat.mul_zero, hd, if_true]

section
variable {f : Fmt}

/-- The bits of a positive number are those of its magnitude. -/
theorem Fmt.signed_false (f : Fmt) (mag : Nat) : f.signed false mag = mag := by
  simp [Fmt.signed, b2n]

/-- The encoding of a power of two holds it. -/
theorem Fmt.decode_two_pow {k : Nat} (hlo : 0 < k) (hhi : k < 2 ^ f.eb - 1) :
    f.decode (k * 2 ^ f.mb) = .fin false (2 ^ f.mb) (k - (f.bias : Int) - f.mb) := by
  have hpos := Nat.two_pow_pos f.mb
  have hexp : f.expField (k * 2 ^ f.mb) = k := by
    rw [Fmt.expField, field, Nat.mul_div_cancel _ hpos, Nat.mod_eq_of_lt (by omega)]
  have hmant : f.mantField (k * 2 ^ f.mb) = 0 := by rw [Fmt.mantField, field, pow_zero, Nat.div_one, Nat.mul_mod_left]
  have hsign : bitAt (k * 2 ^ f.mb) (f.eb + f.mb) = false := by
    refine Nat.testBit_lt_two_pow ?_
    rw [pow_add]
    exact Nat.mul_lt_mul_of_pos_right (by omega) hpos
  have hsignif : f.signif (k * 2 ^ f.mb) = 2 ^ f.mb := by rw [Fmt.signif, hexp, hmant, if_neg hlo.ne', Nat.add_zero]
  have hscale : f.scale (k * 2 ^ f.mb) = k - (f.bias : Int) - f.mb := by rw [Fmt.scale, hexp, Nat.max_eq_left hlo]
  have hlast : f.expField (k * 2 ^ f.mb) ≠ 2 ^ f.eb - 1 := by omega
  rw [Fmt.decode_eq, if_neg (fun h => hlast h.1), if_neg (fun h => hlast h.1), hsign, hsignif, hscale]

section
variable {a c : Nat} {p : Int} (hc : (a : Int) + p + f.bias = c) (hlo : 0 < c)
include hc hlo

/-- The last place of a power of two. -/
theorem Fmt.place_two_pow : max (ilog2 (2 ^ a) p) (1 - (f.bias : Int)) - f.mb = a + p - f.mb := by
  rw [ilog2, Nat.log2_two_pow]
  omega

/-- A power of two rounds to itself. -/
theorem Fmt.roundMag_two_pow : f.roundMag (2 ^ a) p = c * 2 ^ f.mb := by
  have hscale : rneScale (2 ^ a) (p - (a + p - f.mb)) = 2 ^ f.mb := by
    rcases Nat.lt_or_ge f.mb a with hlt | hle
    · have hplace : (-(p - (a + p - f.mb))).toNat = a - f.mb := by omega
      have hsplit : 2 ^ a = 2 ^ f.mb * 2 ^ (a - f.mb) := by rw [← pow_add, Nat.add_sub_cancel' hlt.le]
      rw [rneScale, if_neg (by omega), hplace, hsplit, rne_mul (Nat.two_pow_pos _)]
    · have hplace : (p - (a + p - f.mb)).toNat = f.mb - a := by omega
      rw [rneScale, if_pos (by omega), hplace, ← pow_add, Nat.add_sub_cancel' hle]
  have hfield : (a + p - f.mb + f.mb + f.bias).toNat = c := by omega
  rw [Fmt.roundMag, if_neg (by positivity)]
  simp only [Fmt.place_two_pow hc hlo, hscale, lt_irrefl, if_false, hfield]
  rw [← Nat.succ_mul, Nat.succ_eq_add_one, Nat.sub_add_cancel hlo]

/-- Nor does truncation change it. -/
theorem Fmt.below_two_pow (hhi : c * 2 ^ f.mb ≤ f.maxFinite) : (f.below (2 ^ a) p).1 = c * 2 ^ f.mb := by
  have hquot : 2 ^ a * 2 ^ (p - (a + p - f.mb)).toNat / 2 ^ (a + p - f.mb - p).toNat = 2 ^ f.mb := by
    have hsum : a + (p - (a + p - f.mb)).toNat = f.mb + (a + p - f.mb - p).toNat := by omega
    rw [← pow_add, hsum, pow_add, Nat.mul_div_cancel _ (Nat.two_pow_pos _)]
  have hfield : (a + p - f.mb + f.mb + f.bias).toNat = c := by omega
  have hcode : (c - 1) * 2 ^ f.mb + 2 ^ f.mb = c * 2 ^ f.mb := by
    rw [← Nat.succ_mul, Nat.succ_eq_add_one, Nat.sub_add_cancel hlo]
  rw [Fmt.below, if_neg (by positivity)]
  simp only [Fmt.place_two_pow hc hlo, hquot, lt_irrefl, if_false, hfield, hcode, Nat.not_lt.mpr hhi]

end

/-- The largest finite numbers of a format with infinities have the last exponent but one. -/
theorem Fmt.code_le_maxFinite (hsp : f.sp = .ieee) {c : Nat} (hc : c < 2 ^ f.eb - 1) : c * 2 ^ f.mb ≤ f.maxFinite := by
  have hrow := Nat.mul_le_mul_right (2 ^ f.mb) (Nat.succ_le_of_lt hc)
  rw [Nat.succ_mul] at hrow
  have hpos := Nat.two_pow_pos f.mb
  rw [Fmt.maxFinite, hsp]
  dsimp only
  omega

/-- A finite number of such a format is encoded in its bits. -/
theorem Fmt.encode_fin_lt (hsp : f.sp = .ieee) (neg : Bool) (m : Nat) (e : Int) : f.encode (.fin neg m e) < 2 ^ f.bits := by
  have hpos := Nat.two_pow_pos f.mb
  have hone := Nat.one_le_two_pow (n := f.eb)
  have htop : (2 ^ f.eb - 1) * 2 ^ f.mb + 2 ^ f.mb = 2 ^ (f.eb + f.mb) := by
    rw [← Nat.succ_mul, Nat.succ_eq_add_one, Nat.sub_add_cancel hone, pow_add]
  have hsigned : ∀ mag < 2 ^ (f.eb + f.mb), f.signed neg mag < 2 ^ f.bits := fun mag hmag => by
    rw [Fmt.bits, Nat.add_assoc, Nat.pow_add, pow_one, Fmt.signed]
    cases neg <;> simp only [b2n, if_true, Bool.false_eq_true, if_false] <;> omega
  rw [Fmt.encode]
  split
  case isTrue =>
    rw [Fmt.infBits, hsp]
    exact hsigned _ (by omega)
  case isFalse hfits =>
    rw [Fmt.overflows, decide_eq_true_eq, Fmt.maxFinite, hsp] at hfits
    exact hsigned _ (by dsimp only at hfits; omega)

end

/-! ### Exact reciprocals and roots (R175) -/

/-- The reciprocal of a power of two is exact. -/
theorem rcpBounds_two_pow (a : Nat) (e : Int) : rcpBounds (2 ^ a) e = (2 ^ 80, 2 ^ 80, -(e + (a + 80 : Nat))) := by
  have hquot : 2 ^ (a + 80) / 2 ^ a = 2 ^ 80 := by rw [pow_add, Nat.mul_div_cancel_left _ (Nat.two_pow_pos a)]
  have hexact : 2 ^ 80 * 2 ^ a = 2 ^ (a + 80) := by rw [← pow_add, Nat.add_comm]
  rw [rcpBounds, Nat.log2_two_pow]
  simp only [hquot, hexact, if_true]

/-- The integer root of a square. -/
theorem isqrt_sq {k r n : Nat} (hlo : r ≤ n) (hhi : n < r + 2 ^ k) : isqrt k (n * n) r = n := by
  induction k generalizing r with
  | zero =>
    rw [pow_zero] at hhi
    exact (show r = n by omega)
  | succ k ih =>
    have hbit : (r + 2 ^ k) * (r + 2 ^ k) ≤ n * n ↔ r + 2 ^ k ≤ n := Nat.mul_self_le_mul_self_iff
    rw [pow_succ] at hhi
    rw [isqrt]
    by_cases hle : r + 2 ^ k ≤ n
    · rw [if_pos (hbit.mpr hle)]
      exact ih hle (by omega)
    · rw [if_neg (fun h => hle (hbit.mp h))]
      exact ih hlo (by omega)

/-- The reciprocal root of an even power of two is exact: here of one whose significand has an odd power. -/
theorem rsqrtBounds_two_pow (t : Nat) {e : Int} (he : e % 2 = 1) :
    rsqrtBounds (2 ^ (2 * t + 1)) e = (2 ^ (t + 81), 2 ^ (t + 81), -((e - 1) / 2) - (2 * t + 82 : Nat)) := by
  have hodd : ¬e % 2 = 0 := by omega
  have hm : 2 * 2 ^ (2 * t + 1) = 2 ^ (2 * t + 2) := by ring
  have hquot : 2 ^ (2 * (2 * t + 2 + 80)) / 2 ^ (2 * t + 2) = 2 ^ (t + 81) * 2 ^ (t + 81) := by
    rw [Nat.pow_div (by omega) Nat.two_pos, ← pow_add]
    congr 1
    omega
  have hroot : isqrt (2 * t + 2 + 80 + 1) (2 ^ (t + 81) * 2 ^ (t + 81)) 0 = 2 ^ (t + 81) := by
    refine isqrt_sq (Nat.zero_le _) ?_
    rw [Nat.zero_add]
    exact Nat.pow_lt_pow_right (by decide) (by omega)
  have hexact : 2 ^ (t + 81) * 2 ^ (t + 81) * 2 ^ (2 * t + 2) = 2 ^ (2 * (2 * t + 2 + 80)) := by
    rw [← pow_add, ← pow_add]
    congr 1
    omega
  rw [rsqrtBounds]
  simp only [hodd, if_false, hm, Nat.log2_two_pow, hquot, hroot, hexact, if_true]

end Sys2Proof.Machine

namespace Sys2Proof.Machine

/-! ### The special functions of powers of two (R173 to R175) -/

section
variable {et : Nat} (het : et ≤ 1)
include het

/-- The element types of the special functions have formats of 8 exponent bits and an odd number of mantissa bits. -/
theorem etFmt_wide : (etFmt et).eb = 8 ∧ (etFmt et).bias = 127 ∧ (etFmt et).sp = .ieee ∧ ∃ t, (etFmt et).mb = 2 * t + 1 := by
  obtain rfl | rfl : et = 0 ∨ et = 1 := by omega
  · exact ⟨rfl, rfl, rfl, 11, rfl⟩
  · exact ⟨rfl, rfl, rfl, 3, rfl⟩

/-- Powers of two of such a type. -/
theorem decode_pow {k : Nat} (hlo : 0 < k) (hhi : k < 255) :
    (etFmt et).decode (k * 2 ^ (etFmt et).mb) = .fin false (2 ^ (etFmt et).mb) (k - 127 - (etFmt et).mb) := by
  obtain ⟨heb, hbias, -, -⟩ := etFmt_wide het
  rw [Fmt.decode_two_pow hlo (by rw [heb]; exact hhi), hbias]
  rfl

/-- The code of a power of two within the range. -/
theorem code_le {c : Nat} (hc : c < 255) : c * 2 ^ (etFmt et).mb ≤ (etFmt et).maxFinite := by
  obtain ⟨heb, -, hsp, -⟩ := etFmt_wide het
  exact Fmt.code_le_maxFinite hsp (by rw [heb]; exact hc)

/-- VRCP. -/
theorem sfuRcp_pow {k : Nat} (hlo : 0 < k) (hhi : k < 254) :
    sfuRcp et (k * 2 ^ (etFmt et).mb) = (254 - k) * 2 ^ (etFmt et).mb := by
  obtain ⟨-, hbias, -, -⟩ := etFmt_wide het
  set mb := (etFmt et).mb with hmb
  have hexp : ((80 : Nat) : Int) + (-((k : Int) - 127 - mb + (mb + 80 : Nat))) + (etFmt et).bias = (254 - k : Nat) := by omega
  have hexp' : ((81 : Nat) : Int) + (-((k : Int) - 127 - mb + (mb + 80 : Nat)) - 1) + (etFmt et).bias = (254 - k : Nat) := by omega
  have hround := Fmt.roundMag_two_pow hexp' (by omega)
  have hcode := code_le het (c := 254 - k) (by omega)
  have hfits : (etFmt et).overflows (2 * 2 ^ 80 + b2n (2 ^ 80 != 2 ^ 80)) (-((k : Int) - 127 - mb + (mb + 80 : Nat)) - 1) = false := by
    have htwice : 2 * 2 ^ 80 + b2n (2 ^ 80 != 2 ^ 80) = 2 ^ 81 := by decide
    rw [Fmt.overflows, htwice, hround, decide_eq_false (Nat.not_lt.mpr hcode)]
  have hsignif : ¬2 ^ mb = 0 := (Nat.two_pow_pos mb).ne'
  rw [sfuRcp, decode_pow het hlo (by omega), ← hmb]
  simp only [hsignif, if_false, rcpBounds_two_pow, hfits, Bool.false_eq_true, if_true]
  rw [Fmt.below_two_pow hexp (by omega) hcode, Fmt.signed_false]

/-- VRSQRT. -/
theorem sfuRsqrt_pow {k : Nat} (hk : k < 127) :
    sfuRsqrt et ((2 * k + 1) * 2 ^ (etFmt et).mb) = (190 - k) * 2 ^ (etFmt et).mb := by
  obtain ⟨-, hbias, -, t, ht⟩ := etFmt_wide het
  have hodd : (((2 * k + 1 : Nat) : Int) - 127 - (etFmt et).mb) % 2 = 1 := by omega
  have hexp : ((t + 81 : Nat) : Int) + (-((((2 * k + 1 : Nat) : Int) - 127 - (etFmt et).mb - 1) / 2) - (2 * t + 82 : Nat)) +
      (etFmt et).bias = (190 - k : Nat) := by omega
  have hsignif : ¬2 ^ (2 * t + 1) = 0 := (Nat.two_pow_pos _).ne'
  rw [sfuRsqrt, decode_pow het (by omega) (by omega)]
  rw [ht] at hodd hexp ⊢
  simp only [hsignif, if_false, Bool.false_eq_true, rsqrtBounds_two_pow t hodd, if_true]
  rw [Fmt.below_two_pow hexp (by omega) (code_le het (by omega)), ht]

/-- VLOG2. -/
theorem sfuLog2_pow {k : Nat} (hlo : 0 < k) (hhi : k < 255) :
    sfuLog2 et (k * 2 ^ (etFmt et).mb) = (etFmt et).encode (Num.ofInt (k - 127)) := by
  have hsignif : ¬2 ^ (etFmt et).mb = 0 := (Nat.two_pow_pos _).ne'
  have hlog : ilog2 (2 ^ (etFmt et).mb) (k - 127 - (etFmt et).mb) = k - 127 := by
    rw [ilog2, Nat.log2_two_pow]
    omega
  rw [sfuLog2, decode_pow het hlo hhi]
  simp only [hsignif, if_false, Bool.false_eq_true, Nat.log2_two_pow, if_true, hlog]

end

end Sys2Proof.Machine

namespace Sys2Proof.Claims

open Sys2Proof.Machine

/-! ### The special-function unit (R163, R176, R180) -/

/-- The unit is occupied up to a cycle. -/
def occupied (n : Nat) (k : Core) : Core := { k with sfuFrom := n }

/-- What an instruction leaves when the unit is free: a register, and the unit occupied. -/
def sfuLeaves (w : Who) (vd : Fin 32) (x : BitVec 2048) (h : Hw) : Hw :=
  (h.updThread w (·.setV vd x)).updCore w.core (occupied (h.cycle w.core + 5))

/-- What an instruction of the unit does. -/
def sfuBody (w : Who) (et : BitVec 3) (vd va : Fin 32) (f : Nat → Nat → Nat) (h : Hw) : Ctl × Hw :=
  let th := h.thread w
  if !isBrace w.core || 1 < et.toNat then (faultAt th excIllegal, h)
  else if h.cycle w.core < (h.core w.core).sfuFrom then (.stall .interlock 0, h)
  else (.done 3, sfuLeaves w vd
    (ofLanes (etBits et.toNat) ((lanesOf (vecBits w.core) (etBits et.toNat) (th.getV va)).map (f et.toNat))) h)

/-- It is the body of each of them. -/
theorem sfuOp_eq (w : Who) (et : BitVec 3) (vd va : Fin 32) (f : Nat → Nat → Nat) :
    sfuOp w et vd va f = runInstr w {} (fun _ => sfuBody w et vd va f) := rfl

/-- A lane for each lane of a register. -/
def sfuLanes (w : Who) (et : BitVec 3) (f : Nat → Nat → Nat) (x : BitVec 2048) : BitVec 2048 :=
  ofLanes (laneBits et) ((List.range (laneCount w et)).map (fun k => f et.toNat (lane et x k)))

/-- A function of the unit gives the lanes of a table. -/
def FitsTable (fn : Nat → Nat → Nat) (et : BitVec 3) (l : List (Nat × Nat)) : Prop :=
  ∀ p ∈ l, fn et.toNat p.1 = p.2 ∧ p.2 < 2 ^ laneBits et

section
variable {w : Who} {et : BitVec 3} {vd va : Fin 32} {f : Nat → Nat → Nat} {h : Hw} {s : State} {i : Instr}

/-- Another core, or another element type. -/
theorem sfuBody_illegal (hill : isBrace w.core = false ∨ 1 < et.toNat) :
    sfuBody w et vd va f h = (.fault { code := 0x01, epc := (h.thread w).pc }, h) := if_pos (by simpa using hill)

section
variable (hbrace : isBrace w.core = true) (het : et.toNat ≤ 1)
include hbrace het

/-- The unit is occupied. -/
theorem sfuBody_stall (hbusy : h.cycle w.core < (h.core w.core).sfuFrom) : sfuBody w et vd va f h = (.stall .interlock 0, h) := by
  rw [sfuBody, if_neg (by simp [hbrace, het]), if_pos hbusy]

/-- The unit is free. -/
theorem sfuBody_done (hfree : (h.core w.core).sfuFrom ≤ h.cycle w.core) :
    sfuBody w et vd va f h = (.done 3, sfuLeaves w vd (sfuLanes w et f ((h.thread w).getV va)) h) := by
  rw [sfuBody, if_neg (by simp [hbrace, het]), if_neg (Nat.not_lt.mpr hfree), lanes_eq (by omega), List.map_map,
    etBits_eq (by omega)]
  rfl

end

/-- One of its lanes. -/
theorem lane_sfuLanes (f : Nat → Nat → Nat) (x : BitVec 2048) {k : Nat} (hk : k < laneCount w et) :
    lane et (sfuLanes w et f x) k = f et.toNat (lane et x k) % 2 ^ laneBits et := by
  obtain ⟨-, hlanes⟩ := lane_ofLanes (w := w) (et := et) (xs := (List.range (laneCount w et)).map (fun k => f et.toNat (lane et x k)))
    (by simp)
  rw [sfuLanes, hlanes, getD_map_range _ hk]

/-- The core that the instruction leaves. -/
theorem core_sfuLeaves (w : Who) (vd : Fin 32) (x : BitVec 2048) (h : Hw) : (sfuLeaves w vd x h).core w.core =
    occupied (h.cycle w.core + 5) ((h.core w.core).updThread w.thread (·.setV vd x)) := by
  rw [sfuLeaves, Hw.core_updCore_self, Hw.updThread, Hw.core_updCore_self]

/-- A thread of an occupied core. -/
theorem thread_occupied (n : Nat) (k : Core) (t : Fin 4) : (occupied n k).thread t = k.thread t := rfl

/-- Its unit. -/
theorem sfuFrom_occupied (n : Nat) (k : Core) : (occupied n k).sfuFrom = n := rfl

/-- Its thread. -/
theorem thread_sfuLeaves (w : Who) (vd : Fin 32) (x : BitVec 2048) (h : Hw) :
    (sfuLeaves w vd x h).thread w = (h.thread w).setV vd x := by
  rw [Hw.thread, core_sfuLeaves, thread_occupied, Core.thread_updThread_self, ← Hw.thread]

/-- CYCLE is as it was. -/
theorem cycle_sfuLeaves (w : Who) (vd : Fin 32) (x : BitVec 2048) (h : Hw) : (sfuLeaves w vd x h).cycle w.core = h.cycle w.core := by
  rw [Hw.cycle, core_sfuLeaves]
  rfl

/-- An instruction of a form that pairs with none ends its thread after `n` slots; of its core it leaves the rest as its body did, what the
stillness detector notes apart. -/
theorem Issues.core_settle_unpaired (hi : Issues w none s) {x : Hw} {u : Thread → Thread} (hu : KeepsIssue u)
    (hthread : x.thread w = u ((slot w s).thread w)) (hcycle : x.cycle w.core = issueCycle w s) (n : Nat) :
    ∃ m, (x.settle w {} s.mem (.done n)).core w.core =
      ((x.core w.core).updThread w.thread (fun _ => ended w {} none n s (u ((slot w s).thread w)))).noted m := by
  have hunsent : (x.thread w).stall ≠ some .credit := by
    rw [hthread, hu.stall]
    exact hi.unsent
  have hpfx : (u ((slot w s).thread w)).pfx = none := (hu.pfx _).trans hi.pfx
  have hsettled : (x.traceCtl w (.done n)).settled w {} s.mem (.done n) = ended w {} none n s (u ((slot w s).thread w)) := by
    change x.settled w {} s.mem (.done n) = _
    simp [Hw.settled, Hw.isFirst, ended, Thread.settle, Thread.words, hthread, hcycle, hpfx]
  obtain ⟨m, hcore⟩ := Hw.core_settle_unstalled (f := {}) (m := s.mem) (c := .done n) hunsent
    ((congrArg Thread.stall hsettled).trans (stall_ended_slots ..))
  rw [hsettled] at hcore
  exact ⟨m, hcore⟩

/-- The detector's note leaves the unit. -/
theorem sfuFrom_noted (k : Core) (n : Nat) : (k.noted n).sfuFrom = k.sfuFrom := by
  unfold Core.noted
  dsimp only
  split <;> rfl

/-- An instruction of the free unit takes 3 slots, occupies it, and gives a lane for each lane. -/
theorem Issues.sfu_gives (hi : Issues w none s) (hform : formOf i = {}) (he : exec i s = onHw (sfuOp w et vd va f) s)
    (hbrace : isBrace w.core = true) (het : et.toNat ≤ 1) (hfree : ((slot w s).core w.core).sfuFrom ≤ issueCycle w s)
    {special : List (Nat × Nat)} (hspecial : FitsTable f et special) :
    ∃ x : BitVec 2048,
      (∃ t, exec i s = .next t ∧
        t.hw.thread w = ended w (formOf i) none 3 s (((slot w s).thread w).setV vd x) ∧
        (t.hw.core w.core).sfuFrom = issueCycle w s + 5 ∧ t.mem = s.mem) ∧
      ∀ k < laneCount w et, ∀ p ∈ special, lane et (((slot w s).thread w).getV va) k = p.1 → lane et x k = p.2 := by
  set x := sfuLanes w et f (((slot w s).thread w).getV va) with hx
  obtain ⟨m, hend⟩ := hi.core_settle_unpaired (x := sfuLeaves w vd x (slot w s)) (keepsIssue_setV vd x) (thread_sfuLeaves w vd x _)
    (cycle_sfuLeaves w vd x _) 3
  have hnext : exec i s = .next { s with hw := (sfuLeaves w vd x (slot w s)).settle w {} s.mem (.done 3) } := by
    rw [he, sfuOp_eq, onHw_eq, hi.runInstr (.inl rfl), sfuBody_done hbrace het hfree]
  refine ⟨x, ⟨_, hnext, ?_, ?_, rfl⟩, fun k hk p hp hlane => ?_⟩
  · rw [Hw.thread, hend, Core.thread_noted, Core.thread_updThread_self, hform]
  · rw [hend, sfuFrom_noted, Core.updThread_sfuFrom, core_sfuLeaves, sfuFrom_occupied, issueCycle]
  · obtain ⟨hval, hlt⟩ := hspecial p hp
    rw [hx, lane_sfuLanes _ _ hk, hlane, hval, Nat.mod_eq_of_lt hlt]

/-- The instruction stalls while the unit is occupied. -/
theorem Issues.sfu_stalls (hi : Issues w none s) (he : exec i s = onHw (sfuOp w et vd va f) s) (hbrace : isBrace w.core = true)
    (het : et.toNat ≤ 1) (hbusy : issueCycle w s < ((slot w s).core w.core).sfuFrom) (hstop : ((slot w s).thread w).stopReq = false) :
    Yields i s (Left w (stalled w s .interlock 0) s) :=
  have hbody : exec i s = onHw (runInstr w {} (fun _ => sfuBody w et vd va f)) s := he
  hi.yields_stall (.inl rfl) hbody (sfuBody_stall hbrace het hbusy) (.inr hstop)

/-- It is ILLEGAL on another core, or with another element type. -/
theorem Issues.sfu_faults (hi : Issues w none s) (he : exec i s = onHw (sfuOp w et vd va f) s)
    (hill : isBrace w.core = false ∨ 1 < et.toNat) :
    Yields i s (Left w (found w s { code := 0x01, epc := ((slot w s).thread w).pc }) s) :=
  have hbody : exec i s = onHw (runInstr w {} (fun _ => sfuBody w et vd va f)) s := he
  hi.yields_fault (.inl rfl) hbody (sfuBody_illegal hill)

end

/-! ### Special lanes (R175) -/

/-- The encoding of +∞ in a format with infinities (R36). -/
def infCode (f : Fmt) : Nat := (2 ^ f.eb - 1) * 2 ^ f.mb
/-- That of the canonical NaN. -/
def nanCode (f : Fmt) : Nat := infCode f + 2 ^ (f.mb - 1)
/-- That of −0. -/
def signCode (f : Fmt) : Nat := 2 ^ (f.eb + f.mb)
/-- That of 1 in a format of bias 127. -/
def oneCode (f : Fmt) : Nat := 127 * 2 ^ f.mb

section
variable {et : BitVec 3} (het : et.toNat ≤ 1)
include het

/-- A lane holds the format of its element type. -/
theorem laneBits_eq_bits : laneBits et = (laneFmt et).bits := by
  revert et
  decide

/-- VEXP of zeros, infinities and NaN. -/
theorem sfuExp_special : let f := laneFmt et
    FitsTable sfuExp et [(0, oneCode f), (signCode f, oneCode f), (infCode f, infCode f), (signCode f + infCode f, 0),
      (nanCode f, nanCode f)] := by
  unfold FitsTable
  revert et
  decide +kernel

/-- VRCP of them. -/
theorem sfuRcp_special : let f := laneFmt et
    FitsTable sfuRcp et [(0, infCode f), (signCode f, signCode f + infCode f), (infCode f, 0), (signCode f + infCode f, signCode f),
      (nanCode f, nanCode f)] := by
  unfold FitsTable
  revert et
  decide +kernel

/-- VRSQRT of them, and of −1. -/
theorem sfuRsqrt_special : let f := laneFmt et
    FitsTable sfuRsqrt et [(0, infCode f), (signCode f, signCode f + infCode f), (infCode f, 0), (signCode f + infCode f, nanCode f),
      (signCode f + oneCode f, nanCode f), (nanCode f, nanCode f)] := by
  unfold FitsTable
  revert et
  decide +kernel

/-- VLOG2 of them, and of −1. -/
theorem sfuLog2_special : let f := laneFmt et
    FitsTable sfuLog2 et [(0, signCode f + infCode f), (signCode f, signCode f + infCode f), (infCode f, infCode f),
      (signCode f + oneCode f, nanCode f), (nanCode f, nanCode f)] := by
  unfold FitsTable
  revert et
  decide +kernel

/-- A code of a power of two lies in its lane. -/
theorem pow_lt_lane {c : Nat} (hc : c < 255) : c * 2 ^ (laneFmt et).mb < 2 ^ laneBits et := by
  obtain ⟨heb, -⟩ := etFmt_wide het
  rw [laneBits_eq_bits het, Fmt.bits, Nat.pow_add, ← etFmt_eq, heb]
  exact Nat.mul_lt_mul_of_pos_right (hc.trans (by decide)) (Nat.two_pow_pos _)

end

/-- A table, and a list of exact lanes. -/
theorem FitsTable.append_map {fn : Nat → Nat → Nat} {et : BitVec 3} {l : List (Nat × Nat)} (hl : FitsTable fn et l) {n : Nat}
    {x y : Nat → Nat} (hxy : ∀ j < n, fn et.toNat (x j) = y j ∧ y j < 2 ^ laneBits et) :
    FitsTable fn et (l ++ (List.range n).map (fun j => (x j, y j))) :=
  List.forall_mem_append.mpr ⟨hl, List.forall_mem_map.mpr fun j hj => hxy j (List.mem_range.mp hj)⟩

/-- Settles O22: the unit's state decides between the three outcomes, and the special and exact lanes are those of the model's functions. -/
theorem specialFunctions : Obligations.SpecialFunctions := by
  intro w et vd va s hi th f inf nan sign pow
  refine ⟨fun hlo hhi het hfree => ?_, fun hlo hhi het hbusy hstop i hmem => ?_, fun hill i hmem => ?_⟩
  · intro gives
    have hbrace : isBrace w.core = true := by simp [isBrace, coreIn, hlo, hhi]
    refine ⟨hi.sfu_gives rfl rfl hbrace het hfree (sfuExp_special het),
      hi.sfu_gives rfl rfl hbrace het hfree ((sfuRcp_special het).append_map fun j hj => ⟨?_, pow_lt_lane het (by omega)⟩),
      hi.sfu_gives rfl rfl hbrace het hfree ((sfuRsqrt_special het).append_map fun j hj => ⟨?_, pow_lt_lane het (by omega)⟩),
      hi.sfu_gives rfl rfl hbrace het hfree ((sfuLog2_special het).append_map fun j hj => ⟨?_, ?_⟩)⟩
    · have hcode : 253 - j = 254 - (j + 1) := by omega
      exact hcode ▸ sfuRcp_pow het (Nat.succ_pos j) (by omega)
    · exact sfuRsqrt_pow het hj
    · have hexp : (j : Int) - 126 = (j + 1 : Nat) - 127 := by omega
      exact hexp ▸ sfuLog2_pow het (Nat.succ_pos j) (by omega)
    · obtain ⟨-, -, hsp, -⟩ := etFmt_wide het
      rw [laneBits_eq_bits het]
      exact Fmt.encode_fin_lt hsp ..
  · have hbrace : isBrace w.core = true := by simp [isBrace, coreIn, hlo, hhi]
    simp only [List.mem_cons, List.not_mem_nil, or_false] at hmem
    rcases hmem with rfl | rfl | rfl | rfl <;> exact hi.sfu_stalls rfl hbrace het hbusy hstop
  · have hill' : isBrace w.core = false ∨ 1 < et.toNat := by
      rcases hill with hjoist | hpeg | htype
      · exact .inl (by rw [isBrace, coreIn, decide_eq_false (by omega), Bool.false_and])
      · exact .inl (by rw [isBrace, coreIn, decide_eq_false (p := w.core.val % 44 < 40) (by omega), Bool.and_false])
      · exact .inr htype
    simp only [List.mem_cons, List.not_mem_nil, or_false] at hmem
    rcases hmem with rfl | rfl | rfl | rfl <;> exact hi.sfu_faults rfl hill'

end Sys2Proof.Claims

namespace Sys2Proof.Claims

open Sys2Proof.Machine

/-! ### An instruction that changes its thread and its core

As for `Wrote` and `Rewrote`, where the change `g` of the core takes in the change `u` of its thread. -/

/-- Of the cores and the clock of `h`, `x` has changed the core of thread `w` by `g`, which changes the thread by `u` and leaves what
else the end of the instruction reads, and nothing else but what the stillness detector notes. -/
structure Reworked (w : Who) (u : Thread → Thread) (g : Core → Core) (h x : Hw) : Prop where
  core : (x.core w.core).astir = (g (h.core w.core)).astir
  thread : (g (h.core w.core)).thread w.thread = u (h.thread w)
  isegx : (g (h.core w.core)).isegx = (h.core w.core).isegx
  frozenAt : (g (h.core w.core)).frozenAt = (h.core w.core).frozenAt
  cyc0 : (g (h.core w.core)).cyc0 = (h.core w.core).cyc0
  cores : ∀ c : CoreId, c ≠ w.core → x.core c = h.core c
  clock : x.clock = h.clock

section
variable {w : Who} {u : Thread → Thread} {g : Core → Core} {h x : Hw} {s : State}

/-- The thread as the change leaves it. -/
theorem Reworked.thread_eq (hx : Reworked w u g h x) : x.thread w = u (h.thread w) :=
  (congrArg (fun k : Core => k.thread w.thread) hx.core :).trans hx.thread

/-- CYCLE is as it was. -/
theorem Reworked.cycle (hx : Reworked w u g h x) : x.cycle w.core = h.cycle w.core := by
  have hf : (x.core w.core).frozenAt = (h.core w.core).frozenAt := (congrArg Core.frozenAt hx.core :).trans hx.frozenAt
  have hc : (x.core w.core).cyc0 = (h.core w.core).cyc0 := (congrArg Core.cyc0 hx.core :).trans hx.cyc0
  simp only [Hw.cycle, hf, hc, hx.clock]

/-- A second word pairs with the instruction or not, as it would have before the change. -/
theorem Reworked.isFirst (hx : Reworked w u g h x) (hu : KeepsIssue u) (f : Form) (m : Mem) : x.isFirst w f m = h.isFirst w f m := by
  have hseg : (x.core w.core).isegx = (h.core w.core).isegx := (congrArg Core.isegx hx.core :).trans hx.isegx
  simp only [Hw.isFirst, Hw.secondWord, fetchFault, hseg, hx.thread_eq, hx.cycle, hu.pfx, hu.pair, hu.pc]

/-- The stillness detector takes note of the change. -/
theorem Reworked.noted (hx : Reworked w u g h x) : Reworked w u g h (x.noted w.core) :=
  { hx with
    core := by rw [Hw.noted, Hw.core_updCore_self, Core.astir_noted, hx.core]
    cores := fun c hc => (Hw.core_updCore_ne _ (fun hv => hc (Fin.ext hv)) _).trans (hx.cores c hc) }

/-- An instruction that has changed its core and its thread completes in one slot, and nothing else changes. -/
theorem Issues.reworked_settle (hi : Issues w none s) (hu : KeepsIssue u) (hx : Reworked w u g (slot w s) x) (f : Form) :
    Changed w g s f { s with hw := x.settle w f s.mem (.done 1) } := by
  set k := (slot w s).core w.core
  have hpfx : (u ((slot w s).thread w)).pfx = none := (hu.pfx _).trans hi.pfx
  have hthread : (g k).thread w.thread = u ((slot w s).thread w) := hx.thread
  have hend : (x.traceCtl w (.done 1)).settled w f s.mem (.done 1) = ended w f none 1 s ((g k).thread w.thread) := by
    show x.settled w f s.mem (.done 1) = _
    simp [Hw.settled, ended, Thread.settle, Thread.words, issueCycle, hx.isFirst hu, hx.thread_eq, hx.cycle, hpfx, hthread]
  obtain ⟨n, hcore⟩ := Hw.core_settle_unstalled (h := x) (f := f) (m := s.mem) (c := .done 1)
    (by rw [hx.thread_eq, hu.stall]; exact hi.unsent) ((congrArg Thread.stall hend).trans (stall_ended f _))
  have hwaits : ∀ m, ((x.core w.core).updThread w.thread (fun _ => ended w f none 1 s ((g k).thread w.thread))).threadWaits
      w.thread m = false := by
    apply Core.not_threadWaits
    · rw [Core.thread_updThread_self, hx.thread]
      exact tstate_ended ((hu.tstate _).trans hi.tstate) f
    · rw [Core.thread_updThread_self]
      exact stall_ended f _
  refine { core := ?_, cores := fun c hc => ?_, clock := (Hw.clock_settle _ w f s.mem _).trans hx.clock, mem := rfl, pending := rfl }
  · rw [hcore, hend, Core.noted_astir hwaits, Core.astir_updThread, hx.core, ← Core.astir_updThread, Core.updThread_const rfl]
    rfl
  · exact (Hw.core_settle_ne _ w (fun hv => hc (Fin.ext hv)) f s.mem _).trans (hx.cores c hc)

end

/-- A change of a thread of the core, which for the thread of the instruction leaves what its end reads. -/
theorem reworked_updThread (w : Who) (t : Fin 4) (f : Thread → Thread) (h : Hw) :
    Reworked w (if t = w.thread then f else id) (fun k => k.updThread t f) h (h.updCore w.core (·.updThread t f)) where
  core := congrArg Core.astir (Hw.core_updCore_self ..)
  thread := by
    split
    case isTrue ht => rw [ht, Core.thread_updThread_self]; rfl
    case isFalse ht => exact Core.thread_updThread_ne _ (Ne.symm ht) _
  isegx := rfl
  frozenAt := rfl
  cyc0 := rfl
  cores _ hc := Hw.core_updCore_ne _ (fun hv => hc (Fin.ext hv)) _
  clock := rfl

/-- What a change of one thread leaves for the end of an instruction of another. -/
theorem keepsIssue_other {t v : Fin 4} {f : Thread → Thread} (hf : t = v → KeepsIssue f) : KeepsIssue (if t = v then f else id) := by
  split
  case isTrue ht => exact hf ht
  case isFalse => exact keepsIssue_id

/-- What leaves the cores and the clock leaves the change. -/
theorem Reworked.congr {w : Who} {u : Thread → Thread} {g : Core → Core} {h x y : Hw} (hx : Reworked w u g h x)
    (hy : ∀ c : CoreId, y.core c = x.core c) (hclock : y.clock = x.clock) : Reworked w u g h y :=
  { hx with
    core := by rw [hy, hx.core]
    cores := fun c hc => (hy c).trans (hx.cores c hc)
    clock := hclock.trans hx.clock }

/-- Nothing has changed. -/
theorem reworked_id (w : Who) (h : Hw) : Reworked w id id h h := ⟨rfl, rfl, rfl, rfl, rfl, fun _ _ => rfl, rfl⟩

section
variable {w : Who} {sr : Fin 32} {p : BitVec 16} {s : State} {i : Instr} {u : Thread → Thread} {g : Core → Core} {x : Hw}

/-- An OUT whose port write changes its core, and what is on its way then. -/
theorem Issues.outs_reworked (hi : Issues w none s) (hp : portDenied ((slot w s).thread w) p.toNat = false) (ha : Alone w s)
    (he : exec i s = doOut w p.toNat sr s)
    (hport : portWrite (.thread w.thread) w.core p.toNat (outValue w sr s) (slot w s) = (.done 1, x))
    (hu : KeepsIssue u) (hx : Reworked w u g (slot w s) x) :
    Outs i w p sr s (fun f t => Changed w g s f t ∧ t.hw.later = x.later) := by
  refine ⟨_, he, ?_⟩
  rw [hi.runInstr (.inl rfl), ← outValue, outPort_alone hp ha, hport]
  exact ⟨hi.reworked_settle hu hx _, rfl⟩

/-- As `Issues.outs_reworked`, of the core alone. -/
theorem Issues.outs_changed (hi : Issues w none s) (hp : portDenied ((slot w s).thread w) p.toNat = false) (ha : Alone w s)
    (he : exec i s = doOut w p.toNat sr s)
    (hport : portWrite (.thread w.thread) w.core p.toNat (outValue w sr s) (slot w s) = (.done 1, x))
    (hu : KeepsIssue u) (hx : Reworked w u g (slot w s) x) : Outs i w p sr s (Changed w g s) := by
  obtain ⟨t, ht, hc, -⟩ := hi.outs_reworked hp ha he hport hu hx
  exact ⟨t, ht, hc⟩

end

end Sys2Proof.Claims

namespace Sys2Proof.Machine

/-! ### Effects of later cycles (log entry 81) -/

/-- An effect that is put among those of later cycles is on its way. -/
theorem Hw.mem_enqueue (h : Hw) (t : Nat) (e : Later) : (t, e) ∈ (h.enqueue t e).later := by
  simp [Hw.enqueue]

/-- Those that were on their way remain so. -/
theorem Hw.mem_enqueue_of_mem {h : Hw} {x : Nat × Later} (hx : x ∈ h.later) (t : Nat) (e : Later) : x ∈ (h.enqueue t e).later := by
  rw [← List.take_append_drop (h.later.takeWhile (fun x => decide (x.1 ≤ t))).length h.later, List.mem_append] at hx
  simp only [Hw.enqueue, List.mem_append, List.mem_cons]
  tauto

/-- An effect of a cycle that has not passed is on its way. -/
theorem Hw.mem_after {h : Hw} {t : Nat} (ht : h.clock ≤ t) (e : Later) : (t, e) ∈ (h.after t e).later := by
  rw [Hw.after_ahead ht]
  exact h.mem_enqueue t e

end Sys2Proof.Machine

namespace Sys2Proof.Claims

open Sys2Proof.Machine

/-! ### The ports of threads and timers (R185, R188, R190, R214) -/

section
variable {w : Who} {t : Fin 4} {v : W32} {h : Hw}

/-- The port of TCTL of a thread. -/
theorem toNat_tctl (t : Fin 4) : (BitVec.ofNat 16 (0x418 + 16 * t.val)).toNat = 0x418 + 16 * t.val := by
  rw [BitVec.toNat_ofNat, Nat.mod_eq_of_lt (by omega)]

/-- The port of the timer of a thread. -/
theorem toNat_tmr (t : Fin 4) : (BitVec.ofNat 16 (0x901 + t.val)).toNat = 0x901 + t.val := by
  rw [BitVec.toNat_ofNat, Nat.mod_eq_of_lt (by omega)]

/-- A write of TCTL of a thread is one of register 8 of its block. -/
theorem portWrite_tctl (ag : Agent) (c : CoreId) (t : Fin 4) (v : W32) (h : Hw) :
    portWrite ag c (BitVec.ofNat 16 (0x418 + 16 * t.val)).toNat v h = (.done 1, h.threadRegWrite c t 8 v) := by
  rw [toNat_tctl]
  fin_cases t <;> rfl

/-- A write of EVPOST. -/
theorem portWrite_evpost (ag : Agent) (c : CoreId) (v : W32) (h : Hw) :
    portWrite ag c (0x0484 : BitVec 16).toNat v h = (.done 1, h.evpost c v) := rfl

/-- A thread's write of its own timer. -/
theorem portWrite_tmr (c : CoreId) (t : Fin 4) (v : W32) (h : Hw) :
    portWrite (.thread t) c (0x0900 : BitVec 16).toNat v h = (.done 1, h.armTimer c t v) := rfl

/-- A write of the timer of a thread. -/
theorem portWrite_tmrOf (ag : Agent) (c : CoreId) (t : Fin 4) (v : W32) (h : Hw) :
    portWrite ag c (BitVec.ofNat 16 (0x901 + t.val)).toNat v h = (.done 1, h.armTimer c t v) := by
  rw [toNat_tmr]
  fin_cases t <;> rfl

/-- Bits 19:2 of a value, above two zeros (R185). -/
theorem bits_19_2 (v : W32) : v.setWidth 20 &&& 0xFFFFC#20 = BitVec.ofNat 20 (v.toNat % 2 ^ 20 / 4 * 4) := by
  have hmask : ∀ i < 20, (0xFFFFC#20).getLsbD i = decide (2 ≤ i) := by decide
  have hshift : v.setWidth 20 &&& 0xFFFFC#20 = (v.setWidth 20 >>> 2) <<< 2 := by
    apply BitVec.eq_of_getLsbD_eq
    intro i hi
    rw [BitVec.getLsbD_and, hmask i hi, BitVec.getLsbD_shiftLeft, BitVec.getLsbD_ushiftRight]
    by_cases h2 : 2 ≤ i
    · simp [hi, h2, show 2 + (i - 2) = i by omega]
      omega
    · simp [h2]
      omega
  rw [hshift]
  apply BitVec.eq_of_toNat_eq
  simp [BitVec.toNat_shiftLeft, BitVec.toNat_ushiftRight, Nat.shiftLeft_eq, Nat.shiftRight_eq_div_pow]

/-- A write of a register of a thread's block changes that thread, of which the stillness detector takes note. -/
theorem reworked_threadRegWrite (w : Who) (t : Fin 4) (off : Nat) (v : W32) (h : Hw) {f : Thread → Thread}
    (hf : ((h.core w.core).thread t).regWrite off v (!(h.core w.core).coreHalt && !(h.core w.core).held) (h.cycle w.core + 1) =
      f ((h.core w.core).thread t)) :
    Reworked w (if t = w.thread then f else id) (fun k => k.updThread t f) h (h.threadRegWrite w.core t off v) := by
  have hx : h.threadRegWrite w.core t off v = (h.updCore w.core (·.updThread t f)).noted w.core := by
    rw [Hw.threadRegWrite, Hw.updCore, Hw.updCore, Core.updThread, Core.updThread, hf]
  exact hx ▸ (reworked_updThread w t f h).noted

/-- A TCTL write without RESTART changes BRKSTOP alone (R185). -/
theorem regWrite_tctl (th : Thread) (hv : v.getLsbD 29 = false) (free : Bool) (next : Nat) :
    th.regWrite 8 v free next = { th with brkstop := v.getLsbD 28 } := by
  simp only [Thread.regWrite, hv, Bool.false_and, Bool.false_eq_true, if_false]

/-- What RESTART leaves of a thread that may restart (R185). -/
def restarted (v : W32) (next : Nat) (th : Thread) : Thread :=
  { th with brkstop := v.getLsbD 28, pc := BitVec.ofNat 20 (v.toNat % 2 ^ 20 / 4 * 4), mode := true, mie := false, exl := false,
            dfcode := 0, dfpc := 0, tstate := .running, stall := none, found := none, pfx := none, pair := none, nextIssue := next }

/-- RESTART of a HALTED thread. -/
theorem regWrite_restart {th : Thread} (hv : v.getLsbD 29 = true) (ht : th.tstate = .halted) (next : Nat) :
    th.regWrite 8 v true next = restarted v next th := by
  simp [Thread.regWrite, Thread.restart, restarted, hv, ht, bits_19_2, -BitVec.getLsbD_eq_getElem]

/-- What a write of its timer leaves of a thread, in a cycle (R190). -/
def armed (v : W32) (cyc : Nat) (th : Thread) : Thread := { th with timer := if v = 0 then none else some (cyc + v.toNat) }

/-- The end of an instruction does not read it. -/
theorem keepsIssue_armed (v : W32) (cyc : Nat) : KeepsIssue (armed v cyc) := {}

/-- A timer is armed. -/
theorem reworked_armTimer (w : Who) (t : Fin 4) (v : W32) (h : Hw) :
    Reworked w (if t = w.thread then armed v (h.cycle w.core) else id) (fun k => k.updThread t (armed v (h.cycle w.core))) h
      (h.armTimer w.core t v) :=
  (reworked_updThread w t (armed v (h.cycle w.core)) h).noted

/-- Events posted to a thread are on their way (R188). -/
theorem evpost_ahead (c : CoreId) (v : W32) (h : Hw) :
    h.evpost c v = h.enqueue (h.clock + 1) (.events ⟨c, fin 4 (fld v 16 2)⟩ (v.setWidth 16)) :=
  Hw.after_ahead (Nat.le_succ _) _

/-- An effect put among those of later cycles changes no core. -/
theorem reworked_enqueue (w : Who) (n : Nat) (e : Later) (h : Hw) : Reworked w id id h (h.enqueue n e) :=
  (reworked_id w h).congr (fun _ => Hw.core_congr rfl rfl _) rfl

/-- The thread that a value for EVPOST names. -/
theorem fin_evpost (ht : t.val = v.toNat / 2 ^ 16 % 4) : fin 4 (fld v 16 2) = t :=
  Fin.ext (by rw [ht]; exact Nat.mod_mod _ _)

/-- A thread's OUT to EVPOST posts events to a thread of its core. -/
theorem evpost_outs {s : State} {sr : Fin 32} (hi : Issues w none s) (ha : Alone w s)
    (ht : t.val = (outValue w sr s).toNat / 2 ^ 16 % 4) : Outs (.evpost w sr) w 0x0484 sr s (fun f x =>
      Changed w id s f x ∧ Follows x.hw x.hw.clock (.events ⟨w.core, t⟩ ((outValue w sr s).setWidth 16))) := by
  obtain ⟨x, hx, hc, hl⟩ := hi.outs_reworked (i := .evpost w sr) (p := 0x0484) (portDenied_false (.inl (by decide))) ha rfl
    (portWrite_evpost ..) keepsIssue_id
    (evpost_ahead w.core _ _ ▸ reworked_enqueue w _ _ _)
  refine ⟨x, hx, hc, ?_⟩
  rw [Follows, hl, hc.clock, evpost_ahead, fin_evpost ht]
  exact Hw.mem_enqueue ..

end

/-- A core in which a thread issues is not halted. -/
theorem Ready.coreHalt {w : Who} {p : Option (BitVec 26)} {s : State} (hi : Ready w p s) : ((slot w s).core w.core).coreHalt = false := by
  have hc := Hw.canIssue_of_nextSlot hi.nextSlot
  simp only [Hw.canIssue, Core.runs, Bool.and_eq_true, Bool.not_eq_true'] at hc
  obtain ⟨⟨⟨⟨⟨⟨hh, -⟩, -⟩, -⟩, -⟩, -⟩, -⟩ := hc
  exact hh

section
variable {w : Who} {t : Fin 4} {sr : Fin 32} {s : State}

/-- BRKSTOP, and RESTART of a HALTED thread. -/
theorem tctl_outs (hi : Issues w none s) (ha : Alone w s) (hm : ((slot w s).thread w).mode = true) {f : Thread → Thread}
    (hf : (((slot w s).core w.core).thread t).regWrite 8 (outValue w sr s)
      (!((slot w s).core w.core).coreHalt && !((slot w s).core w.core).held) ((slot w s).cycle w.core + 1) =
        f (((slot w s).core w.core).thread t))
    (hu : t = w.thread → KeepsIssue f) :
    Outs (.restart w t sr) w (BitVec.ofNat 16 (0x418 + 16 * t.val)) sr s (Changed w (fun k => k.updThread t f) s) :=
  hi.outs_changed (portDenied_false (.inr hm)) ha (congrArg (doOut w · sr s) (toNat_tctl t).symm) (portWrite_tctl ..)
    (keepsIssue_other hu) (reworked_threadRegWrite w t 8 _ _ hf)

/-- The timer of the thread itself, and that of a thread by a supervisor. -/
theorem timer_outs (hi : Issues w none s) (ha : Alone w s) :
    Outs (.tmrWrite w none sr) w 0x0900 sr s
      (Changed w (fun k => k.updThread w.thread (armed (outValue w sr s) (issueCycle w s))) s) ∧
    (((slot w s).thread w).mode = true → Outs (.tmrWrite w (some t) sr) w (BitVec.ofNat 16 (0x901 + t.val)) sr s
      (Changed w (fun k => k.updThread t (armed (outValue w sr s) (issueCycle w s))) s)) :=
  ⟨hi.outs_changed (portDenied_false (.inl (by decide))) ha rfl (portWrite_tmr ..) (keepsIssue_other fun _ => keepsIssue_armed _ _)
      (reworked_armTimer w w.thread _ _),
    fun hm => hi.outs_changed (portDenied_false (.inr hm)) ha (congrArg (doOut w · sr s) (toNat_tmr t).symm) (portWrite_tmrOf ..)
      (keepsIssue_other fun _ => keepsIssue_armed _ _) (reworked_armTimer w t _ _)⟩

end

/-- Events are raised where they are posted, and causes where they arise. -/
theorem thread_applyLater (w : Who) (mask : BitVec 16) (bit : Nat) (h : Hw) :
    (h.applyLater (.events w mask)).thread w = { h.thread w with evpend := (h.thread w).evpend ||| mask } ∧
      (h.applyLater (.cause w bit)).thread w = { h.thread w with ipend := (h.thread w).ipend ||| (1 <<< bit) } :=
  ⟨Hw.thread_updThread_self .., Hw.thread_updThread_self ..⟩

/-- A late store error is recorded, with its line the first time (R203). -/
theorem lateStore_records (h : Hw) (c : CoreId) (addr : Nat) :
    ((h.lateStore c addr).core c).thread 0 = { (h.core c).thread 0 with ipend := ((h.core c).thread 0).ipend ||| 0x200 } ∧
      ((h.lateStore c addr).core c).seaddr =
        (if ((h.core c).thread 0).ipend.getLsbD 9 then (h.core c).seaddr else BitVec.ofNat 48 (addr / 64 * 64)) ∧
      ((h.lateStore c addr).core c).seMore = ((h.core c).thread 0).ipend.getLsbD 9 ∧
      ∀ d : CoreId, d ≠ c → (h.lateStore c addr).core d = h.core d := by
  have hcore : (h.lateStore c addr).core c = (if ((h.core c).thread 0).ipend.getLsbD 9 then { h.core c with seMore := true }
      else { h.core c with seaddr := BitVec.ofNat 48 (addr / 64 * 64), seMore := false }).updThread 0
        (fun th => { th with ipend := th.ipend ||| 0x200 }) := by
    rw [Hw.lateStore, Hw.raiseIpend, Hw.updThread, Hw.core_updCore_self, Hw.core_updCore_self]
    rfl
  refine ⟨?_, ?_, ?_, fun d hd => ?_⟩
  · rw [hcore, Core.thread_updThread_self]
    split <;> rfl
  · rw [hcore]
    split <;> rfl
  · rw [hcore]
    cases ((h.core c).thread 0).ipend.getLsbD 9 <;> rfl
  · have hv : d.val ≠ c.val := fun hv => hd (Fin.ext hv)
    rw [Hw.lateStore, Hw.raiseIpend, Hw.core_updThread_ne _ _ hv, Hw.core_updCore_ne _ hv]

/-- A timer that reaches 0 in a core that is not frozen raises its cause and stops (R190). -/
theorem timerExpiry_raises {w : Who} {h : Hw} {at_ : Nat} (ht : (h.thread w).timer = some at_) (hf : (h.core w.core).frozenAt = none) :
    timerExpiry w h = (((h.eventCycle w.core at_).updThread w (fun th => { th with timer := none })).raiseIpend w.core w.thread 1).noted
      w.core := by
  simp [timerExpiry, ht, hf]

/-- Settles O25: each write is a change of one thread or an effect of the next cycle, and the events change a thread and an error record. -/
theorem threadsAreStartedAndSignalled : Obligations.ThreadsAreStartedAndSignalled := by
  refine ⟨fun w t sr s hi ha hm => ⟨fun hv => ?_, fun hv ht hheld => ?_⟩,
    fun w t sr s hi ha => evpost_outs hi ha, thread_applyLater,
    fun w t sr s hi ha => timer_outs hi ha, ?_, fun c addr s => ?_⟩
  · exact tctl_outs hi ha hm (regWrite_tctl _ hv _ _) fun _ => {}
  · refine tctl_outs hi ha hm (f := restarted (outValue w sr s) (issueCycle w s + 1)) ?_ fun hw => ?_
    · rw [hi.coreHalt, hheld]
      exact regWrite_restart hv ht _
    · have hrun : (((slot w s).core w.core).thread t).tstate = .running := hw ▸ hi.tstate
      simp [hrun] at ht
  · intro w at_ s ht hf x
    refine acts_of rfl (timerExpiry_raises ht hf) ⟨?_, Hw.clock_event .., fun c hc => ?_⟩
    · rw [Hw.noted, Hw.thread, Hw.core_updCore_self, Core.thread_noted, Hw.raiseIpend, ← Hw.thread, Hw.thread_updThread_self,
        Hw.thread_updThread_self]
      rfl
    · have hv : c.val ≠ w.core.val := fun hv => hc (Fin.ext hv)
      rw [Hw.noted, Hw.core_updCore_ne _ hv, Hw.raiseIpend, Hw.core_updThread_ne _ _ hv, Hw.core_updThread_ne _ _ hv]
      rfl
  · exact acts_of (f := fun h => (h.event h.clock).lateStore c addr.toNat) rfl
      (congrArg (Hw.lateStore · c addr.toNat) s.hw.event_now) (lateStore_records { s.hw with acted := true } c addr.toNat)

end Sys2Proof.Claims

namespace Sys2Proof.Machine

/-! ### What only the network and the mesh see (R272, R387) -/

/-- From `h` to `x` nothing has changed but the network block and the flits in the mesh. -/
def Hw.Sends (h x : Hw) : Prop := ∃ n fl sn, x = { h with net := n, flits := fl, flitSerial := sn }

section
variable {h x y : Hw}

/-- Nothing has changed. -/
theorem Hw.Sends.refl (h : Hw) : h.Sends h := ⟨_, _, _, rfl⟩

/-- Two such changes are one. -/
theorem Hw.Sends.trans (hx : h.Sends x) (hy : x.Sends y) : h.Sends y := by
  obtain ⟨n, fl, sn, rfl⟩ := hx
  obtain ⟨n', fl', sn', rfl⟩ := hy
  exact ⟨n', fl', sn', rfl⟩

/-- The network block goes on. -/
theorem Hw.sends_net (h : Hw) (n : Net) : h.Sends { h with net := n } := ⟨_, _, _, rfl⟩

/-- Steps each of which is such a change. -/
theorem Hw.sends_foldl {α : Type} {f : Hw → α → Hw} (hf : ∀ h a, Hw.Sends h (f h a)) (l : List α) (h : Hw) :
    h.Sends (l.foldl f h) := by
  induction l generalizing h with
  | nil => exact .refl h
  | cons a l ih => exact (hf h a).trans (ih _)

/-- A transaction leaves its source. -/
theorem Hw.sends_postRow (h : Hw) (src dst row : Nat) (vc : Fin 4) (start : Nat) (auto : Bool) :
    h.Sends (h.postRow src dst row vc start auto).2 := by
  unfold Hw.postRow
  split
  · exact .refl h
  · exact ⟨_, _, _, rfl⟩

/-- TMP datagrams are sent. -/
theorem Hw.sends_tmpNet (h : Hw) (f : Net → Net) : h.Sends (h.tmpNet f) := by
  refine (h.sends_net (f h.net)).trans (Hw.sends_foldl (fun h a => ?_) _ _)
  split
  · exact .refl h
  · exact h.sends_postRow ..

/-- A record is posted to a session. -/
theorem Hw.sends_postRec (h : Hw) (n : Nat) (ws : List W64) : h.Sends (h.postRec n ws) := by
  unfold Hw.postRec
  split
  · exact .refl h
  · exact h.sends_tmpNet _

/-- An event is posted to the host. -/
theorem Hw.sends_postEvent (h : Hw) (rtype tag : Nat) (ws : List W64) : h.Sends (h.postEvent rtype tag ws) := by
  unfold Hw.postEvent
  dsimp only
  split
  · exact h.sends_postRec ..
  · split
    · exact h.sends_net _
    · exact h.sends_net _

/-- A machine check is posted to the host, or nothing is. -/
theorem Hw.sends_haltEvent (h : Hw) (was : Bool) (c : CoreId) : h.Sends (h.haltEvent was c) := by
  unfold Hw.haltEvent
  dsimp only
  split
  · exact h.sends_postEvent ..
  · exact .refl h

end

/-! ### What an interrupt stops (R91, R116, R158) -/

/-- Of thread `th`, `u` differs in its stall and its cursors alone. -/
def Thread.Interrupted (th u : Thread) : Prop := ∃ st tc ac, u = { th with stall := st, tileCur := tc, acur := ac }

section
variable {th u v : Thread} {k : Core} {t : Fin 4}

/-- Nothing has been stopped. -/
theorem Thread.Interrupted.refl (th : Thread) : th.Interrupted th := ⟨_, _, _, rfl⟩

/-- What stops in two steps. -/
theorem Thread.Interrupted.trans (hu : th.Interrupted u) (hv : u.Interrupted v) : th.Interrupted v := by
  obtain ⟨st, tc, ac, rfl⟩ := hu
  obtain ⟨st', tc', ac', rfl⟩ := hv
  exact ⟨st', tc', ac', rfl⟩

/-- PC, IPEND and the vectors are as they were. -/
theorem Thread.Interrupted.same (hu : th.Interrupted u) :
    u.pc = th.pc ∧ u.ipend = th.ipend ∧ u.extVec = th.extVec ∧ u.vbase = th.vbase := by
  obtain ⟨_, _, _, rfl⟩ := hu
  exact ⟨rfl, rfl, rfl, rfl⟩

/-- The end of a stall of sends concerns no thread. -/
theorem Core.thread_unstall (k : Core) (n : Fin 16) (t : Fin 4) : (k.unstall n).thread t = k.thread t := by
  unfold Core.unstall
  split <;> rfl

/-- The send that the thread is stalled in ends. -/
theorem Core.interrupted_clearStall (k : Core) (t : Fin 4) : (k.thread t).Interrupted ((k.clearStall t).thread t) := by
  unfold Core.clearStall
  dsimp only
  split
  · rw [Core.thread_unstall, Core.thread_updThread_self]
    exact ⟨_, _, _, rfl⟩
  · exact .refl _

/-- Its tile move stops. -/
theorem Core.interrupted_stopTileMove (k : Core) (t : Fin 4) : (k.thread t).Interrupted ((k.stopTileMove t).thread t) := by
  unfold Core.stopTileMove
  split
  · split
    · rename_i mv _ _
      show (k.thread t).Interrupted ((k.updThread t (fun th => { th with tileCur := some mv.t })).thread t)
      rw [Core.thread_updThread_self]
      exact ⟨_, _, _, rfl⟩
    · exact .refl _
  · exact .refl _

/-- Its stream instruction stops. -/
theorem Core.interrupted_stopStream (k : Core) (t : Fin 4) : (k.thread t).Interrupted ((k.stopStream t).thread t) := by
  unfold Core.stopStream
  split
  · rename_i j _
    split
    · dsimp only
      have hk : ∀ f : Thread → Thread, (k.thread t).Interrupted (f (k.thread t)) → ∀ l : Core,
          l = { k.updThread t f with stream := none } → (k.thread t).Interrupted ((((j.tenon.map l.unstall).getD l)).thread t) := by
        rintro f hf l rfl
        have hself : ({ k.updThread t f with stream := none } : Core).thread t = f (k.thread t) := Core.thread_updThread_self ..
        cases j.tenon with
        | none => exact hself ▸ hf
        | some n => rw [Option.map_some, Option.getD_some, Core.thread_unstall, hself]; exact hf
      exact hk _ ⟨_, _, _, rfl⟩ _ rfl
    · exact .refl _
  · exact .refl _

/-- What the thread was in the middle of stops. -/
theorem Core.interrupted_stopWork (k : Core) (t : Fin 4) : (k.thread t).Interrupted ((k.stopWork t).thread t) :=
  ((k.interrupted_clearStall t).trans (Core.interrupted_stopTileMove _ t)).trans (Core.interrupted_stopStream _ t)

/-- Its row cursor is kept or dropped. -/
theorem Core.interrupted_keepCursor (k : Core) (t : Fin 4) : (k.thread t).Interrupted ((k.keepCursor t).thread t) := by
  rw [Core.keepCursor, Core.thread_updThread_self]
  exact ⟨_, _, _, rfl⟩

end

end Sys2Proof.Machine

namespace Sys2Proof.Claims

open Sys2Proof.Machine

/-! ### Entries (R195, R196) -/

/-- Bit `k` of a number. -/
theorem getLsbD_ofNat_32 {k x : Nat} (hk : k < 32) : (BitVec.ofNat 32 x).getLsbD k = decide (x / 2 ^ k % 2 = 1) := by
  rw [BitVec.getLsbD_ofNat, decide_eq_true hk, Bool.true_and, Nat.testBit_eq_decide_div_mod_eq]

/-- A flag is read back from its number. -/
theorem decide_b2n_eq_one (b : Bool) : decide (b2n b = 1) = b := by cases b <;> rfl

/-- A flag is a number of one bit. -/
theorem b2n_lt_two (b : Bool) : b2n b < 2 := by cases b <;> decide

/-- The fields of ESTAT (R195, R214). -/
theorem entryEstat_fields (th : Thread) (isInt : Bool) (code detail : Nat) : let r := entryEstat th isInt code detail
    r.getLsbD 31 = isInt ∧ r.getLsbD 30 = th.mode ∧ r.getLsbD 29 = th.mie ∧ r.getLsbD 28 = th.fz ∧ r.getLsbD 27 = th.fn ∧
      r.getLsbD 26 = th.fc ∧ r.getLsbD 25 = th.fv ∧ r.toNat % 2 ^ 6 = code % 64 ∧ r.toNat / 2 ^ 9 % 8 = detail % 8 := by
  intro r
  have htile : (th.tileCur.map (·.val)).getD 0 < 8 := by
    cases th.tileCur with
    | none => decide
    | some t => exact t.isLt
  have hcur := b2n_lt_two th.tileCur.isSome
  have hact := b2n_lt_two th.acur.active
  have hi := b2n_lt_two isInt
  have hm := b2n_lt_two th.mode
  have he := b2n_lt_two th.mie
  have hz := b2n_lt_two th.fz
  have hn := b2n_lt_two th.fn
  have hc := b2n_lt_two th.fc
  have hv := b2n_lt_two th.fv
  obtain ⟨x, hx, hr⟩ : ∃ x, x = b2n isInt * 2 ^ 31 + b2n th.mode * 2 ^ 30 + b2n th.mie * 2 ^ 29 + b2n th.fz * 2 ^ 28 + b2n th.fn * 2 ^ 27
      + b2n th.fc * 2 ^ 26 + b2n th.fv * 2 ^ 25 + b2n th.tileCur.isSome * 2 ^ 24 + ((th.tileCur.map (·.val)).getD 0) * 2 ^ 21
      + b2n th.acur.active * 2 ^ 20 + (detail % 8) * 2 ^ 9 + code % 64 ∧ r = BitVec.ofNat 32 x := ⟨_, rfl, rfl⟩
  have hlt : x < 2 ^ 32 := by omega
  have hflag : ∀ k < 32, ∀ b : Bool, x / 2 ^ k % 2 = b2n b → r.getLsbD k = b := fun k hk b hb => by
    rw [hr, getLsbD_ofNat_32 hk, hb, decide_b2n_eq_one]
  have hnat : r.toNat = x := by rw [hr, BitVec.toNat_ofNat, Nat.mod_eq_of_lt hlt]
  rw [hnat]
  refine ⟨hflag _ (by decide) _ ?_, hflag _ (by decide) _ ?_, hflag _ (by decide) _ ?_, hflag _ (by decide) _ ?_, hflag _ (by decide) _ ?_,
    hflag _ (by decide) _ ?_, hflag _ (by decide) _ ?_, ?_, ?_⟩ <;> omega

/-- What an entry leaves, of a thread that had been in the middle of something or not (R195). -/
structure EntryLeaves (th : Thread) (isInt : Bool) (e : Exc) (vector : BitVec 20) (z : Thread) : Prop where
  entered : Entered th z
  pc : z.pc = vector
  epc : z.epc = e.epc &&& 0xFFFFC
  eaddr : z.eaddr = e.eaddr
  isInt : z.estat.getLsbD 31 = isInt
  code : z.estat.toNat % 2 ^ 6 = e.code % 64
  detail : z.estat.toNat / 2 ^ 9 % 8 = e.detail % 8
  found : z.found = none
  ipend : z.ipend = th.ipend

/-- A stop that waits for the end of an instruction leaves what an entry leaves. -/
theorem EntryLeaves.boundary {th z : Thread} {isInt : Bool} {e : Exc} {vector : BitVec 20} (hz : EntryLeaves th isInt e vector z) :
    EntryLeaves th isInt e vector z.boundary := by
  unfold Thread.boundary
  split
  · exact ⟨hz.entered, hz.pc, hz.epc, hz.eaddr, hz.isInt, hz.code, hz.detail, hz.found, hz.ipend⟩
  · exact hz

/-- The entry of a thread whose work has stopped. -/
theorem entryLeaves_enter {th u : Thread} (hu : th.Interrupted u) (isInt : Bool) (e : Exc) (vector : BitVec 20) (next : Nat) :
    EntryLeaves th isInt e vector (u.enter isInt e vector next) := by
  obtain ⟨st, tc, ac, rfl⟩ := hu
  obtain ⟨hint, hmode, hmie, hz, hn, hc, hv, hcode, hdetail⟩ :=
    entryEstat_fields { th with stall := st, tileCur := tc, acur := ac } isInt e.code e.detail
  exact ⟨⟨rfl, rfl, rfl, hmode, hmie, hz, hn, hc, hv, rfl, rfl, rfl, rfl⟩, rfl, rfl, rfl, hint, hcode, hdetail, rfl, rfl⟩

/-- An entry changes its thread, and its core no more than by what stopped there. -/
theorem entered_hw {w : Who} {x : Hw} {g : Core → Core} {f : Thread → Thread} {kind : Nat} {pc : BitVec 20} {d : Nat} :
    let z := (((x.updCore w.core g).traceEv w kind pc d).updThread w f).noted w.core
    z.thread w = f ((g (x.core w.core)).thread w.thread) ∧ z.clock = x.clock ∧ ∀ c : CoreId, c ≠ w.core → z.core c = x.core c := by
  refine ⟨?_, ?_, fun c hc => ?_⟩
  · rw [Hw.noted, Hw.thread, Hw.core_updCore_self, Core.thread_noted, ← Hw.thread, Hw.thread_updThread_self, Hw.thread_traceEv, Hw.thread,
      Hw.core_updCore_self]
  · rw [Hw.noted, Hw.updCore_clock, Hw.updThread_clock, Hw.clock_traceEv, Hw.updCore_clock]
  · have hv : c.val ≠ w.core.val := fun hv => hc (Fin.ext hv)
    rw [Hw.noted, Hw.core_updCore_ne _ hv, Hw.core_updThread_ne _ _ hv, Hw.core_traceEv, Hw.core_updCore_ne _ hv]

/-- The entry of a found exception, where its core neither is halted nor frozen nor halts (R205). -/
theorem exceptionEntry_found {w : Who} {e : Exc} {h : Hw} (hh : (h.core w.core).coreHalt = false) (hf : (h.core w.core).frozenAt = none)
    (h0 : w.thread = 0 ∨ ((h.core w.core).thread 0).found = none ∨ ((h.core w.core).thread 0).exl = false)
    (he : (h.thread w).found = some e) (m : Mem) : exceptionEntry w m h = (h.takeException w e).haltEvent false w.core := by
  have hruns : (w.thread != 0 && !(h.core w.core).runs) = false := by
    rcases h0 with h0 | h0 | h0 <;> simp [Core.runs, hh, hf, h0]
  simp [exceptionEntry, Hw.entryOf, he, hh, hf, hruns]

/-- What leaves cores, clock, effects on their way and pending sources. -/
theorem acts_sends {i : Instr} {s : State} {f : Mem → Hw → Hw} {x : Hw} (hi : exec i s = onHw f s) (hx : x.Sends (f s.mem s.hw))
    {P : Hw → Prop} (hp : ∀ n fl sn, P { x with net := n, flits := fl, flitSerial := sn }) : Acts i s P := by
  obtain ⟨n, fl, sn, hf⟩ := hx
  exact ⟨_, hi, hf ▸ hp n fl sn⟩

/-- An exception entry, in the slot of its thread. -/
theorem takeException_enters {w : Who} {h : Hw} (hexl : (h.thread w).exl = false) (e : Exc) :
    let x := h.toSlotFrom w (e.at_ + 1)
    let z := h.takeException w e
    EntryLeaves (x.thread w) false e (x.thread w).vbase (z.thread w) ∧ z.clock = x.clock ∧ ∀ c : CoreId, c ≠ w.core → z.core c = x.core c := by
  intro x z
  have hz : z = (((x.updCore w.core (·.keepCursor w.thread)).traceEv w 1 ((x.updCore w.core (·.keepCursor w.thread)).thread w).pc
      (entryEstat ((x.updCore w.core (·.keepCursor w.thread)).thread w) false e.code e.detail).toNat).updThread w (fun th =>
        Thread.boundary (th.enter false e th.vbase ((x.updCore w.core (·.keepCursor w.thread)).cycle w.core + 4)))).noted w.core := by
    show h.takeException w e = _
    rw [Hw.takeException, hexl, if_neg (by decide)]
  have hkept := (x.core w.core).interrupted_keepCursor w.thread
  obtain ⟨-, -, -, hvbase⟩ := hkept.same
  rw [hz]
  obtain ⟨hthread, hclock, hcores⟩ := entered_hw (w := w) (x := x) (g := (·.keepCursor w.thread))
    (f := fun th => Thread.boundary (th.enter false e th.vbase ((x.updCore w.core (·.keepCursor w.thread)).cycle w.core + 4)))
  refine ⟨?_, hclock, hcores⟩
  rw [hthread, hvbase]
  exact (entryLeaves_enter hkept false e _ _).boundary

/-- Entries to exceptions. -/
theorem exceptionsAreEntered : ExceptionsAreEntered := by
  intro w e s hh hf h0 he hexl x th
  refine acts_sends (i := .exceptionEntry w) rfl (exceptionEntry_found hh hf h0 he s.mem ▸ Hw.sends_haltEvent ..) fun n fl sn => ?_
  obtain ⟨hleaves, hclock, hcores⟩ := takeException_enters hexl e
  exact ⟨hleaves.entered, hclock, hleaves.pc, hleaves.epc, hleaves.eaddr, hleaves.isInt, hleaves.code, hleaves.detail, hleaves.found,
    hcores⟩

/-! ### Double faults and core halts (R204, R205, R206) -/

/-- An effect that leaves the clock is on its way until its cycle has passed, and then has taken hold. -/
theorem onItsWay_after {h : Hw} {due : Nat} {e : Later} {P : Hw → Prop} (hclock : (h.applyLater e).clock = h.clock)
    (hp : P (h.applyLater e)) : (h.after due e).clock = h.clock ∧ OnItsWay (h.after due e) due e (P (h.after due e)) := by
  by_cases hdue : due < h.clock
  case pos =>
    rw [Hw.after_past hdue, OnItsWay, hclock]
    exact ⟨rfl, fun hle => absurd hdue (Nat.not_lt.mpr hle), fun _ => hp⟩
  case neg =>
    rw [Hw.after_ahead (Nat.le_of_not_lt hdue)]
    exact ⟨rfl, fun _ => h.mem_enqueue due e, fun hlt => absurd hlt hdue⟩

/-- An effect that leaves a core leaves it whenever it takes hold. -/
theorem after_keeps {h : Hw} {e : Later} {α : Sort*} {p : Hw → α} (hp : p (h.applyLater e) = p h) (henq : ∀ t, p (h.enqueue t e) = p h)
    (due : Nat) : p (h.after due e) = p h := by
  unfold Hw.after
  split
  · exact hp
  · exact henq due

/-- What the stillness detector notes concerns no core halt. -/
theorem coreHalt_noted (k : Core) (n : Nat) : (k.noted n).coreHalt = k.coreHalt :=
  (congrArg Core.coreHalt (Core.astir_noted k n) :)

/-- The THREAD_FAULT of a double fault follows in the next cycle, and nothing else comes of it. -/
theorem doubleFault_halts {w : Who} (hw : w.thread ≠ 0) (e : Exc) (h : Hw) :
    let x := h.doubleFault w e
    x.clock = h.clock ∧ x.thread w = (h.thread w).halt e ∧ (x.core w.core).coreHalt = (h.core w.core).coreHalt ∧
      OnItsWay x (h.clockOf w.core (e.at_ + 1)) (.cause ⟨w.core, 0⟩ 5)
        (((x.core w.core).thread 0).ipend = ((h.core w.core).thread 0).ipend ||| 0x020) := by
  intro x
  set y := (h.updThread w (·.halt e)).noted w.core with hy
  obtain ⟨n, hcore⟩ : ∃ n, y.core w.core = ((h.core w.core).updThread w.thread (·.halt e)).noted n :=
    ⟨_, by rw [hy, Hw.noted, Hw.core_updCore_self, Hw.updThread, Hw.core_updCore_self]⟩
  have hthread : ∀ t, (y.core w.core).thread t = ((h.core w.core).updThread w.thread (·.halt e)).thread t := fun t => by
    rw [hcore, Core.thread_noted]
  have hraised : (y.raiseIpend w.core 0 5).core w.core =
      (y.core w.core).updThread 0 (fun th => { th with ipend := th.ipend ||| (1#11 <<< 5) }) := by
    rw [Hw.raiseIpend, Hw.updThread, Hw.core_updCore_self]
  obtain ⟨hclock, hway⟩ := onItsWay_after (h := y) (due := h.clockOf w.core (e.at_ + 1)) (e := .cause ⟨w.core, 0⟩ 5)
    (P := fun z => ((z.core w.core).thread 0).ipend = ((h.core w.core).thread 0).ipend ||| 0x020) rfl (by
      show (((y.raiseIpend w.core 0 5).core w.core).thread 0).ipend = _
      rw [hraised, Core.thread_updThread_self, hthread, Core.thread_updThread_ne _ (Ne.symm hw)]
      rfl)
  refine ⟨hclock, ?_, ?_, hway⟩
  · refine (after_keeps (p := fun z : Hw => z.thread w) ?_ (fun _ => rfl) _).trans
      ((hthread w.thread).trans (Core.thread_updThread_self ..))
    show ((y.raiseIpend w.core 0 5).core w.core).thread w.thread = _
    rw [hraised, Core.thread_updThread_ne _ hw]
    rfl
  · refine (after_keeps (p := fun z : Hw => (z.core w.core).coreHalt) ?_ (fun _ => rfl) _).trans ((congrArg Core.coreHalt hcore).trans (coreHalt_noted ..))
    exact (congrArg Core.coreHalt hraised :)

/-- The loss of a warden leaves cores and clock. -/
theorem wardenLost_keeps (h : Hw) (b at_ : Nat) :
    (h.wardenLost b at_).clock = h.clock ∧ ∀ c : Nat, (h.wardenLost b at_).core c = h.core c := by
  unfold Hw.wardenLost
  split
  · exact ⟨after_keeps (p := Hw.clock) rfl (fun _ => rfl) _, fun c => after_keeps (p := fun z : Hw => z.core c) rfl (fun _ => rfl) _⟩
  · exact ⟨rfl, fun _ => rfl⟩

/-- A bit set is read as set. -/
theorem getLsbD_or_bit {n k : Nat} (hk : k < n) (v : BitVec n) : (v ||| (1#n <<< k)).getLsbD k = true := by
  rw [BitVec.getLsbD_or, BitVec.getLsbD_shiftLeft, decide_eq_true hk, Nat.sub_self, BitVec.getLsbD_one]
  simp [Nat.zero_lt_of_lt hk]

/-- The report of a core halt leaves its core and follows in the next cycle (R206). -/
theorem reportHalt_reports (h : Hw) (c : CoreId) (at_ : Nat) :
    let x := h.reportHalt c at_
    x.clock = h.clock ∧ x.core c = h.core c ∧
      (c.val % 44 = 40 → OnItsWay x (at_ + 1) (.source (c.val / 44)) (x.irqPend.getLsbD (c.val / 44) = true)) ∧
      (c.val % 44 ≠ 40 → ∀ wd : CoreId, wd.val = 44 * (c.val / 44) + 40 → OnItsWay x (at_ + 1) (.halted wd (c.val % 44))
        ((x.core wd).whalt.getLsbD (c.val % 44) = true ∧ ((x.core wd).thread 0).ipend.getLsbD 4 = true)) := by
  intro x
  have hb : c.val / 44 < 48 := by omega
  by_cases hwarden : c.val % 44 = 40
  case pos =>
    have hx : x = (h.wardenLost (c.val / 44) at_).after (at_ + 1) (.source (c.val / 44)) := by
      simp [x, Hw.reportHalt, isWarden, coreIn, bentOf, hwarden]
    obtain ⟨hclock, hcores⟩ := wardenLost_keeps h (c.val / 44) at_
    obtain ⟨hafter, hway⟩ := onItsWay_after (h := h.wardenLost (c.val / 44) at_) (due := at_ + 1) (e := .source (c.val / 44))
      (P := fun z => z.irqPend.getLsbD (c.val / 44) = true) rfl (getLsbD_or_bit (by omega) _)
    rw [hx]
    exact ⟨hafter.trans hclock, (after_keeps (p := fun z : Hw => z.core c) rfl (fun _ => rfl) _).trans (hcores c), fun _ => hway,
      fun hn => absurd hwarden hn⟩
  case neg =>
    have hid : (coreId (44 * (c.val / 44) + 40)).val = 44 * (c.val / 44) + 40 := Nat.mod_eq_of_lt (by omega)
    set wd := coreId (44 * (c.val / 44) + 40)
    have hx : x = h.after (at_ + 1) (.halted wd (c.val % 44)) := by
      simp [x, wd, Hw.reportHalt, isWarden, coreIn, bentOf, wardenOf, hwarden]
    have hreported : (h.applyLater (.halted wd (c.val % 44))).core wd =
        ({ h.core wd with whalt := (h.core wd).whalt ||| (1#44 <<< (c.val % 44)) } : Core).updThread 0
          (fun th => { th with ipend := th.ipend ||| (1#11 <<< 4) }) := by
      show ((h.updCore wd (fun k => { k with whalt := k.whalt ||| (1#44 <<< (c.val % 44)) })).raiseIpend wd 0 4).core wd = _
      rw [Hw.raiseIpend, Hw.updThread, Hw.core_updCore_self, Hw.core_updCore_self]
    obtain ⟨hafter, hway⟩ := onItsWay_after (h := h) (due := at_ + 1) (e := .halted wd (c.val % 44))
      (P := fun z => (z.core wd).whalt.getLsbD (c.val % 44) = true ∧ ((z.core wd).thread 0).ipend.getLsbD 4 = true) rfl (by
        rw [hreported, Core.thread_updThread_self]
        exact ⟨getLsbD_or_bit (by omega) _, getLsbD_or_bit (by omega) _⟩)
    have hother : c.val ≠ wd.val := by omega
    rw [hx]
    refine ⟨hafter, after_keeps (p := fun z : Hw => z.core c) ?_ (fun _ => rfl) _, fun hn => absurd hn hwarden, fun _ wd' hwd => ?_⟩
    · show ((h.updCore wd (fun k => { k with whalt := k.whalt ||| (1#44 <<< (c.val % 44)) })).raiseIpend wd 0 4).core c = _
      rw [Hw.raiseIpend, Hw.core_updThread_ne _ _ hother, Hw.core_updCore_ne _ hother]
    · rwa [show wd' = wd from Fin.ext (hwd.trans hid.symm)]

/-- The mark of a core halt concerns no thread. -/
theorem thread_withHalt (k : Core) (t : Fin 4) : ({ k with coreHalt := true } : Core).thread t = k.thread t := rfl

/-- A core halt halts its threads, and is reported in the next cycle (R205, R206). -/
theorem coreHalted_halts (h : Hw) (c : CoreId) (e : Exc) :
    ∃ y : Hw, h.coreHalted c e = y.reportHalt c (h.clockOf c e.at_) ∧ y.clock = h.clock ∧ (y.core c).coreHalt = true ∧
      (∀ u, ((y.core c).thread u).tstate = .halted) ∧ ((y.core c).thread 0).dfcode = BitVec.ofNat 6 e.code ∧
      ((y.core c).thread 0).dfpc = e.epc &&& 0xFFFFC := by
  have hthread : ∀ (k : Core) (f : Thread → Thread), (∀ th, (f th).tstate = .halted) → ∀ u,
      (((k.updThreads f).updThread 0 (·.halt e)).thread u).tstate = .halted := fun k f hf u => by
    by_cases hu : u = 0
    · rw [hu, Core.thread_updThread_self]; rfl
    · rw [Core.thread_updThread_ne _ hu, Core.thread_updThreads, hf]
  have hzero : ∀ k : Core, ((k.updThread 0 (·.halt e)).thread 0).dfcode = BitVec.ofNat 6 e.code ∧
      ((k.updThread 0 (·.halt e)).thread 0).dfpc = e.epc &&& 0xFFFFC := fun k => by
    rw [Core.thread_updThread_self]
    exact ⟨rfl, rfl⟩
  refine ⟨_, rfl, rfl, ?_, fun u => ?_, ?_, ?_⟩ <;> rw [Hw.noted, Hw.core_updCore_self, Hw.core_updCore_self, Hw.core_updCore_self]
  · exact coreHalt_noted _ _
  · rw [Core.thread_noted, thread_withHalt]
    exact hthread _ _ (fun _ => rfl) u
  · rw [Core.thread_noted, thread_withHalt]
    exact (hzero _).1
  · rw [Core.thread_noted, thread_withHalt]
    exact (hzero _).2

/-- Double faults and core halts. -/
theorem doubleFaultsHalt : DoubleFaultsHalt := by
  intro w e s hh hf he hexl due
  refine ⟨fun hw h0 => ?_, fun hw => ?_⟩
  · have hentry := exceptionEntry_found hh hf (.inr h0) he s.mem
    rw [Hw.takeException_double hexl hw] at hentry
    refine acts_sends (i := .exceptionEntry w) rfl (hentry ▸ Hw.sends_haltEvent ..) fun n fl sn => ?_
    obtain ⟨hclock, hthread, hhalt, hway⟩ := doubleFault_halts hw e s.hw
    exact ⟨hclock, (congrArg Thread.tstate hthread :), (congrArg Thread.dfcode hthread :), (congrArg Thread.dfpc hthread :), hway,
      hhalt.trans hh⟩
  · have hentry := exceptionEntry_found hh hf (.inl hw) he s.mem
    obtain ⟨y, hy, hclock, hcore, hthreads, hcode, hpc⟩ := coreHalted_halts s.hw w.core e
    rw [Hw.takeException_halt hexl hw, hy] at hentry
    refine acts_sends (i := .exceptionEntry w) rfl (hentry ▸ Hw.sends_haltEvent ..) fun n fl sn => ?_
    obtain ⟨hclock', hcore', hwarden, hother⟩ := reportHalt_reports y w.core (s.hw.clockOf w.core e.at_)
    set x := y.reportHalt w.core (s.hw.clockOf w.core e.at_)
    have hthread : x.thread w = (y.core w.core).thread 0 := by rw [Hw.thread, hcore', hw]
    exact ⟨hclock'.trans hclock, (congrArg Core.coreHalt hcore').trans hcore,
      fun u => (congrArg (fun k : Core => (k.thread u).tstate) hcore').trans (hthreads u),
      (congrArg Thread.dfcode hthread).trans hcode, (congrArg Thread.dfpc hthread).trans hpc, hwarden, hother⟩

/-! ### Interrupts (R192, R193) -/

/-- An interrupt entry, at a boundary. -/
theorem takeInterrupt_enters (w : Who) (x : Hw) :
    let th := x.thread w
    let z := x.takeInterrupt w
    EntryLeaves th true { code := if th.ipend.getLsbD 2 then 0x3E else 0, epc := th.pc }
      (if th.ipend.getLsbD 2 then th.extVec else th.vbase + 0x80) (z.thread w) ∧
    z.clock = x.clock ∧ ∀ c : CoreId, c ≠ w.core → z.core c = x.core c := by
  intro th z
  have hu := ((x.core w.core).interrupted_stopWork w.thread).trans (Core.interrupted_keepCursor _ w.thread)
  obtain ⟨hthread, hclock, hcores⟩ := entered_hw (w := w) (x := x) (g := fun k => (k.stopWork w.thread).keepCursor w.thread)
    (f := fun th => Thread.boundary (th.enter true { code := if th.ipend.getLsbD 2 then 0x3E else 0, epc := th.pc }
      (if th.ipend.getLsbD 2 then th.extVec else th.vbase + 0x80)
      ((x.updCore w.core (fun k => (k.stopWork w.thread).keepCursor w.thread)).cycle w.core + 4)))
    (kind := 1) (pc := ((x.updCore w.core (fun k => (k.stopWork w.thread).keepCursor w.thread)).thread w).pc)
    (d := (entryEstat ((x.updCore w.core (fun k => (k.stopWork w.thread).keepCursor w.thread)).thread w) true
      (if ((x.updCore w.core (fun k => (k.stopWork w.thread).keepCursor w.thread)).thread w).ipend.getLsbD 2 then 0x3E else 0) 0).toNat)
  refine ⟨?_, hclock, hcores⟩
  have hthread' : z.thread w = _ := hthread
  have hleaves := hthread' ▸ (entryLeaves_enter hu true _ _ _).boundary
  obtain ⟨hpc, hipend, hvec, hvbase⟩ := hu.same
  rw [hpc, hipend, hvec, hvbase] at hleaves
  exact hleaves

/-- A thread whose core moves no tile is at a boundary between instructions and in the stalls of R158. -/
theorem atBoundary_iff {k : Core} (hk : k.tileMove = none) (t : Fin 4) : k.atBoundary t = true ↔
    (k.thread t).stall ∈ [none, some .credit, some .mortise, some .msync, some .stream, some .tileMove] := by
  unfold Core.atBoundary
  cases (k.thread t).stall with
  | none => simp
  | some r => cases r <;> simp [hk, Stall.interruptible]

/-- Interrupts. -/
theorem interruptsAreEntered : InterruptsAreEntered := by
  refine ⟨fun w x s hpair hx => ?_, fun w x hh hf h0 hmove => ?_, fun w s hs => ?_⟩
  · have hentry : interruptEntry w s.hw = x.takeInterrupt w := by simp [interruptEntry, hpair, hx]
    refine acts_of (i := .interruptEntry w) rfl hentry ?_
    obtain ⟨hleaves, hclock, hcores⟩ := takeInterrupt_enters w x
    refine ⟨hleaves.entered, hclock, hleaves.pc, hleaves.epc, hleaves.isInt, hleaves.code.trans ?_, hleaves.ipend, hcores⟩
    dsimp only
    split <;> rfl
  · have hruns : (x.core w.core).runs = true := by simp [Core.runs, hh, hf, h0]
    rw [Hw.interruptReady, hruns, Bool.true_and, Bool.and_eq_true, atBoundary_iff hmove, ← Hw.thread]
    simp only [Thread.takeable, Bool.and_eq_true, Bool.or_eq_true, beq_iff_eq, Option.isNone_iff_eq_none, Bool.not_eq_true', bne_iff_ne,
      and_assoc]
  · refine acts_of (i := .interruptEntry w) rfl ?_ rfl
    rcases hs with hpair | hnone
    · simp [interruptEntry, hpair]
    · unfold interruptEntry
      split
      · rfl
      · rw [hnone]

/-- Settles O26: an entry is that of a thread whose work has stopped, a double fault and a core halt take hold at once, and what they
report waits in the queue of effects until its cycle has passed. -/
theorem entriesAndDoubleFaults : Obligations.EntriesAndDoubleFaults :=
  ⟨exceptionsAreEntered, doubleFaultsHalt, interruptsAreEntered⟩

end Sys2Proof.Claims
namespace Sys2Proof.Claims

open Sys2Proof.Machine

/-! ### The machine after reset (R182, R404) -/

/-- What an unwritten byte of the page map reads as: that of its entry. -/
theorem memDefault_pageMap {vpn k : Nat} (hv : vpn < 2 ^ 24) (hk : k < 4) :
    memDefault (locExt (0x7FFC000000 + 4 * vpn + k)) = BitVec.ofNat 8 (pageMapInit vpn / 256 ^ k) := by
  have hoff : locExt (0x7FFC000000 + 4 * vpn + k) - locExt 0x7FFC000000 = 4 * vpn + k := by unfold locExt; omega
  have hrange : locExt 0x7FFC000000 ≤ locExt (0x7FFC000000 + 4 * vpn + k) ∧
      locExt (0x7FFC000000 + 4 * vpn + k) < locExt 0x7FFC000000 + 0x4000000 := by unfold locExt; omega
  rw [memDefault, if_pos hrange, hoff, show (4 * vpn + k) / 4 = vpn by omega, show (4 * vpn + k) % 4 = k by omega]

/-- Settles O58: no table of the reset state lists anything, so that every core, bent and byte reads at its default. -/
theorem resetState : Obligations.ResetState := by
  refine ⟨rfl, rfl, rfl, fun c => ⟨rfl, fun t => ?_, fun n => ?_, rfl⟩, rfl, rfl, rfl, fun l => ?_, rfl, rfl, rfl,
    fun vpn k hv hk => ?_⟩
  · have hthread : (State.reset.hw.core c).thread t = {} := by fin_cases t <;> rfl
    rw [hthread]
    exact ⟨rfl, rfl, rfl, rfl⟩
  · have htenon : (State.reset.hw.core c).tenons[n] = {} := Vector.getElem_replicate _
    rw [htenon]
    exact ⟨rfl, rfl, Vector.getElem_replicate _⟩
  · have hlink : State.reset.hw.link l = {} := Vector.getElem_replicate _
    rw [hlink]
  · have hread : memRead (locExt (0x7FFC000000 + 4 * vpn + k)) State.reset.mem = BitVec.ofNat 8 (pageMapInit vpn / 256 ^ k) :=
      memDefault_pageMap hv hk
    rw [hread, BitVec.toNat_ofNat]
    rfl

end Sys2Proof.Claims
namespace Sys2Proof.Claims

open Sys2Proof.Machine

/-! ### An IN that changes its core -/

section
variable {w : Who} {d : Fin 32} {p : BitVec 16} {s : State} {i : Instr} {u : Thread → Thread} {g : Core → Core} {h x : Hw}

/-- A further change of the thread. -/
theorem Reworked.updThread (hx : Reworked w u g h x) (f : Thread → Thread) :
    Reworked w (fun th => f (u th)) (fun k => (g k).updThread w.thread f) h (x.updThread w f) where
  core := by rw [Hw.updThread, Hw.core_updCore_self, Core.astir_updThread, hx.core, ← Core.astir_updThread]
  thread := by rw [Core.thread_updThread_self, hx.thread]
  isegx := hx.isegx
  frozenAt := hx.frozenAt
  cyc0 := hx.cyc0
  cores c hc := (Hw.core_updThread_ne _ _ (fun hv => hc (Fin.ext hv)) _).trans (hx.cores c hc)
  clock := hx.clock

/-- An IN from a port whose read changes its core. -/
theorem Issues.ins_reworked (hi : Issues w none s) (hp : portDenied ((slot w s).thread w) p.toNat = false) (hblk : p.toNat ≠ 0x531)
    (he : exec i s = doIn w d p.toNat s) {r : W32} (hport : portRead (.thread w.thread) w.core p.toNat (slot w s) = (r, x))
    (hu : KeepsIssue u) (hx : Reworked w u g (slot w s) x) {n : Nat} (hn : r.setWidth 64 = BitVec.ofNat 64 n) :
    Ins i w p d s (Changed w (fun k => (g k).updThread w.thread (fun th => th.setD d (BitVec.ofNat 64 n))) s) := by
  refine ⟨_, he, ?_⟩
  have hin : inPort w d p.toNat (slot w s) = (.done 1, x.updThread w (·.setD d (BitVec.ofNat 64 n))) := by
    simp [inPort, hp, hblk, hport, hn]
  rw [hi.runInstr (.inl rfl), hin]
  exact hi.reworked_settle (hu.setD d _) (hx.updThread (·.setD d _)) _

/-- A change of the core outside its threads and what the end of an instruction reads. -/
theorem reworked_updCore (w : Who) (g : Core → Core) (h : Hw) (hthread : (g (h.core w.core)).thread w.thread = (h.core w.core).thread w.thread)
    (hi : (g (h.core w.core)).isegx = (h.core w.core).isegx) (hf : (g (h.core w.core)).frozenAt = (h.core w.core).frozenAt)
    (hc : (g (h.core w.core)).cyc0 = (h.core w.core).cyc0) : Reworked w id g h (h.updCore w.core g) where
  core := congrArg Core.astir (Hw.core_updCore_self ..)
  thread := hthread
  isegx := hi
  frozenAt := hf
  cyc0 := hc
  cores _ hc := Hw.core_updCore_ne _ (fun hv => hc (Fin.ext hv)) _
  clock := rfl

/-- What an instruction leaves of PC: it stands behind it. -/
theorem pc_ended (f : Form) (th : Thread) : (ended w f none 1 s th).pc = th.pc + 4 := by
  unfold ended
  split
  · rfl
  · exact Thread.pc_finish ..

/-- A thread of a core that is astir. -/
theorem thread_unstilled (k : Core) (t : Fin 4) (f : Thread → Thread) :
    ({ k.updThread t f with still := false, stillFrom := none } : Core).thread t = f (k.thread t) := Core.thread_updThread_self ..

/-- An instruction that leaves PC to its end completes behind itself. -/
theorem Changed.pc {f : Form} {t : State} (hc : Changed w g s f t)
    (hg : ((g ((slot w s).core w.core)).thread w.thread).pc = ((slot w s).thread w).pc) :
    (t.hw.thread w).pc = ((slot w s).thread w).pc + 4 := by
  rw [Hw.thread, hc.core, thread_unstilled, pc_ended, hg]

end

/-! ### Core locks (R207, R208, R210, R211) -/

section
variable {w : Who} {d n sr : Fin 32} {s : State} {h x : Hw}

/-- The port of a core lock. -/
theorem toNat_clk (n : Fin 32) : (BitVec.ofNat 16 (0x500 + n.val)).toNat = 0x500 + n.val := by
  rw [BitVec.toNat_ofNat, Nat.mod_eq_of_lt (by omega)]

/-- It is a user port. -/
theorem portClass_clk (n : Fin 32) : portClass (BitVec.ofNat 16 (0x500 + n.val)).toNat ≠ some false := by
  revert n
  decide

/-- It is none other. -/
theorem clk_ne_blk (n : Fin 32) : (BitVec.ofNat 16 (0x500 + n.val)).toNat ≠ 0x531 := by
  rw [toNat_clk]
  omega

/-- A thread's read of CLKn is an attempt on the lock. -/
theorem portRead_clk (t : Fin 4) (c : CoreId) (n : Fin 32) (h : Hw) :
    portRead (.thread t) c (BitVec.ofNat 16 (0x500 + n.val)).toNat h =
      (w32 ((h.core c).clkAttempt t n).1, h.setCore c ((h.core c).clkAttempt t n).2) := by
  rw [toNat_clk]
  fin_cases n <;> rfl

/-- A thread's write of CLKn releases the lock that it holds. -/
theorem portWrite_clk (t : Fin 4) (c : CoreId) (n : Fin 32) (v : W32) (h : Hw) :
    portWrite (.thread t) c (BitVec.ofNat 16 (0x500 + n.val)).toNat v h =
      (.done 1, if sget n.val (h.core c).locks = some t then h.clkRelease c n else h) := by
  rw [toNat_clk]
  fin_cases n <;> rfl

/-- A write of CLFORCE releases the locks of a mask. -/
theorem portWrite_clforce (ag : Agent) (c : CoreId) (v : W32) (h : Hw) : portWrite ag c (0x522 : BitVec 16).toNat v h =
    (.done 1, (List.finRange 32).foldl (fun h n => if v.getLsbD n.val then h.clkRelease c n else h) h) := rfl

/-- What an attempt leaves of its thread. -/
def lockTried (r : Nat) (l : LockRef) (th : Thread) : Thread := { th with lockRec := if r = 0 then some l else none }

/-- The end of an instruction does not read it. -/
theorem keepsIssue_lockTried (r : Nat) (l : LockRef) : KeepsIssue (lockTried r l) := {}

/-- What a change of the holders leaves of a core. -/
def withLocks (l : SMap (Fin 4) → SMap (Fin 4)) (k : Core) : Core := { k with locks := l k.locks }

/-- It concerns no thread. -/
theorem thread_withLocks (l : SMap (Fin 4) → SMap (Fin 4)) (k : Core) (t : Fin 4) : (withLocks l k).thread t = k.thread t := rfl

/-- What an attempt leaves of its core, whose holders it changes by `l`. -/
def Attempted (t : Fin 4) (r : Nat) (n : Fin 32) (l : SMap (Fin 4) → SMap (Fin 4)) (k : Core) : Core :=
  withLocks l (k.updThread t (lockTried r (.core n)))

/-- An attempt takes a lock that answers 1. -/
theorem clkAttempt_eq {k : Core} {t : Fin 4} {r : Nat} (hr : lockResult (sget n.val k.locks) t = r)
    {l : SMap (Fin 4) → SMap (Fin 4)} (hl : ∀ x, (if r = 1 then sset n.val t x else x) = l x) :
    k.clkAttempt t n = (r, Attempted t r n l k) := by
  have htake : ∀ k1 : Core, (if r = 1 then { k1 with locks := sset n.val t k1.locks } else k1) = withLocks l k1 := fun k1 => by
    unfold withLocks
    rw [← hl]
    split <;> rfl
  unfold Core.clkAttempt
  dsimp only
  rw [hr]
  exact congrArg (Prod.mk r) (htake (k.updThread t (lockTried r (.core n))))

/-- It changes its thread and its core alone. -/
theorem reworked_attempted (w : Who) (r : Nat) (n : Fin 32) (l : SMap (Fin 4) → SMap (Fin 4)) (h : Hw) :
    Reworked w (lockTried r (.core n)) (Attempted w.thread r n l) h (h.setCore w.core (Attempted w.thread r n l (h.core w.core))) where
  core := congrArg Core.astir (Hw.core_setCore_self ..)
  thread := Core.thread_updThread_self (h.core w.core) w.thread (lockTried r (.core n))
  isegx := rfl
  frozenAt := rfl
  cyc0 := rfl
  cores _ hc := Hw.core_setCore_ne _ (fun hv => hc (Fin.ext hv)) _
  clock := rfl

/-- An attempt on a lock answers its result. -/
theorem clkAcquire_answers (hi : Issues w none s) {r : Nat} (hr : lockResult (sget n.val ((slot w s).core w.core).locks) w.thread = r)
    (hlt : r < 3) {l : SMap (Fin 4) → SMap (Fin 4)} (hl : ∀ x, (if r = 1 then sset n.val w.thread x else x) = l x) :
    Ins (.clkAcquire w d n) w (BitVec.ofNat 16 (0x500 + n.val)) d s (Changed w (fun k =>
      (Attempted w.thread r n l k).updThread w.thread
        (fun th => th.setD d (BitVec.ofNat 64 r))) s) := by
  refine hi.ins_reworked (i := .clkAcquire w d n) (portDenied_false (.inl (portClass_clk n))) (clk_ne_blk n)
    (congrArg (doIn w d · s) (toNat_clk n).symm) (by rw [portRead_clk, clkAttempt_eq hr hl]) (keepsIssue_lockTried r (.core n))
    (reworked_attempted w r n _ _) ?_
  apply BitVec.eq_of_toNat_eq
  simp [w32]
  omega

/-- A release of a core lock that has a holder. -/
theorem clkRelease_held (c : CoreId) {n : Fin 32} (hn : sget n.val (h.core c).locks ≠ none) :
    h.clkRelease c n =
      (h.updCore c (withLocks (sdel n.val))).enqueue (h.clock + 1) (.lockFree c (.core n)) := by
  rw [Hw.clkRelease, if_pos (Option.isSome_iff_ne_none.mpr hn)]
  exact Hw.after_ahead (Nat.le_succ _) _

/-- A release of a core lock that has none. -/
theorem clkRelease_free (c : CoreId) {n : Fin 32} (hn : sget n.val (h.core c).locks = none) : h.clkRelease c n = h := by
  rw [Hw.clkRelease, hn]
  rfl

/-- A core whose locks change. -/
theorem reworked_locks (w : Who) (l : SMap (Fin 4) → SMap (Fin 4)) (h : Hw) :
    Reworked w id (withLocks l) h (h.updCore w.core (withLocks l)) :=
  reworked_updCore w _ h rfl rfl rfl rfl

/-- An effect put among those of later cycles changes nothing now. -/
theorem Reworked.trans_enqueue {u : Thread → Thread} {g : Core → Core} (hx : Reworked w u g h x) (n : Nat) (e : Later) :
    Reworked w u g h (x.enqueue n e) :=
  hx.congr (fun _ => Hw.core_congr rfl rfl _) rfl

/-- The locks `l` that a mask names have been released (R211). -/
structure LocksFreed (w : Who) (v : W32) (l : List (Fin 32)) (h x : Hw) : Prop where
  reworked : Reworked w id (withLocks (fun _ => (x.core w.core).locks)) h x
  locks : ∀ m : Fin 32, sget m.val (x.core w.core).locks =
    if m ∈ l ∧ v.getLsbD m.val = true then none else sget m.val (h.core w.core).locks
  told : ∀ m ∈ l, v.getLsbD m.val = true → sget m.val (h.core w.core).locks ≠ none →
    (h.clock + 1, Later.lockFree w.core (.core m)) ∈ x.later

/-- Nothing has been released. -/
theorem locksFreed_nil (w : Who) (v : W32) (h : Hw) : LocksFreed w v [] h h where
  reworked := ⟨rfl, rfl, rfl, rfl, rfl, fun _ _ => rfl, rfl⟩
  locks m := by simp
  told m hm := absurd hm List.not_mem_nil

/-- One more is released, or its bit is 0. -/
theorem LocksFreed.cons {v : W32} {l : List (Fin 32)} (hx : LocksFreed w v l h x) (n : Fin 32) :
    LocksFreed w v (n :: l) h (if v.getLsbD n.val then x.clkRelease w.core n else x) := by
  by_cases hbit : v.getLsbD n.val = true
  case neg =>
    have hmem : ∀ m, (m ∈ n :: l ∧ v.getLsbD m.val = true ↔ m ∈ l ∧ v.getLsbD m.val = true) := fun m => by
      refine ⟨fun ⟨hm, hv⟩ => ⟨(List.mem_cons.mp hm).resolve_left (fun hmn => hbit (hmn ▸ hv)), hv⟩, fun ⟨hm, hv⟩ => ⟨.tail _ hm, hv⟩⟩
    rw [if_neg hbit]
    refine ⟨hx.reworked, fun m => ?_, fun m hm hv => hx.told m ((hmem m).mp ⟨hm, hv⟩).1 hv⟩
    simp only [hmem, hx.locks m]
  case pos =>
    rw [if_pos hbit]
    by_cases hn : sget n.val (x.core w.core).locks = none
    case pos =>
      rw [clkRelease_free w.core hn]
      refine ⟨hx.reworked, fun m => ?_, fun m hm hv hheld => ?_⟩
      · by_cases hmn : m = n
        · rw [hmn, hn, if_pos ⟨List.mem_cons_self .., hbit⟩]
        · rw [hx.locks m]
          simp only [List.mem_cons, hmn, false_or]
      · rcases List.mem_cons.mp hm with rfl | hm
        · have hl := hx.locks m
          rw [hn] at hl
          split at hl
          case isTrue hml => exact hx.told m hml.1 hv hheld
          case isFalse => exact absurd hl.symm hheld
        · exact hx.told m hm hv hheld
    case neg =>
      rw [clkRelease_held w.core hn]
      have hlocks : ∀ t e, ((((x.updCore w.core (withLocks (sdel n.val))).enqueue t e).core w.core).locks) =
          sdel n.val (x.core w.core).locks := fun t e => congrArg Core.locks (Hw.core_updCore_self ..)
      refine ⟨?_, fun m => ?_, fun m hm hv hheld => ?_⟩
      · rw [hlocks]
        exact { hx.reworked with
          core := by
            show ((x.updCore w.core (withLocks (sdel n.val))).core w.core).astir = _
            rw [Hw.core_updCore_self]
            exact (congrArg (withLocks (fun _ => sdel n.val (x.core w.core).locks)) hx.reworked.core :)
          cores := fun c hc => (Hw.core_updCore_ne _ (fun hv => hc (Fin.ext hv)) _).trans (hx.reworked.cores c hc)
          clock := hx.reworked.clock }
      · rw [hlocks]
        by_cases hmn : m = n
        · rw [hmn, sget_sdel_self, if_pos ⟨List.mem_cons_self .., hbit⟩]
        · rw [sget_sdel_ne (fun hval => hmn (Fin.ext hval)), hx.locks m]
          simp only [List.mem_cons, hmn, false_or]
      · by_cases hml : m ∈ l
        · exact Hw.mem_enqueue_of_mem (h := x.updCore w.core _) (hx.told m hml hv hheld) _ _
        · rw [(List.mem_cons.mp hm).resolve_right hml, ← hx.reworked.clock]
          exact Hw.mem_enqueue ..

/-- The locks of a list are released in its order. -/
theorem LocksFreed.foldl {v : W32} (l : List (Fin 32)) : ∀ {done : List (Fin 32)} {x : Hw}, LocksFreed w v done h x →
    LocksFreed w v (l.reverse ++ done) h (l.foldl (fun h n => if v.getLsbD n.val then h.clkRelease w.core n else h) x) := by
  induction l with
  | nil => exact fun hx => hx
  | cons n l ih =>
    intro done x hx
    rw [List.reverse_cons, List.append_assoc, List.singleton_append]
    exact ih (hx.cons n)

/-- A thread that has a core lock releases it (R208). -/
theorem clkRelease_holder (hi : Issues w none s) (ha : Alone w s)
    (hholder : sget n.val ((slot w s).core w.core).locks = some w.thread) :
    Outs (.clkRelease w n sr) w (BitVec.ofNat 16 (0x500 + n.val)) sr s (fun f t =>
      Changed w (fun k => { k with locks := sdel n.val k.locks }) s f t ∧ Follows t.hw t.hw.clock (.lockFree w.core (.core n))) := by
  have hport := portWrite_clk w.thread w.core n (outValue w sr s) (slot w s)
  rw [if_pos hholder, clkRelease_held w.core (by rw [hholder]; exact Option.some_ne_none _)] at hport
  have hx := (reworked_locks w (sdel n.val) (slot w s)).trans_enqueue ((slot w s).clock + 1) (.lockFree w.core (.core n))
  obtain ⟨t, ht, hc, hl⟩ := hi.outs_reworked (i := .clkRelease w n sr) (portDenied_false (.inl (portClass_clk n))) ha
    (congrArg (doOut w · sr s) (toNat_clk n).symm) hport keepsIssue_id hx
  refine ⟨t, ht, hc, ?_⟩
  rw [Follows, hl, hc.clock]
  exact Hw.mem_enqueue ..

/-- Another thread's release is of no effect. -/
theorem clkRelease_other (hi : Issues w none s) (ha : Alone w s)
    (hholder : sget n.val ((slot w s).core w.core).locks ≠ some w.thread) :
    Outs (.clkRelease w n sr) w (BitVec.ofNat 16 (0x500 + n.val)) sr s (Changed w id s) := by
  have hport := portWrite_clk w.thread w.core n (outValue w sr s) (slot w s)
  rw [if_neg hholder] at hport
  exact hi.outs_changed (i := .clkRelease w n sr) (portDenied_false (.inl (portClass_clk n))) ha
    (congrArg (doOut w · sr s) (toNat_clk n).symm) hport keepsIssue_id (reworked_id w _)

/-- The locks of a core that an instruction has given others. -/
theorem locks_changed (k : Core) (l : SMap (Fin 4)) (t : Fin 4) (f : Thread → Thread) :
    ({ (withLocks (fun _ => l) k).updThread t f with still := false, stillFrom := none } : Core).locks = l := rfl

/-- CLFORCE releases the locks that its bits name (R211). -/
theorem clforce_releases (hi : Issues w none s) (ha : Alone w s) (hm : ((slot w s).thread w).mode = true) :
    Yields (.clforce w sr) s (fun t =>
      (∀ m < 32, sget m (t.hw.core w.core).locks =
        if (outValue w sr s).getLsbD m then none else sget m ((slot w s).core w.core).locks) ∧
      ((outValue w sr s).getLsbD n.val = true → sget n.val ((slot w s).core w.core).locks ≠ none →
        Follows t.hw t.hw.clock (.lockFree w.core (.core n))) ∧
      (t.hw.thread w).pc = ((slot w s).thread w).pc + 4 ∧ t.mem = s.mem) := by
  have hport := portWrite_clforce (.thread w.thread) w.core (outValue w sr s) (slot w s)
  have hx := (locksFreed_nil w (outValue w sr s) (slot w s)).foldl (List.finRange 32)
  generalize (List.finRange 32).foldl _ (slot w s) = x at hx hport
  obtain ⟨t, ht, hc, hl⟩ := hi.outs_reworked (i := .clforce w sr) (p := 0x522) (portDenied_false (.inr hm)) ha rfl hport keepsIssue_id hx.reworked
  have hall : ∀ m : Fin 32, m ∈ (List.finRange 32).reverse ++ [] := fun m => by simp
  refine ⟨t, ht, fun m hm => ?_, fun hbit hheld => ?_, ?_, hc.mem⟩
  · have hlocks := hx.locks ⟨m, hm⟩
    simp only [hall, true_and] at hlocks
    rw [hc.core, locks_changed]
    exact hlocks
  · rw [Follows, hl, hc.clock]
    exact hx.told n (hall n) hbit hheld
  · exact hc.pc (congrArg Thread.pc (thread_withLocks ..))

/-- Core locks. -/
theorem coreLocks : CoreLocks := by
  intro w d n sr s hi k port holder answers
  refine ⟨fun hfree => ?_, fun hmine => ?_, fun u hu hother => ?_, fun ha hmine => clkRelease_holder hi ha hmine,
    fun ha hother => clkRelease_other hi ha hother, fun ha hm => clforce_releases hi ha hm⟩
  · exact clkAcquire_answers hi (r := 1) (l := sset n.val w.thread) (by rw [show sget n.val _ = none from hfree]; rfl) (by decide) (fun _ => rfl)
  · exact clkAcquire_answers hi (r := 2) (l := id) (by rw [show sget n.val _ = some w.thread from hmine, lockResult, if_pos rfl]) (by decide) (fun _ => rfl)
  · exact clkAcquire_answers hi (r := 0) (l := id) (by rw [show sget n.val _ = some u from hother, lockResult, if_neg hu]) (by decide) (fun _ => rfl)

end

end Sys2Proof.Claims

namespace Sys2Proof.Machine

/-! ### A bent's lock unit (R209, R210) -/

/-- The requests that wait for a bent's lock unit after a service. -/
def Bent.lockNext (rest : List LockReq) (at_ : Nat) (x : Bent) : Bent := { x with lockReqs := rest, lockFrom := at_ + 1 }

/-- The locks of a bent after an attempt of a thread on one of them. -/
def Bent.lockDecided (l : Fin 256) (w : Who) (x : Bent) : Bent :=
  { x with locks := if lockResult (sget l.val x.locks) w = 1 then sset l.val w x.locks else x.locks }

/-- What the service of a request leaves, of which `rest` still wait. -/
def Hw.lockServed (b : Nat) (q : LockReq) (rest : List LockReq) (at_ : Nat) (h : Hw) : Hw :=
  let r := (h.updBent b (·.lockNext rest at_)).blkAttempt b q.lock q.who
  ((r.2.updThread q.who (fun th => th.setD q.d (BitVec.ofNat 64 r.1))).release q.who 1).updThread q.who
    (fun th => { th with nextIssue := max th.nextIssue (at_ + 8 - (r.2.core q.who.core).cyc0) })

section
variable {b : Nat} {q : LockReq} {rest : List LockReq} {at_ : Nat} {h : Hw}

/-- The unit serves the request that stands first. -/
theorem Hw.blkServe_cons (hq : inOrder lockOrder (h.bent b).lockReqs = q :: rest) :
    h.blkServe b = some (max (q.issued + 8) (h.bent b).lockFrom,
      Hw.lockServed b q rest (max (q.issued + 8) (h.bent b).lockFrom)) := by
  simp only [Hw.blkServe, hq]
  rfl

/-- Without a request it serves none. -/
theorem Hw.blkServe_nil (hq : (h.bent b).lockReqs = []) : h.blkServe b = none := by
  simp [Hw.blkServe, hq, inOrder]

/-- The request that stands first is the oldest, of those of one cycle that of the lowest core. -/
theorem inOrder_lockOrder_first {l : List LockReq} (hq : inOrder lockOrder l = q :: rest) :
    q ∈ l ∧ (∀ r ∈ l, q.issued < r.issued ∨ (q.issued = r.issued ∧ q.who.core.val ≤ r.who.core.val)) ∧
      rest.length + 1 = l.length := by
  have hle : ∀ x y : LockReq, lockOrder x y = true ↔
      x.issued < y.issued ∨ (x.issued = y.issued ∧ x.who.core.val ≤ y.who.core.val) := fun x y => by
    simp [lockOrder]
  have htotal : Std.Total (fun x y : LockReq => lockOrder x y = true) := ⟨fun x y => by rw [hle, hle]; omega⟩
  have htrans : IsTrans LockReq (fun x y => lockOrder x y = true) := ⟨fun x y z => by rw [hle, hle, hle]; omega⟩
  have hperm : (q :: rest).Perm l := hq ▸ List.perm_insertionSort ..
  have hsorted : (q :: rest).Pairwise (fun x y => lockOrder x y = true) := hq ▸ List.pairwise_insertionSort ..
  refine ⟨hperm.subset (List.mem_cons_self ..), fun r hr => (hle q r).mp ?_, hperm.length_eq⟩
  rcases List.mem_cons.mp (hperm.symm.subset hr) with rfl | hrest
  · exact (hle r r).mpr (.inr ⟨rfl, Nat.le_refl _⟩)
  · exact List.rel_of_pairwise_cons hsorted hrest

/-- What the result of a request leaves of its thread. -/
def LockReq.result (q : LockReq) (r : Nat) (th : Thread) : Thread := (th.recordLock r (.bent q.lock)).setD q.d (BitVec.ofNat 64 r)

/-- An attempt at the unit records its result in its thread. -/
theorem Hw.core_blkAttempt (h : Hw) (b : Nat) (l : Fin 256) (w : Who) (c : Nat) :
    (h.blkAttempt b l w).2.core c =
      (h.updThread w (·.recordLock (lockResult (sget l.val (h.bent b).locks) w) (.bent l))).core c := by
  unfold Hw.blkAttempt
  dsimp only
  split <;> rfl

/-- Its result. -/
theorem Hw.blkAttempt_result (h : Hw) (b : Nat) (l : Fin 256) (w : Who) :
    (h.blkAttempt b l w).1 = lockResult (sget l.val (h.bent b).locks) w := rfl

/-- It takes the lock when its result is 1. -/
theorem Hw.bent_blkAttempt (h : Hw) (b : Nat) (l : Fin 256) (w : Who) :
    (h.blkAttempt b l w).2.bent b = (h.bent b).lockDecided l w := by
  have hdecided : ∀ x : Bent, ∀ r, (if r = 1 then { x with locks := sset l.val w x.locks } else x) =
      { x with locks := if r = 1 then sset l.val w x.locks else x.locks } := fun x r => by split <;> rfl
  rw [Bent.lockDecided, ← hdecided]
  unfold Hw.blkAttempt
  dsimp only
  split
  · exact Hw.bent_updBent_self ..
  · rfl

/-- It leaves clock and effects on their way. -/
theorem Hw.blkAttempt_keeps (h : Hw) (b : Nat) (l : Fin 256) (w : Who) :
    (h.blkAttempt b l w).2.clock = h.clock ∧ (h.blkAttempt b l w).2.later = h.later := by
  unfold Hw.blkAttempt
  dsimp only
  split <;> exact ⟨rfl, rfl⟩

/-- A thread whose instruction an event ends. -/
theorem Hw.thread_updThread_release (h : Hw) (w : Who) (f g : Thread → Thread) :
    (((h.updThread w f).release w 1).updThread w g).thread w = g ((f (h.thread w)).synced (h.cycle w.core)) := by
  have hcycle : (h.updThread w f).cycle w.core = h.cycle w.core := by
    simp only [Hw.cycle, Hw.updThread, Hw.core_updCore_self]
    rfl
  rw [Hw.thread_updThread_self, Hw.thread, Hw.thread_release_self, hcycle, ← Hw.thread_updThread_self h w f]
  rfl

/-- The clock at which its core's CYCLE was 0 stays. -/
theorem Hw.cyc0_updThread_release (h : Hw) (w : Who) (f g : Thread → Thread) :
    ((((h.updThread w f).release w 1).updThread w g).core w.core).cyc0 = (h.core w.core).cyc0 := by
  have hrelease := congrArg Core.cyc0 (synced_release w.core w.thread 1 (h.updThread w f)).rest
  have hupd : ((h.updThread w f).core w.core).cyc0 = (h.core w.core).cyc0 := by
    rw [Hw.updThread, Hw.core_updCore_self]
    rfl
  rw [Hw.updThread, Hw.core_updCore_self]
  exact hrelease.trans hupd

/-- What a served request leaves of its thread. -/
theorem Hw.thread_lockServed : ∃ cyc n, (h.lockServed b q rest at_).thread q.who =
      { (q.result (lockResult (sget q.lock.val (h.bent b).locks) q.who) (h.thread q.who)).synced cyc with nextIssue := n } ∧
    at_ + 8 ≤ ((h.lockServed b q rest at_).core q.who.core).cyc0 + n := by
  have hthread : (((h.updBent b (·.lockNext rest at_)).blkAttempt b q.lock q.who).2.thread q.who) =
      (h.thread q.who).recordLock (lockResult (sget q.lock.val (h.bent b).locks) q.who) (.bent q.lock) := by
    rw [Hw.thread, Hw.core_blkAttempt, ← Hw.thread, Hw.thread_updThread_self, Hw.bent_updBent_self]
    rfl
  have hresult : ((h.updBent b (·.lockNext rest at_)).blkAttempt b q.lock q.who).1 =
      lockResult (sget q.lock.val (h.bent b).locks) q.who := by
    rw [Hw.blkAttempt_result, Hw.bent_updBent_self]
    rfl
  refine ⟨?cyc, ?n, ?thread, ?issue⟩
  case thread =>
    rw [Hw.lockServed, Hw.thread_updThread_release, hthread, hresult]
    rfl
  case issue =>
    rw [Hw.lockServed, Hw.cyc0_updThread_release]
    omega

/-- What a served request leaves of its bent. -/
theorem Hw.bent_lockServed :
    (h.lockServed b q rest at_).bent b = ((h.bent b).lockNext rest at_).lockDecided q.lock q.who := by
  rw [Hw.lockServed, Hw.bent_updThread, (synced_release ..).bent, Hw.bent_updThread, Hw.bent_blkAttempt, Hw.bent_updBent_self]

/-- It leaves clock and effects on their way. -/
theorem Hw.lockServed_keeps : (h.lockServed b q rest at_).clock = h.clock ∧ (h.lockServed b q rest at_).later = h.later := by
  obtain ⟨hclock, hlater⟩ := Hw.blkAttempt_keeps (h.updBent b (·.lockNext rest at_)) b q.lock q.who
  simp only [Hw.lockServed, Hw.release, Hw.noted, Hw.updThread_clock, Hw.updCore_clock, Hw.updThread_later, Hw.updCore_later, hclock,
    hlater, Hw.updBent_clock, Hw.updBent_later, and_self]

/-- A change of a thread that leaves it without a prefix leaves every thread without one that had none. -/
theorem Hw.pfx_updThread {w v : Who} {f : Thread → Thread} (hf : ∀ th, th.pfx = none → (f th).pfx = none)
    (hv : (h.thread v).pfx = none) : ((h.updThread w f).thread v).pfx = none := by
  obtain ⟨c, t⟩ := v
  by_cases hc : c = w.core
  case pos =>
    subst hc
    by_cases ht : t = w.thread
    · subst ht
      rw [Hw.thread_updThread_self]
      exact hf _ hv
    · exact (congrArg Thread.pfx (Hw.thread_updThread_other h w ht f)).trans hv
  case neg =>
    have hcore := Hw.core_updThread_ne (h := h) w (fun hval => hc (Fin.ext hval)) f
    exact (congrArg (fun k : Core => (k.thread t).pfx) hcore).trans hv

/-- What the stillness detector notes concerns no thread. -/
theorem Hw.thread_noted_eq (h : Hw) (c : CoreId) (v : Who) : (h.noted c).thread v = h.thread v := by
  by_cases hv : v.core.val = c.val
  · rw [Hw.noted, Hw.thread, hv, Hw.core_updCore_self, Core.thread_noted, Hw.thread, hv]
  · rw [Hw.noted, Hw.thread, Hw.core_updCore_ne _ hv, Hw.thread]

/-- A served request leaves no prefix that was not there. -/
theorem Hw.pfx_lockServed {v : Who} (hv : (h.thread v).pfx = none) : ((h.lockServed b q rest at_).thread v).pfx = none := by
  have hasked : (((h.updBent b (·.lockNext rest at_)).blkAttempt b q.lock q.who).2.thread v).pfx = none := by
    rw [Hw.thread, Hw.core_blkAttempt]
    exact Hw.pfx_updThread (h := h.updBent b (·.lockNext rest at_)) (fun _ => id) hv
  rw [Hw.lockServed]
  refine Hw.pfx_updThread (fun _ => id) ?_
  rw [Hw.release, Hw.thread_noted_eq]
  refine Hw.pfx_updThread (fun th hth => ?_) (Hw.pfx_updThread (fun _ => id) hasked)
  split
  · exact hth
  · unfold Thread.finish Thread.boundary
    split <;> rfl

/-- The decisions before a release leave clock and effects on their way, and no prefix that was not there. -/
theorem Hw.decideAll_keeps (b fuel : Nat) (h : Hw) : (Hw.decideAll b fuel h).clock = h.clock ∧
    (Hw.decideAll b fuel h).later = h.later ∧
    ∀ v : Who, (h.thread v).pfx = none → ((Hw.decideAll b fuel h).thread v).pfx = none := by
  induction fuel generalizing h with
  | zero => exact ⟨rfl, rfl, fun _ => id⟩
  | succ fuel ih =>
    rw [Hw.decideAll]
    cases hq : inOrder lockOrder (h.bent b).lockReqs with
    | nil =>
      have hserve : h.blkServe b = none := by simp only [Hw.blkServe, hq]
      rw [hserve]
      exact ⟨rfl, rfl, fun _ => id⟩
    | cons q rest =>
      rw [Hw.blkServe_cons hq]
      obtain ⟨hclock, hlater, hpfx⟩ := ih (h.lockServed b q rest (max (q.issued + 8) (h.bent b).lockFrom))
      obtain ⟨hclock', hlater'⟩ :=
        Hw.lockServed_keeps (b := b) (q := q) (rest := rest) (at_ := max (q.issued + 8) (h.bent b).lockFrom) (h := h)
      exact ⟨hclock.trans hclock', hlater.trans hlater', fun v hv => hpfx v (Hw.pfx_lockServed hv)⟩

/-- Without a request there is nothing to decide. -/
theorem Hw.decideAll_nil (hq : (h.bent b).lockReqs = []) (fuel : Nat) : Hw.decideAll b fuel h = h := by
  cases fuel with
  | zero => rfl
  | succ fuel => rw [Hw.decideAll, Hw.blkServe_nil hq]

/-! ### Effects put on their way (log entry 81) -/

/-- From `h` to `x` effects have been put on their way, and nothing else has changed. -/
def Hw.Queues (h x : Hw) : Prop := ∃ l, x = { h with later := l } ∧ h.later ⊆ l

/-- Nothing has changed. -/
theorem Hw.Queues.refl (h : Hw) : h.Queues h := ⟨_, rfl, List.Subset.refl _⟩

/-- Threads, bents and clock are as they were. -/
theorem Hw.Queues.same {x : Hw} (hx : h.Queues x) :
    (∀ v, x.thread v = h.thread v) ∧ (∀ b, x.bent b = h.bent b) ∧ x.clock = h.clock := by
  obtain ⟨l, rfl, -⟩ := hx
  exact ⟨fun _ => rfl, fun _ => rfl, rfl⟩

/-- An effect of a cycle that has not passed is put on its way. -/
theorem Hw.queues_after {t : Nat} (ht : h.clock ≤ t) (e : Later) : h.Queues (h.after t e) := by
  rw [Hw.after_ahead ht]
  exact ⟨_, rfl, fun _ hx => Hw.mem_enqueue_of_mem hx t e⟩

/-- One after the other. -/
theorem Hw.Queues.trans {x y : Hw} (hx : h.Queues x) (hy : x.Queues y) : h.Queues y := by
  obtain ⟨l, rfl, hl⟩ := hx
  obtain ⟨l', rfl, hl'⟩ := hy
  exact ⟨l', rfl, List.Subset.trans hl hl'⟩

/-- The effects of a list are put on their way. -/
theorem Hw.queues_foldl_after {α : Type} (e : α → Later) (l : List α) (h : Hw) :
    h.Queues (l.foldl (fun h a => h.after (h.clock + 1) (e a)) h) ∧
      ∀ a ∈ l, (h.clock + 1, e a) ∈ (l.foldl (fun h a => h.after (h.clock + 1) (e a)) h).later := by
  induction l generalizing h with
  | nil => exact ⟨.refl h, fun a ha => absurd ha List.not_mem_nil⟩
  | cons a l ih =>
    have hfirst : h.Queues (h.after (h.clock + 1) (e a)) := Hw.queues_after (Nat.le_succ h.clock) (e a)
    obtain ⟨hrest, hmem⟩ := ih (h.after (h.clock + 1) (e a))
    refine ⟨hfirst.trans hrest, fun x hx => ?_⟩
    obtain ⟨m, hm, -⟩ := hfirst
    have hclock : (h.after (h.clock + 1) (e a)).clock = h.clock := by rw [hm]
    rcases List.mem_cons.mp hx with rfl | hx
    · obtain ⟨n, hn, hsub⟩ := hrest
      rw [List.foldl_cons, hn]
      exact hsub (Hw.mem_after (Nat.le_succ _) _)
    · rw [← hclock]
      exact hmem x hx

end

end Sys2Proof.Machine

namespace Sys2Proof.Claims

open Sys2Proof.Machine

/-! ### Bent locks (R209, R210, R211) -/

/-- A stalled instruction that an event ends leaves the registers, and PC stands behind it. -/
theorem synced_ended (th : Thread) (cyc : Nat) : (th.synced cyc).d = th.d ∧ (th.synced cyc).stall = none ∧
    (th.synced cyc).pc = th.pc + 4 ∧ (th.pfx = none → (th.synced cyc).pfx = none) := by
  unfold Thread.synced
  split
  · exact ⟨rfl, rfl, rfl, id⟩
  · refine ⟨?_, Thread.stall_finish .., Thread.pc_finish .., fun _ => ?_⟩ <;>
    · unfold Thread.finish Thread.boundary
      split <;> rfl

/-- An attempt on a lock that has a holder does not take it. -/
theorem lockResult_held {α : Type} [DecidableEq α] {holder : Option α} (hh : holder ≠ none) (me : α) : lockResult holder me ≠ 1 := by
  cases holder with
  | none => exact absurd rfl hh
  | some o => unfold lockResult; dsimp only; split <;> decide

/-- The lock unit. -/
theorem lockUnitServes : LockUnitServes := by
  intro b s hreqs
  obtain ⟨q, rest, hq⟩ : ∃ q rest, inOrder lockOrder (s.hw.bent b).lockReqs = q :: rest := by
    refine List.exists_cons_of_ne_nil fun hnil => hreqs ?_
    exact List.length_eq_zero_iff.mp ((List.length_insertionSort ..).symm.trans (congrArg List.length hnil))
  obtain ⟨hmem, hfirst, hlength⟩ := inOrder_lockOrder_first hq
  refine ⟨q, hmem, hfirst, ?_⟩
  intro at_ x holder
  have hserve : bentLockServe b s.hw = x.lockServed b q rest at_ := by rw [bentLockServe, Hw.blkServe_cons hq]
  refine acts_of (i := .bentLockServe b) rfl hserve ?_
  obtain ⟨cyc, n, hthread, hissue⟩ := Hw.thread_lockServed (b := b) (q := q) (rest := rest) (at_ := at_) (h := x)
  have hbent := Hw.bent_lockServed (b := b) (q := q) (rest := rest) (at_ := at_) (h := x)
  have hclock := (Hw.lockServed_keeps (b := b) (q := q) (rest := rest) (at_ := at_) (h := x)).1
  obtain ⟨hd, hstall, hpc, -⟩ := synced_ended (q.result (lockResult holder q.who) (x.thread q.who)) cyc
  refine ⟨?_, fun hfree => ?_, fun hheld => ?_, ?_, ?_, ?_, ?_, ?_, hclock.trans (Hw.clock_event ..)⟩
  · rw [hthread]
    have hread : (q.result (lockResult holder q.who) (x.thread q.who)).getD q.d = BitVec.ofNat 64 (lockResult holder q.who) :=
      Thread.getD_setD_self ..
    refine ((congrArg (fun v : Vector W64 32 => v[q.d]) hd).trans hread).trans ?_
    cases holder with
    | none => rfl
    | some o => unfold lockResult; dsimp only; split <;> rfl
  · rw [hbent]
    have hone : lockResult holder q.who = 1 := by rw [hfree]; rfl
    exact (congrArg (sget q.lock.val) (if_pos hone)).trans (sget_sset_self ..)
  · rw [hbent]
    exact if_neg (lockResult_held hheld q.who)
  · rw [hbent]
    exact hlength
  · rw [hbent]
    rfl
  · rw [hthread]
    exact hstall
  · rw [hthread]
    exact hpc
  · have hnext : ((x.lockServed b q rest at_).thread q.who).nextIssue = n := congrArg Thread.nextIssue hthread
    rw [hnext]
    exact hissue

/-- Notices of freed locks. -/
theorem lockNotices : LockNotices := by
  intro c l h t th
  show ((h.updCore c (·.lockNotice l)).core c).thread t = _
  rw [Hw.core_updCore_self, Core.lockNotice, Core.thread_updThreads]
  rfl

section
variable {w : Who} {d sr : Fin 32} {l : Fin 256} {s : State} {b : Nat} {x z : Hw}

/-- The lock that BLSEL names. -/
theorem bl_eq {th : Thread} (hl : l.val = th.blsel.toNat) : th.bl = l := by
  rw [Thread.bl, ← hl]
  exact Fin.ext (Nat.mod_eq_of_lt l.isLt)

/-- A stall leaves what a change of a bent has left. -/
theorem settle_updBent (h : Hw) (b : Nat) (g : Bent → Bent) (w : Who) (f : Form) (m : Mem) (r : Stall) (on : Nat) :
    (h.updBent b g).settle w f m (.stall r on) = (h.settle w f m (.stall r on)).updBent b g := rfl

/-- A stall leaves the bents. -/
theorem bent_settle_stall (h : Hw) (w : Who) (f : Form) (m : Mem) (r : Stall) (on : Nat) (b : Nat) :
    (h.settle w f m (.stall r on)).bent b = h.bent b := rfl

/-- A change of a bent concerns no core. -/
theorem Left.updBent {g : Thread → Thread} {h : Hw} (hh : Left w g s { s with hw := h }) (b : Nat) (f : Bent → Bent) :
    Left w g s { s with hw := h.updBent b f } := ⟨hh.thread, hh.threads, hh.core, hh.cores, hh.clock, rfl, rfl⟩

/-- A listed key is among the keys. -/
theorem mem_keys_of_sget {α : Type} {k : Nat} {v : α} {m : SMap α} (hk : sget k m = some v) : k ∈ m.map (·.1) := by
  induction m with
  | nil => simp [sget] at hk
  | cons p rest ih =>
    obtain ⟨j, u⟩ := p
    by_cases hj : j = k
    · simp [hj]
    · rw [sget, if_neg hj] at hk
      exact List.mem_cons_of_mem _ (ih hk)

/-- A request goes to the lock unit, and its thread stalls. -/
theorem blkRequest_stalls (hi : Issues w none s) (hl : l.val = ((slot w s).thread w).blsel.toNat) :
    Yields (.blkRequest w d) s (fun t => Left w (stalled w s .lock 0) s t ∧ (t.hw.bent (w.core.val / 44)).lockReqs =
      ((slot w s).bent (w.core.val / 44)).lockReqs ++ [{ who := w, d := d, lock := l, issued := (slot w s).clock }]) := by
  have hin : inPort w d 0x531 (slot w s) = (.stall .lock 0, (slot w s).updBent (w.core.val / 44) (fun x =>
      { x with lockReqs := x.lockReqs ++ [{ who := w, d := d, lock := l, issued := (slot w s).clock }] })) := by
    rw [inPort, portDenied_false (.inl (by decide)), ← bl_eq hl]
    rfl
  refine ⟨_, (rfl : exec (.blkRequest w d) s = doIn w d 0x531 s), ?_⟩
  rw [hi.runInstr (.inl rfl), hin, settle_updBent]
  refine ⟨(hi.left_stall (inForm w d (some 0x531) []) (r := .lock) 0 (.inl rfl)).updBent _ _, ?_⟩
  rw [Hw.bent_updBent_self, bent_settle_stall]

/-- The end of an instruction leaves bents and effects on their way. -/
theorem settle_done_keeps (h : Hw) (w : Who) (f : Form) (m : Mem) :
    (∀ b, (h.settle w f m (.done 1)).bent b = h.bent b) ∧ (h.settle w f m (.done 1)).later = h.later := ⟨fun _ => rfl, rfl⟩

/-- A freed bent lock has no holder, and the cores of its bent are told. -/
theorem blkFree_frees (hl : sget l.val (x.bent b).locks ≠ none) : ∃ y, (x.updBent b (fun z => { z with locks := sdel l.val z.locks })).Queues y ∧
    x.blkFree b l = y ∧ ∀ (c : CoreId) (k : Core), sget c.val x.cores = some k → c.val / 44 = b →
      (x.clock + 1, Later.lockFree c (.bent l)) ∈ y.later := by
  obtain ⟨hqueues, hmem⟩ := Hw.queues_foldl_after (fun c => Later.lockFree (coreId c) (.bent l))
    ((x.cores.map (·.1)).filter (fun c => bentOf c == b)) (x.updBent b (fun z => { z with locks := sdel l.val z.locks }))
  refine ⟨_, hqueues, ?_, fun c k hk hb => ?_⟩
  · rw [Hw.blkFree, if_pos (Option.isSome_iff_ne_none.mpr hl)]
  · have hmine : c.val ∈ (x.cores.map (·.1)).filter (fun c => bentOf c == b) :=
      List.mem_filter.mpr ⟨mem_keys_of_sget hk, beq_iff_eq.mpr hb⟩
    have htold := hmem c.val hmine
    rw [coreId_val] at htold
    exact htold

/-- What the end of an OUT leaves of `z`, the state that its port write has left. -/
structure OutEnds (w : Who) (s : State) (z : Hw) (t : State) : Prop where
  bent : ∀ b, t.hw.bent b = z.bent b
  later : t.hw.later = z.later
  clock : t.hw.clock = z.clock
  pc : (t.hw.thread w).pc = (z.thread w).pc + 4
  mem : t.mem = s.mem

/-- An OUT whose port write leaves its thread without a prefix. -/
theorem Issues.outs_ends {i : Instr} {p : BitVec 16} (hi : Issues w none s)
    (hp : portDenied ((slot w s).thread w) p.toNat = false) (ha : Alone w s) (he : exec i s = doOut w p.toNat sr s)
    (hport : portWrite (.thread w.thread) w.core p.toNat (outValue w sr s) (slot w s) = (.done 1, z))
    (hz : (z.thread w).pfx = none) : Yields i s (OutEnds w s z) := by
  refine ⟨_, he, ?_⟩
  rw [hi.runInstr (.inl rfl), ← outValue, outPort_alone hp ha, hport]
  obtain ⟨hbent, hlater⟩ := settle_done_keeps z w (outForm w sr (some p.toNat) []) s.mem
  refine ⟨hbent, hlater, Hw.clock_settle .., ?_, rfl⟩
  exact (congrArg Thread.pc (Hw.thread_settle_done hz _ _)).trans (Hw.settled_done hz _ _).1

/-- A thread's write of BLK releases the lock that BLSEL names, where it holds it. -/
theorem portWrite_blk (w : Who) (v : W32) (h : Hw) : portWrite (.thread w.thread) w.core (0x531 : BitVec 16).toNat v h =
    (.done 1, h.blkRelease (w.core.val / 44) (h.thread w).bl w) := rfl

/-- A write of BLFORCE releases it, whoever holds it. -/
theorem portWrite_blforce (w : Who) (v : W32) (h : Hw) : portWrite (.thread w.thread) w.core (0x533 : BitVec 16).toNat v h =
    (.done 1, h.blkForce (w.core.val / 44) (h.thread w).bl) := rfl

/-- What the end of an OUT that has freed a bent lock leaves. -/
theorem OutEnds.freed {t : State} (ht : OutEnds w s (x.blkFree b l) t) (hl : sget l.val (x.bent b).locks ≠ none) :
    sget l.val (t.hw.bent b).locks = none ∧ (∀ m, m ≠ l.val → sget m (t.hw.bent b).locks = sget m (x.bent b).locks) ∧
      (∀ (c : CoreId) (k : Core), sget c.val x.cores = some k → c.val / 44 = b → Follows t.hw t.hw.clock (.lockFree c (.bent l))) ∧
      (t.hw.thread w).pc = (x.thread w).pc + 4 ∧ t.mem = s.mem := by
  obtain ⟨y, hqueues, hy, htold⟩ := blkFree_frees hl
  obtain ⟨hthread, hbent, hclock⟩ := hqueues.same
  rw [hy] at ht
  have hlocks : (t.hw.bent b).locks = sdel l.val (x.bent b).locks := by rw [ht.bent, hbent, Hw.bent_updBent_self]
  rw [hlocks]
  refine ⟨sget_sdel_self .., fun m hm => sget_sdel_ne hm _, fun c k hk hb => ?_, ?_, ht.mem⟩
  · rw [Follows, ht.later, ht.clock, hclock]
    exact htold c k hk hb
  · rw [ht.pc, hthread]
    rfl

/-- A freed bent lock leaves the threads. -/
theorem thread_blkFree (x : Hw) (b : Nat) (l : Fin 256) (v : Who) : (x.blkFree b l).thread v = x.thread v := by
  by_cases hl : sget l.val (x.bent b).locks = none
  · rw [Hw.blkFree, hl]
    rfl
  · obtain ⟨y, hqueues, hy, -⟩ := blkFree_frees hl
    rw [hy, hqueues.same.1]
    rfl

/-- Bent locks. -/
theorem bentLocks : BentLocks := by
  intro w d sr l s hi hl b x
  refine ⟨blkRequest_stalls hi hl, fun ha => ?_⟩
  have hpfx : (x.thread w).pfx = none := (Hw.decideAll_keeps b 176 (slot w s)).2.2 w hi.pfx
  have hpfx' : ((x.blkFree b l).thread w).pfx = none := (congrArg Thread.pfx (thread_blkFree ..)).trans hpfx
  have hport := portWrite_blk w (outValue w sr s) (slot w s)
  rw [bl_eq hl] at hport
  refine ⟨fun hmine => ?_, fun hother => ?_, fun hm hheld => ?_, fun hnone => Hw.decideAll_nil hnone 176⟩
  · rw [Hw.blkRelease, if_pos hmine] at hport
    obtain ⟨t, ht, hend⟩ := hi.outs_ends (i := .blkRelease w sr) (p := 0x531) (portDenied_false (.inl (by decide))) ha rfl hport hpfx'
    exact ⟨t, ht, hend.freed (by rw [hmine]; exact Option.some_ne_none _)⟩
  · rw [Hw.blkRelease, if_neg hother] at hport
    obtain ⟨t, ht, hend⟩ := hi.outs_ends (i := .blkRelease w sr) (p := 0x531) (portDenied_false (.inl (by decide))) ha rfl hport hpfx
    exact ⟨t, ht, hend.bent b, hend.pc, hend.mem⟩
  · have hforce := portWrite_blforce w (outValue w sr s) (slot w s)
    rw [bl_eq hl] at hforce
    obtain ⟨t, ht, hend⟩ := hi.outs_ends (i := .blforce w sr) (p := 0x533) (portDenied_false (.inr hm)) ha rfl hforce hpfx'
    exact ⟨t, ht, OutEnds.freed hend hheld⟩

/-- Settles O28: an attempt answers by the lock's holder, the unit serves the head of its sorted requests, and what a release tells the
threads waits in the queue of effects. -/
theorem locksAreTakenAndReleased : Obligations.LocksAreTakenAndReleased := ⟨coreLocks, bentLocks, lockUnitServes, lockNotices⟩

end

end Sys2Proof.Claims

namespace Sys2Proof.Machine

/-! ### What the stop and the scrub of a reset leave

Engines that catch up, units that end and traffic in the mesh leave what a reset keeps of the machine. -/

/-- What a reset keeps of a core until it stops it: its hold, the clock of its CYCLE, the cut that it runs, and its channel epochs. -/
def Core.standing (k : Core) : Bool × Nat × Option Nat × Vector Nat 16 := (k.held, k.cyc0, k.runsCut, k.tenons.map (·.epoch))

/-- What a reset keeps of the machine beside its cores. -/
structure Lasting where
  clock : Nat
  fcyc0 : Nat
  resets : List ResetOp
  postMortem : Bool
  firm : Firm
  conf : Conf
  cap : Nat
  budget : Nat
  segs : BitVec 16
  afterReset : List (Nat × Nat × List W64)
  ues : Nat → List Nat

/-- What a reset keeps of the machine beside its cores. -/
def Hw.lasting (h : Hw) : Lasting :=
  ⟨h.clock, h.fcyc0, h.resets, h.postMortem, h.firm, h.conf, h.le.cap, h.le.budget, h.le.runnerSegs, h.net.afterReset,
    fun b => (h.bent b).sliceUe⟩

section
variable (k : Core)

/-- A list of steps none of which changes `p`. -/
theorem foldl_fixes {α β γ : Type} (p : β → γ) {f : β → α → β} (hf : ∀ b a, p (f b a) = p b) (l : List α) (b : β) :
    p (l.foldl f b) = p b := by
  induction l generalizing b with
  | nil => rfl
  | cons a l ih => exact (ih _).trans (hf b a)

/-- A change of a tenon outside its epoch. -/
theorem Core.standing_updTenon (n : Fin 16) {f : Tenon → Tenon} (hf : ∀ x, (f x).epoch = x.epoch) :
    (k.updTenon n f).standing = k.standing := by
  have hepochs : (k.tenons.set n (f k.tenons[n])).map (·.epoch) = k.tenons.map (·.epoch) := by
    apply Vector.ext
    intro i hi
    simp only [Vector.getElem_map, Vector.getElem_set]
    split
    case isTrue hni => subst hni; exact hf _
    case isFalse => rfl
  exact congrArg (fun v => (k.held, k.cyc0, k.runsCut, v)) hepochs

/-- The stillness count. -/
theorem Core.standing_noted (n : Nat) : (k.noted n).standing = k.standing := by
  unfold Core.noted
  dsimp only
  split <;> rfl

/-- A tenon's stall counter. -/
theorem Core.standing_unstall (n : Fin 16) : (k.unstall n).standing = k.standing := by
  unfold Core.unstall
  split
  · rfl
  · exact k.standing_updTenon n (fun _ => rfl)

/-- The stall counter of a stream's tenon. -/
theorem Core.standing_streamStalls : k.streamStalls.standing = k.standing := by
  unfold Core.streamStalls
  split
  · rfl
  · split
    · exact k.standing_updTenon _ (fun _ => rfl)
    · exact k.standing_unstall _

/-- A set of a CINV walk. -/
theorem Core.standing_cinvSet (v : Cinv) : (k.cinvSet v).standing = k.standing := by
  have hevict := fun l : List CLine => foldl_fixes Core.standing (f := fun k l => k.evict l.key l.data l.mask) (fun _ _ => rfl) l k
  unfold Core.cinvSet
  dsimp only
  split <;> exact hevict _

/-- A CINV walk. -/
theorem Core.standing_cinvTo (cyc : Nat) : (k.cinvTo cyc).standing = k.standing := by
  refine foldl_fixes Core.standing (fun k _ => ?_) _ k
  dsimp only
  split
  · split
    · exact Core.standing_cinvSet ..
    · rfl
  · rfl

/-- A row that a drain writes. -/
theorem Core.standing_drainWrite (d : DrainRun) : (k.drainWrite d).1.standing = k.standing := by
  unfold Core.drainWrite
  split <;> rfl

/-- The rows of a drain. -/
theorem Core.standing_drainOne (side cyc : Nat) (d : DrainRun) : (k.drainOne side cyc d).1.standing = k.standing := by
  unfold Core.drainOne
  refine (foldl_fixes (fun x : Core × DrainRun => x.1.standing) (fun x _ => Core.standing_drainWrite ..) _ _).trans ?_
  exact foldl_fixes (fun x : Core × DrainRun => x.1.standing) (f := fun x _ => x.1.drainRead side x.2) (fun _ _ => rfl) _ _

/-- The drains of a core. -/
theorem Core.standing_drainTo (side cyc : Nat) : (k.drainTo side cyc).standing = k.standing := by
  refine foldl_fixes Core.standing (fun k d => ?_) k.drains { k with drains := [] }
  dsimp only
  split <;> exact Core.standing_drainOne ..

end

/-- From `h` to `x` a machine has come that keeps what a reset keeps: each core what it keeps there, those outside `p` their threads and tiles
too, and the tuples on their way go on. -/
structure Winds (p : Nat → Prop) (h x : Hw) : Prop where
  lasting : x.lasting = h.lasting
  core : ∀ c : Nat, (x.core c).standing = (h.core c).standing
  others : ∀ c : Nat, ¬p c → (x.core c).threads = (h.core c).threads ∧ (x.core c).tiles = (h.core c).tiles
  tuples : ∀ a ∈ h.tuples, ∃ b ∈ x.tuples, b = { a with due := b.due } ∧ a.due ≤ b.due

section
variable {p : Nat → Prop} {h x y : Hw}

/-- No step. -/
theorem Winds.refl (p : Nat → Prop) (h : Hw) : Winds p h h :=
  ⟨rfl, fun _ => rfl, fun _ _ => ⟨rfl, rfl⟩, fun a ha => ⟨a, ha, rfl, Nat.le_refl _⟩⟩

/-- Two steps. -/
theorem Winds.trans (hx : Winds p h x) (hy : Winds p x y) : Winds p h y where
  lasting := hy.lasting.trans hx.lasting
  core c := (hy.core c).trans (hx.core c)
  others c hc := ⟨(hy.others c hc).1.trans (hx.others c hc).1, (hy.others c hc).2.trans (hx.others c hc).2⟩
  tuples a ha := by
    obtain ⟨b, hb, heq, hle⟩ := hx.tuples a ha
    obtain ⟨d, hd, heq', hle'⟩ := hy.tuples b hb
    refine ⟨d, hd, ?_, Nat.le_trans hle hle'⟩
    rw [heq', heq]

/-- A change of fields that no reset keeps. -/
theorem Winds.frame (hx : Winds p h x) (hc : y.cores = x.cores) (hd : y.coreDef = x.coreDef) (hl : y.lasting = x.lasting)
    (ht : y.tuples = x.tuples) : Winds p h y where
  lasting := hl.trans hx.lasting
  core c := by rw [Hw.core_congr hc hd]; exact hx.core c
  others c := by rw [Hw.core_congr hc hd]; exact hx.others c
  tuples := ht ▸ hx.tuples

/-- A change of a core. -/
theorem Winds.updCore (hx : Winds p h x) (c : Nat) {f : Core → Core} (hf : ∀ k, (f k).standing = k.standing)
    (hp : p c ∨ ∀ k, (f k).threads = k.threads ∧ (f k).tiles = k.tiles) : Winds p h (x.updCore c f) := by
  refine hx.trans ⟨rfl, fun d => ?_, fun d hd => ?_, fun a ha => ⟨a, ha, rfl, Nat.le_refl _⟩⟩
  · by_cases hdc : d = c
    · rw [hdc, Hw.core_updCore_self, hf]
    · rw [Hw.core_updCore_ne _ hdc]
  · by_cases hdc : d = c
    · subst hdc
      rw [Hw.core_updCore_self]
      exact hp.resolve_left hd _
    · rw [Hw.core_updCore_ne _ hdc]
      exact ⟨rfl, rfl⟩

/-- A change of every core. -/
theorem Winds.updAllCores (hx : Winds p h x) {f : Core → Core} (hf : ∀ k, (f k).standing = k.standing)
    (hk : ∀ k, (f k).threads = k.threads ∧ (f k).tiles = k.tiles) : Winds p h (x.updAllCores f) := by
  refine hx.trans ⟨rfl, fun d => ?_, fun d _ => ?_, fun a ha => ⟨a, ha, rfl, Nat.le_refl _⟩⟩
  · rw [Hw.core_updAllCores, hf]
  · rw [Hw.core_updAllCores]
    exact hk _

/-- A change of bents that leaves their uncorrectable words. -/
theorem Winds.bents (hx : Winds p h x) {bs : SMap Bent} {bd : Bent}
    (hb : ∀ b, (({ x with bents := bs, bentDef := bd } : Hw).bent b).sliceUe = (x.bent b).sliceUe) :
    Winds p h { x with bents := bs, bentDef := bd } :=
  hx.trans ⟨congrArg (fun u => { x.lasting with ues := u }) (funext hb), fun _ => rfl, fun _ _ => ⟨rfl, rfl⟩,
    fun a ha => ⟨a, ha, rfl, Nat.le_refl _⟩⟩

/-- A change of a bent. -/
theorem Winds.updBent (hx : Winds p h x) (b : Nat) {f : Bent → Bent} (hf : ∀ k, (f k).sliceUe = k.sliceUe) :
    Winds p h (x.updBent b f) := by
  refine hx.bents (bd := x.bentDef) fun d => ?_
  by_cases hd : d = b
  · rw [hd]
    exact (congrArg Bent.sliceUe (Hw.bent_updBent_self x b f)).trans (hf _)
  · exact congrArg Bent.sliceUe (Hw.bent_updBent_ne x hd f)

/-- A change of every bent. -/
theorem Winds.updAllBents (hx : Winds p h x) {f : Bent → Bent} (hf : ∀ k, (f k).sliceUe = k.sliceUe) :
    Winds p h (x.updAllBents f) :=
  hx.bents fun d => (congrArg Bent.sliceUe (Hw.bent_updAllBents x d f)).trans (hf _)

/-- A change of a thread of a core of `p`. -/
theorem Winds.updThread (hx : Winds p h x) (w : Who) (hp : p w.core) (f : Thread → Thread) : Winds p h (x.updThread w f) :=
  hx.updCore w.core (f := (·.updThread w.thread f)) (fun _ => rfl) (.inl hp)

/-- What the stillness detector notes. -/
theorem Winds.noted (hx : Winds p h x) (c : Nat) (hp : p c) : Winds p h (x.noted c) :=
  hx.updCore c (fun k => k.standing_noted _) (.inl hp)

/-- Steps one after the other. -/
theorem winds_foldl {α : Type} {f : Hw → α → Hw} {l : List α} (hf : ∀ h, ∀ a ∈ l, Winds p h (f h a)) (h : Hw) :
    Winds p h (l.foldl f h) := by
  induction l generalizing h with
  | nil => exact .refl p h
  | cons a l ih => exact (hf h a (List.mem_cons_self ..)).trans (ih (fun h b hb => hf h b (List.mem_cons_of_mem _ hb)) _)

/-- A posted flit. -/
theorem Winds.post (hx : Winds p h x) (src dst : Nat) (vc : Fin 4) (n : Nat) : Winds p h (x.post src dst vc n).2 := by
  obtain ⟨i, fs, heq⟩ := x.post_eq src dst vc n
  rw [heq]
  exact hx.frame rfl rfl rfl rfl

/-- A tuple is sent. -/
theorem winds_sendTuple {c : CoreId} (hp : p c) (t : Fin 4) (n : Fin 16) (words : List W64) (tag : BitVec 6) (stream : Bool) (now : Nat)
    (h : Hw) : Winds p h (h.sendTuple c t n words tag stream now) := by
  have hten : Winds p h (h.updCore c (·.updTenon n (fun x => { x with credits := x.credits - 1 }))) :=
    (Winds.refl p h).updCore c (fun k => k.standing_updTenon n (fun _ => rfl)) (.inl hp)
  have happend : ∀ (x : Hw) (u : Tuple), Winds p h x → Winds p h { x with tuples := x.tuples ++ [u] } := fun x u hx =>
    hx.trans ⟨rfl, fun _ => rfl, fun _ _ => ⟨rfl, rfl⟩, fun a ha => ⟨a, List.mem_append_left _ ha, rfl, Nat.le_refl _⟩⟩
  unfold Hw.sendTuple
  dsimp only
  split
  · refine Winds.updBent (Winds.post (Winds.updThread (hten.updCore c (fun k => ?_) (.inl hp)) _ hp _) _ _ _ _) _ (fun _ => ?_)
    all_goals rfl
  · exact happend _ _ ((hten.updThread _ hp _).post _ _ _ _)

/-- A tuple of the stream is complete. -/
theorem winds_streamStep {c : CoreId} (hp : p c) (cyc : Nat) (h : Hw) : Winds p h (h.streamStep c cyc) := by
  have hrefl := Winds.refl p h
  unfold Hw.streamStep
  split
  · exact hrefl
  · split
    · exact ((hrefl.updCore c (f := fun k => { k with stream := none }) (fun _ => rfl) (.inl hp)).updThread _ hp _).noted _ hp
    · exact hrefl.updCore c (fun _ => rfl) (.inl hp)

/-- What the stream unit does next. -/
theorem winds_streamNext {c : CoreId} (hp : p c) {cyc : Nat} (hx : streamNext c cyc h = some x) : Winds p h x := by
  have hupd : ∀ f : StreamJob → StreamJob, Winds p h (h.updCore c (·.updStream f)) := fun f =>
    (Winds.refl p h).updCore c (fun _ => rfl) (.inl hp)
  have hsend : ∀ (f : StreamJob → StreamJob) t n words tag now at_,
      Winds p h (((h.updCore c (·.updStream f)).sendTuple c t n words tag true now).streamStep c at_) := fun f t n words tag now at_ =>
    ((hupd f).trans (winds_sendTuple hp ..)).trans (winds_streamStep hp ..)
  unfold streamNext at hx
  dsimp only at hx
  split at hx
  · nomatch hx
  · split at hx
    · split at hx
      · nomatch hx
      · split at hx
        · split at hx
          · nomatch hx
          · exact Option.some.inj hx ▸ hsend ..
        · exact Option.some.inj hx ▸ hsend ..
    · split at hx
      · nomatch hx
      · split at hx
        · nomatch hx
        · exact Option.some.inj hx ▸ (hupd _).trans (winds_streamStep hp ..)

/-- All that it does by a CYCLE value. -/
theorem winds_streamRun {c : CoreId} (hp : p c) (cyc fuel : Nat) (h : Hw) : Winds p h (streamRun c cyc fuel h) := by
  induction fuel generalizing h with
  | zero => exact .refl p h
  | succ fuel ih =>
    rw [streamRun]
    split
    case h_1 x hx => exact (winds_streamNext hp hx).trans (ih x)
    case h_2 => exact .refl p h

/-- The engines of a core catch up. -/
theorem winds_caughtUp {c : CoreId} (hp : p c) (h : Hw) : Winds p h (h.caughtUp c) := by
  have hstream : ∀ x n, Winds p x (x.stream c n) := fun x n => by
    unfold Hw.stream
    split
    · exact .refl p x
    · exact ((winds_streamRun hp ..).updCore c Core.standing_streamStalls (.inl hp)).noted _ hp
  have hcinv : Winds p h (if (h.core c).cinv.isNone then h else h.updCore c (·.cinvTo (h.cycle c - 1))) := by
    split
    · exact .refl p h
    · exact (Winds.refl p h).updCore c (fun k => k.standing_cinvTo _) (.inl hp)
  have hdrain : ∀ x, Winds p h x →
      Winds p h (if (h.core c).drains.isEmpty then x else x.updCore c (·.drainTo (arraySide c) (h.cycle c))) := fun x hx => by
    split
    · exact hx
    · exact hx.updCore c (fun k => k.standing_drainTo _ _) (.inl hp)
  unfold Hw.caughtUp
  dsimp only
  split
  · exact hdrain _ hcinv
  · exact (hdrain _ hcinv).trans (hstream ..)

end

end Sys2Proof.Machine

namespace Sys2Proof.Machine

/-! ### What the network block keeps for the end of a reset (R384) -/

section
variable (n : Net) (k : Nat)

/-- A datagram leaves. -/
theorem Net.afterReset_ubtEmit (u : Ubt) (bytes : List Byte) : (n.ubtEmit u bytes).afterReset = n.afterReset := by
  unfold Net.ubtEmit Net.emitClass
  split
  · dsimp only
    split <;> rfl
  · rfl

/-- A UBT session changes. -/
theorem Net.afterReset_updUbt (f : Ubt → Ubt) : (n.updUbt k f).afterReset = n.afterReset := by
  unfold Net.updUbt
  split <;> rfl

/-- An ACK is sent. -/
theorem Net.afterReset_ubtAck : (n.ubtAck k).afterReset = n.afterReset := by
  unfold Net.ubtAck
  split
  · rw [Net.afterReset_updUbt, Net.afterReset_ubtEmit]
  · rfl

/-- A NAK is sent. -/
theorem Net.afterReset_ubtNak (apsn err : Nat) : (n.ubtNak k apsn err).afterReset = n.afterReset := by
  unfold Net.ubtNak
  split
  · exact Net.afterReset_ubtEmit ..
  · rfl

/-- Packets that have been processed are acknowledged. -/
theorem Net.afterReset_ubtSettled (fuel : Nat) : (n.ubtSettled k fuel).afterReset = n.afterReset := by
  induction fuel generalizing n with
  | zero => rfl
  | succ fuel ih =>
    have hack : ∀ (more : Bool) (n1 : Net), n1.afterReset = n.afterReset → (if more then n1 else n1.ubtAck k).afterReset = n.afterReset :=
      fun more n1 hn => by
        split
        · exact hn
        · rw [Net.afterReset_ubtAck, hn]
    unfold Net.ubtSettled
    split
    · rfl
    · split
      · rfl
      · split
        · dsimp only
          split
          · rw [ih, Net.afterReset_ubtNak, Net.afterReset_updUbt]
          · exact (ih _).trans (hack _ _ (Net.afterReset_updUbt ..))
        · rfl

end

/-! ### Units that end (R222, R226, R461, R462) -/

section
variable {p : Nat → Prop} {h x y : Hw}

/-- An effect of the next cycle is put on its way. -/
theorem Winds.after (hx : Winds p h x) {t : Nat} (ht : x.clock ≤ t) (e : Later) : Winds p h (x.after t e) := by
  rw [Hw.after_ahead ht]
  exact hx.frame rfl rfl rfl rfl

/-- An error of the Layout engine. -/
theorem Winds.leError (hx : Winds p h x) (code cut info : Nat) : Winds p h (x.leError code cut info) := by
  unfold Hw.leError
  dsimp only
  split
  · split
    · exact hx.frame rfl rfl rfl rfl
    · exact hx
  · exact hx.frame rfl rfl rfl rfl

/-- A unit of a copy has ended. -/
theorem Winds.copySettle (hx : Winds p h x) (cut unit code now : Nat) : Winds p h (x.copySettle cut unit code now) := by
  have hcut : Winds p h (x.updCut cut (·.settle unit code now)) := by
    unfold Hw.updCut
    split
    · exact hx.frame rfl rfl rfl rfl
    · exact hx
  unfold Hw.copySettle
  dsimp only
  split
  · exact hcut
  · exact hcut.leError ..

/-- A part of a UBT WRITE has ended. -/
theorem Winds.ubtPart (hx : Winds p h x) (k epoch psn part : Nat) (err : Option Nat) : Winds p h (x.ubtPart k epoch psn part err) := by
  have hnet : ∀ n : Net, n.afterReset = x.net.afterReset → Winds p h { x with net := n } := fun n hn =>
    hx.frame rfl rfl (congrArg (fun a => { x.lasting with afterReset := a }) hn) rfl
  unfold Hw.ubtPart
  split
  · split
    · exact hnet _ ((Net.afterReset_ubtSettled ..).trans (Net.afterReset_updUbt ..))
    · exact hx
  · exact hx

/-- An ACK of a remote unit. -/
theorem Winds.ackRemote (hx : Winds p h x) (q : Plate) (smod sgcore : Nat) : Winds p h (x.ackRemote q smod sgcore) := by
  unfold Hw.ackRemote Hw.plateRecord Hw.updRecs
  cases q <;> exact hx.frame rfl rfl rfl rfl

/-- The credit of an addressed unit. -/
theorem Winds.unitCredit (hx : Winds p h x) (target core : CoreId) (tenon : Fin 16) (epoch : Nat) (thread : Fin 4) :
    Winds p h (x.unitCredit target core tenon epoch thread) := (hx.post _ _ _ _).frame rfl rfl rfl rfl

/-- A unit has ended. -/
theorem Winds.settleUnit (hx : Winds p h x) (target : CoreId) (o : Origin) (res : Settled) (now : Nat) :
    Winds p h (x.settleUnit target o res now) := by
  have htag : ∀ tag, Winds p h (if res = .ok then x.unitTag target tag else x) := fun tag => by
    split
    · exact hx.after (Nat.le_succ _) _
    · exact hx
  unfold Hw.settleUnit
  split
  · exact hx.updBent _ (fun _ => rfl)
  · exact (htag _).unitCredit ..
  · exact (htag _).ackRemote ..
  · exact hx.copySettle ..
  · exact hx.ubtPart ..
  · exact hx

/-- Several units have ended. -/
theorem Winds.settleUnits {α : Type} (hx : Winds p h x) (target : CoreId) (o : α → Origin) (res : Settled) (now : Hw → Nat) (us : List α) :
    Winds p h (us.foldl (fun h u => h.settleUnit target (o u) res (now h)) x) :=
  hx.trans (winds_foldl (fun y _ _ => (Winds.refl p y).settleUnit ..) x)

/-- What waits between frozen cores. -/
theorem Winds.heldTraffic (hx : Winds p h x) (thaws : CoreId → Bool) (n : Nat) : Winds p h (x.heldTraffic thaws n) := by
  refine hx.trans ⟨rfl, fun _ => rfl, fun _ _ => ⟨rfl, rfl⟩, fun a ha => ?_⟩
  exact ⟨_, List.mem_map_of_mem ha, rfl, Nat.le_add_right _ _⟩

/-- Units and line writes of discarded requests go. -/
theorem Winds.dropUnits (hx : Winds p h x) (l : Level) : Winds p h (x.dropUnits l) := by
  unfold Hw.dropUnits
  dsimp only
  have hcores : Winds p h (x.updAllCores (fun k => { k with
      unitQ := k.unitQ.filter (fun u => !x.discards l u.origin), imemQ := k.imemQ.filter (fun u => !x.discards l u.origin) })) :=
    hx.updAllCores (fun _ => rfl) (fun _ => ⟨rfl, rfl⟩)
  have hbents := hcores.updAllBents (f := fun b => { b with
      slices := b.slices.map (fun q => (q.1, q.2.filter (fun r => !x.dropsReq l r)))
      portHeld := b.portHeld.map (fun q => (q.1, q.2.filter (fun r => !x.dropsReq l r))) }) (fun _ => rfl)
  exact hbents.frame rfl rfl rfl rfl

/-- The accepted units of a core that stops are performed. -/
theorem Winds.stopUnits (hx : Winds p h x) (c : CoreId) (m : Mem) : Winds p h (stopUnits c m x).2 := by
  have hcore : Winds p h (x.updCore c (fun k => { k with unitQ := k.unitQ.filter (·.accepted.isNone) })) :=
    hx.updCore c (fun _ => rfl) (.inr fun _ => ⟨rfl, rfl⟩)
  exact hcore.settleUnits c Unit3.origin .ok Hw.clock _

/-! ### Traffic in the mesh (R271, R275, R279) -/

/-- A router output decides. -/
theorem Winds.arbitrate (hx : Winds p h x) (r o y : Nat) : Winds p h (x.arbitrate r o y) := by
  have harb : Winds p h { x with arbAt := sset (8 * r + o) (y + 1) x.arbAt } := hx.frame rfl rfl rfl rfl
  unfold Hw.arbitrate
  dsimp only
  split
  · exact harb
  · exact harb.trans (winds_foldl (f := fun z f => z.sendFlit y f) (fun z _ _ => (Winds.refl p z).frame rfl rfl rfl rfl) _)

/-- The mesh runs on until a flit is where it is awaited. -/
theorem winds_driveMesh {n : Nat} {there : Flit → Bool} {fuel : Nat} {f : Flit} (hx : driveMesh n there fuel h = some (f, x)) :
    Winds p h x := by
  induction fuel generalizing h with
  | zero => nomatch hx
  | succ fuel ih =>
    unfold driveMesh at hx
    split at hx
    · nomatch hx
    · split at hx
      · obtain ⟨-, rfl⟩ := Prod.mk.inj (Option.some.inj hx)
        exact .refl p h
      · split at hx
        · nomatch hx
        · exact ((Winds.refl p h).arbitrate ..).trans (ih hx)

/-- A flit is driven to its destination. -/
theorem winds_drive {n t : Nat} (hx : h.drive n = some (t, x)) : Winds p h x := by
  obtain ⟨⟨f, y⟩, hy, hr⟩ := Option.map_eq_some_iff.mp hx
  obtain ⟨-, rfl⟩ := Prod.mk.inj hr
  exact (winds_driveMesh hy).frame rfl rfl rfl rfl

/-- A transaction is delivered. -/
theorem winds_land {n due t : Nat} (hx : h.land n due = some (t, x)) : Winds p h x := by
  unfold Hw.land at hx
  split at hx
  · obtain ⟨-, rfl⟩ := Prod.mk.inj (Option.some.inj hx)
    exact .refl p h
  · split at hx
    · nomatch hx
    · obtain ⟨⟨d, y⟩, hy, hr⟩ := Option.map_eq_some_iff.mp hx
      obtain ⟨-, rfl⟩ := Prod.mk.inj hr
      exact winds_drive hy

/-- The first of several is delivered. -/
theorem winds_landFirst {items : List (Nat × Nat)} {by_ : Option Nat} {n t : Nat} (hx : h.landFirst items by_ = some (n, t, x)) :
    Winds p h x := by
  obtain ⟨i, -, hi⟩ := List.exists_of_findSome?_eq_some hx
  split at hi
  · obtain ⟨⟨d, y⟩, hy, hr⟩ := Option.map_eq_some_iff.mp hi
    obtain ⟨-, hr⟩ := Prod.mk.inj hr
    obtain ⟨-, rfl⟩ := Prod.mk.inj hr
    exact winds_land hy
  · nomatch hi

/-- A reply is carried. -/
theorem Winds.carry (hx : Winds p h x) (src dst : Nat) (vc : Fin 4) (start : Nat) : Winds p h (x.carry src dst vc start).2 := by
  have hpost := hx.post src dst vc start
  unfold Hw.carry
  dsimp only
  split
  · exact hpost
  · cases hd : (x.post src dst vc start).2.drive (x.post src dst vc start).1 with
    | none => exact hpost
    | some r => exact hpost.trans (winds_drive hd)

/-! ### Units that a core under reset discards (R462) -/

/-- Units reach a core. -/
theorem winds_unitLand (c : CoreId) (fuel : Nat) (h : Hw) : Winds p h (unitLand c fuel h) := by
  induction fuel generalizing h with
  | zero => exact .refl p h
  | succ fuel ih =>
    unfold unitLand
    dsimp only
    split
    · exact .refl p h
    · next hx =>
      refine Winds.trans ?_ (ih _)
      exact (winds_landFirst hx).updCore c (fun _ => rfl) (.inr fun _ => ⟨rfl, rfl⟩)

/-- Instruction-memory units reach a core. -/
theorem winds_imemLand (c : CoreId) (fuel : Nat) (h : Hw) : Winds p h (imemLand c fuel h) := by
  induction fuel generalizing h with
  | zero => exact .refl p h
  | succ fuel ih =>
    unfold imemLand
    dsimp only
    split
    · exact .refl p h
    · next hx =>
      refine Winds.trans ?_ (ih _)
      exact (winds_landFirst hx).updCore c (fun _ => rfl) (.inr fun _ => ⟨rfl, rfl⟩)

/-- What has reached a core is discarded. -/
theorem winds_discardUnits (c : CoreId) (h : Hw) : Winds p h (h.discardUnits c) := by
  unfold Hw.discardUnits
  dsimp only
  have hland := (winds_unitLand (p := p) c (h.core c).unitQ.length h).trans (winds_imemLand c (h.core c).imemQ.length _)
  refine Winds.settleUnits (Winds.settleUnits ?_ c Unit3.origin .housing Hw.clock _) c ImemUnit.origin .housing Hw.clock _
  exact hland.updCore c (fun _ => rfl) (.inr fun _ => ⟨rfl, rfl⟩)

/-- What has reached the cores of a level is discarded. -/
theorem winds_discardAll (l : Level) (h : Hw) : Winds p h (h.discardAll l) :=
  winds_foldl (fun y c _ => winds_discardUnits c y) h

end

end Sys2Proof.Machine

namespace Sys2Proof.Machine

/-! ### The stop of a reset (R460, R461, R462) -/

/-- What the clearing beside cores and bents leaves as it is, or is asked for of it. -/
structure Clearing where
  cores : SMap Core
  coreDef : Core
  clock : Nat
  tuples : List Tuple
  resets : List ResetOp
  fcyc0 : Nat
  le : Layout
  ubt : SMap Ubt
  loaded : Bool

/-- What the clearing beside cores and bents leaves as it is, or is asked for of it. -/
def Hw.clearing (h : Hw) : Clearing :=
  ⟨h.cores, h.coreDef, h.clock, h.tuples, h.resets, h.fcyc0, h.le, h.net.ubt, h.firm.loaded⟩

section
variable (h : Hw)

/-- An effect put on its way. -/
theorem Hw.clearing_after {t : Nat} (ht : h.clock ≤ t) (e : Later) : (h.after t e).clearing = h.clearing := by
  rw [Hw.after_ahead ht]
  rfl

/-- A lost warden. -/
theorem Hw.clearing_wardenLost (b : Nat) : (h.wardenLost b h.clock).clearing = h.clearing := by
  unfold Hw.wardenLost
  split
  · exact Hw.clearing_after _ (Nat.le_succ _) _
  · rfl

/-- Messages to the engine. -/
theorem Hw.clearing_endMsgs : h.endMsgs.clearing = h.clearing := by
  unfold Hw.endMsgs
  dsimp only
  exact (foldl_fixes Hw.clearing (fun x (e : RidgeMsg) => Hw.clearing_after _ (Nat.le_max_left ..) _) _ _).trans rfl

/-- Several lost wardens. -/
theorem Hw.clearing_wardens (n : Nat) : (iter n (fun b (x : Hw) => x.wardenLost b x.clock) h).clearing = h.clearing :=
  foldl_fixes Hw.clearing (fun x b => Hw.clearing_wardenLost x b) _ h

/-- The clearing of a job or frame reset. -/
theorem Hw.clearing_clearJob (hold frame mrs : Bool) : ∃ fcyc, (h.clearJob hold frame mrs).clearing =
      { h.clearing with fcyc0 := if frame then h.clock else h.fcyc0, le := h.le.jobReset fcyc, ubt := [], loaded := false } ∧
    (frame = true → (h.clearJob hold frame mrs).irqPend = 0) := by
  unfold Hw.clearJob
  cases frame with
  | true =>
    refine ⟨h.restartFcyc.fcyc, ?_, fun _ => rfl⟩
    exact (Hw.clearing_endMsgs _).trans rfl
  | false =>
    refine ⟨h.fcyc, ?_, fun hf => nomatch hf⟩
    dsimp only
    rw [if_neg (by decide), Hw.clearing_wardens, Hw.clearing_endMsgs]
    rfl

/-- A freed bent lock. -/
theorem Hw.clearing_blkFree (b : Nat) (l : Fin 256) : (h.blkFree b l).clearing = h.clearing := by
  unfold Hw.blkFree
  dsimp only
  split
  · exact (foldl_fixes Hw.clearing (fun x c => Hw.clearing_after x (Nat.le_succ _) _) _ _).trans rfl
  · rfl

/-- What a core reset releases in its bent. -/
theorem Hw.clearing_coreResetBent (c : CoreId) : (h.coreResetBent c).clearing = h.clearing := by
  have happly : ∀ (b : BentId) (x : Hw), (dbcommitApply b x).clearing = x.clearing := fun b x => by
    unfold dbcommitApply
    dsimp only
    split <;> rfl
  unfold Hw.coreResetBent
  dsimp only
  rw [happly]
  exact foldl_fixes Hw.clearing (fun x l => Hw.clearing_blkFree x _ _) _ h

variable {h} {x : Hw}

/-- The cores are as they were. -/
theorem core_of_clearing (hx : x.clearing = h.clearing) (c : Nat) : x.core c = h.core c :=
  Hw.core_congr (congrArg Clearing.cores hx) (congrArg Clearing.coreDef hx) c

end

section
variable {p : Nat → Prop} {h : Hw}

/-- The cores that a reset of a level covers. -/
def Level.Covered (l : Level) (c : Nat) : Prop := l.covers c = true

/-- The cores that stop catch up (R461). -/
def Hw.atStop (h : Hw) (l : Level) : Hw :=
  (((h.event h.clock).cores.map (fun q => coreId q.1)).filter (fun c : CoreId => l.covers c)).foldl (fun (h : Hw) (c : CoreId) => h.caughtUp c)
    (h.event h.clock)

/-- Nothing else comes of it. -/
theorem winds_atStop (l : Level) (h : Hw) : Winds l.Covered h (h.atStop l) := by
  have hevent : Winds l.Covered h (h.event h.clock) := by
    rw [Hw.event_now]
    exact (Winds.refl _ h).frame rfl rfl rfl rfl
  refine hevent.trans (winds_foldl (fun x c hc => winds_caughtUp ?_ x) _)
  exact (List.mem_filter.mp hc).2

/-- The units of the cores that stop end (R461, R462). -/
def Hw.unitsStopped (h : Hw) (l : Level) (m : Mem) : Mem × Hw :=
  (((h.event h.clock).cores.map (fun q => coreId q.1)).filter (fun c : CoreId => l.covers c)).foldl
    (fun (x : Mem × Hw) (c : CoreId) => stopUnits c x.1 x.2)
    (m, ((h.atStop l).heldTraffic (fun c => l.covers c) (h.atStop l).clock).dropUnits l)

/-- Nothing else comes of it. -/
theorem winds_unitsStopped (l : Level) (m : Mem) (h : Hw) : Winds l.Covered h (h.unitsStopped l m).2 := by
  have hfold : ∀ (cs : List CoreId) (x : Mem × Hw), Winds l.Covered h x.2 →
      Winds l.Covered h (cs.foldl (fun (x : Mem × Hw) (c : CoreId) => stopUnits c x.1 x.2) x).2 := by
    intro cs
    induction cs with
    | nil => exact fun _ hx => hx
    | cons c cs ih => exact fun x hx => ih _ (hx.stopUnits c x.1)
  exact hfold _ _ (((winds_atStop l h).heldTraffic ..).dropUnits l)

/-- The resets in progress, the post-mortem hold and the effects on their way, as a stop leaves them. -/
def Hw.noteReset (h : Hw) (rs : List ResetOp) (pm : Bool) (later : List (Nat × Later)) : Hw :=
  { h with resets := rs, postMortem := pm, later := later }

/-- The cores and bents that a job or frame reset covers stop. -/
def Hw.wideStopped (h : Hw) : Hw := (h.updAllCores (·.reset h.clock false)).updAllBents (·.jobReset false)

/-- The stop of a job or frame reset, where no reset is in progress. -/
theorem resetStop_wide {l : Level} (hl : l = .job ∨ l = .frame) (mrs : Bool) (m : Mem) (hr : h.resets = []) :
    ∃ later, resetStop { level := l } mrs m h = ((h.unitsStopped l m).1,
      ((h.unitsStopped l m).2.noteReset [{ level := l }] false later).wideStopped.clearJob false (l == .frame) mrs) := by
  have hstop : ∃ later, resetStop { level := l } mrs m h = ((h.unitsStopped l m).1,
      ((h.unitsStopped l m).2.noteReset
        ((h.atStop l).resets.filter (fun r => !decide (0 < l.rank) && r.level != l) ++ [{ level := l }])
        ((h.atStop l).postMortem && !decide (0 < l.rank)) later).wideStopped.clearJob false (l == .frame) mrs) := by
    refine ⟨(h.unitsStopped l m).2.later.filter (fun e =>
      e.2.stays l (fun c => l.covers c) (decide ((h.atStop l).clock < e.1))), ?_⟩
    rw [resetStop, hr, List.any_nil, if_neg (by decide)]
    rcases hl with rfl | rfl <;> rfl
  have hkeep : ∀ rs : List ResetOp, rs.filter (fun r => !decide (0 < l.rank) && r.level != l) = [] := fun rs => by
    rcases hl with rfl | rfl <;> simp [Level.rank]
  have hwide : decide (0 < l.rank) = true := by rcases hl with rfl | rfl <;> decide
  rwa [hkeep, hwide, Bool.not_true, Bool.and_false] at hstop

/-- The clearing beside cores and bents finds the cores stopped. -/
theorem Hw.clearing_wideStopped (y : Hw) (rs : List ResetOp) (later : List (Nat × Later)) :
    (y.noteReset rs false later).wideStopped.clearing =
      { y.clearing with resets := rs, cores := y.wideStopped.cores, coreDef := y.wideStopped.coreDef } := rfl

/-- A stopped core. -/
theorem Hw.core_wideStopped (y : Hw) (c : Nat) : y.wideStopped.core c = (y.core c).reset y.clock false :=
  (Hw.core_congr rfl rfl c).trans (Hw.core_updAllCores y c (·.reset y.clock false))

/-- What a job or frame reset leaves of the machine whose units have ended. -/
theorem Hw.wideStopped_clearJob (y : Hw) (rs : List ResetOp) (later : List (Nat × Later)) (frame : Bool) :
    ∃ z, (y.noteReset rs false later).wideStopped.clearJob false frame true = z ∧
      (∀ c, z.core c = (y.core c).reset y.clock false) ∧ z.clock = y.clock ∧ z.tuples = y.tuples ∧ z.resets = rs ∧
      z.fcyc0 = (if frame then y.clock else y.fcyc0) ∧ (∃ fcyc, z.le = y.le.jobReset fcyc) ∧ z.net.ubt = [] ∧ z.firm.loaded = false ∧
      (frame = true → z.irqPend = 0) := by
  obtain ⟨fcyc, hclear, hirq⟩ := Hw.clearing_clearJob (y.noteReset rs false later).wideStopped false frame true
  rw [Hw.clearing_wideStopped] at hclear
  refine ⟨_, rfl, fun c => ?_, congrArg Clearing.clock hclear, congrArg Clearing.tuples hclear, congrArg Clearing.resets hclear,
    congrArg Clearing.fcyc0 hclear, ⟨fcyc, congrArg Clearing.le hclear⟩, congrArg Clearing.ubt hclear, congrArg Clearing.loaded hclear, hirq⟩
  exact (Hw.core_congr (congrArg Clearing.cores hclear) (congrArg Clearing.coreDef hclear) c).trans (Hw.core_wideStopped y c)

/-- A core as a core reset stops it: the cut that runs there stays (R463). -/
def Core.resetInCut (now : Nat) (k : Core) : Core := { k.reset now false with runsCut := k.runsCut }

/-- A core that a core reset covers stops. -/
def Hw.coreStopped (h : Hw) (c : CoreId) : Hw := (h.updCore c (Core.resetInCut h.clock)).coreResetBent c

/-- What a core reset takes of page map commits and of a lost warden. -/
def Hw.coreGone (h : Hw) (c : CoreId) : Hw :=
  let x : Hw := { h with pmCommits := h.pmCommits.map (fun q => { q with who := q.who.filter (fun w => w.core != c) }) }
  if isWarden c then x.wardenLost (bentOf c) x.clock else x

/-- It leaves the rest. -/
theorem Hw.clearing_coreGone (h : Hw) (c : CoreId) : (h.coreGone c).clearing = h.clearing := by
  unfold Hw.coreGone
  dsimp only
  split
  · exact (Hw.clearing_wardenLost _ _).trans rfl
  · rfl

/-- The stop of a core reset, where no reset is in progress. -/
theorem resetStop_core (c : CoreId) (mrs : Bool) (m : Mem) (hr : h.resets = []) :
    ∃ later, resetStop { level := .core c } mrs m h = ((h.unitsStopped (.core c) m).1,
      (((h.unitsStopped (.core c) m).2.noteReset [{ level := .core c }] (h.atStop (.core c)).postMortem later).coreStopped c).coreGone c) := by
  have hresets : (h.atStop (.core c)).resets = [] := (congrArg Lasting.resets (winds_atStop (.core c) h).lasting).trans hr
  have hstop : ∃ later, resetStop { level := .core c } mrs m h = ((h.unitsStopped (.core c) m).1,
      (((h.unitsStopped (.core c) m).2.noteReset
        ((h.atStop (.core c)).resets.filter (fun r => !decide (0 < (Level.core c).rank) && r.level != .core c) ++ [{ level := .core c }])
        ((h.atStop (.core c)).postMortem && !decide (0 < (Level.core c).rank)) later).coreStopped c).coreGone c) := by
    refine ⟨(h.unitsStopped (.core c) m).2.later.filter (fun e =>
      e.2.stays (.core c) (fun d => (Level.core c).covers d) (decide ((h.atStop (.core c)).clock < e.1))), ?_⟩
    rw [resetStop, hr, List.any_nil, if_neg (by decide)]
    rfl
  have hnarrow : decide (0 < (Level.core c).rank) = false := rfl
  rwa [hresets, List.filter_nil, hnarrow, Bool.not_false, Bool.and_true] at hstop

/-- What a core reset leaves of the machine whose units have ended. -/
theorem Hw.coreStopped_coreGone (y : Hw) (c : CoreId) (rs : List ResetOp) (pm : Bool) (later : List (Nat × Later)) :
    ∃ z, ((y.noteReset rs pm later).coreStopped c).coreGone c = z ∧ z.core c = Core.resetInCut y.clock (y.core c) ∧
      (∀ d : CoreId, d ≠ c → z.core d = y.core d) ∧ z.clock = y.clock ∧ z.tuples = y.tuples ∧ z.resets = rs := by
  have hclear := (Hw.clearing_coreGone ((y.noteReset rs pm later).coreStopped c) c).trans
    (Hw.clearing_coreResetBent ((y.noteReset rs pm later).updCore c (Core.resetInCut y.clock)) c)
  refine ⟨_, rfl, ?_, fun d hd => ?_, congrArg Clearing.clock hclear, congrArg Clearing.tuples hclear, congrArg Clearing.resets hclear⟩
  · rw [core_of_clearing hclear, Hw.core_updCore_self]
    rfl
  · rw [core_of_clearing hclear, Hw.core_updCore_ne _ (fun hv => hd (Fin.ext hv))]
    rfl

end

end Sys2Proof.Machine

namespace Sys2Proof.Claims

open Sys2Proof.Machine

/-! ### What a stop leaves (R460, R461, R462) -/

section
variable {p : Nat → Prop} {s t : State} {h y : Hw}

/-- The epoch of a channel, by what a reset keeps of its core. -/
theorem epoch_of_standing {k l : Core} (hk : k.standing = l.standing) (n : Fin 16) : (k.tenons[n]).epoch = (l.tenons[n]).epoch := by
  have hepochs : k.tenons.map (·.epoch) = l.tenons.map (·.epoch) := congrArg (fun x => x.2.2.2) hk
  have hn : (k.tenons.map (·.epoch))[n] = (l.tenons.map (·.epoch))[n] := by rw [hepochs]
  simpa only [Fin.getElem_fin, Vector.getElem_map] using hn

/-- A core that has been reset in the present cycle is stopped. -/
theorem stopped_of_reset {c : CoreId} {k : Core} {cut : Option Nat} (hk : k.standing = (s.hw.core c).standing)
    (ht : t.hw.core c = { k.reset t.hw.clock false with runsCut := cut }) : Stopped c s t where
  held := congrArg Core.held ht
  cycle := by
    rw [Hw.cycle, ht]
    exact Nat.sub_self _
  threads w := by
    have hthread : (t.hw.core c).thread w = ({ late := (k.thread w).late + (k.thread w).notices } : Thread) := by
      rw [ht]
      exact Vector.getElem_map ..
    rw [hthread]
    exact ⟨rfl, rfl, rfl, rfl⟩
  channels n := by
    have htenon : (t.hw.core c).tenons[n] = ({ epoch := (k.tenons[n]).epoch + 1 } : Tenon) := by
      rw [ht]
      exact Vector.getElem_map ..
    have hmortise : (t.hw.core c).mortises[n] = [] := by
      rw [ht]
      exact Vector.getElem_replicate _
    rw [htenon, hmortise, epoch_of_standing hk]
    exact ⟨rfl, rfl, rfl, rfl⟩
  engines := ⟨congrArg Core.mat ht, congrArg Core.groups ht, congrArg Core.tiles ht⟩

/-- Tuples go on. -/
theorem stillOnTheirWay (hy : Winds p s.hw y) (ht : t.hw.tuples = y.tuples) : StillOnTheirWay s t := by
  intro a ha
  rw [ht]
  exact hy.tuples a ha

/-- The Story Pole closes a record before a job or frame reset. -/
theorem winds_poleDo (f : Pole → Pole) (h : Hw) : Winds p h (h.poleDo f) := by
  unfold Hw.poleDo
  split
  · exact (Winds.refl p h).frame rfl rfl rfl rfl
  · exact .refl p h

/-- What a job or frame reset leaves. -/
structure WideReset (l : Level) (s t : State) : Prop where
  resets : t.hw.resets = [{ level := l }]
  stopped : ∀ k, Stopped k s t
  tuples : StillOnTheirWay s t
  idle : t.hw.le.st = .idle
  cap : t.hw.le.cap = s.hw.le.cap
  budget : t.hw.le.budget = s.hw.le.budget
  ubt : t.hw.net.ubt = []
  loaded : t.hw.firm.loaded = false
  clock : t.hw.clock = s.hw.clock
  fcyc0 : t.hw.fcyc0 = if l == .frame then s.hw.clock else s.hw.fcyc0
  irqPend : l = .frame → t.hw.irqPend = 0

/-- What a job or frame reset leaves, where none is in progress. -/
theorem firmReset_wide {l : Level} (hl : l = .job ∨ l = .frame) (hr : s.hw.resets = []) (hpm : s.hw.postMortem = false) :
    WideReset l s { s with mem := (firmReset { level := l } s.mem s.hw).1, hw := (firmReset { level := l } s.mem s.hw).2 } := by
  set x := s.hw.poleDo (·.closeJob (s.hw.le.digestBytes.take 16)) with hx
  have hfirm : firmReset { level := l } s.mem s.hw = resetStop { level := l } true s.mem x := by
    have hrank : l.rank ≠ 0 := by rcases hl with rfl | rfl <;> decide
    rw [firmReset, if_neg hrank, endHold, hpm]
    rfl
  have hpole : Winds l.Covered s.hw x := winds_poleDo ..
  have hresets : x.resets = [] := (congrArg Lasting.resets hpole.lasting).trans hr
  obtain ⟨later, hstop⟩ := resetStop_wide (m := s.mem) hl true hresets
  have hwinds := hpole.trans (winds_unitsStopped l s.mem x)
  set y := (x.unitsStopped l s.mem).2
  obtain ⟨z, hz, hcores, hclock, htuples, hrs, hfcyc, ⟨fcyc, hle⟩, hubt, hloaded, hirq⟩ :=
    Hw.wideStopped_clearJob y [{ level := l }] later (l == .frame)
  rw [hfirm, hstop, hz]
  have hyclock : y.clock = s.hw.clock := congrArg Lasting.clock hwinds.lasting
  have hyfcyc : y.fcyc0 = s.hw.fcyc0 := congrArg Lasting.fcyc0 hwinds.lasting
  refine { resets := hrs, stopped := fun k => ?_, tuples := stillOnTheirWay hwinds htuples, idle := ?_, cap := ?_, budget := ?_,
           ubt := hubt, loaded := hloaded, clock := hclock.trans hyclock, fcyc0 := ?_, irqPend := fun hf => hirq (by rw [hf]; rfl) }
  · refine stopped_of_reset (k := y.core k) (cut := none) (hwinds.core k) ?_
    show z.core k = { (y.core k).reset z.clock false with runsCut := none }
    rw [hcores, hclock]
    rfl
  · exact congrArg Layout.st hle
  · exact (congrArg Layout.cap hle).trans (congrArg Lasting.cap hwinds.lasting)
  · exact (congrArg Layout.budget hle).trans (congrArg Lasting.budget hwinds.lasting)
  · rw [hfcyc, hyclock, hyfcyc]

/-- A core reset closes no record. -/
theorem firmReset_rank_zero (c : CoreId) (m : Mem) (h : Hw) :
    firmReset { level := .core c } m h = resetStop { level := .core c } true m h := if_pos rfl

/-- What a core reset leaves, where no reset is in progress. -/
theorem firmReset_core (c : CoreId) (hr : s.hw.resets = [])
    (ht : t = { s with mem := (firmReset { level := .core c } s.mem s.hw).1, hw := (firmReset { level := .core c } s.mem s.hw).2 }) :
    t.hw.resets = [{ level := .core c }] ∧ Stopped c s t ∧ StillOnTheirWay s t ∧ (t.hw.core c).runsCut = (s.hw.core c).runsCut ∧
      t.hw.clock = s.hw.clock ∧ ∀ k, k ≠ c → (t.hw.core k).held = (s.hw.core k).held ∧ (t.hw.core k).tiles = (s.hw.core k).tiles := by
  obtain ⟨later, hstop⟩ := resetStop_core (h := s.hw) c true s.mem hr
  have hwinds := winds_unitsStopped (.core c) s.mem s.hw
  set y := (s.hw.unitsStopped (.core c) s.mem).2
  obtain ⟨z, hz, hcore, hcores, hclock, htuples, hrs⟩ :=
    Hw.coreStopped_coreGone y c [{ level := .core c }] (s.hw.atStop (.core c)).postMortem later
  have hhw : t.hw = z := by
    rw [ht, firmReset_rank_zero, hstop]
    exact hz
  have hyclock : y.clock = s.hw.clock := congrArg Lasting.clock hwinds.lasting
  have hcut : (y.core c).runsCut = (s.hw.core c).runsCut := congrArg (fun x => x.2.2.1) (hwinds.core c)
  rw [← hhw] at hcore hcores hclock htuples hrs
  refine ⟨hrs, stopped_of_reset (k := y.core c) (cut := (y.core c).runsCut) (hwinds.core c) ?_, stillOnTheirWay hwinds htuples,
    (congrArg Core.runsCut hcore).trans hcut, hclock.trans hyclock, fun k hk => ?_⟩
  · rw [hcore, hclock]
    rfl
  · have hother : ¬(Level.core c).Covered k := fun hc => hk (Fin.ext (beq_iff_eq.mp hc).symm)
    rw [hcores k hk]
    exact ⟨congrArg Prod.fst (hwinds.core k), (hwinds.others k hother).2⟩

/-- Resets stop what they cover. -/
theorem resetsStop : ResetsStop := by
  refine ⟨fun c s hr hpm => ⟨?_, ?_, ?_⟩, fun c s hr => ?_⟩
  · have hw := firmReset_wide (l := .frame) (.inr rfl) hr hpm
    refine ⟨_, rfl, hw.resets, hw.stopped, ?_, hw.tuples, hw.irqPend rfl, hw.idle, hw.loaded, hw.cap, hw.clock⟩
    have hclock := hw.clock
    have hfcyc := hw.fcyc0
    rw [Hw.fcyc, hclock, hfcyc, if_pos (by decide), Nat.sub_self, Nat.zero_mod]
  · have hw := firmReset_wide (l := .job) (.inl rfl) hr hpm
    exact ⟨_, rfl, hw.resets, hw.stopped, hw.tuples, hw.idle, hw.budget, hw.ubt, hw.loaded, hw.fcyc0, hw.clock⟩
  · exact ⟨_, rfl, firmReset_core c hr rfl⟩
  · have hlower : firmReset { level := .core c } s.mem s.hw = (s.mem, s.hw) := by
      have hrank : ({ level := .core c } : ResetOp).level.rank = 0 := rfl
      rw [firmReset, if_pos hrank, resetStop, hr]
      exact if_pos rfl
    show onMem (fun m h => firmReset { level := .core c } m h) s = .next s
    rw [onMem, hlower]

end

end Sys2Proof.Claims

namespace Sys2Proof.Claims

open Sys2Proof.Machine

/-! ### The quiesce of a reset (R461, R462, R465) -/

section
variable {op : ResetOp} {s : State}

/-- With nothing in memory to wait for, every access has ended. -/
theorem quiet_of_memoryStill (hm : MemoryStill s) (l : Level) : s.hw.quiet l = true := by
  obtain ⟨hbents, hwest, heast⟩ := hm
  have hall : s.hw.bents.all (fun p => p.2.slices.all (fun q => q.2.all (fun r => !l.awaits r.owner)) &&
      p.2.portHeld.all (fun q => q.2.all (fun r => !l.awaits r.owner))) = true := by
    refine List.all_eq_true.mpr fun q hq => ?_
    obtain ⟨hslices, hheld⟩ := hbents q hq
    rw [hslices, hheld]
    rfl
  rw [Hw.quiet, hall, hwest, heast]
  rfl

/-- No completion waits for the end of the resets. -/
theorem postAfterReset_none {h : Hw} (ha : h.net.afterReset = []) : h.postAfterReset = h := by
  unfold Hw.postAfterReset
  split
  · have hnet : ({ h.net with afterReset := [] } : Net) = h.net := by rw [← ha]
    rw [ha]
    show ({ h with net := { h.net with afterReset := [] } } : Hw) = h
    rw [hnet]
  · rfl

/-- The quiesce of the one reset in progress. -/
theorem resetQuiesceEnd_eq (hr : s.hw.resets = [op]) (hq : op.quiesced = false) : resetQuiesceEnd s.hw =
    if s.hw.quiet op.level then
      if op.hold then ({ s.hw.event s.hw.clock with resets := [], postMortem := true } : Hw).postAfterReset
      else { s.hw.event s.hw.clock with
        resets := [{ op with quiesced := true, due := s.hw.clock + s.hw.scrubCycles op.level }] }
    else s.hw := by
  have hfind : s.hw.resets.find? (fun r => !r.quiesced) = some op := by
    rw [hr]
    exact List.find?_cons_of_pos (by rw [hq]; rfl)
  have hresets : (s.hw.event s.hw.clock).resets = [op] := by rw [Hw.event_now]; exact hr
  have hcycles : (s.hw.event s.hw.clock).scrubCycles op.level = s.hw.scrubCycles op.level := by rw [Hw.event_now]; rfl
  have hclock : (s.hw.event s.hw.clock).clock = s.hw.clock := by rw [Hw.event_now]
  unfold resetQuiesceEnd
  rw [hfind]
  dsimp only
  rw [hresets, List.erase_cons_head, updFirst, if_pos (beq_self_eq_true op)]
  rw [hcycles, hclock]

/-- A line that a stopped core awaits holds its reset back. -/
theorem not_quiet_of_miss {b : BentId} {k : Nat} {r : MemReq} {c : CoreId} {m : Fin 8}
    (hb : s.hw.bents = [(b.val, { slices := [(k, [r])] })]) (ho : r.owner = .miss c m) : s.hw.quiet .job = false := by
  have hawaits : Level.job.awaits r.owner = true := by rw [ho]; rfl
  simp [Hw.quiet, hb, hawaits]

/-- Resets quiesce. -/
theorem resetsQuiesce : ResetsQuiesce := by
  intro op s hr hq z n
  have hend := resetQuiesceEnd_eq hr hq
  have hn : s.hw.scrubCycles op.level = n := by
    simp only [n]
    cases op.level with
    | frame => rfl
    | job => rfl
    | core c => exact byKind_eq ..
  refine ⟨fun hm hh => ?_, fun hm hh ha => ?_, fun b k r c m hl hb ho => ?_⟩
  · rw [quiet_of_memoryStill hm, if_pos rfl, if_neg (by rw [hh]; decide), hn] at hend
    exact acts_of (i := .resetQuiesceEnd) rfl hend rfl
  · have hafter : (s.hw.event s.hw.clock).net.afterReset = [] := by rw [Hw.event_now]; exact ha
    rw [quiet_of_memoryStill hm, if_pos rfl, hh, if_pos rfl] at hend
    exact acts_of (i := .resetQuiesceEnd) rfl (hend.trans (postAfterReset_none (by exact hafter))) ⟨rfl, rfl⟩
  · rw [hl, not_quiet_of_miss hb ho, if_neg (by decide)] at hend
    show onHw (fun _ h => resetQuiesceEnd h) s = .next s
    rw [onHw, hend]

end

end Sys2Proof.Claims

namespace Sys2Proof.Machine

/-! ### Time runs on under a reset

The effects of the cycles that pass leave what a reset keeps beside the clock, and the cuts of the cores. -/

/-- What a reset keeps of the machine beside its cores and the clock. -/
def Lasting.timeless (l : Lasting) : Lasting := { l with clock := 0 }

section
variable (k : Core) (t : Fin 4)

/-- The stillness count. -/
theorem Core.runsCut_noted (n : Nat) : (k.noted n).runsCut = k.runsCut := by
  unfold Core.noted
  dsimp only
  split <;> rfl

/-- A tenon's stall counter. -/
theorem Core.runsCut_unstall (n : Fin 16) : (k.unstall n).runsCut = k.runsCut := by
  unfold Core.unstall
  split <;> rfl

/-- What a thread is in the middle of stops. -/
theorem Core.runsCut_stopWork : (k.stopWork t).runsCut = k.runsCut := by
  have hsend : (k.clearStall t).runsCut = k.runsCut := by
    unfold Core.clearStall
    dsimp only
    split
    · exact Core.runsCut_unstall ..
    · rfl
  have hmove : ∀ k : Core, (k.stopTileMove t).runsCut = k.runsCut := fun k => by
    unfold Core.stopTileMove
    split
    · split <;> rfl
    · rfl
  have hstream : ∀ k : Core, (k.stopStream t).runsCut = k.runsCut := fun k => by
    unfold Core.stopStream
    split
    · next j _ =>
      split
      · dsimp only
        cases j.tenon with
        | some n => exact Core.runsCut_unstall ..
        | none => rfl
      · rfl
    · rfl
  rw [Core.stopWork, hstream, hmove, hsend]

/-- A thread stops. -/
theorem Core.runsCut_stopThread : (k.stopThread t).runsCut = k.runsCut := by
  have hrun : (if k.atBoundary t && (k.thread t).found.isNone then (k.stopWork t).updThread t Thread.stopNow
      else k.updThread t (fun th => { th with stopReq := true })).runsCut = k.runsCut := by
    split
    · exact Core.runsCut_stopWork ..
    · rfl
  unfold Core.stopThread
  dsimp only
  split
  case h_4 => exact hrun
  all_goals rfl

/-- Registers of a mask are released. -/
theorem Core.runsCut_trel (v : BitVec 8) (cyc : Nat) : (k.trel v cyc).runsCut = k.runsCut := by
  unfold Core.trel
  refine foldl_fixes Core.runsCut (fun k t => ?_) _ k
  split <;> rfl

/-- A frozen core goes on. -/
theorem Core.runsCut_thaw (n : Nat) : (k.thaw n).runsCut = k.runsCut := by
  unfold Core.thaw
  split <;> rfl

end

/-- Time has run on from `h` to `x`: what a reset keeps beside the clock is as it was, and the cut of each core. -/
structure Passes (h x : Hw) : Prop where
  lasting : x.lasting.timeless = h.lasting.timeless
  runsCut : ∀ c : Nat, (x.core c).runsCut = (h.core c).runsCut

section
variable {h x y : Hw}

/-- No time. -/
theorem Passes.refl (h : Hw) : Passes h h := ⟨rfl, fun _ => rfl⟩

/-- Two spans of time. -/
theorem Passes.trans (hx : Passes h x) (hy : Passes x y) : Passes h y :=
  ⟨hy.lasting.trans hx.lasting, fun c => (hy.runsCut c).trans (hx.runsCut c)⟩

/-- A change of fields beside both. -/
theorem Passes.frame (hx : Passes h x) (hc : y.cores = x.cores) (hd : y.coreDef = x.coreDef)
    (hl : y.lasting.timeless = x.lasting.timeless) : Passes h y :=
  ⟨hl.trans hx.lasting, fun c => by rw [Hw.core_congr hc hd]; exact hx.runsCut c⟩

/-- A change of a core that leaves its cut. -/
theorem Passes.updCore (hx : Passes h x) (c : Nat) {f : Core → Core} (hf : ∀ k, (f k).runsCut = k.runsCut) :
    Passes h (x.updCore c f) := by
  refine hx.trans ⟨rfl, fun d => ?_⟩
  by_cases hd : d = c
  · rw [hd, Hw.core_updCore_self, hf]
  · rw [Hw.core_updCore_ne _ hd]

/-- A change of every core that leaves its cut. -/
theorem Passes.updAllCores (hx : Passes h x) {f : Core → Core} (hf : ∀ k, (f k).runsCut = k.runsCut) :
    Passes h (x.updAllCores f) := by
  refine hx.trans ⟨rfl, fun d => ?_⟩
  rw [Hw.core_updAllCores, hf]

/-- A change of a thread. -/
theorem Passes.updThread (hx : Passes h x) (w : Who) (f : Thread → Thread) : Passes h (x.updThread w f) :=
  hx.updCore w.core (f := (·.updThread w.thread f)) (fun _ => rfl)

/-- A cause of interrupt. -/
theorem Passes.raiseIpend (hx : Passes h x) (c : CoreId) (t : Fin 4) (bit : Nat) : Passes h (x.raiseIpend c t bit) :=
  hx.updThread ..

/-- The stillness count of a core. -/
theorem Passes.noted (hx : Passes h x) (c : Nat) : Passes h (x.noted c) := hx.updCore c (fun k => k.runsCut_noted _)

/-- Effects one after the other. -/
theorem passes_foldl {α : Type} {f : Hw → α → Hw} (hf : ∀ h a, Passes h (f h a)) (l : List α) (h : Hw) : Passes h (l.foldl f h) := by
  induction l generalizing h with
  | nil => exact .refl h
  | cons a l ih => exact (hf h a).trans (ih _)

/-- A thaw takes hold. -/
theorem passes_thawFrom (n : Nat) (c : Option CoreId) (h : Hw) : Passes h (h.thawFrom n c) := by
  have htraffic : ∀ thaws : CoreId → Bool, Passes h (h.heldTraffic thaws n) := fun _ => (Passes.refl h).frame rfl rfl rfl
  have hcut : ∀ (c : CoreId) (x : Hw), Passes x (x.heldCut c n) := fun c x => by
    unfold Hw.heldCut
    dsimp only
    split
    · split
      · exact (Passes.refl x).frame rfl rfl rfl
      · exact .refl x
    · exact .refl x
  cases c with
  | none =>
    have hengine : Passes h ((h.heldTraffic (fun _ => true) n).heldEngine n) := (htraffic _).frame rfl rfl rfl
    exact (hengine.updAllCores (fun k => k.runsCut_thaw n)).frame rfl rfl rfl
  | some c => exact ((htraffic _).trans (hcut c _)).updCore c (fun k => k.runsCut_thaw n)

/-- An effect of a later cycle takes hold. -/
theorem passes_applyLater (e : Later) (h : Hw) : Passes h (h.applyLater e) := by
  have hrefl := Passes.refl h
  cases e <;> simp only [Hw.applyLater]
  case events w mask => exact hrefl.updThread ..
  case cause w bit => exact hrefl.raiseIpend ..
  case halted wd bit =>
    refine Passes.raiseIpend (hrefl.updCore wd fun k => ?_) ..
    rfl
  case stilled wd bit =>
    refine Passes.raiseIpend (hrefl.updCore wd fun k => ?_) ..
    rfl
  case dropIn c src off =>
    refine Passes.raiseIpend (hrefl.updCore c fun k => ?_) ..
    split <;> rfl
  case dropOut c addr =>
    refine Passes.raiseIpend (hrefl.updCore c fun k => ?_) ..
    split <;> rfl
  case xresult w r ev =>
    have hres := (hrefl.updThread w (fun th => { th with xres := th.xres ++ [r], xoutstanding := th.xoutstanding - 1 })).noted w.core
    cases ev with
    | none => exact hres
    | some k => exact hres.updThread ..
  case lockFree c l => exact hrefl.updCore c (f := (·.lockNotice l)) (fun _ => rfl)
  case trel c v => exact hrefl.updCore c (fun k => k.runsCut_trel _ _)
  case windows c ws => exact hrefl.updCore c (f := fun k => { k with winActive := ws }) (fun _ => rfl)
  case purlinRead v => exact hrefl.frame rfl rfl rfl
  case extClear w => exact (hrefl.updThread w _).frame rfl rfl rfl
  case source n => exact hrefl.frame rfl rfl rfl
  case performed w => exact hrefl.updThread ..
  case freeze c =>
    cases c with
    | none => exact (hrefl.updAllCores (f := (·.freeze (h.clock + 1))) (fun _ => rfl)).frame rfl rfl rfl
    | some c => exact hrefl.updCore c (f := (·.freeze (h.clock + 1))) (fun _ => rfl)
  case thaw c => exact passes_thawFrom ..
  case edge i =>
    split
    · exact hrefl.frame rfl rfl rfl
    · exact hrefl
  case stop w =>
    split_ifs
    · exact hrefl.frame rfl rfl rfl
    · exact (hrefl.updCore _ (fun k => k.runsCut_stopThread _)).noted _
    · exact hrefl.frame rfl rfl rfl
  case load w bs =>
    split
    · split
      · exact hrefl.frame rfl rfl rfl
      · refine Passes.noted (Passes.updThread (Passes.updCore (hrefl.updThread ..) _ fun k => ?_) ..) _
        rfl
    · exact hrefl

/-- The effects of the cycles before a clock value take hold. -/
theorem passes_settleTo (t : Nat) (h : Hw) : Passes h (h.settleTo t) := by
  have hdrop : ∀ n, Passes h { h with later := h.later.drop n } := fun n => (Passes.refl h).frame rfl rfl rfl
  refine (hdrop _).trans (passes_foldl (fun x e => ?_) _ _)
  have hclock : Passes x { x with clock := max x.clock e.1 } := (Passes.refl x).frame rfl rfl rfl
  exact hclock.trans (passes_applyLater ..)

/-- An event takes place. -/
theorem passes_event (t : Nat) (h : Hw) : Passes h (h.event t) := by
  have hreach : Passes h (h.reach t) := by
    unfold Hw.reach
    split
    · exact .refl h
    · exact ((passes_settleTo t h).trans (passes_settleTo t _)).frame rfl rfl rfl
  exact hreach.frame rfl rfl rfl

end

end Sys2Proof.Machine

namespace Sys2Proof.Machine

/-! ### The bytes of the runner (R383, R463) -/

section
variable {p : Nat → Prop} {h x : Hw}

/-- The traffic of a line read at the command. -/
theorem winds_lineTraffic (src key : Nat) (vc : Fin 4) (h : Hw) : Winds p h (h.lineTraffic src key vc).2 := by
  have hflit : Winds p h (h.postAuto src (keyEnd key) vc h.clock) := by
    unfold Hw.postAuto Hw.postRow
    split
    · exact .refl p h
    · exact (Winds.refl p h).frame rfl rfl rfl rfl
  have hport : ∀ (y : Hw) b port t, Winds p y (y.portTurn b port t).2 := fun y _ _ _ => by
    unfold Hw.portTurn
    dsimp only
    exact (Winds.refl p y).updBent _ (fun _ => rfl)
  have hslice : ∀ (y : Hw) b sl t, Winds p y (y.sliceTurn b sl t).2 := fun y _ _ _ => by
    unfold Hw.sliceTurn
    dsimp only
    exact (Winds.refl p y).updBent _ (fun _ => rfl)
  have hanswer : ∀ (y : Hw) b port t, Winds p y (y.answerTurn b port t).2 := fun y _ _ _ => by
    unfold Hw.answerTurn
    dsimp only
    exact (Winds.refl p y).updBent _ (fun _ => rfl)
  unfold Hw.lineTraffic
  refine Winds.carry ?_ _ _ _ _
  dsimp only
  split
  · exact hflit
  · exact ((hflit.trans (hport ..)).trans (hslice ..)).trans (hanswer ..)

/-- No slice holds an uncorrectable word. -/
def Hw.Clean (h : Hw) : Prop := ∀ b, (h.bent b).sliceUe = []

/-- What leaves the uncorrectable words leaves none. -/
theorem Hw.Clean.winds (hh : h.Clean) (hx : Winds p h x) : x.Clean := fun b =>
  (congrFun (congrArg Lasting.ues hx.lasting) b).trans (hh b)

/-- A range cut in two. -/
theorem memReadN_add (a k n : Nat) (m : Mem) : memReadN a (k + n) m = memReadN a k m ++ memReadN (a + k) n m := by
  simp [memReadN, List.range_add, Nat.add_assoc]

/-- A line of shared memory with no uncorrectable word is read. -/
theorem lineRead_clean {loc n : Nat} (hloc : loc % 64 = 0) (hn : n ≤ 64) (hsh : loc < locExt 0) (hh : h.Clean) (src : Nat) (vc : Fin 4)
    (m : Mem) : ∃ y, h.lineRead src vc loc n m = (some (memReadN loc n m), y) ∧ Winds p h y := by
  have hkey : isExtKey (loc / 64) = false := decide_eq_false (by unfold extLine0; unfold locExt at hsh; omega)
  have hline : loc / 64 * 64 = loc := Nat.div_mul_cancel (Nat.dvd_of_mod_eq_zero hloc)
  have hx := winds_lineTraffic (p := p) src (loc / 64) vc h
  have hread : performRead (loc / 64) m (h.lineTraffic src (loc / 64) vc).2 =
      (some (memReadN loc 64 m), (h.lineTraffic src (loc / 64) vc).2) := by
    unfold performRead
    rw [hkey, if_neg (by decide), hh.winds hx, List.any_nil, if_neg (by decide), hline]
  have htake : (memReadN loc 64 m).take n = memReadN loc n m := by
    rw [show 64 = n + (64 - n) by omega, memReadN_add, List.take_left' (memReadN_length ..)]
  refine ⟨(h.lineTraffic src (loc / 64) vc).2, ?_, hx⟩
  unfold Hw.lineRead
  dsimp only
  rw [hread, Option.map_some, hloc, List.drop_zero, htake]
  rfl

/-- A location of shared memory is an address of it. -/
theorem locShared_div {b off k : Nat} (hoff : off + k < 0x40000000) : (locShared b off - 0x001000000000 + k) / 0x40000000 = b := by
  unfold locShared
  omega

/-- The offset of a location of shared memory. -/
theorem locShared_mod {b off : Nat} (hoff : off < 0x40000000) : (locShared b off - 0x001000000000) % 0x40000000 = off := by
  unfold locShared
  omega

/-- Shared memory lies above the addresses of a core's own stores. -/
theorem le_locShared (b off : Nat) : 0x001000000000 ≤ locShared b off := by
  unfold locShared
  omega

/-- Where a range of shared memory of one bent lies. -/
theorem locate_shared {b off n : Nat} (hn : 0 < n) (hoff : off + n ≤ 0x40000000) (hb : locShared b off + n ≤ 0x001C00000000) :
    locate 0 (locShared b off) n = .shared b off := by
  have hspad : spadSize ((0 : CoreId) : Nat) = 0x200000 := rfl
  have hlow := le_locShared b off
  have hown : ¬(locShared b off + n ≤ 0x200000) := by omega
  have hwindow : ¬((0x40000000 ≤ locShared b off && locShared b off + n ≤ 0x80000000) = true) := by simp; omega
  have hbent : (0x001000000000 ≤ locShared b off && locShared b off + n ≤ 0x001C00000000 && b == b) = true := by simp; omega
  have hfirst := locShared_div (b := b) (off := off) (k := 0) (by omega)
  rw [Nat.add_zero] at hfirst
  have hlast : (locShared b off - 0x001000000000 + n - 1) / 0x40000000 = b := by
    rw [Nat.add_sub_assoc hn]
    exact locShared_div (by omega)
  unfold locate
  dsimp only
  rw [hspad, if_neg hown, if_neg hwindow, hfirst, hlast, locShared_mod (by omega), if_pos hbent]

/-- A range of one line is one piece. -/
theorem pieces_line {loc n : Nat} (hn : 0 < n) (hline : loc % 64 + n ≤ 64) : pieces loc n = [(loc, n)] := by
  have hmin : min n (64 - loc % 64) = n := by omega
  simp [pieces, cutLines, hmin, Nat.pos_iff_ne_zero.mp hn]

/-- A range of one piece is read. -/
theorem readLines_one {src loc n : Nat} {bs : List Byte} {m : Mem} {y : Hw} (hy : h.lineRead src 0 loc n m = (some bs, y)) :
    readLines src [(loc, n)] m h = (some bs, y) := by
  rw [readLines, hy]
  simp only [readLines, Option.map_some, List.append_nil]

/-- External memory lies above shared memory. -/
theorem lt_locExt {a : Nat} (ha : a < 0x001C00000000) : a < locExt 0 := by
  unfold locExt
  omega

/-- A range of no bytes. -/
theorem readNow_zero (src : Nat) (any : Bool) (acc : Acc) (fuel addr : Nat) (m : Mem) (h : Hw) :
    readNow src any acc fuel addr 0 m h = (.ok [], h) := by
  cases fuel with
  | zero => rw [readNow]
  | succ fuel => rw [readNow, if_pos rfl]

/-- A range whose first line is read goes on with the next. -/
theorem readNow_line {any : Bool} {acc : Acc} {src fuel addr n k : Nat} {ps : List (Nat × Nat)} {bs : List Byte} {m : Mem} {y : Hw}
    (hn : n ≠ 0) (hk : min n (64 - addr % 64) = k) (hx : xpath (xlocate 0 addr k any) k (xlatNow acc m) h = (.cache ps, h))
    (hl : readLines src ps m h = (some bs, y)) :
    readNow src any acc (fuel + 1) addr n m h = ((readNow src any acc fuel (addr + k) (n - k) m y).1.map (bs ++ ·),
      (readNow src any acc fuel (addr + k) (n - k) m y).2) := by
  subst hk
  rw [readNow, if_neg hn]
  dsimp only
  rw [hx]
  dsimp only
  rw [hl]

/-- A range of shared memory of one bent is read, from the start of a line. -/
theorem readNow_shared {fuel b off n : Nat} (hfuel : n ≤ 64 * fuel) (hoff : off + n ≤ 0x40000000)
    (hb : locShared b off + n ≤ 0x001C00000000) (hline : 0 < n → off % 64 = 0) (hh : h.Clean) (src : Nat) (acc : Acc) (m : Mem) :
    ∃ y, readNow src false acc fuel (locShared b off) n m h = (.ok (memReadN (locShared b off) n m), y) ∧ Winds p h y := by
  induction fuel generalizing off n h with
  | zero =>
    obtain rfl : n = 0 := by omega
    exact ⟨h, readNow_zero .., .refl p h⟩
  | succ fuel ih =>
    obtain rfl | hpos := Nat.eq_zero_or_pos n
    · exact ⟨h, readNow_zero .., .refl p h⟩
    · have hmod : locShared b off % 64 = 0 := by
        have := hline hpos
        unfold locShared
        omega
      obtain ⟨k, hk⟩ : ∃ k, min n (64 - locShared b off % 64) = k := ⟨_, rfl⟩
      obtain ⟨y, hy, hwy⟩ := lineRead_clean (p := p) (loc := locShared b off) (n := k) hmod (by omega)
        (lt_locExt (by omega)) hh src 0 m
      have hlines : readLines src [(locShared b off, k)] m h = (some (memReadN (locShared b off) k m), y) :=
        readLines_one hy
      have hpath : xpath (xlocate 0 (locShared b off) k false) k (xlatNow acc m) h = (.cache [(locShared b off, k)], h) := by
        rw [xlocate, locate_shared (by omega) (by omega) (by omega), xpath, pieces_line (by omega) (by omega)]
      have hnext : locShared b off + k = locShared b (off + k) := by
        unfold locShared
        omega
      obtain ⟨z, hz, hwz⟩ := ih (off := off + k) (n := n - k) (h := y) (by omega) (by omega)
        (by rw [← hnext]; omega) (by omega) (hh.winds hwy)
      have hsum : k + (n - k) = n := by omega
      refine ⟨z, ?_, hwy.trans hwz⟩
      rw [readNow_line (Nat.pos_iff_ne_zero.mp hpos) hk hpath hlines, hnext, hz, ← hnext]
      nth_rewrite 3 [← hsum]
      rw [memReadN_add]
      rfl

end

end Sys2Proof.Machine

namespace Sys2Proof.Machine

/-! ### What a scrub clears (R460) -/

section
variable {h : Hw} {l : Level} {m : Mem} {a : Nat}

/-- A byte after a scrub. -/
theorem memRead_scrubMem (a : Nat) (l : Level) (m : Mem) (h : Hw) :
    memRead a (scrubMem l m h) = if h.scrubs l a then memDefault a else memRead a m := by
  unfold scrubMem
  split
  case isTrue hs => exact memRead_filter_none (q := fun a => !h.scrubs l a) (by simp [hs]) m
  case isFalse hs => exact memRead_filter (q := fun a => !h.scrubs l a) (by simp [hs]) m

/-- An unwritten byte that is in neither the page map nor the boot flash. -/
theorem memDefault_zero (hp : a < locExt 0x7FFC000000 ∨ locExt 0x8000000000 ≤ a) (hf : a < locFlash 0) : memDefault a = 0 := by
  unfold memDefault
  dsimp only
  rw [if_neg, if_neg (Nat.not_le.mpr hf)]
  unfold locExt at hp ⊢
  omega

/-- The stores of a core are no larger than their places. -/
theorem stores_le (c : Nat) : spadSize c ≤ 0x200000 ∧ imemSize c ≤ 0x100000 := by
  unfold spadSize imemSize byKind
  split_ifs <;> omega

/-- A byte of a core's scratchpad lies in the core's place. -/
theorem locScratch_place {c off : Nat} (hc : c < 2112) (hoff : off < spadSize c) :
    0x002000000000 + bentOf c * 0x08000000 + coreIn c * 0x00200000 ≤ locScratch c off ∧
      locScratch c off < 0x002000000000 + bentOf c * 0x08000000 + (coreIn c + 1) * 0x00200000 ∧ bentOf c < 48 ∧ coreIn c < 44 := by
  have hsize := (stores_le c).1
  unfold locScratch
  refine ⟨by omega, by omega, ?_, ?_⟩
  · unfold bentOf; omega
  · unfold coreIn; omega

/-- A byte of a core's instruction memory lies in the core's place. -/
theorem locImem_place {c off : Nat} (hoff : off < imemSize c) :
    0x030000000000 + c * 0x100000 ≤ locImem c off ∧ locImem c off < 0x030000000000 + (c + 1) * 0x100000 := by
  have hsize := (stores_le c).2
  unfold locImem
  omega

/-- A reset scrubs the scratchpads of the cores it covers. -/
theorem scrubs_scratch {c off : Nat} (hl : l.covers c = true) (hc : c < 2112) (hoff : off < spadSize c) :
    h.scrubs l (locScratch c off) = true := by
  obtain ⟨hlow, hhigh, hbent, hin⟩ := locScratch_place hc hoff
  have hwide : locScratch 0 0 ≤ locScratch c off ∧ locScratch c off < locScratch 0 0 + 48 * 0x08000000 := by
    have h0 : locScratch 0 0 = 0x002000000000 := rfl
    rw [h0]
    omega
  cases l with
  | core d =>
    obtain rfl : d.val = c := beq_iff_eq.mp hl
    have hmine : locScratch d 0 ≤ locScratch d off ∧ locScratch d off < locScratch d (spadSize d) :=
      ⟨Nat.add_le_add_left (Nat.zero_le _) _, Nat.add_lt_add_left hoff _⟩
    simp only [Hw.scrubs, decide_eq_true hmine, Bool.true_or]
  | job => simp only [Hw.scrubs, decide_eq_true hwide, Bool.true_or]
  | frame => simp only [Hw.scrubs, decide_eq_true hwide, Bool.true_or]

/-- A reset scrubs the instruction memories of the cores it covers. -/
theorem scrubs_imem {c off : Nat} (hl : l.covers c = true) (hc : c < 2112) (hoff : off < imemSize c) :
    h.scrubs l (locImem c off) = true := by
  obtain ⟨hlow, hhigh⟩ := locImem_place hoff
  have hwide : locImem 0 0 ≤ locImem c off ∧ locImem c off < locImem 2112 0 := by
    have h0 : locImem 0 0 = 0x030000000000 := rfl
    have h1 : locImem 2112 0 = 0x030000000000 + 2112 * 0x100000 := rfl
    rw [h0, h1]
    omega
  cases l with
  | core d =>
    obtain rfl : d.val = c := beq_iff_eq.mp hl
    have hmine : locImem d 0 ≤ locImem d off ∧ locImem d off < locImem d (imemSize d) :=
      ⟨Nat.add_le_add_left (Nat.zero_le _) _, Nat.add_lt_add_left hoff _⟩
    simp only [Hw.scrubs, decide_eq_true hmine, Bool.or_true]
  | job => simp only [Hw.scrubs, decide_eq_true hwide, Bool.or_true, Bool.true_or]
  | frame => simp only [Hw.scrubs, decide_eq_true hwide, Bool.or_true, Bool.true_or]

/-- A core reset scrubs nothing outside the places of its core. -/
theorem scrubs_core {c : CoreId} (hs : a < locScratch c 0 ∨ locScratch c (spadSize c) ≤ a)
    (hi : a < locImem c 0 ∨ locImem c (imemSize c) ≤ a) : h.scrubs (.core c) a = false := by
  have hscratch : ¬(locScratch c 0 ≤ a ∧ a < locScratch c (spadSize c)) := by omega
  have himem : ¬(locImem c 0 ≤ a ∧ a < locImem c (imemSize c)) := by omega
  simp only [Hw.scrubs, decide_eq_false hscratch, decide_eq_false himem, Bool.or_false]

/-- What a job or frame reset scrubs beside the cores' own places. -/
theorem scrubs_wide (hl : l = .job ∨ l = .frame) (hs : a < locScratch 0 0 ∨ locScratch 0 0 + 48 * 0x08000000 ≤ a)
    (hi : a < locImem 0 0) :
    h.scrubs l a = (decide (locShared 0 0 ≤ a ∧ a < locShared 48 0) && (l == .frame || h.conf.scrubShared)) := by
  have hscratch : ¬(locScratch 0 0 ≤ a ∧ a < locScratch 0 0 + 48 * 0x08000000) := by omega
  have himem : ¬(locImem 0 0 ≤ a ∧ a < locImem 2112 0) := by omega
  rcases hl with rfl | rfl
  · simp only [Hw.scrubs, decide_eq_false hscratch, decide_eq_false himem, Bool.or_false, Bool.false_or]
    rfl
  · simp only [Hw.scrubs, decide_eq_false hscratch, decide_eq_false himem, Bool.or_false, Bool.false_or, beq_self_eq_true,
      Bool.true_or, Bool.and_true]

end

end Sys2Proof.Machine

namespace Sys2Proof.Machine

/-! ### The end of a scrub (R463, R464, R465) -/

section
variable {p : Nat → Prop} {op : ResetOp} {h : Hw} {m : Mem}

/-- The list of resets of both machines changes. -/
theorem Winds.withResets {x : Hw} (hx : Winds p h x) (rs : List ResetOp) : Winds p { h with resets := rs } { x with resets := rs } :=
  ⟨congrArg (fun l => { l with resets := rs }) hx.lasting, hx.core, hx.others, hx.tuples⟩

/-- The machine at the end of the scrub of a reset, from the event of its end: what has reached the covered cores is discarded, and the
reset is no longer in progress. -/
def Hw.unscrubbed (z : Hw) (op : ResetOp) : Hw := { z.discardAll op.level with resets := (z.discardAll op.level).resets.erase op }

/-- Beside the list of resets, nothing that a reset keeps has changed. -/
theorem winds_unscrubbed {z : Hw} (hz : z.resets = [op]) : Winds p { z with resets := [] } (z.unscrubbed op) := by
  have hx := winds_discardAll (p := p) op.level z
  have hresets : (z.discardAll op.level).resets = [op] := (congrArg Lasting.resets hx.lasting).trans hz
  unfold Hw.unscrubbed
  rw [hresets, List.erase_cons_head]
  exact hx.withResets []

/-- The memory after the scrub. -/
def Hw.scrubbedMem (z : Hw) (op : ResetOp) (m : Mem) : Mem := scrubMem op.level m (z.discardAll op.level)

/-- A core goes on, unless a post-mortem hold keeps it. -/
def Hw.coreUnheld (h : Hw) (c : CoreId) : Hw := if h.postMortem then h else h.updCore c (·.unhold h.clock)

/-- Every core goes on. -/
def Hw.allUnheld (h : Hw) : Hw := h.updAllCores (·.unhold h.clock)

/-- The runner's bytes, where they can be read, go into a core's instruction memory, and its thread 0 starts. -/
def rerun (c : CoreId) (m : Mem) : Except Nat (List Byte) × Hw → Mem × Hw
  | (.ok bs, h) => (loadRunner h.firm.runner.2.2.1 bs [c] m, (h.startRunner [c]).postAfterReset)
  | (.error _, h) => (m, h.postAfterReset)

/-- Of the scrubs in progress there is one. -/
theorem inOrder_one (hr : h.resets = [op]) (hq : op.quiesced = true) :
    inOrder (fun x y : ResetOp => decide (x.due ≤ y.due)) (h.resets.filter (·.quiesced)) = [op] := by
  rw [hr, List.filter_cons_of_pos hq]
  rfl

/-- The scrub of the one reset in progress, of a core, ends. -/
theorem scrubEnd_core {c : CoreId} (hl : op.level = .core c) (hr : h.resets = [op]) (hq : op.quiesced = true) : scrubEnd m h =
    if ((((h.event op.due).unscrubbed op).coreUnheld c).core c).runsCut.isSome then
      rerun c ((h.event op.due).scrubbedMem op m)
        ((((h.event op.due).unscrubbed op).coreUnheld c).runnerBytes ((h.event op.due).scrubbedMem op m))
    else ((h.event op.due).scrubbedMem op m, (((h.event op.due).unscrubbed op).coreUnheld c).postAfterReset) := by
  have hslices : ∀ y : Hw, y.scrubSlices (.core c) = y := fun y => if_neg (by simp)
  obtain ⟨l, hold, quiesced, due⟩ := op
  obtain rfl : l = .core c := hl
  rw [scrubEnd, inOrder_one hr hq]
  simp only [hslices]
  rfl

/-- The scrub of the one reset in progress, of the job or the frame, ends. -/
theorem scrubEnd_wide (hl : op.level = .job ∨ op.level = .frame) (hr : h.resets = [op]) (hq : op.quiesced = true) :
    scrubEnd m h = ((h.event op.due).scrubbedMem op m,
      (((h.event op.due).unscrubbed op).scrubSlices op.level).allUnheld.postAfterReset) := by
  obtain ⟨l, hold, quiesced, due⟩ := op
  rw [scrubEnd, inOrder_one hr hq]
  rcases hl with rfl | rfl <;> rfl

end

end Sys2Proof.Machine

namespace Sys2Proof.Claims

open Sys2Proof.Machine

/-! ### The end of a scrub (R460, R463, R464, R465) -/

section
variable {op : ResetOp} {s t : State} {c : CoreId} {h x z : Hw} {m : Mem}

/-- The private stores of a covered core read 0 in the scrubbed memory. -/
theorem privateCleared_scrubbedMem (hc : op.level.covers c = true) (ht : t.mem = z.scrubbedMem op m) : PrivateCleared c t := by
  rw [PrivateCleared, ht]
  refine ⟨fun a ha => ?_, fun a ha => ?_⟩
  · obtain ⟨-, hhigh, hbent, hin⟩ := locScratch_place c.isLt ha
    rw [Hw.scrubbedMem, memRead_scrubMem, if_pos (scrubs_scratch hc c.isLt ha)]
    refine memDefault_zero (.inl ?_) ?_
    · unfold locExt; omega
    · unfold locFlash; omega
  · obtain ⟨hlow, hhigh⟩ := locImem_place ha
    have hlt := c.isLt
    rw [Hw.scrubbedMem, memRead_scrubMem, if_pos (scrubs_imem hc c.isLt ha)]
    refine memDefault_zero (.inr ?_) ?_
    · unfold locExt; omega
    · unfold locFlash; omega

/-- A core reset leaves the scratchpads of the other cores. -/
theorem scratch_scrubbedMem (hl : op.level = .core c) {k : CoreId} (hk : k ≠ c) {a : Nat} (ha : a < spadSize k) :
    memRead (locScratch k a) (z.scrubbedMem op m) = memRead (locScratch k a) m := by
  obtain ⟨hlow, hhigh, hbent, hin⟩ := locScratch_place k.isLt ha
  have hsize := (stores_le c).1
  have hplaces : bentOf k ≠ bentOf c ∨ coreIn k ≠ coreIn c := by
    by_contra hsame
    rw [not_or, not_not, not_not] at hsame
    unfold bentOf coreIn at hsame
    exact hk (Fin.ext (by omega))
  have hlt : coreIn c < 44 := Nat.mod_lt _ (by decide)
  rw [Hw.scrubbedMem, hl, memRead_scrubMem, scrubs_core, if_neg (by decide)]
  · unfold locScratch at hlow hhigh ⊢
    omega
  · left
    unfold locImem
    omega

/-- A core reset leaves what lies below the scratchpads. -/
theorem below_scrubbedMem (hl : op.level = .core c) {a : Nat} (ha : a < 0x002000000000) :
    memRead a (z.scrubbedMem op m) = memRead a m := by
  rw [Hw.scrubbedMem, hl, memRead_scrubMem, scrubs_core, if_neg (by decide)]
  · unfold locScratch
    omega
  · unfold locImem
    omega

/-- Shared memory after the scrub of a job or frame reset. -/
theorem shared_scrubbedMem (hl : op.level = .job ∨ op.level = .frame) {b a : Nat} (hb : b < 48) (ha : a < 0x40000000) :
    memRead (locShared b a) (z.scrubbedMem op m) =
      if op.level = .frame ∨ z.conf.scrubShared = true then 0 else memRead (locShared b a) m := by
  have hconf : (z.discardAll op.level).conf = z.conf := congrArg Lasting.conf (winds_discardAll (p := fun _ => False) op.level z).lasting
  have hplace : locShared 0 0 ≤ locShared b a ∧ locShared b a < locShared 48 0 := by
    unfold locShared
    omega
  have hzero : memDefault (locShared b a) = 0 := by
    refine memDefault_zero (.inl ?_) ?_
    · unfold locExt locShared; omega
    · unfold locFlash locShared; omega
  rw [Hw.scrubbedMem, memRead_scrubMem, scrubs_wide hl (.inl (by unfold locScratch locShared bentOf coreIn; omega))
    (by unfold locImem locShared; omega), hconf, decide_eq_true hplace, Bool.true_and, hzero]
  refine if_congr ?_ rfl rfl
  rw [Bool.or_eq_true, beq_iff_eq]

/-- External memory after the scrub of a job or frame reset. -/
theorem ext_scrubbedMem (hl : op.level = .job ∨ op.level = .frame) {a : Nat} (ha : a < 0x8000000000) :
    memRead (locExt a) (z.scrubbedMem op m) = memRead (locExt a) m := by
  have hplace : ¬(locShared 0 0 ≤ locExt a ∧ locExt a < locShared 48 0) := by
    unfold locShared locExt
    omega
  rw [Hw.scrubbedMem, memRead_scrubMem, scrubs_wide hl (.inr (by unfold locScratch locExt bentOf coreIn; omega))
    (by unfold locImem locExt; omega), decide_eq_false hplace, Bool.false_and, if_neg (by decide)]

/-- What a core that goes on leaves of the rest. -/
theorem lasting_coreUnheld (h : Hw) (c : CoreId) : (h.coreUnheld c).lasting = h.lasting := by
  unfold Hw.coreUnheld
  split <;> rfl

/-- A core goes on. -/
theorem core_coreUnheld (hpm : h.postMortem = false) : (h.coreUnheld c).core c = (h.core c).unhold h.clock := by
  rw [Hw.coreUnheld, hpm, if_neg (by decide), Hw.core_updCore_self]

/-- It keeps its cut. -/
theorem runsCut_coreUnheld (h : Hw) (c : CoreId) : ((h.coreUnheld c).core c).runsCut = (h.core c).runsCut := by
  unfold Hw.coreUnheld
  split
  · rfl
  · rw [Hw.core_updCore_self]
    rfl

/-- What the end of a scrub finds of what a reset keeps. -/
structure AtScrubEnd (op : ResetOp) (s : State) (y : Hw) : Prop where
  winds : Winds (fun _ => False) { s.hw.event op.due with resets := [] } y
  resets : y.resets = []
  clock : y.clock = (s.hw.event op.due).clock
  postMortem : y.postMortem = s.hw.postMortem
  firm : y.firm = s.hw.firm
  segs : y.le.runnerSegs = s.hw.le.runnerSegs
  afterReset : y.lasting.afterReset = []
  runsCut : ∀ c : Nat, (y.core c).runsCut = (s.hw.core c).runsCut

/-- What the end of a scrub finds of what a reset keeps, where one reset is in progress. -/
theorem atScrubEnd (hr : s.hw.resets = [op]) (ha : s.hw.net.afterReset = []) :
    AtScrubEnd op s ((s.hw.event op.due).unscrubbed op) := by
  have hpass := passes_event op.due s.hw
  have hresets : (s.hw.event op.due).resets = [op] := (congrArg Lasting.resets hpass.lasting).trans hr
  have hnone : (s.hw.event op.due).lasting.afterReset = [] := (congrArg Lasting.afterReset hpass.lasting).trans ha
  have hw := winds_unscrubbed (p := fun _ => False) hresets
  exact
    { winds := hw
      resets := congrArg Lasting.resets hw.lasting
      clock := congrArg Lasting.clock hw.lasting
      postMortem := (congrArg Lasting.postMortem hw.lasting).trans (congrArg Lasting.postMortem hpass.lasting)
      firm := (congrArg Lasting.firm hw.lasting).trans (congrArg Lasting.firm hpass.lasting)
      segs := (congrArg Lasting.segs hw.lasting).trans (congrArg Lasting.segs hpass.lasting)
      afterReset := (congrArg Lasting.afterReset hw.lasting).trans hnone
      runsCut := fun c => (congrArg (fun x => x.2.2.1) (hw.core c)).trans (hpass.runsCut c) }

/-- The end of a scrub, where its effect is known. -/
theorem yields_scrubEnd {m : Mem} {x : Hw} (he : scrubEnd s.mem s.hw = (m, x)) {P : State → Prop}
    (hp : P { s with mem := m, hw := x }) : Yields .scrubEnd s P := by
  refine ⟨{ s with mem := m, hw := x }, ?_, hp⟩
  show onMem (fun m h => scrubEnd m h) s = _
  rw [onMem, he]

/-- The scrub of a core with no cut ends. -/
theorem coreScrubEnds (hr : s.hw.resets = [op]) (hq : op.quiesced = true) (ha : s.hw.net.afterReset = []) (hl : op.level = .core c)
    (hcut : (s.hw.core c).runsCut = none) : Yields .scrubEnd s (fun t => t.hw.resets = [] ∧
      t.hw.clock = (s.hw.event op.due).clock ∧ (s.hw.postMortem = false → GoesOn c t) ∧
      (s.hw.postMortem = true → (t.hw.core c).held = ((s.hw.event op.due).core c).held) ∧ PrivateCleared c t ∧
      ∀ (k : CoreId) (a : Nat), k ≠ c → a < spadSize k → memRead (locScratch k a) t.mem = memRead (locScratch k a) s.mem) := by
  have hy := atScrubEnd hr ha
  have hend := scrubEnd_core (m := s.mem) hl hr hq
  set y := (s.hw.event op.due).unscrubbed op
  have hlasting := lasting_coreUnheld y c
  have hafter : (y.coreUnheld c).postAfterReset = y.coreUnheld c :=
    postAfterReset_none ((congrArg Lasting.afterReset hlasting).trans hy.afterReset)
  rw [runsCut_coreUnheld, hy.runsCut, hcut, if_neg (by decide), hafter] at hend
  refine yields_scrubEnd hend ⟨(congrArg Lasting.resets hlasting).trans hy.resets, (congrArg Lasting.clock hlasting).trans hy.clock,
    fun hpm => ?_, fun hpm => ?_, ?_, fun k a hk hak => scratch_scrubbedMem hl hk hak⟩
  · have hcore := core_coreUnheld (c := c) (hy.postMortem.trans hpm)
    exact ⟨congrArg Core.held hcore, (congrArg Core.cyc0 hcore).trans (congrArg Lasting.clock hlasting).symm⟩
  · have hheld : y.coreUnheld c = y := if_pos (hy.postMortem.trans hpm)
    show ((y.coreUnheld c).core c).held = _
    rw [hheld]
    exact congrArg Prod.fst (hy.winds.core c)
  · exact privateCleared_scrubbedMem (by rw [hl]; exact beq_self_eq_true _) rfl

/-- The scrub of a job or frame reset ends. -/
theorem wideScrubEnds (hr : s.hw.resets = [op]) (hq : op.quiesced = true) (ha : s.hw.net.afterReset = [])
    (hl : op.level = .job ∨ op.level = .frame) : Yields .scrubEnd s (fun t => t.hw.resets = [] ∧
      t.hw.clock = (s.hw.event op.due).clock ∧ (∀ c : CoreId, GoesOn c t ∧ PrivateCleared c t) ∧
      (∀ b a, b < 48 → a < 0x40000000 → memRead (locShared b a) t.mem =
        if op.level = .frame ∨ s.hw.conf.scrubShared = true then 0 else memRead (locShared b a) s.mem) ∧
      ∀ a, a < 0x8000000000 → memRead (locExt a) t.mem = memRead (locExt a) s.mem) := by
  have hy := atScrubEnd hr ha
  have hend := scrubEnd_wide (m := s.mem) hl hr hq
  set y := (s.hw.event op.due).unscrubbed op
  have hconf : (s.hw.event op.due).conf = s.hw.conf := congrArg Lasting.conf (passes_event op.due s.hw).lasting
  have hslices : (y.scrubSlices op.level).resets = y.resets ∧
      (y.scrubSlices op.level).clock = y.clock ∧ (y.scrubSlices op.level).net = y.net := by
    unfold Hw.scrubSlices
    split <;> exact ⟨rfl, rfl, rfl⟩
  obtain ⟨hresets, hclock, hnet⟩ := hslices
  have hafter : (y.scrubSlices op.level).allUnheld.postAfterReset = (y.scrubSlices op.level).allUnheld :=
    postAfterReset_none ((congrArg Net.afterReset hnet).trans hy.afterReset)
  rw [hafter] at hend
  refine yields_scrubEnd hend ⟨Eq.trans hresets hy.resets, Eq.trans hclock hy.clock, fun c => ⟨?_, ?_⟩, fun b a hb hba => ?_,
    fun a hba => ext_scrubbedMem hl hba⟩
  · have hcore : (y.scrubSlices op.level).allUnheld.core c = ((y.scrubSlices op.level).core c).unhold (y.scrubSlices op.level).clock :=
      Hw.core_updAllCores ..
    exact ⟨congrArg Core.held hcore, congrArg Core.cyc0 hcore⟩
  · exact privateCleared_scrubbedMem (by rcases hl with hl | hl <;> rw [hl] <;> rfl) rfl
  · rw [← hconf]
    exact shared_scrubbedMem hl hb hba

end

end Sys2Proof.Claims

namespace Sys2Proof.Claims

open Sys2Proof.Machine

/-! ### A core of a running cut goes on with its runner (R463) -/

section
variable {op : ResetOp} {s : State} {c : CoreId} {h x : Hw} {m : Mem} {src len dst entry : Nat}

/-- A readable range of whole lines lies in the shared memory of one bent. -/
theorem Readable.shared (hrd : Readable src len h) (hline : src % 64 = 0) :
    ∃ b off, src = locShared b off ∧ off + len ≤ 0x40000000 ∧ off % 64 = 0 ∧ locShared b off + len ≤ 0x001C00000000 := by
  have hin := hrd.2
  simp only [inOneBent, Bool.and_eq_true, decide_eq_true_eq, beq_iff_eq] at hin
  obtain ⟨⟨hlow, hhigh⟩, hbent⟩ := hin
  have hsrc : src = locShared ((src - 0x001000000000) / 0x40000000) ((src - 0x001000000000) % 0x40000000) := by
    unfold locShared
    omega
  exact ⟨_, _, hsrc, by omega, by omega, hsrc ▸ hhigh⟩

/-- No uncorrectable word, where a reset keeps them. -/
theorem clean_of_lasting (hx : x.lasting = h.lasting) (hh : h.Clean) : x.Clean := fun b =>
  (congrFun (congrArg Lasting.ues hx) b).trans (hh b)

/-- The bytes of a readable runner are read. -/
theorem runnerBytes_readable (hf : x.firm.runner = (src, len, dst, entry)) (hrd : Readable src len h) (hline : src % 64 = 0)
    (hx : x.Clean) (m : Mem) : ∃ w, x.runnerBytes m = (.ok (memReadN src len m), w) ∧ Winds (fun _ => False) x w := by
  obtain ⟨b, off, rfl, hoff, hmod, hb⟩ := hrd.shared hline
  have hfuel : len ≤ 64 * (len / 64 + 2) := by omega
  rw [Hw.runnerBytes, hf]
  exact readNow_shared hfuel hoff hb (fun _ => hmod) hx ..

/-- A byte of a readable range lies below the scratchpads. -/
theorem Readable.below (hrd : Readable src len h) {k : Nat} (hk : k < len) : src + k < 0x002000000000 := by
  have hin := hrd.2
  simp only [inOneBent, Bool.and_eq_true, decide_eq_true_eq] at hin
  omega

/-- The core whose thread 0 starts at the runner. -/
def Core.startedAt (k : Core) (pc : BitVec 20) (next : Nat) (segs : BitVec 16) : Core :=
  { k.updThread 0 (fun th => if th.tstate = .halted then th.restart pc next else th) with isegx := segs }

/-- The runner of one core starts. -/
theorem startRunner_one (h : Hw) (c : CoreId) : h.startRunner [c] = h.updCore c (fun k =>
    Core.startedAt k (BitVec.ofNat 20 h.firm.runner.2.2.2 &&& 0xFFFFC#20) (h.cycle c + 1) h.le.runnerSegs) := rfl

/-- Thread 0 runs. -/
theorem tstate_startedAt {k : Core} (hk : (k.thread 0).tstate = .halted) (pc : BitVec 20) (next : Nat) (segs : BitVec 16) :
    ((Core.startedAt k pc next segs).thread 0).tstate = .running := by
  show ((k.updThread 0 _).thread 0).tstate = .running
  rw [Core.thread_updThread_self, if_pos hk]
  rfl

/-- A byte of the runner in the instruction memory. -/
theorem memRead_loadRunner {k : Nat} (hk : k < len) (m m' : Mem) :
    memRead (locImem c (dst + k)) (loadRunner dst (memReadN src len m') [c] m) = memRead (src + k) m' := by
  have hloc : locImem c (dst + k) = locImem c dst + k := by
    unfold locImem
    omega
  have hlen : k < (memReadN src len m').length := by rwa [memReadN_length]
  show memRead _ (memWriteN (locImem c dst) (memReadN src len m') m) = _
  rw [hloc, memRead_memWriteN_in _ _ hlen]
  simp [memReadN, hk]

/-- The scrub of a core of a running cut ends. -/
theorem runnerScrubEnds {i : Nat} (hr : s.hw.resets = [op]) (hq : op.quiesced = true) (ha : s.hw.net.afterReset = [])
    (hl : op.level = .core c) (hcut : (s.hw.core c).runsCut = some i) (hf : s.hw.firm.runner = (src, len, dst, entry))
    (hrd : Readable src len (s.hw.event op.due)) (hline : src % 64 = 0)
    (hth : (((s.hw.event op.due).core c).thread 0).tstate = .halted) (hpm : s.hw.postMortem = false) :
    Yields .scrubEnd s (fun t => t.hw.resets = [] ∧ GoesOn c t ∧ ((t.hw.core c).thread 0).tstate = .running ∧
      (t.hw.core c).isegx = s.hw.le.runnerSegs ∧
      ∀ k, k < len → memRead (locImem c (dst + k)) t.mem = memRead (src + k) s.mem) := by
  have hy := atScrubEnd hr ha
  have hend := scrubEnd_core (m := s.mem) hl hr hq
  set y := (s.hw.event op.due).unscrubbed op
  have hlasting := lasting_coreUnheld y c
  have hcore := core_coreUnheld (c := c) (hy.postMortem.trans hpm)
  have hclean : y.Clean := Hw.Clean.winds (h := { s.hw.event op.due with resets := [] }) hrd.1 hy.winds
  obtain ⟨w, hbytes, hw⟩ := runnerBytes_readable (x := y.coreUnheld c)
    (((congrArg (fun l => l.firm.runner) hlasting).trans (congrArg Firm.runner hy.firm)).trans hf) hrd hline
    (clean_of_lasting hlasting hclean) ((s.hw.event op.due).scrubbedMem op s.mem)
  have hwl := hw.lasting.trans hlasting
  have hrunner : w.firm.runner = (src, len, dst, entry) :=
    ((congrArg (fun l => l.firm.runner) hwl).trans (congrArg Firm.runner hy.firm)).trans hf
  have hafter : (w.startRunner [c]).postAfterReset = w.startRunner [c] :=
    postAfterReset_none ((congrArg Lasting.afterReset hwl).trans hy.afterReset)
  rw [runsCut_coreUnheld, hy.runsCut, hcut, if_pos (by rfl), hbytes, rerun, hafter, hrunner] at hend
  have hstarted := congrArg (fun h : Hw => h.core c) (startRunner_one w c)
  rw [Hw.core_updCore_self] at hstarted
  have hheld : (w.core c).held = false := (congrArg Prod.fst (hw.core c)).trans (congrArg Core.held hcore)
  have hcyc : (w.core c).cyc0 = w.clock :=
    ((congrArg (fun x => x.2.1) (hw.core c)).trans (congrArg Core.cyc0 hcore)).trans (congrArg Lasting.clock hwl).symm
  have hthreads : (w.core c).threads = ((s.hw.event op.due).core c).threads :=
    ((hw.others c not_false).1.trans (congrArg Core.threads hcore)).trans (hy.winds.others c not_false).1
  have hhalted : ((w.core c).thread 0).tstate = .halted := by
    rw [Core.thread, hthreads]
    exact hth
  refine yields_scrubEnd hend ⟨(congrArg Lasting.resets hwl).trans hy.resets, ⟨?_, ?_⟩, ?_, ?_, fun k hk => ?_⟩
  · exact (congrArg Core.held hstarted).trans hheld
  · exact (congrArg Core.cyc0 hstarted).trans hcyc
  · exact (congrArg (fun k : Core => (k.thread 0).tstate) hstarted).trans (tstate_startedAt hhalted ..)
  · exact ((congrArg Core.isegx hstarted).trans (congrArg Lasting.segs hwl)).trans hy.segs
  · exact (memRead_loadRunner hk _ _).trans (below_scrubbedMem hl (hrd.below hk))

/-- Scrubs end. -/
theorem scrubsEnd : ScrubsEnd := by
  intro op s hr hq ha z
  refine ⟨fun c hl => ⟨fun hcut => coreScrubEnds hr hq ha hl hcut, ?_⟩, wideScrubEnds hr hq ha⟩
  intro i src len dst entry hcut hf hrd hline _ hth hpm
  exact runnerScrubEnds hr hq ha hl hcut hf hrd hline hth hpm

end

/-- Settles O56: a reset's cores are `Core.reset` of cores whose standing the catching up leaves; the scrub waits for memory alone, and ends
with a filter of memory by location and, for a core of a running cut, with the lines of its runner read one by one. -/
theorem resets : Obligations.Resets := ⟨resetsStop, resetsQuiesce, scrubsEnd⟩

end Sys2Proof.Claims

namespace Sys2Proof.Claims

open Sys2Proof.Machine

/-! ### Two requests of one engine that bear one number (R224, R226)

A transfer engine knows its requests by their numbers, and the issue of a unit is noted in every request that bears the number of the
first. `UnitsArePassedOn` has a premise that no request behind the first bears its number; `UnitsAreIssued` has none. -/

/-- A request of 64 bytes within the scratchpad of core 0, of which no unit has been issued. -/
def freshRequest : XReq :=
  { owner := .thread { core := 0, thread := 1 }, reqId := 4, home := 0, src := 0x180000, dst := 0x181000, len := 64, dspace := false
    dcore := 0, even := false, evt := 0, seq := 0 }

/-- The module after reset with that request twice in engine 2 of bent 0, in cycle 1000. -/
def repeatedState : State :=
  { pending := [], mem := []
    hw := ({ State.reset.hw with clock := 1000 } : Hw).updBent 0 (fun x =>
      { x with engines := x.engines.set 2 [freshRequest, freshRequest] }) }

/-- The hardware that TRANSFER_UNIT_ISSUE leaves. -/
theorem hw_of_transferUnitIssue {b : BentId} {e : Fin 4} {s : State} {h : Hw}
    (he : exec (.transferUnitIssue b e) s = .next { s with hw := h }) : h = (transferUnitIssue b e s.mem s.hw).2 :=
  (congrArg State.hw (Host.Outcome.next.inj he)).symm

/-- The issue of a unit of the first request moves both. -/
theorem next_issued_repeated :
    (((transferUnitIssue 0 2 repeatedState.mem repeatedState.hw).2.bent (0 : BentId)).engines[(2 : Fin 4)]).map (·.next) = [64, 64] := by
  decide +kernel

/-- Refutes O41: an engine whose second request bears the number of the first counts the unit that it issues of the first in both. -/
theorem not_transfersAreSubmittedAndCompleted : ¬ Obligations.TransfersAreSubmittedAndCompleted := by
  rintro ⟨-, hissued, -, -⟩
  obtain ⟨hissue, -⟩ := hissued 0 2 freshRequest [freshRequest] 1000 repeatedState (by decide +kernel) (by decide +kernel)
    (by decide +kernel) rfl (by decide) rfl (by decide) (by decide +kernel)
  obtain ⟨h, he, ⟨r, hengine, -⟩, -⟩ := hissue (.inl (by decide))
  have hmoved := next_issued_repeated
  rw [← hw_of_transferUnitIssue he, hengine] at hmoved
  exact absurd (List.cons.inj hmoved).2 (by decide)

end Sys2Proof.Claims

namespace Sys2Proof.Claims

open Sys2Proof.Machine

/-! ### A core that freezes before its line arrives (R233, R471)

A fill finds out whether its core is frozen before it waits for its line. A freeze that takes hold in between lets the line be installed,
while the data of the load that waits for it is held until the thaw, and the load goes on. The premises have the core unfrozen before the
fill, and not when the line arrives. -/

/-- A line of the shared memory of bent 0. -/
def lateLine : Nat := 0x40000000

/-- A miss register that a load of thread 1 waits for, whose line arrives in cycle 1500. -/
def lateMiss : MissReg := { key := lateLine, reqs := [.load 1], data := some (List.replicate 64 0), due := 1500 }

/-- That load. -/
def lateLoad : LoadOp := { dest := .d 2 8 true, pieces := [(64 * lateLine, 8)], got := [], uncached := false, words := 1 }

/-- A core with that miss register and that load. -/
def fillingCore (k : Core) : Core :=
  { k.updThread 1 (fun th => { th with tstate := .running, stall := some .load }) with
    miss := k.miss.set 3 (some lateMiss), loads := k.loads.set 1 (some lateLoad) }

/-- The module after reset with that core, in cycle 1000, in which a freeze of the core is on its way. -/
def freezingState : State :=
  { pending := [], mem := []
    hw := { ({ State.reset.hw with clock := 1000 } : Hw).updCore 0 fillingCore with later := [(1200, .freeze (some 0))] } }

/-- The hardware in which the line has arrived. -/
def freezingArrival : Hw := freezingState.hw.event 1500

/-- The hardware that LINE_FILL leaves. -/
theorem hw_of_lineFill {c : CoreId} {r : Fin 8} {s : State} {h : Hw} (he : exec (.lineFill c r) s = .next { s with hw := h }) :
    h = lineFill c r s.hw := (congrArg State.hw (Host.Outcome.next.inj he)).symm

/-- The load still waits after the fill. -/
theorem loads_lineFill_freezing : ((lineFill 0 3 freezingState.hw).core (0 : CoreId)).loads[(1 : Fin 4)].isSome = true := by
  decide +kernel

/-- Refutes O42: a line that arrives at a core which has frozen since it was asked for does not end the load that waits for it. -/
theorem not_linesAreFilledWrittenBackAndServed : ¬ Obligations.LinesAreFilledWrittenBackAndServed := by
  rintro ⟨hfills, -, -, -⟩
  obtain ⟨-, hloads⟩ := hfills 0 3 lateMiss (List.replicate 64 0) freezingArrival freezingState (by decide +kernel) rfl rfl
    (by decide +kernel) ⟨1500, freezingState.hw, rfl, rfl⟩ (by decide +kernel) (by decide +kernel)
  obtain ⟨v, -, h, he, -, hover, -⟩ := hloads 1 2 8 true (64 * lateLine) 1 lateLoad rfl rfl (by decide) (by decide) (by decide)
    (by decide +kernel) rfl rfl rfl rfl (by decide +kernel) (by decide +kernel)
  have hwaits := loads_lineFill_freezing
  rw [← hw_of_lineFill he, hover] at hwaits
  exact absurd hwaits nofun

end Sys2Proof.Claims

namespace Sys2Proof.Machine

/-! ### The cache on a hit (R231, R232, R237) -/

/-- What replaces the first element that satisfies a test is the first that satisfies it, if it does. -/
theorem find?_updFirst {α : Type} {p : α → Bool} {f : α → α} {l : List α} {a : α} (ha : l.find? p = some a) (hf : p (f a) = true) :
    (updFirst p f l).find? p = some (f a) := by
  induction l with
  | nil => nomatch ha
  | cons x xs ih =>
    rw [List.find?_cons] at ha
    rw [updFirst]
    split at ha
    case h_1 hx =>
      obtain rfl := Option.some.inj ha
      rw [hx, if_pos rfl, List.find?_cons, hf]
    case h_2 hx =>
      rw [hx, if_neg Bool.false_ne_true, List.find?_cons, hx]
      exact ih ha

/-- A line that is found bears its key. -/
theorem Core.key_of_line {k : Core} {key : Nat} {l : CLine} (hl : k.line key = some l) : l.key = key := by
  unfold Core.line at hl
  simpa using List.find?_some hl

/-- A line that has been used stands in its place with the latest stamp. -/
theorem Core.line_touchLine {k : Core} {key : Nat} {l : CLine} (hl : k.line key = some l) :
    (k.touchLine key id).line key = some { l with stamp := k.cacheStamp + 1 } := by
  have hkey := Core.key_of_line hl
  unfold Core.line at hl
  exact find?_updFirst (f := fun l : CLine => { id l with stamp := k.cacheStamp + 1 }) hl (by simp [hkey])

/-- A core whose load has hit a line. -/
def Core.lineHit (k : Core) (key : Nat) : Core := (k.touchLine key id).hit

/-- A load of bytes of a line of the cache. -/
theorem Hw.cachedLoad_hit {h : Hw} {c : CoreId} {loc : Nat} {l : CLine} (hl : (h.core c).line (loc / 64) = some l) (t : Fin 4) (n : Nat) :
    h.cachedLoad c t loc n = (.bytes ((l.data.drop (loc % 64)).take n), h.updCore c (·.lineHit (loc / 64))) := by
  simp only [Hw.cachedLoad, hl]
  rfl

/-- A load through the cache of bytes of one line that is there completes in the slots of a hit (R232). -/
theorem cacheLoad_hit {w : Who} {loc n : Nat} {l : CLine} {h : Hw} (hn : 0 < n) (hline : loc % 64 + n ≤ 64)
    (hc : (h.core w.core).cinv = none) (hl : (h.core w.core).line (loc / 64) = some l) (dest : LoadDest) (words hitSlots : Nat) :
    cacheLoad w loc n false dest words hitSlots h = (.done hitSlots,
      (h.updCore w.core (·.lineHit (loc / 64))).updThread w (·.writeLoad ((l.data.drop (loc % 64)).take n) dest)) := by
  have hload : loadPieces w [(0, loc, n)] h =
      some ([(0, (l.data.drop (loc % 64)).take n)], h.updCore w.core (·.lineHit (loc / 64))) := by
    simp only [loadPieces, Hw.cachedLoad_hit hl]
    rfl
  have hzip : (List.range [(loc, n)].length).zip [(loc, n)] = [(0, loc, n)] := rfl
  have hbytes : ([0].map (fun i => sgetD i [] [(0, (l.data.drop (loc % 64)).take n)])).flatten = (l.data.drop (loc % 64)).take n :=
    List.append_nil _
  rw [cacheLoad, hc, if_neg (by decide), if_neg (by decide), pieces_line hn hline, hzip, hload]
  dsimp only
  rw [if_pos (by rfl), LoadOp.bytes]
  exact congrArg (fun bs => (Ctl.done hitSlots, (h.updCore w.core (·.lineHit (loc / 64))).updThread w (·.writeLoad bs dest))) hbytes

/-- Where an address of the shared memory of the own bent lies (R9). -/
theorem locate_own {c : CoreId} {a n : Nat} (hlo : 0x40000000 ≤ a) (hhi : a + n ≤ 0x80000000) :
    locate c a n = .shared (bentOf c) (a - 0x40000000) := by
  have hs := Claims.spadSize_le c
  unfold locate
  rw [if_neg (by omega), if_pos (by simp; omega)]

/-- A signed load of 8 bytes is their value. -/
theorem writeLoad_whole (th : Thread) (bs : List Byte) (d : Fin 32) :
    th.writeLoad bs (.d d 8 true) = th.setD d (BitVec.ofNat 64 (ofBytes bs)) := by
  rw [Thread.writeLoad, if_pos rfl, Claims.signed_eq (by decide), BitVec.ofInt_toInt]

end Sys2Proof.Machine

namespace Sys2Proof.Claims

open Sys2Proof.Machine

/-! ### A load that hits its line (R157, R232, R237) -/

section
variable {w : Who} {p : Option (BitVec 26)} {u : Thread → Thread} {g : Core → Core} {s : State} {x : Hw}

/-- The thread as an instruction that has changed it and its core leaves it after `n` slots. -/
theorem Issues.reworked_settled_slots (hi : Issues w p s) (hu : KeepsIssue u) (hx : Reworked w u g (slot w s) x) (f : Form) (n : Nat) :
    x.settled w f s.mem (.done n) = ended w f p n s (u ((slot w s).thread w)) := by
  have hpfx : (u ((slot w s).thread w)).pfx = p := (hu.pfx _).trans hi.pfx
  simp [Hw.settled, ended, Thread.settle, Thread.words, issueCycle, hx.isFirst hu, hx.thread_eq, hx.cycle, hpfx]

/-- Such an instruction ends so, and leaves the rest of its core as it has changed it. -/
theorem Issues.reworked_settle_slots (hi : Issues w p s) (hu : KeepsIssue u) (hx : Reworked w u g (slot w s) x) (f : Form) (n : Nat) :
    (x.settle w f s.mem (.done n)).thread w = ended w f p n s (u ((slot w s).thread w)) ∧
      SameCore ((x.settle w f s.mem (.done n)).core w.core) (x.core w.core) := by
  have hend : (x.traceCtl w (.done n)).settled w f s.mem (.done n) = ended w f p n s (u ((slot w s).thread w)) :=
    hi.reworked_settled_slots hu hx f n
  obtain ⟨m, hcore⟩ := Hw.core_settle_unstalled (h := x) (f := f) (m := s.mem) (c := .done n)
    (by rw [hx.thread_eq, hu.stall]; exact hi.unsent) ((congrArg Thread.stall hend).trans (stall_ended_slots f n _))
  refine ⟨?_, ?_⟩
  · rw [Hw.thread, hcore, Core.thread_noted, Core.thread_updThread_self, hend]
  · rw [hcore]
    exact sameCore_updThread_noted ..

/-- As `Issues.reworked_settle_slots`, of the command. -/
theorem Issues.acts_reworked (hi : Issues w p s) {i : Instr} {n : Nat} (ht : p = none ∨ (formOf i).takesPfx = true)
    {body : Option (BitVec 26) → Hw → Ctl × Hw} (he : exec i s = onHw (runInstr w (formOf i) body) s)
    (hb : body p (slot w s) = (.done n, x)) (hu : KeepsIssue u) (hx : Reworked w u g (slot w s) x) :
    Acts i s (fun h => h.thread w = ended w (formOf i) p n s (u ((slot w s).thread w)) ∧ SameCore (h.core w.core) (x.core w.core)) := by
  refine ⟨_, he, ?_⟩
  rw [hi.runInstr ht, hb]
  exact hi.reworked_settle_slots hu hx _ n

end

/-- A hit of a line, and the register that the load writes. -/
def lineLoaded (t : Fin 4) (u : Thread → Thread) (key : Nat) (k : Core) : Core := (k.lineHit key).updThread t u

/-- It counts a hit and no miss, and leaves the eviction buffer. -/
theorem counts_lineLoaded (t : Fin 4) (u : Thread → Thread) (key : Nat) (k : Core) :
    (lineLoaded t u key k).dchits = k.dchits + 1 ∧ (lineLoaded t u key k).dcmisses = k.dcmisses ∧
      (lineLoaded t u key k).evb = k.evb := ⟨rfl, rfl, rfl⟩

/-- It uses the line. -/
theorem line_lineLoaded (t : Fin 4) (u : Thread → Thread) {key : Nat} {k : Core} {l : CLine} (hl : k.line key = some l) :
    (lineLoaded t u key k).line key = some { l with stamp := k.cacheStamp + 1 } := Core.line_touchLine hl

/-- What of the cache is the same in the same core. -/
theorem SameCore.cache {k l : Core} (hk : SameCore k l) :
    k.dchits = l.dchits ∧ k.dcmisses = l.dcmisses ∧ k.evb = l.evb ∧ ∀ key, k.line key = l.line key :=
  ⟨(congrArg Core.dchits hk :), (congrArg Core.dcmisses hk :), (congrArg Core.evb hk :),
    fun key => (congrArg (fun k : Core => k.line key) hk :)⟩

/-- The core after it. -/
theorem core_lineLoaded (w : Who) (u : Thread → Thread) (key : Nat) (h : Hw) :
    ((h.updCore w.core (·.lineHit key)).updThread w u).core w.core = lineLoaded w.thread u key (h.core w.core) := by
  rw [Hw.updThread, Hw.core_updCore_self, Hw.core_updCore_self]
  rfl

/-- That change of the core. -/
theorem reworked_lineLoaded (w : Who) (u : Thread → Thread) (key : Nat) (h : Hw) :
    Reworked w u (lineLoaded w.thread u key) h ((h.updCore w.core (·.lineHit key)).updThread w u) where
  core := congrArg Core.astir (core_lineLoaded ..)
  thread := Core.thread_updThread_self ..
  isegx := rfl
  frozenAt := rfl
  cyc0 := rfl
  cores c hc := by
    rw [Hw.core_updThread_ne _ _ (fun hv => hc (Fin.ext hv)), Hw.core_updCore_ne _ (fun hv => hc (Fin.ext hv))]
  clock := rfl

/-- The bits of 8 bytes of a line. -/
theorem getLsbD_lineBytes {data : List Byte} {off j : Nat} (hj : j < 64) :
    (BitVec.ofNat 64 (ofBytes ((data.drop off).take 8))).getLsbD j = (data.getD (off + j / 8) 0).getLsbD (j % 8) := by
  have hbyte : ((data.drop off).take 8).getD (j / 8) 0 = data.getD (off + j / 8) 0 := by
    rw [List.getD_eq_getElem?_getD, List.getD_eq_getElem?_getD, List.getElem?_take_of_lt (by omega), List.getElem?_drop]
  rw [BitVec.getLsbD_ofNat, decide_eq_true hj, Bool.true_and, testBit_ofBytes, hbyte]

/-- An aligned LD of 8 bytes of the shared memory of the own bent, all in one line that the cache holds. -/
theorem doLoad_hit {w : Who} {a : Nat} {l : CLine} {h : Hw} (halign : a % 8 = 0) (hlo : 0x40000000 ≤ a) (hhi : a + 8 ≤ 0x80000000)
    (hc : (h.core w.core).cinv = none)
    (hl : (h.core w.core).line (locShared (bentOf w.core) (a - 0x40000000) / 64) = some l) (d : Fin 32) (words : Nat) (m : Mem) :
    doLoad w a 8 8 false (.d d 8 true) words 2 m h = (.done 2,
      (h.updCore w.core (·.lineHit (locShared (bentOf w.core) (a - 0x40000000) / 64))).updThread w
        (·.setD d (BitVec.ofNat 64 (ofBytes ((l.data.drop (a % 64)).take 8))))) := by
  have hmod : locShared (bentOf w.core) (a - 0x40000000) % 64 = a % 64 := by
    unfold locShared
    omega
  have hfit : locShared (bentOf w.core) (a - 0x40000000) % 64 + 8 ≤ 64 := by omega
  rw [doLoad, accessCheck, if_neg (by rw [halign]; decide), locate_own hlo hhi]
  dsimp only
  rw [cacheLoad_hit (by decide) hfit hc hl, hmod]
  simp only [writeLoad_whole]

/-- Settles O12: an aligned LD of shared memory goes through the cache, in which one line holds all its bytes. -/
theorem cachedLoadsHitTheirLine : Obligations.CachedLoadsHitTheirLine := by
  intro w p d b off a key l s hi ha halign hlo hhi hkey hcinv hline _
  obtain rfl : key = locShared (bentOf w.core) (a - 0x40000000) / 64 := hkey
  have hbody : doLoad w a (szBytes 6) (szBytes 6) false (.d d (szBytes 6) ((6#3).toNat % 2 == 0)) ((slot w s).thread w).words 2 s.mem
      (slot w s) = _ := doLoad_hit halign hlo hhi hcinv hline d _ s.mem
  obtain ⟨h, he, hthread, hcore⟩ := hi.acts_reworked (i := .ld w d 6 b off false) (.inr rfl) rfl
    (by rw [if_neg (by decide), withAddr_of_addresses ha]; exact hbody) (keepsIssue_setD d _) (reworked_lineLoaded w _ _ _)
  rw [core_lineLoaded] at hcore
  obtain ⟨hhits, hmisses, hevb, hlines⟩ := hcore.cache
  set k := (slot w s).core w.core
  obtain ⟨hhits', hmisses', hevb'⟩ := counts_lineLoaded w.thread
    (·.setD d (BitVec.ofNat 64 (ofBytes ((l.data.drop (a % 64)).take 8)))) (locShared (bentOf w.core) (a - 0x40000000) / 64) k
  exact ⟨_, fun j hj => getLsbD_lineBytes hj, h, he, hthread, hhits.trans hhits', hmisses.trans hmisses',
    (hlines _).trans (line_lineLoaded _ _ hline), hevb.trans hevb'⟩

end Sys2Proof.Claims

namespace Sys2Proof.Machine

/-! ### Canonical memories with the same bytes (log entry 6) -/

/-- A listing of a canonical memory, taken apart. -/
theorem wfFrom_cons {lo a : Nat} {v : Byte} {m : Mem} :
    Memory.wfFrom lo ((a, v) :: m) = true ↔ (lo ≤ a ∧ v ≠ memDefault a) ∧ Memory.wfFrom (a + 1) m = true := by
  simp [Memory.wfFrom]

/-- The bytes of a memory with a first location. -/
theorem memRead_cons (a b : Nat) (v : Byte) (m : Mem) : memRead a ((b, v) :: m) = if b = a then v else memRead a m := by
  unfold memRead
  rw [sget]
  split <;> rfl

/-- Below its first location a canonical memory reads as unwritten. -/
theorem memRead_below {lo a : Nat} {m : Mem} (hm : Memory.wfFrom lo m = true) (ha : a < lo) : memRead a m = memDefault a := by
  induction m generalizing lo with
  | nil => rfl
  | cons q m ih =>
    obtain ⟨b, v⟩ := q
    obtain ⟨⟨hlo, -⟩, hm⟩ := wfFrom_cons.mp hm
    rw [memRead_cons, if_neg (by omega)]
    exact ih hm (by omega)

/-- A canonical memory differs at its first location from one that starts behind it. -/
theorem memRead_first_ne {lo a : Nat} {v : Byte} {m n : Mem} (hm : Memory.wfFrom lo ((a, v) :: m) = true)
    (hn : Memory.wfFrom (a + 1) n = true) : memRead a ((a, v) :: m) ≠ memRead a n := by
  obtain ⟨⟨-, hv⟩, -⟩ := wfFrom_cons.mp hm
  rwa [memRead_cons, if_pos rfl, memRead_below hn (Nat.lt_succ_self a)]

/-- Canonical memories with the same bytes are the same. -/
theorem eq_of_memRead_eq {lo : Nat} {m n : Mem} (hm : Memory.wfFrom lo m = true) (hn : Memory.wfFrom lo n = true)
    (h : ∀ a, memRead a m = memRead a n) : m = n := by
  induction m generalizing lo n with
  | nil =>
    cases n with
    | nil => rfl
    | cons q n => exact absurd (h q.1).symm (memRead_first_ne hn rfl)
  | cons q m ih =>
    obtain ⟨a, v⟩ := q
    cases n with
    | nil => exact absurd (h a) (memRead_first_ne hm rfl)
    | cons q n =>
      obtain ⟨b, u⟩ := q
      obtain ⟨⟨-, hv⟩, hm1⟩ := wfFrom_cons.mp hm
      obtain ⟨⟨-, hu⟩, hn1⟩ := wfFrom_cons.mp hn
      rcases Nat.lt_trichotomy a b with hab | rfl | hab
      · exact absurd (h a) (memRead_first_ne hm (wfFrom_cons.mpr ⟨⟨hab, hu⟩, hn1⟩))
      · have hbyte := h a
        rw [memRead_cons, memRead_cons, if_pos rfl, if_pos rfl] at hbyte
        rw [hbyte, ih hm1 hn1 fun x => ?_]
        by_cases hx : a = x
        · rw [← hx, memRead_below hm1 (Nat.lt_succ_self a), memRead_below hn1 (Nat.lt_succ_self a)]
        · have hrest := h x
          rwa [memRead_cons, memRead_cons, if_neg hx, if_neg hx] at hrest
      · exact absurd (h b).symm (memRead_first_ne hn (wfFrom_cons.mpr ⟨⟨hab, hv⟩, hm1⟩))

/-! ### Accesses of a frame undone and made again (R217) -/

/-- Bytes put back hold what they are put back to, and every other byte is as it was. -/
theorem memRead_putBack {f : Nat → Byte} {u : List (Nat × Byte)} (hu : ∀ q ∈ u, q.2 = f q.1) (a : Nat) (m : Mem) :
    memRead a (putBack u m) = if a ∈ u.map Prod.fst then f a else memRead a m := by
  induction u generalizing m with
  | nil => rfl
  | cons q u ih =>
    have hrest : memRead a (putBack (q :: u) m) = if a ∈ u.map Prod.fst then f a else memRead a (memWrite q.1 q.2 m) :=
      ih (fun r hr => hu r (List.mem_cons_of_mem _ hr)) _
    rw [hrest, List.map_cons]
    by_cases hmem : a ∈ u.map Prod.fst
    · rw [if_pos hmem, if_pos (List.mem_cons_of_mem _ hmem)]
    · rw [if_neg hmem]
      by_cases ha : a = q.1
      · subst ha
        rw [memRead_memWrite_self, hu q List.mem_cons_self, if_pos List.mem_cons_self]
      · rw [memRead_memWrite_ne ha, if_neg (by rw [List.mem_cons]; tauto)]

/-- What an access of a frame does to memory and to the bytes kept for putting back. -/
def FrameAct.mem (x : Mem × List (Nat × Byte)) : FrameAct → Mem × List (Nat × Byte)
  | .write _ loc data => (memWriteN loc data x.1, (List.range data.length).map (fun i => (loc + i, memRead (loc + i) x.1)) ++ x.2)
  | .load _ _ _ _ => x

/-- What several do, one after the other. -/
def memActs (acts : List FrameAct) (x : Mem × List (Nat × Byte)) : Mem × List (Nat × Byte) := acts.foldl FrameAct.mem x

/-- That is what the model does, whatever the loads among them write. -/
theorem foldl_doAct (c : CoreId) (acts : List FrameAct) (m : Mem) (u : List (Nat × Byte)) (h : Hw) :
    ((acts.foldl (doAct c) (m, u, h)).1, (acts.foldl (doAct c) (m, u, h)).2.1) = memActs acts (m, u) := by
  induction acts generalizing m u h with
  | nil => rfl
  | cons a acts ih =>
    cases a with
    | write => exact ih _ _ _
    | load => exact ih _ _ _

/-- A write undone. -/
theorem putBack_write {loc : Nat} {data : List Byte} {m : Mem} (hm : Memory.wf m = true) :
    putBack ((List.range data.length).map (fun i => (loc + i, memRead (loc + i) m))) (memWriteN loc data m) = m := by
  refine eq_of_memRead_eq (wf_putBack _ (wf_memWriteN loc data hm)) hm fun a => ?_
  rw [memRead_putBack (f := fun a => memRead a m) (by simp)]
  split
  case isTrue => rfl
  case isFalse hout =>
    refine memRead_memWriteN_out _ _ ?_
    by_contra hin
    refine hout (List.mem_map.mpr ⟨(a, memRead a m), List.mem_map.mpr ⟨a - loc, List.mem_range.mpr (by omega), ?_⟩, rfl⟩)
    rw [Nat.add_sub_cancel' (by omega)]

/-- An access undone. -/
theorem FrameAct.putBack_mem (a : FrameAct) {x : Mem × List (Nat × Byte)} (hx : Memory.wf x.1 = true) :
    putBack (a.mem x).2 (a.mem x).1 = putBack x.2 x.1 := by
  cases a with
  | write slot loc data =>
    rw [FrameAct.mem, putBack, List.foldl_append]
    exact congrArg (putBack x.2) (putBack_write hx)
  | load => rfl

/-- An access keeps the canonical form. -/
theorem FrameAct.wf_mem (a : FrameAct) {x : Mem × List (Nat × Byte)} (hx : Memory.wf x.1 = true) : Memory.wf (a.mem x).1 = true := by
  cases a with
  | write slot loc data => exact wf_memWriteN loc data hx
  | load => exact hx

/-- Accesses undone. -/
theorem putBack_memActs (acts : List FrameAct) {x : Mem × List (Nat × Byte)} (hx : Memory.wf x.1 = true) :
    putBack (memActs acts x).2 (memActs acts x).1 = putBack x.2 x.1 := by
  induction acts generalizing x with
  | nil => rfl
  | cons a acts ih => exact (ih (a.wf_mem hx)).trans (a.putBack_mem hx)

/-- Accesses made in two parts. -/
theorem memActs_append (l l' : List FrameAct) (x : Mem × List (Nat × Byte)) : memActs (l ++ l') x = memActs l' (memActs l x) :=
  List.foldl_append

/-- An access writes a byte. -/
def FrameAct.Covers (x : FrameAct) (a : Nat) : Prop :=
  match x with
  | .write _ l d => l ≤ a ∧ a < l + d.length
  | .load _ _ _ _ => False

/-- A byte that none of several accesses writes is as it was. -/
theorem memRead_memActs_out {acts : List FrameAct} {a : Nat} (ha : ∀ x ∈ acts, ¬x.Covers a) (x : Mem × List (Nat × Byte)) :
    memRead a (memActs acts x).1 = memRead a x.1 := by
  induction acts generalizing x with
  | nil => rfl
  | cons b acts ih =>
    refine (ih (fun y hy => ha y (List.mem_cons_of_mem _ hy)) _).trans ?_
    have hb := ha b List.mem_cons_self
    cases b with
    | write slot loc data =>
      simp only [FrameAct.Covers] at hb
      exact memRead_memWriteN_out _ _ (by omega)
    | load => rfl

/-- A byte that one of them writes does not depend on what was before. -/
theorem memRead_memActs_in {acts : List FrameAct} {a : Nat} (ha : ∃ x ∈ acts, x.Covers a) (x y : Mem × List (Nat × Byte)) :
    memRead a (memActs acts x).1 = memRead a (memActs acts y).1 := by
  induction acts generalizing x y with
  | nil => simp at ha
  | cons b acts ih =>
    by_cases hlater : ∃ x ∈ acts, x.Covers a
    · exact ih hlater _ _
    · have hout : ∀ x ∈ acts, ¬x.Covers a := fun x hx hc => hlater ⟨x, hx, hc⟩
      have hb : b.Covers a := by
        obtain ⟨z, hz, hc⟩ := ha
        rcases List.mem_cons.mp hz with rfl | hz
        · exact hc
        · exact absurd hc (hout z hz)
      refine (memRead_memActs_out hout _).trans (.trans ?_ (memRead_memActs_out hout _).symm)
      cases b with
      | write slot loc data =>
        obtain ⟨hlo, hhi⟩ := hb
        obtain ⟨k, rfl⟩ := Nat.exists_eq_add_of_le hlo
        have hk : k < data.length := by omega
        exact (memRead_memWriteN_in _ _ hk).trans (memRead_memWriteN_in _ _ hk).symm
      | load => exact hb.elim

/-- The accesses of the slots up to one. -/
def upToSlot (n : Nat) (acts : List FrameAct) : List FrameAct := acts.filter (fun x => decide (x.slot ≤ n))

/-- The accesses of the slots after one. -/
def afterSlot (n : Nat) (acts : List FrameAct) : List FrameAct := acts.filter (fun x => decide (n < x.slot))

/-- An access of a slot put in its place among those of a frame. -/
def putSlot (n : Nat) (a : FrameAct) (acts : List FrameAct) : List FrameAct := upToSlot n acts ++ a :: afterSlot n acts

theorem mem_upToSlot {n : Nat} {acts : List FrameAct} {x : FrameAct} : x ∈ upToSlot n acts ↔ x ∈ acts ∧ x.slot ≤ n := by
  simp [upToSlot]

theorem mem_afterSlot {n : Nat} {acts : List FrameAct} {x : FrameAct} : x ∈ afterSlot n acts ↔ x ∈ acts ∧ n < x.slot := by
  simp [afterSlot]

/-- Accesses listed in slot order, cut at a slot. -/
theorem upToSlot_append_afterSlot {acts : List FrameAct} (hs : acts.Pairwise (fun x y => x.slot ≤ y.slot)) (n : Nat) :
    upToSlot n acts ++ afterSlot n acts = acts := by
  unfold upToSlot afterSlot
  induction acts with
  | nil => rfl
  | cons a acts ih =>
    obtain ⟨ha, hs⟩ := List.pairwise_cons.mp hs
    by_cases hn : a.slot ≤ n
    · rw [List.filter_cons_of_pos (by simpa using hn), List.filter_cons_of_neg (by simpa using hn), List.cons_append, ih hs]
    · have hnone : acts.filter (fun x => decide (x.slot ≤ n)) = [] :=
        List.filter_eq_nil_iff.mpr fun x hx => by simpa using Nat.lt_of_lt_of_le (Nat.not_le.mp hn) (ha x hx)
      have hall : acts.filter (fun x => decide (n < x.slot)) = acts :=
        List.filter_eq_self.mpr fun x hx => by simpa using Nat.lt_of_lt_of_le (Nat.not_le.mp hn) (ha x hx)
      rw [List.filter_cons_of_neg (by simpa using hn), List.filter_cons_of_pos (by simpa using hn), hnone, hall, List.nil_append]

/-- An access put in its place keeps the slot order. -/
theorem pairwise_putSlot {acts : List FrameAct} (hs : acts.Pairwise (fun x y => x.slot ≤ y.slot)) (a : FrameAct) :
    (putSlot a.slot a acts).Pairwise (fun x y => x.slot ≤ y.slot) := by
  refine List.pairwise_append.mpr ⟨hs.filter _, List.pairwise_cons.mpr ⟨fun y hy => ?_, hs.filter _⟩, fun x hx y hy => ?_⟩
  · exact Nat.le_of_lt (mem_afterSlot.mp hy).2
  · have hxa : x.slot ≤ a.slot := (mem_upToSlot.mp hx).2
    rcases List.mem_cons.mp hy with rfl | hy
    · exact hxa
    · exact Nat.le_of_lt (Nat.lt_of_le_of_lt hxa (mem_afterSlot.mp hy).2)

/-- What performing accesses of a frame leaves of the hardware as it was. -/
def FrameKept (c : CoreId) (h h' : Hw) : Prop :=
  h'.clock = h.clock ∧ (h'.core c).frozenAt = (h.core c).frozenAt ∧ (h'.core c).cyc0 = (h.core c).cyc0

/-- An access of a frame leaves the cycle of its core. -/
theorem frameKept_doAct (c : CoreId) (x : Mem × List (Nat × Byte) × Hw) (a : FrameAct) : FrameKept c x.2.2 (doAct c x a).2.2 := by
  cases a with
  | write => exact ⟨rfl, rfl, rfl⟩
  | load t dest loc n =>
    unfold FrameKept doAct Hw.updThread
    rw [Hw.core_updCore_self]
    exact ⟨rfl, rfl, rfl⟩

/-- Several leave it too. -/
theorem frameKept_foldl (c : CoreId) (acts : List FrameAct) (x : Mem × List (Nat × Byte) × Hw) :
    FrameKept c x.2.2 (acts.foldl (doAct c) x).2.2 := by
  induction acts generalizing x with
  | nil => exact ⟨rfl, rfl, rfl⟩
  | cons a acts ih =>
    obtain ⟨hclk, hfro, hcyc⟩ := frameKept_doAct c x a
    obtain ⟨hclk', hfro', hcyc'⟩ := ih (doAct c x a)
    exact ⟨hclk'.trans hclk, hfro'.trans hfro, hcyc'.trans hcyc⟩

/-- A core with its frame set. -/
def Core.withFrame (f : FrameLog) (k : Core) : Core := { k with frame := f }

/-- A core whose cycle is kept, with its frame set. -/
theorem cycle_withFrame {c : CoreId} {h h' : Hw} (hk : FrameKept c h h') (f : FrameLog) :
    (h'.updCore c (Core.withFrame f)).cycle c = h.cycle c := by
  obtain ⟨hclk, hfro, hcyc⟩ := hk
  unfold Hw.cycle
  rw [Hw.core_updCore_self]
  show ((h'.core c).frozenAt.getD h'.clock) - (h'.core c).cyc0 = _
  rw [hfro, hcyc, hclk]

/-- The frame of a core, set, leaves its threads. -/
theorem thread_withFrame (z : Hw) (c : CoreId) (t : Fin 4) (f : FrameLog) :
    (z.updCore c (Core.withFrame f)).thread ⟨c, t⟩ = z.thread ⟨c, t⟩ := by
  unfold Hw.thread
  rw [Hw.core_updCore_self]
  rfl

/-- The accesses of a frame are of that frame. -/
theorem Core.frame_frameLog (k : Core) (n : Nat) : (k.frameLog n).frame = n / 4 := by
  unfold Core.frameLog
  split
  case isTrue h => exact h
  case isFalse => rfl

/-- The frame of a core, set. -/
theorem frameLog_withFrame {c : CoreId} {h z : Hw} (hk : FrameKept c h z) {f : FrameLog} (hf : f.frame = h.cycle c / 4) :
    ((z.updCore c (Core.withFrame f)).core c).frameLog ((z.updCore c (Core.withFrame f)).cycle c) = f := by
  rw [cycle_withFrame hk, Hw.core_updCore_self]
  exact if_pos hf

/-- An access of a frame and those of later slots made again, if there are any (R217). -/
def Hw.made (h : Hw) (c : CoreId) (a : FrameAct) (m : Mem) : Mem × List (Nat × Byte) × Hw :=
  let fr := (h.core c).frameLog (h.cycle c)
  if afterSlot a.slot fr.acts = [] then doAct c (m, fr.undo, h) a
  else (putSlot a.slot a fr.acts).foldl (doAct c) ((h.core c).frameStart (h.cycle c) m, [], h)

/-- That is what the model does. -/
theorem Hw.frameAct_eq (h : Hw) (c : CoreId) (a : FrameAct) (m : Mem) :
    h.frameAct c a m = ((h.made c a m).1, (h.made c a m).2.2.updCore c (Core.withFrame { (h.core c).frameLog (h.cycle c) with
      acts := putSlot a.slot a ((h.core c).frameLog (h.cycle c)).acts, undo := (h.made c a m).2.1 })) := by
  unfold Hw.frameAct
  simp only [List.isEmpty_iff]
  rfl

/-- The accesses made leave the cycle of their core. -/
theorem frameKept_made (c : CoreId) (h : Hw) (a : FrameAct) (m : Mem) : FrameKept c h (h.made c a m).2.2 := by
  unfold Hw.made
  dsimp only
  split
  · exact frameKept_doAct c (m, ((h.core c).frameLog (h.cycle c)).undo, h) a
  · exact frameKept_foldl c _ ((h.core c).frameStart (h.cycle c) m, [], h)

/-- The present frame after an access. -/
theorem frameLog_frameAct (h : Hw) (c : CoreId) (a : FrameAct) (m : Mem) :
    ((h.frameAct c a m).2.core c).frameLog ((h.frameAct c a m).2.cycle c) = { (h.core c).frameLog (h.cycle c) with
      acts := putSlot a.slot a ((h.core c).frameLog (h.cycle c)).acts, undo := (h.made c a m).2.1 } := by
  rw [Hw.frameAct_eq]
  exact frameLog_withFrame (frameKept_made c h a m) (Core.frame_frameLog _ _)

end Sys2Proof.Machine

namespace Sys2Proof.Claims

open Sys2Proof.Machine

/-! ### The frame of a scratchpad (R217) -/

/-- The accesses of a frame, made one after the other from the memory it found, leave the present memory. -/
theorem FrameMade.memActs {c : CoreId} {h : Hw} {m : Mem} (hmade : FrameMade c h m) :
    Machine.memActs ((h.core c).frameLog (h.cycle c)).acts ((h.core c).frameStart (h.cycle c) m, []) =
      (m, ((h.core c).frameLog (h.cycle c)).undo) := by
  obtain ⟨-, hbytes, hundo⟩ := hmade
  exact (foldl_doAct c _ _ [] h).symm.trans (Prod.ext hbytes hundo)

/-- An access made now that is the last of its frame: the accesses with it in its place, made from the memory the frame found. -/
theorem FrameMade.memActs_last {c : CoreId} {h : Hw} {m : Mem} (hmade : FrameMade c h m) {n : Nat}
    (hlast : afterSlot n ((h.core c).frameLog (h.cycle c)).acts = []) (a : FrameAct) :
    Machine.memActs (putSlot n a ((h.core c).frameLog (h.cycle c)).acts) ((h.core c).frameStart (h.cycle c) m, []) =
      a.mem (m, ((h.core c).frameLog (h.cycle c)).undo) := by
  have hcut := upToSlot_append_afterSlot hmade.1 n
  rw [hlast, List.append_nil] at hcut
  rw [putSlot, hlast, hcut, memActs_append, hmade.memActs]
  rfl

/-- An access of a frame made in slot order leaves the bytes of the accesses with it in its place, made from the memory the frame
found (R217). -/
theorem FrameMade.made {c : CoreId} {h : Hw} {m : Mem} (hmade : FrameMade c h m) (a : FrameAct) :
    ((h.made c a m).1, (h.made c a m).2.1) =
      Machine.memActs (putSlot a.slot a ((h.core c).frameLog (h.cycle c)).acts) ((h.core c).frameStart (h.cycle c) m, []) := by
  unfold Hw.made
  dsimp only
  split
  case isTrue hlast =>
    rw [hmade.memActs_last hlast]
    exact foldl_doAct c [a] m _ h
  case isFalse => exact foldl_doAct c _ _ [] h

/-- The memory an access leaves. -/
theorem FrameMade.frameAct_fst {c : CoreId} {h : Hw} {m : Mem} (hmade : FrameMade c h m) {a : FrameAct} {n : Nat} (hn : a.slot = n) :
    (h.frameAct c a m).1 =
      (Machine.memActs (putSlot n a ((h.core c).frameLog (h.cycle c)).acts) ((h.core c).frameStart (h.cycle c) m, [])).1 := by
  rw [Hw.frameAct_eq, ← hn, ← hmade.made a]

/-- A write in a frame is met later by what the accesses of the slots after its own write. -/
theorem writtenLater_iff {c : CoreId} {h : Hw} {s a : Nat} :
    WrittenLater c h s a ↔ ∃ x ∈ afterSlot s ((h.core c).frameLog (h.cycle c)).acts, x.Covers a := by
  refine exists_congr fun x => ?_
  rw [mem_afterSlot, and_assoc]
  refine and_congr_right fun _ => ?_
  cases x with
  | write slot loc data => exact Iff.rfl
  | load t d l n => exact iff_of_false id (fun hx => hx.2)

/-- An access put in its place leaves a frame whose accesses are made. -/
theorem FrameMade.kept {c : CoreId} {h : Hw} {m : Mem} (hm : Memory.wf m = true) (hmade : FrameMade c h m) (a : FrameAct) :
    FrameMade c (h.frameAct c a m).2 (h.frameAct c a m).1 := by
  have hback := putBack_memActs (putSlot a.slot a ((h.core c).frameLog (h.cycle c)).acts)
    (x := ((h.core c).frameStart (h.cycle c) m, [])) (wf_putBack _ hm)
  have hdo := foldl_doAct c (putSlot a.slot a ((h.core c).frameLog (h.cycle c)).acts) ((h.core c).frameStart (h.cycle c) m) []
    (h.frameAct c a m).2
  rw [← hmade.made a] at hback hdo
  unfold FrameMade
  dsimp only
  rw [Core.frameStart, frameLog_frameAct, show (h.frameAct c a m).1 = (h.made c a m).1 from congrArg Prod.fst (Hw.frameAct_eq h c a m)]
  dsimp only at hback ⊢
  rw [hback]
  exact ⟨pairwise_putSlot hmade.1 a, (congrArg Prod.fst hdo :), (congrArg Prod.snd hdo :)⟩

/-- A byte written by a later slot stays as it was. -/
theorem FrameMade.memRead_later {c : CoreId} {h : Hw} {m : Mem} (hmade : FrameMade c h m) {slot loc a : Nat} {data : List Byte}
    (ha : WrittenLater c h slot a) : memRead a (h.frameAct c (.write slot loc data) m).1 = memRead a m := by
  obtain ⟨x, hx, hc⟩ := writtenLater_iff.mp ha
  have hbytes := congrArg (fun x : Mem × List (Nat × Byte) => memRead a x.1) hmade.memActs
  rw [← upToSlot_append_afterSlot hmade.1 slot, memActs_append] at hbytes
  rw [hmade.frameAct_fst (a := .write slot loc data) rfl, putSlot, memActs_append]
  refine .trans ?_ hbytes
  exact memRead_memActs_in (acts := afterSlot slot _) ⟨x, hx, hc⟩ _ _

/-- Every other byte is as the write leaves it. -/
theorem FrameMade.memRead_frameAct {c : CoreId} {h : Hw} {m : Mem} (hmade : FrameMade c h m) {slot loc a : Nat} {data : List Byte}
    (ha : ¬WrittenLater c h slot a) :
    memRead a (h.frameAct c (.write slot loc data) m).1 =
      if loc ≤ a ∧ a < loc + data.length then data.getD (a - loc) 0 else memRead a m := by
  have hout : ∀ x ∈ afterSlot slot ((h.core c).frameLog (h.cycle c)).acts, ¬x.Covers a :=
    fun x hx hc => ha (writtenLater_iff.mpr ⟨x, hx, hc⟩)
  have hbytes := congrArg (fun x : Mem × List (Nat × Byte) => memRead a x.1) hmade.memActs
  rw [← upToSlot_append_afterSlot hmade.1 slot, memActs_append] at hbytes
  have hbefore := (memRead_memActs_out hout _).symm.trans hbytes
  rw [hmade.frameAct_fst (a := .write slot loc data) rfl, putSlot, memActs_append]
  refine (memRead_memActs_out (acts := afterSlot slot _) hout _).trans ?_
  split
  case isTrue hin =>
    obtain ⟨k, rfl⟩ := Nat.exists_eq_add_of_le hin.1
    rw [Nat.add_sub_cancel_left]
    exact memRead_memWriteN_in _ _ (by omega)
  case isFalse hno => exact (memRead_memWriteN_out _ _ (by omega)).trans hbefore

/-- A load without sign writes the number of its bytes. -/
theorem writeLoad_unsigned (th : Thread) (bs : List Byte) (d : Fin 32) (n : Nat) :
    th.writeLoad bs (.d d n false) = th.setD d (BitVec.ofNat 64 (ofBytes bs)) := by
  simp [Thread.writeLoad]

/-- The load of a frame reads again what a write of a slot before its own leaves, and a write of a later slot leaves it as it was. -/
theorem FrameMade.load {c : CoreId} {h : Hw} {m : Mem} (hmade : FrameMade c h m) {slot loc l n : Nat} {data : List Byte} {t : Fin 4}
    {d : Fin 32} (hload : ((h.core c).frameLog (h.cycle c)).acts = [.load t (.d d n false) l n]) :
    (slot < 2 → ((h.frameAct c (.write slot loc data) m).2.thread ⟨c, t⟩).getD d =
      BitVec.ofNat 64 (memNat l n (h.frameAct c (.write slot loc data) m).1)) ∧
    (2 < slot → ((h.frameAct c (.write slot loc data) m).2.thread ⟨c, t⟩).getD d = (h.thread ⟨c, t⟩).getD d) := by
  have hthread : (h.frameAct c (.write slot loc data) m).2.thread ⟨c, t⟩ = (h.made c (.write slot loc data) m).2.2.thread ⟨c, t⟩ := by
    rw [Hw.frameAct_eq]
    exact thread_withFrame _ c t _
  rw [hthread, hmade.frameAct_fst (a := .write slot loc data) rfl, hload, Hw.made, hload]
  refine ⟨fun hs => ?_, fun hs => ?_⟩
  · have hafter : afterSlot slot [.load t (.d d n false) l n] = [.load t (.d d n false) l n] := by
      simp [afterSlot, FrameAct.slot, hs]
    have hupto : upToSlot slot [.load t (.d d n false) l n] = [] :=
      List.filter_eq_nil_iff.mpr fun x hx => by
        rw [List.mem_singleton.mp hx, decide_eq_true_iff]
        exact Nat.not_le.mpr hs
    rw [FrameAct.slot, putSlot, hupto, hafter, if_neg (List.cons_ne_nil _ _)]
    show ((h.updThread ⟨c, t⟩ _).thread ⟨c, t⟩).getD d = _
    rw [Hw.thread_updThread_self, writeLoad_unsigned, Thread.getD_setD_self]
    rfl
  · have hafter : afterSlot slot [.load t (.d d n false) l n] = [] :=
      List.filter_eq_nil_iff.mpr fun x hx => by
        rw [List.mem_singleton.mp hx, decide_eq_true_iff]
        exact Nat.not_lt.mpr (Nat.le_of_lt hs)
    rw [FrameAct.slot, if_pos hafter]
    rfl

/-- R217: the frame of a core's scratchpad goes by slot, whatever the order in which its accesses are made. -/
theorem framesGoBySlot : FramesGoBySlot := fun _ _ _ _ _ _ hm hmade =>
  ⟨hmade.kept hm _, fun _ ha => hmade.memRead_later ha, fun _ ha => hmade.memRead_frameAct ha, fun _ _ _ _ hload => hmade.load hload⟩

end Sys2Proof.Claims

namespace Sys2Proof.Claims

open Sys2Proof.Machine

/-! ### Housing windows (R223) -/

section
variable {w : Who} {sr : Fin 32} {s : State}

/-- A write of HCOMMIT with its bit set. -/
theorem portWrite_hcommit (ag : Agent) (c : CoreId) {v : W32} (hv : v.getLsbD 0 = true) (h : Hw) :
    portWrite ag c 0x320 v h = (.done 1, h.enqueue h.clock (.windows c (h.core c).winShadow)) := by
  rw [← Hw.after_ahead (Nat.le_refl _), show portWrite ag c 0x320 v h = (.done 1, housingWrite c 0x320 v h) from rfl, housingWrite,
    if_pos rfl, if_pos hv]

/-- A write of HCOMMIT with its bit clear. -/
theorem portWrite_hcommit_clear (ag : Agent) (c : CoreId) {v : W32} (hv : v.getLsbD 0 = false) (h : Hw) :
    portWrite ag c 0x320 v h = (.done 1, h) := by
  rw [show portWrite ag c 0x320 v h = (.done 1, housingWrite c 0x320 v h) from rfl, housingWrite, if_pos rfl,
    if_neg (Bool.eq_false_iff.mp hv)]

/-- R223: HCOMMIT makes the shadow windows those of the checks of the cycles after it. -/
theorem housingIsCommitted : HousingIsCommitted := by
  refine ⟨fun w sr s hi ha hm => ⟨fun hv => ?_, fun hv => ?_⟩, fun c ws h => Hw.core_updCore_self ..⟩
  · obtain ⟨t, ht, hc, hl⟩ := hi.outs_reworked (i := .hcommit w sr) (p := 0x0320) (portDenied_false (.inr hm)) ha rfl
      (portWrite_hcommit _ _ hv _) keepsIssue_id (reworked_enqueue w _ _ _)
    refine ⟨t, ht, hc, ?_⟩
    rw [hl, hc.clock]
    exact Hw.mem_enqueue ..
  · exact hi.outs_changed (i := .hcommit w sr) (p := 0x0320) (portDenied_false (.inr hm)) ha rfl
      (portWrite_hcommit_clear _ _ hv _) keepsIssue_id (reworked_id w _)

end

end Sys2Proof.Claims

namespace Sys2Proof.Machine

/-! ### The order in which units are accepted (R218) -/

/-- A least due cycle is no later than the first and than each of the others. -/
theorem foldl_min_due_le (n : Nat) (l : List Unit3) :
    l.foldl (fun n x => min n x.due) n ≤ n ∧ ∀ x ∈ l, l.foldl (fun n x => min n x.due) n ≤ x.due := by
  induction l generalizing n with
  | nil => exact ⟨Nat.le_refl _, fun x hx => absurd hx List.not_mem_nil⟩
  | cons y l ih =>
    obtain ⟨hfirst, hrest⟩ := ih (min n y.due)
    refine ⟨Nat.le_trans hfirst (Nat.min_le_left ..), fun x hx => ?_⟩
    rcases List.mem_cons.mp hx with rfl | hx
    · exact Nat.le_trans hfirst (Nat.min_le_right ..)
    · exact hrest x hx

/-- The order of acceptance. -/
theorem unitOrder_iff {x y : Unit3} :
    unitOrder x y = true ↔ x.injected < y.injected ∨ (x.injected = y.injected ∧ x.src ≤ y.src) := by
  simp [unitOrder]

/-- The unit that stands first is the one injected earliest, of those injected in one cycle that of the lowest source. -/
theorem inOrder_unitOrder_first {l : List Unit3} {u : Unit3} (hu : (inOrder unitOrder l).head? = some u) :
    u ∈ l ∧ ∀ v ∈ l, u.injected < v.injected ∨ (u.injected = v.injected ∧ u.src ≤ v.src) := by
  obtain ⟨rest, hq⟩ := List.head?_eq_some_iff.mp hu
  have htotal : Std.Total (fun x y : Unit3 => unitOrder x y = true) := ⟨fun x y => by rw [unitOrder_iff, unitOrder_iff]; omega⟩
  have htrans : IsTrans Unit3 (fun x y => unitOrder x y = true) :=
    ⟨fun x y z => by rw [unitOrder_iff, unitOrder_iff, unitOrder_iff]; omega⟩
  have hperm : (u :: rest).Perm l := hq ▸ List.perm_insertionSort ..
  have hsorted : (u :: rest).Pairwise (fun x y => unitOrder x y = true) := hq ▸ List.pairwise_insertionSort ..
  refine ⟨hperm.subset List.mem_cons_self, fun v hv => ?_⟩
  rcases List.mem_cons.mp (hperm.symm.subset hv) with rfl | hv
  · exact .inr ⟨rfl, Nat.le_refl _⟩
  · exact unitOrder_iff.mp (List.rel_of_pairwise_cons hsorted hv)

end Sys2Proof.Machine

namespace Sys2Proof.Claims

open Sys2Proof.Machine

/-- The units that wait to be accepted. -/
theorem mem_waiting {k : Core} {u : Unit3} :
    u ∈ k.unitQ.filter (fun u => u.accepted.isNone && u.flit == 0) ↔ u ∈ k.unitQ ∧ Waits u := by
  simp [Waits]

/-- R218: the units of a core are taken in the order of their injection. -/
theorem unitsAreTakenInOrder : UnitsAreTakenInOrder := by
  intro k now t u hnext
  unfold Core.unitNext at hnext
  dsimp only at hnext
  split at hnext
  case h_1 => exact absurd hnext nofun
  case h_2 first rest hwait =>
    obtain ⟨x, hx, hxt⟩ := Option.map_eq_some_iff.mp hnext
    obtain ⟨rfl, rfl⟩ := Prod.mk.inj hxt
    obtain ⟨hleast, hleasts⟩ := foldl_min_due_le first.due rest
    generalize rest.foldl (fun n x => min n x.due) first.due = least at *
    obtain ⟨hmem, hfirst⟩ := inOrder_unitOrder_first hx
    rw [List.mem_filter, mem_waiting, decide_eq_true_iff] at hmem
    obtain ⟨⟨hq, hw⟩, hdue⟩ := hmem
    refine ⟨hq, hw, Nat.le_max_left .., hdue, fun v hv hvw hvdue => ?_, fun hlater v hv hvw => ?_⟩
    · exact hfirst v (List.mem_filter.mpr ⟨mem_waiting.mpr ⟨hv, hvw⟩, decide_eq_true hvdue⟩)
    · have hv : v ∈ first :: rest := hwait ▸ mem_waiting.mpr ⟨hv, hvw⟩
      have hle : least ≤ v.due := by
        rcases List.mem_cons.mp hv with rfl | hv
        · exact hleast
        · exact hleasts v hv
      omega

end Sys2Proof.Claims

namespace Sys2Proof.Machine

/-! ### What the end of a unit leaves (R222, R255) -/

/-- From `h` to `x` the cores and the clock are as they were, and `l` is on its way. -/
structure Beside (l : List (Nat × Later)) (h x : Hw) : Prop where
  cores : x.cores = h.cores
  coreDef : x.coreDef = h.coreDef
  clock : x.clock = h.clock
  later : x.later = l

section
variable {l l' : List (Nat × Later)} {h x y : Hw}

theorem Beside.refl (h : Hw) : Beside h.later h h := ⟨rfl, rfl, rfl, rfl⟩

theorem Beside.trans (hx : Beside l h x) (hy : Beside l' x y) : Beside l' h y :=
  ⟨hy.cores.trans hx.cores, hy.coreDef.trans hx.coreDef, hy.clock.trans hx.clock, hy.later⟩

/-- Each core is as it was. -/
theorem Beside.core (hx : Beside l h x) (c : Nat) : x.core c = h.core c := Hw.core_congr hx.cores hx.coreDef c

/-- An effect of a later cycle is put on its way. -/
theorem beside_after {t : Nat} (ht : h.clock ≤ t) (e : Later) : Beside (h.enqueue t e).later h (h.after t e) := by
  rw [Hw.after_ahead ht]
  exact ⟨rfl, rfl, rfl, rfl⟩

/-- What only the network and the mesh see. -/
theorem Hw.Sends.beside (hx : h.Sends x) : Beside h.later h x := by
  obtain ⟨_, _, _, rfl⟩ := hx
  exact ⟨rfl, rfl, rfl, rfl⟩

/-- An error of the Layout engine. -/
theorem beside_leError (h : Hw) (code cut info : Nat) : Beside h.later h (h.leError code cut info) := by
  unfold Hw.leError
  dsimp only
  split
  · split
    · exact ⟨rfl, rfl, rfl, rfl⟩
    · exact .refl h
  · exact ⟨rfl, rfl, rfl, rfl⟩

/-- A unit of a copy has ended. -/
theorem beside_copySettle (h : Hw) (cut unit code now : Nat) : Beside h.later h (h.copySettle cut unit code now) := by
  have hcut : Beside h.later h (h.updCut cut (·.settle unit code now)) := by
    unfold Hw.updCut
    split
    · exact ⟨rfl, rfl, rfl, rfl⟩
    · exact .refl h
  unfold Hw.copySettle
  dsimp only
  split
  · exact hcut
  · exact hcut.later ▸ hcut.trans (beside_leError _ _ _ _)

/-- A part of a UBT WRITE has ended. -/
theorem beside_ubtPart (h : Hw) (k epoch psn part : Nat) (err : Option Nat) : Beside h.later h (h.ubtPart k epoch psn part err) := by
  unfold Hw.ubtPart
  split
  · split
    · exact ⟨rfl, rfl, rfl, rfl⟩
    · exact .refl h
  · exact .refl h

/-- An ACK of a remote unit. -/
theorem beside_ackRemote (h : Hw) (p : Plate) (smod sgcore : Nat) : Beside h.later h (h.ackRemote p smod sgcore) := by
  unfold Hw.ackRemote Hw.plateRecord Hw.updRecs
  cases p <;> exact ⟨rfl, rfl, rfl, rfl⟩

/-- The credit of an addressed unit. -/
theorem beside_unitCredit (h : Hw) (target core : CoreId) (tenon : Fin 16) (epoch : Nat) (thread : Fin 4) :
    Beside h.later h (h.unitCredit target core tenon epoch thread) := by
  obtain ⟨_, _, heq⟩ := h.post_eq (bentOf target) (bentOf core) 1 (h.clock + 8)
  unfold Hw.unitCredit
  dsimp only
  rw [heq]
  exact ⟨rfl, rfl, rfl, rfl⟩

/-- A unit that has not been performed has ended. -/
theorem beside_settleUnit (h : Hw) (target : CoreId) (o : Origin) {res : Settled} (hres : res ≠ .ok) (now : Nat) :
    Beside h.later h (h.settleUnit target o res now) := by
  cases o with
  | transfer b e req unit => exact ⟨rfl, rfl, rfl, rfl⟩
  | tuple core thread tenon epoch tag =>
    rw [Hw.settleUnit, if_neg hres]
    exact beside_unitCredit ..
  | remoteTuple p tag smod sgcore =>
    rw [Hw.settleUnit, if_neg hres]
    exact beside_ackRemote ..
  | copy cut unit => exact beside_copySettle ..
  | ubt k epoch psn unit => exact beside_ubtPart ..
  | none_ => exact .refl h

/-- The effects on their way after a unit of an origin has been performed: those before, and the event of its tag (R240, R255). -/
def tagged (h : Hw) (target : CoreId) : Origin → List (Nat × Later)
  | .tuple _ _ _ _ tag | .remoteTuple _ tag _ _ => (h.unitTag target tag).later
  | _ => h.later

/-- A unit that has been performed has ended. -/
theorem beside_settleUnit_ok (h : Hw) (target : CoreId) (o : Origin) (now : Nat) :
    Beside (tagged h target o) h (h.settleUnit target o .ok now) := by
  have htag : ∀ tag, Beside (h.unitTag target tag).later h (h.unitTag target tag) := fun tag => by
    have hafter := beside_after (h := h) (Nat.le_succ h.clock) (.events ⟨target, fin 4 (tag.toNat / 16)⟩ (1#16 <<< (tag.toNat % 16)))
    exact ⟨hafter.cores, hafter.coreDef, hafter.clock, rfl⟩
  cases o with
  | transfer b e req unit => exact ⟨rfl, rfl, rfl, rfl⟩
  | tuple core thread tenon epoch tag => exact (htag tag).trans (beside_unitCredit ..)
  | remoteTuple p tag smod sgcore => exact (htag tag).trans (beside_ackRemote ..)
  | copy cut unit => exact beside_copySettle h cut unit Settled.ok.code now
  | ubt k epoch psn unit => exact beside_ubtPart ..
  | none_ => exact .refl h

/-- The effects on their way after a drop at a plate. -/
theorem beside_dropAtPlate (h : Hw) (p : Plate) (c : CoreId) (src off : Nat) :
    Beside (h.enqueue (h.clock + 1) (.source (220 + plateNum p))).later h (h.dropAtPlate p c src off) := by
  have hafter := beside_after (h := h) (Nat.le_succ h.clock) (.source (220 + plateNum p))
  exact hafter.later ▸ hafter.trans (Hw.sends_postEvent ..).beside

/-- The effects on their way after the report of a dropped unit to its sender: those before, and what tells the sender of a tuple
(R222). -/
theorem beside_dropReport (h : Hw) (c : CoreId) (u : Unit3) : ∃ l, Beside l h (h.dropReport c u) ∧ h.later ⊆ l ∧
    (match u.origin with
      | .tuple core _ _ _ _ => (h.clock + 1, .dropOut core (locScratch c u.off)) ∈ l
      | .remoteTuple p _ _ _ => (h.clock + 1, .source (220 + plateNum p)) ∈ l
      | _ => True) := by
  have hput : ∀ e, h.later ⊆ (h.enqueue (h.clock + 1) e).later := fun e _ hx => Hw.mem_enqueue_of_mem hx _ _
  have hsame : Beside h.later h h ∧ h.later ⊆ h.later := ⟨.refl h, List.Subset.refl _⟩
  have hafter : ∀ e, Beside (h.enqueue (h.clock + 1) e).later h (h.after (h.clock + 1) e) := beside_after (Nat.le_succ _)
  unfold Hw.dropReport
  dsimp only
  cases u.origin with
  | transfer b e req unit =>
    dsimp only
    split
    · split
      · exact ⟨_, hafter _, hput _, trivial⟩
      · exact ⟨_, hsame.1, hsame.2, trivial⟩
    · exact ⟨_, hsame.1, hsame.2, trivial⟩
  | tuple core thread tenon epoch tag => exact ⟨_, hafter _, hput _, Hw.mem_enqueue ..⟩
  | remoteTuple p tag smod sgcore => exact ⟨_, beside_dropAtPlate .., hput _, Hw.mem_enqueue ..⟩
  | copy cut unit => exact ⟨_, beside_dropAtPlate .., hput _, trivial⟩
  | ubt k epoch psn unit => exact ⟨_, beside_dropAtPlate .., hput _, trivial⟩
  | none_ => exact ⟨_, hsame.1, hsame.2, trivial⟩

end

/-! ### Units that have all reached their core -/

/-- Nothing is delivered where nothing is awaited. -/
theorem landFirst_nil (h : Hw) (by_ : Option Nat) : h.landFirst [] by_ = none := rfl

/-- Units none of which is in the mesh stay as they are. -/
theorem unitLand_arrived {c : CoreId} {h : Hw} (hq : ∀ v ∈ (h.core c).unitQ, v.flit = 0) (n : Nat) : unitLand c n h = h := by
  have hnone : (h.core c).unitQ.filter (·.flit != 0) = [] := List.filter_eq_nil_iff.mpr fun v hv => by simp [hq v hv]
  cases n with
  | zero => rfl
  | succ n =>
    unfold unitLand
    dsimp only
    rw [hnone, List.map_nil, landFirst_nil]

/-- Units for an instruction memory none of which is in the mesh stay as they are. -/
theorem imemLand_arrived {c : CoreId} {h : Hw} (hq : ∀ v ∈ (h.core c).imemQ, v.flit = 0) (n : Nat) : imemLand c n h = h := by
  have hnone : (h.core c).imemQ.filter (·.flit != 0) = [] := List.filter_eq_nil_iff.mpr fun v hv => by simp [hq v hv]
  cases n with
  | zero => rfl
  | succ n =>
    unfold imemLand
    dsimp only
    rw [hnone, List.map_nil, landFirst_nil]

end Sys2Proof.Machine

namespace Sys2Proof.Claims

open Sys2Proof.Machine

/-! ### Units accepted and dropped (R218, R221, R222, R462) -/

/-- A window admits a source where the bit of the source in its masks is set. -/
theorem masks_iff {x : Window} {src : Nat} :
    x.masks src = true ↔ if src < 32 then x.maskLo.getLsbD src = true else x.maskHi.getLsbD (src - 32) = true := by
  unfold Window.masks
  split
  · rfl
  · split <;> rfl

/-- The check of a unit passes exactly where a window admits it. -/
theorem admits_iff {k : Core} {c : CoreId} {src off n : Nat} : k.admits c src off n = true ↔ Admitted c src off n k := by
  unfold Core.admits Admitted
  rw [Bool.and_eq_true, decide_eq_true_iff, ← Vector.any_toList, List.any_eq_true]
  simp only [Bool.and_eq_true, decide_eq_true_iff, masks_iff]
  refine and_congr_right fun _ => exists_congr fun x => and_congr_right fun _ => ?_
  tauto

/-- The end of a unit returns its credit. -/
theorem unitCredit_settleUnit (h : Hw) (c : CoreId) (u : Unit3) (res : Settled) (now : Nat) :
    UnitCredit c u (h.settleUnit c u.origin res now) := by
  unfold UnitCredit
  cases u.origin with
  | tuple core thread tenon epoch tag =>
    have hcredit : ∀ x : Hw, ∃ z ∈ (x.unitCredit c core tenon epoch thread).credits, z.core = core ∧
        z.tenon = tenon ∧ z.epoch = epoch ∧ z.notice = some thread ∧
        z.due = (x.unitCredit c core tenon epoch thread).clock + tupleLatency c core := fun x => by
      rw [(beside_unitCredit x c core tenon epoch thread).clock]
      exact ⟨_, List.mem_append_right _ List.mem_cons_self, rfl, rfl, rfl, rfl, rfl⟩
    exact hcredit _
  | _ => trivial

/-- A core of which a unit has been taken off. -/
def takenOff (u : Unit3) (t : Nat) (k : Core) : Core := { k with unitQ := k.unitQ.erase u, unitFrom := t + 1 }

/-- The engines of a core that catch up leave the clock. -/
theorem clock_caughtUp (h : Hw) (c : CoreId) : (h.caughtUp c).clock = h.clock :=
  (congrArg Lasting.clock (winds_caughtUp (p := fun _ => True) trivial h).lasting :)

section
variable {c : CoreId} {u : Unit3} {t : Nat} {h : Hw}

/-- The acceptance of the next unit, of units that have all reached their core. -/
theorem slot3UnitAccept_next (hq : ∀ v ∈ (h.core c).unitQ, v.flit = 0)
    (hnext : (h.core c).unitNext (max (h.core c).unitFrom h.clock) = some (u, t)) :
    let x := (h.event t).caughtUp c
    let out := x.updCore c (takenOff u t)
    slot3UnitAccept c h =
      if (x.core c).held then out.settleUnit c u.origin .housing t
      else if u.remote && (u.bad || !(x.core c).admits c u.src u.off u.data.length) then
        ((out.after (t + 1) (.dropIn c u.src u.off)).dropReport c u).settleUnit c u.origin .housing t
      else out.updCore c (fun k => { k with unitQ := k.unitQ ++ [{ u with accepted := some (x.cycle c) }] }) := by
  unfold slot3UnitAccept
  dsimp only
  rw [unitLand_arrived hq, hnext]
  rfl

/-- It takes place in the cycle of its unit. -/
theorem clock_accept (hnext : (h.core c).unitNext (max (h.core c).unitFrom h.clock) = some (u, t)) :
    ((h.event t).caughtUp c).clock = t := by
  obtain ⟨-, -, hnow, -⟩ := unitsAreTakenInOrder _ _ _ _ hnext
  rw [clock_caughtUp, Hw.clock_event]
  exact Nat.max_eq_right (Nat.le_trans (Nat.le_max_right ..) hnow)

end

/-- A unit dropped leaves its core as `takenOff` has it, and its credit returns. -/
theorem taken_settleUnit {l l' : List (Nat × Later)} {c : CoreId} {u : Unit3} {t : Nat} {x z y : Hw}
    (hz : Beside l (x.updCore c (takenOff u t)) z) (hy : Beside l' z y) (hcredit : UnitCredit c u y) :
    (y.core c).unitQ = (x.core c).unitQ.erase u ∧ (y.core c).unitFrom = t + 1 ∧ y.clock = x.clock ∧ UnitCredit c u y := by
  have hcore : y.core c = takenOff u t (x.core c) := ((hz.trans hy).core c).trans (Hw.core_updCore_self ..)
  exact ⟨congrArg Core.unitQ hcore, congrArg Core.unitFrom hcore, (hz.trans hy).clock, hcredit⟩

/-- What a report of a dropped unit changes at its owner and its sender. -/
theorem applyLater_drop (c : CoreId) (src off addr : Nat) (h : Hw) :
    let th := (h.core c).thread 0
    let y := (h.applyLater (.dropIn c src off)).core c
    let z := (h.applyLater (.dropOut c addr)).core c
    y.thread 0 = { th with ipend := th.ipend ||| 0x100 } ∧
    y.hrdrop = (if th.ipend.getLsbD 8 then (h.core c).hrdrop ||| 0x80000000
      else BitVec.ofNat 32 (src * 2 ^ 25 + off % 2 ^ 21)) ∧
    z.thread 0 = { th with ipend := th.ipend ||| 0x080 } ∧
    z.hsdrop = (if th.ipend.getLsbD 7 then (h.core c).hsdrop else BitVec.ofNat 48 addr) ∧
    z.hsdropMore = th.ipend.getLsbD 7 := by
  intro th y z
  have hy : y = (if th.ipend.getLsbD 8 then { h.core c with hrdrop := (h.core c).hrdrop ||| 0x80000000#32 }
      else { h.core c with hrdrop := w32 (src * 2 ^ 25 + off % 2 ^ 21) } : Core).updThread 0
        (fun th => { th with ipend := th.ipend ||| 0x100 }) := by
    show ((h.dropIn c src off).core c) = _
    rw [Hw.dropIn, Hw.raiseIpend, Hw.updThread, Hw.core_updCore_self, Hw.core_updCore_self]
    rfl
  have hz : z = (if th.ipend.getLsbD 7 then { h.core c with hsdropMore := true }
      else { h.core c with hsdrop := BitVec.ofNat 48 addr, hsdropMore := false } : Core).updThread 0
        (fun th => { th with ipend := th.ipend ||| 0x080 }) := by
    show ((h.dropOut c addr).core c) = _
    rw [Hw.dropOut, Hw.raiseIpend, Hw.updThread, Hw.core_updCore_self, Hw.core_updCore_self]
    rfl
  refine ⟨?_, ?_, ?_, ?_, ?_⟩
  · rw [hy, Core.thread_updThread_self]
    split <;> rfl
  · rw [hy]
    split <;> rfl
  · rw [hz, Core.thread_updThread_self]
    split <;> rfl
  · rw [hz]
    split <;> rfl
  · rw [hz]
    cases th.ipend.getLsbD 7 <;> rfl

/-- R218, R221, R222, R462: the next unit is accepted or dropped. -/
theorem unitsAreAcceptedOrDropped : UnitsAreAcceptedOrDropped := by
  refine ⟨fun c u t s => ?_, applyLater_drop⟩
  intro k hq hfrozen hnext x y taken
  have haccept := slot3UnitAccept_next hq hnext
  dsimp only at haccept
  have hclock : x.clock = t := clock_accept hnext
  refine ⟨fun hheld hok => ?_, fun hheld hremote hno => ?_, fun hheld => ?_⟩
  · have hpass : (u.remote && (u.bad || !(x.core c).admits c u.src u.off u.data.length)) = false := by
      rcases hok with hlocal | ⟨hbad, hadm⟩
      · rw [hlocal, Bool.false_and]
      · rw [hbad, admits_iff.mpr hadm, Bool.not_true, Bool.or_self, Bool.and_false]
    rw [if_neg (Bool.eq_false_iff.mp hheld), if_neg (Bool.eq_false_iff.mp hpass)] at haccept
    refine acts_of rfl haccept ?_
    rw [Hw.core_updCore_self, Hw.core_updCore_self]
    exact ⟨rfl, rfl, rfl, rfl, rfl⟩
  · have hfail : (u.remote && (u.bad || !(x.core c).admits c u.src u.off u.data.length)) = true := by
      rw [hremote, Bool.true_and, Bool.or_eq_true, Bool.not_eq_true', Bool.eq_false_iff, Ne, admits_iff]
      exact hno
    rw [if_neg (Bool.eq_false_iff.mp hheld), if_pos hfail] at haccept
    refine acts_of rfl haccept ?_
    have hdue : (x.updCore c (takenOff u t)).clock ≤ t + 1 := Nat.le_of_lt (Nat.lt_succ_of_le (Nat.le_of_eq hclock))
    have hin := beside_after hdue (.dropIn c u.src u.off)
    obtain ⟨l, hout, hkept, hsender⟩ := beside_dropReport ((x.updCore c (takenOff u t)).after (t + 1) (.dropIn c u.src u.off)) c u
    have hend := beside_settleUnit (((x.updCore c (takenOff u t)).after (t + 1) (.dropIn c u.src u.off)).dropReport c u) c u.origin
      (res := .housing) nofun t
    have htaken := taken_settleUnit (hin.trans hout) hend (unitCredit_settleUnit ..)
    obtain ⟨-, -, hclk, -⟩ := id htaken
    have hlater := hend.later.trans hout.later
    rw [hin.clock, show (x.updCore c (takenOff u t)).clock = t from hclock] at hsender
    refine ⟨htaken, ?_, ?_⟩
    · rw [Follows, hclk, hclock, hlater]
      refine hkept ?_
      rw [hin.later]
      exact Hw.mem_enqueue ..
    · unfold Follows
      rw [hclk, hclock, hlater]
      split
      case h_1 ho => rw [ho] at hsender; exact hsender
      case h_2 ho => rw [ho] at hsender; exact hsender
      case h_3 ho => rw [ho] at hsender; exact hsender
      case h_4 => trivial
  · rw [if_pos hheld] at haccept
    refine acts_of rfl haccept ?_
    have hend := beside_settleUnit (x.updCore c (takenOff u t)) c u.origin (res := .housing) nofun t
    exact ⟨taken_settleUnit (.refl _) hend (unitCredit_settleUnit ..), hend.later⟩

end Sys2Proof.Claims


namespace Sys2Proof.Machine

/-! ### The last access of a frame (R217) -/

/-- A write in a frame none of whose accesses is of a later slot is made on the present memory. -/
theorem frameAct_write_last {h : Hw} {c : CoreId} {slot : Nat}
    (hlast : ∀ f ∈ ((h.core c).frameLog (h.cycle c)).acts, f.slot ≤ slot) (loc : Nat) (data : List Byte) (m : Mem) :
    ∃ f, h.frameAct c (.write slot loc data) m = (memWriteN loc data m, h.updCore c (Core.withFrame f)) := by
  have hnone : afterSlot (FrameAct.write slot loc data).slot ((h.core c).frameLog (h.cycle c)).acts = [] :=
    List.filter_eq_nil_iff.mpr fun x hx => by
      rw [decide_eq_true_iff]
      exact Nat.not_lt.mpr (hlast x hx)
  rw [Hw.frameAct_eq, Hw.made, if_pos hnone]
  exact ⟨_, rfl⟩

/-- An event of a core is in no earlier cycle than it is to be. -/
theorem clock_coreEvent (h : Hw) (c : CoreId) (cyc : Nat) : (h.coreEvent c cyc).clock = max h.clock ((h.core c).cyc0 + cyc) :=
  (Claims.clock_caughtUp _ c).trans (Hw.clock_event h _)

end Sys2Proof.Machine

namespace Sys2Proof.Claims

open Sys2Proof.Machine

/-! ### Units written (R217, R218, R227, R255) -/

/-- Bytes that are written are there, and the others are as they were. -/
theorem written_memWriteN (loc : Nat) (bs : List Byte) (m : Mem) : Written loc bs m (memWriteN loc bs m) :=
  ⟨fun _ hn => memRead_memWriteN_in _ _ hn, fun _ ha => memRead_memWriteN_out _ _ ha⟩

/-- A command on memory and hardware whose result is known. -/
theorem yields_onMem {i : Instr} {s : State} {f : Mem → Hw → Mem × Hw} {m : Mem} {x : Hw} (he : exec i s = onMem f s)
    (hf : f s.mem s.hw = (m, x)) {P : State → Prop} (hp : P { s with mem := m, hw := x }) : Yields i s P :=
  ⟨_, by rw [he, onMem, hf], hp⟩

/-- A core without a unit. -/
def withoutUnit (u : Unit3) (k : Core) : Core := { k with unitQ := k.unitQ.erase u }

/-- An accepted unit is written in slot 3 of its core, where no access of a later slot has been made. -/
theorem slot3UnitWrite_write {c : CoreId} {u : Unit3} {a : Nat} {m : Mem} {h : Hw}
    (hfind : (h.core c).unitQ.find? (·.accepted.isSome) = some u) (hacc : u.accepted = some a) (hreads : u.reads = 0)
    (hfrozen : (h.core c).frozenAt = none) (hrow : (h.core c).rowDue c (max (4 * (a / 4 + 1) + 3) (h.cycle c)) = false)
    (hlast : let x := h.coreEvent c (4 * (a / 4 + 1) + 3); ∀ f ∈ ((x.core c).frameLog (x.cycle c)).acts, f.slot ≤ 3) :
    let x := h.coreEvent c (4 * (a / 4 + 1) + 3)
    ∃ f, slot3UnitWrite c m h = (memWriteN (locScratch c u.off) u.data m,
      ((x.updCore c (withoutUnit u)).updCore c (Core.withFrame f)).settleUnit c u.origin .ok x.clock) := by
  intro x
  have hsame : ((x.updCore c (withoutUnit u)).core c).frameLog ((x.updCore c (withoutUnit u)).cycle c) =
      (x.core c).frameLog (x.cycle c) := by
    rw [Hw.cycle, Hw.core_updCore_self]
    rfl
  obtain ⟨f, hf⟩ := frameAct_write_last (h := x.updCore c (withoutUnit u)) (slot := 3) (by rw [hsame]; exact hlast)
    (locScratch c u.off) u.data m
  refine ⟨f, ?_⟩
  have hgo : ((h.core c).frozenAt.isSome || (h.core c).rowDue c (max (4 * (a / 4 + 1) + 3) (h.cycle c))) = false := by
    rw [hfrozen, hrow]
    rfl
  unfold slot3UnitWrite
  dsimp only
  rw [hfind]
  dsimp only
  rw [hacc, Option.getD_some, hgo, if_neg Bool.false_ne_true, if_pos hreads]
  exact congrArg (fun r : Mem × Hw => (r.1, r.2.settleUnit c u.origin .ok x.clock)) hf

/-- R217, R218, R255: an accepted unit is written whole. -/
theorem scratchUnit_written (c : CoreId) (u : Unit3) (a : Nat) (s : State)
    (hfind : (s.hw.core c).unitQ.find? (·.accepted.isSome) = some u) (hacc : u.accepted = some a) (hreads : u.reads = 0)
    (hfrozen : (s.hw.core c).frozenAt = none)
    (hrow : (s.hw.core c).rowDue c (max (4 * (a / 4 + 1) + 3) (s.hw.cycle c)) = false)
    (hlast : let x := s.hw.coreEvent c (4 * (a / 4 + 1) + 3); ∀ f ∈ ((x.core c).frameLog (x.cycle c)).acts, f.slot ≤ 3) :
    let x := s.hw.coreEvent c (4 * (a / 4 + 1) + 3)
    Yields (.slot3UnitWrite c) s (fun t => Written (locScratch c u.off) u.data s.mem t.mem ∧
      (t.hw.core c).unitQ = (x.core c).unitQ.erase u ∧
      t.hw.clock = max s.hw.clock ((s.hw.core c).cyc0 + (4 * (a / 4 + 1) + 3)) ∧
      UnitCredit c u t.hw ∧
      (match u.origin with
        | .tuple _ _ _ _ tag | .remoteTuple _ tag _ _ =>
          Follows t.hw t.hw.clock (.events ⟨c, Fin.ofNat 4 (tag.toNat / 16)⟩ (1 <<< (tag.toNat % 16)))
        | _ => True)) := by
  intro x
  obtain ⟨f, hf⟩ := slot3UnitWrite_write (m := s.mem) hfind hacc hreads hfrozen hrow hlast
  have hend := beside_settleUnit_ok ((x.updCore c (withoutUnit u)).updCore c (Core.withFrame f)) c u.origin x.clock
  have hcore := hend.core c
  rw [Hw.core_updCore_self, Hw.core_updCore_self] at hcore
  refine yields_onMem rfl hf ⟨written_memWriteN .., congrArg Core.unitQ hcore, hend.clock.trans (clock_coreEvent ..),
    unitCredit_settleUnit .., ?_⟩
  unfold Follows
  dsimp only
  rw [hend.clock, hend.later]
  cases u.origin with
  | tuple core thread tenon epoch tag => exact Hw.mem_after (Nat.le_succ _) _
  | remoteTuple p tag smod sgcore => exact Hw.mem_after (Nat.le_succ _) _
  | _ => trivial

/-- A core without a unit for its instruction memory. -/
def imemTakenOff (u : ImemUnit) (t : Nat) (k : Core) : Core := { k with imemQ := k.imemQ.erase u, imemFrom := t + 1 }

/-- The one unit for an instruction memory is next. -/
theorem imemNext_one {k : Core} {u : ImemUnit} (hq : k.imemQ = [u]) (hflit : u.flit = 0) (from_ : Nat) :
    k.imemNext from_ = some (u, max from_ u.due) := by
  have hone : k.imemQ.filter (·.flit == 0) = [u] := by rw [hq]; exact List.filter_cons_of_pos (beq_iff_eq.mpr hflit)
  have hdue : [u].filter (fun x => decide (x.due ≤ max from_ u.due)) = [u] :=
    List.filter_cons_of_pos (decide_eq_true (Nat.le_max_right ..))
  unfold Core.imemNext
  rw [hone]
  show (inOrder _ ([u].filter (fun x => decide (x.due ≤ max from_ u.due)))).head?.map _ = _
  rw [hdue]
  rfl

/-- The one unit for an instruction memory is written, or discarded under reset. -/
theorem imemUnitWrite_one {c : CoreId} {u : ImemUnit} {m : Mem} {h : Hw} (hq : (h.core c).imemQ = [u]) (hflit : u.flit = 0) :
    let t := max (max (h.core c).imemFrom h.clock) u.due
    let x := h.event t
    let out := x.updCore c (imemTakenOff u t)
    imemUnitWrite c m h = if (x.core c).held then (m, out.settleUnit c u.origin .housing t)
      else (memWriteN (locImem c u.addr) u.data m, out.settleUnit c u.origin .ok t) := by
  intro t x out
  have hheld : (out.core c).held = (x.core c).held := by
    rw [show out.core c = imemTakenOff u t (x.core c) from Hw.core_updCore_self ..]
    rfl
  unfold imemUnitWrite
  dsimp only
  rw [imemLand_arrived (fun v hv => by rw [hq] at hv; rw [List.mem_singleton.mp hv, hflit]), imemNext_one hq hflit, ← hheld]
  rfl

/-- R217, R218, R227, R255: accepted units are written. -/
theorem unitsAreWritten : UnitsAreWritten := by
  refine ⟨scratchUnit_written, fun c u s hq hflit => ?_⟩
  intro x
  have hwrite := imemUnitWrite_one (m := s.mem) hq hflit
  dsimp only at hwrite
  refine ⟨fun hheld => ?_, fun hheld => ?_⟩
  · rw [if_neg (Bool.eq_false_iff.mp hheld)] at hwrite
    have hend := fun t => beside_settleUnit_ok (x.updCore c (imemTakenOff u t)) c u.origin t
    have hcore := fun t => ((hend t).core c).trans (Hw.core_updCore_self ..)
    exact yields_onMem rfl hwrite ⟨written_memWriteN .., congrArg Core.imemQ (hcore _), (hend _).clock⟩
  · rw [if_pos hheld] at hwrite
    have hend := fun t => beside_settleUnit (x.updCore c (imemTakenOff u t)) c u.origin (res := .housing) nofun t
    have hcore := fun t => ((hend t).core c).trans (Hw.core_updCore_self ..)
    exact yields_onMem rfl hwrite ⟨rfl, congrArg Core.imemQ (hcore _)⟩

/-- Settles O40: the frame goes by slot, and units are taken in order, checked, and written or dropped. -/
theorem housingUnitsAreAcceptedAndWritten : Obligations.HousingUnitsAreAcceptedAndWritten :=
  ⟨framesGoBySlot, housingIsCommitted, unitsAreTakenInOrder, unitsAreAcceptedOrDropped, unitsAreWritten⟩

end Sys2Proof.Claims
